-- ==== Sys2Proof/Word.lean ====
section
/-!
DEFINITION. Word types of the VZ-768 model and their plainest arithmetic (R9, R12).
-/

namespace Sys2Proof

/-- One byte of any memory or message. -/
abbrev Byte := BitVec 8

/-- A register of the register space (Table of sizes, chapter 0). -/
abbrev W32 := BitVec 32

/-- A scalar register, an a register or a control register (R58). -/
abbrev W64 := BitVec 64

/-- A DAF96 element (R49). -/
abbrev W96 := BitVec 96

/-- A DAF96 datum: a signed 10-bit integer (R49). -/
abbrev Datum := BitVec 10

/-- 1 for true and 0 for false, in any width. -/
def ofBool {w : Nat} (b : Bool) : BitVec w := if b then 1 else 0

end Sys2Proof
end

