-- ==== Sys2Proof/Syntax.lean ====
section
/-!
DEFINITION. The commands of the VZ-768: one constructor of Instr per row of spec/opcode_table.json, and their operands.
A core instruction carries the core and context that issue it and the fields of its word (R63);
an event carries the unit it happens in and what reaches the module from outside in it.
-/

namespace Sys2Proof

/-- The fields of a 64-bit core instruction below CLASS and OP (R63, Table 3-3), with the logical core and the
context slot whose program holds it. CLASS and OP are the constructor's. See log 1 [DESIGN CHOICE]. -/
structure Enc where
  core : Nat
  ctx : Nat
  rd : BitVec 5
  ra : BitVec 5
  rb : BitVec 5
  md : BitVec 7
  imm : BitVec 32
  deriving DecidableEq, Repr

/-- A source of register writes (R372): a host port, the Lodge, or a die's Gatehouse. -/
inductive Src where
  | host (port : Nat)
  | lodge
  | gatehouse (die : Nat)
  deriving DecidableEq, Repr

/-- A requester of dictionary requests (R348, R359): a source address of the management segment, or a host window. -/
inductive Requester where
  | mgmt (addr : Nat)
  | hostWin (port : Nat)
  deriving DecidableEq, Repr

/-- A fault in one lane of one array: the bits of its result that a broken lane turns (R119). No fault, no entry. -/
structure LaneFlip where
  arr : Nat
  lane : Nat
  bits : BitVec 32
  deriving DecidableEq, Repr

/-- One symbol of a codeword read wrongly, and the bits turned in it (R216). -/
structure SymErr where
  pos : Nat
  bits : Byte
  deriving DecidableEq, Repr

/-- Where a row with a tally lies (R220): a site's terrace or a far-memory port. -/
inductive RowPlace where
  | terrace (site : Nat)
  | far (port : Nat)
  deriving DecidableEq, Repr

/-- What was about to use an uncorrectable value, by the rows of Table 8-4 (R228), and the handling path (R237). -/
inductive UncUse where
  | fetch (core ctx : Nat)
  | copy (core ch : Nat)
  | arith (core : Nat)
  | updateArith (core : Nat)
  | hostRead (port : Nat)
  | scrub
  | handlingPath
  deriving DecidableEq, Repr

/-- An uncorrectable error as its detector reports it: class, place, address, detail (Table 8-5) and use (Table 8-4). -/
structure UncErr where
  cls : Nat
  locKind : Nat
  locNum : Nat
  addr : Nat
  detail : Nat
  use : UncUse
  deriving DecidableEq, Repr

/-- What a Groundskeeper reads (R230): a terrace word or a far line, and the bits it finds wrong. -/
inductive ScrubTarget where
  | word (site idx badBits : Nat)
  | line (addr : Nat) (errs : List SymErr)
  deriving DecidableEq, Repr

/-- The link events of R317. -/
inductive LinkEvent where
  | linkDown
  | hotReset
  | cxlReset
  | d3hot
  deriving DecidableEq, Repr

/-- How a step ends without its mark (R339). -/
inductive StepEnd where
  | checkpoint
  | placement
  | failStop
  deriving DecidableEq, Repr

/-- The filtered discrete inputs (R401, R437). -/
inductive Pin where
  | resetN
  | fenceN
  | pwrWarnN
  | perstN (port : Nat)
  deriving DecidableEq, Repr

/-- The events that a NOTIFY reports (NOTIFY_MASK, Table 12-9). -/
inductive Event where
  | incident (seqNo : Nat)
  | twinState
  | alert
  | pclState (p : Nat)
  deriving DecidableEq, Repr

/-- The commands: one constructor per row of spec/opcode_table.json, in the table's order. -/
inductive Instr where
  /-- Scalar add of s[RA] and operand b into s[RD] (R70). -/
  | add (e : Enc)
  /-- Scalar subtract of operand b from s[RA] into s[RD] (R70). -/
  | sub (e : Enc)
  /-- Scalar bitwise AND of s[RA] with operand b (R70). -/
  | and (e : Enc)
  /-- Scalar bitwise OR of s[RA] with operand b (R70). -/
  | or (e : Enc)
  /-- Scalar bitwise XOR of s[RA] with operand b (R70). -/
  | xor (e : Enc)
  /-- Scalar logical left shift of s[RA] by b[5:0] (R70). -/
  | sll (e : Enc)
  /-- Scalar logical right shift of s[RA] by b[5:0] (R70). -/
  | srl (e : Enc)
  /-- Scalar arithmetic right shift of s[RA] by b[5:0] (R70). -/
  | sra (e : Enc)
  /-- Low 64 bits of s[RA] times operand b (R70). -/
  | mul (e : Enc)
  /-- High 64 bits of the signed product (R70). -/
  | mulhs (e : Enc)
  /-- High 64 bits of the unsigned product (R70). -/
  | mulhu (e : Enc)
  /-- Signed minimum of s[RA] and operand b (R70). -/
  | min (e : Enc)
  /-- Signed maximum of s[RA] and operand b (R70). -/
  | max (e : Enc)
  /-- Sets s[RD] to 1 if s[RA] is less than b, signed (R70). -/
  | slt (e : Enc)
  /-- Sets s[RD] to 1 if s[RA] is less than b, unsigned (R70). -/
  | sltu (e : Enc)
  /-- Sets s[RD] to 1 if s[RA] equals b (R70). -/
  | seq (e : Enc)
  /-- Loads IMM into the upper 32 bits of s[RD] (R70). -/
  | lih (e : Enc)
  /-- Sets a[RD] to s[RA] plus b (R70). -/
  | mova (e : Enc)
  /-- Copies a[RA] into s[RD] (R70). -/
  | movs (e : Enc)
  /-- Sets a[RD] to a[RA] plus b (R70). -/
  | adda (e : Enc)
  /-- Loads 1 to 8 bytes from a core address into s[RD], possibly descheduling the context on a far or remote access (R71). -/
  | ld (e : Enc)
  /-- Posts a store of s[RB] to a core address (R71). -/
  | st (e : Enc)
  /-- Data of a switch-eligible load arrives, the register is written and the waiting context becomes READY (R62). -/
  | loadDataArrival (core ctx : Nat)
  /-- Unconditional branch to PC + 8 × IMM (R72). -/
  | br (e : Enc)
  /-- Branch if s[RA] is zero (R72). -/
  | bz (e : Enc)
  /-- Branch if s[RA] is nonzero (R72). -/
  | bnz (e : Enc)
  /-- Branch if s[RA] is less than s[RB], signed (R72). -/
  | blt (e : Enc)
  /-- Branch if s[RA] is greater than or equal to s[RB], signed (R72). -/
  | bge (e : Enc)
  /-- Stores the return address in s[RD] and branches (R72). -/
  | jal (e : Enc)
  /-- Jumps to s[RA], trapping if it is misaligned or outside own near memory (R72). -/
  | jr (e : Enc)
  /-- Reads a control register into s[RD] (R68). -/
  | rdcr (e : Enc)
  /-- Writes s[RA] to a control register, with register-specific checks and traps (R68). -/
  | wrcr (e : Enc)
  /-- Gives up the issue slot; the context stays READY (R61). -/
  | yield (e : Enc)
  /-- Ends the program, reports the exit code and makes the context IDLE, releasing its arrays and Cairn ownership (R72). -/
  | halt (e : Enc)
  /-- Raises the software trap with TRAPVAL = IMM (R67). -/
  | swTrap (e : Enc)
  /-- The issuing context has issued 64 instructions since another became READY and gives up the slot (R61). -/
  | quantumExpiry (core : Nat)
  /-- A stall in place that has lasted 16 bed cycles becomes switch-eligible and the context is descheduled (R60). -/
  | stallBecomesSwitchEligible (core ctx : Nat)
  /-- The core chooses the next READY context in rotation, which issues in the second bed cycle after the last issue (R61). -/
  | contextSelect (core : Nat)
  /-- Adds 1 to a beacon once the context's earlier stores are performed (R73). -/
  | arrive (e : Enc)
  /-- Adds s[RA][31:0] to a beacon once earlier stores are performed (R73). -/
  | beaconAdd (e : Enc)
  /-- Sets a beacon to s[RA][31:0] once earlier stores are performed (R73). -/
  | beaconSet (e : Enc)
  /-- Sends a wait to the beacon root and deschedules the context until the count is met (R265). -/
  | beaconWait (e : Enc)
  /-- An update or wait message reaches the beacon root, updates the counter and wakes waiters whose counts are met (R264). -/
  | beaconMessageAtRoot (n : Nat)
  /-- A wait reply reaches a site and the waiting context becomes READY 2 bed cycles later (R262). -/
  | beaconWake (core ctx : Nat)
  /-- Queues a copy descriptor on one of the context's channels, capturing MSEED (R78). -/
  | cpy (e : Enc)
  /-- Waits until a channel is idle or halted and returns its status word (R78). -/
  | cpyw (e : Enc)
  /-- Returns a channel's status word without waiting (R82). -/
  | cpyq (e : Enc)
  /-- Discards a channel's queue and returns it from halted to idle (R78). -/
  | cpyclr (e : Enc)
  /-- A channel reads and checks its next descriptor and begins it, halting on a descriptor error (R79). -/
  | copyDescriptorStart (core ch : Nat)
  /-- A channel reads a source row or tile and writes destination rows, converting or transposing as its mode says (R207). -/
  | copyRow (core ch : Nat)
  /-- The last write of a descriptor is performed and any tail ARRIVE is made (R81). -/
  | copyDescriptorComplete (core ch : Nat)
  /-- Lane-wise FP32 addition (R84). -/
  | vadd (e : Enc)
  /-- Lane-wise FP32 subtraction (R84). -/
  | vsub (e : Enc)
  /-- Lane-wise FP32 multiplication (R84). -/
  | vmul (e : Enc)
  /-- Lane-wise fused multiply-add with one rounding (R84). -/
  | vfma (e : Enc)
  /-- Lane-wise maximum (R84). -/
  | vmax (e : Enc)
  /-- Lane-wise minimum (R84). -/
  | vmin (e : Enc)
  /-- Lane-wise absolute value by the sign bit (R84). -/
  | vabs (e : Enc)
  /-- Lane-wise negation by the sign bit (R84). -/
  | vneg (e : Enc)
  /-- Correctly rounded lane-wise reciprocal (R84). -/
  | vrcp (e : Enc)
  /-- Correctly rounded lane-wise square root (R84). -/
  | vsqrt (e : Enc)
  /-- Correctly rounded lane-wise reciprocal square root (R84). -/
  | vrsqrt (e : Enc)
  /-- Correctly rounded lane-wise 2 to the power x (R84). -/
  | vexp2 (e : Enc)
  /-- Correctly rounded lane-wise base-2 logarithm (R84). -/
  | vlog2 (e : Enc)
  /-- Lane-wise select on v[RC] (R84). -/
  | vsel (e : Enc)
  /-- Lane-wise less-than giving 1.0 or 0.0 (R84). -/
  | vcmplt (e : Enc)
  /-- Fixed-tree sum of 64 lanes into lane 0 (R85). -/
  | vrsum (e : Enc)
  /-- Maximum of 64 lanes into lane 0 (R84). -/
  | vrmax (e : Enc)
  /-- Loads 256 bytes from near memory or the local terrace into a vector register (R84). -/
  | vld (e : Enc)
  /-- Stores a vector register to near memory or the local terrace (R84). -/
  | vst (e : Enc)
  /-- Broadcasts s[RA][31:0] to every lane (R84). -/
  | vbcast (e : Enc)
  /-- Moves one lane of a vector register to s[RD] (R84). -/
  | vmovs (e : Enc)
  /-- Converts lanes between formats, including into, out of and between DAF96 datums (R87). -/
  | vcvt (e : Enc)
  /-- Adds two DAF96 triples exactly, trapping if their datum tags differ (R86). -/
  | vdadd (e : Enc)
  /-- Lane-wise INT32 addition modulo 2^32 (R84). -/
  | viadd (e : Enc)
  /-- Loads a 768-byte DAF96 vector into a triple and sets its datum tag (R84). -/
  | vldd (e : Enc)
  /-- Stores a DAF96 triple as 768 bytes (R84). -/
  | vstd (e : Enc)
  /-- Loads and checks a 3,136-byte table image into the forward or derivative table after earlier table uses complete (R88). -/
  | tld (e : Enc)
  /-- Evaluates a piecewise-quadratic table on each lane (R89). -/
  | teval (e : Enc)
  /-- Evaluates a table and multiplies by v[RB] with one rounding (R88). -/
  | tevalm (e : Enc)
  /-- Sets the arrays the context owns after its tile work completes, trapping on a conflict (R97). -/
  | tcfg (e : Enc)
  /-- Streams a tile sequence of chunks and rows through the named arrays into an accumulator tile (R104). -/
  | tseq (e : Enc)
  /-- Waits until the context's TSEQ, TDRN and ACCREL work has completed (R94). -/
  | tsync (e : Enc)
  /-- Queues a drain of tile rows through the epilogue to memory, the WGA or a mesh sum (R110). -/
  | tdrn (e : Enc)
  /-- Reads one row of a pair of tiles into a vector register once committed (R94). -/
  | tdrv (e : Enc)
  /-- Marks accumulator tiles EMPTY in order behind earlier tile work (R94). -/
  | accrel (e : Enc)
  /-- A weight panel is loaded lane by lane into a weight slot of an array (R101). -/
  | panelLoad (core arr : Nat)
  /-- An activation row enters the broadcast stream once its data has arrived (R105). -/
  | streamRowEntry (core : Nat)
  /-- A deskewed row passes the plumb check and is accumulated into the tile (R107). -/
  | tileRowCommit (core : Nat) (flip : List LaneFlip)
  /-- The last row of a TSEQ enters the stream, TSTART becomes zero and the context's wait ends (R104). -/
  | tseqLastRowEntered (core : Nat)
  /-- The drain engine reads a committed tile row and writes, pushes or sends its elements through the epilogue (R113). -/
  | drainRow (core : Nat)
  /-- A drain's last write is performed, tiles are released if REL is set, and any tail ARRIVE is made (R114). -/
  | drainComplete (core : Nat)
  /-- Claims or releases ownership of the core's Cairn (R129). -/
  | cown (e : Enc)
  /-- Pushes 64 lanes to the Cairn after earlier Cairn drains (R130). -/
  | cpush (e : Enc)
  /-- Pops the top 256 or 128 bytes of the Cairn into a vector register (R131). -/
  | cpopv (e : Enc)
  /-- Pops the top rows of the Cairn to near memory in push order (R131). -/
  | cpop (e : Enc)
  /-- Queues refills of the highest-numbered spilled Cairn blocks (R133). -/
  | crsv (e : Enc)
  /-- Empties the Cairn once no spill or refill is in flight (R136). -/
  | creset (e : Enc)
  /-- A Cairn block finishes spilling to far memory and its region block becomes free (R132). -/
  | cairnSpillComplete (core : Nat)
  /-- A Cairn block finishes refilling from far memory and becomes resident (R133). -/
  | cairnRefillComplete (core : Nat)
  /-- The controller begins spilling the lowest full resident block when too few region blocks are free (R132). -/
  | cairnSpillStart (core : Nat)
  /-- Waits for WGA work, sets WDATUM and zeroes all WGA elements (R140). -/
  | winit (e : Enc)
  /-- WINIT finishes zeroing the 262,144 WGA elements (R140). -/
  | winitZeroingComplete (core : Nat)
  /-- Zeroes a range of WGA elements in flush-queue order (R145). -/
  | wzero (e : Enc)
  /-- Adds a DAF96 triple into 64 WGA elements, trapping on a datum mismatch (R138). -/
  | waddv (e : Enc)
  /-- Reads 64 WGA elements into a triple tagged with WDATUM (R145). -/
  | wrdv (e : Enc)
  /-- Checks and queues a flush of WGA elements as a mesh sum or to memory (R141). -/
  | wflush (e : Enc)
  /-- Waits until the context's flushes, WZEROs, WADDVs and WGA drains complete (R141). -/
  | wsync (e : Enc)
  /-- A queued flush or WZERO finishes, with any tail ARRIVE, and the next queue entry starts (R141). -/
  | flushComplete (core : Nat)
  /-- A DAF96 mesh sum reaches a WGA and is added, or discarded with DMIS on a datum mismatch (R138). -/
  | wgaSumArrival (core : Nat)
  /-- Applies the keyed drop-out mask to 64 lanes (R144). -/
  | mdrop (e : Enc)
  /-- Writes the 64 keep decisions as bits of s[RD] (R146). -/
  | mbits (e : Enc)
  /-- Writes the raw 64-bit mask-generator outputs into two vector registers (R146). -/
  | mraw (e : Enc)
  /-- Reads and checks an update-launch descriptor and program and queues the launch on the update engine (R154). -/
  | ulaunch (e : Enc)
  /-- A queued launch starts when the engine, its T-copy channel and, if GATED, the norm gate allow it (R152). -/
  | updateLaunchStart (core ctx : Nat)
  /-- An update group runs its program and commits all its writes and Theodolite contributions together (R159). -/
  | updateGroupCommit (core : Nat)
  /-- The last group of a launch commits, any tail ARRIVE is made and the issuing context's wait ends (R153). -/
  | updateLaunchComplete (core : Nat)
  /-- Squares WGA elements into the clip sum and/or the Theodolite gradient sum (R166). -/
  | ugauge (e : Enc)
  /-- Sends CLIPSS as a DAF96 mesh sum with tail to a gate core's NGACC and zeroes it (R167). -/
  | ngsend (e : Enc)
  /-- A clip sum arrives at NGACC and is added, or discarded with DMIS (R167). -/
  | ngaccArrival (core : Nat)
  /-- Multicasts NGACC with its datum to every norm gate of the parcel (R168). -/
  | ngcast (e : Enc)
  /-- A cast value reaches a closed gate, which computes the norm and clip factor and opens, or is discarded with DUP if open (R168). -/
  | gateValueArrival (core : Nat)
  /-- Waits until the norm gate is OPEN and returns FACTOR (R169). -/
  | ngwait (e : Enc)
  /-- When every tail has arrived the tally core writes the readout entries and the Lodge copies them (R173). -/
  | theodoliteTallyWrite (p : Nat)
  /-- A remote request reaches a terrace controller and is served after 8 mesh cycles with a response flit (R188). -/
  | terraceRemoteAccess (site : Nat) (bondErr : Nat)
  /-- A flit reaches a router, is parity-checked, and is forwarded, merged, duplicated or delivered when a credit allows (R241). -/
  | flitAtRouter (n : Nat) (ok credit : Bool)
  /-- A tail flit arrives and its ARRIVE or ADD is made after the writes before it are performed (R258). -/
  | tailArrival (n : Nat)
  /-- The merged completion counts of a multicast reach the delivery-set size and the channel becomes idle (R254). -/
  | multicastCountComplete (core ch : Nat)
  /-- A router fails by parity or credit timeout; injection stops, the mesh drains and detours are loaded (R260). -/
  | routerFailure (site : Nat)
  /-- A router has returned no credit for 4,096 mesh cycles while holding flits (R260). -/
  | routerCreditTimeout (site : Nat)
  /-- After at most 20 µs of draining the Lodge loads detour entries and injection resumes (R260). -/
  | detourLoad (die : Nat)
  /-- A Bridge frame arrives and is acknowledged, or refused on CRC failure (R248). -/
  | bridgeFrameReceived (die col : Nat) (crcOk : Bool)
  /-- A refused Bridge frame is replayed from the replay buffer (R248). -/
  | bridgeFrameReplay (die col : Nat)
  /-- A far request reaches its port, is checked against the Cadastre entry and admitted to the ring cache, or faults (R198). -/
  | farRequestAtPort (port : Nat)
  /-- The port fetches a Cadastre entry from its die's share (R194). -/
  | cadastreCacheMiss (port : Nat)
  /-- A bank access completes and fills a ring-cache line, decoding the outer code (R191). -/
  | ringCacheFill (port : Nat) (errs : List SymErr)
  /-- A page zero-fill ends, ZPEND and ZNEED clear and the waiting MAP completes (R200). -/
  | zeroFillComplete (fpn : Nat)
  /-- A row's correction count reaches its threshold, or an uncorrectable error occurs, and a retirement is started or queued (R220). -/
  | rowRetirement (place : RowPlace) (row : Nat)
  /-- A terrace row is copied to a spare row and redirected, or the retirement is refused (R221). -/
  | terraceRowRetire (site row : Nat)
  /-- A page copy to the reserve page ends, the PPNs are exchanged and paused accesses resume (R199). -/
  | pageRetirementComplete (port : Nat)
  /-- An uncorrectable error is handled by trap, halt, replay, restart, fail-stop or logging as its source requires (R228). -/
  | uncorrectableError (u : UncErr)
  /-- The Groundskeeper reads a word or line in an idle bank cycle and decodes it (R231). -/
  | scrubRead (die : Nat) (t : ScrubTarget)
  /-- A scrub lap ends, its length is recorded and an overdue lap is logged (R232). -/
  | lapEnd (die : Nat) (far : Bool) (length : Nat)
  /-- A fenced core's slot moves to its bed's idle site, or the core is reported absent with loss of placement (R27). -/
  | fenceAndRelocate (core : Nat)
  /-- The Gatehouse stops the parcel, waits for requests, restores beacons and state and re-executes the step's work records (R283). -/
  | stepReplay (p : Nat)
  /-- The module stops issuing, sends FAILSTOP if twinned, ends every open step and asserts ALERT_N (R301). -/
  | moduleFailStop (cls : Nat)
  /-- A CXL.mem write through decoder 0 is checked and applied at the ring cache, or refused with a refused-write record (R330). -/
  | hostMemWrite (port off : Nat) (data : List Byte)
  /-- A CXL.mem read through decoder 0 is served, or answered with poisoned all-ones data (R211). -/
  | hostMemRead (port off len : Nat)
  /-- A write through decoder 1 is buffered as a record, replaced, or dropped or ignored (R325). -/
  | windowRecordWrite (port off : Nat) (data : List Byte)
  /-- A read through decoder 1 returns all-ones data without poison (R314). -/
  | decoder1Read (port off len : Nat)
  /-- Once a seal and all its records have arrived, the segment is checked and its records begin to execute, or it is discarded as BADSEG (R327). -/
  | segmentExecute (w : Nat)
  /-- A configuration request before bring-up completes is answered with Configuration Request Retry Status (R410). -/
  | hostConfigRequest (port : Nat)
  /-- A host answers a back-invalidate snoop, its write-back is applied and the waiting access proceeds (R315). -/
  | bisnpResponse (port line : Nat) (data : List Byte)
  /-- No BIRsp 1 ms after a BISnp; the line leaves the filter and the waiting access proceeds (R315). -/
  | snoopTimeout (port line : Nat)
  /-- A host snoop is answered with RspIHitI (R316). -/
  | h2dSnoop (port : Nat)
  /-- A record write receives its global-observation response and the MSI-X message follows where required (R344). -/
  | recordGloballyObserved (port : Nat)
  /-- Link down, hot reset, CXL Reset or D3hot puts every parcel of the port into parcel reset (R317). -/
  | portLinkEvent (port : Nat) (ev : LinkEvent)
  /-- Assertion of a port's PERST_N holds its link down as a link-down event (R437). -/
  | perstN (port : Nat) (asserted : Bool)
  /-- Command record with no effect (R332). -/
  | nop (w : Nat)
  /-- Closes a segment whose FIRST and COUNT are checked (R327). -/
  | segseal (w : Nat)
  /-- Copies bytes from far memory into near memory of every core of a set (R335). -/
  | loadp (w : Nat)
  /-- Waits for the named contexts to be IDLE and starts programs in them with marks (R334). -/
  | start (w : Nat)
  /-- Every started context has ended and the START completion record is written (R334). -/
  | startCompletion (w : Nat)
  /-- Boundary mark: waits for quiescence, applies staged settings, reads out, forms digests and writes the boundary completion record (R338). -/
  | bmark (w : Nat)
  /-- A step ends by checkpoint restart, loss of placement or fail-stop with a boundary completion record and resets (R339). -/
  | stepEndWithoutMark (p : Nat) (cause : StepEnd)
  /-- Stages eight scalar operands of one operand set for the next mark (R164). -/
  | operand (w : Nat)
  /-- Writes a value to a router register at each named core's CSITE (R332). -/
  | mcreg (w : Nat)
  /-- Gives pages to the parcel with rights, zero-filling where needed and resuming held requesters (R201). -/
  | mapPages (w : Nat)
  /-- Removes the parcel's ownership and rights of pages (R201). -/
  | unmapPages (w : Nat)
  /-- Clears DIRTY of the parcel's pages (R201). -/
  | cleanPages (w : Nat)
  /-- Adds a sealed range, after performing earlier host writes and back-invalidating (R209). -/
  | sealRange (w : Nat)
  /-- Removes a sealed range (R209). -/
  | unsealRange (w : Nat)
  /-- Releases requesters held on a page with traps, halts or discarded stores (R204). -/
  | faultabort (w : Nat)
  /-- Acknowledges a page's refused-write record (R211). -/
  | rwack (w : Nat)
  /-- Stops a context, completes its work and writes its state to a save area (R90). -/
  | preempt (w : Nat)
  /-- Reloads a saved context into an IDLE slot, reclaiming arrays and Cairn, and resumes it (R337). -/
  | restoreCtx (w : Nat)
  /-- Resets one context (R406). -/
  | ctxreset (w : Nat)
  /-- Starts a parcel reset (R406). -/
  | preset (w : Nat)
  /-- A parcel reset completes after outstanding requests finish, with beacon blocks returned at zero and windows disabled (R406). -/
  | parcelResetComplete (p : Nat)
  /-- Resets the compute part of one site after its requests complete (R406). -/
  | coreReset (site : Nat)
  /-- Setting WIN_CTL.EN opens a window, checking its binding and running the configuration check (R329). -/
  | windowEnable (src : Src) (w al : Nat) (v : W32)
  /-- Clearing WIN_CTL.EN aborts waiting records and discards buffered ones (R329). -/
  | windowDisable (src : Src) (w al : Nat) (v : W32)
  /-- The host records consumed records, letting a waiting record write proceed (R341). -/
  | crHeadWrite (src : Src) (w al : Nat) (v : W32)
  /-- A write of 0x5AFE unlocks a block for its source; any other value locks it (R372). -/
  | unlock (src : Src) (block : Nat) (v : W32)
  /-- Captures a block's counters and cycle counts into its holding registers (R380). -/
  | snap (src : Src) (block : Nat) (v : W32)
  /-- Zeroes every live counter of a block except PH_CAT (R378). -/
  | cclr (src : Src) (block : Nat) (v : W32)
  /-- Discards every staged value of a block (R377). -/
  | scancel (src : Src) (block : Nat) (v : W32)
  /-- Reading a counter's low word latches its high word for that source (R379). -/
  | counterLowRead (src : Src) (addr : Nat)
  /-- Periodic comparison of CFGCRC with CFGREF clears the enable and logs on mismatch (R376). -/
  | configCheck (block : Nat)
  /-- Latches the named Cadastre entry for the writing source (R385). -/
  | cadSel (src : Src) (die : Nat) (v : W32)
  /-- Setting or clearing GK_CTL.EN starts or stops scrubbing (R386). -/
  | groundskeeperEnable (src : Src) (die al : Nat) (v : W32)
  /-- A write to a register without a row of its own, under access codes, aliases, lock and enable gating (R370). -/
  | registerWrite (src : Src) (addr : Nat) (v : W32)
  /-- Submits the host-window request to the Lodge queue (R360): the host has written req into HW_REQ and stat into
  HW_STAT, and writes v to HW_CTL. -/
  | hwGo (port : Nat) (req : List Byte) (stat v : W32)
  /-- No ACK within 20 ms sets TIMEOUT and clears GO and BUSY (R360). -/
  | hostWindowTimeout (port : Nat)
  /-- The ACK is written to HW_RSP, DONE sets and an interrupt may follow (R360). -/
  | hostWindowResponse (port : Nat)
  /-- Cixa request returning an object's whole value (R350). -/
  | cixaRead (src : Requester) (msg : List Byte)
  /-- Cixa request writing an object's whole value, staged for RWS objects (R357). -/
  | cixaWrite (src : Requester) (msg : List Byte)
  /-- Cixa request returning a segment of a snapshot of a DOMAIN object (R353). -/
  | cixaReadSeg (src : Requester) (msg : List Byte)
  /-- Cixa request writing one segment of a DOMAIN object, applying the value at LAST (R354). -/
  | cixaWriteSeg (src : Requester) (msg : List Byte)
  /-- An ACK of a NOTIFY arrives from its receiver (R355). -/
  | cixaAck (src : Requester) (msg : List Byte)
  /-- The module sends a NOTIFY for an enabled event (R355). -/
  | cixaNotify (ev : Event)
  /-- After 10 ms without ACK a NOTIFY is resent, up to 3 times (R355). -/
  | notifyResend (txid : Nat)
  /-- A write session idle for 1 s is discarded (R354). -/
  | segmentSessionTimeout (idx sub : Nat)
  /-- A read snapshot is dropped 1 s after its requester's last READ_SEG (R353). -/
  | snapshotExpiry (src : Requester) (idx sub : Nat)
  /-- A request arriving at a full queue is discarded without answer (R350). -/
  | queueFullDiscard (src : Requester) (msg : List Byte)
  /-- A write to a dictionary object without a row of its own (R357). -/
  | objectWrite (src : Requester) (idx sub : Nat) (data : List Byte)
  /-- PCL_CTL = 1 creates a parcel (R319). -/
  | parcelCreate (p : Nat)
  /-- PCL_CTL = 2 resets, unmaps and frees a parcel, setting ZNEED (R321). -/
  | parcelRemove (p : Nat)
  /-- PCL_CTL = 3 starts a parcel reset (R406). -/
  | pclCtlReset (p : Nat)
  /-- Stages a bed change of a parcel, reserving added beds (R320). -/
  | pclBeds (p : Nat) (beds : W32)
  /-- Stages a beacon-block allocation, reserving claimed blocks (R263). -/
  | bcnAlloc (p die : Nat) (blocks : W64)
  /-- Starts a module-wide snapshot through the beacon trees (R381). -/
  | snapAll (ident : W32)
  /-- Starts a snapshot of one parcel's blocks (R381). -/
  | snapPcl (p : Nat) (ident : W32)
  /-- Every block acknowledges, or 1 ms passes, and SNAP_LAST and SNAP_MISSED are set (R381). -/
  | snapshotComplete (missed : List Nat)
  /-- Writes a register through the dictionary, optionally unlocking first (R389). -/
  | regXferWrite (src : Requester) (addrWord value : W32)
  /-- Selects a register address for later READs (R389). -/
  | regXferSelect (src : Requester) (addrWord : W32)
  /-- Returns the selected address and the register's current value (R389). -/
  | regXferRead (src : Requester)
  /-- Acknowledges incidents so their slots may be reused (R233). -/
  | incAck (seqNo : W32)
  /-- Writing 0 clears a class's overflow count and bit (R238). -/
  | incOvf (cls : Nat) (v : W32)
  /-- Writing 0xC1EA clears soft entries and retirements at next start (R224). -/
  | softClear (v : BitVec 16)
  /-- Requests a relocated core's return to its factory site at next start (R364). -/
  | coreReturn (core : Nat)
  /-- Stages a bed's clock setting (R395). -/
  | clkBed (bed : Nat) (v : Byte)
  /-- Changes a half's mesh clock by stopping injection, switching and resuming (R396). -/
  | clkHalf (half : Nat) (v : Byte)
  /-- Writing 0x7E5E starts a module warm reset (R407). -/
  | modReset (v : BitVec 16)
  /-- Clears the matching ALERT_CAUSE bits where allowed (R413). -/
  | alertClr (v : W32)
  /-- Changes the PLCA node ID after the ACK, or turns PLCA off (R347). -/
  | plcaNode (v : Byte)
  /-- REJOIN_REQ = 1 starts a rejoin from a survivor (R302). -/
  | rejoinStart
  /-- REJOIN_REQ = 2 cancels a rejoin before its copy (R302). -/
  | rejoinCancel
  /-- Segmented upload of a bundle into the inactive slot, verified at close (R422). -/
  | fwUpload (slot : Nat) (bundle : List Byte)
  /-- Selects the slot for the next power-on (R422). -/
  | fwNext (v : Byte)
  /-- Burns SVN and revocation fuses to the running bundle's values (R422). -/
  | fwSvnBurn (v : Byte)
  /-- An SPDM request is processed and its response made readable in SPDM_RSP (R427). -/
  | spdmReq (src : Requester) (req : List Byte)
  /-- Forms a signed measurement object for the requester (R430). -/
  | measNonce (src : Requester) (nonce : List Byte)
  /-- A HEARTBEAT frame arrives from the peer (R294). -/
  | heartbeat (f : List Byte)
  /-- Every 5 µs the module sends a HEARTBEAT (R294). -/
  | heartbeatTimer
  /-- 50 µs without a valid HEARTBEAT makes the peer lost (R294). -/
  | peerLost
  /-- The peer's DIGEST arrives and is compared at the mark (R298). -/
  | digest (f : List Byte)
  /-- No peer DIGEST within DIGEST_TIMEOUT; UNPAIR is sent and the state becomes LOST (R298). -/
  | digestTimeout (p : Nat)
  /-- A FAILSTOP frame arrives and the twin becomes SURVIVOR (R295). -/
  | failstop (f : List Byte)
  /-- A fail-stopped module repeats FAILSTOP every 1 µs for at least 20 µs (R295). -/
  | failstopRepeat
  /-- A STATE header arrives announcing rejoin data (R303). -/
  | twinState (f : List Byte)
  /-- A STATE_DATA frame arrives carrying 236 bytes of rejoin state (R293). -/
  | stateData (f : List Byte)
  /-- A CONTROL PAIR arrives and is checked (R286). -/
  | pair (f : List Byte)
  /-- A CONTROL PAIR-ACK arrives, completing pairing (R296). -/
  | pairAck (f : List Byte)
  /-- A CONTROL UNPAIR arrives (R298). -/
  | unpair (f : List Byte)
  /-- A REJOIN-OFFER arrives and is accepted or refused (R297). -/
  | rejoinOffer (f : List Byte)
  /-- A REJOIN-ACCEPT arrives and the survivor begins copying state (R297). -/
  | rejoinAccept (f : List Byte)
  /-- REJOIN-DONE is received or acknowledged, EPOCH increases and both enter PAIRED (R305). -/
  | rejoinDone (f : List Byte)
  /-- A NAK or a 20 µs unacknowledged frame causes replay from ACK + 1 (R292). -/
  | twinFrameReplay
  /-- A lane with too many uncorrectable codewords in 1 ms is dropped (R294). -/
  | laneDrop (lane : Nat)
  /-- 10 s without PAIR-ACK returns the module to SOLO (R296). -/
  | pairingTimeout
  /-- Input at or above 30.0 V for 1 ms starts the Lodge supply (R398). -/
  | lodgeSupplyUp (vin : Nat)
  /-- Input below 30.0 V for 1 µs stops everything (R398). -/
  | lodgeSupplyLoss (vin : Nat)
  /-- Input at or above 40.0 V for 10 ms allows compute conversion (R398). -/
  | inputReady (vin : Nat)
  /-- PWR_WARN_N or input below 39 V starts the power-event stop (R399). -/
  | powerEvent (vin : Nat)
  /-- 45 µs after the power event the host ports poison reads and discard writes (R399). -/
  | hostPortsPoison
  /-- 50 µs after the power event every domain except the Lodge is held in reset (R399). -/
  | powerHalt
  /-- Input above 50.0 V for 1 ms sets an alert cause, cleared below 49.0 V (R398). -/
  | overVoltageWarning (vin : Nat)
  /-- Input at or above 54.0 V causes a power event and turns compute conversion off (R398). -/
  | overVoltageTrip (vin : Nat)
  /-- A filtered assertion or release of RESET_N starts or releases a module warm reset (R404). -/
  | resetN (asserted : Bool)
  /-- RESET_N held 10 s logs class 0x54 (R404). -/
  | resetNHeld
  /-- A filtered assertion of FENCE_N fail-stops the module (R401). -/
  | fenceN
  /-- A filtered assertion of PWR_WARN_N is a power event (R401). -/
  | pwrWarnN
  /-- More than 8 filtered transitions in 1 ms lock the input out for 100 ms (R403). -/
  | inputFlapping (pin : Pin)
  /-- After 100 ms the input is sampled again and its level counts (R403). -/
  | lockoutEnd (pin : Pin) (asserted : Bool)
  /-- Every 1 ms the Lodge reads the sensors and publishes TJ_MAX (R411). -/
  | temperatureSample (tj : Int) (iin pin : Nat)
  /-- TJ_MAX at or above TJ_WARN for 10 ms sets the thermal cause (R411). -/
  | temperatureWarning
  /-- TJ_MAX at or above TJ_TRIP for 1 ms fail-stops the module into power halt (R411). -/
  | thermalTrip
  /-- A running clock domain loses lock and the module fail-stops (R414). -/
  | clockLockLoss (dom : Nat)
  /-- The boot ROM verifies a slot, derives keys and starts the Lodge, or tries the other slot (R419). -/
  | bootRomVerify
  /-- With neither slot valid the boot ROM enters recovery (R420). -/
  | recovery
  /-- The Lodge loads fuse and soft repair entries (R223). -/
  | repairPlatLoad
  /-- Compute rails ramp and clocks lock at bring-up step 4 (R409). -/
  | computeRamp
  /-- The Gatehouse and table bodies are loaded and checked (R421). -/
  | gatehouseImageLoad
  /-- LPDDR5X channels, Bridge links and twin lanes are trained (R247). -/
  | linkTraining (links : Nat) (lanes : Byte)
  /-- Cadastre PPNs are set and memory initialised in the selected mode (R226). -/
  | memoryInit
  /-- The pairing exchange runs during bring-up if TWIN_MODE is 1 (R286). -/
  | pairing
  /-- Groundskeepers are enabled, contexts IDLE and MOD_STAT[0] set (R409). -/
  | bringupComplete
  /-- A bring-up step fails, class 0x5A is logged and bring-up stops (R409). -/
  | bringupStepFailed (stp : Nat)
  /-- Input below 49.0 V for 1 ms clears the over-voltage warning cause (R398). -/
  | overVoltageClear (vin : Nat)
  /-- A filtered deassertion of FENCE_N lets bring-up held before step 9 proceed (R405). -/
  | fenceNRelease
  /-- A filtered deassertion of PWR_WARN_N lets bring-up held before step 4 proceed (R405). -/
  | pwrWarnNRelease
  /-- A requester's kept ACK is dropped 1 s after it was kept, so a later request with that TXID executes again (R351). -/
  | keptAckExpiry (src : Requester) (txid : Nat)
  /-- With no PLCA BEACON seen the port falls back to CSMA/CD, and it returns to PLCA when BEACONs are seen again (R346). -/
  | plcaBeaconLoss (lost : Bool)
  /-- An ICMPv6 echo request on the management port is answered (R348). -/
  | icmpv6EchoRequest (src : Nat) (data : List Byte)
  /-- A host port's CXL link trains up, after bring-up or after PERST_N release, and PORT_STAT reports link up (R317). -/
  | cxlLinkUp (port speed width : Nat)
  /-- A context reset completes 1 µs after its outstanding requests finish, and the context is IDLE (R406). -/
  | contextResetComplete (core ctx : Nat)
  /-- The host commits an HDM decoder of a port, setting the decoder-0 parcel space or decoder-1 window range (R313). -/
  | hdmDecoderCommit (port dec base : Nat)
  deriving DecidableEq, Repr

end Sys2Proof
end

