-- ==== Sys2Proof/Config.lean ====
section
/-!
DEFINITION. What the spec leaves open for every run: free values and the fused and cryptographic functions it names
by standard only. Nothing here has a body, so no proof can rest on a value of it (log 4 [DESIGN CHOICE], log 11 [PRESUMED]).
-/

namespace Sys2Proof

/-- The n-th free value of a run: cycle counts, capture times and the other values the spec does not fix (log 4 [DESIGN CHOICE]). -/
opaque Config.freeValue : Nat → BitVec 64

/-- Whether a retirement's copy meets an uncorrectable error in a unit, by a free value and the unit's place (R221, R222;
log 4 [DESIGN CHOICE]). -/
opaque Config.copyLoses : (v : BitVec 64) → (unit : Nat) → Bool

/-- The SM3 digest of a byte string (R416, R419, R423; GM/T 0004 is cited, not stated; log 11 [PRESUMED]). -/
opaque Config.sm3 : List Byte → BitVec 256

/-- SM2 verification of a signature over a message under a public key, with Z as R417 says (log 11 [PRESUMED]). -/
opaque Config.sm2Verify : (pub : List Byte) → (msg sig : List Byte) → Bool

/-- SM2 signature by a private key (R424, R430; log 11 [PRESUMED]). -/
opaque Config.sm2Sign : (key : BitVec 256) → (msg : List Byte) → BitVec 512

/-- The public key of a private key (R423; log 11 [PRESUMED]). -/
opaque Config.sm2Public : (key : BitVec 256) → BitVec 512

/-- The order of the curve SM2_P256 (R423; the standard gives it, the spec does not; log 11 [PRESUMED]). -/
opaque Config.sm2Order : Nat

/-- The DER bytes of the alias certificate for a key, a LODGE_DIG, a LEVEL and an SVN (R425; log 11 [PRESUMED]). -/
opaque Config.aliasCert : (key : BitVec 512) → (dig : BitVec 256) → (level : BitVec 32) → (svn : Byte) → List Byte

/-- The SM3 digest of the boot ROM (R429 index 1; log 11 [PRESUMED]). -/
opaque Config.bootRomDigest : BitVec 256

/-- The response of the SPDM 1.2 responder of Table 15-3 to a request, for a requester's transcript so far
(R426, R427; the message layouts are those of the cited standard; log 11 [PRESUMED]). -/
opaque Config.spdmRespond : (transcript : List Byte) → (request : List Byte) → List Byte

/-- Whether a request continues the SPDM state (R428): false makes the answer the ERROR UnexpectedRequest (log 11 [PRESUMED]). -/
opaque Config.spdmError : (code : Nat) → List Byte

end Sys2Proof
end

