-- ==== Sys2Proof/Machine/State.lean ====
section
/-!
DEFINITION. The state of the VZ-768 as plain data, the stops of a step, and the state after reset.
A sparse map lists only the entries that differ from their default, in rising order of key, so equal contents are
equal data (log 7 [DESIGN CHOICE]). Every structure's field defaults are its reset values (log 6 [DESIGN CHOICE] where the spec gives none).
-/

namespace Sys2Proof.Machine

/-- A sparse map from numbers: entries rising by key, none equal to the map's default. -/
abbrev SMap (α : Type) := List (Nat × α)

/-! ### A core site -/

/-- The states of a context (R59, Table 3-2). -/
inductive CtxSt where
  | idle | ready | issuing | waiting | held | trapped
  deriving DecidableEq, Repr

/-- The instructions that a context can be waiting to finish (R60, R95, R145, R152). -/
inductive WaitOp where
  | ld | st | arrive | addB | setB | wait | cpy | cpyw | tcfg | tseq | tsync | tdrn | tdrv | tld
  | cpush | cpopv | cpop | creset | winit | wzero | wflush | wsync | ulaunch | ugauge | ngwait | halt
  | teval | tevalm | vld | vldd | vst | vstd | ngsend | ngcast
  deriving DecidableEq, Repr

/-- Why a context waits, stalls or is held (R60, R202). See log 94 [DESIGN CHOICE]. -/
inductive Wait where
  | none
  /-- a load's data is on its way (R60) -/
  | load (rd : BitVec 5) (size : Nat) (sext : Bool) (addr : W64)
  /-- a vector load's data is on its way: into v[rd], or into triple rd with a datum tag (R60, R185) -/
  | vload (rd : BitVec 5) (tag : Option Datum) (addr : W64)
  /-- the instruction at pc has not finished -/
  | op (o : WaitOp) (e : Enc)
  /-- the TDRN or WFLUSH at pc, whose descriptor has been read and checked, waits for room in its queue (R95, R141) -/
  | desc (o : WaitOp) (e : Enc) (b : List Byte)
  /-- the last row of the TSEQ at pc has not entered the stream (R95) -/
  | streaming
  /-- the WAIT at pc awaits the root's reply (R265) -/
  | reply (rd : BitVec 5)
  /-- WINIT at pc zeroes the WGA (R140) -/
  | zeroing
  /-- the launch of the instruction at pc has not completed (R152) -/
  | launch
  /-- HELD on the page of this core address (R202); the instruction at pc reissues -/
  | fault (addr : W64)
  deriving DecidableEq, Repr

/-- A posted store, or a load, that a far-memory port holds on a page fault (R202). -/
structure HeldStore where
  addr : W64
  data : List Byte
  pc : W64
  /-- its request's place in the order in which requests left (R195) -/
  born : Nat := 0
  deriving DecidableEq, Repr

/-- One context slot of a core (R58, Tables 3-1, 3-6, 4-4, 5-7, 6-8). -/
structure Ctx where
  st : CtxSt := .idle
  wait : Wait := .none
  sregs : SMap W64 := []
  aregs : SMap W64 := []
  pc : W64 := 0
  nflags : W32 := 0
  tstart : W64 := 0
  trapcause : W64 := 0
  trappc : W64 := 0
  trapval : W64 := 0
  valloc : W32 := 0
  mseed : W64 := 0
  mstep : W32 := 0
  mtid : W32 := 0
  mkeep : W64 := 0
  town : BitVec 4 := 0
  tdesc : W64 := 0
  tskips : BitVec 16 := 0
  trepeats : BitVec 16 := 0
  upos : W32 := 0
  udesc : W64 := 0
  ustat : BitVec 4 := 0
  /-- the interrupted launch reads the WGA: GKIND 0 or a gauge (R180) -/
  uwga : Bool := false
  compat : Bool := false
  /-- beacons changed in compatibility mode (R91) -/
  compatList : List Nat := []
  /-- instructions issued since another context became READY (R61) -/
  quantum : Nat := 0
  /-- the row buffer, most recently used first: row address and contents (R76) -/
  rowBuf : List (Nat × List Byte) := []
  heldSt : List HeldStore := []
  /-- the START that started the context: window and SEQ (R334) -/
  startedBy : Option (Nat × W32) := none
  exitCode : W64 := 0
  /-- ended by HALT or a trap since it was started (R334) -/
  ended : Bool := false
  /-- a context reset waits for its completion (R406) -/
  resetting : Bool := false
  /-- a pre-emption waits for its work to complete (R90) -/
  preempting : Bool := false
  deriving DecidableEq, Repr

/-- A queued copy: descriptor address and the MSEED captured with the CPY (R78, R80). -/
structure CopyReq where
  desc : W64
  mseed : W64
  ctx : Nat
  deriving DecidableEq, Repr

/-- A multicast entry as sampled when a descriptor starts (R253). -/
structure McEntry where
  x0 : Nat
  x1 : Nat
  y0 : Nat
  y1 : Nat
  bmen : Bool
  beds : W32
  /-- the entry's number (Table 9-4) -/
  num : Nat := 0
  deriving DecidableEq, Repr

/-- The descriptor a channel executes: its 64 bytes and the next row or tile (R79, R207). -/
structure CopyRun where
  req : CopyReq
  bytes : List Byte
  pos : Nat := 0
  mc : Option McEntry := none
  /-- completions received of a multicast (R254) -/
  mcCount : Nat := 0
  /-- a transpose's destination rows as far as they are written, for the digest: data of row r under 2r, its scale bytes
  under 2r + 1 (R276) -/
  parts : SMap (List Byte) := []
  /-- the endpoints that its writes have gone to (R258) -/
  ends : List Nat := []
  deriving DecidableEq, Repr

/-- The states of a copy channel (R82). -/
inductive ChanSt where
  | idle | busy | haltedDesc | haltedErr | held
  deriving DecidableEq, Repr

/-- A copy channel (R78-R82). -/
structure Chan where
  st : ChanSt := .idle
  queue : List CopyReq := []
  run : Option CopyRun := none
  /-- near address of the current or failing descriptor (R82) -/
  descaddr : W64 := 0
  /-- the transpose path carries an update launch's T copy (R157) -/
  tcopy : Bool := false
  faultAddr : W64 := 0
  deriving DecidableEq, Repr

/-- A tile sequence from its issue until its last row commits (R104, R106, R121). -/
structure TseqJob where
  sn : Nat
  ctx : Nat
  arr : BitVec 4
  tile : Nat
  desc : List Byte
  descAddr : W64
  /-- next chunk and row to enter the stream -/
  chunk : Nat
  row : Nat
  /-- its last row has entered the stream -/
  entered : Bool := false
  /-- the issuing context still waits for it -/
  waited : Bool := true
  /-- plumb checks failed in this execution (R121) -/
  fails : Nat := 0
  /-- an interruption ends the stream before this chunk and row (R115, R116) -/
  stopAt : Option (Nat × Nat) := none
  deriving DecidableEq, Repr

/-- A loaded weight slot (R100, R101). -/
structure Slot where
  sn : Nat
  chunk : Nat
  bytes : List Byte
  deriving DecidableEq, Repr

/-- A row between its entry into the stream and its commit (R107), with the panels it meets. -/
structure PipeRow where
  sn : Nat
  chunk : Nat
  row : Nat
  act : List Byte
  scales : List Byte
  panels : List (Nat × List Byte)
  last : Bool
  deriving DecidableEq, Repr

/-- A queued drain (R110, R113). -/
structure DrainJob where
  sn : Nat
  ctx : Nat
  arr : BitVec 4
  tile : Nat
  rows : Nat
  rel : Bool
  ep : List Byte
  base : W64
  mseed : W64
  /-- next row to read -/
  row : Nat := 0
  /-- the endpoints that its writes have gone to (R258) -/
  ends : List Nat := []
  deriving DecidableEq, Repr

/-- An ACCREL behind earlier tile work of its context (Table 4-2). -/
structure RelJob where
  sn : Nat
  ctx : Nat
  arr : BitVec 4
  tile : Nat
  deriving DecidableEq, Repr

/-- The Cairn of a core (R128-R136). -/
structure Cairn where
  base : W64 := 0
  limit : W64 := 0
  spill : W64 := 0
  spillLim : W64 := 0
  depth : Nat := 0
  ahead : BitVec 3 := 2
  owner : Option Nat := none
  /-- resident Cairn block to region block -/
  resident : SMap Nat := []
  spilled : List Nat := []
  /-- block whose spill is in flight, with its region block -/
  spilling : Option (Nat × Nat) := none
  refilling : Option (Nat × Nat) := none
  refillQ : List Nat := []
  /-- the addresses that a stopped spill and a stopped refill faulted on (R135) -/
  spillFault : Option W64 := none
  refillFault : Option W64 := none
  deriving DecidableEq, Repr

/-- An entry of the flush queue: a WFLUSH with its descriptor, or a WZERO (R141). -/
structure FlushJob where
  ctx : Nat
  zero : Bool
  desc : List Byte
  first : Nat
  count : Nat
  /-- its place among the core's tile and flush work: the order of issue -/
  sn : Nat := 0
  deriving DecidableEq, Repr

/-- The weight-gradient accumulator (R137-R141). -/
structure Wga where
  elems : SMap W96 := []
  datum : Datum := 0
  dmis : Bool := false
  /-- the running flush or WZERO first, then those waiting -/
  flushes : List FlushJob := []
  /-- the context whose WINIT zeroes the elements (R140) -/
  zeroing : Option Nat := none
  deriving DecidableEq, Repr

/-- The states of a launch (Table 6-9). -/
inductive LaunchSt where
  | engine | gate | running
  deriving DecidableEq, Repr

/-- An update launch or gauge on the update engine (R152-R159, R166). -/
structure Launch where
  ctx : Nat
  gauge : Bool
  st : LaunchSt
  desc : List Byte
  prog : List W32
  stepNo : W32
  /-- next group to commit -/
  group : Nat
  /-- since when it is able to start: its place in that order, plus one; 0 while it is not (R152) -/
  since : Nat := 0
  /-- gauge: first element, count, tag, CLIP, THEO, DG -/
  first : Nat := 0
  count : Nat := 0
  imm : W32 := 0
  /-- near address of the descriptor (Table 6-8) -/
  descAddr : W64 := 0
  /-- the endpoints that its writes have gone to (R258) -/
  ends : List Nat := []
  deriving DecidableEq, Repr

/-- The clip sum, the norm-gate accumulator and the norm gate (R166-R170). -/
structure NormGate where
  clipss : W96 := 0
  ngacc : W96 := 0
  cfg : W64 := 0
  isOpen : Bool := false
  dup : Bool := false
  dmis : Bool := false
  ovf : Bool := false
  factor : W32 := 0
  norm : W32 := 0
  deriving DecidableEq, Repr

/-- One Theodolite sum (R171, R172). -/
structure ThSum where
  sum : W96 := 0
  datum : Datum := 0
  touched : Bool := false
  dx : Bool := false
  dmis : Bool := false
  nan : Bool := false
  deriving DecidableEq, Repr

/-- A tally entry: row and its count of correcting reads, oldest first (R220). -/
structure TallyRow where
  row : Nat
  count : Nat
  frozen : Bool := false
  deriving DecidableEq, Repr

/-- The matrix unit of a core (R92-R121). -/
structure Tiles where
  words : SMap W32 := []
  hold : W32 := 0
  int : W32 := 0
  /-- number of the next tile operation: the order of issue -/
  nextSn : Nat := 0
  jobs : List TseqJob := []
  slots : SMap Slot := []
  pipe : List PipeRow := []
  drains : List DrainJob := []
  rels : List RelJob := []
  deriving DecidableEq, Repr

/-- A core site: its compute part, its memories and its mesh part (R58, R181, R239, R268). -/
structure Site where
  ctxs : SMap Ctx := []
  /-- the slot that last gave up the issue slot (R61) -/
  lastSlot : Nat := 3
  chans : SMap Chan := []
  vlanes : SMap W32 := []
  vtags : SMap Datum := []
  tables : SMap Byte := []
  tiles : Tiles := {}
  cairn : Cairn := {}
  wga : Wga := {}
  launches : List Launch := []
  operands : SMap W32 := []
  gate : NormGate := {}
  theo : SMap ThSum := []
  cd0 : W32 := 0
  cd1 : W32 := 0
  cd2 : W32 := 0
  cd3 : W32 := 0
  resetting : Bool := false
  near : List Host.Cell := []
  terr : List Host.Cell := []
  /-- near bytes, and terrace words, whose validity differs from the initialisation's (R226, R227) -/
  nearMarks : List Nat := []
  terrMarks : List Nat := []
  mct : SMap W32 := []
  mcsel : W32 := 0
  rfail : Bool := false
  fenced : Bool := false
  tally : List TallyRow := []
  /-- terrace rows whose retirement has started or is queued (R220, R221) -/
  retireQ : List Nat := []
  /-- second uncorrectable errors of the step count from here (R229) -/
  stepErrs : Nat := 0
  deriving DecidableEq, Repr

/-! ### The mesh, the Bridge and the beacon network -/

/-- The unit at the destination that a flit is for, and the requester that waits for its answer: what the spec's
text says of each flit, kept beside its header (log 9 [DEDUCED]). -/
inductive FlitFor where
  | load (core ctx size : Nat)
  | store (core ctx : Nat) (pc addr : W64)
  | wga
  | ngacc
  | gate
  | mcWrite (core ch : Nat) (lastRow : Bool) (tail : Option Nat)
  | mcCount (core ch : Nat)
  | tail (add : Nat)
  | other
  deriving DecidableEq, Repr

/-- The kinds of flit (Table 9-4). -/
inductive FlitKind where
  | readReq | write | readResp | writeAck | daf96Sum | int32Sum | mcastWrite | tail | farReq | farResp | system
  deriving DecidableEq, Repr

/-- The legs of a multicast flit's tree (R254). -/
inductive McLeg where
  | none | transit | row | colNorth | colSouth
  deriving DecidableEq, Repr

/-- A flit in flight: header fields of Table 9-4, payload, and the router it is at (R239-R245). See log 52 [DESIGN CHOICE]. -/
structure Flit where
  src : Nat
  dst : Nat
  vc : Nat
  kind : FlitKind
  parcel : Nat
  pv : Bool
  addr : BitVec 42
  datum : Datum := 0
  count : Nat := 1
  refused : Bool := false
  payload : List Byte := []
  /-- physical site of the router that holds it -/
  pos : Nat
  /-- it waits in the injection queue of its source (Table 9-3) -/
  fresh : Bool := true
  /-- the router that it came from: it waits in that one's input port (R243) -/
  prev : Option Nat := none
  /-- its place in the order in which flits left: the larger the younger (R195) -/
  born : Nat := 0
  /-- the last flit of a row or of a packet (Table 9-4) -/
  last : Bool := true
  /-- further sources of a merged flit (R242, R255) -/
  also : List Nat := []
  /-- handed over to the destination endpoint -/
  arrived : Bool := false
  what : FlitFor
  leg : McLeg := .none
  mc : Option McEntry := none
  /-- the sites that a flit on a detour still has to pass (R261) -/
  via : List Nat := []
  /-- a multicast flit's copies that have not left its router: the sites to pass, and the leg there (R254) -/
  todo : Option (List (List Nat × McLeg)) := none
  deriving DecidableEq, Repr

/-- What a beacon message asks of the root (R73, R264, R265). -/
inductive BeaconOp where
  | add (v : W32)
  | set (v : W32)
  | wait (v : W32)
  deriving DecidableEq, Repr

/-- A beacon message on its way to a root, or a reply on its way to a site (R262). -/
structure BeaconMsg where
  core : Nat
  site : Nat
  ctx : Nat
  beacon : Nat
  op : BeaconOp
  deriving DecidableEq, Repr

/-- A waiter entry of a root (R262, R265). -/
structure Waiter where
  core : Nat
  ctx : Nat
  beacon : Nat
  count : W32
  deriving DecidableEq, Repr

/-- A wait reply (R265, R266): status 1 when the owner was lost. -/
structure BeaconReply where
  core : Nat
  ctx : Nat
  status : W32
  deriving DecidableEq, Repr

/-- One direction of one Bridge link (R248): frames of up to three flits not yet acknowledged, the sequence number of the
oldest, and its refusals. -/
structure BridgeLink where
  frames : List (List Flit) := []
  seqNo : BitVec 16 := 0
  refusals : Nat := 0
  /-- the oldest frame was refused and awaits its replay -/
  refused : Bool := false
  down : Bool := false
  deriving DecidableEq, Repr

/-- Mesh, Bridge and beacon network (R239-R270). -/
structure Mesh where
  net : List Flit := []
  /-- flits that have left their sources so far: the model's own count, for their order (R195) -/
  born : Nat := 0
  /-- key: sending die × 20 + column -/
  bridge : SMap BridgeLink := []
  /-- key: die; the failed site + 1 -/
  failedRouter : SMap Nat := []
  injStopped : SMap Bool := []
  /-- key: die; the detour entries are loaded in its routers (R260) -/
  detour : SMap Bool := []
  /-- Bridge links trained, by column (R247) -/
  trained : BitVec 20 := 0
  beacons : SMap W32 := []
  shadow : SMap W32 := []
  msgs : List BeaconMsg := []
  waiters : List Waiter := []
  replies : List BeaconReply := []
  /-- most waiter entries in use since the last CCLR, by die (Table 13-10) -/
  wmax : SMap Nat := []
  deriving DecidableEq, Repr

/-! ### Far memory -/

/-- A Cadastre entry (Table 7-5). The PPN is held as its difference (exclusive or) from the value bring-up gives it. -/
structure CadEntry where
  lov : Bool := false
  zneed : Bool := false
  lastown : BitVec 3 := 0
  zpend : Bool := false
  ret : Bool := false
  dirty : Bool := false
  hw : Bool := false
  hr : Bool := false
  cw : Bool := false
  cr : Bool := false
  v : Bool := false
  owner : BitVec 3 := 0
  ppnDiff : BitVec 18 := 0
  deriving DecidableEq, Repr

/-- What a far access is held for, by the requester numbers of Table 11-10 (R203). -/
structure FaultReq where
  requester : Nat
  index : Nat
  core : Nat
  addr : W64
  write : Bool
  deriving DecidableEq, Repr

/-- An unresolved faulting page of a parcel (R203-R205). -/
structure FaultPage where
  parcel : Nat
  fpn : Nat
  held : List FaultReq
  recorded : Bool
  deriving DecidableEq, Repr

/-- A parcel's refused writes of a page since the last RWACK (R211, R314, R343). -/
structure RefusedPage where
  parcel : Nat
  fpn : Nat
  /-- refusals of REASON 5, which the parcel's port reports, and not the parcel's own -/
  byPort : Bool
  count : Nat
  /-- the parcel has the page's record, and its RWACK is due -/
  recorded : Bool := true
  deriving DecidableEq, Repr

/-- A line that a host holds (R315). -/
structure SnoopLine where
  line : Nat
  host : Nat
  exclusive : Bool
  /-- a BISnp is outstanding -/
  snooped : Bool := false
  /-- it is a BISnpInv -/
  inv : Bool := false
  /-- removed after 1 ms without answer: a late write-back is refused (R315) -/
  lapsed : Bool := false
  deriving DecidableEq, Repr

/-- A page retirement at a port (R199, R222): entry A, entry B. -/
structure PageRetire where
  a : Nat
  b : Nat
  deriving DecidableEq, Repr

/-- A MAP that waits for a zero-fill (R200): the window whose record waits. -/
structure ZeroFill where
  fpn : Nat
  window : Nat
  deriving DecidableEq, Repr

/-- A far-memory port (R190-R195, R199, R220, R315). -/
structure FarPort where
  ingress : List Flit := []
  missSlots : List Flit := []
  /-- line addresses present, most recently used first (R191) -/
  lines : List Nat := []
  dirtyLines : List Nat := []
  /-- cached Cadastre entries by FPN, most recently used first (R194) -/
  cadCache : List Nat := []
  tally : List TallyRow := []
  retireQ : List Nat := []
  retiring : Option PageRetire := none
  snoops : List SnoopLine := []
  ageMax : BitVec 16 := 0
  trained : Bool := false
  init : Bool := false
  deriving DecidableEq, Repr

/-- Far memory, the Cadastre, faults and seals (07). -/
structure Far where
  mem : List Host.Cell := []
  /-- physical lines whose validity differs from the initialisation's (R218, R226) -/
  marks : List Nat := []
  entries : SMap CadEntry := []
  /-- the Lodge has set every PPN (R197) -/
  ppnSet : Bool := false
  ports : SMap FarPort := []
  faults : List FaultPage := []
  refusals : List RefusedPage := []
  /-- key: parcel; first FPN and page count of each entry (R209) -/
  seals : SMap (List (Nat × Nat)) := []
  fills : List ZeroFill := []
  /-- software-initialise mode was selected at the last start (R226) -/
  swInit : Bool := false
  /-- MEM_INIT_MODE as the start under way found it (R238) -/
  initMode : Nat := 0
  deriving DecidableEq, Repr

/-! ### Incidents and repair -/

/-- An incident entry (Table 8-5). -/
structure Incident where
  seqNo : W32
  cls : Byte
  action : Byte
  parcel : Option Nat
  source : Byte
  locKind : Nat
  locNum : Nat
  domain : Byte
  twinned : Bool
  time : W64
  addr : W64
  detail : W32
  deriving DecidableEq, Repr

/-- Incident log, overflow counts, Repair Plat and laps (08). -/
structure Repair where
  log : SMap Incident := []
  next : W32 := 0
  ack : W32 := 0
  logFull : W32 := 0
  ovf : SMap W32 := []
  /-- classes being handled (R236) -/
  handling : List Nat := []
  /-- classes whose handling ends with a parcel's completion record, and with a site's relocation (R236) -/
  waitStep : List (Nat × Nat) := []
  waitFence : List (Nat × Nat) := []
  history : List Incident := []
  /-- soft entries in the flash: site and terrace row, or 800 + site and near row (R221, R223, R225) -/
  softRows : List (Nat × Nat) := []
  /-- fuse entries of the factory test, in the same form, and those of columns: site or 800 + site, and bank × 2^16 + column (R223) -/
  fuseRows : List (Nat × Nat) := []
  fuseCols : List (Nat × Nat) := []
  /-- the Repair Plat as loaded: place, row, and the spare row of its macro in use; columns in use (R223) -/
  plat : List (Nat × Nat × Nat) := []
  platCols : List (Nat × Nat) := []
  /-- port and page of the far retirement whose incident 0x11 is being handled (R236) -/
  handled11 : Option (Nat × Nat) := none
  /-- where the scrubbers are: words or lines of the die read or passed over in the lap; key die × 2, plus 1 for far (R230) -/
  scrubbed : SMap Nat := []
  /-- page retirements in the flash, in order: entries A and B (R199, R222) -/
  retired : List (Nat × Nat) := []
  softClear : Bool := false
  nearRows : List (Nat × Nat) := []
  /-- target and bound of the laps under way, each plus one (R238): key die × 4, plus 2 for far, plus 1 for the bound -/
  laps : SMap Nat := []
  lapTer : SMap W32 := []
  lapFar : SMap W32 := []
  /-- addresses with an uncorrectable error in the open step, by parcel (R229) -/
  stepAddrs : List (Nat × Nat) := []
  deriving DecidableEq, Repr

/-! ### Gatehouses: parcels, windows, records -/

/-- What an RWS object or an OPERAND stages for a parcel's next mark (R14, R164, R357). -/
inductive StageKey where
  | operand (set idx : Nat)
  | object (idx sub : Nat)
  | beds
  | beacons (die : Nat)
  | clkBed (bed : Nat)
  deriving DecidableEq, Repr

/-- The states of a parcel (Table 11-2). -/
inductive PclSt where
  | absent | active | inReset | stopped
  deriving DecidableEq, Repr

/-- Why the Gatehouse has stopped a parcel's step, waiting for STEP_REPLAY or the end of the step (R228, R282). -/
inductive StepStop where
  | none
  | replay
  | checkpoint
  | placement
  deriving DecidableEq, Repr

/-- How far a boundary mark has come (R338). -/
inductive MarkPhase where
  | none
  /-- step 3: the readout is under way (R173) -/
  | readout
  /-- steps 4 to 6 follow -/
  | digests
  /-- the exchange of R298 is awaited -/
  | exchange
  deriving DecidableEq, Repr

/-- A boundary mark under way (R338). -/
structure MarkRun where
  phase : MarkPhase := .none
  /-- the condition of WAITQ held at step 1 (R338) -/
  quiet : Bool := false
  beddef : Bool := false
  thgen : W32 := 0
  entries : Nat := 0
  flags : BitVec 16 := 0
  -- what the completion record carries, once formed (R298)
  sd : W32 × W32 × W32 × W32 := (0, 0, 0, 0)
  csd : W32 × W32 × W32 × W32 := (0, 0, 0, 0)
  nflags : W32 := 0
  dmis : Bool := false
  ti : Bool := false
  deriving DecidableEq, Repr

/-- A parcel (R318-R322, R338-R340). -/
structure Parcel where
  st : PclSt := .absent
  port : Nat := 0
  beds : W32 := 0
  alloc0 : W64 := 0
  alloc1 : W64 := 0
  staged : List (StageKey × Nat) := []
  refused : W64 := 0
  bmarks : W64 := 0
  /-- boundary marks since EPOCH began (Table 10-6) -/
  epochBm : W64 := 0
  bcnLost : W32 := 0
  replayLimit : Byte := 2
  replays : W32 := 0
  compat : Byte := 0
  tally : BitVec 16 := 0xFFFF
  thArea : W64 := 0xFFFFFFFFFFFFFFFF
  thgen : W32 := 0
  readout : List (List Byte) := []
  /-- THGEN of the entries held (Table 12-10) -/
  thHeld : W32 := 0
  mark : MarkRun := {}
  -- the open step
  allTi : Bool := true
  allSafe : Bool := true
  updateBegun : Bool := false
  preempted : Bool := false
  /-- cores relocated in the step, whose operand stores a replay writes (R283) -/
  moved : List Nat := []
  stepReplays : Nat := 0
  recCount : Nat := 0
  csd : W32 × W32 × W32 × W32 := (0, 0, 0, 0)
  /-- work records executed in the step, for a replay (R283) -/
  stepRecs : List (List Byte) := []
  stop : StepStop := .none
  /-- the peer's DIGESTs not yet compared: BMARK, and CSD with SD (R298) -/
  peerDigests : List (W64 × List Byte) := []
  agreed : W64 := 0
  /-- stopped at a boundary mark for a rejoin (R302) -/
  rejoinHold : Bool := false
  /-- trap, fault and refused-write records that no enabled work window can take yet (log 13 [DEDUCED]) -/
  recBacklog : List (List Byte) := []
  /-- save areas that PREEMPTs have written, with the core each holds a context of (R129) -/
  saves : List (Nat × Nat) := []
  phStep : List Byte := []
  phBeds : SMap W64 := []
  deriving DecidableEq, Repr

/-- A command record as written to a window (Table 11-6): 64 bytes. -/
abbrev Rec := List Byte

/-- Contexts that a START started and that have not all ended (R334). -/
structure StartGroup where
  seqNo : W32
  flags : Byte
  htag : W32
  /-- core, context, and how its program ended: exit code, and whether by a trap -/
  members : List (Nat × Nat × Option (W64 × Bool))
  deriving DecidableEq, Repr

/-- A command window (R323-R329, Table 11-3). -/
structure Window where
  ctl : W32 := 0
  gen : BitVec 16 := 0
  next : W32 := 0
  binderr : Bool := false
  drop : Bool := false
  badseg : Bool := false
  genmis : Bool := false
  crBase : W64 := 0
  crLog : BitVec 5 := 6
  crHead : W32 := 0
  crTail : W32 := 0
  drops : W64 := 0
  /-- buffered records by SEQ -/
  buf : SMap Rec := []
  /-- SEQ of the seal of the segment that executes (R327) -/
  seg : Option W32 := none
  /-- the record that executes and waits (R328) -/
  waitRec : Option Rec := none
  /-- pages that a MAP, UNMAP or CLEAN under way has done (R336) -/
  pagesDone : Nat := 0
  /-- records to execute again in a replay (R283) -/
  replayQ : List Rec := []
  groups : List StartGroup := []
  /-- records to the host that wait for ring room (R341): bytes 0-63 without the ring's own fields, and IRQ -/
  backlog : List (List Byte × Bool) := []
  deriving DecidableEq, Repr

/-- A record write to host memory not yet globally observed (R344). -/
structure HostWrite where
  port : Nat
  addr : W64
  bytes : List Byte
  vector : Option Nat
  deriving DecidableEq, Repr

/-- A CXL.mem access that a port has accepted (R313, R330). -/
structure HostAcc where
  /-- HDM decoder -/
  dec : Nat
  write : Bool
  off : Nat
  len : Nat
  data : List Byte := []
  poisoned : Bool := false
  deriving DecidableEq, Repr

/-- A host port (R311-R317, R359). See log 92 [DESIGN CHOICE]. -/
structure Port where
  speed : Byte := 0
  width : Nat := 0
  linkUp : Bool := false
  d3hot : Bool := false
  perst : Bool := false
  /-- committed HDM decoders: decoder number to base, plus one (R313) -/
  hdm : SMap Nat := []
  /-- accesses that the port's ingress has accepted and that wait, in order of arrival (R194, R330) -/
  ingress : List HostAcc := []
  hwReq : List Byte := []
  hwRsp : List Byte := []
  hwCtl : W32 := 0
  hwTimeout : Bool := false
  hwDone : Bool := false
  hwBusy : Bool := false
  /-- requests of the window in the Lodge's queue whose time ran out (R360) -/
  hwStale : Nat := 0
  /-- the ACK the Lodge has given and HW_RSP does not yet hold -/
  hwAck : Option (List Byte) := none
  deriving DecidableEq, Repr

/-- Gatehouses and host ports (11). -/
structure Gate where
  parcels : SMap Parcel := []
  windows : SMap Window := []
  ports : SMap Port := []
  writes : List HostWrite := []
  /-- host memory as the module wrote it: key port × 2^64 + address -/
  hostMem : SMap Byte := []
  deriving DecidableEq, Repr

/-! ### Dictionary -/

/-- A kept ACK (R351). -/
structure KeptAck where
  src : Requester
  txid : Nat
  ack : List Byte
  deriving DecidableEq, Repr

/-- A segmented read's snapshot, or a segmented write's session (R353, R354). -/
structure Seg where
  src : Requester
  idx : Nat
  sub : Nat
  data : List Byte
  deriving DecidableEq, Repr

/-- A NOTIFY that waits for its ACK (R355). -/
structure Notice where
  txid : Nat
  msg : List Byte
  resends : Nat
  deriving DecidableEq, Repr

/-- The Lodge's dictionary (12). -/
structure Dict where
  /-- values of RW objects that differ from their defaults: key index × 256 + sub-index, bytes -/
  objs : SMap (List Byte) := []
  queue : List (Requester × List Byte) := []
  kept : List KeptAck := []
  snaps : List Seg := []
  sessions : List Seg := []
  notices : List Notice := []
  /-- events that NOTIFY_MASK enabled and no NOTIFY has reported yet, with the value to report (R355) -/
  events : List (Event × List Byte) := []
  nextTxid : Nat := 0
  stats : SMap W32 := []
  /-- selected register address word, by requester (R389) -/
  regSel : List (Requester × W32) := []
  csmaFallback : Bool := false
  /-- PLCA_NODE, PLCA_COUNT and PLCA_BURST in force (R347) -/
  plcaNode : Byte := 0xFF
  deriving DecidableEq, Repr

/-! ### Registers -/

/-- The latch of a counter's high word (R379). -/
structure Latch where
  src : Src
  block : Nat
  ctr : Nat
  high : W32
  deriving DecidableEq, Repr

/-- A module-wide or parcel snapshot in progress (R381). -/
structure SnapRun where
  ident : W32
  parcel : Option Nat
  /-- blocks that did not capture -/
  missed : List Nat := []
  deriving DecidableEq, Repr

/-- The common registers, counters and captures of every block (13). Blocks are keyed by address div 0x4000. -/
structure Regs where
  /-- key: block × 64 + counter -/
  ctrs : SMap W64 := []
  hold : SMap W64 := []
  snapId : SMap W32 := []
  snapCyc : SMap W64 := []
  snapCycm : SMap W64 := []
  chk : SMap Bool := []
  lockv : SMap Bool := []
  cfgerr : SMap Bool := []
  wign : SMap Bool := []
  cfgref : SMap W32 := []
  sview : SMap Bool := []
  /-- (block, source) pairs that are unlocked (R372) -/
  unlocked : List (Nat × Src) := []
  latches : List Latch := []
  /-- CAD_SEL and the latched entry, by source and die (R385) -/
  cadSel : List (Src × Nat × W32 × W64) := []
  /-- GK_CTL.EN cleared, by die (R386; reset 1) -/
  gkOff : SMap Bool := []
  /-- cycle counts by domain, as last observed (log 4 [DESIGN CHOICE]) -/
  cycles : SMap W64 := []
  snapRun : Option SnapRun := none
  snapLast : W32 := 0
  snapMissed : W32 := 0
  snapSkew : W32 := 0
  deriving DecidableEq, Repr

/-! ### Clocks, power, reset -/

/-- The reset or stop sequence that runs (R404, R409). -/
inductive Seq where
  | none | powerOn | warm
  deriving DecidableEq, Repr

/-- Clocks, power, pins and bring-up (14). -/
structure Power where
  /-- domains locked and running (Table 14-7) -/
  locked : BitVec 60 := 0
  /-- CLK8 in force of a bed, 0 standing for 8 -/
  clk8 : SMap Nat := []
  mesh8 : SMap Nat := []
  clkLog : List (List Byte) := []
  vin : Nat := 0
  iin : Nat := 0
  pin : Nat := 0
  tj : Int := 0
  lodgeUp : Bool := false
  /-- the compute rails are up (Table 14-6 step 4) -/
  rails : Bool := false
  /-- the dictionary is loaded: step 3 has ended since power-on (Table 14-6) -/
  dictUp : Bool := false
  /-- readings, one a millisecond, since TJ_MAX was last above TJ_WARN less 5 degrees (R411) -/
  coolMs : Nat := 0
  inputOk : Bool := false
  halt : Bool := false
  under : Bool := false
  ovWarn : Bool := false
  ovTrip : Bool := false
  thWarn : Bool := false
  thTrip : Bool := false
  /-- a power event has passed its filter and POWER_HALT has not come (R399) -/
  stopping : Bool := false
  poison : Bool := false
  resetPin : Bool := false
  fencePin : Bool := false
  warnPin : Bool := false
  resetHeld : Bool := false
  lockouts : List Pin := []
  alert : W32 := 0
  bringStep : Byte := 0
  seqRun : Seq := .none
  bringFailed : Bool := false
  /-- inputs whose hold of bring-up has been logged (R405) -/
  heldBy : List Pin := []
  failStopped : Bool := false
  /-- the class of a fail-stop whose open steps have not been ended yet (R301) -/
  failCls : Option Nat := none
  bringDone : Bool := false
  recovery : Bool := false
  deriving DecidableEq, Repr

/-! ### Twin operation -/

/-- The twin states (Table 10-7). -/
inductive TwinSt where
  | solo | pairing | paired | survivor | lost | rejoinSource | rejoinTarget | failStopped
  deriving DecidableEq, Repr

/-- Twin operation and the twin link (10). -/
structure Twin where
  st : TwinSt := .solo
  /-- state to return to from REJOIN-SOURCE (Table 10-7) -/
  prev : TwinSt := .solo
  epoch : BitVec 16 := 0
  lanes : Byte := 0
  /-- lanes that trained at bring-up (R294) -/
  trained : Byte := 0
  txSeq : W32 := 0
  rxSeq : W32 := 0
  replay : List (List Byte) := []
  /-- sequenced frames that wait for room in the replay buffer: TYPE and payload (R292) -/
  txQueue : List (Byte × List Byte) := []
  /-- key: SEQ of a frame in the replay buffer; how often it has been replayed (R294) -/
  tries : SMap Nat := []
  /-- the lane at which the rotation stands (R292) -/
  lane : Nat := 0
  nakOwed : Bool := false
  hbCount : W32 := 0
  /-- STATE and ROLE of the peer's last HEARTBEAT (R297) -/
  peerHb : Option (Byte × Byte) := none
  peerInfo : List Byte := []
  pairSent : Bool := false
  pairAckSent : Bool := false
  pairAckGot : Bool := false
  /-- class, cause and incident SEQ of the module's own fail-stop (R295) -/
  failMsg : Option (Byte × Byte × W32) := none
  rejoinReq : Bool := false
  rejoinPages : W32 := 0
  /-- the STATE header in force and the data received under it (R303) -/
  stateHdr : List Byte := []
  stateData : List Byte := []
  endSeen : Bool := false
  copying : Bool := false
  modeNow : Bool := false
  roleNow : Byte := 0
  deriving DecidableEq, Repr

/-! ### Firmware -/

/-- A requester's SPDM state (R428). -/
structure Spdm where
  src : Requester
  transcript : List Byte
  response : List Byte
  deriving DecidableEq, Repr

/-- Firmware, identity and attestation (15). See log 93 [PRESUMED]. -/
structure Firm where
  slotA : List Byte := []
  slotB : List Byte := []
  statA : Byte := 0
  statB : Byte := 0
  next : Byte := 0
  active : Byte := 0
  svn : Byte := 0
  revoked : Byte := 0
  keyHash : List (BitVec 256) := []
  seed : BitVec 256 := 0
  aliasKey : BitVec 256 := 0
  idPub : BitVec 512 := 0
  aliasCert : List Byte := []
  factoryCerts : List Byte := []
  ghDig : BitVec 256 := 0
  tblDig : BitVec 256 := 0
  stepping : Byte := 0xB0
  serial : List Byte := []
  mac : List Byte := []
  bootCnt : W32 := 0
  spdm : List Spdm := []
  meas : List (Requester × List Byte) := []
  /-- slots that failed verification at the last boot and are not yet logged (R419) -/
  bootFails : Nat := 0
  fromRecovery : Bool := false
  deriving DecidableEq, Repr

/-- The placement of logical cores (R24-R28): sparse over the all-passed factory. -/
structure Place where
  /-- bed (die × 16 + bed) to the bed-local index of its factory idle site + 1; absent: the centre, index 12 -/
  factoryIdle : SMap Nat := []
  /-- beds shipped with their spare consumed (R24) -/
  shipUsed : SMap Bool := []
  /-- relocated logical core to its CSITE (R27) -/
  reloc : SMap Nat := []
  /-- beds whose spare a relocation has consumed -/
  used : SMap Bool := []
  absent : SMap Bool := []
  /-- cores to fence: their relocation is under way (R27, R28) -/
  fencing : List Nat := []
  /-- cores to return at the next start (R364) -/
  returns : List Nat := []
  deriving DecidableEq, Repr

/-! ### The whole state -/

/-- What the module sends to the outside world, in the order it sends it (log 5 [DESIGN CHOICE]). -/
inductive OutMsg where
  | cixa (dest : Requester) (msg : List Byte)
  /-- a NOTIFY and where it goes (R355) -/
  | notify (dest msg : List Byte)
  /-- a frame on a lane of the twin link (R292) -/
  | twin (lane : Nat) (frame : List Byte)
  | msix (port vector : Nat)
  | memData (port : Nat) (data : List Byte) (poisoned : Bool)
  | memDone (port : Nat)
  | bisnp (port line : Nat) (inv : Bool)
  | snoopRsp (port : Nat)
  | configRetry (port : Nat)
  | echoReply (dest : Nat) (data : List Byte)
  | regRead (src : Src) (value : W32)
  deriving DecidableEq, Repr

/-- The state of the module. -/
structure State where
  pending : List Instr := []
  free : Nat := 0
  outbox : List OutMsg := []
  sites : SMap Site := []
  mesh : Mesh := {}
  far : Far := {}
  repair : Repair := {}
  gate : Gate := {}
  dict : Dict := {}
  regs : Regs := {}
  pwr : Power := {}
  twin : Twin := {}
  firm : Firm := {}
  place : Place := {}
  deriving DecidableEq, Repr

/-- The module right after reset: no input power yet, the Lodge not up, every field at its reset value (R406 power-on,
log 6 [DESIGN CHOICE]); the queue is empty. -/
def State.reset : State := {}

/-- Why a step faults. No command of this model faults: what the spec gives no occurrence to in the present state
leaves the state as it is (log 2 [DESIGN CHOICE]). -/
inductive Fault where
  /-- Raised by nothing; kept so that the type has a value. Safe. -/
  | none
  deriving DecidableEq, Repr

/-- Why a step has no meaning. -/
inductive Refusal where
  /-- The command of this mnemonic has no meaning in the model yet. Raised by exec's arms alone; safe. -/
  | notModelled (mnemonic : String)
  deriving DecidableEq, Repr

end Sys2Proof.Machine
end

