-- ==== Sys2Proof/Machine/Sparse.lean ====
section
/-!
DEFINITION. Sparse maps in canonical form (rising keys, no default entries), and byte memories over them (log 7 [DESIGN CHOICE]).
-/

namespace Sys2Proof.Machine

/-- The value at key k; d where the map lists none. -/
def sget {α : Type} (d : α) : SMap α → Nat → α
  | [], _ => d
  | (j, x) :: t, k => if k = j then x else sget d t k

/-- The map with key k listed with value v. -/
def sput {α : Type} : SMap α → Nat → α → SMap α
  | [], k, v => [(k, v)]
  | (j, x) :: t, k, v => if k = j then (k, v) :: t else if k < j then (k, v) :: (j, x) :: t else (j, x) :: sput t k v

/-- The map without key k. -/
def sdel {α : Type} (m : SMap α) (k : Nat) : SMap α := m.filter fun e => e.1 ≠ k

/-- The map with value v at key k, in canonical form over the default d. -/
def sset {α : Type} [DecidableEq α] (d : α) (m : SMap α) (k : Nat) (v : α) : SMap α :=
  if v = d then sdel m k else sput m k v

/-- The map with f applied at key k. -/
def smod {α : Type} [DecidableEq α] (d : α) (m : SMap α) (k : Nat) (f : α → α) : SMap α :=
  sset d m k (f (sget d m k))

/-- Every key of the map is above k. -/
def sabove {α : Type} (k : Nat) : SMap α → Bool
  | [] => true
  | (j, _) :: _ => k < j

/-- The canonical form: keys strictly rising, no entry equal to the default. -/
def swf {α : Type} [DecidableEq α] (d : α) : SMap α → Bool
  | [] => true
  | (j, x) :: t => sabove j t && decide (x ≠ d) && swf d t

/-- A list of numbers in rising order, as a set: insertion. -/
def nins : List Nat → Nat → List Nat
  | [], k => [k]
  | j :: t, k => if k = j then j :: t else if k < j then k :: j :: t else j :: nins t k

/-- A set of numbers in rising order: removal. -/
def ndel (l : List Nat) (k : Nat) : List Nat := l.filter (· ≠ k)

/-! ### Bytes -/

/-- The n little-endian bytes of a number (R12). -/
def leBytes : Nat → Nat → List Byte
  | 0, _ => []
  | n + 1, v => BitVec.ofNat 8 v :: leBytes n (v / 256)

/-- The number of little-endian bytes (R12). -/
def leNat : List Byte → Nat
  | [] => 0
  | b :: t => b.toNat + 256 * leNat t

/-- Bytes off to off + n - 1 of a list, as a little-endian number; missing bytes are zero. -/
def field (l : List Byte) (off n : Nat) : Nat := leNat ((l.drop off).take n)

/-- A signed little-endian field. -/
def sfield (l : List Byte) (off n : Nat) : Int :=
  let v := field l off n
  if v < 2 ^ (8 * n - 1) then (v : Int) else (v : Int) - (2 ^ (8 * n) : Nat)

/-- Bits lo to lo + n - 1 of a number. -/
def bits (v lo n : Nat) : Nat := v / 2 ^ lo % 2 ^ n

/-- Bit i of a number. -/
def bit (v i : Nat) : Bool := bits v i 1 = 1

/-- n bytes of zero. -/
def zeros (n : Nat) : List Byte := List.replicate n 0

/-- A list cut or zero-extended to n bytes. -/
def fit (n : Nat) (l : List Byte) : List Byte := (l ++ zeros n).take n

/-- The list with its bytes from off on replaced by those of v. -/
def patch (l : List Byte) (off : Nat) (v : List Byte) : List Byte :=
  l.take off ++ v ++ l.drop (off + v.length)

/-- Every byte is zero. -/
def allZero (l : List Byte) : Bool := l.all (· = 0)

/-! ### Byte memories -/

/-- The byte at an address; an unlisted address reads as zero (R226, log 7 [DESIGN CHOICE]). -/
def mrd (m : List Host.Cell) (a : Nat) : Byte := sget 0 m a

/-- The memory with a byte written. -/
def mwr (m : List Host.Cell) (a : Nat) (b : Byte) : List Host.Cell := sset 0 m a b

/-- n bytes from an address on. -/
def mrdN (m : List Host.Cell) (a n : Nat) : List Byte := (List.range n).map fun i => mrd m (a + i)

/-- The memory with the bytes written from an address on. -/
def mwrN : List Host.Cell → Nat → List Byte → List Host.Cell
  | m, _, [] => m
  | m, a, b :: t => mwrN (mwr m a b) (a + 1) t

/-- The canonical form of a memory. -/
def Memory.wf (m : List Host.Cell) : Bool := swf 0 m

end Sys2Proof.Machine
end

