-- ==== Sys2Proof/Machine/Bits.lean ====
section
/-!
DEFINITION. The keyed mixing function (R142), the digest contribution (R276), CRC-32C (R291, R375) and the
Reed-Solomon code of far memory (R216, R217).
-/

namespace Sys2Proof.Machine

/-! ### The mask generator (R142) -/

/-- The four words of the mixing function's state. -/
structure MixW where
  x0 : W32
  x1 : W32
  x2 : W32
  x3 : W32
  deriving DecidableEq, Repr

/-- One round of R142 with rotations ra and rb. -/
def mixRound (ra rb : Nat) (w : MixW) : MixW :=
  let x0 := w.x0 + w.x1
  let x3 := (w.x3 ^^^ x0).rotateLeft ra
  let x2 := w.x2 + x3
  let x1 := (w.x1 ^^^ x2).rotateLeft rb
  ⟨x0, x1, x2, x3⟩

/-- mix(key, ctr) of R142. -/
def mix (key : W64) (ctr : BitVec 128) : W64 :=
  let k0 : W32 := key.extractLsb' 0 32
  let k1 : W32 := key.extractLsb' 32 32
  let k2 : W32 := k0 ^^^ k1 ^^^ 0x5C4E8A37
  let w : MixW := ⟨ctr.extractLsb' 0 32 + k0, ctr.extractLsb' 32 32 + k1, ctr.extractLsb' 64 32 + k2, ctr.extractLsb' 96 32⟩
  let w := mixRound 8 20 (mixRound 12 8 (mixRound 16 12 w))
  let w : MixW := ⟨w.x0 + k1, w.x1 + k2, w.x2 + k0, w.x3 + 1⟩
  let w := mixRound 8 20 (mixRound 12 8 (mixRound 16 12 w))
  let w : MixW := ⟨w.x0 + k2, w.x1 + k0, w.x2 + k1, w.x3 + 2⟩
  (w.x1 ^^^ w.x3) ++ (w.x0 ^^^ w.x2)

/-- The counter of R142: layer tag, step, tensor id, element index. -/
def maskCtr (stp : W32) (tag : BitVec 12) (tid idx : W32) : BitVec 128 :=
  (0 : BitVec 20) ++ tag ++ stp ++ tid ++ idx

/-- The generator's output for a tuple (R142, R143). -/
def maskOut (seed : W64) (stp : W32) (tag : BitVec 12) (tid idx : W32) : W64 :=
  mix seed (maskCtr stp tag tid idx)

/-! ### Digests (R276) -/

/-- Four digest words, CD0 first. -/
abbrev Dig := W32 × W32 × W32 × W32

/-- Word-wise addition of digests (R277). -/
def Dig.plus (a b : Dig) : Dig := (a.1 + b.1, a.2.1 + b.2.1, a.2.2.1 + b.2.2.1, a.2.2.2 + b.2.2.2)

/-- The contribution of R276 of a piece of 1 to 64 bytes at core address a with source word src. -/
def contribution (a : W64) (src : W32) (piece : List Byte) : Dig :=
  let n := piece.length
  let p := fit 64 piece
  (List.range 8).foldl (fun acc i =>
    let k : W64 := BitVec.ofNat 64 (field p (8 * i) 8)
    let top : W32 := BitVec.ofNat 32 (i + (n - 1) * 256)
    let z := mix k (top ++ src ++ a)
    let y := mix k ((top ||| 0x80000000) ++ src ++ a)
    acc.plus (z.extractLsb' 0 32, z.extractLsb' 32 32, y.extractLsb' 0 32, y.extractLsb' 32 32)) (0, 0, 0, 0)

/-- The source word of Table 10-2. -/
def srcWord (parcel unit core : Nat) : W32 :=
  BitVec.ofNat 32 (parcel % 8 * 2 ^ 14 + unit % 16 * 2 ^ 10 + core % 1024)

/-- The contributions of a write, split at 64-byte boundaries (R276); fuel is at least the number of pieces. -/
def writeDigest (src : W32) : Nat → W64 → List Byte → Dig
  | 0, _, _ => (0, 0, 0, 0)
  | _ + 1, _, [] => (0, 0, 0, 0)
  | f + 1, a, l =>
    let n := 64 - a.toNat % 64
    (contribution a src (l.take n)).plus (writeDigest src f (a + BitVec.ofNat 64 n) (l.drop n))

/-- The 16 bytes of a digest, CD0 first (Table 11-10). -/
def Dig.bytes (d : Dig) : List Byte :=
  leBytes 4 d.1.toNat ++ leBytes 4 d.2.1.toNat ++ leBytes 4 d.2.2.1.toNat ++ leBytes 4 d.2.2.2.toNat

/-! ### CRC-32C (R291) -/

/-- Eight shift steps of the reflected CRC-32C register. -/
def crcBits : Nat → W32 → W32
  | 0, c => c
  | n + 1, c => crcBits n (if c.getLsbD 0 then (c >>> 1) ^^^ 0x82F63B78 else c >>> 1)

/-- CRC-32C of a byte string: polynomial 0x1EDC6F41 reflected, initial value and final XOR all ones (R291, R375). -/
def crc32c (l : List Byte) : W32 :=
  (l.foldl (fun c b => crcBits 8 (c ^^^ b.zeroExtend 32)) 0xFFFFFFFF) ^^^ 0xFFFFFFFF

/-! ### Reed-Solomon over GF(2^8) (R216, R217) -/

/-- Multiplication by x in GF(2^8) with the polynomial 0x11D. -/
def gfX (a : Byte) : Byte := if a.getLsbD 7 then (a <<< 1) ^^^ 0x1D else a <<< 1

/-- Product in GF(2^8), from bit n - 1 of b downwards. -/
def gfMulN : Nat → Byte → Byte → Byte
  | 0, _, _ => 0
  | n + 1, a, b => gfX (gfMulN n a (b >>> 1)) ^^^ (if b.getLsbD 0 then a else 0)

/-- Product in GF(2^8) (R216). -/
def gfMul (a b : Byte) : Byte := gfMulN 8 a b

/-- α to a power. -/
def gfPow : Nat → Byte
  | 0 => 1
  | n + 1 => gfX (gfPow n)

/-- The remainder r(x) = d(x) x^4 mod g(x) as p3, p2, p1, p0, with g(x) = (x+1)(x+α)(x+α²)(x+α³) (R216). -/
def rsCheck (d : List Byte) : List Byte :=
  let g3 : Byte := 0x0F
  let g2 : Byte := 0x36
  let g1 : Byte := 0x78
  let g0 : Byte := 0x40
  let r := d.foldl (fun (r : Byte × Byte × Byte × Byte) b =>
    let f := b ^^^ r.1
    (r.2.1 ^^^ gfMul f g3, r.2.2.1 ^^^ gfMul f g2, r.2.2.2 ^^^ gfMul f g1, gfMul f g0)) (0, 0, 0, 0)
  [r.1, r.2.1, r.2.2.1, r.2.2.2]

/-- Syndrome S_j = c(α^j) of a 68-symbol word, first symbol the highest power (R216). -/
def rsSyn (c : List Byte) (j : Nat) : Byte := c.foldl (fun acc b => gfMul acc (gfPow j) ^^^ b) 0

/-- A word with a symbol turned. -/
def rsFlip (c : List Byte) (pos : Nat) (v : Byte) : List Byte := c.set pos (c.getD pos 0 ^^^ v)

/-- The word's syndromes are all zero. -/
def rsClean (c : List Byte) : Bool := rsSyn c 0 = 0 && rsSyn c 1 = 0 && rsSyn c 2 = 0 && rsSyn c 3 = 0

/-- The single-symbol correction of a word, if one makes it a codeword: its value is S_0 at some position. -/
def rsFix1 (c : List Byte) : Option (List Byte) :=
  ((List.range c.length).map fun p => rsFlip c p (rsSyn c 0)).find? rsClean

/-- The inverse in GF(2^8), as the 254th power. -/
def gfInv (a : Byte) : Byte := (List.range 253).foldl (fun acc _ => gfMul acc a) a

/-- The two-symbol correction of a word: at positions p < q, with u + v = S_0 and u X_p + v X_q = S_1. -/
def rsFix2 (c : List Byte) : Option (List Byte) :=
  let s0 := rsSyn c 0
  let s1 := rsSyn c 1
  let n := c.length
  ((List.range n).flatMap fun q => (List.range q).map fun p =>
      let xp := gfPow (n - 1 - p)
      let xq := gfPow (n - 1 - q)
      let v := gfMul (s1 ^^^ gfMul s0 xp) (gfInv (xp ^^^ xq))
      rsFlip (rsFlip c p (s0 ^^^ v)) q v).find? rsClean

/-- What the decoder makes of a word (R217): the data and whether it corrected, or none for uncorrectable.
Mode 0 is CORR2, mode 1 is CORR1DET. -/
def rsDecode (mode : Nat) (c : List Byte) : Option (List Byte × Bool) :=
  if rsClean c then some (c.take 64, false)
  else match rsFix1 c with
    | some d => some (d.take 64, true)
    | none => if mode = 0 then (rsFix2 c).map fun d => (d.take 64, true) else none

end Sys2Proof.Machine
end

