-- ==== Sys2Proof/Machine/Float.lean ====
section
/-!
DEFINITION. Exact values, the element formats of Table 2-2, one rounding, and the FP32 operations of R84 and R162.
A finite value is sign, magnitude and exponent; an exact quotient carries a sticky flag below its last bit.
-/

namespace Sys2Proof.Machine

/-- A value of any format: NaN, an infinity, or ± m × 2^e with a sticky flag for a discarded nonzero rest. -/
inductive FV where
  | nan
  | inf (neg : Bool)
  | fin (neg : Bool) (m : Nat) (e : Int) (sticky : Bool)
  deriving DecidableEq, Repr

/-- How a format uses its highest codes (Table 2-2). -/
inductive Special where
  | ieee | e4m3 | plain
  deriving DecidableEq, Repr

/-- A floating-point element format (Table 2-2). -/
structure Fmt where
  eb : Nat
  mb : Nat
  bias : Int
  special : Special
  deriving DecidableEq, Repr

def fmtE2M1 : Fmt := ⟨2, 1, 1, .plain⟩
def fmtE2M3 : Fmt := ⟨2, 3, 1, .plain⟩
def fmtE3M2 : Fmt := ⟨3, 2, 3, .plain⟩
def fmtE4M3 : Fmt := ⟨4, 3, 7, .e4m3⟩
def fmtE5M2 : Fmt := ⟨5, 2, 15, .ieee⟩
def fmtFP16 : Fmt := ⟨5, 10, 15, .ieee⟩
def fmtBF16 : Fmt := ⟨8, 7, 127, .ieee⟩
def fmtFP32 : Fmt := ⟨8, 23, 127, .ieee⟩

/-- The width of a format in bits. -/
def Fmt.width (f : Fmt) : Nat := 1 + f.eb + f.mb

/-- The magnitude code of the largest finite value (Table 2-2). -/
def Fmt.maxCode (f : Fmt) : Nat :=
  match f.special with
  | .ieee => (2 ^ f.eb - 1) * 2 ^ f.mb - 1
  | .e4m3 => 2 ^ (f.eb + f.mb) - 2
  | .plain => 2 ^ (f.eb + f.mb) - 1

/-- The value of a magnitude code with a sign (R33). -/
def Fmt.ofCode (f : Fmt) (neg : Bool) (c : Nat) : FV :=
  let e := c / 2 ^ f.mb
  let m := c % 2 ^ f.mb
  if e = 0 then .fin neg m (1 - f.bias - f.mb) false else .fin neg (2 ^ f.mb + m) (e - f.bias - f.mb) false

/-- The value of an element's bits (R33, Table 2-2). -/
def Fmt.decode (f : Fmt) (b : Nat) : FV :=
  let neg := bit b (f.eb + f.mb)
  let c := b % 2 ^ (f.eb + f.mb)
  if c ≤ f.maxCode then f.ofCode neg c
  else match f.special with
    | .ieee => if c = f.maxCode + 1 then .inf neg else .nan
    | _ => .nan

/-- The canonical positive NaN of a format (R35); zero where the format has none. -/
def Fmt.nanBits (f : Fmt) : Nat :=
  match f.special with
  | .ieee => (2 ^ f.eb - 1) * 2 ^ f.mb + 2 ^ (f.mb - 1)
  | .e4m3 => 2 ^ (f.eb + f.mb) - 1
  | .plain => 0

/-- The bits of an infinity. -/
def Fmt.infBits (f : Fmt) (neg : Bool) : Nat :=
  (if neg then 2 ^ (f.eb + f.mb) else 0) + (2 ^ f.eb - 1) * 2 ^ f.mb

/-- The exponent of the unit that a magnitude of length len bits and exponent e rounds to. -/
def Fmt.quantum (f : Fmt) (m : Nat) (e : Int) : Int :=
  max ((Nat.log2 m : Int) + e - f.mb) (1 - f.bias - f.mb)

/-- A magnitude split at a unit 2^u: whole units, and the rest as numerator over 2^k. -/
def splitAt (m : Nat) (e u : Int) : Nat × Nat × Nat :=
  if u ≤ e then (m * 2 ^ (e - u).toNat, 0, 0)
  else let k := (u - e).toNat; (m / 2 ^ k, m % 2 ^ k, k)

/-- Whole units rounded to nearest, ties to even, from the units, the rest over 2^k and a sticky flag. -/
def rneUnits (q r k : Nat) (sticky : Bool) : Nat :=
  if k = 0 then q
  else if 2 * r > 2 ^ k ∨ (2 * r = 2 ^ k ∧ (sticky = true ∨ q % 2 = 1)) then q + 1 else q

/-- The magnitude code that m × 2^e rounds to, to nearest with ties to even, over an unbounded range of codes (R44). -/
def Fmt.roundCode (f : Fmt) (m : Nat) (e : Int) (sticky : Bool) : Nat :=
  if m = 0 then 0
  else
    let u := f.quantum m e
    let (q, r, k) := splitAt m e u
    (u + f.bias + f.mb - 1).toNat * 2 ^ f.mb + rneUnits q r k sticky

/-- The bits of a sign and a magnitude code. -/
def Fmt.pack (f : Fmt) (neg : Bool) (c : Nat) : Nat := (if neg then 2 ^ (f.eb + f.mb) else 0) + c

/-- One rounding to FP32, BF16 or FP16, to infinity on overflow (R34, R35, R40, R44). -/
def Fmt.round (f : Fmt) : FV → Nat
  | .nan => f.nanBits
  | .inf neg => f.infBits neg
  | .fin neg m e s =>
    let c := f.roundCode m e s
    if c ≤ f.maxCode then f.pack neg c else f.infBits neg

/-- One rounding of a value to FP32. -/
def toF32 (v : FV) : W32 := BitVec.ofNat 32 (fmtFP32.round v)

/-- The value of an FP32 word. -/
def ofF32 (w : W32) : FV := fmtFP32.decode w.toNat

/-! ### Exact arithmetic -/

/-- An exact dyadic number n × 2^e. -/
structure Dy where
  n : Int
  e : Int
  deriving DecidableEq, Repr

/-- Exact sum. -/
def Dy.add (a b : Dy) : Dy :=
  if a.e ≤ b.e then ⟨a.n + b.n * (2 ^ (b.e - a.e).toNat : Nat), a.e⟩
  else ⟨a.n * (2 ^ (a.e - b.e).toNat : Nat) + b.n, b.e⟩

/-- Exact product. -/
def Dy.mul (a b : Dy) : Dy := ⟨a.n * b.n, a.e + b.e⟩

/-- Negation. -/
def Dy.neg (a : Dy) : Dy := ⟨-a.n, a.e⟩

/-- a ≤ b. -/
def Dy.le (a b : Dy) : Bool := decide ((a.add b.neg).n ≤ 0)

/-- The number as a value; negZero is the sign an exact zero takes. -/
def Dy.val (a : Dy) (negZero : Bool) : FV :=
  .fin (if a.n = 0 then negZero else decide (a.n < 0)) a.n.natAbs a.e false

/-- A finite value as an exact number; zero for the others. -/
def FV.dy : FV → Dy
  | .fin neg m e _ => ⟨if neg then -(m : Int) else m, e⟩
  | _ => ⟨0, 0⟩

/-- The sign of a value. -/
def FV.sgn : FV → Bool
  | .nan => false
  | .inf neg => neg
  | .fin neg _ _ _ => neg

/-- The value is a zero. -/
def FV.isZero : FV → Bool
  | .fin _ m _ _ => m = 0
  | _ => false

/-- The value is finite. -/
def FV.isFin : FV → Bool
  | .fin _ _ _ _ => true
  | _ => false

/-- The value negated. -/
def FV.negate : FV → FV
  | .nan => .nan
  | .inf neg => .inf (!neg)
  | .fin neg m e s => .fin (!neg) m e s

/-- The exact sum of two values, zero signs by round to nearest (R84). -/
def FV.add (a b : FV) : FV :=
  match a, b with
  | .nan, _ => .nan
  | _, .nan => .nan
  | .inf x, .inf y => if x = y then .inf x else .nan
  | .inf x, _ => .inf x
  | _, .inf y => .inf y
  | a, b => (a.dy.add b.dy).val (a.sgn && b.sgn)

/-- The exact product of two values. -/
def FV.mul (a b : FV) : FV :=
  match a, b with
  | .nan, _ => .nan
  | _, .nan => .nan
  | .inf x, b => if b.isZero then .nan else .inf (x != b.sgn)
  | a, .inf y => if a.isZero then .nan else .inf (a.sgn != y)
  | a, b => (a.dy.mul b.dy).val (a.sgn != b.sgn)

/-- The exact quotient of two finite magnitudes, 128 bits or more of it, with a sticky rest. -/
def quot (neg : Bool) (m1 : Nat) (e1 : Int) (m2 : Nat) (e2 : Int) : FV :=
  let k := 128 + Nat.log2 m2
  let n := m1 * 2 ^ k
  .fin neg (n / m2) (e1 - e2 - k) (decide (n % m2 ≠ 0))

/-- The exact quotient of two values (R44, R168). -/
def FV.div (a b : FV) : FV :=
  match a, b with
  | .nan, _ => .nan
  | _, .nan => .nan
  | .inf _, .inf _ => .nan
  | .inf x, b => .inf (x != b.sgn)
  | a, .inf y => .fin (a.sgn != y) 0 0 false
  | .fin n1 m1 e1 _, .fin n2 m2 e2 _ =>
    if m2 = 0 then (if m1 = 0 then .nan else .inf (n1 != n2)) else quot (n1 != n2) m1 e1 m2 e2

/-- a < b; false with a NaN, and for the two zeros. -/
def FV.lt (a b : FV) : Bool :=
  match a, b with
  | .nan, _ => false
  | _, .nan => false
  | .inf x, .inf y => x && !y
  | .inf x, _ => x
  | _, .inf y => !y
  | a, b => !(b.dy.le a.dy)

/-- The largest r with r² ≤ n, from bit k of the root downwards. -/
def isqrtFrom (n : Nat) : Nat → Nat → Nat
  | 0, r => if (r + 1) * (r + 1) ≤ n then r + 1 else r
  | k + 1, r => let r' := r + 2 ^ (k + 1); isqrtFrom n k (if r' * r' ≤ n then r' else r)

/-- The integer square root. -/
def isqrt (n : Nat) : Nat := isqrtFrom n (Nat.log2 n / 2) 0

/-- The square root of a positive magnitude, 100 bits or more of it, with a sticky rest. -/
def rootMag (m : Nat) (e : Int) : FV :=
  let k : Nat := if (e % 2) = 0 then 256 else 257
  let n := m * 2 ^ k
  let r := isqrt n
  .fin false r ((e - k) / 2) (decide (r * r ≠ n))

/-- The exact square root of a value (R84). -/
def FV.sqrt : FV → FV
  | .nan => .nan
  | .inf neg => if neg then .nan else .inf false
  | .fin neg m e _ => if m = 0 then .fin neg 0 0 false else if neg then .nan else rootMag m e

/-- The exact reciprocal square root of a value (R84). -/
def FV.rsqrt : FV → FV
  | .nan => .nan
  | .inf neg => if neg then .nan else .fin false 0 0 false
  | .fin neg m e _ =>
    if m = 0 then .inf neg
    else if neg then .nan
    else
      -- 1/√(m 2^e) = √(2^k / m) 2^((-e-k)/2), with k of e's parity and 400 bits of quotient
      let k : Nat := if (e % 2) = 0 then 400 else 401
      let n := 2 ^ k / m
      let r := isqrt n
      .fin false r ((-e - k) / 2) (decide (r * r * m ≠ 2 ^ k))

/-! ### Powers and logarithms of two (R84)

Each is bracketed between two numbers at the working precision below; where both round alike that is the correctly
rounded result. The precision separates every FP32 operand (log 8 [DEDUCED]). -/

/-- Working precision of EXP2. -/
def expPrec : Nat := 256

/-- A lower and an upper bound of 2^f at 2^-expPrec, f the fraction with q bits left of value fr / 2^q; c is the
bracket of 2^(2^-i) for the bit under way. -/
def exp2Frac : Nat → Nat → Nat × Nat → Nat × Nat → Nat × Nat
  | 0, _, _, acc => acc
  | q + 1, fr, c, acc =>
    let lo := isqrt (c.1 * 2 ^ expPrec)
    let hi := isqrt (c.2 * 2 ^ expPrec) + 1
    let acc := if bit fr q then (acc.1 * lo / 2 ^ expPrec, acc.2 * hi / 2 ^ expPrec + 1) else acc
    exp2Frac q fr (lo, hi) acc

/-- The value, or its upper bound, whose rounding is that of both bounds; the lower bound if they differ (log 8 [DEDUCED]). -/
def bracket (neg : Bool) (lo hi : Nat) (e : Int) : FV :=
  if fmtFP32.roundCode lo e true = fmtFP32.roundCode hi e false then .fin neg lo e true else .fin neg hi e false

/-- 2^x (R84). -/
def FV.exp2 : FV → FV
  | .nan => .nan
  | .inf neg => if neg then .fin false 0 0 false else .inf false
  | .fin neg m e _ =>
    if m = 0 then .fin false 1 0 false
    else if (Nat.log2 m : Int) + e ≥ 8 then (if neg then .fin false 0 0 false else .inf false)
    else
      let x : Int := if neg then -(m : Int) else m
      if 0 ≤ e then .fin false 1 (x * (2 ^ e.toNat : Nat)) false
      else
        let q := (-e).toNat
        let n := x / (2 ^ q : Nat)
        let fr := (x % (2 ^ q : Nat)).toNat
        if fr = 0 then .fin false 1 n false
        else
          let b := exp2Frac q fr (2 * 2 ^ expPrec, 2 * 2 ^ expPrec) (2 ^ expPrec, 2 ^ expPrec)
          bracket false b.1 b.2 (n - expPrec)

/-- Working precision of LOG2, and the fraction bits it forms. -/
def logPrec : Nat := 512
def logBits : Nat := 224

/-- n fraction bits of log2 of t / 2^logPrec in [1, 2), each squaring rounded down (up if up is true). -/
def log2Frac (up : Bool) : Nat → Nat → Nat → Nat
  | 0, _, acc => acc
  | n + 1, t, acc =>
    let s := t * t / 2 ^ logPrec + (if up then 1 else 0)
    if 2 * 2 ^ logPrec ≤ s then log2Frac up n (s / 2 + (if up then 1 else 0)) (2 * acc + 1)
    else log2Frac up n s (2 * acc)

/-- log2 of a value (R84). -/
def FV.log2 : FV → FV
  | .nan => .nan
  | .inf neg => if neg then .nan else .inf false
  | .fin neg m e _ =>
    if m = 0 then .inf true
    else if neg then .nan
    else
      let l := Nat.log2 m
      let k : Int := l + e
      if m = 2 ^ l then (⟨k, 0⟩ : Dy).val false
      else
        let t := m * 2 ^ logPrec / 2 ^ l
        let lo : Int := k * (2 ^ logBits : Nat) + log2Frac false logBits t 0
        let hi : Int := k * (2 ^ logBits : Nat) + log2Frac true logBits (t + 1) 0 + 1
        if 0 ≤ lo then bracket false lo.natAbs hi.natAbs (-logBits)
        else bracket true hi.natAbs lo.natAbs (-logBits)

/-! ### FP32 operations on words (R84, R162) -/

def fadd (a b : W32) : W32 := toF32 ((ofF32 a).add (ofF32 b))
def fsub (a b : W32) : W32 := toF32 ((ofF32 a).add (ofF32 b).negate)
def fmul (a b : W32) : W32 := toF32 ((ofF32 a).mul (ofF32 b))
def ffma (a b c : W32) : W32 := toF32 (((ofF32 a).mul (ofF32 b)).add (ofF32 c))
def fdiv (a b : W32) : W32 := toF32 ((ofF32 a).div (ofF32 b))
def frcp (a : W32) : W32 := toF32 ((FV.fin false 1 0 false).div (ofF32 a))
def fsqrt (a : W32) : W32 := toF32 (ofF32 a).sqrt
def frsqrt (a : W32) : W32 := toF32 (ofF32 a).rsqrt
def fexp2 (a : W32) : W32 := toF32 (ofF32 a).exp2
def flog2 (a : W32) : W32 := toF32 (ofF32 a).log2

/-- a < b as FP32 values. -/
def flt (a b : W32) : Bool := (ofF32 a).lt (ofF32 b)

/-- The word is a NaN. -/
def fnan (a : W32) : Bool := ofF32 a = .nan

/-- The canonical FP32 NaN (R35). -/
def canonNaN : W32 := 0x7FC00000

/-- Maximum: NaN if either is NaN, and −0 below +0 (Table 3-14). -/
def fmax (a b : W32) : W32 :=
  if fnan a || fnan b then canonNaN
  else if flt a b then b else if flt b a then a else if a.getLsbD 31 then b else a

/-- Minimum: NaN if either is NaN, and −0 below +0 (Table 3-14). -/
def fmin (a b : W32) : W32 :=
  if fnan a || fnan b then canonNaN
  else if flt a b then a else if flt b a then b else if a.getLsbD 31 then a else b

/-- The sign bit cleared (Table 3-14: sign bit only). -/
def fabs (a : W32) : W32 := a &&& 0x7FFFFFFF

/-- The sign bit turned (Table 3-14: sign bit only). -/
def fneg (a : W32) : W32 := a ^^^ 0x80000000

/-- v ≠ 0 as an FP32 value: a NaN is not zero (Table 3-14, VSEL). -/
def fnz (a : W32) : Bool := !(ofF32 a).isZero

/-- Plus one. -/
def f32one : W32 := 0x3F800000

end Sys2Proof.Machine
end

