-- ==== Sys2Proof/Machine/Flags.lean ====
section
/-!
DEFINITION. Format codes (Table 2-1), every conversion of R44 to R55 with the NFLAGS bits it sets (Table 2-6),
DAF96 arithmetic, and the lane arithmetic of R40 to R43.
-/

namespace Sys2Proof.Machine

/-! ### NFLAGS (Table 2-6) -/

def fDX : W32 := 0x01
def fUF : W32 := 0x02
def fOF : W32 := 0x04
def fNV : W32 := 0x08
def fSAT : W32 := 0x10
def fINTOV : W32 := 0x20

/-! ### Format codes (Table 2-1) -/

/-- The row classes of Table 2-1. -/
inductive RowClass where
  | c16 | c8I | c8 | c4
  deriving DecidableEq, Repr

/-- The row class of an FMT code; none for the codes without one and the reserved codes. -/
def rowClass (fmt : Nat) : Option RowClass :=
  if fmt = 0x01 ∨ fmt = 0x02 then some .c16
  else if fmt = 0x04 then some .c8I
  else if fmt = 0x05 ∨ fmt = 0x06 ∨ (0x08 ≤ fmt ∧ fmt ≤ 0x0C) then some .c8
  else if fmt = 0x0D then some .c4
  else none

/-- The listed FMT codes (R31). -/
def fmtListed (fmt : Nat) : Bool :=
  fmt ≤ 0x06 || (0x08 ≤ fmt && fmt ≤ 0x0D) || fmt = 0x10

/-- The MX formats. -/
def fmtMx (fmt : Nat) : Bool := 0x08 ≤ fmt && fmt ≤ 0x0D

/-- The plain FP8 formats. -/
def fmtFp8 (fmt : Nat) : Bool := fmt = 0x05 || fmt = 0x06

/-- Bits of one stored element (Table 2-1; MXFP6 in its byte form). -/
def fmtBits (fmt : Nat) : Nat :=
  if fmt = 0x00 ∨ fmt = 0x03 then 32
  else if fmt = 0x01 ∨ fmt = 0x02 then 16
  else if fmt = 0x0D then 4
  else if fmt = 0x10 then 96
  else 8

/-- The floating-point element encoding of a code; none for the integer codes and DAF96. -/
def fmtFloat (fmt : Nat) : Option Fmt :=
  if fmt = 0x00 then some fmtFP32
  else if fmt = 0x01 then some fmtBF16
  else if fmt = 0x02 then some fmtFP16
  else if fmt = 0x05 ∨ fmt = 0x08 then some fmtE4M3
  else if fmt = 0x06 ∨ fmt = 0x09 then some fmtE5M2
  else if fmt = 0x0A then some fmtE2M3
  else if fmt = 0x0B then some fmtE3M2
  else if fmt = 0x0D then some fmtE2M1
  else none

/-- A signed integer of n bits. -/
def sint (n v : Nat) : Int := if v % 2 ^ n < 2 ^ (n - 1) then (v % 2 ^ n : Nat) else (v % 2 ^ n : Nat) - (2 ^ n : Nat)

/-- The value of an integer at a power of two. -/
def intVal (i e : Int) : FV := .fin (decide (i < 0)) i.natAbs e false

/-- The value of a stored element before any scale (R33, R36, R39: unused container bits are ignored). -/
def elemVal (fmt b : Nat) : FV :=
  match fmtFloat fmt with
  | some f => f.decode (b % 2 ^ f.width)
  | none =>
    if fmt = 0x03 then intVal (sint 32 b) 0
    else if fmt = 0x04 then intVal (sint 8 b) 0
    else if fmt = 0x0C then intVal (sint 8 b) (-6)
    else .nan

/-- The value of an E8M0 scale byte (R36). -/
def e8m0 (b : Byte) : FV := if b = 0xFF then .nan else .fin false 1 ((b.toNat : Int) - 127) false

/-- A per-tensor scale is usable: finite and not zero (R42, R45). -/
def scaleOk (w : W32) : Bool := (ofF32 w).isFin && !(ofF32 w).isZero

/-! ### Rounding to integers -/

/-- The nearest integer of a finite value, ties to even, as sign and magnitude. -/
def rneMag (m : Nat) (e : Int) (sticky : Bool) : Nat :=
  let (q, r, k) := splitAt m e 0
  rneUnits q r k sticky

/-- Clamp of a signed magnitude to lo..hi, and whether it clamped. -/
def clampInt (neg : Bool) (mag : Nat) (lo hi : Int) : Int × Bool :=
  let i : Int := if neg then -(mag : Int) else mag
  if i < lo then (lo, true) else if hi < i then (hi, true) else (i, false)

/-- Conversion to a two's-complement integer of n bits, at unit 2^u, saturating to lo..hi (Table 2-3, R36). -/
def toInt (n : Nat) (u lo hi : Int) : FV → Nat × W32
  | .nan => (0, fNV)
  | .inf neg => (((if neg then lo else hi) % (2 ^ n : Nat)).toNat, fSAT)
  | .fin neg m e s =>
    let r := clampInt neg (rneMag m (e - u) s) lo hi
    ((r.1 % (2 ^ n : Nat)).toNat, if r.2 then fSAT else 0)

/-! ### Conversion of one element (R44, Table 2-3) -/

/-- Conversion to a saturating floating-point format: infinities become infinities in plain E5M2, the canonical NaN
in plain E4M3. -/
def toSat (f : Fmt) : FV → Nat × W32
  | .nan => (f.nanBits, 0)
  | .inf neg => if f.special = .ieee then (f.infBits neg, 0) else (f.nanBits, 0)
  | .fin neg m e s =>
    let c := f.roundCode m e s
    if c ≤ f.maxCode then (f.pack neg c, 0) else (f.pack neg f.maxCode, fSAT)

/-- The element code a finite value takes, by destination FMT (R44, R46 step 4 for MX elements). -/
def toElem (fmt : Nat) (v : FV) : Nat × W32 :=
  if fmt = 0x03 then toInt 32 0 (-(2 ^ 31)) (2 ^ 31 - 1) v
  else if fmt = 0x04 then toInt 8 0 (-128) 127 v
  else if fmt = 0x0C then toInt 8 (-6) (-127) 127 v
  else match fmtFloat fmt with
    | some f => if fmt ≤ 0x02 then (f.round v, 0) else toSat f v
    | none => (0, 0)

/-- Stochastic rounding is available for the destination (R48). -/
def srAllowed (fmt : Nat) : Bool := fmt = 0x05 || fmt = 0x06 || (0x08 ≤ fmt && fmt ≤ 0x0B)

/-- Stochastic rounding of an exact value with draw R (R48). -/
def toElemSr (fmt : Nat) (r : Nat) (v : FV) : Nat × W32 :=
  match fmtFloat fmt, v with
  | some f, .fin neg m e s =>
    if m = 0 then toElem fmt v
    else
      let u := f.quantum m e
      let (q, rest, k) := splitAt m e u
      let base := (u + f.bias + f.mb - 1).toNat * 2 ^ f.mb
      if (rest = 0 ∧ s = false) ∨ f.maxCode < base + q ∨ (base + q = f.maxCode ∧ ¬ (rest = 0 ∧ s = false)) then toElem fmt v
      else
        -- 65,536 times the distance from the lower magnitude, down for a positive y, up for a negative one
        let num := rest * 65536
        let up := decide (num % 2 ^ k ≠ 0) || s
        let g := num / 2 ^ k
        let fr := if neg then 65536 - (g + if up then 1 else 0) else g
        let far := if neg then decide (¬ r < fr) else decide (r < fr)
        (f.pack neg (base + q + if far then 1 else 0), 0)
  | _, _ => toElem fmt v

/-! ### MX blocks (R46) -/

/-- emax of R46 step 3. -/
def mxEmax (fmt : Nat) : Int :=
  if fmt = 0x0D ∨ fmt = 0x0A then 2 else if fmt = 0x0B then 4 else if fmt = 0x08 then 8 else if fmt = 0x09 then 15 else 0

/-- floor(log2 |v|) of a nonzero finite value. -/
def ilog2 : FV → Int
  | .fin _ m e _ => (Nat.log2 m : Int) + e
  | _ => 0

/-- The value times 2^k. -/
def FV.shift (v : FV) (k : Int) : FV :=
  match v with
  | .fin neg m e s => .fin neg m (e + k) s
  | v => v

/-- A block of up to 32 values as scale byte and elements, with an optional draw for each (R46, R48). -/
def mxBlock (fmt : Nat) (sr : Option (Nat → Nat)) (vs : List FV) : Byte × List Nat × W32 :=
  if vs.any fun v => !v.isFin then (0xFF, vs.map fun _ => 0, 0)
  else if vs.all FV.isZero then (0x7F, vs.map fun _ => 0, 0)
  else
    let top := (vs.filter fun v => !v.isZero).foldl (fun (a : Option Int) v =>
      some (match a with | none => ilog2 v | some x => max x (ilog2 v))) none
    let e := min 127 (max (-127) (top.getD 0 - mxEmax fmt))
    let es := vs.zipIdx.map fun (v, i) =>
      match sr with
      | none => toElem fmt (v.shift (-e))
      | some r => toElemSr fmt (r i) (v.shift (-e))
    (BitVec.ofInt 8 (e + 127), es.map (·.1), es.foldl (fun a x => a ||| x.2) 0)

/-! ### DAF96 (R49 to R55) -/

/-- A value into DAF96 with datum d (R50). -/
def toDaf (d : Int) : FV → W96 × W32
  | .nan => (0, fNV)
  | .inf neg => (if neg then -(2 ^ 60 - 1) else 2 ^ 60 - 1, fDX)
  | .fin neg m e s =>
    if m = 0 then (0, 0)
    else if d ≤ (Nat.log2 m : Int) + e then (if neg then -(2 ^ 60 - 1) else 2 ^ 60 - 1, fDX)
    else
      let i := rneMag m (e + 60 - d) s
      (if neg then -(BitVec.ofNat 96 i) else BitVec.ofNat 96 i, if i = 0 then fUF else 0)

/-- The exact value of a DAF96 element (R49). -/
def dafVal (d : Int) (i : W96) : FV := intVal i.toInt (d - 60)

/-- A DAF96 element out to FP32 or BF16, once rounded; OF where a finite value overflows (R54). -/
def ofDaf (f : Fmt) (d : Int) (i : W96) : Nat × W32 :=
  let b := f.round (dafVal d i)
  (b, if b % 2 ^ (f.eb + f.mb) = f.infBits false then fOF else 0)

/-- A change of datum from d1 to d2 (R55). -/
def reDatum (d1 d2 : Int) (i : W96) : W96 × W32 :=
  if d1 < d2 then
    let k := (d2 - d1).toNat
    let m := rneUnits (i.toInt.natAbs / 2 ^ k) (i.toInt.natAbs % 2 ^ k) k false
    (if i.toInt < 0 then -(BitVec.ofNat 96 m) else BitVec.ofNat 96 m, if m = 0 ∧ i ≠ 0 then fUF else 0)
  else
    let x := i.toInt * (2 ^ (d1 - d2).toNat : Nat)
    if x < -(2 ^ 95) then (BitVec.ofInt 96 (-(2 ^ 95)), fDX)
    else if 2 ^ 95 - 1 < x then (BitVec.ofInt 96 (2 ^ 95 - 1), fDX)
    else (BitVec.ofInt 96 x, 0)

/-- The 12 bytes of a DAF96 element (R49). -/
def dafBytes (i : W96) : List Byte := leBytes 12 i.toNat

/-! ### A lane (R40 to R43) -/

/-- One product of a lane: element by weight by their scales. -/
def laneProd (a sa w sw : FV) : FV := ((a.mul w).mul sa).mul sw

/-- The exact sum of a row's products under R41: NaN, infinite or exact. -/
def laneSum (ps : List FV) : FV :=
  if ps.any (· = .nan) then .nan
  else if ps.any (· = .inf false) && ps.any (· = .inf true) then .nan
  else if ps.any (· = .inf false) then .inf false
  else if ps.any (· = .inf true) then .inf true
  else ps.foldl FV.add (.fin true 0 0 false)

/-- A lane's accumulation acc + S with one rounding (R40, R41). See log 103 [DEDUCED]. -/
def laneAcc (acc : W32) (s : FV) : W32 := toF32 ((ofF32 acc).add s)

/-- An integer lane's accumulation, and whether the exact sum left the INT32 range (R43). -/
def laneAccInt (acc : W32) (s : Int) : W32 × Bool :=
  let x := acc.toInt + s
  (BitVec.ofInt 32 x, decide (x < -(2 ^ 31) ∨ 2 ^ 31 - 1 < x))

end Sys2Proof.Machine
end

