-- ==== Sys2Proof/Machine/Ops.lean ====
section
/-!
DEFINITION. Shared operations over the state: places and placement, contexts, traps, incidents, records to the host,
counters, beacons, page faults and the three memories.
-/

namespace Sys2Proof.Machine

open Host (Outcome)

/-- The answer of every meaning. -/
abbrev Out := Outcome State Fault Refusal

/-- The command comes about: the next state. -/
def done (s : State) : Out := .next s

/-- The spec gives this command no occurrence in the present state: nothing changes (log 2 [DESIGN CHOICE]). -/
def cannot (s : State) : Out := .next s

/-- The keys that a sparse map lists. -/
def skeys {α : Type} (m : SMap α) : List Nat := m.map fun e => e.1

/-! ### Places (R8, R20, R22, R24, R25) -/

def siteDie (n : Nat) : Nat := n / 400
def siteX (n : Nat) : Nat := n % 20
def siteY (n : Nat) : Nat := n % 400 / 20
/-- Global row of a site (R240). -/
def siteRow (n : Nat) : Nat := 20 * siteDie n + siteY n
/-- The site at a column and a global row. -/
def siteAt (x row : Nat) : Nat := row / 20 * 400 + row % 20 * 20 + x
/-- Field of a die (Table 1-1). -/
def siteField (n : Nat) : Nat := (if 10 ≤ siteY n then 2 else 0) + (if 10 ≤ siteX n then 1 else 0)
/-- Bed as die × 16 + bed (R8). -/
def siteBed (n : Nat) : Nat := siteDie n * 16 + siteY n / 5 * 4 + siteX n / 5
/-- Bed of a logical core, as die × 16 + bed (R8). -/
def coreBed (c : Nat) : Nat := c / 384 * 16 + c % 384 / 24
/-- The site at a bed-local raster position (R24, R25). -/
def bedSite (bed pos : Nat) : Nat :=
  bed / 16 * 400 + (bed % 16 / 4 * 5 + pos / 5) * 20 + bed % 4 * 5 + pos % 5

/-- The bed-local position of a bed's factory idle site (R24). See log 95 [DESIGN CHOICE]. -/
def factoryIdle (s : State) (bed : Nat) : Nat :=
  match sget 0 s.place.factoryIdle bed with
  | 0 => 12
  | k + 1 => k

/-- TSITE: the factory binding of a logical core (R25, R252). -/
def tsite (s : State) (c : Nat) : Nat :=
  let idle := factoryIdle s (coreBed c)
  let slot := c % 24
  bedSite (coreBed c) (if slot < idle then slot else slot + 1)

/-- CSITE: the site where a logical core now computes (R252); sites are held plus one, 0 for no relocation. -/
def csite (s : State) (c : Nat) : Nat :=
  match sget 0 s.place.reloc c with
  | 0 => tsite s c
  | k + 1 => k

/-- The logical core is absent (R28). -/
def coreAbsent (s : State) (c : Nat) : Bool := sget false s.place.absent c

/-- The logical cores of a bed. -/
def bedCores (bed : Nat) : List Nat := (List.range 24).map fun i => bed / 16 * 384 + bed % 16 * 24 + i

/-- The logical core computing at a site (Table 13-6, LCORE). -/
def coreAt (s : State) (site : Nat) : Option Nat := (bedCores (siteBed site)).find? fun c => csite s c = site

/-- The logical core whose terrace a site holds. -/
def terraceCore (s : State) (site : Nat) : Option Nat := (bedCores (siteBed site)).find? fun c => tsite s c = site

/-! ### Sites and contexts -/

def getSite (s : State) (n : Nat) : Site := sget {} s.sites n
def setSite (s : State) (n : Nat) (x : Site) : State := { s with sites := sset {} s.sites n x }
def modSite (s : State) (n : Nat) (f : Site → Site) : State := setSite s n (f (getSite s n))

/-- The site of a logical core's compute part. -/
def getCore (s : State) (c : Nat) : Site := getSite s (csite s c)
def modCore (s : State) (c : Nat) (f : Site → Site) : State := modSite s (csite s c) f

def Site.ctx (x : Site) (k : Nat) : Ctx := sget {} x.ctxs k
def Site.modCtx (x : Site) (k : Nat) (f : Ctx → Ctx) : Site := { x with ctxs := smod {} x.ctxs k f }
def getCtx (s : State) (c k : Nat) : Ctx := (getCore s c).ctx k
def modCtx (s : State) (c k : Nat) (f : Ctx → Ctx) : State := modCore s c fun x => x.modCtx k f

/-- A scalar register; s0 reads as zero (R64). -/
def Ctx.s (x : Ctx) (r : BitVec 5) : W64 := if r = 0 then 0 else sget 0 x.sregs r.toNat
/-- Writing a scalar register; writes to s0 are discarded (R64). -/
def Ctx.setS (x : Ctx) (r : BitVec 5) (v : W64) : Ctx :=
  if r = 0 then x else { x with sregs := sset 0 x.sregs r.toNat v }
/-- An a register. -/
def Ctx.a (x : Ctx) (r : BitVec 5) : W64 := sget 0 x.aregs r.toNat
/-- Writing an a register. -/
def Ctx.setA (x : Ctx) (r : BitVec 5) (v : W64) : Ctx := { x with aregs := sset 0 x.aregs r.toNat v }

/-- Setting flags in NFLAGS (R56): a flag stays set. -/
def raiseFlags (s : State) (c k : Nat) (f : W32) : State :=
  modCtx s c k fun x => { x with nflags := x.nflags ||| f }

/-- Tile word key: array, tile, row, column. -/
def tileKey (m t r j : Nat) : Nat := ((m * 8 + t) * 64 + r) * 32 + j

/-- A lane of a vector register. -/
def Site.lane (x : Site) (v j : Nat) : W32 := sget 0 x.vlanes (v * 64 + j)
/-- All 64 lanes of a vector register. -/
def Site.vreg (x : Site) (v : Nat) : List W32 := (List.range 64).map fun j => x.lane v j
/-- Writing the lanes of a vector register; its tag stays (R86). -/
def Site.setVreg (x : Site) (v : Nat) (ls : List W32) : Site :=
  { x with vlanes := (ls.take 64).zipIdx.foldl (fun m (w, j) => sset 0 m (v * 64 + j) w) x.vlanes }
/-- The datum tag of a vector register (R86). -/
def Site.vtag (x : Site) (v : Nat) : Datum := sget 0 x.vtags v
/-- Setting the datum tag of a vector register (R86). -/
def Site.setVtag (x : Site) (v : Nat) (d : Datum) : Site := { x with vtags := sset 0 x.vtags v d }
/-- The 64 DAF96 elements of a triple (R86). -/
def Site.triple (x : Site) (v : Nat) : List W96 :=
  (List.range 64).map fun j => x.lane (v + 2) j ++ x.lane (v + 1) j ++ x.lane v j
/-- Writing a triple and its tag (R86). -/
def Site.setTriple (x : Site) (v : Nat) (es : List W96) (d : Datum) : Site :=
  (((x.setVreg v (es.map (·.extractLsb' 0 32))).setVreg (v + 1) (es.map (·.extractLsb' 32 32))).setVreg (v + 2)
    (es.map (·.extractLsb' 64 32))).setVtag v d

/-! ### Free values (log 4 [DESIGN CHOICE]) -/

/-- The next free value, and the state that has used it. -/
def takeFree (s : State) : W64 × State := (Config.freeValue s.free, { s with free := s.free + 1 })

/-! ### Counters and cycle counts (R371, R378) -/

/-- Block of a core site, a window, and the module blocks (Table 13-1, 13-2), by address div 0x4000. -/
def siteBlock (n : Nat) : Nat := 0x400 + n
def winBlock (w : Nat) : Nat := 0x100 + w
def fmpBlock (p : Nat) : Nat := 0x40 + p
def ghBlock (die : Nat) : Nat := 4 + die
def cadBlock (die : Nat) : Nat := 8 + die
def gkBlock (die : Nat) : Nat := 0xC + die
def brgBlock (die : Nat) : Nat := 0x10 + die
def bcnBlock (die : Nat) : Nat := 0x14 + die
def hpBlock (port : Nat) : Nat := 0x18 + port
def clkBlock : Nat := 0x1C
def twnBlock : Nat := 0x20

/-- Counter i of a block rises by n, modulo 2^64 (R378). -/
def bump (s : State) (block i n : Nat) : State :=
  { s with regs := { s.regs with ctrs := smod 0 s.regs.ctrs (block * 64 + i) fun v => v + BitVec.ofNat 64 n } }

/-- The primary clock domain of a block (Table 13-2, Table 14-1). -/
def blockDomain (b : Nat) : Nat :=
  if 0x400 ≤ b then siteBed (b - 0x400)
  else if 0x100 ≤ b then 48 + (b - 0x100) / 16
  else if 0x40 ≤ b then 40 + (b - 0x40) / 6
  else if b = twnBlock then 59
  else if 0x18 ≤ b ∧ b < 0x1C then 48 + (b - 0x18)
  else if 0x14 ≤ b ∧ b < 0x18 then 54 + (b - 0x14)
  else if 0x10 ≤ b ∧ b < 0x14 then 52 + (b - 0x10)
  else if 4 ≤ b ∧ b < 0x10 then 56 + b % 4
  else 58

/-- The mesh domain of a site (Table 14-1). -/
def meshDomain (site : Nat) : Nat := 32 + siteDie site * 4 + siteField site

/-- The domain's clock runs (Table 14-7). -/
def domainRuns (s : State) (d : Nat) : Bool := s.pwr.locked.getLsbD d

/-- The cycle count of a domain as an observer finds it now: a running domain has counted on by an amount that the
spec does not fix (log 4 [DESIGN CHOICE]); a stopped one has not. -/
def observeCycles (s : State) (d : Nat) : W64 × State :=
  if domainRuns s d then
    let (v, s) := takeFree s
    let t := sget 0 s.regs.cycles d + v
    (t, { s with regs := { s.regs with cycles := sset 0 s.regs.cycles d t } })
  else (sget 0 s.regs.cycles d, s)

/-! ### Parcels and windows -/

def getPcl (s : State) (p : Nat) : Parcel := sget {} s.gate.parcels p
def modPcl (s : State) (p : Nat) (f : Parcel → Parcel) : State :=
  { s with gate := { s.gate with parcels := smod {} s.gate.parcels p f } }
def getWin (s : State) (w : Nat) : Window := sget {} s.gate.windows w
def modWin (s : State) (w : Nat) (f : Window → Window) : State :=
  { s with gate := { s.gate with windows := smod {} s.gate.windows w f } }
def getPort (s : State) (k : Nat) : Port := sget {} s.gate.ports k
def modPort (s : State) (k : Nat) (f : Port → Port) : State :=
  { s with gate := { s.gate with ports := smod {} s.gate.ports k f } }

/-- The parcel exists (Table 11-2). -/
def pclThere (s : State) (p : Nat) : Bool := p < 8 && (getPcl s p).st != .absent

/-- The parcel that a bed belongs to (R29). -/
def bedParcel (s : State) (bed : Nat) : Option Nat :=
  (List.range 8).find? fun p => pclThere s p && (getPcl s p).beds.getLsbD bed

/-- The parcel of a logical core. -/
def coreParcel (s : State) (c : Nat) : Option Nat := bedParcel s (coreBed c)

/-- The parcel number in a tag or a record; 0 where there is none. -/
def coreParcelNum (s : State) (c : Nat) : Nat := (coreParcel s c).getD 0

/-- The beds of a parcel. -/
def pclBeds (s : State) (p : Nat) : List Nat := (List.range 32).filter fun b => (getPcl s p).beds.getLsbD b

/-- The logical cores of a parcel, ascending. -/
def pclCores (s : State) (p : Nat) : List Nat := (pclBeds s p).flatMap bedCores

/-- The cores of a parcel that have a place. -/
def pclLive (s : State) (p : Nat) : List Nat := (pclCores s p).filter fun c => !coreAbsent s c

/-- The die whose Gatehouse serves a parcel (R23, R29). -/
def pclDie (s : State) (p : Nat) : Nat := (getPcl s p).port / 2

/-- WIN_CTL fields (Table 11-4). -/
def Window.en (x : Window) : Bool := x.ctl.getLsbD 31
def Window.parcel (x : Window) : Nat := (x.ctl.extractLsb' 17 3).toNat
def Window.service (x : Window) : Bool := x.ctl.getLsbD 16
def Window.vector (x : Window) : Nat := (x.ctl.extractLsb' 0 5).toNat
def Window.active (x : Window) : Bool := x.en && !x.binderr

/-- The enabled work window of a parcel (R323). -/
def workWin (s : State) (p : Nat) : Option Nat :=
  (List.range 64).find? fun w => (getWin s w).active && !(getWin s w).service && (getWin s w).parcel = p

/-! ### Running and stopped (R301, R306, R399, R409) -/

/-- Bytes of a site's near memory (R181). -/
def nearBytes : Nat := 2097152

/-- Compute runs: bring-up is complete and nothing has stopped the module. -/
def alive (s : State) : Bool :=
  s.pwr.bringDone && !s.pwr.failStopped && !s.pwr.halt && !s.pwr.stopping

/-- The module is in twinned operation (MOD_STAT[2], Table 10-7). -/
def twinned (s : State) : Bool :=
  match s.twin.st with
  | .paired | .survivor | .lost | .rejoinSource => true
  | _ => false

/-! ### Records to the host (R341 to R344) -/

/-- The ring has room for one more record (R341). -/
def ringRoom (x : Window) : Bool := decide ((x.crTail - x.crHead).toNat < 2 ^ x.crLog.toNat)

/-- The count of a refused-write record is that of the moment it is written (Table 11-10). See log 80 [DEDUCED]. -/
def stampRefused (s : State) (bytes : List Byte) : List Byte :=
  if field bytes 0 1 ≠ 5 then bytes
  else
    match s.far.refusals.find? fun x => x.parcel = bits (field bytes 1 1) 1 3 && x.fpn = field bytes 12 4 && x.byPort == decide (field bytes 24 1 = 5) with
    | none => bytes
    | some x => patch bytes 20 (leBytes 4 x.count)

/-- One record is written to the ring of window w: PHASE and WINDOW are set, the tail rises, and the write to host
memory begins (R341, R342). -/
def startRec (s : State) (w : Nat) (bytes : List Byte) (irq : Bool) : State :=
  let x := getWin s w
  let n := x.crTail.toNat
  let size := 2 ^ x.crLog.toNat
  let phase := 1 - n / size % 2
  let bytes := stampRefused s bytes
  let b := patch (fit 64 bytes) 1 [((fit 64 bytes).getD 1 0 &&& 0xFE) ||| BitVec.ofNat 8 phase, BitVec.ofNat 8 (w % 16)]
  let hw : HostWrite := { port := w / 16, addr := x.crBase + BitVec.ofNat 64 (64 * (n % size)), bytes := b,
                          vector := if irq then some x.vector else none }
  let s := modWin s w fun x => { x with crTail := x.crTail + 1 }
  let s := bump s (ghBlock (w / 32)) 2 1
  { s with gate := { s.gate with writes := s.gate.writes ++ [hw] } }

/-- A record for window w: written, or waiting for room behind those that wait (R341). From a power event on no write
starts (R306). -/
def emitRec (s : State) (w : Nat) (bytes : List Byte) (irq : Bool) : State :=
  if s.pwr.stopping || s.pwr.halt then s
  else if (getWin s w).backlog = [] ∧ ringRoom (getWin s w) then startRec s w bytes irq
  else modWin s w fun x => { x with backlog := x.backlog ++ [(bytes, irq)] }

/-- Records that waited for room are written while there is room, but from a power event on none (R306, R341); fuel is their
number. -/
def drainBacklog (s : State) (w : Nat) : Nat → State
  | 0 => s
  | n + 1 =>
    match (getWin s w).backlog with
    | [] => s
    | (b, irq) :: t =>
      if ringRoom (getWin s w) && !s.pwr.stopping && !s.pwr.halt then drainBacklog (startRec (modWin s w fun x => { x with backlog := t }) w b irq) w n else s

/-- A record of TYPE 0x03 to 0x05 of a parcel: to the ring of its work window with an interrupt, or kept until one is
enabled (R341, R344, log 13 [DEDUCED]). -/
def pclRec (s : State) (p : Nat) (bytes : List Byte) : State :=
  match workWin s p with
  | some w => emitRec s w bytes true
  | none => modPcl s p fun x => { x with recBacklog := x.recBacklog ++ [bytes] }

/-- The header of Table 11-9: TYPE, PARCEL, STATUS, SEQ and HTAG. -/
def recHead (type parcel status : Nat) (seqNo htag : W32) : List Byte :=
  [BitVec.ofNat 8 type, BitVec.ofNat 8 (parcel * 2), 0, BitVec.ofNat 8 status] ++ leBytes 4 seqNo.toNat ++ leBytes 4 htag.toNat

/-! ### Traps (R67) -/

/-- A context that is ISSUING gives up the issue slot (R61). -/
def giveUp (s : State) (c k : Nat) : State :=
  modCore s c fun x => if (x.ctx k).st = .issuing then { x with lastSlot := k } else x

/-- A context takes a trap: it stops in TRAPPED with TRAPCAUSE, TRAPPC and TRAPVAL, gives up the slot (R61), and the
Gatehouse writes a trap record (R67, Table 11-10). -/
def trapAt (s : State) (c k : Nat) (pc : W64) (cause : Nat) (val : W64) : State :=
  let s := modCtx (giveUp s c k) c k fun y => { y with st := .trapped, wait := .none, trapcause := BitVec.ofNat 64 cause,
                                                       trappc := pc, trapval := val, ended := true }
  match coreParcel s c with
  | none => s
  | some p => pclRec s p (recHead 4 p 0 0 0 ++ leBytes 2 c ++ [BitVec.ofNat 8 k, BitVec.ofNat 8 cause] ++
      leBytes 8 pc.toNat ++ leBytes 8 val.toNat)

/-- The trap of the instruction at the context's pc (R67). -/
def trap (s : State) (c k : Nat) (cause : Nat) (val : W64) : State := trapAt s c k (getCtx s c k).pc cause val

/-- The number that a dictionary object holds; d is its default. -/
def objNat (s : State) (idx sub d : Nat) : Nat :=
  match sget [] s.dict.objs (idx * 256 + sub) with
  | [] => d
  | bs => leNat bs

/-! ### Events to notify (R355, NOTIFY_MASK of Table 12-9) -/

/-- The bit of NOTIFY_MASK that enables an event. -/
def eventBit : Event → Nat
  | .incident _ => 0
  | .twinState => 1
  | .alert => 2
  | .pclState _ => 3

/-- An event that NOTIFY_MASK enables is to be reported, with the value its object then has (R355). -/
def noteEvent (s : State) (e : Event) (v : List Byte) : State :=
  if s.pwr.lodgeUp && bit (objNat s 0x1016 0 0xF) (eventBit e) then { s with dict := { s.dict with events := s.dict.events ++ [(e, v)] } } else s

/-- TWIN_STATE (Table 10-7). -/
def twinCode : TwinSt → Nat
  | .solo => 0
  | .pairing => 1
  | .paired => 2
  | .survivor => 3
  | .lost => 4
  | .rejoinSource => 5
  | .rejoinTarget => 6
  | .failStopped => 7

/-- The twin state changes (R296). -/
def setTwin (s : State) (t : TwinSt) : State :=
  if s.twin.st = t then s
  else noteEvent { s with twin := { s.twin with st := t } } .twinState [BitVec.ofNat 8 (twinCode t)]

/-- PCL_STATE (Table 11-2). -/
def pclCode : PclSt → Nat
  | .absent => 0
  | .active => 1
  | .inReset => 2
  | .stopped => 3

/-- A parcel's state changes. -/
def setPcl (s : State) (p : Nat) (t : PclSt) : State :=
  if (getPcl s p).st = t then s
  else noteEvent (modPcl s p fun x => { x with st := t }) (.pclState p) [BitVec.ofNat 8 (pclCode t)]

/-! ### Incidents (R233 to R236) -/

/-- An incident to log, before its SEQ and time (Table 8-5). -/
structure Inc where
  cls : Nat
  action : Nat := 0
  parcel : Option Nat := none
  source : Nat := 0
  locKind : Nat := 3
  locNum : Nat := 0
  domain : Nat := 58
  addr : W64 := 0
  detail : W32 := 0

/-- The overflow word of a class counts one more, saturating at 16 bits, with its bit set (R236, Table 8-6). -/
def ovfBump (v : W32) : W32 :=
  let n := (v.extractLsb' 0 16).toNat
  0x80000000 ||| BitVec.ofNat 32 (min (n + 1) 0xFFFF)

/-- Actions whose handling lasts beyond the logging (R236): replay, restart, fail-stop, retirement, fence. -/
def handlingLasts (action : Nat) : Bool := action = 3 || action = 4 || action = 5 || action = 6 || action = 8

/-- The 32 bytes of an incident entry (Table 8-5). -/
def Incident.bytes (i : Incident) : List Byte :=
  leBytes 4 i.seqNo.toNat ++ [i.cls, i.action, (match i.parcel with | none => 0 | some p => BitVec.ofNat 8 (8 + p)), i.source] ++
  leBytes 2 (i.locKind * 4096 + i.locNum) ++ [i.domain, ofBool i.twinned] ++ leBytes 8 i.time.toNat ++ leBytes 8 i.addr.toNat ++
  leBytes 4 i.detail.toNat

/-- An incident is logged, or counted in LOG_FULL or in its class's overflow (R233, R236). -/
def logInc (s : State) (i : Inc) : State :=
  let r := s.repair
  if i.cls ∈ r.handling then { s with repair := { r with ovf := smod 0 r.ovf i.cls ovfBump } }
  else
    let slot := r.next.toNat % 512
    let old := r.log.find? fun x => x.1 = slot
    let free := match old with
      | none => true
      | some x => decide (x.2.seqNo.toNat ≤ r.ack.toNat)
    let r := if handlingLasts i.action then { r with handling := nins r.handling i.cls } else r
    let r := match i.parcel with
      | some p => if i.action = 3 ∨ i.action = 4 then { r with waitStep := r.waitStep ++ [(i.cls, p)] } else r
      | none => r
    let r := if i.action = 8 then { r with waitFence := r.waitFence ++ [(i.cls, i.locNum)] } else r
    if free then
      let (t, s) := takeFree s
      let ent : Incident := {
        seqNo := r.next, cls := BitVec.ofNat 8 i.cls, action := BitVec.ofNat 8 i.action, parcel := i.parcel,
        source := BitVec.ofNat 8 i.source, locKind := i.locKind, locNum := i.locNum, domain := BitVec.ofNat 8 i.domain,
        twinned := twinned s, time := t, addr := i.addr, detail := i.detail }
      let history := match old with
        | none => r.history
        | some x => r.history ++ [x.2]
      noteEvent { s with repair := { r with log := sput r.log slot ent, next := r.next + 1, history := history } }
        (.incident ent.seqNo.toNat) ent.bytes
    else { s with repair := { r with logFull := r.logFull + 1 } }

/-- The handling of a class ends (R236). -/
def endHandling (s : State) (cls : Nat) : State :=
  { s with repair := { s.repair with handling := ndel s.repair.handling cls } }

/-- A parcel's completion record is written, or its step is over: the handling of what waited for it ends (R236). -/
def endStepHandling (s : State) (p : Nat) : State :=
  let out := s.repair.waitStep.filter fun e => e.2 = p
  let s := { s with repair := { s.repair with waitStep := s.repair.waitStep.filter fun e => e.2 ≠ p } }
  out.foldl (fun s e => endHandling s e.1) s

/-- A site's relocation has ended (R236). -/
def endFenceHandling (s : State) (site : Nat) : State :=
  let out := s.repair.waitFence.filter fun e => e.2 = site
  let s := { s with repair := { s.repair with waitFence := s.repair.waitFence.filter fun e => e.2 ≠ site } }
  out.foldl (fun s e => endHandling s e.1) s

/-! ### Alerts -/

/-- A cause of ALERT_CAUSE sets (Table 14-8); with the first one ALERT_N is asserted (R401). -/
def raiseAlert (s : State) (b : Nat) : State :=
  let v := s.pwr.alert ||| BitVec.ofNat 32 (2 ^ b)
  let t := { s with pwr := { s.pwr with alert := v } }
  if s.pwr.alert = 0 then noteEvent t .alert (leBytes 4 v.toNat) else t

/-- A cause of ALERT_CAUSE clears. -/
def dropAlert (s : State) (b : Nat) : State :=
  { s with pwr := { s.pwr with alert := s.pwr.alert &&& ~~~BitVec.ofNat 32 (2 ^ b) } }

/-- A message leaves the module. -/
def send (s : State) (m : OutMsg) : State := { s with outbox := s.outbox ++ [m] }

/-! ### The Cadastre (R190, R196 to R198) -/

def getPortF (s : State) (p : Nat) : FarPort := sget {} s.far.ports p
def modPortF (s : State) (p : Nat) (f : FarPort → FarPort) : State :=
  { s with far := { s.far with ports := smod {} s.far.ports p f } }

/-- The port of a far page (R190). -/
def fpnPort (fpn : Nat) : Nat := fpn / 3840
/-- FPNs are 0 to 184,319 (R182, R196). -/
def fpnMax : Nat := 184320

def getEnt (s : State) (fpn : Nat) : CadEntry := sget {} s.far.entries fpn
def modEnt (s : State) (fpn : Nat) (f : CadEntry → CadEntry) : State :=
  { s with far := { s.far with entries := smod {} s.far.entries fpn f } }

/-- The PPN of an entry (R197): zero until bring-up sets it to the FPN, then as retirements have exchanged it. -/
def entPpn (s : State) (fpn : Nat) : Nat :=
  ((if s.far.ppnSet then BitVec.ofNat 18 fpn else 0) ^^^ (getEnt s fpn).ppnDiff).toNat

/-- The 64 bits of an entry (Table 7-5). -/
def entWord (s : State) (fpn : Nat) : W64 :=
  let e := getEnt s fpn
  let b (x : Bool) (i : Nat) : Nat := if x then 2 ^ i else 0
  BitVec.ofNat 64 (b e.lov 37 + b e.zneed 36 + e.lastown.toNat * 2 ^ 33 + b e.zpend 32 + b e.ret 31 + b e.dirty 30 + b e.hw 29 +
    b e.hr 28 + b e.cw 27 + b e.cr 26 + b e.v 25 + e.owner.toNat * 2 ^ 22 + entPpn s fpn)

/-- Why an access of a parcel to a page fails R198, by the KIND numbers of Table 11-10; none when it proceeds. -/
def pageRefusal (e : CadEntry) (p : Nat) (host rd wr : Bool) : Option Nat :=
  if e.ret then some 4
  else if !e.v then some 0
  else if e.owner.toNat ≠ p then some 3
  else if rd && !(if host then e.hr else e.cr) then some 1
  else if wr && !(if host then e.hw else e.cw) then some 2
  else none

/-! ### The three memories (R181, R192, R193, R226, R227) -/

/-- A unit is valid: initialised with valid codes, or written since (R226, R227). -/
def unitValid (swInit : Bool) (marks : List Nat) (u : Nat) : Bool := swInit == decide (u ∈ marks)

/-- The units of n bytes from a on. -/
def unitsOf (size a n : Nat) : List Nat :=
  if n = 0 then [] else (List.range ((a + n - 1) / size - a / size + 1)).map fun i => a / size + i

/-- The marks after units have been written, and so are valid. -/
def markValid (swInit : Bool) (marks : List Nat) (us : List Nat) : List Nat :=
  if swInit then us.foldl nins marks else us.foldl ndel marks

/-- The marks after units have lost their validity. -/
def markInvalid (swInit : Bool) (marks : List Nat) (us : List Nat) : List Nat :=
  if swInit then us.foldl ndel marks else us.foldl nins marks

/-- Why an access does not deliver. -/
inductive AccErr where
  /-- the address is in no space the unit may reach (R182, R183, R184) -/
  | reach
  /-- a page fault with its KIND (R202) -/
  | fault (kind fpn : Nat)
  /-- an uncorrectable error of a class, with its place as LOC gives it (R228, Table 8-5) -/
  | unc (cls kind num : Nat)
  /-- a host holds this line of physical far memory: a snoop comes first (R315) -/
  | snoop (line : Nat)
  /-- the page is being retired, or the mesh takes no injection: the access waits (R199, R260) -/
  | paused
  deriving DecidableEq, Repr

/-- The physical line of a parcel's far address. -/
def farLine (s : State) (fa : Nat) : Nat := entPpn s (fa / 2 ^ 24) * 2 ^ 18 + fa % 2 ^ 24 / 64

/-- The physical byte of a far address. -/
def farByte (s : State) (fa : Nat) : Nat := entPpn s (fa / 2 ^ 24) * 2 ^ 24 + fa % 2 ^ 24

/-- The first refusal among the pages of a far range. -/
def farRefusal (s : State) (p fa n : Nat) (host rd wr : Bool) : Option (Nat × Nat) :=
  ((unitsOf (2 ^ 24) fa n).filterMap fun f => (pageRefusal (getEnt s f) p host rd wr).map fun k => (k, f)).head?

/-- The first line of a far range that a host holds in a way a core access must snoop (R315): any line for a write, an
exclusive one for a read. -/
def farSnoop (s : State) (fa n : Nat) (wr : Bool) : Option Nat :=
  ((unitsOf 64 fa n).filterMap fun l =>
    let pl := farLine s (l * 64)
    ((getPortF s (fpnPort (l * 64 / 2 ^ 24))).snoops.find? fun x => x.line = pl && !x.lapsed && (wr || x.exclusive)).map fun x => x.line).head?

/-- A page is being retired: its accesses pause (R199). -/
def FarPort.paused (x : FarPort) (fpn : Nat) : Bool := (x.retiring.map (·.a)) = some fpn

/-- A page of a far range is being retired (R199). -/
def farPaused (s : State) (fa n : Nat) : Bool := (unitsOf (2 ^ 24) fa n).any fun f => (getPortF s (fpnPort f)).paused f

/-- A far read by a core of parcel p, checked under R198. -/
def farRead (s : State) (p fa n : Nat) : Except AccErr (List Byte) :=
  match farRefusal s p fa n false true false with
  | some (k, f) => .error (.fault k f)
  | none =>
    if farPaused s fa n then .error .paused else
    match farSnoop s fa n false with
    | some l => .error (.snoop l)
    | none =>
      if (unitsOf 64 fa n).all fun l => unitValid s.far.swInit s.far.marks (farLine s (l * 64)) then
        .ok ((List.range n).map fun i => mrd s.far.mem (farByte s (fa + i)))
      else .error (.unc 0x08 1 (fpnPort (fa / 2 ^ 24)))

/-- Bytes put into far memory: DIRTY sets, wholly written lines become valid (R192, R218, Table 7-5). -/
def farPut (s : State) (fa : Nat) (bs : List Byte) : State :=
  let n := bs.length
  let full := (unitsOf 64 fa n).filter fun l => fa ≤ l * 64 && l * 64 + 64 ≤ fa + n
  let marks := markValid s.far.swInit s.far.marks (full.map fun l => farLine s (l * 64))
  let mem := bs.zipIdx.foldl (fun m (b, i) => mwr m (farByte s (fa + i)) b) s.far.mem
  let s := { s with far := { s.far with mem := mem, marks := marks } }
  (unitsOf (2 ^ 24) fa n).foldl (fun s f => modEnt s f fun e => { e with dirty := true }) s

/-- A line of a far range that is only partly written and is not valid (R227). -/
def farPartInvalid (s : State) (fa n : Nat) : Bool :=
  (unitsOf 64 fa n).any fun l =>
    !(fa ≤ l * 64 && l * 64 + 64 ≤ fa + n) && !unitValid s.far.swInit s.far.marks (farLine s (l * 64))

/-- A line used: the most recent of its port (R191). -/
def FarPort.touch (x : FarPort) (l : Nat) (dirty : Bool) : FarPort :=
  { x with lines := l :: x.lines.filter fun m => m ≠ l,
           dirtyLines := if dirty && decide (l ∉ x.dirtyLines) then l :: x.dirtyLines else x.dirtyLines }

/-- A set of the ring cache keeps its 16 most recently used lines (R191). -/
def FarPort.insert (x : FarPort) (l : Nat) : FarPort :=
  let same := x.lines.filter fun m => m % 4096 = l % 4096
  let out := same.drop 15
  { x with lines := l :: x.lines.filter fun m => m ≠ l && decide (m ∉ out), dirtyLines := x.dirtyLines.filter fun m => decide (m ∉ out) }

/-- A page's entry is looked up in its port's Cadastre cache, which holds 512 (R194). -/
def useEntry (s : State) (fpn : Nat) : State :=
  let p := fpnPort fpn
  let s := if fpn ∈ (getPortF s p).cadCache then s else bump (bump s (fmpBlock p) 10 1) (cadBlock (p / 24)) 0 1
  modPortF s p fun x => { x with cadCache := (fpn :: x.cadCache.filter fun c => c ≠ fpn).take 512 }

/-- The ring cache serves an access of an engine to one line: a hit, or a miss that allocates it (R191, R198). -/
def useLine (wr : Bool) (s : State) (l : Nat) : State :=
  let p := fpnPort (l * 64 / 2 ^ 24)
  let s := useEntry s (l * 64 / 2 ^ 24)
  let pl := farLine s (l * 64)
  let hit := decide (pl ∈ (getPortF s p).lines)
  let s := bump (bump s (fmpBlock p) (if wr then 1 else 0) 1) (fmpBlock p) (if hit then 2 else 3) 1
  modPortF s p fun x => (if hit then x else x.insert pl).touch pl wr

/-- The lines of a far range that an engine has accessed (R191). -/
def farUse (s : State) (fa n : Nat) (wr : Bool) : State := (unitsOf 64 fa n).foldl (useLine wr) s

/-- A far write by a core of parcel p, checked under R198. -/
def farWrite (s : State) (p fa : Nat) (bs : List Byte) : Except AccErr State :=
  match farRefusal s p fa bs.length false false true with
  | some (k, f) => .error (.fault k f)
  | none =>
    if farPaused s fa bs.length then .error .paused else
    match farSnoop s fa bs.length true with
    | some l => .error (.snoop l)
    | none =>
      if farPartInvalid s fa bs.length then .error (.unc 0x08 1 (fpnPort (fa / 2 ^ 24)))
      else .ok (farUse (farPut s fa bs) fa bs.length true)

def nearRead (s : State) (site off n : Nat) : Except AccErr (List Byte) :=
  let x := getSite s site
  if (unitsOf 1 off n).all fun u => unitValid s.far.swInit x.nearMarks u then .ok (mrdN x.near off n) else .error (.unc 0x01 0 site)

def nearWrite (s : State) (site off : Nat) (bs : List Byte) : State :=
  modSite s site fun x => { x with near := mwrN x.near off bs, nearMarks := markValid s.far.swInit x.nearMarks (unitsOf 1 off bs.length) }

def terrRead (s : State) (site off n : Nat) : Except AccErr (List Byte) :=
  let x := getSite s site
  if (unitsOf 8 off n).all fun u => unitValid s.far.swInit x.terrMarks u then .ok (mrdN x.terr off n) else .error (.unc 0x05 0 site)

/-- A terrace write; a word that is only partly written and is not valid keeps its error (R227, log 14 [DEDUCED]). -/
def terrWrite (s : State) (site off : Nat) (bs : List Byte) : State :=
  let n := bs.length
  let full := (unitsOf 8 off n).filter fun u => off ≤ u * 8 && u * 8 + 8 ≤ off + n
  modSite s site fun x => { x with terr := mwrN x.terr off bs, terrMarks := markValid s.far.swInit x.terrMarks full }

/-! ### Digests (R276, R277) -/

/-- A core's covered write adds its contribution to the digest words of its site. -/
def digestWrite (s : State) (c unit : Nat) (a : W64) (bs : List Byte) : State :=
  let d := writeDigest (srcWord (coreParcelNum s c) unit c) (bs.length / 64 + 2) a bs
  modCore s c fun x => { x with cd0 := x.cd0 + d.1, cd1 := x.cd1 + d.2.1, cd2 := x.cd2 + d.2.2.1, cd3 := x.cd3 + d.2.2.2 }

/-! ### Page faults (R202 to R205) -/

/-- The fault record of a page (Table 11-10, TYPE 0x03). -/
def faultRec (p fpn kind held : Nat) (r : FaultReq) : List Byte :=
  recHead 3 p 0 0 0 ++ leBytes 4 fpn ++ [BitVec.ofNat 8 kind, BitVec.ofNat 8 r.requester, BitVec.ofNat 8 r.index, 0] ++
  leBytes 2 r.core ++ [0, 0] ++ leBytes 4 held ++ leBytes 8 r.addr.toNat

/-- A fault record is written and counted (Table 13-10, GH_FAULTREC). -/
def writeFaultRec (s : State) (p fpn kind held : Nat) (r : FaultReq) : State :=
  pclRec (bump s (ghBlock (pclDie s p)) 3 1) p (faultRec p fpn kind held r)

/-- A requester faults on a page: it joins the page's held set, or is the first of a new faulting page, whose record is
written while the parcel has fewer than 64 (R203, R205). -/
def addFault (s : State) (p fpn kind : Nat) (r : FaultReq) : State :=
  if s.far.faults.any fun f => f.parcel = p && f.fpn = fpn then
    { s with far := { s.far with faults := s.far.faults.map fun f =>
        if f.parcel = p && f.fpn = fpn then { f with held := f.held ++ [r] } else f } }
  else
    let room := decide ((s.far.faults.filter fun f => f.parcel = p && f.recorded).length < 64)
    let s := { s with far := { s.far with faults := s.far.faults ++ [{ parcel := p, fpn := fpn, held := [r], recorded := room }] } }
    if room then writeFaultRec s p fpn kind 1 r else s

/-- Room for a fault record has come: the first faulting page without one has it written (R205). -/
def nextFaultRec (s : State) (p : Nat) : State :=
  if 64 ≤ (s.far.faults.countP fun f => f.parcel = p && f.recorded) then s
  else
    match s.far.faults.find? fun f => f.parcel = p && !f.recorded with
    | none => s
    | some f =>
      match f.held.head? with
      | none => s
      | some r =>
        let kind := (pageRefusal (getEnt s f.fpn) p false (!r.write) r.write).getD 0
        let s := { s with far := { s.far with faults := s.far.faults.map fun g => if g = f then { g with recorded := true } else g } }
        writeFaultRec s p f.fpn kind f.held.length r

/-- Requesters leave every held set; a page with none left counts as resolved (R90, R204, R205, R406). See log 84 [DEDUCED]. -/
def dropFault (s : State) (f : FaultReq → Bool) : State :=
  let n := s.far.faults.length
  let s := { s with far := { s.far with faults := (s.far.faults.map fun x => { x with held := x.held.filter fun r => !f r }).filter fun x => x.held ≠ [] } }
  (List.range 8).foldl (fun s p => (List.range (n - s.far.faults.length)).foldl (fun s _ => nextFaultRec s p) s) s

/-! ### Steps that cannot go on (R228, R229, R282) -/

/-- The update phase of the parcel's open step has begun, or the step is not replayable (R281). -/
def replayable (x : Parcel) : Bool :=
  x.allSafe && !x.updateBegun && !x.preempted && decide (x.stepReplays < x.replayLimit.toNat)

/-- The parcel's step stops, to be replayed or ended (R282); a stop already in force for the end stays. -/
def stopStep (s : State) (p : Nat) (st : StepStop) : State :=
  modPcl s p fun x => { x with stop := match x.stop with | .checkpoint => .checkpoint | .placement => .placement | _ => st }

/-- A core is to be fenced (R27, R28). -/
def fenceCore (s : State) (c : Nat) : State := { s with place := { s.place with fencing := nins s.place.fencing c } }

/-- The module fail-stops (R301): it stops issuing; FAILSTOP goes out where it is twinned (R295); ALERT_N is asserted.
The class, CAUSE (Table 10-6) and incident SEQ are those of the message. -/
def failStop (s : State) (cls cause : Nat) : State :=
  let was := twinned s
  let first := if s.pwr.failStopped then s.pwr.failCls else some cls
  let s := raiseAlert { s with pwr := { s.pwr with failStopped := true, failCls := first } } 0
  let msg : Byte × Byte × W32 := (BitVec.ofNat 8 cls, BitVec.ofNat 8 cause, s.repair.next - 1)
  if was then setTwin { s with twin := { s.twin with failMsg := some msg } } .failStopped else s

/-! ### Tallies of correcting reads (R220) -/

/-- The first of the entries with the lowest count: the oldest. -/
def lowestEntry : List TallyRow → Option TallyRow
  | [] => none
  | x :: t =>
    match lowestEntry t with
    | none => some x
    | some y => if y.count < x.count then some y else some x

/-- A correcting read of a row is tallied, at least to n; the flag says that an entry was replaced (R220). -/
def tallyAdd (size n : Nat) (l : List TallyRow) (row : Nat) : List TallyRow × Bool :=
  if l.any fun x => x.row = row then
    (l.map fun x => if x.row = row && !x.frozen then { x with count := max n (x.count + 1) } else x, false)
  else if l.length < size then (l ++ [{ row := row, count := max n 1 }], false)
  else
    match lowestEntry l with
    | none => (l, false)
    | some y => ((l.filter fun x => x.row ≠ y.row) ++ [{ row := row, count := max n 1 }], true)

/-- The terrace row of an offset: eight words (R221). -/
def terrRow (off : Nat) : Nat := off / 64

/-- The device row of a physical far byte: page, bank and channel, and the row of 30 lines in it (R190, R218, log 18 [DEDUCED]). -/
def farRow (pb : Nat) : Nat := pb / 2 ^ 24 * 16384 + bits pb 6 6 * 256 + bits pb 12 12 / 30

/-- A terrace row's tally rises (R220). -/
def terrTally (s : State) (site row n : Nat) : State :=
  let r := tallyAdd 16 n (getSite s site).tally row
  let s := modSite s site fun x => { x with tally := r.1 }
  if r.2 then bump s (siteBlock site) 22 1 else s

/-- A far row's tally rises (R220). -/
def farTally (s : State) (port row n : Nat) : State :=
  let r := tallyAdd 64 n (getPortF s port).tally row
  let s := modPortF s port fun x => { x with tally := r.1 }
  if r.2 then bump s (fmpBlock port) 7 1 else s

/-- TER_RETIRE_THRESH and FAR_RETIRE_THRESH (Table 8-6). -/
def terThresh (s : State) : Nat := objNat s 0x9010 0 3
def farThresh (s : State) : Nat := objNat s 0x9011 0 4

/-- The counters of an uncorrectable error of a class at a place (Tables 13-6, 13-7), and the row that it makes due for
retirement or repair (R220, R225). -/
def countUnc (s : State) (cls kind num : Nat) (addr : W64) : State :=
  if (cls = 0x01 ∨ cls = 0x02) ∧ kind = 0 then
    let s := bump s (siteBlock num) 4 1
    let row := (num, addr.toNat % nearBytes / 64)
    { s with repair := { s.repair with nearRows := if row ∈ s.repair.nearRows then s.repair.nearRows else s.repair.nearRows ++ [row] } }
  else if cls = 0x05 ∧ kind = 0 then terrTally (bump s (siteBlock num) 20 1) num (terrRow (addr.toNat % 2 ^ 26)) (terThresh s)
  else if cls = 0x07 ∧ kind = 1 then farTally (bump s (fmpBlock num) 5 1) num (farRow (farByte s (addr.toNat % 2 ^ 42))) (farThresh s)
  else if cls = 0x08 ∧ kind = 1 then bump s (fmpBlock num) 6 1
  else s

/-- The clock domain of a place in LOC (Table 8-5, Table 14-1). -/
def locDomain (kind num : Nat) : Nat :=
  if kind = 0 then siteBed num else if kind = 1 then 40 + num / 6 else if kind = 2 then 56 + num
  else if kind = 4 then 52 + num / 20 else if kind = 5 then 54 + num else if kind = 6 then blockDomain num else 58

/-- ADDR of an incident at a far port is FPN × 2^24 + offset, without the core address's SPACE (Table 8-5). -/
def incAddr (kind : Nat) (addr : W64) : W64 := if kind = 1 then BitVec.ofNat 64 (addr.toNat % 2 ^ 42) else addr

/-- An uncorrectable error in a core's own near memory, registers, tiles, weight slots or WGA counts in its step (R229). -/
def countOwn (s : State) (own : Option Nat) : State :=
  match own with
  | none => s
  | some c => modCore s c fun y => { y with stepErrs := y.stepErrs + 1 }

/-- Such errors of the step so far. -/
def ownErrs (s : State) (own : Option Nat) : Nat :=
  match own with
  | none => 0
  | some c => (getCore s c).stepErrs

/-- The core whose own storage an error lies in. -/
def ownOf (s : State) (c cls kind num : Nat) : Option Nat :=
  if (cls = 0x01 || cls = 0x02 || cls = 0x03) && kind = 0 && num = csite s c then some c else none

/-- The second such error of a step fences the core, and the step is replayed after its relocation, or ends (R27, R229). -/
def fenceSecond (s : State) (own : Option Nat) : State :=
  match own with
  | none => s
  | some c =>
    let s := fenceCore s c
    match coreParcel s c with
    | none => s
    | some p => stopStep s p (if replayable (getPcl s p) then .replay else .checkpoint)

/-- An error whose own handling is a trap or a halt also counts for its core, and the step's second fences it (R229). -/
def noteOwn (s : State) (own : Option Nat) : State :=
  if 1 ≤ ownErrs s own ∧ twinned s = false then fenceSecond (countOwn s own) own else countOwn s own

/-- An uncorrectable error in data feeding arithmetic of parcel p, outside or inside an update launch or gauge (Table
8-4, R229, R282, R289). own names the core whose own site's storage failed, if it did. -/
def uncData (s : State) (p cls kind num : Nat) (addr : W64) (upd : Bool) (own : Option Nat) (detail : W32 := 0) : State :=
  let x := getPcl s p
  let addr := incAddr kind addr
  let again := decide ((p, addr.toNat) ∈ s.repair.stepAddrs)
  let ends := upd || again || !replayable x
  let act := if twinned s then 5 else if 1 ≤ ownErrs s own then 8 else if ends then 4 else 3
  let s := countUnc s cls kind num addr
  let s := logInc s { cls := cls, action := act, parcel := some p, locKind := kind, locNum := num,
                      domain := locDomain kind num, addr := addr, detail := detail }
  let s := { s with repair := { s.repair with stepAddrs := (p, addr.toNat) :: s.repair.stepAddrs } }
  let s := countOwn s own
  if act = 5 then failStop s cls 0
  else
    let s := if act = 8 then fenceSecond s own else s
    stopStep s p (if ends then .checkpoint else .replay)

/-- An uncorrectable error in data feeding arithmetic of a core. -/
def uncArith (s : State) (c cls kind num : Nat) (addr : W64) (upd : Bool) : State :=
  uncData s (coreParcelNum s c) cls kind num addr upd (ownOf s c cls kind num)

/-- A parity error in an instruction fetch: trap 0x04 with the row's address, or the twin's fail-stop, and the incident of
class 0x02 (R228, R289, Table 8-4). -/
def fetchError (s : State) (c k : Nat) (row : W64) : State :=
  let site := csite s c
  let own := ownOf s c 0x02 0 site
  let s := logInc (countUnc s 0x02 0 site row)
    { cls := 0x02, action := if twinned s then 5 else 1, parcel := coreParcel s c, locKind := 0, locNum := site,
      domain := siteBed site, addr := row }
  if twinned s then failStop s 0x02 0 else noteOwn (trap s c k 0x04 row) own

/-! ### Snoops of host-held lines (R315) -/

/-- BISnp that a far port has outstanding to a host port (R315). -/
def snoopsOut (s : State) (p host : Nat) : Nat := (getPortF s p).snoops.countP fun x => x.host = host && x.snooped

/-- The port begins the snoop of a physical line that hosts hold, unless it is under way or 64 of the port's are out to that
host (R315). -/
def startSnoop (s : State) (line : Nat) (inv : Bool) : State :=
  let p := line / 2 ^ 18 / 3840
  (getPortF s p).snoops.foldl (fun s x =>
    if x.line = line && !x.snooped && !x.lapsed && decide (snoopsOut s p x.host < 64) then
      let s := modPortF s p fun y =>
        { y with snoops := y.snoops.map fun z => if z.line = line && z.host = x.host && !z.lapsed then { z with snooped := true, inv := inv } else z }
      send (bump s (fmpBlock p) 9 1) (.bisnp x.host line inv)
    else s) s

end Sys2Proof.Machine
end

