-- ==== Sys2Proof/WellFormed.lean ====
section
/-!
DEFINITION. Which commands name units that exist: cores 0 to 767, contexts 0 to 3, windows 0 to 63, and so on (R8, R22).
A command that names none has no meaning in the spec; the machine leaves its state as it is on one (log 2 [DESIGN CHOICE]).
-/

namespace Sys2Proof

/-- The core and the context exist (R20, R58). -/
def Enc.wf (e : Enc) : Bool := decide (e.core < 768) && decide (e.ctx < 4)

/-- The source of a register write exists (R372). -/
def Src.wf : Src → Bool
  | .host p => decide (p < 4)
  | .lodge => true
  | .gatehouse d => decide (d < 2)

/-- The requester exists (R348, R359): a source address, or one of four host windows. -/
def Requester.wf : Requester → Bool
  | .mgmt _ => true
  | .hostWin p => decide (p < 4)

/-- The array and lane exist (R93). See log 53 [DESIGN CHOICE]. -/
def LaneFlip.wf (f : LaneFlip) : Bool := decide (f.arr < 4) && decide (f.lane < 32)

/-- The symbol is one of the 68 of a codeword (R216). -/
def SymErr.wf (f : SymErr) : Bool := decide (f.pos < 68)

/-- The site or far-memory port exists. -/
def RowPlace.wf : RowPlace → Bool
  | .terrace n => decide (n < 800)
  | .far p => decide (p < 48)

/-- The port of a PERST_N pin exists. -/
def Pin.wf : Pin → Bool
  | .perstN p => decide (p < 4)
  | .resetN => true
  | .fenceN => true
  | .pwrWarnN => true

/-- The parcel of an event exists. -/
def Event.wf : Event → Bool
  | .pclState p => decide (p < 8)
  | .incident _ => true
  | .twinState => true
  | .alert => true

/-- Every unit that a command names exists. -/
def Instr.wf : Instr → Bool
  | .add e => e.wf
  | .sub e => e.wf
  | .and e => e.wf
  | .or e => e.wf
  | .xor e => e.wf
  | .sll e => e.wf
  | .srl e => e.wf
  | .sra e => e.wf
  | .mul e => e.wf
  | .mulhs e => e.wf
  | .mulhu e => e.wf
  | .min e => e.wf
  | .max e => e.wf
  | .slt e => e.wf
  | .sltu e => e.wf
  | .seq e => e.wf
  | .lih e => e.wf
  | .mova e => e.wf
  | .movs e => e.wf
  | .adda e => e.wf
  | .ld e => e.wf
  | .st e => e.wf
  | .loadDataArrival core ctx => decide (core < 768) && decide (ctx < 4)
  | .br e => e.wf
  | .bz e => e.wf
  | .bnz e => e.wf
  | .blt e => e.wf
  | .bge e => e.wf
  | .jal e => e.wf
  | .jr e => e.wf
  | .rdcr e => e.wf
  | .wrcr e => e.wf
  | .yield e => e.wf
  | .halt e => e.wf
  | .swTrap e => e.wf
  | .quantumExpiry core => decide (core < 768)
  | .stallBecomesSwitchEligible core ctx => decide (core < 768) && decide (ctx < 4)
  | .contextSelect core => decide (core < 768)
  | .arrive e => e.wf
  | .beaconAdd e => e.wf
  | .beaconSet e => e.wf
  | .beaconWait e => e.wf
  | .beaconMessageAtRoot _ => true
  | .beaconWake core ctx => decide (core < 768) && decide (ctx < 4)
  | .cpy e => e.wf
  | .cpyw e => e.wf
  | .cpyq e => e.wf
  | .cpyclr e => e.wf
  | .copyDescriptorStart core ch => decide (core < 768) && decide (ch < 8)
  | .copyRow core ch => decide (core < 768) && decide (ch < 8)
  | .copyDescriptorComplete core ch => decide (core < 768) && decide (ch < 8)
  | .vadd e => e.wf
  | .vsub e => e.wf
  | .vmul e => e.wf
  | .vfma e => e.wf
  | .vmax e => e.wf
  | .vmin e => e.wf
  | .vabs e => e.wf
  | .vneg e => e.wf
  | .vrcp e => e.wf
  | .vsqrt e => e.wf
  | .vrsqrt e => e.wf
  | .vexp2 e => e.wf
  | .vlog2 e => e.wf
  | .vsel e => e.wf
  | .vcmplt e => e.wf
  | .vrsum e => e.wf
  | .vrmax e => e.wf
  | .vld e => e.wf
  | .vst e => e.wf
  | .vbcast e => e.wf
  | .vmovs e => e.wf
  | .vcvt e => e.wf
  | .vdadd e => e.wf
  | .viadd e => e.wf
  | .vldd e => e.wf
  | .vstd e => e.wf
  | .tld e => e.wf
  | .teval e => e.wf
  | .tevalm e => e.wf
  | .tcfg e => e.wf
  | .tseq e => e.wf
  | .tsync e => e.wf
  | .tdrn e => e.wf
  | .tdrv e => e.wf
  | .accrel e => e.wf
  | .panelLoad core arr => decide (core < 768) && decide (arr < 4)
  | .streamRowEntry core => decide (core < 768)
  | .tileRowCommit core flip => decide (core < 768) && flip.all LaneFlip.wf
  | .tseqLastRowEntered core => decide (core < 768)
  | .drainRow core => decide (core < 768)
  | .drainComplete core => decide (core < 768)
  | .cown e => e.wf
  | .cpush e => e.wf
  | .cpopv e => e.wf
  | .cpop e => e.wf
  | .crsv e => e.wf
  | .creset e => e.wf
  | .cairnSpillComplete core => decide (core < 768)
  | .cairnRefillComplete core => decide (core < 768)
  | .cairnSpillStart core => decide (core < 768)
  | .winit e => e.wf
  | .winitZeroingComplete core => decide (core < 768)
  | .wzero e => e.wf
  | .waddv e => e.wf
  | .wrdv e => e.wf
  | .wflush e => e.wf
  | .wsync e => e.wf
  | .flushComplete core => decide (core < 768)
  | .wgaSumArrival core => decide (core < 768)
  | .mdrop e => e.wf
  | .mbits e => e.wf
  | .mraw e => e.wf
  | .ulaunch e => e.wf
  | .updateLaunchStart core ctx => decide (core < 768) && decide (ctx < 4)
  | .updateGroupCommit core => decide (core < 768)
  | .updateLaunchComplete core => decide (core < 768)
  | .ugauge e => e.wf
  | .ngsend e => e.wf
  | .ngaccArrival core => decide (core < 768)
  | .ngcast e => e.wf
  | .gateValueArrival core => decide (core < 768)
  | .ngwait e => e.wf
  | .theodoliteTallyWrite p => decide (p < 8)
  | .terraceRemoteAccess site _ => decide (site < 800)
  | .flitAtRouter _ _ _ => true
  | .tailArrival _ => true
  | .multicastCountComplete core ch => decide (core < 768) && decide (ch < 8)
  | .routerFailure site => decide (site < 800)
  | .routerCreditTimeout site => decide (site < 800)
  | .detourLoad die => decide (die < 2)
  | .bridgeFrameReceived die col _ => decide (die < 2) && decide (col < 20)
  | .bridgeFrameReplay die col => decide (die < 2) && decide (col < 20)
  | .farRequestAtPort port => decide (port < 48)
  | .cadastreCacheMiss port => decide (port < 48)
  | .ringCacheFill port errs => decide (port < 48) && errs.all SymErr.wf
  | .zeroFillComplete fpn => decide (fpn < 184320)
  | .rowRetirement place _ => place.wf
  | .terraceRowRetire site _ => decide (site < 800)
  | .pageRetirementComplete port => decide (port < 48)
  | .uncorrectableError _ => true
  | .scrubRead die _ => decide (die < 2)
  | .lapEnd die _ _ => decide (die < 2)
  | .fenceAndRelocate core => decide (core < 768)
  | .stepReplay p => decide (p < 8)
  | .moduleFailStop _ => true
  | .hostMemWrite port _ _ => decide (port < 4)
  | .hostMemRead port _ _ => decide (port < 4)
  | .windowRecordWrite port _ _ => decide (port < 4)
  | .decoder1Read port _ _ => decide (port < 4)
  | .segmentExecute w => decide (w < 64)
  | .hostConfigRequest port => decide (port < 4)
  | .bisnpResponse port _ _ => decide (port < 4)
  | .snoopTimeout port _ => decide (port < 4)
  | .h2dSnoop port => decide (port < 4)
  | .recordGloballyObserved port => decide (port < 4)
  | .portLinkEvent port _ => decide (port < 4)
  | .perstN port _ => decide (port < 4)
  | .nop w => decide (w < 64)
  | .segseal w => decide (w < 64)
  | .loadp w => decide (w < 64)
  | .start w => decide (w < 64)
  | .startCompletion w => decide (w < 64)
  | .bmark w => decide (w < 64)
  | .stepEndWithoutMark p _ => decide (p < 8)
  | .operand w => decide (w < 64)
  | .mcreg w => decide (w < 64)
  | .mapPages w => decide (w < 64)
  | .unmapPages w => decide (w < 64)
  | .cleanPages w => decide (w < 64)
  | .sealRange w => decide (w < 64)
  | .unsealRange w => decide (w < 64)
  | .faultabort w => decide (w < 64)
  | .rwack w => decide (w < 64)
  | .preempt w => decide (w < 64)
  | .restoreCtx w => decide (w < 64)
  | .ctxreset w => decide (w < 64)
  | .preset w => decide (w < 64)
  | .parcelResetComplete p => decide (p < 8)
  | .coreReset site => decide (site < 800)
  | .windowEnable src w _ _ => src.wf && decide (w < 64)
  | .windowDisable src w _ _ => src.wf && decide (w < 64)
  | .crHeadWrite src w _ _ => src.wf && decide (w < 64)
  | .unlock src _ _ => src.wf
  | .snap src _ _ => src.wf
  | .cclr src _ _ => src.wf
  | .scancel src _ _ => src.wf
  | .counterLowRead src _ => src.wf
  | .configCheck _ => true
  | .cadSel src die _ => src.wf && decide (die < 2)
  | .groundskeeperEnable src die _ _ => src.wf && decide (die < 2)
  | .registerWrite src _ _ => src.wf
  | .hwGo port _ _ _ => decide (port < 4)
  | .hostWindowTimeout port => decide (port < 4)
  | .hostWindowResponse port => decide (port < 4)
  | .cixaRead src _ => src.wf
  | .cixaWrite src _ => src.wf
  | .cixaReadSeg src _ => src.wf
  | .cixaWriteSeg src _ => src.wf
  | .cixaAck src _ => src.wf
  | .cixaNotify ev => ev.wf
  | .notifyResend _ => true
  | .segmentSessionTimeout _ _ => true
  | .snapshotExpiry src _ _ => src.wf
  | .queueFullDiscard src _ => src.wf
  | .objectWrite src _ _ _ => src.wf
  | .parcelCreate p => decide (p < 8)
  | .parcelRemove p => decide (p < 8)
  | .pclCtlReset p => decide (p < 8)
  | .pclBeds p _ => decide (p < 8)
  | .bcnAlloc p die _ => decide (p < 8) && decide (die < 2)
  | .snapAll _ => true
  | .snapPcl p _ => decide (p < 8)
  | .snapshotComplete _ => true
  | .regXferWrite src _ _ => src.wf
  | .regXferSelect src _ => src.wf
  | .regXferRead src => src.wf
  | .incAck _ => true
  | .incOvf _ _ => true
  | .softClear _ => true
  | .coreReturn core => decide (core < 768)
  | .clkBed bed _ => decide (bed < 32)
  | .clkHalf half _ => decide (half < 4)
  | .modReset _ => true
  | .alertClr _ => true
  | .plcaNode _ => true
  | .rejoinStart => true
  | .rejoinCancel => true
  | .fwUpload slot _ => decide (slot < 2)
  | .fwNext _ => true
  | .fwSvnBurn _ => true
  | .spdmReq src _ => src.wf
  | .measNonce src _ => src.wf
  | .heartbeat _ => true
  | .heartbeatTimer => true
  | .peerLost => true
  | .digest _ => true
  | .digestTimeout p => decide (p < 8)
  | .failstop _ => true
  | .failstopRepeat => true
  | .twinState _ => true
  | .stateData _ => true
  | .pair _ => true
  | .pairAck _ => true
  | .unpair _ => true
  | .rejoinOffer _ => true
  | .rejoinAccept _ => true
  | .rejoinDone _ => true
  | .twinFrameReplay => true
  | .laneDrop lane => decide (lane < 8)
  | .pairingTimeout => true
  | .lodgeSupplyUp _ => true
  | .lodgeSupplyLoss _ => true
  | .inputReady _ => true
  | .powerEvent _ => true
  | .hostPortsPoison => true
  | .powerHalt => true
  | .overVoltageWarning _ => true
  | .overVoltageTrip _ => true
  | .resetN _ => true
  | .resetNHeld => true
  | .fenceN => true
  | .pwrWarnN => true
  | .inputFlapping pin => pin.wf
  | .lockoutEnd pin _ => pin.wf
  | .temperatureSample _ _ _ => true
  | .temperatureWarning => true
  | .thermalTrip => true
  | .clockLockLoss dom => decide (dom < 60)
  | .bootRomVerify => true
  | .recovery => true
  | .repairPlatLoad => true
  | .computeRamp => true
  | .gatehouseImageLoad => true
  | .linkTraining _ _ => true
  | .memoryInit => true
  | .pairing => true
  | .bringupComplete => true
  | .bringupStepFailed _ => true
  | .overVoltageClear _ => true
  | .fenceNRelease => true
  | .pwrWarnNRelease => true
  | .keptAckExpiry src _ => src.wf
  | .plcaBeaconLoss _ => true
  | .icmpv6EchoRequest _ _ => true
  | .cxlLinkUp port _ _ => decide (port < 4)
  | .contextResetComplete core ctx => decide (core < 768) && decide (ctx < 4)
  | .hdmDecoderCommit port _ _ => decide (port < 4)

end Sys2Proof
end

