-- ==== Sys2Proof/Machine/Operands.lean ====
section
/-!
DEFINITION. Operand forms: core addresses and their reach (R182 to R185), the fields of an instruction word and their
legality (R63 to R66), operand b (R70), the issue of an instruction (R59 to R61, R76), its waits (R60, R62), and the
flits that a core's requests become (R188, R239, R245, R449).
-/

namespace Sys2Proof

/-- IMM as a number. -/
def Enc.immS (e : Enc) : W64 := e.imm.signExtend 64

/-- MOD[0]. -/
def Enc.md0 (e : Enc) : Bool := e.md.getLsbD 0

end Sys2Proof

namespace Sys2Proof.Machine

/-! ### Core addresses (R182, R184, R185) -/

/-- Where a core address lies: own near memory, a site's terrace (with the SPACE that named it), or far memory. -/
inductive Spot where
  | near (off : Nat)
  | terr (space site off : Nat)
  | far (fa : Nat)
  deriving DecidableEq, Repr

/-- The spaces that a unit accepts (Table 7-3). -/
structure Spaces where
  near : Bool
  own : Bool
  remote : Bool
  far : Bool
  deriving DecidableEq, Repr

def spAll : Spaces := ⟨true, true, true, true⟩
def spNoFar : Spaces := ⟨true, true, true, false⟩
def spLocal : Spaces := ⟨true, true, false, false⟩
def spNear : Spaces := ⟨true, false, false, false⟩

def nearSize : Nat := 2097152
def terrSize : Nat := 50331648
def farSize : Nat := 184320 * 16777216

/-- Two cores of one parcel (R184). -/
def sameParcel (s : State) (c c2 : Nat) : Bool := c2 < 768 && coreParcel s c2 == coreParcel s c && (coreParcel s c).isSome

/-- The spot of n bytes at core address a, as core c may reach it; none raises trap 0x03 or a descriptor error. -/
def spotOf (s : State) (c : Nat) (sp : Spaces) (a : W64) (n : Nat) : Option Spot :=
  let v := a.toNat % 2 ^ 60
  let off := v % 2 ^ 26
  let unit := v / 2 ^ 32
  match a.toNat / 2 ^ 60 with
  | 0 => if sp.near && decide (v + n ≤ nearSize) then some (.near v) else none
  | 1 => if sp.own && decide (v + n ≤ terrSize) then some (.terr 1 (tsite s c) off) else none
  | 2 =>
    if sp.remote && v % 2 ^ 32 == off && decide (off + n ≤ terrSize) && sameParcel s c unit then
      some (.terr 2 (tsite s unit) off) else none
  | 3 =>
    if sp.remote && v % 2 ^ 32 == off && decide (off + n ≤ terrSize) && decide (unit < 800) &&
        bedParcel s (siteBed unit) == coreParcel s c && (coreParcel s c).isSome then
      some (.terr 3 unit off) else none
  | 4 => if sp.far && decide (v + n ≤ farSize) then some (.far v) else none
  | _ => none

/-- The terrace of the site is out of the mesh's reach: its router has failed (R189, R260). -/
def terrLost (s : State) (site : Nat) : Bool := (getSite s site).rfail

/-- The far flit of an address goes to the page's port. -/
def spotDst : Spot → Nat
  | .near _ => 0
  | .terr _ site _ => site
  | .far fa => 800 + fpnPort (fa / 2 ^ 24)

/-- The spot is served inside the site: near memory, or the terrace of the site where the core computes (R185). -/
def isLocal (s : State) (c : Nat) : Spot → Bool
  | .near _ => true
  | .terr _ site _ => site = csite s c
  | .far _ => false

/-- The routers of the core's die accept no injection (R260). -/
def injBlocked (s : State) (c : Nat) : Bool := sget false s.mesh.injStopped (siteDie (csite s c))

/-- The endpoint that performs an access of core c (R258): its own site, a remote site or a far port. -/
def spotEnd (s : State) (c : Nat) (x : Spot) : Nat := if isLocal s c x then csite s c else spotDst x

/-- A read by an engine of core c. -/
def spotRead (s : State) (c : Nat) (x : Spot) (n : Nat) : Except AccErr (List Byte) :=
  match x with
  | .near off => nearRead s (csite s c) off n
  | .terr _ site off =>
    if site = csite s c then terrRead s site off n
    else if terrLost s site then .error .reach
    else if injBlocked s c then .error .paused
    else terrRead s site off n
  | .far fa => if injBlocked s c then .error .paused else farRead s (coreParcelNum s c) fa n

/-- A write by an engine of core c. -/
def spotWrite (s : State) (c : Nat) (x : Spot) (bs : List Byte) : Except AccErr State :=
  match x with
  | .near off => .ok (nearWrite s (csite s c) off bs)
  | .terr _ site off =>
    if site = csite s c then .ok (terrWrite s site off bs)
    else if terrLost s site then .error .reach
    else if injBlocked s c then .error .paused
    else .ok (terrWrite s site off bs)
  | .far fa => if injBlocked s c then .error .paused else farWrite s (coreParcelNum s c) fa bs

/-- A read of n bytes at a core address. See log 51 [DESIGN CHOICE]. -/
def engRead (s : State) (c : Nat) (sp : Spaces) (a : W64) (n : Nat) : Except AccErr (List Byte) :=
  match spotOf s c sp a n with
  | none => .error .reach
  | some x => spotRead s c x n

/-- A write at a core address. -/
def engPut (s : State) (c : Nat) (sp : Spaces) (a : W64) (bs : List Byte) : Except AccErr State :=
  match spotOf s c sp a bs.length with
  | none => .error .reach
  | some x => spotWrite s c x bs

/-- A write at a core address, counted in the core's digest under a unit of Table 10-3. -/
def engWrite (s : State) (c unit : Nat) (sp : Spaces) (a : W64) (bs : List Byte) : Except AccErr State :=
  (engPut s c sp a bs).map fun s => digestWrite s c unit a bs

/-- The lines of a far range that an engine of core c has read (R191). -/
def engSeen (s : State) (c : Nat) (a : W64) (n : Nat) : State :=
  match spotOf s c spAll a n with
  | some (.far fa) => farUse s fa n false
  | _ => s

/-- The endpoints of a list of writes by core c. -/
def engEnds (s : State) (c : Nat) (ws : List (W64 × List Byte)) : List Nat :=
  ws.filterMap fun w => (spotOf s c spAll w.1 w.2.length).map (spotEnd s c)

/-- An address plus a signed offset. -/
def addOff (a : W64) (d : Int) : W64 := a + BitVec.ofInt 64 d

/-! ### Instruction words (R63 to R66) -/

/-- Which fields an operation uses: CLASS and OP, the register fields, those that name an a register, and the used
bits of MOD and IMM. -/
structure Shape where
  cls : Nat
  op : Nat
  rd : Bool := false
  ra : Bool := false
  rb : Bool := false
  aD : Bool := false
  aA : Bool := false
  aB : Bool := false
  md : BitVec 7 := 0
  imm : BitVec 32 := 0

/-- The instruction word (Table 3-3). -/
def encWord (h : Shape) (e : Enc) : W64 :=
  BitVec.ofNat 4 h.cls ++ BitVec.ofNat 6 h.op ++ e.rd ++ e.ra ++ e.rb ++ e.md ++ e.imm

/-- Unused fields are zero and an a-register operand is below 16 (R64). See log 54 [DEDUCED]. -/
def Shape.legal (h : Shape) (e : Enc) : Bool :=
  (h.rd || e.rd = 0) && (h.ra || e.ra = 0) && (h.rb || e.rb = 0) && (!h.aD || decide (e.rd.toNat < 16)) &&
  (!h.aA || decide (e.ra.toNat < 16)) && (!h.aB || decide (e.rb.toNat < 16)) && e.md &&& ~~~h.md = 0 && e.imm &&& ~~~h.imm = 0

/-- The shape of an operation with operand b: IMM when MOD[0] is 1, else s[RB] (R70). -/
def bShape (cls op : Nat) (e : Enc) (aD aA : Bool) : Shape :=
  { cls := cls, op := op, rd := true, ra := true, aD := aD, aA := aA, md := 1, rb := !e.md0, imm := if e.md0 then ~~~0 else 0 }

/-- Operand b (R70). -/
def opB (x : Ctx) (e : Enc) : W64 := if e.md0 then e.immS else x.s e.rb

/-- The address a[RA] + IMM. -/
def addrAI (x : Ctx) (e : Enc) : W64 := x.a e.ra + e.immS

/-! ### Issue (R59 to R61, R76) -/

/-- The core's compute part works: it has a place, no reset is under way and its parcel's step is not stopped. -/
def coreRuns (s : State) (c : Nat) : Bool :=
  alive s && decide (c < 768) && !coreAbsent s c && !(getCore s c).resetting &&
  (match coreParcel s c with
   | none => true
   | some p => (getPcl s p).st = .active && (getPcl s p).stop = .none)

/-- Another context of the core is READY. -/
def otherReady (x : Site) (k : Nat) : Bool := (List.range 4).any fun j => j ≠ k && (x.ctx j).st = .ready && !(x.ctx j).preempting

/-- The context holds the issue slot, nothing keeps it from issuing, and its quantum has not ended. -/
def canIssue (s : State) (e : Enc) : Bool :=
  let x := getCore s e.core
  let y := x.ctx e.ctx
  e.wf && coreRuns s e.core && y.st = .issuing && y.wait = .none && !y.resetting && !y.preempting &&
  !(otherReady x e.ctx && decide (64 ≤ y.quantum))

/-- The row that holds the context's PC is in its row buffer, first; none on a parity error in it (R76). -/
def fetchRow (s : State) (c k : Nat) : Option State :=
  let y := getCtx s c k
  let row := y.pc.toNat / 64 * 64
  match y.rowBuf.find? fun r => r.1 = row with
  | some r => some (modCtx s c k fun y => { y with rowBuf := r :: y.rowBuf.filter fun q => q.1 ≠ row })
  | none =>
    match nearRead s (csite s c) row 64 with
    | .error _ => none
    | .ok bs => some (modCtx s c k fun y => { y with rowBuf := ((row, bs) :: y.rowBuf).take 4 })

/-- The instruction is counted: CS_ISSUED (Table 13-6) and the quantum (R61). See log 61 [DEDUCED]. -/
def countIssue (s : State) (c k : Nat) : State :=
  let s := bump s (siteBlock (csite s c)) 0 1
  modCore s c fun x => x.modCtx k fun y => { y with quantum := if otherReady x k then y.quantum + 1 else 0 }

/-- The context goes on after its instruction: PC rises by 8; a WAITING context is READY (R62). -/
def retire (s : State) (c k : Nat) : State :=
  modCtx s c k fun y =>
    { y with pc := y.pc + 8, wait := .none, st := if y.st = .waiting ∨ y.st = .held then .ready else y.st }

/-- An instruction issues: it does f where its word is legal, and traps where it is not (R66), where its row cannot
be fetched, or where its address is outside near memory (Tables 3-5, 7-3; log 15 [DEDUCED]). -/
def issue (h : Shape) (e : Enc) (s : State) (f : State → State) : Out :=
  if canIssue s e then
    if nearSize ≤ (getCtx s e.core e.ctx).pc.toNat then done (trap s e.core e.ctx 0x03 (getCtx s e.core e.ctx).pc)
    else match fetchRow s e.core e.ctx with
    | none => done (fetchError s e.core e.ctx (BitVec.ofNat 64 ((getCtx s e.core e.ctx).pc.toNat / 64 * 64)))
    | some s =>
      let s := countIssue s e.core e.ctx
      if h.legal e then done (f s) else done (trap s e.core e.ctx 0x01 (encWord h e))
  else cannot s

end Sys2Proof.Machine

namespace Sys2Proof

/-- A trap of the issuing instruction. -/
def Enc.trap (e : Enc) (s : Machine.State) (cause : Nat) (val : W64) : Machine.State := Machine.trap s e.core e.ctx cause val

/-- The instruction's context. -/
def Enc.x (e : Enc) (s : Machine.State) : Machine.Ctx := Machine.getCtx s e.core e.ctx

end Sys2Proof

namespace Sys2Proof.Machine

/-- The instruction writes s[RD] and is finished. -/
def wrS (e : Enc) (s : State) (v : W64) : State := retire (modCtx s e.core e.ctx fun y => y.setS e.rd v) e.core e.ctx

/-- The instruction writes a[RD] and is finished. -/
def wrA (e : Enc) (s : State) (v : W64) : State := retire (modCtx s e.core e.ctx fun y => y.setA e.rd v) e.core e.ctx

/-! ### Waits (R60, R62, R202) -/

/-- The context meets a stall: switch-eligible, it is WAITING and gives up the slot; else it stalls in place. -/
def block (s : State) (c k : Nat) (eligible : Bool) (w : Wait) : State :=
  if eligible then modCtx (giveUp s c k) c k fun y => { y with st := .waiting, wait := w }
  else modCtx s c k fun y => { y with wait := w }

/-- The instruction finishes now or waits to finish. -/
def orWait (att : State → Option State) (eligible : Bool) (o : WaitOp) (e : Enc) (s : State) : State :=
  match att s with
  | some t => t
  | none => block s e.core e.ctx eligible (.op o e)

/-- As orWait, for an instruction whose descriptor b has been read and checked at its issue (R111, R141). -/
def orWaitDesc (att : State → Option State) (eligible : Bool) (o : WaitOp) (e : Enc) (b : List Byte) (s : State) : State :=
  match att s with
  | some t => t
  | none => block s e.core e.ctx eligible (.desc o e b)

/-- The context is HELD on a page, with its PC at the instruction, and joins the page's held set (R202, R203). -/
def hold (s : State) (c k kind fpn : Nat) (a : W64) (wr : Bool) : State :=
  let s := modCtx (giveUp s c k) c k fun y => { y with st := .held, wait := .fault a }
  addFault s (coreParcelNum s c) fpn kind { requester := 0, index := k, core := c, addr := a, write := wr }

/-- A posted store of the context is held at its port: the context becomes HELD at this instruction (Table 7-6). -/
def heldAtPort (s : State) (e : Enc) : Option State :=
  match (e.x s).heldSt with
  | [] => none
  | h :: _ => some (modCtx (giveUp s e.core e.ctx) e.core e.ctx fun y => { y with st := .held, wait := .fault h.addr })

/-- The instruction first meets a store held at its port, if there is one (Table 7-6). -/
def unlessHeld (e : Enc) (s : State) (f : State → State) : State :=
  match heldAtPort s e with
  | some t => t
  | none => f s

/-! ### Flits of a core's requests (R188, R239, R245, R449) -/

/-- The edge router of a ring endpoint in the numbering of Table 9-4 (Table 9-12), or the site itself. -/
def endpointSite (d : Nat) : Nat :=
  if d < 800 then d
  else if d < 848 then
    let p := d - 800
    let die := p / 24
    let f := p % 24 / 6
    let i := p % 6
    die * 400 + (if die = 0 then
        (if f = 0 then 2 + i else if f = 1 then 12 + i else if f = 2 then (12 + i) * 20 else (12 + i) * 20 + 19)
      else
        (if f = 0 then (2 + i) * 20 else if f = 1 then (2 + i) * 20 + 19 else if f = 2 then 19 * 20 + 2 + i else 19 * 20 + 12 + i))
  else if d = 848 then 80
  else if d = 849 then 400 + 14 * 20
  else if d = 850 then 80 + 19
  else if d = 851 then 400 + 14 * 20 + 19
  else 100

/-- A flit enters the injection queue of its source. -/
def inject (s : State) (f : Flit) : State :=
  { s with mesh := { s.mesh with net := s.mesh.net ++ [{ f with born := s.mesh.born }], born := s.mesh.born + 1 } }

/-- The injection queue of an endpoint has room on a virtual channel (Table 9-3). -/
def injRoom (s : State) (src vc : Nat) : Bool :=
  decide ((s.mesh.net.countP fun f => f.fresh && !f.arrived && f.src = src && f.vc = vc) < 8)

/-- The core's site takes an injection on a virtual channel (R243, R260). -/
def canInject (s : State) (c vc : Nat) : Bool := !injBlocked s c && injRoom s (csite s c) vc

/-- The request flit of a load or store of core c for a spot outside its site. -/
def coreFlit (s : State) (c : Nat) (x : Spot) (a : W64) (wr : Bool) (bs : List Byte) (w : FlitFor) : Flit :=
  let kind := match x with
    | .far _ => FlitKind.farReq
    | _ => if wr then .write else .readReq
  { src := csite s c, dst := spotDst x, vc := 0, kind := kind, parcel := coreParcelNum s c, pv := true,
    addr := a.extractLsb' 0 42, payload := bs, pos := csite s c, what := w }

/-- The flit waits for an answer that this core awaits. -/
def FlitFor.ofCore (c : Nat) : FlitFor → Bool
  | .load k _ _ => k = c
  | .store k _ _ _ => k = c
  | _ => false

/-- Every flit under way: in the mesh, in a Bridge frame not yet accepted, or at a far port. -/
def allFlits (s : State) : List Flit :=
  s.mesh.net ++ s.mesh.bridge.flatMap (fun e => e.2.frames.flatten) ++ s.far.ports.flatMap (fun e => e.2.ingress ++ e.2.missSlots)

/-- Far requests of a core that are under way (Table 7-4). -/
def farOut (s : State) (c : Nat) : Nat :=
  ((s.mesh.net ++ s.mesh.bridge.flatMap fun e => e.2.frames.flatten).countP fun f =>
    (f.kind = .farReq || f.kind = .farResp) && f.what.ofCore c) +
  ((s.far.ports.flatMap fun e => e.2.ingress ++ e.2.missSlots).countP fun f => f.what.ofCore c)

/-- A store of the context is on its way to where it will be performed. -/
def storeFlying (s : State) (c k : Nat) : Bool :=
  (allFlits s).any fun f => match f.what with
    | .store c2 k2 _ _ => c2 = c && k2 = k
    | _ => false

/-- A write of the core is on its way. -/
def storesFlying (s : State) (c : Nat) : Bool :=
  (allFlits s).any fun f => match f.what with
    | .store a _ _ _ => a = c
    | .mcWrite a _ _ _ => a = c
    | _ => false

/-- A write of the core is issued and not yet performed: on its way, or held at a port (R278). -/
def writeFlying (s : State) (c : Nat) : Bool := storesFlying s c || (List.range 4).any fun k => (getCtx s c k).heldSt ≠ []

end Sys2Proof.Machine
end

