-- ==== Sys2Proof/Machine/Beacon.lean ====
section
/-!
DEFINITION. The beacon class (R73, R74, R91), the beacon roots (R262 to R265) and the wake of a waiting context.
-/

namespace Sys2Proof.Machine

/-- The beacon that an instruction names (R73). -/
def beaconOf (x : Ctx) (e : Enc) : Nat :=
  (if e.md0 then (x.s e.rb).extractLsb' 0 13 else e.imm.extractLsb' 0 13).toNat

/-- The beacon's block belongs to the parcel (R263). -/
def beaconOwned (s : State) (p b : Nat) : Bool :=
  let x := getPcl s p
  (if b / 4096 = 0 then x.alloc0 else x.alloc1).getLsbD (b % 4096 / 64)

/-- The shape of a beacon operation. -/
def bcnShape (op : Nat) (e : Enc) (rd ra : Bool) : Shape :=
  { cls := 3, op := op, rd := rd, ra := ra, rb := e.md0, md := 1, imm := if e.md0 then 0 else 0x1FFF }

/-- A message goes to a beacon's root (R262). -/
def sendBeacon (s : State) (c k b : Nat) (op : BeaconOp) : State :=
  let m : BeaconMsg := { core := c, site := csite s c, ctx := k, beacon := b, op := op }
  { s with mesh := { s.mesh with msgs := s.mesh.msgs ++ [m] } }

/-- In compatibility mode a change is recorded, unless the list of 16 is full (R91). -/
def compatFull (x : Ctx) (b : Nat) : Bool := x.compat && decide (b ∉ x.compatList) && decide (16 ≤ x.compatList.length)
def Ctx.recordBeacon (x : Ctx) (b : Nat) : Ctx :=
  if x.compat && decide (b ∉ x.compatList) then { x with compatList := x.compatList ++ [b] } else x

/-- An update issues once every earlier store of the context is performed (R74); a store held at a port holds the
context here (Table 7-6). -/
def attUpdate (op : Ctx → BeaconOp) (e : Enc) (s : State) : Option State :=
  match heldAtPort s e with
  | some t => some t
  | none =>
    if storeFlying s e.core e.ctx then none
    else
      let x := e.x s
      let b := beaconOf x e
      let s := sendBeacon s e.core e.ctx b (op x)
      some (retire (modCtx s e.core e.ctx fun y => y.recordBeacon b) e.core e.ctx)

/-- The checks of an update, and then the update or its wait. -/
def beaconUpdate (op : Ctx → BeaconOp) (o : WaitOp) (h : Shape) (e : Enc) (s : State) : Out :=
  issue h e s fun s =>
    let x := e.x s
    let b := beaconOf x e
    if !beaconOwned s (coreParcelNum s e.core) b || (coreParcel s e.core).isNone then e.trap s 0x06 (BitVec.ofNat 64 b)
    else if compatFull x b then e.trap s 0x08 (BitVec.ofNat 64 b)
    else orWait (attUpdate op e) false o e s

def opArrive (_ : Enc) (_ : Ctx) : BeaconOp := .add 1
def opAdd (e : Enc) (x : Ctx) : BeaconOp := .add ((x.s e.ra).extractLsb' 0 32)
def opSet (e : Enc) (x : Ctx) : BeaconOp := .set ((x.s e.ra).extractLsb' 0 32)

def execArrive (e : Enc) (s : State) : Out := beaconUpdate (opArrive e) .arrive (bcnShape 1 e false false) e s
def execBeaconAdd (e : Enc) (s : State) : Out := beaconUpdate (opAdd e) .addB (bcnShape 2 e false true) e s
def execBeaconSet (e : Enc) (s : State) : Out := beaconUpdate (opSet e) .setB (bcnShape 3 e false true) e s

/-- WAIT: the wait goes to the root and the context is descheduled until the reply (R265). -/
def execBeaconWait (e : Enc) (s : State) : Out :=
  issue (bcnShape 4 e true true) e s fun s =>
    let x := e.x s
    let b := beaconOf x e
    if !beaconOwned s (coreParcelNum s e.core) b || (coreParcel s e.core).isNone then e.trap s 0x06 (BitVec.ofNat 64 b)
    else
      let s := sendBeacon s e.core e.ctx b (.wait ((x.s e.ra).extractLsb' 0 32))
      block s e.core e.ctx true (.reply e.rd)

/-! ### The roots (R262, R264, R265) -/

/-- The counter of a beacon. -/
def beaconVal (s : State) (b : Nat) : W32 := sget 0 s.mesh.beacons b

/-- A reply starts on its way to the site (R265). -/
def reply (s : State) (core ctx : Nat) (status : W32) : State :=
  { s with mesh := { s.mesh with replies := s.mesh.replies ++ [{ core := core, ctx := ctx, status := status }] } }

/-- A counter takes a value, and every waiter whose count is now met is answered (R265). -/
def setBeacon (s : State) (b : Nat) (v : W32) : State :=
  let met (x : Waiter) : Bool := x.beacon = b && decide (x.count.toNat ≤ v.toNat)
  let out := s.mesh.waiters.filter met
  let s := { s with mesh := { s.mesh with beacons := sset 0 s.mesh.beacons b v, waiters := s.mesh.waiters.filter fun x => !met x } }
  let s := out.foldl (fun s x => reply s x.core x.ctx 0) s
  bump s (bcnBlock (b / 4096)) 0 1

/-- A wait at the root: answered at once, or entered (R265). -/
def waitAtRoot (s : State) (m : BeaconMsg) (v : W32) : State :=
  if v.toNat ≤ (beaconVal s m.beacon).toNat then reply s m.core m.ctx 0
  else
    let die := m.beacon / 4096
    let ws := s.mesh.waiters ++ [{ core := m.core, ctx := m.ctx, beacon := m.beacon, count := v }]
    let used := ws.countP fun x => x.beacon / 4096 = die
    let s := { s with mesh := { s.mesh with waiters := ws, wmax := sset 0 s.mesh.wmax die (max (sget 0 s.mesh.wmax die) used) } }
    bump s (bcnBlock die) 1 1

/-- What a beacon message does at its root. -/
def applyBeacon (s : State) (m : BeaconMsg) : State :=
  match m.op with
  | .add v => setBeacon s m.beacon (beaconVal s m.beacon + v)
  | .set v => setBeacon s m.beacon v
  | .wait v => waitAtRoot s m v

/-- No earlier message of the same site goes to the same die's root (R262). -/
def firstOfSite (ms : List BeaconMsg) (n : Nat) (m : BeaconMsg) : Bool :=
  (ms.take n).all fun x => !(x.site = m.site && x.beacon / 4096 = m.beacon / 4096)

/-- BEACON_MESSAGE_AT_ROOT: the n-th message under way reaches its root (R262, R264). -/
def execBeaconMessageAtRoot (n : Nat) (s : State) : Out :=
  match s.mesh.msgs[n]? with
  | none => cannot s
  | some m =>
    if firstOfSite s.mesh.msgs n m then
      done (applyBeacon { s with mesh := { s.mesh with msgs := s.mesh.msgs.eraseIdx n } } m)
    else cannot s

/-- BEACON_WAKE: the reply reaches the site; the context has s[RD] = status and is READY (R62, R265). -/
def execBeaconWake (core ctx : Nat) (s : State) : Out :=
  match s.mesh.replies.findIdx? fun r => r.core = core && r.ctx = ctx with
  | none => cannot s
  | some n =>
    match s.mesh.replies[n]? with
    | none => cannot s
    | some r =>
      let s := { s with mesh := { s.mesh with replies := s.mesh.replies.eraseIdx n } }
      match (getCtx s core ctx).wait with
      | .reply rd => done (retire (modCtx s core ctx fun y => y.setS rd (r.status.zeroExtend 64)) core ctx)
      | _ => done s

/-- Every message, waiter and reply of a context leaves the beacon network. -/
def dropWaits (s : State) (c k : Nat) : State :=
  let isWait (m : BeaconMsg) : Bool := match m.op with
    | .wait _ => m.core = c && m.ctx = k
    | _ => false
  { s with mesh := { s.mesh with
      msgs := s.mesh.msgs.filter fun m => !isWait m,
      waiters := s.mesh.waiters.filter fun m => !(m.core = c && m.ctx = k),
      replies := s.mesh.replies.filter fun m => !(m.core = c && m.ctx = k) } }

/-- A tail or ARRIVE made by a unit of a site: an ADD of v on the beacon (R81, R258). -/
def unitArrive (s : State) (c b : Nat) (v : Nat) : State := sendBeacon s c 0 b (.add (BitVec.ofNat 32 v))

end Sys2Proof.Machine
end

