-- ==== Sys2Proof/Machine/Control.lean ====
section
/-!
DEFINITION. The control class (R72, Table 3-9) and the control registers (R68, R99, R147, R175).
-/

namespace Sys2Proof.Machine

/-! ### Branches (R72) -/

/-- The branch target PC + 8 × IMM. -/
def target (x : Ctx) (e : Enc) : W64 := x.pc + 8 * e.immS

/-- The PC becomes a. -/
def jump (e : Enc) (s : State) (a : W64) : State := modCtx s e.core e.ctx fun y => { y with pc := a }

/-- A branch is taken or not. -/
def branchIf (h : Shape) (p : Ctx → Bool) (e : Enc) (s : State) : Out :=
  issue h e s fun s => if p (e.x s) then jump e s (target (e.x s) e) else retire s e.core e.ctx

def execBr (e : Enc) (s : State) : Out := branchIf { cls := 1, op := 1, imm := ~~~0 } (fun _ => true) e s
def execBz (e : Enc) (s : State) : Out :=
  branchIf { cls := 1, op := 2, ra := true, imm := ~~~0 } (fun x => decide (x.s e.ra = 0)) e s
def execBnz (e : Enc) (s : State) : Out :=
  branchIf { cls := 1, op := 3, ra := true, imm := ~~~0 } (fun x => decide (x.s e.ra ≠ 0)) e s
def execBlt (e : Enc) (s : State) : Out :=
  branchIf { cls := 1, op := 4, ra := true, rb := true, imm := ~~~0 }
    (fun x => decide ((x.s e.ra).toInt < (x.s e.rb).toInt)) e s
def execBge (e : Enc) (s : State) : Out :=
  branchIf { cls := 1, op := 5, ra := true, rb := true, imm := ~~~0 }
    (fun x => decide ((x.s e.rb).toInt ≤ (x.s e.ra).toInt)) e s

/-- JAL: s[RD] = PC + 8, then the branch (R72). -/
def execJal (e : Enc) (s : State) : Out :=
  issue { cls := 1, op := 6, rd := true, imm := ~~~0 } e s fun s =>
    let x := e.x s
    jump e (modCtx s e.core e.ctx fun y => y.setS e.rd (x.pc + 8)) (target x e)

/-- JR: the target is s[RA]; misaligned, or outside own near memory, it traps at the JR (R72; the order of
the two, log 109 [DESIGN CHOICE]). -/
def execJr (e : Enc) (s : State) : Out :=
  issue { cls := 1, op := 7, ra := true } e s fun s =>
    let a := (e.x s).s e.ra
    if a.toNat % 8 ≠ 0 then e.trap s 0x02 a
    else if nearSize ≤ a.toNat then e.trap s 0x03 a
    else jump e s a

/-! ### The Cairn's region (R128, R132) -/

/-- Region blocks of the region CAIRN_BASE to CAIRN_LIMIT. -/
def Cairn.blocks (x : Cairn) : Nat := (x.limit.toNat - x.base.toNat) / 65536
/-- A push or pop is refused where the region holds fewer than 4 or more than 768 blocks (R136). -/
def Cairn.regionOk (x : Cairn) : Bool := decide (4 ≤ x.blocks) && decide (x.blocks ≤ 768)
/-- Free region blocks. -/
def Cairn.free (x : Cairn) : Nat :=
  x.blocks - (x.resident.length + (if x.spilling.isSome then 1 else 0) + (if x.refilling.isSome then 1 else 0))
/-- A spill or refill is in flight. -/
def Cairn.moving (x : Cairn) : Bool := x.spilling.isSome || x.refilling.isSome
/-- The lowest-numbered resident block; 0 where none is resident. -/
def Cairn.bottom (x : Cairn) : Nat := (x.resident.head?.map (·.1)).getD 0
/-- [2] OWNED and [1:0] OWNER. -/
def Cairn.ownBits (x : Cairn) : Nat :=
  match x.owner with
  | none => 0
  | some k => 4 + k % 4

/-! ### Reading a control register (R68, R99, R147, R175) -/

/-- A bit as a number. -/
def nb (b : Bool) (i : Nat) : Nat := if b then 2 ^ i else 0

/-- CTXSTAT (Table 3-7). -/
def ctxStat (s : State) (c k : Nat) : W64 :=
  BitVec.ofNat 64 (coreParcelNum s c * 8 + nb (getCtx s c k).compat 2 + k % 4)

/-- A mask of the tile bits of the arrays in a set. -/
def arrMask (m : BitVec 4) : W32 :=
  (List.range 4).foldl (fun a i => if m.getLsbD i then a ||| BitVec.ofNat 32 (0xFF * 2 ^ (8 * i)) else a) 0

/-- CAIRN_STAT (Table 5-8). -/
def cairnStat (x : Cairn) : W64 :=
  BitVec.ofNat 64 (x.bottom % 2 ^ 16 * 2 ^ 36 + (x.spilled.length + (if x.refilling.isSome then 1 else 0)) % 2 ^ 16 * 2 ^ 20 + x.free % 2 ^ 10 * 2 ^ 10 +
    nb x.refilling.isSome 9 + nb x.spilling.isSome 8 + x.ownBits)

/-- WSTAT (Table 5-10). -/
def wStat (x : Wga) : W64 :=
  BitVec.ofNat 64 (nb x.dmis 7 + (x.flushes.length - 1) % 4 * 2 ^ 5 + nb (decide (x.flushes ≠ [])) 4 + nb x.zeroing.isSome 3)

/-- NGSTAT (Table 6-11). -/
def ngStat (x : NormGate) : W64 :=
  BitVec.ofNat 64 (x.factor.toNat * 2 ^ 32 + nb x.ovf 3 + nb x.dmis 2 + nb x.dup 1 + nb x.isOpen 0)

/-- Tags with a touched sum, in rising order; a sum's key is tag × 3 + sum number. -/
def touchedTags (m : SMap ThSum) : List Nat := ((m.filter fun x => x.2.touched).map fun x => x.1 / 3).eraseDups

/-- THSTAT (Table 6-12). -/
def thStat (m : SMap ThSum) : W64 :=
  BitVec.ofNat 64 (nb (m.any fun x => x.2.dx) 14 + nb (m.any fun x => x.2.dmis) 13 + (touchedTags m).length)

/-- The value of a control register; none for an index that no table lists. -/
def readCr (s : State) (c k i : Nat) : Option W64 :=
  let x := getCore s c
  let y := x.ctx k
  match i with
  | 0x00 => some (ctxStat s c k)
  | 0x01 => some y.pc
  | 0x02 => some (y.nflags.zeroExtend 64)
  | 0x03 => some y.tstart
  | 0x04 => some y.trapcause
  | 0x05 => some y.trappc
  | 0x06 => some y.trapval
  | 0x07 => some (y.valloc.zeroExtend 64)
  | 0x08 => some y.mseed
  | 0x10 => some (y.town.zeroExtend 64)
  | 0x11 => some ((x.tiles.int &&& arrMask y.town) ++ (x.tiles.hold &&& arrMask y.town))
  | 0x12 => some y.tdesc
  | 0x13 => some ((0 : W32) ++ y.tskips ++ y.trepeats)
  | 0x20 => some x.cairn.base
  | 0x21 => some x.cairn.limit
  | 0x22 => some x.cairn.spill
  | 0x23 => some x.cairn.spillLim
  | 0x24 => some (BitVec.ofNat 64 x.cairn.depth)
  | 0x25 => some (cairnStat x.cairn)
  | 0x26 => some (x.cairn.ahead.zeroExtend 64)
  | 0x28 => some (y.mstep.zeroExtend 64)
  | 0x29 => some (y.mtid.zeroExtend 64)
  | 0x2A => some y.mkeep
  | 0x2C => some (x.wga.datum.zeroExtend 64)
  | 0x2D => some (wStat x.wga)
  | 0x30 => some (y.upos.zeroExtend 64)
  | 0x31 => some y.udesc
  | 0x32 => some (y.ustat.zeroExtend 64)
  | 0x33 => some x.gate.cfg
  | 0x34 => some (ngStat x.gate)
  | 0x35 => some (x.gate.norm.zeroExtend 64)
  | 0x36 => some (thStat x.theo)
  | _ => none

/-- RDCR (Table 3-9): an unlisted index traps (R68). -/
def execRdcr (e : Enc) (s : State) : Out :=
  let h : Shape := { cls := 1, op := 8, rd := true, imm := 0xFF }
  issue h e s fun s =>
    match readCr s e.core e.ctx e.imm.toNat with
    | none => e.trap s 0x01 (encWord h e)
    | some v => wrS e s v

/-! ### Writing a control register -/

/-- Vector registers that other contexts of the core hold. -/
def othersOwn (x : Site) (k : Nat) : W32 :=
  (List.range 4).foldl (fun a j => if j = k then a else a ||| (x.ctx j).valloc) 0

/-- A WRCR to VALLOC: bits that another context holds trap; newly claimed registers carry tag 0 (R83, R86). -/
def writeValloc (s : State) (e : Enc) (v : W64) : State :=
  let m : W32 := v.extractLsb' 0 32
  let x := getCore s e.core
  let clash := m &&& othersOwn x e.ctx
  if clash ≠ 0 then e.trap s 0x05 (clash.zeroExtend 64)
  else
    let fresh := m &&& ~~~(x.ctx e.ctx).valloc
    let s := modCore s e.core fun x =>
      { x with vtags := (List.range 32).foldl (fun t i => if fresh.getLsbD i then sset 0 t i 0 else t) x.vtags }
    retire (modCtx s e.core e.ctx fun y => { y with valloc := m }) e.core e.ctx

/-- A value that a Cairn register may hold (Table 5-7; log 16 [DEDUCED]): a multiple of 65,536 in the register's form. -/
def cairnValOk (i : Nat) (v : W64) : Bool :=
  let n := v.toNat
  if i = 0x20 ∨ i = 0x21 then decide (n % 65536 = 0) && decide (n ≤ terrSize)
  else if i = 0x22 then decide (n % 65536 = 0) && decide (n / 2 ^ 60 = 4) && decide (n % 2 ^ 60 < farSize)
  else if i = 0x23 then decide (n % 65536 = 0) && decide (n ≤ 2 ^ 32)
  else if i = 0x26 then decide (n % 8 ≠ 0)
  else true

/-- The Cairn with a register written. -/
def Cairn.put (x : Cairn) (i : Nat) (v : W64) : Cairn :=
  if i = 0x20 then { x with base := v }
  else if i = 0x21 then { x with limit := v }
  else if i = 0x22 then { x with spill := v }
  else if i = 0x23 then { x with spillLim := v }
  else if i = 0x26 then { x with ahead := v.extractLsb' 0 3 }
  else x

/-- A WRCR to a Cairn register (R129, R136, Table 5-11). -/
def writeCairnCr (s : State) (e : Enc) (i : Nat) (v : W64) : State :=
  let x := (getCore s e.core).cairn
  if x.owner ≠ some e.ctx then e.trap s 0x1D (BitVec.ofNat 64 x.ownBits)
  else if i = 0x24 ∨ i = 0x25 then retire s e.core e.ctx
  else if x.depth ≠ 0 ∨ x.moving ∨ !cairnValOk i v then e.trap s 0x1E (BitVec.ofNat 64 i)
  else retire (modCore s e.core fun y => { y with cairn := y.cairn.put i v }) e.core e.ctx

/-- A WRCR to NGCFG (Table 6-13, cause 0x22). -/
def writeNgcfg (s : State) (e : Enc) (v : W64) : State :=
  let cmax : W32 := v.extractLsb' 32 32
  let pos := match ofF32 cmax with
    | .nan => false
    | .inf neg => !neg
    | .fin neg m _ _ => !neg && decide (m ≠ 0)
  if (getCore s e.core).gate.isOpen ∨ !pos then e.trap s 0x22 v
  else retire (modCore s e.core fun y => { y with gate := { y.gate with cfg := cmax ++ (0 : BitVec 22) ++ v.extractLsb' 0 10 } })
    e.core e.ctx

/-- A write of s[RA] to control register i: RO registers ignore it (R13), the tile registers but TSTART trap (R99), an
unlisted index traps (R68). -/
def writeCr (s : State) (e : Enc) (word : W64) (i : Nat) (v : W64) : State :=
  let put (f : Ctx → Ctx) : State := retire (modCtx s e.core e.ctx f) e.core e.ctx
  match i with
  | 0x00 | 0x01 | 0x04 | 0x05 | 0x06 | 0x2C | 0x2D | 0x31 | 0x32 | 0x34 | 0x35 | 0x36 => retire s e.core e.ctx
  | 0x02 => put fun y => { y with nflags := y.nflags &&& ~~~(v.extractLsb' 0 32) }
  | 0x03 => put fun y => { y with tstart := (v.extractLsb' 0 30).zeroExtend 64 }
  | 0x07 => writeValloc s e v
  | 0x08 => put fun y => { y with mseed := v }
  | 0x20 | 0x21 | 0x22 | 0x23 | 0x24 | 0x25 | 0x26 => writeCairnCr s e i v
  | 0x28 => put fun y => { y with mstep := v.extractLsb' 0 32 }
  | 0x29 => put fun y => { y with mtid := v.extractLsb' 0 32 }
  | 0x2A => put fun y => { y with mkeep := v }
  | 0x30 => put fun y => { y with upos := v.extractLsb' 0 32 }
  | 0x33 => writeNgcfg s e v
  | _ => e.trap s 0x01 word

/-- WRCR (Table 3-9). -/
def execWrcr (e : Enc) (s : State) : Out :=
  let h : Shape := { cls := 1, op := 9, ra := true, imm := 0xFF }
  issue h e s fun s => writeCr s e (encWord h e) e.imm.toNat ((e.x s).s e.ra)

/-! ### Ends of a program (R67, R72, R83, R98, R129) -/

/-- The context has tile work that has not completed. -/
def tileBusy (x : Site) (k : Nat) : Bool :=
  (x.tiles.jobs.any fun j => j.ctx = k) || (x.tiles.drains.any fun j => j.ctx = k) || (x.tiles.rels.any fun j => j.ctx = k)

/-- The tiles of a set of arrays become EMPTY (R98, R109). -/
def Tiles.emptyArrs (x : Tiles) (m : BitVec 4) : Tiles :=
  { x with hold := x.hold &&& ~~~arrMask m, int := x.int &&& ~~~arrMask m }

/-- A context becomes IDLE: it releases its vector registers, its arrays and its ownership of the Cairn
(R83, R98, R129), and gives up the slot. -/
def becomeIdle (s : State) (c k : Nat) : State :=
  modCore s c fun x =>
    let own := (x.ctx k).town
    let x := { x with tiles := x.tiles.emptyArrs own, lastSlot := if (x.ctx k).st = CtxSt.issuing then k else x.lastSlot }
    let x := { x with cairn := { x.cairn with owner := if x.cairn.owner = some k then none else x.cairn.owner } }
    x.modCtx k fun y => { y with st := .idle, wait := .none, valloc := 0, town := 0, ended := true }

/-- HALT completes once the context's tile work has (R98); a store held at a port holds it there (Table 7-6). -/
def attHalt (e : Enc) (s : State) : Option State :=
  match heldAtPort s e with
  | some t => some t
  | none =>
    if tileBusy (getCore s e.core) e.ctx then none
    else
      let v := (e.x s).s e.ra
      let s := modCtx s e.core e.ctx fun y => { y with exitCode := v, pc := y.pc + 8 }
      some (becomeIdle s e.core e.ctx)

/-- HALT (Table 3-9). -/
def execHalt (e : Enc) (s : State) : Out :=
  issue { cls := 1, op := 0x0B, ra := true } e s (orWait (attHalt e) false .halt e)

/-- TRAP: the software trap with TRAPVAL = IMM (R67, log 17 [DEDUCED]). -/
def execSwTrap (e : Enc) (s : State) : Out :=
  issue { cls := 1, op := 0x0C, imm := ~~~0 } e s fun s => e.trap s 0x09 (e.imm.zeroExtend 64)

/-- YIELD: the context gives up the slot and stays READY (R61), unless a store of it is held at a port (Table 7-6). -/
def execYield (e : Enc) (s : State) : Out :=
  issue { cls := 1, op := 0x0A } e s fun s => unlessHeld e s fun s =>
    let s := modCtx s e.core e.ctx fun y => { y with pc := y.pc + 8, st := .ready }
    modCore s e.core fun x => { x with lastSlot := e.ctx }

/-! ### The issue slot (R60, R61) -/

/-- No context of the core is ISSUING. -/
def slotFree (x : Site) : Bool := (List.range 4).all fun k => (x.ctx k).st ≠ .issuing

/-- The first READY context in rotation after the slot that last gave up (R61). -/
def nextReady (x : Site) : Option Nat :=
  ((List.range 4).map fun i => (x.lastSlot + 1 + i) % 4).find? fun k => (x.ctx k).st = .ready && !(x.ctx k).preempting

/-- QUANTUM_EXPIRY: 64 instructions have issued since another context became READY (R61). -/
def execQuantumExpiry (core : Nat) (s : State) : Out :=
  let x := getCore s core
  match (List.range 4).find? fun k => (x.ctx k).st = .issuing with
  | none => cannot s
  | some k =>
    if coreRuns s core && decide (64 ≤ (x.ctx k).quantum) && otherReady x k then
      done (modCore (modCtx s core k fun y => { y with st := .ready, quantum := 0 }) core fun x => { x with lastSlot := k })
    else cannot s

/-- STALL_BECOMES_SWITCH_ELIGIBLE: a context that has stalled in place for 16 bed cycles is WAITING (R60). -/
def execStallBecomesSwitchEligible (core ctx : Nat) (s : State) : Out :=
  let y := getCtx s core ctx
  if coreRuns s core && decide (ctx < 4) && y.st = .issuing && y.wait ≠ .none then
    done (block s core ctx true y.wait)
  else cannot s

/-- CONTEXT_SELECT: with no context ISSUING, the next READY context in rotation issues (R59, R61). -/
def execContextSelect (core : Nat) (s : State) : Out :=
  let x := getCore s core
  if coreRuns s core && slotFree x then
    match nextReady x with
    | none => cannot s
    | some k => done (modCtx s core k fun y => { y with st := .issuing, quantum := 0 })
  else cannot s

end Sys2Proof.Machine
end

