-- ==== Sys2Proof/Machine/Copy.lean ====
section
/-!
DEFINITION. Element vectors and their conversion (R38, R39, R44 to R48, R80), copy descriptors (R79, R80, R82), the
copy class (R78, R81) and the row and tile work of a channel (R206, R207).
-/

namespace Sys2Proof.Machine

/-! ### Elements in memory (R12, R39) -/

/-- Whole little-endian numbers of w bytes; fuel is at least their number. -/
def chunks (w : Nat) : Nat → List Byte → List Nat
  | 0, _ => []
  | n + 1, l => leNat (l.take w) :: chunks w n (l.drop w)

/-- The elements of stored bytes, by element bits (R39). -/
def unpack (ebits : Nat) (l : List Byte) : List Nat :=
  if ebits = 4 then l.flatMap fun b => [b.toNat % 16, b.toNat / 16] else chunks (ebits / 8) (l.length / (ebits / 8)) l

/-- Pairs of MXFP4 elements into bytes (R39). -/
def packNibbles : List Nat → List Byte
  | a :: b :: t => BitVec.ofNat 8 (a % 16 + 16 * (b % 16)) :: packNibbles t
  | [a] => [BitVec.ofNat 8 (a % 16)]
  | [] => []

/-- Stored bytes of elements. -/
def pack (ebits : Nat) (es : List Nat) : List Byte :=
  if ebits = 4 then packNibbles es else es.flatMap fun e => leBytes (ebits / 8) e

/-- MXFP6 byte form to packed form: four elements in three bytes (R39). -/
def packSix : List Byte → List Byte
  | a :: b :: c :: d :: t =>
    leBytes 3 (a.toNat % 64 + b.toNat % 64 * 64 + c.toNat % 64 * 4096 + d.toNat % 64 * 262144) ++ packSix t
  | _ => []

/-- MXFP6 packed form to byte form (R39). -/
def unpackSix : List Byte → List Byte
  | a :: b :: c :: t =>
    let v := leNat [a, b, c]
    [BitVec.ofNat 8 (bits v 0 6), BitVec.ofNat 8 (bits v 6 6), BitVec.ofNat 8 (bits v 12 6), BitVec.ofNat 8 (bits v 18 6)] ++ unpackSix t
  | _ => []

/-! ### Conversion (R44 to R48, R50, R54, R55) -/

/-- The tuple of stochastic rounding but for the element index (R48). -/
structure SrTuple where
  seed : W64
  stp : W32
  tag : BitVec 12
  tid : W32
  deriving DecidableEq, Repr

/-- A conversion: formats, plain FP8 scale, source and destination datum, stochastic rounding. -/
structure Conv where
  sfmt : Nat
  dfmt : Nat
  scale : W32 := 0
  d1 : Int := 0
  d2 : Int := 0
  sr : Option SrTuple := none
  deriving DecidableEq, Repr

/-- A plain FP8 side has a zero, infinite or NaN scale (R45). See log 67 [DEDUCED]. -/
def Conv.badScale (cv : Conv) : Bool := (fmtFp8 cv.sfmt || fmtFp8 cv.dfmt) && !scaleOk cv.scale

/-- The exact value of a source element with its block's scale byte (R36, R45, R49). -/
def Conv.val (cv : Conv) (sb : Byte) (b : Nat) : FV :=
  if cv.badScale then .nan
  else if cv.sfmt = 0x10 then dafVal cv.d1 (BitVec.ofNat 96 b)
  else if fmtFp8 cv.sfmt then (elemVal cv.sfmt b).mul (ofF32 cv.scale)
  else if fmtMx cv.sfmt then (elemVal cv.sfmt b).mul (e8m0 sb)
  else elemVal cv.sfmt b

/-- The draw of stochastic rounding for an element index (R48). -/
def SrTuple.draw (t : SrTuple) (i : Nat) : Nat := (maskOut t.seed t.stp t.tag t.tid (BitVec.ofNat 32 i)).toNat % 65536

/-- One element to a destination without blocks, with its flags; i is its element index. -/
def Conv.elem (cv : Conv) (i : Nat) (sb : Byte) (b : Nat) : Nat × W32 :=
  let v := cv.val sb b
  let nv := if cv.badScale then fNV else 0
  let r :=
    if cv.sfmt = 0x10 ∧ cv.dfmt = 0x10 then
      let x := reDatum cv.d1 cv.d2 (BitVec.ofNat 96 b)
      (x.1.toNat, x.2)
    else if cv.dfmt = 0x10 then
      let x := toDaf cv.d2 v
      (x.1.toNat, x.2)
    else if cv.sfmt = 0x10 then ofDaf (if cv.dfmt = 0x01 then fmtBF16 else fmtFP32) cv.d1 (BitVec.ofNat 96 b)
    else
      let y := if fmtFp8 cv.dfmt && !cv.badScale then v.div (ofF32 cv.scale) else v
      match cv.sr with
      | none => toElem cv.dfmt y
      | some t => toElemSr cv.dfmt (t.draw i) y
  (r.1, r.2 ||| nv)

/-- Up to n blocks of 32 values each (R46): scale bytes, elements and flags; i is the first element's index. -/
def Conv.blocks (cv : Conv) : Nat → Nat → List FV → List Byte × List Nat × W32
  | 0, _, _ => ([], [], 0)
  | n + 1, i, vs =>
    let b := mxBlock cv.dfmt (cv.sr.map fun t j => t.draw (i + j)) (vs.take 32)
    let r := cv.blocks n (i + 32) (vs.drop 32)
    (b.1 :: r.1, b.2.1 ++ r.2.1, b.2.2 ||| r.2.2)

/-- A run of elements with consecutive destination indices from i: scale bytes, elements and flags. -/
def Conv.run (cv : Conv) (i : Nat) (es : List (Byte × Nat)) : List Byte × List Nat × W32 :=
  if fmtMx cv.dfmt then
    let r := cv.blocks ((es.length + 31) / 32) i (es.map fun x => cv.val x.1 x.2)
    (r.1, r.2.1, r.2.2 ||| (if cv.badScale then fNV else 0))
  else
    let rs := es.zipIdx.map fun x => cv.elem (i + x.2) x.1.1 x.1.2
    ([], rs.map (·.1), rs.foldl (fun a x => a ||| x.2) 0)

/-! ### Descriptors (R79, R80, Table 3-12) -/

def cdSrc (b : List Byte) : W64 := BitVec.ofNat 64 (field b 0 8)
def cdDst (b : List Byte) : W64 := BitVec.ofNat 64 (field b 8 8)
def cdRows (b : List Byte) : Nat := field b 16 4
def cdRowBytes (b : List Byte) : Nat := field b 20 4
def cdSStride (b : List Byte) : Int := sfield b 24 4
def cdDStride (b : List Byte) : Int := sfield b 28 4
def cdCtl (b : List Byte) : Nat := field b 32 4
def cdMode (b : List Byte) : Nat := bits (cdCtl b) 0 4
def cdSfmt (b : List Byte) : Nat := bits (cdCtl b) 4 5
def cdDfmt (b : List Byte) : Nat := bits (cdCtl b) 9 5
def cdSr (b : List Byte) : Bool := bit (cdCtl b) 14
/-- The beacon of the tail; whose it is is not checked. See log 57 [DEDUCED]. -/
def cdTail (b : List Byte) : Option Nat := if bit (cdCtl b) 15 then some (bits (cdCtl b) 16 13) else none
def cdParam (b : List Byte) : Nat := field b 36 4
def cdSplane (b : List Byte) : Int := sfield b 40 4

/-- The conversion of a descriptor with the MSEED captured (R80). -/
def cdConv (b : List Byte) (seed : W64) : Conv :=
  let sf := cdSfmt b
  let df := cdDfmt b
  let p := cdParam b
  { sfmt := sf, dfmt := df, scale := BitVec.ofNat 32 p,
    d1 := if df = 0x10 then sint 10 (bits p 16 10) else sint 10 (bits p 0 10), d2 := sint 10 (bits p 0 10),
    sr := if cdSr b then some { seed := seed, stp := BitVec.ofNat 32 (field b 56 4), tag := BitVec.ofNat 12 (field b 44 2),
                                tid := BitVec.ofNat 32 (field b 48 4) } else none }

/-- The descriptor converts (modes 0x1 and 0x2). -/
def cdConverts (b : List Byte) : Bool := cdMode b = 1 || cdMode b = 2

/-- Elements per source row, in converting modes. -/
def cdElems (b : List Byte) : Nat := cdRowBytes b * 8 / fmtBits (cdSfmt b)

/-- Bytes and rows of the destination. -/
def cdDstShape (b : List Byte) : Nat × Nat :=
  match cdMode b with
  | 1 => (cdElems b * fmtBits (cdDfmt b) / 8, cdRows b)
  | 2 => (cdRows b * fmtBits (cdDfmt b) / 8, cdElems b)
  | 3 => (cdRowBytes b / 4 * 3, cdRows b)
  | 4 => (cdRowBytes b / 3 * 4, cdRows b)
  | _ => (cdRowBytes b, cdRows b)

/-- A row stride in elements of an MX side (R80). -/
def mxStride (fmt : Nat) (stride : Int) : Int := if fmt = 0x0D then 2 * stride else stride

/-- The pair of formats is one that R31 and R80 allow. -/
def pairOk (sf df : Nat) : Bool :=
  fmtListed sf && fmtListed df && !(fmtMx sf && fmtMx df) &&
  (if sf = 0x10 ∧ df = 0x10 then true
   else if df = 0x10 then decide (sf ≤ 0x04)
   else if sf = 0x10 then decide (df ≤ 0x01)
   else true)

/-- PARAM is what the pair requires (Table 3-12). -/
def paramOk (sf df p : Nat) : Bool :=
  if fmtFp8 sf || fmtFp8 df then true
  else if sf = 0x10 ∧ df = 0x10 then bits p 10 6 = 0 && bits p 26 6 = 0
  else if sf = 0x10 ∨ df = 0x10 then decide (p < 1024)
  else p = 0

/-- n rows of len bytes from base on, a stride apart, are all within one space that the core reaches (R182, R184). -/
def rowsOk (s : State) (c : Nat) (sp : Spaces) (base : W64) (stride : Int) (n len : Nat) : Bool :=
  let last := addOff base (stride * (n - 1 : Nat))
  (spotOf s c sp base len).isSome && (spotOf s c sp last len).isSome && base.toNat / 2 ^ 60 = last.toNat / 2 ^ 60 &&
  (base.toNat / 2 ^ 60 = 4 || base.toNat / 2 ^ 32 = last.toNat / 2 ^ 32)

/-- The first scale byte of row r of an MX side (R80). -/
def scaleAddr (base : W64) (splane : Int) (fmt : Nat) (stride : Int) (r : Nat) : W64 :=
  addOff base (splane + ((r : Int) * mxStride fmt stride) / 32)

/-- The scale bytes of an MX side are within reach. -/
def scalesOk (s : State) (c : Nat) (base : W64) (splane : Int) (fmt : Nat) (stride : Int) (rows elems : Nat) : Bool :=
  (spotOf s c spAll (scaleAddr base splane fmt stride 0) (elems / 32)).isSome &&
  (spotOf s c spAll (scaleAddr base splane fmt stride (rows - 1)) (elems / 32)).isSome

/-- The conditions on a converting descriptor (R80). See log 105 [DEDUCED]. -/
def cdConvOk (s : State) (c : Nat) (b : List Byte) : Bool :=
  let sf := cdSfmt b
  let df := cdDfmt b
  let wb := cdRowBytes b * 8
  pairOk sf df && paramOk sf df (cdParam b) && (!cdSr b || srAllowed df) &&
  wb % fmtBits sf = 0 && (cdElems b * fmtBits df) % 8 = 0 &&
  (cdMode b = 1 || (fmtBits sf = 8 || fmtBits sf = 16 || fmtBits sf = 32) && (cdRows b * fmtBits df) % 8 = 0) &&
  (!fmtMx sf || (cdElems b % 32 = 0 && mxStride sf (cdSStride b) % 32 = 0 &&
    scalesOk s c (cdSrc b) (cdSplane b) sf (cdSStride b) (cdRows b) (cdElems b))) &&
  (!fmtMx df ||
    (let n := if cdMode b = 1 then cdElems b else cdRows b
     n % 32 = 0 && mxStride df (cdDStride b) % 32 = 0 &&
     scalesOk s c (cdDst b) (cdSplane b) df (cdDStride b) (cdDstShape b).2 n))

/-- The descriptor has none of the errors of R82 that can be seen before a read. See log 105 [DEDUCED]. -/
def cdOk (s : State) (c : Nat) (b : List Byte) : Bool :=
  let m := cdMode b
  let d := cdDstShape b
  bits (cdCtl b) 29 3 = 0 && bits (field b 44 2) 12 4 = 0 && field b 46 2 = 0 && field b 60 4 = 0 &&
  decide (m ≤ 4) && decide (1 ≤ cdRows b) && decide (1 ≤ cdRowBytes b) && decide (cdRowBytes b ≤ 2 ^ 24) &&
  (if cdConverts b then cdConvOk s c b
   else cdSfmt b = 0 && cdDfmt b = 0 && !cdSr b && cdParam b = 0 && cdSplane b = 0 &&
     (m ≠ 3 || cdRowBytes b % 4 = 0) && (m ≠ 4 || cdRowBytes b % 3 = 0)) &&
  rowsOk s c spAll (cdSrc b) (cdSStride b) (cdRows b) (cdRowBytes b) &&
  rowsOk s c spAll (cdDst b) (cdDStride b) d.2 d.1

/-! ### Channels (R78, R82) -/

def Site.chan (x : Site) (ch : Nat) : Chan := sget {} x.chans ch
def modChan (s : State) (c ch : Nat) (f : Chan → Chan) : State := modCore s c fun x => { x with chans := smod {} x.chans ch f }

/-- Descriptors waiting behind the one being executed (R82): a busy channel that has not begun one is about to. -/
def Chan.waiting (x : Chan) : Nat :=
  if x.run.isNone && x.st = .busy && !x.tcopy then x.queue.length - 1 else x.queue.length

/-- STATE (R82). -/
def Chan.code (x : Chan) : Nat :=
  if x.tcopy then 1 else match x.st with
  | .idle => 0
  | .busy => 1
  | .haltedDesc => 2
  | .haltedErr => 3
  | .held => 4

/-- The channel status word (R82). See log 106 [DESIGN CHOICE]. -/
def Chan.status (x : Chan) : W64 := BitVec.ofNat 64 (x.descaddr.toNat % 2 ^ 21 * 256 + x.waiting % 8 * 16 + x.code)

/-- The channel is idle or halted (R78). -/
def Chan.settled (x : Chan) : Bool := !x.tcopy && (x.st = .idle || x.st = .haltedDesc || x.st = .haltedErr)

/-- The channel that IMM[0] names for the instruction's context (Table 3-1). -/
def Enc.chan (e : Enc) : Nat := 2 * e.ctx + (if e.imm.getLsbD 0 then 1 else 0)

/-- A descriptor address is in own near memory and aligned to n bytes; else the trap cause (R78, R183). See log 55 [DEDUCED]. -/
def descTrap (s : State) (c : Nat) (a : W64) (n : Nat) : Option Nat :=
  if a.toNat % n ≠ 0 then some 0x02 else if (spotOf s c spNear a n).isNone then some 0x03 else none

/-- CPY queues its descriptor once the queue has room; a store held at a port holds it (Table 7-6). -/
def attCpy (e : Enc) (s : State) : Option State :=
  match heldAtPort s e with
  | some t => some t
  | none =>
    let x := (getCore s e.core).chan (Enc.chan e)
    if 4 ≤ x.waiting then none
    else
      let y := e.x s
      let s := modChan s e.core (Enc.chan e) fun x =>
        { x with queue := x.queue ++ [{ desc := y.a e.ra, mseed := y.mseed, ctx := e.ctx }],
                 descaddr := if x.st = .idle then y.a e.ra else x.descaddr, st := if x.st = .idle then .busy else x.st }
      some (retire s e.core e.ctx)

/-- CPY (R78). -/
def execCpy (e : Enc) (s : State) : Out :=
  issue { cls := 2, op := 1, ra := true, aA := true, imm := 1 } e s fun s =>
    let a := (e.x s).a e.ra
    match descTrap s e.core a 64 with
    | some t => e.trap s t a
    | none => orWait (attCpy e) true .cpy e s

/-- CPYW ends when the channel is idle or halted (R78). -/
def attCpyw (e : Enc) (s : State) : Option State :=
  let x := (getCore s e.core).chan (Enc.chan e)
  if x.settled then some (wrS e s x.status) else none

/-- CPYW (R78). -/
def execCpyw (e : Enc) (s : State) : Out :=
  issue { cls := 2, op := 2, rd := true, imm := 1 } e s (orWait (attCpyw e) true .cpyw e)

/-- CPYQ (R78). -/
def execCpyq (e : Enc) (s : State) : Out :=
  issue { cls := 2, op := 3, rd := true, imm := 1 } e s fun s => wrS e s ((getCore s e.core).chan (Enc.chan e)).status

/-! ### Row and tile work (R206, R207) -/

/-- A read for n scale bytes of an MX side; other sides have none. -/
def readScales (s : State) (c : Nat) (fmt : Nat) (a : W64) (n : Nat) : Except AccErr (List Byte) :=
  if fmtMx fmt then engRead s c spAll a n else .ok []

/-- Elements paired with their blocks' scale bytes; the first element is the first of a block. -/
def withScales (sbs : List Byte) (es : List Nat) : List (Byte × Nat) := es.zipIdx.map fun x => (sbs.getD (x.2 / 32) 0x7F, x.1)

/-- The bytes of destination row r of modes 0x0, 0x1, 0x3 and 0x4, with its scale bytes and flags. -/
def cdRow (s : State) (c : Nat) (b : List Byte) (seed : W64) (r : Nat) : Except AccErr (List Byte × List Byte × W32) := do
  let src ← engRead s c spAll (addOff (cdSrc b) (cdSStride b * r)) (cdRowBytes b)
  if cdMode b = 1 then
    let sbs ← readScales s c (cdSfmt b) (scaleAddr (cdSrc b) (cdSplane b) (cdSfmt b) (cdSStride b) r) (cdElems b / 32)
    let es := withScales sbs (unpack (fmtBits (cdSfmt b)) src)
    let o := (cdConv b seed).run (field b 52 4 + r * cdElems b) es
    return (pack (fmtBits (cdDfmt b)) o.2.1, o.1, o.2.2)
  else if cdMode b = 3 then return (packSix src, [], 0)
  else if cdMode b = 4 then return (unpackSix src, [], 0)
  else return (src, [], 0)

/-- Steps of a descriptor: rows, or tiles of a transpose (R207). -/
def cdSteps (b : List Byte) : Nat :=
  if cdMode b = 2 then ((cdRows b + 63) / 64) * ((cdRowBytes b + 63) / 64) else cdRows b

/-- One write of a channel: address and bytes. -/
abbrev Wr := W64 × List Byte

/-- The writes of destination row r: its bytes and its scale bytes. -/
def cdRowWrites (b : List Byte) (r : Nat) (o : List Byte × List Byte × W32) : List Wr :=
  (addOff (cdDst b) (cdDStride b * r), o.1) ::
  (if o.2.1 = [] then [] else [(scaleAddr (cdDst b) (cdSplane b) (cdDfmt b) (cdDStride b) r, o.2.1)])

/-- The source rows of a tile: elements with scale bytes, row by row. -/
def tileRows (s : State) (c : Nat) (b : List Byte) (c0 n : Nat) : List Nat → Except AccErr (List (List (Byte × Nat)))
  | [] => .ok []
  | r :: t => do
    let sf := cdSfmt b
    let w := fmtBits sf / 8
    let bs ← engRead s c spAll (addOff (cdSrc b) (cdSStride b * r + (c0 * w : Nat))) (n * w)
    let sbs ← readScales s c sf (addOff (cdSrc b) (cdSplane b + ((r : Int) * mxStride sf (cdSStride b) + c0) / 32)) ((n + 31) / 32)
    let rest ← tileRows s c b c0 n t
    return withScales sbs (unpack (fmtBits sf) bs) :: rest

/-- The writes and flags of tile t of a transpose (R207): the rows of the tile become pieces of its columns' rows. -/
def cdTile (s : State) (c : Nat) (b : List Byte) (seed : W64) (t : Nat) : Except AccErr (List Wr × W32) := do
  let w := fmtBits (cdSfmt b) / 8
  let across := (cdRowBytes b + 63) / 64
  let r0 := t / across * 64
  let c0 := t % across * 64 / w
  let nr := min 64 (cdRows b - r0)
  let nc := min (64 / w) (cdElems b - c0)
  let rows ← tileRows s c b c0 nc ((List.range nr).map fun i => r0 + i)
  let cv := cdConv b seed
  let outs := (List.range nc).map fun j =>
    let col := rows.map fun r => r.getD j (0, 0)
    let o := if cv.sfmt = cv.dfmt then ([], col.map (·.2), 0) else cv.run (field b 52 4 + (c0 + j) * cdRows b + r0) col
    let bits := fmtBits (cdDfmt b)
    let a := addOff (cdDst b) (cdDStride b * (c0 + j : Nat) + (r0 * bits / 8 : Nat))
    let sa := addOff (cdDst b) (cdSplane b + (((c0 + j : Nat) : Int) * mxStride (cdDfmt b) (cdDStride b) + r0) / 32)
    ((a, pack bits o.2.1) :: (if o.1 = [] then [] else [(sa, o.1)]), o.2.2)
  return (outs.flatMap (·.1), outs.foldl (fun a x => a ||| x.2) 0)

/-- The pieces of a transposed tile's writes by the destination row that they belong to: data of row r under 2r, scale bytes
under 2r + 1. -/
def tileParts (b : List Byte) (t : Nat) (ws : List Wr) : List (Nat × List Byte) :=
  let w := fmtBits (cdSfmt b) / 8
  let c0 := t % ((cdRowBytes b + 63) / 64) * 64 / w
  let per := if ws.length ≤ min (64 / w) (cdElems b - c0) then 1 else 2
  ws.zipIdx.map fun x => (2 * (c0 + x.2 / per) + x.2 % per, x.1.2)

/-- The address of a transposed destination row's data, or of its scale bytes. -/
def partAddr (b : List Byte) (k : Nat) : W64 :=
  if k % 2 = 0 then addOff (cdDst b) (cdDStride b * (k / 2 : Nat))
  else addOff (cdDst b) (cdSplane b + ((k / 2 : Nat) * mxStride (cdDfmt b) (cdDStride b)) / 32)

/-- Tile t is among the last that its destination rows need. -/
def lastTiles (b : List Byte) (t : Nat) : Bool := t / ((cdRowBytes b + 63) / 64) + 1 = (cdRows b + 63) / 64

/-- The writes of a transposed tile are counted with their whole destination rows, once these are complete (R276, Table 10-3).
The pieces kept, and the state. -/
def countTile (s : State) (c : Nat) (b : List Byte) (t : Nat) (parts : SMap (List Byte)) (ws : List Wr) : SMap (List Byte) × State :=
  let ps := tileParts b t ws
  let all := ps.foldl (fun m p => smod [] m p.1 fun l => l ++ p.2) parts
  if lastTiles b t then
    (ps.foldl (fun m p => sset [] m p.1 []) all, ps.foldl (fun s p => digestWrite s c 2 (partAddr b p.1) (sget [] all p.1)) s)
  else (all, s)

/-- Writes performed one after the other, all or none, not yet counted in the digest. -/
def putAll (s : State) (c : Nat) (sp : Spaces) : List Wr → Except AccErr State
  | [] => .ok s
  | w :: t => do
    let s ← engPut s c sp w.1 w.2
    putAll s c sp t

/-- Writes performed one after the other, all or none (R202). -/
def writeAll (s : State) (c unit : Nat) (sp : Spaces) : List Wr → Except AccErr State
  | [] => .ok s
  | w :: t => do
    let s ← engWrite s c unit sp w.1 w.2
    writeAll s c unit sp t

end Sys2Proof.Machine
end

