-- ==== Sys2Proof/Machine/Vector.lean ====
section
/-!
DEFINITION. The vector class (R83 to R87, Table 3-14) and the mask class (R142 to R146, Table 5-6).
-/

namespace Sys2Proof.Machine

/-! ### Registers owned and read (R83, R84) -/

/-- The registers of a list that the context does not own, as a mask (R83). -/
def notOwned (x : Ctx) (rs : List Nat) : W32 :=
  rs.foldl (fun a r => if r < 32 ∧ x.valloc.getLsbD r then a else a ||| BitVec.ofNat 32 (2 ^ (r % 32))) 0

/-- The instruction goes on if its context owns the registers; else it traps (R83, log 19 [DEDUCED]). -/
def owning (e : Enc) (rs : List Nat) (s : State) (f : State → State) : State :=
  let bad := notOwned (e.x s) rs
  if bad ≠ 0 then e.trap s 0x05 (bad.zeroExtend 64) else f s

/-- MOD[5]: the RB operand is a scalar broadcast (R84). -/
def Enc.bcast (e : Enc) : Bool := e.md.getLsbD 5

/-- The vector register RC of MOD[4:0] (R84). -/
def Enc.rc (e : Enc) : Nat := (e.md.extractLsb' 0 5).toNat

/-- The lanes of operand RB (R84). -/
def vB (s : State) (e : Enc) : List W32 :=
  if Enc.bcast e then List.replicate 64 (((e.x s).s e.rb).extractLsb' 0 32) else (getCore s e.core).vreg e.rb.toNat

/-- The lanes of operand RA. -/
def vA (s : State) (e : Enc) : List W32 := (getCore s e.core).vreg e.ra.toNat

/-- The vector registers among RB that an operation names. -/
def vbNames (e : Enc) : List Nat := if Enc.bcast e then [] else [e.rb.toNat]

/-- v[RD] is written and the instruction is finished. -/
def wrV (e : Enc) (s : State) (ls : List W32) : State :=
  retire (modCore s e.core fun x => x.setVreg e.rd.toNat ls) e.core e.ctx

/-- A lane-wise operation of v[RA]. -/
def lane1 (op : Nat) (f : W32 → W32) (e : Enc) (s : State) : Out :=
  issue { cls := 4, op := op, rd := true, ra := true } e s fun s =>
    owning e [e.rd.toNat, e.ra.toNat] s fun s => wrV e s ((vA s e).map f)

/-- A lane-wise operation of v[RA] and operand RB. -/
def lane2 (op : Nat) (f : W32 → W32 → W32) (e : Enc) (s : State) : Out :=
  issue { cls := 4, op := op, rd := true, ra := true, rb := true, md := 0x20 } e s fun s =>
    owning e (e.rd.toNat :: e.ra.toNat :: vbNames e) s fun s => wrV e s (List.zipWith f (vA s e) (vB s e))

/-- A lane-wise operation of v[RA], operand RB and v[RC]. -/
def lane3 (op : Nat) (f : W32 → W32 → W32 → W32) (e : Enc) (s : State) : Out :=
  issue { cls := 4, op := op, rd := true, ra := true, rb := true, md := 0x3F } e s fun s =>
    owning e (e.rd.toNat :: e.ra.toNat :: Enc.rc e :: vbNames e) s fun s =>
      wrV e s (List.zipWith (fun ab c => f ab.1 ab.2 c) ((vA s e).zip (vB s e)) ((getCore s e.core).vreg (Enc.rc e)))

def execVadd (e : Enc) (s : State) : Out := lane2 0x01 fadd e s
def execVsub (e : Enc) (s : State) : Out := lane2 0x02 fsub e s
def execVmul (e : Enc) (s : State) : Out := lane2 0x03 fmul e s
def execVfma (e : Enc) (s : State) : Out := lane3 0x04 ffma e s
def execVmax (e : Enc) (s : State) : Out := lane2 0x05 fmax e s
def execVmin (e : Enc) (s : State) : Out := lane2 0x06 fmin e s
def execVabs (e : Enc) (s : State) : Out := lane1 0x07 fabs e s
def execVneg (e : Enc) (s : State) : Out := lane1 0x08 fneg e s
def execVrcp (e : Enc) (s : State) : Out := lane1 0x09 frcp e s
def execVsqrt (e : Enc) (s : State) : Out := lane1 0x0A fsqrt e s
def execVrsqrt (e : Enc) (s : State) : Out := lane1 0x0B frsqrt e s
def execVexp2 (e : Enc) (s : State) : Out := lane1 0x0C fexp2 e s
def execVlog2 (e : Enc) (s : State) : Out := lane1 0x0D flog2 e s
def execVsel (e : Enc) (s : State) : Out := lane3 0x0E (fun a b c => if fnz c then a else b) e s
def execVcmplt (e : Enc) (s : State) : Out := lane2 0x0F (fun a b => if flt a b then f32one else 0) e s
def execViadd (e : Enc) (s : State) : Out := lane2 0x18 (fun a b => a + b) e s

/-! ### Reductions (R84, R85) -/

/-- Neighbouring pairs combined. -/
def pairUp (f : W32 → W32 → W32) : List W32 → List W32
  | a :: b :: t => f a b :: pairUp f t
  | l => l

/-- The fixed tree over six levels (R85). -/
def tree (f : W32 → W32 → W32) : Nat → List W32 → W32
  | 0, l => l.headD 0
  | n + 1, l => tree f n (pairUp f l)

/-- A reduction of v[RA] into lane 0; the other lanes are +0. -/
def reduce (op : Nat) (f : W32 → W32 → W32) (e : Enc) (s : State) : Out :=
  issue { cls := 4, op := op, rd := true, ra := true } e s fun s =>
    owning e [e.rd.toNat, e.ra.toNat] s fun s => wrV e s (tree f 6 (vA s e) :: List.replicate 63 0)

def execVrsum (e : Enc) (s : State) : Out := reduce 0x10 fadd e s
def execVrmax (e : Enc) (s : State) : Out := reduce 0x11 fmax e s

/-! ### Moves and memory (R84, R86) -/

/-- VBCAST: every lane of v[RD] is s[RA][31:0]. -/
def execVbcast (e : Enc) (s : State) : Out :=
  issue { cls := 4, op := 0x14, rd := true, ra := true } e s fun s =>
    owning e [e.rd.toNat] s fun s => wrV e s (List.replicate 64 (((e.x s).s e.ra).extractLsb' 0 32))

/-- VMOVS: lane IMM[5:0] of v[RA] into s[RD], zero-extended. -/
def execVmovs (e : Enc) (s : State) : Out :=
  issue { cls := 4, op := 0x15, rd := true, ra := true, imm := 0x3F } e s fun s =>
    owning e [e.ra.toNat] s fun s => wrS e s (((getCore s e.core).lane e.ra.toNat e.imm.toNat).zeroExtend 64)

/-- 32-bit lanes of bytes. -/
def lanesOf (l : List Byte) : List W32 := (chunks 4 (l.length / 4) l).map fun n => BitVec.ofNat 32 n
/-- The bytes of 32-bit lanes. -/
def lanesBytes (l : List W32) : List Byte := l.flatMap fun w => leBytes 4 w.toNat

/-- The registers of a triple (R86). -/
def tripleRegs (r : BitVec 5) : List Nat := [r.toNat, r.toNat + 1, r.toNat + 2]

/-- A triple's register is at most v29 (R86). See log 107 [DEDUCED]. -/
def tripleOk (r : BitVec 5) : Bool := decide (r.toNat ≤ 29)

/-- The address a[RA] + IMM[31:10] sign-extended of VLDD and VSTD. -/
def addrD (x : Ctx) (e : Enc) : W64 := x.a e.ra + (e.imm.extractLsb' 10 22).signExtend 64

/-- The triple RD and its tag are written and the instruction is finished. -/
def wrT (e : Enc) (s : State) (es : List W96) (d : Datum) : State :=
  retire (modCore s e.core fun x => x.setTriple e.rd.toNat es d) e.core e.ctx

/-- Loaded bytes go into v[rd], or as 64 DAF96 elements into triple rd with their tag (Table 3-14). -/
def Site.putLoaded (x : Site) (rd : BitVec 5) (tag : Option Datum) (bs : List Byte) : Site :=
  match tag with
  | none => x.setVreg rd.toNat (lanesOf bs)
  | some d => x.setTriple rd.toNat ((chunks 12 64 bs).map fun n => BitVec.ofNat 96 n) d

/-- The address, the length and the tag of VLD (d false) or VLDD. -/
def vldAddr (d : Bool) (e : Enc) (s : State) : W64 := if d then addrD (e.x s) e else addrAI (e.x s) e
def vldLen (d : Bool) : Nat := if d then 768 else 256
def vldTag (d : Bool) (e : Enc) : Option Datum := if d then some (e.imm.extractLsb' 0 10) else none

/-- A vector load: at once inside the site; else, for a core that has moved away from its terrace, a request goes out and
the context waits (R60, R185). -/
def attVld (d : Bool) (e : Enc) (s : State) : Option State :=
  let a := vldAddr d e s
  match spotOf s e.core spLocal a (vldLen d) with
  | none => some (e.trap s 0x03 a)
  | some x =>
    if isLocal s e.core x then
      some (match spotRead s e.core x (vldLen d) with
        | .ok bs => retire (modCore s e.core fun x => x.putLoaded e.rd (vldTag d e) bs) e.core e.ctx
        | .error (.unc cls kd num) => uncArith s e.core cls kd num a false
        | .error _ => e.trap s 0x03 a)
    else if !canInject s e.core 0 then none
    else some (block (inject s (coreFlit s e.core x a false [] (.load e.core e.ctx (vldLen d)))) e.core e.ctx true
      (.vload e.rd (vldTag d e) a))

/-- A vector load's address is aligned to 64 bytes. -/
def vload (d : Bool) (e : Enc) (s : State) : State :=
  if (vldAddr d e s).toNat % 64 ≠ 0 then e.trap s 0x02 (vldAddr d e s)
  else orWait (attVld d e) true (if d then .vldd else .vld) e s

/-- The bytes that VST (d false) or VSTD stores: v[RB], or s[RB] in every lane with MOD[5], or triple RB (R84, R86). -/
def vstBytes (d : Bool) (e : Enc) (s : State) : List Byte :=
  if d then ((getCore s e.core).triple e.rb.toNat).flatMap dafBytes else lanesBytes (vB s e)

/-- A vector store (Table 10-3, UNIT 1): at once inside the site, else posted (R185, R188). -/
def attVst (d : Bool) (e : Enc) (s : State) : Option State :=
  let a := vldAddr d e s
  let bs := vstBytes d e s
  match spotOf s e.core spLocal a bs.length with
  | none => some (e.trap s 0x03 a)
  | some x =>
    if isLocal s e.core x then
      some (match engWrite s e.core 1 spLocal a bs with
        | .ok s => retire s e.core e.ctx
        | .error _ => e.trap s 0x03 a)
    else if !canInject s e.core 0 then none
    else some (retire (inject s (coreFlit s e.core x a true bs (.store e.core e.ctx (e.x s).pc a))) e.core e.ctx)

/-- A vector store's address is aligned to 64 bytes. -/
def vstore (d : Bool) (e : Enc) (s : State) : State :=
  if (vldAddr d e s).toNat % 64 ≠ 0 then e.trap s 0x02 (vldAddr d e s)
  else orWait (attVst d e) true (if d then .vstd else .vst) e s

/-- VLD: 256 bytes at a[RA] + IMM. See log 109 [DESIGN CHOICE]. -/
def execVld (e : Enc) (s : State) : Out :=
  issue { cls := 4, op := 0x12, rd := true, ra := true, aA := true, imm := ~~~0 } e s fun s =>
    owning e [e.rd.toNat] s (vload false e)

/-- VST: 256 bytes of operand RB at a[RA] + IMM. See log 110 [DEDUCED]. -/
def execVst (e : Enc) (s : State) : Out :=
  issue { cls := 4, op := 0x13, ra := true, rb := true, aA := true, md := 0x20, imm := ~~~0 } e s fun s =>
    owning e (vbNames e) s (vstore false e)

/-- VLDD: a DAF96 vector into triple RD with tag IMM[9:0]. -/
def execVldd (e : Enc) (s : State) : Out :=
  let h : Shape := { cls := 4, op := 0x19, rd := true, ra := true, aA := true, imm := ~~~0 }
  issue h e s fun s =>
    if !tripleOk e.rd then e.trap s 0x01 (encWord h e)
    else owning e (tripleRegs e.rd) s (vload true e)

/-- VSTD: triple RB as 768 bytes; IMM[9:0] is zero. -/
def execVstd (e : Enc) (s : State) : Out :=
  let h : Shape := { cls := 4, op := 0x1A, ra := true, rb := true, aA := true, imm := 0xFFFFFC00 }
  issue h e s fun s =>
    if !tripleOk e.rb then e.trap s 0x01 (encWord h e)
    else owning e (tripleRegs e.rb) s (vstore true e)

/-- VDADD: the exact sum of two triples of one datum (R52, R86; the order of its traps, log 109 [DESIGN CHOICE]). -/
def execVdadd (e : Enc) (s : State) : Out :=
  let h : Shape := { cls := 4, op := 0x17, rd := true, ra := true, rb := true }
  issue h e s fun s =>
    if !(tripleOk e.rd && tripleOk e.ra && tripleOk e.rb) then e.trap s 0x01 (encWord h e)
    else owning e (tripleRegs e.rd ++ tripleRegs e.ra ++ tripleRegs e.rb) s fun s =>
      let x := getCore s e.core
      let ta := x.vtag e.ra.toNat
      let tb := x.vtag e.rb.toNat
      if ta ≠ tb then e.trap s 0x07 (BitVec.ofNat 64 (ta.toNat * 65536 + tb.toNat))
      else wrT e s (List.zipWith (· + ·) (x.triple e.ra.toNat) (x.triple e.rb.toNat)) ta

/-! ### VCVT (R87) -/

/-- The pairs of VCVT. -/
def vcvtOk (sf df : Nat) : Bool :=
  let narrow (f : Nat) : Bool := f = 0x01 || f = 0x02 || f = 0x03 || f = 0x04 || f = 0x05 || f = 0x06 || f = 0x10
  (sf = 0 && narrow df) || (narrow sf && df = 0) || (sf = 0x10 && df = 0x10)

/-- The 64 source elements of VCVT. -/
def vcvtSrc (x : Site) (sf : Nat) (ra : Nat) : List Nat :=
  if sf = 0x10 then (x.triple ra).map BitVec.toNat
  else (unpack (fmtBits sf) (lanesBytes (x.vreg ra))).take 64

/-- VCVT: conversion of 64 elements between formats. -/
def execVcvt (e : Enc) (s : State) : Out :=
  let sf := (e.imm.extractLsb' 0 5).toNat
  let df := (e.imm.extractLsb' 5 5).toNat
  let d : Datum := e.imm.extractLsb' 10 10
  let fp8 := fmtFp8 sf || fmtFp8 df
  let h : Shape := { cls := 4, op := 0x16, rd := true, ra := true, rb := fp8, imm := 0xFFFFF }
  issue h e s fun s =>
    let rds := if df = 0x10 then tripleRegs e.rd else [e.rd.toNat]
    let ras := if sf = 0x10 then tripleRegs e.ra else [e.ra.toNat]
    if !vcvtOk sf df || (df ≠ 0x10 && d ≠ 0) || (df = 0x10 && !tripleOk e.rd) || (sf = 0x10 && !tripleOk e.ra) then
      e.trap s 0x01 (encWord h e)
    else owning e (rds ++ ras) s fun s =>
      let x := getCore s e.core
      let cv : Conv := { sfmt := sf, dfmt := df, scale := ((e.x s).s e.rb).extractLsb' 0 32,
                         d1 := (x.vtag e.ra.toNat).toInt, d2 := d.toInt }
      let rs := (vcvtSrc x sf e.ra.toNat).map fun b => cv.elem 0 0 b
      let s := raiseFlags s e.core e.ctx (rs.foldl (fun a r => a ||| r.2) 0)
      if df = 0x10 then wrT e s (rs.map fun r => BitVec.ofNat 96 r.1) d
      else wrV e s (lanesOf (fit 256 (pack (fmtBits df) (rs.map (·.1)))))

/-! ### The mask class (R142 to R146) -/

/-- Z of lane j for a base index (R142, R146). -/
def maskLane (x : Ctx) (e : Enc) (base : W32) (j : Nat) : W64 :=
  maskOut x.mseed x.mstep (e.imm.extractLsb' 0 12) x.mtid (base + BitVec.ofNat 32 j)

/-- The keep decision of an output (R144). -/
def kept (x : Ctx) (z : W64) : Bool := decide ((x.mkeep.extractLsb' 0 32).toNat ≤ (z.extractLsb' 32 32).toNat)

/-- MDROP (R144). -/
def execMdrop (e : Enc) (s : State) : Out :=
  issue { cls := 9, op := 1, rd := true, ra := true, rb := true, imm := 0xFFF } e s fun s =>
    owning e [e.rd.toNat, e.ra.toNat] s fun s =>
      let y := e.x s
      let base : W32 := (y.s e.rb).extractLsb' 0 32
      wrV e s ((vA s e).zipIdx.map fun v =>
        if kept y (maskLane y e base v.2) then fmul v.1 (y.mkeep.extractLsb' 32 32) else 0)

/-- MBITS (R146). -/
def execMbits (e : Enc) (s : State) : Out :=
  issue { cls := 9, op := 2, rd := true, ra := true, imm := 0xFFF } e s fun s =>
    let y := e.x s
    let base : W32 := (y.s e.ra).extractLsb' 0 32
    wrS e s (BitVec.ofNat 64 ((List.range 64).foldl (fun a j => a + nb64 (kept y (maskLane y e base j)) j) 0))
where
  /-- Bit j as a number. -/
  nb64 (b : Bool) (j : Nat) : Nat := if b then 2 ^ j else 0

/-- MRAW (R146): RD is at most 30. -/
def execMraw (e : Enc) (s : State) : Out :=
  let h : Shape := { cls := 9, op := 3, rd := true, ra := true, imm := 0xFFF }
  issue h e s fun s =>
    if 30 < e.rd.toNat then e.trap s 0x01 (encWord h e)
    else owning e [e.rd.toNat, e.rd.toNat + 1] s fun s =>
      let y := e.x s
      let base : W32 := (y.s e.ra).extractLsb' 0 32
      let zs := (List.range 64).map fun j => maskLane y e base j
      let s := modCore s e.core fun x => x.setVreg (e.rd.toNat + 1) (zs.map (·.extractLsb' 32 32))
      wrV e s (zs.map (·.extractLsb' 0 32))

end Sys2Proof.Machine
end

