-- ==== Sys2Proof/Machine/Cairn.lean ====
section
/-!
DEFINITION. The Cairn: its region, pushes, pops, spills, refills and instructions (R128 to R136, Table 5-5). The resident
map gives the region block of each resident Cairn block.
-/

namespace Sys2Proof.Machine

/-- Bytes of a block (R128). -/
def cblk : Nat := 65536

def modCairn (s : State) (c : Nat) (f : Cairn → Cairn) : State := modCore s c fun x => { x with cairn := f x.cairn }
def getCairn (s : State) (c : Nat) : Cairn := (getCore s c).cairn

/-- The region block that holds a resident block. -/
def Cairn.region (x : Cairn) (b : Nat) : Option Nat := (x.resident.find? fun r => r.1 = b).map (·.2)

/-- A free region block: the lowest not in use. -/
def Cairn.pick (x : Cairn) : Option Nat :=
  (List.range x.blocks).find? fun r =>
    (x.resident.all fun q => q.2 ≠ r) && (x.spilling.map (·.2) ≠ some r) && (x.refilling.map (·.2) ≠ some r)

/-- The queued refill of the highest block starts when a region block is free and none runs (R133). -/
def Cairn.startRefill (x : Cairn) : Cairn :=
  match x.refilling, x.refillQ.getLast?, x.pick with
  | none, some b, some r => { x with refilling := some (b, r), refillQ := ndel x.refillQ b, spilled := ndel x.spilled b }
  | _, _, _ => x

/-- The terrace offset of a content byte of a resident block. -/
def Cairn.addr (x : Cairn) (b : Nat) : Nat := x.base.toNat + ((x.region (b / cblk)).getD 0) * cblk + b % cblk

/-- Blocks that a push of n bytes would newly use. -/
def Cairn.newBlocks (x : Cairn) (n : Nat) : List Nat :=
  (unitsOf cblk x.depth n).filter fun b => (x.region b).isNone

/-- The push finds its region blocks free (R132). -/
def Cairn.room (x : Cairn) (n : Nat) : Bool := decide ((x.newBlocks n).length ≤ x.free)

/-- New blocks take free region blocks. -/
def Cairn.grow (x : Cairn) (bs : List Nat) : Cairn :=
  bs.foldl (fun x b => match x.pick with
    | some r => { x with resident := sput x.resident b r }
    | none => x) x

/-- Bytes at content position p, n of them, as pieces that lie in one block each: content position and length. -/
def blockPieces : Nat → Nat → Nat → List (Nat × Nat)
  | 0, _, _ => []
  | f + 1, p, n =>
    if n = 0 then [] else
      let k := min n (cblk - p % cblk)
      (p, k) :: blockPieces f (p + k) (n - k)

/-- A push that has room: the bytes go on top (R130). -/
def cairnPush (s : State) (c : Nat) (bs : List Byte) : State :=
  let x := getCairn s c
  let x := x.grow (x.newBlocks bs.length)
  let site := tsite s c
  let s := modCairn s c fun _ => { x with depth := x.depth + bs.length }
  (blockPieces (bs.length / cblk + 2) x.depth bs.length).foldl (fun s p =>
    terrWrite s site (x.addr p.1) ((bs.drop (p.1 - x.depth)).take p.2)) s

/-- What keeps a pop from its bytes. -/
inductive PopStop where
  /-- a spill or refill has to complete (R132, R133) -/
  | wait
  /-- a spilled block is not reserved (R133) -/
  | notReserved (b : Nat)
  /-- an uncorrectable error in the terrace -/
  | unc (cls kind num : Nat)
  deriving DecidableEq, Repr

/-- The state of the blocks under the top n bytes. -/
def Cairn.popCheck (x : Cairn) (n : Nat) : Option PopStop :=
  ((unitsOf cblk (x.depth - n) n).filterMap fun b =>
    if (x.region b).isSome then none
    else if x.spilling.map (·.1) = some b ∨ x.refilling.map (·.1) = some b ∨ b ∈ x.refillQ then some PopStop.wait
    else some (PopStop.notReserved b)).reverse.head?

/-- The top n bytes are read, in push order. -/
def cairnTop (s : State) (c n : Nat) : Except PopStop (List Byte) :=
  let x := getCairn s c
  match x.popCheck n with
  | some e => .error e
  | none =>
    (blockPieces (n / cblk + 2) (x.depth - n) n).foldl (fun acc p =>
      match acc, terrRead s (tsite s c) (x.addr p.1) p.2 with
      | .ok l, .ok bs => .ok (l ++ bs)
      | .ok _, .error (.unc a b d) => .error (.unc a b d)
      | .ok _, .error _ => .error .wait
      | e, _ => e) (.ok [])

/-- The top n bytes are removed; blocks above the new top free their region blocks. -/
def Cairn.drop (x : Cairn) (n : Nat) : Cairn :=
  let d := x.depth - n
  ({ x with depth := d, resident := x.resident.filter fun r => r.1 * cblk < d } : Cairn).startRefill

/-- A drain with CAIRN set of the context is still queued (R130). -/
def cairnDrains (x : Site) (k : Nat) : Bool := x.tiles.drains.any fun d => d.ctx = k && bit (field d.ep 4 4) 5

/-- The address on which a spill or a refill stands still (R135). -/
def Cairn.fault (x : Cairn) : Option W64 := x.spillFault.or x.refillFault

/-- The owner of a Cairn whose spill or refill has faulted is HELD at its next Cairn-class instruction (R135). -/
def cairnHeld (e : Enc) (s : State) : Option State :=
  let x := getCairn s e.core
  match x.fault with
  | none => none
  | some a =>
    if x.owner = some e.ctx then
      some (modCtx (giveUp s e.core e.ctx) e.core e.ctx fun y => { y with st := .held, wait := .fault a })
    else none

/-- A Cairn-class instruction meets a faulted spill or refill first (R135). -/
def cairnClass (e : Enc) (s : State) (f : State → State) : State :=
  match cairnHeld e s with
  | some t => t
  | none => f s

/-- The instruction of a context that does not own the Cairn traps (R129). -/
def owningCairn (e : Enc) (s : State) (f : State → State) : State :=
  cairnClass e s fun s =>
    let x := getCairn s e.core
    if x.owner ≠ some e.ctx then e.trap s 0x1D (BitVec.ofNat 64 x.ownBits) else f s

/-- FMT of a push or pop, with its bytes for 64 lanes (Table 5-5). -/
def cairnFmt (f : Nat) : Option Nat := if f = 0 then some 256 else if f = 1 ∨ f = 2 then some 128 else none

/-- COWN: claims or releases the Cairn (Table 5-5). -/
def execCown (e : Enc) (s : State) : Out :=
  issue { cls := 8, op := 1, imm := 1 } e s fun s => cairnClass e s fun s =>
    let x := getCairn s e.core
    if e.imm.getLsbD 0 then
      if x.owner ≠ none ∧ x.owner ≠ some e.ctx then e.trap s 0x1D (BitVec.ofNat 64 x.ownBits)
      else retire (modCairn s e.core fun x => { x with owner := some e.ctx }) e.core e.ctx
    else retire (modCairn s e.core fun x => { x with owner := if x.owner = some e.ctx then none else x.owner }) e.core e.ctx

/-- The pushed bytes of a CPUSH and its flags (R44). -/
def pushBytes (s : State) (e : Enc) : List Byte × W32 :=
  let f := e.imm.toNat
  let rs := ((getCore s e.core).vreg e.ra.toNat).map fun w =>
    ({ sfmt := 0, dfmt := f } : Conv).elem 0 0 w.toNat
  if f = 0 then (lanesBytes ((getCore s e.core).vreg e.ra.toNat), 0)
  else (pack 16 (rs.map (·.1)), rs.foldl (fun a r => a ||| r.2) 0)

/-- CPUSH waits for the context's earlier Cairn drains and for a free region block (R130, R132). -/
def attCpush (e : Enc) (s : State) : Option State :=
  match cairnHeld e s with
  | some t => some t
  | none =>
    if cairnDrains (getCore s e.core) e.ctx then none
    else
      let x := getCairn s e.core
      let b := pushBytes s e
      if x.spillLim.toNat < x.depth + b.1.length then some (e.trap s 0x1A (BitVec.ofNat 64 (x.depth + b.1.length)))
      else if x.room b.1.length then
        some (retire (raiseFlags (cairnPush s e.core b.1) e.core e.ctx b.2) e.core e.ctx)
      else none

/-- CPUSH (R130, R134, R136). -/
def execCpush (e : Enc) (s : State) : Out :=
  let h : Shape := { cls := 8, op := 2, ra := true, imm := 0x1F }
  issue h e s fun s =>
    if (cairnFmt e.imm.toNat).isNone then e.trap s 0x01 (encWord h e)
    else owningCairn e s fun s => owning e [e.ra.toNat] s fun s =>
      if !(getCairn s e.core).regionOk then e.trap s 0x1E 0x21
      else orWait (attCpush e) (!cairnDrains (getCore s e.core) e.ctx) .cpush e s

/-- A pop of n bytes: underflow traps, a block not reserved traps, and f takes the bytes (R131, R133). -/
def popThen (e : Enc) (n : Nat) (s : State) (f : List Byte → State → State) : Option State :=
  let x := getCairn s e.core
  if x.depth < n then some (e.trap s 0x1B (BitVec.ofNat 64 n))
  else match cairnTop s e.core n with
    | .error .wait => none
    | .error (.notReserved b) => some (e.trap s 0x1C (BitVec.ofNat 64 b))
    | .error (.unc cls kd num) => some (uncArith s e.core cls kd num (BitVec.ofNat 64 (2 ^ 60 + x.base.toNat)) false)
    | .ok bs => some (f bs (modCairn s e.core fun x => x.drop n))

/-- The lanes of popped bytes, widened exactly to FP32 (R47, R131). -/
def poppedLanes (f : Nat) (bs : List Byte) : List W32 :=
  if f = 0 then lanesOf bs
  else (unpack 16 bs).map fun b => BitVec.ofNat 32 (({ sfmt := f, dfmt := 0 } : Conv).elem 0 0 b).1

/-- CPOPV completes once the blocks it reaches are resident (R132, R133). -/
def attCpopv (e : Enc) (s : State) : Option State :=
  match cairnHeld e s with
  | some t => some t
  | none => popThen e ((cairnFmt e.imm.toNat).getD 0) s fun bs s => wrV e s (poppedLanes e.imm.toNat bs)

/-- CPOPV (R131). -/
def execCpopv (e : Enc) (s : State) : Out :=
  let h : Shape := { cls := 8, op := 3, rd := true, imm := 0x1F }
  issue h e s fun s =>
    if (cairnFmt e.imm.toNat).isNone then e.trap s 0x01 (encWord h e)
    else owningCairn e s fun s => owning e [e.rd.toNat] s fun s =>
      if !(getCairn s e.core).regionOk then e.trap s 0x1E 0x21
      else orWait (attCpopv e) true .cpopv e s

/-- CPOP completes once the blocks it reaches are resident; its rows are written in push order (R131, Table 10-3). -/
def attCpop (e : Enc) (s : State) : Option State :=
  match cairnHeld e s with
  | some t => some t
  | none =>
    let y := e.x s
    let a := y.a e.ra
    popThen e (64 * (y.s e.rb).toNat) s fun bs s =>
      match engWrite s e.core 7 spNear a bs with
      | .ok s => retire s e.core e.ctx
      | .error _ => e.trap s 0x03 a

/-- CPOP (R131): a count of 0 is an illegal encoding; the destination is near memory, aligned to 64 bytes. See log 58 [DEDUCED]. -/
def execCpop (e : Enc) (s : State) : Out :=
  let h : Shape := { cls := 8, op := 4, ra := true, rb := true, aA := true }
  issue h e s fun s =>
    let y := e.x s
    let n := (y.s e.rb).toNat
    let a := y.a e.ra
    if n = 0 then e.trap s 0x01 (encWord h e)
    else owningCairn e s fun s =>
      if !(getCairn s e.core).regionOk then e.trap s 0x1E 0x21
      else if (getCairn s e.core).depth < 64 * n then e.trap s 0x1B (BitVec.ofNat 64 (64 * n))
      else if a.toNat % 64 ≠ 0 then e.trap s 0x02 a
      else if (spotOf s e.core spNear a (64 * n)).isNone then e.trap s 0x03 a
      else orWait (attCpop e) true .cpop e s

/-- CRSV queues refills of the highest-numbered spilled blocks not yet queued (R133). -/
def Cairn.reserve (x : Cairn) (n : Nat) : Cairn :=
  let fresh := ((x.spilled.filter fun b => b ∉ x.refillQ).reverse).take n
  ({ x with refillQ := fresh.foldl nins x.refillQ } : Cairn).startRefill

/-- CRSV (R133). -/
def execCrsv (e : Enc) (s : State) : Out :=
  let h : Shape := { cls := 8, op := 5, ra := true }
  issue h e s fun s =>
    let n := ((e.x s).s e.ra).toNat
    if n = 0 then e.trap s 0x01 (encWord h e)
    else owningCairn e s fun s => retire (modCairn s e.core fun x => x.reserve n) e.core e.ctx

/-- CRESET completes once no spill or refill is in flight; queued refills are discarded first (R136). -/
def attCreset (e : Enc) (s : State) : Option State :=
  match cairnHeld e s with
  | some t => some t
  | none =>
    if (getCairn s e.core).moving then none
    else some (retire (modCairn s e.core fun x => { x with depth := 0, resident := [], spilled := [], refillQ := [] }) e.core e.ctx)

/-- CRESET (R136). -/
def execCreset (e : Enc) (s : State) : Out :=
  issue { cls := 8, op := 6 } e s fun s => owningCairn e s fun s =>
    orWait (attCreset e) true .creset e (modCairn s e.core fun x => { x with refillQ := [] })

end Sys2Proof.Machine
end

