-- ==== Sys2Proof/Machine/LoadStore.lean ====
section
/-!
DEFINITION. LD and ST (R71, R183, R188, R202) and the arrival of load data (R62, R251).
-/

namespace Sys2Proof.Machine

/-- Bytes of an access, by MOD[3:1]; none for a reserved size (R71). -/
def accSize (e : Enc) : Option Nat :=
  let z := (e.md.extractLsb' 1 3).toNat
  if z < 4 then some (2 ^ z) else none

/-- The register value of loaded bytes, sign- or zero-extended (R71). -/
def loadVal (n : Nat) (sext : Bool) (bs : List Byte) : W64 :=
  let v := leNat bs
  if sext && decide (2 ^ (8 * n - 1) ≤ v) then BitVec.ofNat 64 (v + 2 ^ 64 - 2 ^ (8 * n)) else BitVec.ofNat 64 v

def Spot.isFar : Spot → Bool
  | .far _ => true
  | _ => false

/-- A far request has to wait for the core's limit of 32 (Table 7-4). -/
def farFull (s : State) (c : Nat) (x : Spot) : Bool := x.isFar && decide (32 ≤ farOut s c)

/-- A load of a spot outside the site is sent, unless the core's far limit is reached or the site takes no injection
(R60, R194, R243). -/
def attLd (n : Nat) (sext : Bool) (e : Enc) (s : State) : Option State :=
  let a := addrAI (e.x s) e
  match spotOf s e.core spAll a n with
  | none => some (e.trap s 0x03 a)
  | some x =>
    if x.isFar && (e.x s).heldSt ≠ [] then heldAtPort s e
    else if farFull s e.core x || !canInject s e.core 0 then none
    else
      let s := inject s (coreFlit s e.core x a false [] (.load e.core e.ctx n))
      some (block s e.core e.ctx true (.load e.rd n sext a))

/-- The load once its size and address are known to be legal. -/
def ldAt (e : Enc) (n : Nat) (s : State) : State :=
  let a := addrAI (e.x s) e
  let sext := e.md.getLsbD 4
  if a.toNat % n ≠ 0 then e.trap s 0x02 a
  else match spotOf s e.core spAll a n with
    | none => e.trap s 0x03 a
    | some x =>
      if isLocal s e.core x then
        match spotRead s e.core x n with
        | .ok bs => wrS e s (loadVal n sext bs)
        | .error (.unc cls kd num) => uncArith s e.core cls kd num a false
        | .error _ => e.trap s 0x03 a
      else orWait (attLd n sext e) true .ld e s

/-- LD (R71): 1 to 8 bytes at a[RA] + IMM into s[RD]; the order of its traps is log 109 [DESIGN CHOICE]. -/
def execLd (e : Enc) (s : State) : Out :=
  let h : Shape := { cls := 0, op := 0x14, rd := true, ra := true, aA := true, md := 0x1E, imm := ~~~0 }
  issue h e s fun s =>
    match accSize e with
    | none => e.trap s 0x01 (encWord h e)
    | some n => if n = 8 ∧ e.md.getLsbD 4 then e.trap s 0x01 (encWord h e) else ldAt e n s

/-- A posted store of a spot outside the site is sent, unless the far limit is reached, the site takes no injection, or a
store is held (R194, R243, Table 7-6). -/
def attSt (n : Nat) (e : Enc) (s : State) : Option State :=
  let a := addrAI (e.x s) e
  match spotOf s e.core spAll a n with
  | none => some (e.trap s 0x03 a)
  | some x =>
    if x.isFar && (e.x s).heldSt ≠ [] then heldAtPort s e
    else if farFull s e.core x || !canInject s e.core 0 then none
    else
      let y := e.x s
      let s := inject s (coreFlit s e.core x a true (leBytes n (y.s e.rb).toNat) (.store e.core e.ctx y.pc a))
      some (retire s e.core e.ctx)

/-- The store once its size and address are known to be legal; a local one is performed at once. -/
def stAt (e : Enc) (n : Nat) (s : State) : State :=
  let a := addrAI (e.x s) e
  if a.toNat % n ≠ 0 then e.trap s 0x02 a
  else match spotOf s e.core spAll a n with
    | none => e.trap s 0x03 a
    | some x =>
      if isLocal s e.core x then
        match engWrite s e.core 0 spAll a (leBytes n ((e.x s).s e.rb).toNat) with
        | .ok s => retire s e.core e.ctx
        | .error _ => e.trap s 0x03 a
      else orWait (attSt n e) true .st e s

/-- ST (R71): the low bytes of s[RB] at a[RA] + IMM, posted. -/
def execSt (e : Enc) (s : State) : Out :=
  let h : Shape := { cls := 0, op := 0x15, ra := true, rb := true, aA := true, md := 0x0E, imm := ~~~0 }
  issue h e s fun s =>
    match accSize e with
    | none => e.trap s 0x01 (encWord h e)
    | some n => stAt e n s

/-! ### Arrival of load data (R62, R251) -/

/-- The net without its n-th flit. -/
def dropFlit (s : State) (n : Nat) : State := { s with mesh := { s.mesh with net := s.mesh.net.eraseIdx n } }

/-- The flit answers the load of this context. -/
def answersLoad (c k : Nat) (f : Flit) : Bool :=
  f.arrived && (f.kind = .readResp || f.kind = .farResp) &&
  (match f.what with
   | .load c2 k2 _ => c2 = c && k2 = k
   | _ => false)

end Sys2Proof.Machine
end

