-- ==== Sys2Proof/Machine/Table.lean ====
section
/-!
DEFINITION. The table unit: images, TLD, TEVAL and TEVALM (R88, R89).
-/

namespace Sys2Proof.Machine

/-- Bytes of a table image (R88). -/
def imgBytes : Nat := 3136

/-- The image of table t that the core holds. -/
def Site.table (x : Site) (t : Nat) : List Byte := mrdN x.tables (t * 4096) imgBytes

/-- An FP32 of an image. -/
def imgF (img : List Byte) (off : Nat) : W32 := BitVec.ofNat 32 (field img off 4)

/-- The image is valid (R88). -/
def imageOk (img : List Byte) : Bool :=
  decide (field img 5 1 ≤ 1) && decide (field img 6 1 ≤ 1) && (ofF32 (imgF img 0)).isFin && field img 7 1 = 0 &&
  allZero ((img.drop 24).take 40)

/-- floor(v / 2^w) of an exact value (R89). -/
def floorAt (v : FV) (w : Int) : Int :=
  let d := v.dy
  if 0 ≤ d.e - w then d.n * (2 ^ (d.e - w).toNat : Nat) else d.n / (2 ^ (w - d.e).toNat : Nat)

/-- The segment number of x before clamping (R89). -/
def segment (img : List Byte) (v : FV) : Int :=
  match v with
  | .inf neg => if neg then -1 else 256
  | v => floorAt (v.add (ofF32 (imgF img 0)).negate) (sfield img 4 1)

/-- T(x) of R89. -/
def tableEval (img : List Byte) (x : W32) : W32 :=
  if fnan x then canonNaN
  else
    let v := ofF32 x
    let k := segment img v
    let line (off : Nat) : W32 :=
      let a := imgF img off
      let b := imgF img (off + 4)
      if !v.isFin && (ofF32 a).isZero then (if fnan b then canonNaN else b) else ffma x a b
    if k < 0 ∧ field img 5 1 = 1 then line 8
    else if 255 < k ∧ field img 6 1 = 1 then line 16
    else
      let k := (max 0 (min 255 k)).toNat
      let start := (ofF32 (imgF img 0)).add (intVal k (sfield img 4 1))
      let t := toF32 (v.add start.negate)
      ffma t (ffma t (imgF img (64 + 12 * k + 8)) (imgF img (64 + 12 * k + 4))) (imgF img (64 + 12 * k))

/-- The table that IMM[0] names. -/
def Enc.tab (e : Enc) : Nat := if e.imm.getLsbD 0 then 1 else 0

/-- A queued drain that uses a table counts as an earlier TEVAL (R114). -/
def tableDrain (d : DrainJob) : Bool := bit (field d.ep 4 4) 6

/-- A TLD of the core waits for earlier table use: later table use waits for it (R60, R89). -/
def tldWaits (x : Site) : Bool := (List.range 4).any fun k =>
  match (x.ctx k).wait with
  | .op .tld _ => true
  | _ => false

/-- TLD reads and checks its image once the drains that use a table and were issued before it have completed (R88,
R89, R114). -/
def attTld (e : Enc) (s : State) : Option State :=
  let a := (e.x s).a e.ra
  if (getCore s e.core).tiles.drains.any tableDrain then none
  else some (match engRead s e.core spNear a imgBytes with
    | .error (.unc cls kd num) => uncArith s e.core cls kd num a false
    | .error _ => e.trap s 0x03 a
    | .ok img =>
      if imageOk img then
        retire (modCore s e.core fun x => { x with tables := mwrN x.tables (Enc.tab e * 4096) img }) e.core e.ctx
      else e.trap s 0x0A a)

/-- TLD: the image at a[RA] into a table; an invalid image traps and the table keeps its contents (R88). -/
def execTld (e : Enc) (s : State) : Out :=
  issue { cls := 5, op := 1, ra := true, aA := true, imm := 1 } e s fun s =>
    let a := (e.x s).a e.ra
    match descTrap s e.core a 64 with
    | some t => e.trap s t a
    | none => if (spotOf s e.core spNear a imgBytes).isNone then e.trap s 0x03 a else orWait (attTld e) false .tld e s

/-- TEVAL evaluates its table once no earlier TLD waits (R60, R89). -/
def attTeval (e : Enc) (s : State) : Option State :=
  let x := getCore s e.core
  if tldWaits x then none else some (wrV e s ((vA s e).map (tableEval (x.table (Enc.tab e)))))

/-- TEVAL: v[RD] = T(v[RA]) (R88, R89). -/
def execTeval (e : Enc) (s : State) : Out :=
  issue { cls := 5, op := 2, rd := true, ra := true, imm := 1 } e s fun s =>
    owning e [e.rd.toNat, e.ra.toNat] s fun s => orWait (attTeval e) false .teval e s

/-- TEVALM evaluates its table once no earlier TLD waits (R60, R89). -/
def attTevalm (e : Enc) (s : State) : Option State :=
  let x := getCore s e.core
  if tldWaits x then none
  else some (wrV e s (List.zipWith (fun a b => fmul (tableEval (x.table (Enc.tab e)) a) b) (vA s e) (x.vreg e.rb.toNat)))

/-- TEVALM: v[RD] = RNE(T(v[RA]) × v[RB]) (R88). -/
def execTevalm (e : Enc) (s : State) : Out :=
  issue { cls := 5, op := 3, rd := true, ra := true, rb := true, imm := 1 } e s fun s =>
    owning e [e.rd.toNat, e.ra.toNat, e.rb.toNat] s fun s => orWait (attTevalm e) false .tevalm e s

end Sys2Proof.Machine
end

