-- ==== Sys2Proof/Machine/Wga.lean ====
section
/-!
DEFINITION. The weight-gradient accumulator: its elements, its instructions and its flushes (R137 to R141, Table 5-2).
-/

namespace Sys2Proof.Machine

/-- Elements of a WGA (R137). -/
def wgaSize : Nat := 262144

def modWga (s : State) (c : Nat) (f : Wga → Wga) : State := modCore s c fun x => { x with wga := f x.wga }
def getWga (s : State) (c : Nat) : Wga := (getCore s c).wga
/-- An element. -/
def Wga.el (x : Wga) (i : Nat) : W96 := sget 0 x.elems i
/-- The WGA with values added from element i on (R52, R138). -/
def Wga.addAt (x : Wga) : Nat → List W96 → Wga
  | _, [] => x
  | i, v :: t => ({ x with elems := smod 0 x.elems i (· + v) } : Wga).addAt (i + 1) t
/-- n elements from i on. -/
def Wga.els (x : Wga) (i n : Nat) : List W96 := (List.range n).map fun j => x.el (i + j)
/-- The WGA with n elements from i on at zero. -/
def Wga.clear (x : Wga) (i n : Nat) : Wga := { x with elems := x.elems.filter fun e => e.1 < i || i + n ≤ e.1 }

/-- A drain of the context adds into the WGA and is still queued (DEST 1). -/
def wgaDrain (d : DrainJob) : Bool := bits (field d.ep 4 4) 0 3 = 1

/-- The first element of a range beyond the WGA (Table 5-11). -/
def firstBeyond (i : Nat) : Nat := max i wgaSize

/-- WADDV: 64 elements of triple RA are added from element s[RB] on (R138). -/
def execWaddv (e : Enc) (s : State) : Out :=
  let h : Shape := { cls := 8, op := 0x12, ra := true, rb := true }
  issue h e s fun s => cairnClass e s fun s =>
    if !tripleOk e.ra then e.trap s 0x01 (encWord h e)
    else owning e (tripleRegs e.ra) s fun s =>
      let x := getCore s e.core
      let i := ((e.x s).s e.rb).toNat
      let t := x.vtag e.ra.toNat
      if t ≠ x.wga.datum then e.trap s 0x18 (BitVec.ofNat 64 (t.toNat * 65536 + x.wga.datum.toNat))
      else if wgaSize < i + 64 then e.trap s 0x19 (BitVec.ofNat 64 (firstBeyond i))
      else retire (modWga s e.core fun w => w.addAt i (x.triple e.ra.toNat)) e.core e.ctx

/-- WRDV: 64 elements from element s[RA] on into triple RD, tagged with WDATUM (Table 5-5). -/
def execWrdv (e : Enc) (s : State) : Out :=
  let h : Shape := { cls := 8, op := 0x13, rd := true, ra := true }
  issue h e s fun s => cairnClass e s fun s =>
    if !tripleOk e.rd then e.trap s 0x01 (encWord h e)
    else owning e (tripleRegs e.rd) s fun s =>
      let w := getWga s e.core
      let i := ((e.x s).s e.ra).toNat
      if wgaSize < i + 64 then e.trap s 0x19 (BitVec.ofNat 64 (firstBeyond i))
      else wrT e s (w.els i 64) w.datum

/-- A launch that reads the WGA, running or interrupted: GKIND 0 or a UGAUGE (R180). -/
def wgaLaunch (x : Site) : Bool :=
  (x.launches.any fun l => l.st = .running && (l.gauge || bits (field l.desc 8 4) 7 2 = 0)) ||
  (List.range 4).any fun k => (x.ctx k).uwga && (x.ctx k).ustat.toNat % 8 = 4

/-- WINIT's wait ends, WDATUM takes its value and the zeroing begins (R140, R180). -/
def attWinit (e : Enc) (s : State) : Option State :=
  match cairnHeld e s with
  | some t => some t
  | none =>
    let x := getCore s e.core
    if x.tiles.drains.any wgaDrain || x.wga.flushes ≠ [] || x.wga.zeroing.isSome || wgaLaunch x then none
    else
      let s := modWga s e.core fun w => { w with datum := e.imm.extractLsb' 0 10, zeroing := some e.ctx }
      some (block s e.core e.ctx true .zeroing)

/-- WINIT (R140). -/
def execWinit (e : Enc) (s : State) : Out :=
  issue { cls := 8, op := 0x10, imm := 0x3FF } e s (orWait (attWinit e) true .winit e)

/-- A flush or WZERO joins the queue (R141). -/
def queueFlush (s : State) (c : Nat) (j : FlushJob) : State :=
  modCore s c fun x =>
    { x with wga := { x.wga with flushes := x.wga.flushes ++ [{ j with sn := x.tiles.nextSn }] },
             tiles := { x.tiles with nextSn := x.tiles.nextSn + 1 } }

/-- The flush queue has room: two wait behind the one that runs (R141). -/
def Wga.room (x : Wga) : Bool := decide (x.flushes.length < 3)

/-- WZERO joins the queue once it has room. -/
def attWzero (e : Enc) (s : State) : Option State :=
  match cairnHeld e s with
  | some t => some t
  | none =>
    if (getWga s e.core).room then
      let y := e.x s
      some (retire (queueFlush s e.core { ctx := e.ctx, zero := true, desc := [], first := (y.s e.ra).toNat, count := (y.s e.rb).toNat })
        e.core e.ctx)
    else none

/-- WZERO: s[RB] elements from element s[RA] on (Table 5-5). -/
def execWzero (e : Enc) (s : State) : Out :=
  let h : Shape := { cls := 8, op := 0x11, ra := true, rb := true }
  issue h e s fun s =>
    let i := ((e.x s).s e.ra).toNat
    let n := ((e.x s).s e.rb).toNat
    if n = 0 then e.trap s 0x01 (encWord h e)
    else if wgaSize < i + n then e.trap s 0x19 (BitVec.ofNat 64 (firstBeyond i))
    else orWait (attWzero e) true .wzero e s

/-! ### Flush descriptors (R141, Table 5-2) -/

def fdMode (b : List Byte) : Nat := bits (field b 8 4) 0 2
def fdClear (b : List Byte) : Bool := bit (field b 8 4) 2
def fdTail (b : List Byte) : Option Nat := if bit (field b 8 4) 3 then some (bits (field b 8 4) 4 13) else none
def fdTarget (b : List Byte) : Nat := field b 12 4
def fdDst (b : List Byte) : W64 := BitVec.ofNat 64 (field b 16 8)

/-- The bytes that a flush of n elements writes to memory. -/
def fdBytes (mode n : Nat) : Nat := if mode = 1 then 12 * n else 4 * n

/-- The descriptor passes the checks of R141. -/
def fdOk (s : State) (c : Nat) (b : List Byte) : Bool :=
  let i := field b 0 4
  let n := field b 4 4
  let m := fdMode b
  decide (1 ≤ n) && decide (n ≤ wgaSize) && decide (i + n ≤ wgaSize) && bits (field b 8 4) 17 15 = 0 && m ≠ 3 &&
  allZero ((b.drop 24).take 40) &&
  (if m = 0 then
     sameParcel s c (fdTarget b) && decide (field b 16 8 < 2 ^ 18) && decide (field b 16 8 + n ≤ wgaSize)
   else
     fdTarget b = 0 && field b 16 8 % 64 = 0 && (spotOf s c spLocal (fdDst b) (fdBytes m n)).isSome)

/-- A WFLUSH whose descriptor b has passed joins the queue once it has room. -/
def attWflush (b : List Byte) (e : Enc) (s : State) : Option State :=
  match cairnHeld e s with
  | some t => some t
  | none =>
    if (getWga s e.core).room then
      some (retire (queueFlush s e.core { ctx := e.ctx, zero := false, desc := b, first := field b 0 4, count := field b 4 4 })
        e.core e.ctx)
    else none

/-- WFLUSH (R141). -/
def execWflush (e : Enc) (s : State) : Out :=
  issue { cls := 8, op := 0x14, ra := true, aA := true } e s fun s =>
    let a := (e.x s).a e.ra
    if (descTrap s e.core a 64).isSome then e.trap s 0x1F a
    else match engRead s e.core spNear a 64 with
      | .error (.unc cls kd num) => uncArith s e.core cls kd num a false
      | .error _ => e.trap s 0x1F a
      | .ok b => if fdOk s e.core b then orWaitDesc (attWflush b e) true .wflush e b s else e.trap s 0x1F a

/-- WSYNC ends when the context's flushes, WZEROs and drains into the WGA have completed (R141). -/
def attWsync (e : Enc) (s : State) : Option State :=
  match cairnHeld e s with
  | some t => some t
  | none =>
    let x := getCore s e.core
    if (x.wga.flushes.any fun f => f.ctx = e.ctx) || (x.tiles.drains.any fun d => d.ctx = e.ctx && wgaDrain d) then none
    else some (retire s e.core e.ctx)

/-- WSYNC (R141). -/
def execWsync (e : Enc) (s : State) : Out :=
  issue { cls := 8, op := 0x15 } e s (orWait (attWsync e) true .wsync e)

/-! ### Mesh sums (R138, R255, R257) -/

/-- Sum flits of elements to a core's WGA, five elements each, from element offset i on. -/
def sumFlits (s : State) (c target : Nat) (d : Datum) (w : FlitFor) : Nat → Nat → List W96 → List Flit
  | 0, _, _ => []
  | f + 1, i, l =>
    if l = [] then [] else
      let g := l.take 5
      { src := csite s c, dst := csite s target, vc := 2, kind := .daf96Sum, parcel := coreParcelNum s c, pv := true,
        addr := BitVec.ofNat 42 i, datum := d, count := g.length, payload := g.flatMap dafBytes, pos := csite s c, what := w }
      :: sumFlits s c target d w f (i + 5) (l.drop 5)

/-- A tail flit to a core's site behind the sums (R255, R258). -/
def tailFlit (s : State) (c target b : Nat) : Flit :=
  { src := csite s c, dst := csite s target, vc := 2, kind := .tail, parcel := coreParcelNum s c, pv := true,
    addr := BitVec.ofNat 42 b, pos := csite s c, what := .tail 1 }

/-- A unit's writes are performed and its tail is due: one remote endpoint of all of them gets a tail flit behind them; with
more, or with the site's own, the ARRIVE is made from the site (R258). -/
def tailTo (s : State) (c : Nat) (ends : List Nat) (b : Nat) : State :=
  match ends with
  | [d] =>
    if d = csite s c then unitArrive s c b 1
    else inject s { src := csite s c, dst := d, vc := 0, kind := .tail, parcel := coreParcelNum s c, pv := true,
                    addr := BitVec.ofNat 42 b, pos := csite s c, what := .tail 1 }
  | _ => unitArrive s c b 1

/-- Sums and their tail leave for a core (R257, R258). -/
def sendSums (s : State) (c target : Nat) (d : Datum) (w : FlitFor) (i : Nat) (l : List W96) : State :=
  (sumFlits s c target d w (l.length / 5 + 1) i l).foldl inject s

/-! ### A flush runs (R141) -/

/-- The elements of a flush in its mode's form, with the flags of its conversion (R54). -/
def flushData (mode : Nat) (d : Datum) (es : List W96) : List Byte × W32 :=
  if mode = 1 then (es.flatMap dafBytes, 0)
  else
    let rs := es.map fun v => ofDaf fmtFP32 d.toInt v
    (rs.flatMap fun r => leBytes 4 r.1, rs.foldl (fun a r => a ||| r.2) 0)

/-- The running flush or WZERO does its work: elements read, zeroed under CLEAR, sent or written, with the tail (R141). -/
def runFlush (s : State) (c : Nat) (j : FlushJob) : State :=
  if j.zero then modWga s c fun w => w.clear j.first j.count
  else
    let w := getWga s c
    let es := w.els j.first j.count
    let s := if fdClear j.desc then modWga s c fun w => w.clear j.first j.count else s
    if fdMode j.desc = 0 then
      let s := sendSums s c (fdTarget j.desc) w.datum .wga (field j.desc 16 8) es
      match fdTail j.desc with
      | some b => inject s (tailFlit s c (fdTarget j.desc) b)
      | none => s
    else
      let o := flushData (fdMode j.desc) w.datum es
      let s := raiseFlags s c j.ctx o.2
      let s := match engWrite s c 4 spLocal (fdDst j.desc) o.1 with
        | .ok t => t
        | .error _ => s
      match fdTail j.desc with
      | some b => tailTo s c (engEnds s c [(fdDst j.desc, o.1)]) b
      | none => s

end Sys2Proof.Machine
end

