-- ==== Sys2Proof/Machine/Tile.lean ====
section
/-!
DEFINITION. The tile and drain classes and the drain engine's work on a row (R92 to R118, R125, R126, R138, R257).
-/

namespace Sys2Proof.Machine

def modTiles (s : State) (c : Nat) (f : Tiles → Tiles) : State := modCore s c fun x => { x with tiles := f x.tiles }
def getTiles (s : State) (c : Nat) : Tiles := (getCore s c).tiles

/-- ARR and TILE of an instruction (Table 4-2). -/
def Enc.arr (e : Enc) : BitVec 4 := e.imm.extractLsb' 0 4
def Enc.tile (e : Enc) : Nat := (e.imm.extractLsb' 4 3).toNat

/-- The arrays of a mask, ascending. -/
def arrs (m : BitVec 4) : List Nat := (List.range 4).filter fun i => m.getLsbD i

/-- AT(m, k) is HOLDING, and holds INT32 (Table 4-6). -/
def Tiles.holds (x : Tiles) (m k : Nat) : Bool := x.hold.getLsbD (8 * m + k)
def Tiles.isInt (x : Tiles) (m k : Nat) : Bool := x.int.getLsbD (8 * m + k)

/-- A word of a tile; an EMPTY tile reads +0 (R109). -/
def Tiles.word (x : Tiles) (m k r j : Nat) : W32 := if x.holds m k then sget 0 x.words (tileKey m k r j) else 0

/-- One tile EMPTY (R109). -/
def Tiles.empty (x : Tiles) (m k : Nat) : Tiles :=
  let b := ~~~(BitVec.ofNat 32 (2 ^ (8 * m + k)))
  { x with hold := x.hold &&& b, int := x.int &&& b }

/-- One tile HOLDING with every row +0 (R109). -/
def Tiles.open (x : Tiles) (m k : Nat) (int : Bool) : Tiles :=
  let b := BitVec.ofNat 32 (2 ^ (8 * m + k))
  { x with hold := x.hold ||| b, int := if int then x.int ||| b else x.int &&& ~~~b,
           words := x.words.filter fun w => w.1 / 2048 ≠ m * 8 + k }

/-- The instruction's arrays are owned, else it traps (R96). -/
def owningArrs (e : Enc) (m : BitVec 4) (s : State) (f : State → State) : State :=
  let bad := m &&& ~~~(e.x s).town
  if bad ≠ 0 then e.trap s 0x11 (bad.zeroExtend 64) else f s

/-- ACCRELs whose context has no earlier tile work take effect (Table 4-2). -/
def Tiles.runRels (x : Tiles) : Tiles :=
  let due (r : RelJob) : Bool :=
    !(x.jobs.any fun j => j.ctx = r.ctx && decide (j.sn < r.sn)) && !(x.drains.any fun d => d.ctx = r.ctx && decide (d.sn < r.sn))
  let x' := (x.rels.filter due).foldl (fun (y : Tiles) r => (arrs r.arr).foldl (fun y m => y.empty m r.tile) y) x
  { x' with rels := x.rels.filter fun r => !due r }

/-! ### Tile configuration (R95, R97) -/

/-- Arrays that other contexts of the core own. -/
def othersArrs (x : Site) (k : Nat) : BitVec 4 :=
  (List.range 4).foldl (fun a j => if j = k then a else a ||| (x.ctx j).town) 0

/-- TCFG's change, after its wait; an array owned by another context traps (R97). -/
def attTcfg (e : Enc) (s : State) : Option State :=
  let x := getCore s e.core
  if tileBusy x e.ctx then none
  else
    let m : BitVec 4 := ((e.x s).s e.ra).extractLsb' 0 4
    let clash := m &&& othersArrs x e.ctx
    if clash ≠ 0 then some (e.trap s 0x10 (clash.zeroExtend 64))
    else
      let gone := (x.ctx e.ctx).town &&& ~~~m
      let s := modTiles s e.core fun t => t.emptyArrs gone
      some (retire (modCtx s e.core e.ctx fun y => { y with town := m }) e.core e.ctx)

/-- TCFG (R97). -/
def execTcfg (e : Enc) (s : State) : Out :=
  issue { cls := 6, op := 1, ra := true } e s fun s =>
    let clash := ((e.x s).s e.ra).extractLsb' 0 4 &&& othersArrs (getCore s e.core) e.ctx
    if clash ≠ 0 then e.trap s 0x10 (clash.zeroExtend 64) else orWait (attTcfg e) false .tcfg e s

/-- TSYNC ends when the context's tile work has completed (R95). -/
def attTsync (e : Enc) (s : State) : Option State :=
  if tileBusy (getCore s e.core) e.ctx then none else some (retire s e.core e.ctx)

/-- TSYNC (Table 4-2). -/
def execTsync (e : Enc) (s : State) : Out := issue { cls := 6, op := 3 } e s (orWait (attTsync e) true .tsync e)

/-! ### Tile sequences (R102, R103) -/

def tdAsrc (b : List Byte) : W64 := BitVec.ofNat 64 (field b 0 8)
def tdAscale (b : List Byte) : W64 := BitVec.ofNat 64 (field b 8 8)
def tdWsrc (b : List Byte) : W64 := BitVec.ofNat 64 (field b 16 8)
def tdAsc (b : List Byte) : W32 := BitVec.ofNat 32 (field b 44 4)
def tdWsc (b : List Byte) : W32 := BitVec.ofNat 32 (field b 48 4)
def tdChunks (b : List Byte) : Nat := bits (field b 52 4) 0 24
def tdAfmt (b : List Byte) : Nat := bits (field b 56 2) 0 5
def tdWfmt (b : List Byte) : Nat := bits (field b 56 2) 5 5
def tdM (b : List Byte) : Nat := field b 58 1
/-- Scale bytes of a row (R102). -/
def tdSb (b : List Byte) : Nat := if tdAfmt b = 0x0D then 4 else 2

/-- The formats have a row class and pair under R32 (R103). -/
def tdFmtOk (b : List Byte) : Bool :=
  match rowClass (tdAfmt b), rowClass (tdWfmt b) with
  | some x, some y => x = y
  | _, _ => false

/-- Chunk and row of a TSTART value (Table 4-5). -/
def tsChunk (v : W64) : Nat := bits v.toNat 6 24
def tsRow (v : W64) : Nat := bits v.toNat 0 6
def mkTstart (c t : Nat) : W64 := BitVec.ofNat 64 (c * 64 + t)

/-- The descriptor and TSTART have none of the errors of R103. -/
def tdOk (b : List Byte) (ts : W64) : Bool :=
  let ma := fmtMx (tdAfmt b)
  let fa := fmtFp8 (tdAfmt b)
  let fw := fmtFp8 (tdWfmt b)
  bits (field b 52 4) 24 8 = 0 && bits (field b 56 2) 10 6 = 0 && allZero ((b.drop 59).take 5) &&
  (ma || (field b 8 8 = 0 && field b 32 4 = 0)) && (fa || field b 44 4 = 0) && (fw || field b 48 4 = 0) &&
  decide (1 ≤ tdChunks b) && decide (1 ≤ tdM b) && decide (tdM b ≤ 64) &&
  field b 0 8 % 64 = 0 && field b 16 8 % 64 = 0 && field b 24 4 % 64 = 0 && field b 28 4 % 64 = 0 && field b 36 4 % 64 = 0 &&
  field b 40 4 % 64 = 0 && decide (tsChunk ts < tdChunks b) && decide (tsRow ts < tdM b)

/-- The sequence is of row class 8I. -/
def tdInt (b : List Byte) : Bool := tdAfmt b = 0x04

/-- The state in which earlier tile work leaves AT(m, k): none for EMPTY, else whether it holds INT32 (R109, log 20 [DEDUCED]). -/
def Tiles.after (x : Tiles) (m k : Nat) : Option Bool :=
  let start : Option Bool := if x.holds m k then some (x.isInt m k) else none
  let evs := (x.jobs.filterMap fun j => if j.arr.getLsbD m && j.tile = k then some (j.sn, some (tdInt j.desc)) else none) ++
    (x.drains.filterMap fun d => if d.arr.getLsbD m && d.tile = k && d.rel then some (d.sn, none) else none) ++
    (x.rels.filterMap fun r => if r.arr.getLsbD m && r.tile = k then some (r.sn, none) else none)
  match evs.foldl (fun (a : Option (Nat × Option Bool)) v =>
      match a with
      | none => some v
      | some b => if b.1 < v.1 then some v else some b) none with
  | none => start
  | some v => v.2

/-- TSEQ joins the stream's queue, and its context waits (R95, R104, R106). -/
def startTseq (e : Enc) (b : List Byte) (s : State) : State :=
  let y := e.x s
  let a := y.a e.ra
  let s := modTiles s e.core fun t =>
    { t with nextSn := t.nextSn + 1,
             jobs := t.jobs ++ [{ sn := t.nextSn, ctx := e.ctx, arr := Enc.arr e, tile := Enc.tile e, desc := b, descAddr := a,
                                  chunk := tsChunk y.tstart, row := tsRow y.tstart }] }
  block (modCtx s e.core e.ctx fun y => { y with tdesc := a }) e.core e.ctx true .streaming

/-- TSEQ (R96, R102 to R104, R109). -/
def execTseq (e : Enc) (s : State) : Out :=
  let h : Shape := { cls := 6, op := 2, ra := true, aA := true, imm := 0x7F }
  issue h e s fun s =>
    let a := (e.x s).a e.ra
    if Enc.arr e = 0 then e.trap s 0x01 (encWord h e)
    else owningArrs e (Enc.arr e) s fun s =>
      if a.toNat % 64 ≠ 0 then e.trap s 0x12 a
      else match engRead s e.core spNear a 64 with
        | .error (.unc cls kd num) => uncArith s e.core cls kd num a false
        | .error _ => e.trap s 0x03 a
        | .ok b =>
          let t := getTiles s e.core
          if !tdFmtOk b then e.trap s 0x01 (encWord h e)
          else if !tdOk b (e.x s).tstart then e.trap s 0x12 a
          else if (arrs (Enc.arr e)).any fun m => t.after m (Enc.tile e) = some (!tdInt b) then e.trap s 0x12 a
          else startTseq e b s

/-- ACCREL (Table 4-2, R96). -/
def execAccrel (e : Enc) (s : State) : Out :=
  let h : Shape := { cls := 7, op := 3, imm := 0x7F }
  issue h e s fun s =>
    if Enc.arr e = 0 then e.trap s 0x01 (encWord h e)
    else owningArrs e (Enc.arr e) s fun s =>
      retire (modTiles s e.core fun t =>
        ({ t with nextSn := t.nextSn + 1, rels := t.rels ++ [{ sn := t.nextSn, ctx := e.ctx, arr := Enc.arr e, tile := Enc.tile e }] } : Tiles).runRels)
        e.core e.ctx

/-! ### Rows that are still to be committed (R113) -/

/-- A sequence numbered before sn will still commit row r of one of these tiles, or an ACCREL before sn has still to empty
one (R113, Table 4-2). -/
def rowPending (x : Tiles) (sn : Nat) (m : BitVec 4) (k r : Nat) : Bool :=
  (x.jobs.any fun j =>
    decide (j.sn < sn) && j.tile = k && j.arr &&& m ≠ 0 && decide (r < tdM j.desc) && !j.entered &&
      (decide (j.chunk + 1 < tdChunks j.desc) || decide (j.chunk < tdChunks j.desc) && decide (j.row ≤ r))) ||
  (x.pipe.any fun p => decide (p.sn < sn) && p.row = r &&
    x.jobs.any fun j => j.sn = p.sn && j.tile = k && j.arr &&& m ≠ 0) ||
  (x.rels.any fun j => decide (j.sn < sn) && j.tile = k && j.arr &&& m ≠ 0)

/-- TDRV reads its row once earlier sequences have committed it (Table 4-2). -/
def attTdrv (e : Enc) (s : State) : Option State :=
  let x := getCore s e.core
  let p := if e.imm.getLsbD 0 then 2 else 0
  let k := (e.imm.extractLsb' 1 3).toNat
  let r := (e.imm.extractLsb' 4 6).toNat
  if rowPending x.tiles x.tiles.nextSn (if p = 0 then 0x3 else 0xC) k r then none
  else some (wrV e s (((List.range 32).map fun j => x.tiles.word p k r j) ++ ((List.range 32).map fun j => x.tiles.word (p + 1) k r j)))

/-- TDRV (Table 4-2, R96, R109). -/
def execTdrv (e : Enc) (s : State) : Out :=
  issue { cls := 7, op := 2, rd := true, imm := 0x3FF } e s fun s =>
    owningArrs e (if e.imm.getLsbD 0 then 0xC else 0x3) s fun s =>
      owning e [e.rd.toNat] s fun s => orWait (attTdrv e) false .tdrv e s

/-! ### Epilogue descriptors (R110 to R112, R126) -/

def edStride (b : List Byte) : Int := sfield b 0 4
def edCtl (b : List Byte) : Nat := field b 4 4
def edDest (b : List Byte) : Nat := bits (edCtl b) 0 3
def edScale (b : List Byte) : Bool := bit (edCtl b) 3
def edBias (b : List Byte) : Bool := bit (edCtl b) 4
def edCairn (b : List Byte) : Bool := bit (edCtl b) 5
def edTable (b : List Byte) : Bool := bit (edCtl b) 6
def edSr (b : List Byte) : Bool := bit (edCtl b) 7
def edDfmt (b : List Byte) : Nat := bits (edCtl b) 8 5
def edTail (b : List Byte) : Option Nat := if bit (edCtl b) 13 then some (bits (field b 46 2) 0 13) else none
def edCfmt (b : List Byte) : Nat := bits (edCtl b) 14 5
def edParam (b : List Byte) : Nat := field b 12 4
def edDatum (b : List Byte) : Datum := BitVec.ofNat 10 (edParam b)
def edBiasAddr (b : List Byte) : W64 := BitVec.ofNat 64 (field b 16 8)
def edSplane (b : List Byte) : Int := sfield b 24 4
def edRowElems (b : List Byte) : Nat := field b 28 4

/-- The formats of the descriptor are accepted: a listed DFMT, and stochastic rounding only where R48 has it (R31). -/
def edFmtOk (b : List Byte) : Bool := fmtListed (edDfmt b) && (!edSr b || srAllowed (edDfmt b))

/-- The descriptor breaks no rule of R111 and R126; n is the number of arrays. -/
def edOk (s : State) (c : Nat) (b : List Byte) (n : Nat) : Bool :=
  let d := edDest b
  bits (edCtl b) 19 13 = 0 && decide (d ≤ 2) && bits (field b 44 2) 12 4 = 0 && bits (field b 46 2) 13 3 = 0 &&
  allZero ((b.drop 48).take 16) &&
  (decide (d = 0) == decide (edDfmt b ≠ 0x10)) &&
  (if d ≠ 0 then decide (edParam b < 1024) else if fmtFp8 (edDfmt b) then true else edParam b = 0) &&
  (!fmtMx (edDfmt b) || edRowElems b % 32 = 0) &&
  (!edBias b || (field b 16 8 % 4 = 0 && (spotOf s c spNear (edBiasAddr b) (128 * n)).isSome)) &&
  decide (edCfmt b ≤ 2)

/-- Bytes of a block row of a drain to memory. -/
def edRowBytes (b : List Byte) (n : Nat) : Nat := 32 * n * fmtBits (edDfmt b) / 8

/-- The alignment of destination rows (R112). -/
def edAlign (b : List Byte) : Nat := min 64 (32 * fmtBits (edDfmt b) / 8)

/-- The address of destination row r. -/
def edRow (b : List Byte) (base : W64) (r : Nat) : W64 := addOff base (edStride b * r)

/-- The scale bytes of destination row r (R111). -/
def edScaleAddr (b : List Byte) (base : W64) (r : Nat) : W64 :=
  addOff base (edSplane b + (r * edRowElems b / 32 : Nat))

/-- The WGA element offset of row r's byte offset from a base (R138, R257). -/
def edElem (b : List Byte) (base : Int) (r : Nat) : Int := (base + edStride b * r) / 12

/-- Why a drain of rows into the WGA traps: cause and value (R138). -/
def wgaDrainTrap (s : State) (c : Nat) (b : List Byte) (base : W64) (n rows : Nat) : Option (Nat × W64) :=
  let w := getWga s c
  if edDatum b ≠ w.datum then some (0x18, BitVec.ofNat 64 ((edDatum b).toNat * 65536 + w.datum.toNat))
  else
    ((List.range rows).filterMap fun r =>
      let o : Int := base.toInt + edStride b * r
      let i := o / 12
      if o % 12 ≠ 0 then some (0x13, BitVec.ofInt 64 o)
      else if i < 0 then some (0x19, BitVec.ofInt 64 i)
      else if (wgaSize : Int) < i + (32 * n : Nat) then some (0x19, BitVec.ofNat 64 (firstBeyond i.toNat))
      else none).head?

/-- Why a drain of rows into mesh sums traps (R257). -/
def sumDrainTrap (s : State) (c : Nat) (b : List Byte) (base : W64) (n rows : Nat) : Option (Nat × W64) :=
  let off := bits base.toNat 0 22
  let ok := bits base.toNat 22 10 = 0 && base.toNat / 2 ^ 42 = 0 && off % 12 = 0 && decide (off + 12 ≤ 3145728) &&
    sameParcel s c (bits base.toNat 32 10) && edStride b % 12 = 0
  if !ok then some (0x13, base)
  else
    ((List.range rows).filterMap fun r =>
      let i := edElem b off r
      if i < 0 ∨ (wgaSize : Int) < i + (32 * n : Nat) then some (0x13, edRow b base r) else none).head?

/-- Why a drain of rows to memory traps (R112): the first offending destination address. -/
def memDrainTrap (s : State) (c : Nat) (b : List Byte) (base : W64) (n rows : Nat) : Option (Nat × W64) :=
  ((List.range rows).filterMap fun r =>
    let a := edRow b base r
    let sa := edScaleAddr b base r
    if a.toNat % edAlign b ≠ 0 ∨ (spotOf s c spNoFar a (edRowBytes b n)).isNone then some (0x13, a)
    else if fmtMx (edDfmt b) && (spotOf s c spNoFar sa n).isNone then some (0x13, sa)
    else none).head?

/-- Why the drain traps for its destination. -/
def drainTrap (s : State) (c : Nat) (b : List Byte) (base : W64) (n rows : Nat) : Option (Nat × W64) :=
  match edDest b with
  | 0 => memDrainTrap s c b base n rows
  | 1 => wgaDrainTrap s c b base n rows
  | _ => sumDrainTrap s c b base n rows

/-- Bytes that a drain pushes to the Cairn. -/
def drainCairnBytes (d : DrainJob) : Nat :=
  if edCairn d.ep then (d.rows - d.row) * 32 * (arrs d.arr).length * fmtBits (edCfmt d.ep) / 8 else 0

/-- A TDRN joins the drain queue once it has room, and a TLD before it has loaded its table (R113, R114). See log 59 [DEDUCED]. -/
def attTdrn (b : List Byte) (e : Enc) (s : State) : Option State :=
  let t := getTiles s e.core
  if 4 ≤ t.drains.length ∨ (edTable b ∧ tldWaits (getCore s e.core)) then none
  else
    let y := e.x s
    let d : DrainJob := { sn := t.nextSn, ctx := e.ctx, arr := Enc.arr e, tile := Enc.tile e,
                          rows := (e.imm.extractLsb' 7 7).toNat, rel := e.imm.getLsbD 14, ep := b, base := y.a e.rb, mseed := y.mseed }
    some (retire (modTiles s e.core fun t => { t with nextSn := t.nextSn + 1, drains := t.drains ++ [d] }) e.core e.ctx)

/-- TDRN's checks of ownership of the Cairn and its capacity (R129, R134, R136). -/
def drainCairnTrap (s : State) (e : Enc) (b : List Byte) (n rows : Nat) : Option (Nat × W64) :=
  if !edCairn b then none
  else
    let x := getCore s e.core
    let need := x.cairn.depth + rows * 32 * n * fmtBits (edCfmt b) / 8 + (x.tiles.drains.map drainCairnBytes).sum
    if x.cairn.owner ≠ some e.ctx then some (0x1D, BitVec.ofNat 64 x.cairn.ownBits)
    else if !x.cairn.regionOk then some (0x1E, 0x21)
    else if x.cairn.spillLim.toNat < need then some (0x1A, BitVec.ofNat 64 need)
    else none

/-- TDRN (R96, R110 to R113). -/
def execTdrn (e : Enc) (s : State) : Out :=
  let h : Shape := { cls := 7, op := 1, ra := true, rb := true, aA := true, aB := true, imm := 0x7FFF }
  let rows := (e.imm.extractLsb' 7 7).toNat
  issue h e s fun s =>
    let a := (e.x s).a e.ra
    let n := (arrs (Enc.arr e)).length
    if Enc.arr e = 0 ∨ rows = 0 ∨ 64 < rows then e.trap s 0x01 (encWord h e)
    else owningArrs e (Enc.arr e) s fun s =>
      if a.toNat % 64 ≠ 0 then e.trap s 0x12 a
      else match engRead s e.core spNear a 64 with
        | .error (.unc cls kd num) => uncArith s e.core cls kd num a false
        | .error _ => e.trap s 0x03 a
        | .ok b =>
          if !edFmtOk b then e.trap s 0x01 (encWord h e)
          else if !edOk s e.core b n then e.trap s 0x12 a
          else match drainCairnTrap s e b n rows with
            | some t => e.trap s t.1 t.2
            | none =>
              match drainTrap s e.core b ((e.x s).a e.rb) n rows with
              | some t => e.trap s t.1 t.2
              | none => orWaitDesc (attTdrn b e) (decide (4 ≤ (getTiles s e.core).drains.length)) .tdrn e b s

/-! ### The epilogue on a row (Table 4-12) -/

/-- Steps 1 to 5 of Table 4-12 on one element: the word to convert, whether it is still INT32, and the value pushed. -/
def epiWord (b : List Byte) (img : List Byte) (int : Bool) (bias w : W32) : W32 × Bool × W32 :=
  let toF := int && (edScale b || edBias b || edCairn b || edTable b)
  let v := if toF then toF32 (intVal w.toInt 0) else w
  let v := if edScale b then fmul v (BitVec.ofNat 32 (field b 8 4)) else v
  let v := if edBias b then fadd v bias else v
  let z := v
  let v := if edTable b then tableEval img v else v
  (v, int && !toF, z)

/-- The words of a block row of tile k in the order of its columns, with the INT bit of each array. -/
def blockRow (t : Tiles) (m : BitVec 4) (k r : Nat) : List (W32 × Bool) :=
  (arrs m).flatMap fun a => (List.range 32).map fun j => (t.word a k r j, t.holds a k && t.isInt a k)

/-- The bytes of a row for the Cairn, with flags (R126). -/
def pushRow (b : List Byte) (zs : List W32) : List Byte × W32 :=
  let f := edCfmt b
  if f = 0 then (lanesBytes zs, 0)
  else
    let rs := zs.map fun z => ({ sfmt := 0, dfmt := f } : Conv).elem 0 0 z.toNat
    (pack 16 (rs.map (·.1)), rs.foldl (fun a r => a ||| r.2) 0)

/-- Step 6 on the columns of one array, from element index i on: scale bytes, elements and flags (R110, R111). -/
def epiPart (d : DrainJob) (i : Nat) (vs : List (W32 × Bool)) : List Byte × List Nat × W32 :=
  let b := d.ep
  let sr : Option SrTuple := if edSr b then some {
      seed := d.mseed, stp := BitVec.ofNat 32 (field b 40 4), tag := BitVec.ofNat 12 (field b 44 2), tid := BitVec.ofNat 32 (field b 36 4) }
    else none
  let int := vs.any fun v => v.2
  ({ sfmt := if int then 0x03 else 0x00, dfmt := edDfmt b, scale := BitVec.ofNat 32 (edParam b), d2 := (edDatum b).toInt, sr := sr } : Conv).run
    i (vs.map fun v => (0x7F, v.1.toNat))

/-- Step 6 on the columns of n arrays, each with its own type (R110). -/
def epiParts (d : DrainJob) : Nat → Nat → List (W32 × Bool) → List Byte × List Nat × W32
  | 0, _, _ => ([], [], 0)
  | n + 1, i, vs =>
    let a := epiPart d i (vs.take 32)
    let r := epiParts d n (i + 32) (vs.drop 32)
    (a.1 ++ r.1, a.2.1 ++ r.2.1, a.2.2 ||| r.2.2)

/-- Step 6 on a row (R110). -/
def epiConv (d : DrainJob) (vs : List (W32 × Bool)) : List Byte × List Nat × W32 :=
  epiParts d (arrs d.arr).length (field d.ep 32 4 + d.row * edRowElems d.ep) vs

/-- The bias words of a row's columns (R111). -/
def biasWords (s : State) (c : Nat) (b : List Byte) (n : Nat) : Except AccErr (List W32) :=
  if edBias b then (engRead s c spNear (edBiasAddr b) (128 * n)).map lanesOf else .ok (List.replicate (32 * n) 0)

/-- Step 7 on a row: written, added into the WGA, or sent (Table 4-12, R257). -/
def epiDest (s : State) (c : Nat) (d : DrainJob) (o : List Byte × List Nat × W32) : Except AccErr State :=
  let b := d.ep
  match edDest b with
  | 0 => writeAll s c 3 spNoFar ((edRow b d.base d.row, pack (fmtBits (edDfmt b)) o.2.1) ::
      (if o.1 = [] then [] else [(edScaleAddr b d.base d.row, o.1)]))
  | 1 => .ok (modWga s c fun w => w.addAt (edElem b d.base.toInt d.row).toNat (o.2.1.map fun v => BitVec.ofNat 96 v))
  | _ => .ok (sendSums s c (bits d.base.toNat 32 10) (edDatum b) .wga (edElem b (bits d.base.toNat 0 22) d.row).toNat
      (o.2.1.map fun v => BitVec.ofNat 96 v))

/-- The drain engine's work on the next row of a drain: none while the Cairn has no room for its push. -/
def drainRowWork (s : State) (c : Nat) (d : DrainJob) : Option (Except AccErr State) :=
  let x := getCore s c
  let n := (arrs d.arr).length
  let row := blockRow x.tiles d.arr d.tile d.row
  match biasWords s c d.ep n with
  | .error e => some (.error e)
  | .ok bias =>
    let es := List.zipWith (fun v w => epiWord d.ep (x.table 0) v.2 w v.1) row bias
    let p := pushRow d.ep (es.map fun v => v.2.2)
    if edCairn d.ep && !(getCairn s c).room p.1.length then none
    else
      let s := if edCairn d.ep then cairnPush s c p.1 else s
      let o := epiConv d (es.map fun v => (v.1, v.2.1))
      let fl := o.2.2 ||| (if edCairn d.ep then p.2 else 0)
      some ((epiDest (raiseFlags s c d.ctx fl) c d o).map fun s => bump s (siteBlock (csite s c)) 2 n)

end Sys2Proof.Machine
end

