-- ==== Sys2Proof/Machine/Update.lean ====
section
/-!
DEFINITION. The update class (R152 to R180, Table 6-7): descriptors, programs, the work of a group, gauges, the
Theodolite's contributions and the norm gate.
-/

namespace Sys2Proof.Machine

/-! ### Update-launch descriptors (R154 to R156, R165, Table 6-1) -/

def udProg (b : List Byte) : W64 := BitVec.ofNat 64 (field b 0 8)
def udCtl (b : List Byte) : Nat := field b 8 4
def udPlen (b : List Byte) : Nat := bits (udCtl b) 0 5 + 1
def udLazy (b : List Byte) : Bool := bit (udCtl b) 5
def udGated (b : List Byte) : Bool := bit (udCtl b) 6
def udGkind (b : List Byte) : Nat := bits (udCtl b) 7 2
def udGclr (b : List Byte) : Bool := bit (udCtl b) 9
def udFout (b : List Byte) : Bool := bit (udCtl b) 10
def udFpanel (b : List Byte) : Bool := bit (udCtl b) 11
def udTout (b : List Byte) : Bool := bit (udCtl b) 12
def udGmeas (b : List Byte) : Bool := bit (udCtl b) 13
def udTheo (b : List Byte) : Bool := bit (udCtl b) 14
def udTail (b : List Byte) : Option Nat := if bit (udCtl b) 15 then some (bits (field b 58 2) 0 13) else none
def udOpset (b : List Byte) : Nat := bits (udCtl b) 16 6
def udNslot (b : List Byte) : Nat := bits (udCtl b) 22 4
def udSlotBf (b : List Byte) (k : Nat) : Bool := bit (field b 12 4) k
/-- Bytes of an element of slot k. -/
def udSlotSize (b : List Byte) (k : Nat) : Nat := if udSlotBf b k then 2 else 4
def udGsrc (b : List Byte) : Nat := field b 16 8
def udWaddr (b : List Byte) : W64 := BitVec.ofNat 64 (field b 24 8)
def udRowlen (b : List Byte) : Nat := field b 32 4
def udRows (b : List Byte) : Nat := field b 36 4
def udBitmap (b : List Byte) : W64 := BitVec.ofNat 64 (field b 40 8)
def udTag (b : List Byte) : Nat := bits (field b 48 2) 0 12
def udDw (b : List Byte) : Datum := BitVec.ofNat 10 (field b 50 2)
def udDg (b : List Byte) : Datum := BitVec.ofNat 10 (field b 52 2)
def udDu (b : List Byte) : Datum := BitVec.ofNat 10 (field b 54 2)
def udFfmt (b : List Byte) : Nat := bits (field b 56 2) 0 5
def udTfmt (b : List Byte) : Nat := bits (field b 56 2) 5 5
def udSbase (b : List Byte) : W64 := BitVec.ofNat 64 (field b 64 8)
def udSstride (b : List Byte) : Nat := field b 72 8
def udFdst (b : List Byte) : W64 := BitVec.ofNat 64 (field b 80 8)
def udFas (b : List Byte) : Int := sfield b 88 4
def udFcs (b : List Byte) : Int := sfield b 92 4
def udTdst (b : List Byte) : W64 := BitVec.ofNat 64 (field b 96 8)
def udTas (b : List Byte) : Int := sfield b 104 4
def udTcs (b : List Byte) : Int := sfield b 108 4
def udFsc (b : List Byte) : W32 := BitVec.ofNat 32 (field b 112 4)
def udTsc (b : List Byte) : W32 := BitVec.ofNat 32 (field b 116 4)

/-- A format of a panel copy (R156). -/
def panelFmt (f : Nat) : Bool := f = 0x01 || f = 0x02 || f = 0x04 || fmtFp8 f || (fmtMx f && f ≤ 0x0D)

/-- A format that takes a per-tensor scale (R156). -/
def scaledFmt (f : Nat) : Bool := f = 0x04 || fmtFp8 f

/-- Groups of a launch by its descriptor: all of a dense one, at most these of a lazy one (R158, R165). -/
def udGroups (b : List Byte) : Nat := udRows b * udRowlen b / 64

/-- Reserved fields are zero and every field has a value that Table 6-1 gives it. -/
def udFieldsOk (b : List Byte) : Bool :=
  bits (udCtl b) 26 6 = 0 && field b 12 4 / 256 = 0 && bits (field b 48 2) 12 4 = 0 && bits (field b 50 2) 10 6 = 0 &&
  bits (field b 52 2) 10 6 = 0 && bits (field b 54 2) 10 6 = 0 && bits (field b 56 2) 10 6 = 0 &&
  bits (field b 58 2) 13 3 = 0 && field b 60 4 = 0 && field b 120 8 = 0 && udGkind b ≠ 3 && decide (udNslot b ≤ 8) &&
  (udGkind b ≠ 0 || decide (udGsrc b < 2 ^ 18)) && (!udGclr b || udGkind b = 0)

/-- The shape of the tensor (R155, R165). -/
def udShapeOk (b : List Byte) : Bool :=
  if udLazy b then decide (udRowlen b ≠ 0) && udRowlen b % 64 = 0 && !udTout b && !udFpanel b
  else decide (udRowlen b ≠ 0) && udRowlen b % 128 = 0 && decide (udRows b ≠ 0) && udRows b % 128 = 0 && field b 40 8 = 0

/-- Addresses and strides that must be multiples of 64 (R155, Table 6-1). -/
def udAligned (b : List Byte) : Bool :=
  (udProg b).toNat % 64 = 0 && (udWaddr b).toNat % 64 = 0 && (udSbase b).toNat % 64 = 0 && udSstride b % 64 = 0 &&
  (udGkind b = 0 || udGsrc b % 64 = 0) && (udBitmap b).toNat % 64 = 0 && (udFdst b).toNat % 64 = 0 &&
  (udTdst b).toNat % 64 = 0 && udFas b % 64 = 0 && udFcs b % 64 = 0 && udTas b % 64 = 0 && udTcs b % 64 = 0

/-- The fields of the two copies (R156). -/
def udCopiesOk (b : List Byte) : Bool :=
  (if udFout b then (if udFpanel b then panelFmt (udFfmt b) else decide (udFfmt b ≤ 0x02))
   else udFfmt b = 0 && !udFpanel b && field b 80 16 = 0 && field b 112 4 = 0) &&
  (if udTout b then panelFmt (udTfmt b) else udTfmt b = 0 && field b 96 16 = 0 && field b 116 4 = 0) &&
  (scaledFmt (udFfmt b) || field b 112 4 = 0) && (scaledFmt (udTfmt b) || field b 116 4 = 0)

/-- The descriptor and UPOS have none of the errors of cause 0x20 (Table 6-13). -/
def udOk (b : List Byte) (upos : Nat) : Bool :=
  udFieldsOk b && udShapeOk b && udAligned b && udCopiesOk b && decide (upos ≤ udGroups b)

/-! ### Update programs (R161 to R163) -/

def uiOp (w : W32) : Nat := (w.extractLsb' 27 5).toNat
def uiD (w : W32) : Nat := (w.extractLsb' 23 4).toNat
def uiA (w : W32) : Nat := (w.extractLsb' 18 5).toNat
def uiB (w : W32) : Nat := (w.extractLsb' 13 5).toNat
def uiC (w : W32) : Nat := (w.extractLsb' 8 5).toNat
def uiSlot (w : W32) : Nat := (w.extractLsb' 0 4).toNat

/-- The fields an operation uses: D, A, B, C, SLOT (Table 6-3); none for an unlisted one. -/
def uiUses (op : Nat) : Option (Bool × Bool × Bool × Bool × Bool) :=
  if op = 0x01 then some (true, false, false, false, true)
  else if op = 0x02 then some (false, true, false, false, true)
  else if op = 0x03 ∨ op = 0x04 ∨ op = 0x05 ∨ op = 0x0C ∨ op = 0x0D then some (true, true, true, false, false)
  else if op = 0x06 ∨ op = 0x10 ∨ op = 0x11 then some (true, true, true, true, false)
  else if (0x07 ≤ op ∧ op ≤ 0x0B) ∨ op = 0x0E ∨ op = 0x0F then some (true, true, false, false, false)
  else none

/-- A selector's value is there: a scalar operand, or a temporary already written. -/
def selOk (written : List Nat) (k : Nat) : Bool := 16 ≤ k || k ∈ written

/-- SLOT is allowed for an LDS, or for an STS (Table 6-4, R163). -/
def slotOk (nslot : Nat) (sts : Bool) (k : Nat) : Bool := decide (k < nslot ∧ k < 8) || k = 9 || (!sts && (k = 8 || k = 10 || k = 11))

/-- The word passes R163 after the temporaries written and the slots stored so far. -/
def uiOk (nslot : Nat) (written stored : List Nat) (w : W32) : Bool :=
  match uiUses (uiOp w) with
  | none => false
  | some (d, a, b, c, sl) =>
    w.extractLsb' 4 4 = 0 && (d || uiD w = 0) && (a || uiA w = 0) && (b || uiB w = 0) && (c || uiC w = 0) && (sl || uiSlot w = 0) &&
    (!a || selOk written (uiA w)) && (!b || selOk written (uiB w)) && (!c || selOk written (uiC w)) &&
    (!sl || slotOk nslot (uiOp w = 0x02) (uiSlot w)) && !(uiOp w = 0x02 && uiSlot w ∈ stored)

/-- The first instruction that fails R163, with its index. -/
def progBad (nslot : Nat) : Nat → List Nat → List Nat → List W32 → Option (Nat × W32)
  | _, _, _, [] => none
  | i, written, stored, w :: t =>
    if uiOk nslot written stored w then
      progBad nslot (i + 1) (if uiOp w = 0x02 then written else uiD w :: written)
        (if uiOp w = 0x02 then uiSlot w :: stored else stored) t
    else some (i, w)

/-- The operand that a selector names. -/
def selVal (ops : Nat → W32) (ts : List W32) (k : Nat) : W32 := if k < 16 then ts.getD k 0 else ops (k - 16)

/-- SGN (Table 6-3). -/
def fsgn (a : W32) : W32 :=
  if fnan a then canonNaN else if (ofF32 a).isZero then a else if a.getLsbD 31 then 0xBF800000 else f32one

/-- The result of an operation but LDS and STS (Table 6-3, R162). -/
def uiResult (op : Nat) (a b c : W32) : W32 :=
  match op with
  | 0x03 => fadd a b
  | 0x04 => fsub a b
  | 0x05 => fmul a b
  | 0x06 => ffma a b c
  | 0x07 => frcp a
  | 0x08 => fsqrt a
  | 0x09 => frsqrt a
  | 0x0A => fexp2 a
  | 0x0B => flog2 a
  | 0x0C => fmax a b
  | 0x0D => fmin a b
  | 0x0E => fabs a
  | 0x0F => fsgn a
  | 0x10 => if fnz c then a else b
  | _ => fmin (fmax a b) c

/-- A program on one element: the values stored, by SLOT (R161, R162); src gives what LDS reads. -/
def runProg (ops src : Nat → W32) (prog : List W32) : List (Nat × W32) :=
  (prog.foldl (fun (st : List W32 × List (Nat × W32)) w =>
    if uiOp w = 0x01 then (st.1.set (uiD w) (src (uiSlot w)), st.2)
    else if uiOp w = 0x02 then (st.1, st.2 ++ [(uiSlot w, selVal ops st.1 (uiA w))])
    else (st.1.set (uiD w) (uiResult (uiOp w) (selVal ops st.1 (uiA w)) (selVal ops st.1 (uiB w)) (selVal ops st.1 (uiC w))), st.2))
    (List.replicate 16 0, [])).2

/-- What a program stored in a slot, if it did. -/
def storedIn (o : List (Nat × W32)) (k : Nat) : Option W32 := (o.find? fun x => x.1 = k).map (·.2)

/-! ### Where a group lies (R155, R158, R165) -/

/-- A group: its master row, its first element, its first element's places in the master (as an address) and in the
state and copies, and its first gradient element. last says that it ends its lazy row. -/
structure UGroup where
  row : Nat
  e0 : Nat
  maddr : W64
  idx : Nat
  gidx : Nat
  last : Bool := false
  deriving DecidableEq, Repr

/-- Group g of a dense launch. -/
def denseGroup (b : List Byte) (g : Nat) : UGroup :=
  let cols := udRowlen b / 128
  let p := g / 256
  let q := g % 256
  let n := 128 * (p / cols) + q / 2
  let e0 := 128 * (p % cols) + 64 * (q % 2)
  let i := n * udRowlen b + e0
  { row := n, e0 := e0, maddr := udWaddr b + BitVec.ofNat 64 (4 * i), idx := i, gidx := i }

/-- The address of a lazy row's header. -/
def lazyRow (b : List Byte) (r : Nat) : W64 := udWaddr b + BitVec.ofNat 64 (r * (64 + 4 * udRowlen b))

/-- The rows that a bitmap's bytes touch, ascending. -/
def touchedRows (rows : Nat) (bm : List Byte) : List Nat :=
  (bm.zipIdx.flatMap fun x => ((List.range 8).filter fun i => x.1.getLsbD i).map fun i => 8 * x.2 + i).filter fun r => r < rows

/-- Group g of a lazy launch, given the touched rows; none past the last. -/
def lazyGroup (b : List Byte) (rows : List Nat) (g : Nat) : Option UGroup :=
  let per := udRowlen b / 64
  (rows[g / per]?).map fun r =>
    let e0 := 64 * (g % per)
    { row := r, e0 := e0, maddr := lazyRow b r + BitVec.ofNat 64 (64 + 4 * e0), idx := r * udRowlen b + e0,
      gidx := g / per * udRowlen b + e0, last := g % per + 1 = per }

/-! ### The copies (R123, R156) -/

/-- A final master value in a copy's format, with its flags (R44, R45, R156). -/
def copyElem (fmt : Nat) (sc : W32) (w : W32) : Nat × W32 :=
  if scaledFmt fmt then
    if scaleOk sc then toElem fmt ((ofF32 w).div (ofF32 sc))
    else let r := toElem fmt .nan; (r.1, r.2 ||| fNV)
  else toElem fmt (ofF32 w)

/-- Elements of a 64-byte panel row. -/
def perRow (fmt : Nat) : Nat := 512 / fmtBits fmt

/-- A piece of a panel's lane row: elements from position p of lane l, with the scale bytes that belong to it, and the
unused ones as zero (R156). -/
def panelPiece (base : W64) (l p fmt : Nat) (sc : W32) (ws : List W32) : List Wr × W32 :=
  let at1 := base + BitVec.ofNat 64 (64 * l + p * fmtBits fmt / 8)
  let at2 := base + BitVec.ofNat 64 (2048 + 4 * l + p / 32)
  if fmtMx fmt then
    let o := ({ sfmt := 0, dfmt := fmt } : Conv).blocks ((ws.length + 31) / 32) 0 (ws.map ofF32)
    let rest := if p + ws.length = perRow fmt then zeros (4 - perRow fmt / 32) else []
    ([(at1, pack (fmtBits fmt) o.2.1), (at2, o.1 ++ rest)], o.2.2)
  else
    let os := ws.map (copyElem fmt sc)
    ((at1, pack (fmtBits fmt) (os.map (·.1))) :: (if p = 0 then [(at2, zeros 4)] else []), os.foldl (fun a o => a ||| o.2) 0)

/-- Several writes with their flags as one. -/
def joinWr (l : List (List Wr × W32)) : List Wr × W32 := (l.flatMap (·.1), l.foldl (fun a x => a ||| x.2) 0)

/-- The F copy of a group (R156). -/
def fCopy (b : List Byte) (g : UGroup) (ws : List W32) : List Wr × W32 :=
  let f := udFfmt b
  if !udFout b then ([], 0)
  else if udFpanel b then
    let n := min 64 (perRow f)
    joinWr ((List.range (64 / n)).map fun i =>
      let e := g.e0 + n * i
      let base := addOff (udFdst b) ((g.row / 32 : Nat) * udFas b + (e / perRow f : Nat) * udFcs b)
      panelPiece base (g.row % 32) (e % perRow f) f (udFsc b) ((ws.drop (n * i)).take n))
  else
    let os := ws.map (copyElem f 0)
    ([(udFdst b + BitVec.ofNat 64 (g.idx * fmtBits f / 8), pack (fmtBits f) (os.map (·.1)))], os.foldl (fun a o => a ||| o.2) 0)

/-- The T copy of a group; prior holds the 31 rows before it where it ends an MX block (R156, R159). -/
def tCopy (b : List Byte) (g : UGroup) (prior : List (List W32)) (ws : List W32) : List Wr × W32 :=
  let f := udTfmt b
  if !udTout b || (fmtMx f && g.row % 32 ≠ 31) then ([], 0)
  else
    let n0 := if fmtMx f then g.row - 31 else g.row
    joinWr (ws.zipIdx.map fun x =>
      let e := g.e0 + x.2
      let base := addOff (udTdst b) ((e / 32 : Nat) * udTas b + (n0 / perRow f : Nat) * udTcs b)
      panelPiece base (e % 32) (n0 % perRow f) f (udTsc b) ((if fmtMx f then prior.map fun r => r.getD x.2 0 else []) ++ [x.1]))

/-! ### The Theodolite (R171, R172) -/

/-- A contribution to a sum: its DAF96 value under its datum, and its DX and NAN (R172). -/
def ThSum.contribute (x : ThSum) (d : Datum) (v : W96) (dx nan : Bool) : ThSum :=
  let x := { x with dx := x.dx || dx, nan := x.nan || nan }
  if !x.touched then { x with touched := true, datum := d, sum := v }
  else if x.datum = d then { x with sum := x.sum + v }
  else { x with dmis := true }

/-- Squares of exact values added to sum k (0 SW, 1 SG, 2 SU) of a tag (R171). -/
def theoAdd (m : SMap ThSum) (tag k : Nat) (d : Datum) (vs : List FV) : SMap ThSum :=
  vs.foldl (fun m v =>
    let o := toDaf d.toInt (v.mul v)
    smod {} m (tag * 3 + k) fun x => x.contribute d o.1 (o.2 &&& fDX ≠ 0) (o.2 &&& fNV ≠ 0)) m

/-! ### The work of a group (R159, R179) -/

/-- An access that did not deliver: why, at what address, and whether it was a write. -/
abbrev UErr := AccErr × W64 × Bool

/-- A read of the engine. -/
def uRead (s : State) (c : Nat) (a : W64) (n : Nat) : Except UErr (List Byte) :=
  (engRead s c spAll a n).mapError fun e => (e, a, false)

/-- The writes of a group, all or none. -/
def uWrites (s : State) (c : Nat) : List Wr → Except UErr State
  | [] => .ok s
  | w :: t =>
    match engWrite s c 5 spAll w.1 w.2 with
    | .error e => .error (e, w.1, true)
    | .ok s => uWrites s c t

/-- BF16 words widened to FP32, a NaN to the canonical one (R35, R44). -/
def widen16 (bs : List Byte) : List W32 := (unpack 16 bs).map fun v =>
  let w : W32 := BitVec.ofNat 32 (v * 65536)
  if fnan w then canonNaN else w

/-- State slots 0 to n - 1 of a group as read. -/
def readSlots (s : State) (c : Nat) (b : List Byte) (g : UGroup) : List Nat → Except UErr (List (List W32))
  | [] => .ok []
  | k :: t => do
    let z := udSlotSize b k
    let bs ← uRead s c (udSbase b + BitVec.ofNat 64 (k * udSstride b + g.idx * z)) (64 * z)
    let rest ← readSlots s c b g t
    return (if z = 2 then widen16 bs else lanesOf bs) :: rest

/-- The gradients of a group, with the flags of their conversion (R54, R155). -/
def readGrad (s : State) (c : Nat) (b : List Byte) (g : UGroup) : Except UErr (List W32 × W32) := do
  if udGkind b = 0 then
    let w := getWga s c
    let rs := (w.els (udGsrc b + g.gidx) 64).map fun v => ofDaf fmtFP32 w.datum.toInt v
    return (rs.map fun r => BitVec.ofNat 32 r.1, rs.foldl (fun a r => a ||| r.2) 0)
  else if udGkind b = 1 then
    let bs ← uRead s c (BitVec.ofNat 64 (udGsrc b + 4 * g.gidx)) 256
    return (lanesOf bs, 0)
  else
    let bs ← uRead s c (BitVec.ofNat 64 (udGsrc b + 2 * g.gidx)) 128
    return (widen16 bs, 0)

/-- The final masters of the rows before an MX block's last row (R159). -/
def readPrior (s : State) (c : Nat) (b : List Byte) (g : UGroup) : List Nat → Except UErr (List (List W32))
  | [] => .ok []
  | r :: t => do
    let bs ← uRead s c (udWaddr b + BitVec.ofNat 64 (4 * (r * udRowlen b + g.e0))) 256
    let rest ← readPrior s c b g t
    return lanesOf bs :: rest

/-- The rows whose masters a group's T copy reads besides its own. -/
def priorRows (b : List Byte) (g : UGroup) : List Nat :=
  if udTout b && fmtMx (udTfmt b) && g.row % 32 = 31 then (List.range 31).map fun i => g.row - 31 + i else []

/-- The step difference of a lazy row (R165); 1.0 in a dense launch. -/
def stepDiff (s : State) (c : Nat) (b : List Byte) (l : Launch) (g : UGroup) : Except UErr W32 := do
  if udLazy b then
    let bs ← uRead s c (lazyRow b g.row) 4
    return toF32 (intVal (l.stepNo - BitVec.ofNat 32 (leNat bs)).toNat 0)
  else return f32one

/-- The slot's bytes that a group stores. -/
def slotWrites (b : List Byte) (g : UGroup) (outs : List (List (Nat × W32))) (k : Nat) : List Wr :=
  let vs := outs.filterMap fun o => storedIn o k
  if vs = [] then []
  else
    let z := udSlotSize b k
    [(udSbase b + BitVec.ofNat 64 (k * udSstride b + g.idx * z),
      if z = 2 then vs.flatMap fun v => leBytes 2 (fmtBF16.round (ofF32 v)) else lanesBytes vs)]

/-- The lines of far memory that a group's reads have used (R191). -/
def groupSeen (s : State) (c : Nat) (b : List Byte) (g : UGroup) : State :=
  let slot (k : Nat) : W64 × Nat := (udSbase b + BitVec.ofNat 64 (k * udSstride b + g.idx * udSlotSize b k), 64 * udSlotSize b k)
  let grad : List (W64 × Nat) := if udGkind b = 0 then [] else
    let z := if udGkind b = 1 then 4 else 2
    [(BitVec.ofNat 64 (udGsrc b + z * g.gidx), 64 * z)]
  (((g.maddr, 256) :: (List.range (udNslot b)).map slot) ++ grad ++
    (priorRows b g).map fun r => (udWaddr b + BitVec.ofNat 64 (4 * (r * udRowlen b + g.e0)), 256)).foldl
      (fun (s : State) (a : W64 × Nat) => engSeen s c a.1 a.2) s

/-- The endpoints that a launch's writes have gone to (R258). -/
def addEnds (s : State) (c k : Nat) (ds : List Nat) : State :=
  modCore s c fun x => { x with launches := x.launches.map fun l => if l.ctx = k then { l with ends := ds.foldl nins l.ends } else l }

/-- A group reads, computes and commits all its effects, or none (R159, R171). -/
def groupWork (s : State) (c : Nat) (l : Launch) (g : UGroup) : Except UErr State := do
  let b := l.desc
  let wbs ← uRead s c g.maddr 256
  let slots ← readSlots s c b g (List.range (udNslot b))
  let gr ← readGrad s c b g
  let d ← stepDiff s c b l g
  let prior ← readPrior s c b g (priorRows b g)
  let x := getCore s c
  let ws := lanesOf wbs
  let k : W32 := if udGated b then x.gate.factor else f32one
  let ops (i : Nat) : W32 := sget 0 x.operands (udOpset b * 16 + i)
  let outs := (List.range 64).map fun j =>
    runProg ops (fun sl => if sl < 8 then (slots.getD sl []).getD j 0 else if sl = 8 then gr.1.getD j 0 else if sl = 9 then ws.getD j 0
      else if sl = 10 then k else d) l.prog
  let fin := List.zipWith (fun o w => (storedIn o 9).getD w) outs ws
  let f := fCopy b g fin
  let t := tCopy b g prior fin
  let master : List Wr := if outs.all fun o => (storedIn o 9).isSome then [(g.maddr, lanesBytes fin)] else []
  let head : List Wr := if udLazy b && g.last then [(lazyRow b g.row, leBytes 4 l.stepNo.toNat)] else []
  let out := master ++ (List.range 8).flatMap (slotWrites b g outs) ++ head ++ f.1 ++ t.1
  let s ← uWrites (groupSeen s c b g) c out
  let s := addEnds s c l.ctx (engEnds s c out)
  let s := raiseFlags s c l.ctx (gr.2 ||| f.2 ||| t.2)
  let s := if udGclr b then modWga s c fun w => w.clear (udGsrc b + g.gidx) 64 else s
  let m := (getCore s c).theo
  let m := if udGmeas b then theoAdd m (udTag b) 1 (udDg b) (gr.1.map ofF32) else m
  let m := if udTheo b then
      theoAdd (theoAdd m (udTag b) 0 (udDw b) (ws.map ofF32)) (udTag b) 2 (udDu b)
        (List.zipWith (fun w' w => (ofF32 w').add (ofF32 w).negate) fin ws)
    else m
  return modCore s c fun x => { x with theo := m }

/-- The touch bitmap of a lazy launch (R165). -/
def readBitmap (s : State) (c : Nat) (b : List Byte) : Except UErr (List Byte) :=
  if udRows b = 0 then .ok [] else uRead s c (udBitmap b) ((udRows b + 7) / 8)

/-- The group that a launch commits next; none when no more remain. A lazy one reads its bitmap (R165). -/
def nextGroup (s : State) (c : Nat) (l : Launch) : Except UErr (Option UGroup) := do
  let b := l.desc
  if udLazy b then
    let bm ← readBitmap s c b
    return lazyGroup b (touchedRows (udRows b) bm) l.group
  else return if l.group < udGroups b then some (denseGroup b l.group) else none

/-! ### Gauges (R166) -/

/-- CLIP, THEO, tag and DG of a UGAUGE. -/
def ugClip (w : W32) : Bool := w.getLsbD 12
def ugTheo (w : W32) : Bool := w.getLsbD 13
def ugTag (w : W32) : Nat := (w.extractLsb' 0 12).toNat
def ugDg (w : W32) : Datum := w.extractLsb' 14 10

/-- Groups of a gauge: 64 elements each, the last perhaps fewer. -/
def ugGroups (l : Launch) : Nat := (l.count + 63) / 64

/-- A gauge adds the squares of its next elements (R166). -/
def gaugeWork (s : State) (c : Nat) (l : Launch) : State :=
  let x := getCore s c
  let es := x.wga.els (l.first + 64 * l.group) (min 64 (l.count - 64 * l.group))
  let rs := es.map fun v => ofDaf fmtFP32 x.wga.datum.toInt v
  let vs := rs.map fun r => ofF32 (BitVec.ofNat 32 r.1)
  let cd : Datum := x.gate.cfg.extractLsb' 0 10
  let qs := if ugClip l.imm then vs.map fun v => toDaf cd.toInt (v.mul v) else []
  let s := raiseFlags s c l.ctx (rs.foldl (fun a r => a ||| r.2) 0 ||| qs.foldl (fun a q => a ||| q.2) 0)
  modCore s c fun x =>
    { x with gate := { x.gate with clipss := qs.foldl (fun a q => a + q.1) x.gate.clipss },
             theo := if ugTheo l.imm then theoAdd x.theo (ugTag l.imm) 1 (ugDg l.imm) vs else x.theo }

/-! ### The queue of launches (R152, R157, R169) -/

/-- The channel that carries the T copy of a context's launch (R157). -/
def tChan (ctx : Nat) : Nat := 2 * ctx + 1

/-- The launch writes a T copy. -/
def Launch.tout (l : Launch) : Bool := !l.gauge && udTout l.desc
/-- The launch waits at the norm gate. -/
def Launch.gated (l : Launch) : Bool := !l.gauge && udGated l.desc

/-- The launch is able to start: its channel is idle and its gate is open (R152, R157, R169). -/
def launchAble (x : Site) (l : Launch) : Bool :=
  (!l.tout || ((x.chan (tChan l.ctx)).st = .idle && !(x.chan (tChan l.ctx)).tcopy)) && (!l.gated || x.gate.isOpen)

/-- Every waiting launch notes since when it is able to start, and its USTAT says what it waits for (Table 6-9). -/
def refreshLaunches (x : Site) : Site :=
  let top := (x.launches.map (·.since)).foldl max 0
  let ls := x.launches.zipIdx.map fun y =>
    let l := y.1
    if l.st = .running then l
    else { l with since := if launchAble x l then (if l.since = 0 then top + 1 + y.2 else l.since) else 0,
                  st := if l.gated && !x.gate.isOpen then .gate else .engine }
  ls.foldl (fun x l => x.modCtx l.ctx fun y =>
    { y with ustat := BitVec.ofNat 4 (nb l.gauge 3 + (match l.st with | .engine => 1 | .gate => 2 | .running => 3)) })
    { x with launches := ls }

/-- A launch joins the engine's queue and its context waits (R152). -/
def queueLaunch (e : Enc) (l : Launch) (s : State) : State :=
  let s := modCore s e.core fun x => refreshLaunches { x with launches := x.launches ++ [l] }
  block s e.core e.ctx true .launch

/-- The update phase of the parcel's step has begun (R281). -/
def beginUpdate (s : State) (c : Nat) : State :=
  match coreParcel s c with
  | none => s
  | some p => modPcl s p fun x => { x with updateBegun := true }

/-- ULAUNCH once its descriptor has passed: its program is read and checked, and it is queued (R154, R163, R182). UDESC
stays that of the launch running or last interrupted (Table 6-8). -/
def launchProg (e : Enc) (a : W64) (b : List Byte) (s : State) : State :=
  let y := e.x s
  match engRead s e.core spNear (udProg b) (4 * udPlen b) with
  | .error (.unc cls kd num) => uncArith s e.core cls kd num (udProg b) true
  | .error _ => e.trap s 0x20 a
  | .ok pb =>
    let prog := lanesOf pb
    match progBad (udNslot b) 0 [] [] prog with
    | some w => e.trap s 0x21 (BitVec.ofNat 64 (w.1 * 2 ^ 32 + w.2.toNat))
    | none =>
      unlessHeld e s fun s =>
        queueLaunch e { ctx := e.ctx, gauge := false, st := .engine, desc := b, prog := prog,
                        stepNo := (y.s e.rb).extractLsb' 0 32, group := y.upos.toNat, descAddr := a } s

/-- The WGA elements that a launch of n groups reads from GSRC on lie within it (R155), and UPOS within the launch (R176). -/
def launchRange (e : Enc) (a : W64) (b : List Byte) (n : Nat) (s : State) : State :=
  if n < (e.x s).upos.toNat then e.trap s 0x20 a
  else if udGkind b = 0 ∧ wgaSize < udGsrc b + 64 * n then e.trap s 0x19 (BitVec.ofNat 64 (firstBeyond (udGsrc b)))
  else launchProg e a b s

/-- A ULAUNCH whose descriptor has no error in itself: a dense one has all its groups, a lazy one those of the rows that
its bitmap touches. A page fault on the bitmap holds the context as a group's would (R155, R165, R179). See log 62 [DEDUCED]. -/
def launchSized (e : Enc) (a : W64) (b : List Byte) (s : State) : State :=
  if !udLazy b then launchRange e a b (udGroups b) s
  else match readBitmap s e.core b with
    | .ok bm => launchRange e a b ((touchedRows (udRows b) bm).length * (udRowlen b / 64)) s
    | .error (.reach, _) => e.trap s 0x20 a
    | .error (.unc cls kd num, x, _) => uncArith s e.core cls kd num x true
    | .error (.fault k f, x, _) =>
      let s := modCtx (giveUp s e.core e.ctx) e.core e.ctx fun y => { y with st := .held, wait := .fault x }
      addFault s (coreParcelNum s e.core) f k { requester := 3, index := e.ctx, core := e.core, addr := x, write := false }
    | .error (.snoop n, _) => block (startSnoop s n false) e.core e.ctx true (.op .ulaunch e)
    | .error (.paused, _) => block s e.core e.ctx true (.op .ulaunch e)

/-- ULAUNCH reads its descriptor and is queued, or does not start (R154 to R156, Table 6-13). -/
def launchAt (e : Enc) (s : State) : State :=
  let a := (e.x s).a e.ra
  if a.toNat % 64 ≠ 0 then e.trap s 0x20 a
  else match engRead s e.core spNear a 128 with
    | .error (.unc cls kd num) => uncArith s e.core cls kd num a true
    | .error _ => e.trap s 0x03 a
    | .ok b =>
      if !udOk b (e.x s).upos.toNat then e.trap s 0x20 a
      else launchSized e a b s

/-- ULAUNCH (R154 to R156, R163, Table 6-13). See log 62 [DEDUCED]. -/
def execUlaunch (e : Enc) (s : State) : Out :=
  issue { cls := 0xA, op := 1, ra := true, rb := true, aA := true } e s fun s => launchAt e (beginUpdate s e.core)

/-- UGAUGE (R166, R174). -/
def execUgauge (e : Enc) (s : State) : Out :=
  let h : Shape := { cls := 0xA, op := 2, ra := true, rb := true, imm := 0xFFFFFF }
  issue h e s fun s =>
    let s := beginUpdate s e.core
    let y := e.x s
    let i := (y.s e.ra).toNat
    let n := (y.s e.rb).toNat
    if n = 0 ∨ !(ugClip e.imm || ugTheo e.imm) then e.trap s 0x01 (encWord h e)
    else if wgaSize < i + n then e.trap s 0x19 (BitVec.ofNat 64 (firstBeyond i))
    else queueLaunch e { ctx := e.ctx, gauge := true, st := .engine, desc := [], prog := [], stepNo := 0, group := y.upos.toNat,
                         first := i, count := n, imm := e.imm } s

/-! ### The norm gate (R167 to R169) -/

/-- NGSEND leaves once the site takes its flits: CLIPSS goes to the gate core's NGACC with a tail, and is zeroed (R167). -/
def attNgsend (e : Enc) (s : State) : Option State :=
  let v := (e.x s).s e.ra
  if 768 ≤ v.toNat then some (e.trap s 0x03 v)
  else if !canInject s e.core 2 then none
  else
    let g := (getCore s e.core).gate
    let s := sendSums s e.core v.toNat (g.cfg.extractLsb' 0 10) .ngacc 0 [g.clipss]
    let s := inject s (tailFlit s e.core v.toNat (e.imm.extractLsb' 0 13).toNat)
    some (retire (modCore s e.core fun x => { x with gate := { x.gate with clipss := 0 } }) e.core e.ctx)

/-- NGSEND (R167). See log 63 [DEDUCED]. -/
def execNgsend (e : Enc) (s : State) : Out :=
  issue { cls := 0xA, op := 3, ra := true, imm := 0x1FFF } e s (orWait (attNgsend e) true .ngsend e)

/-- The rows of an entry's rectangle on a die, first and last; none if it has none there. -/
def rectRows (m : McEntry) (die : Nat) : Option (Nat × Nat) :=
  let lo := max m.y0 (20 * die)
  let hi := min m.y1 (20 * die + 19)
  if lo ≤ hi then some (lo, hi) else none

/-- The legs on which a multicast flit leaves its source (R254). -/
def mcLegs (src : Nat) (m : McEntry) : List McLeg :=
  (if (rectRows m (siteDie src)).isSome then [McLeg.row] else []) ++
  (if (rectRows m (1 - siteDie src)).isSome then [McLeg.transit] else [])

/-- A cast's set: every core of the parcel, wherever its site (R168). -/
def castEntry (s : State) (p : Nat) : McEntry := { x0 := 0, x1 := 19, y0 := 0, y1 := 39, bmen := true, beds := (getPcl s p).beds }

/-- The cast's flit on one leg of its tree (R168, R254). -/
def castFlit (s : State) (c : Nat) (g : NormGate) (l : McLeg) : Flit :=
  { src := csite s c, dst := 0, vc := 3, kind := .mcastWrite, parcel := coreParcelNum s c, pv := true, addr := 0,
    datum := g.cfg.extractLsb' 0 10, payload := dafBytes g.ngacc, pos := csite s c, what := .gate, leg := l,
    mc := some (castEntry s (coreParcelNum s c)) }

/-- NGCAST leaves once the site takes its flits: NGACC with the core's datum goes to the gate of every core (R168). -/
def attNgcast (e : Enc) (s : State) : Option State :=
  if !canInject s e.core 3 then none
  else
    let g := (getCore s e.core).gate
    let ls := mcLegs (csite s e.core) (castEntry s (coreParcelNum s e.core))
    some (retire (ls.foldl (fun t l => inject t (castFlit s e.core g l)) s) e.core e.ctx)

/-- NGCAST (R168). See log 63 [DEDUCED]. -/
def execNgcast (e : Enc) (s : State) : Out := issue { cls := 0xA, op := 4 } e s (orWait (attNgcast e) true .ngcast e)

/-- NGWAIT ends when the gate is open, with FACTOR (R169). -/
def attNgwait (e : Enc) (s : State) : Option State :=
  let g := (getCore s e.core).gate
  if g.isOpen then some (wrS e s (g.factor.zeroExtend 64)) else none

/-- NGWAIT (R169). -/
def execNgwait (e : Enc) (s : State) : Out := issue { cls := 0xA, op := 5, rd := true } e s (orWait (attNgwait e) true .ngwait e)

/-- A cast value opens a closed gate (R168). -/
def NormGate.receive (g : NormGate) (d : Datum) (v : W96) : NormGate :=
  if g.isOpen then { g with dup := true }
  else
    let r := ofDaf fmtFP32 d.toInt v
    let nrm := fsqrt (BitVec.ofNat 32 r.1)
    let cmax : W32 := g.cfg.extractLsb' 32 32
    { g with norm := nrm, ovf := g.ovf || r.2 ≠ 0, isOpen := true,
             factor := if !fnan nrm && !fnan cmax && !flt cmax nrm then f32one else fdiv cmax nrm }

end Sys2Proof.Machine
end

