-- ==== Sys2Proof/Machine/Wake.lean ====
section
/-!
DEFINITION. The end of waits: when something has happened at a core, every context of it that waits to finish an
instruction tries again (R60, R62), and its launches note whether they can start (R152).
-/

namespace Sys2Proof.Machine

/-- The instruction that a context waits to finish tries again; none when it has to wait on. -/
def attempt (o : WaitOp) (e : Enc) (s : State) : Option State :=
  match o with
  | .ld => attLd ((accSize e).getD 1) (e.md.getLsbD 4) e s
  | .st => attSt ((accSize e).getD 1) e s
  | .arrive => attUpdate (opArrive e) e s
  | .addB => attUpdate (opAdd e) e s
  | .setB => attUpdate (opSet e) e s
  | .cpy => attCpy e s
  | .cpyw => attCpyw e s
  | .tcfg => attTcfg e s
  | .tsync => attTsync e s
  | .tdrv => attTdrv e s
  | .cpush => attCpush e s
  | .cpopv => attCpopv e s
  | .cpop => attCpop e s
  | .creset => attCreset e s
  | .winit => attWinit e s
  | .wzero => attWzero e s
  | .wsync => attWsync e s
  | .ngwait => attNgwait e s
  | .halt => attHalt e s
  | .tld => attTld e s
  | .teval => attTeval e s
  | .tevalm => attTevalm e s
  | .vld => attVld false e s
  | .vldd => attVld true e s
  | .vst => attVst false e s
  | .vstd => attVst true e s
  | .ulaunch => some (launchAt e s)
  | .ngsend => attNgsend e s
  | .ngcast => attNgcast e s
  | .wait | .tseq | .ugauge | .tdrn | .wflush => none

/-- As attempt, for an instruction that keeps the descriptor it has read. -/
def attemptDesc (o : WaitOp) (e : Enc) (b : List Byte) (s : State) : Option State :=
  match o with
  | .tdrn => attTdrn b e s
  | .wflush => attWflush b e s
  | _ => none

/-- One context tries again. -/
def wakeCtx (c : Nat) (s : State) (k : Nat) : State :=
  let y := getCtx s c k
  if (y.st = .waiting ∨ y.st = .issuing) ∧ y.resetting = false ∧ y.preempting = false then
    match y.wait with
    | .op o e => (attempt o e s).getD (if o = .cpush && y.st = .issuing && !cairnDrains (getCore s c) k then block s c k true y.wait else s)
    | .desc o e b => (attemptDesc o e b s).getD s
    | _ => s
  else s

/-- Something has happened at a core; what one context then finishes may end the wait of another, so each tries twice. -/
def wake (s : State) (c : Nat) : State :=
  if coreRuns s c then ((List.range 4) ++ List.range 4).foldl (wakeCtx c) (modCore s c refreshLaunches) else s

/-- Something has happened that cores of several places may wait for. -/
def wakeAll (s : State) (cs : List Nat) : State := cs.foldl wake s

/-- The core that a flit's answer concerns. -/
def FlitFor.core : FlitFor → Option Nat
  | .load c _ _ => some c
  | .store c _ _ _ => some c
  | _ => none

/-- The core that waits for a flit's answer, if any, tries again. -/
def wakeFor (s : State) (w : FlitFor) : State :=
  match w.core with
  | some c => wake s c
  | none => s

/-- LOAD_DATA_ARRIVAL: the register is written and the WAITING context is READY (R62); a refused response traps (R251). -/
def execLoadDataArrival (core ctx : Nat) (s : State) : Out :=
  match s.mesh.net.findIdx? (answersLoad core ctx) with
  | none => cannot s
  | some n =>
    match s.mesh.net[n]? with
    | none => cannot s
    | some f =>
      let s := dropFlit s n
      match (getCtx s core ctx).wait with
      | .load rd z sext a =>
        if f.refused then done (wake (trap s core ctx 0x03 a) core)
        else done (wake (retire (modCtx s core ctx fun y => y.setS rd (loadVal z sext f.payload)) core ctx) core)
      | .vload rd tag a =>
        if f.refused then done (wake (trap s core ctx 0x03 a) core)
        else done (wake (retire (modCore s core fun x => x.putLoaded rd tag f.payload) core ctx) core)
      | _ => done s

/-- The queue is discarded; a halted channel is idle again, and one that had not begun its first descriptor too (R78). -/
def Chan.clear (x : Chan) : Chan :=
  match x.st with
  | .haltedDesc | .haltedErr => { x with st := .idle, queue := [], run := none }
  | .busy => if x.run.isNone then { x with st := .idle, queue := [] } else { x with queue := [] }
  | _ => { x with queue := [] }

/-- CPYCLR (R78). -/
def execCpyclr (e : Enc) (s : State) : Out :=
  issue { cls := 2, op := 4, imm := 1 } e s fun s =>
    wake (retire (modChan s e.core (Enc.chan e) Chan.clear) e.core e.ctx) e.core

end Sys2Proof.Machine
end

