-- ==== Sys2Proof/Machine/Mesh.lean ====
section
/-!
DEFINITION. Routers, routes, the Bridge, parcel tags, multicast trees, merging, tails, remote terraces and failed
routers (R188, R215, R239 to R261). The net lists flits in the order in which each came to where it is.
-/

namespace Sys2Proof.Machine

/-! ### Routes (R240, R261) -/

/-- One step along a row or column. -/
def stepTo (a b : Nat) : Nat := if a < b then a + 1 else if b < a then a - 1 else a

/-- The next router of a unicast flit: the X leg first, then the Y leg (R240). -/
def nextRouter (pos dst : Nat) : Nat :=
  if siteX pos ≠ siteX dst then siteAt (stepTo (siteX pos) (siteX dst)) (siteRow pos)
  else siteAt (siteX pos) (stepTo (siteRow pos) (siteRow dst))

/-- The die's failed router is this site. -/
def routerFailed (s : State) (site : Nat) : Bool := sget 0 s.mesh.failedRouter (siteDie site) = site + 1

/-- A flit can come to the router, or be led around it: it works, or the detour entries are loaded (R261). -/
def canEnter (s : State) (site : Nat) : Bool := !routerFailed s site || sget false s.mesh.detour (siteDie site)

/-- The Bridge column a flit crosses in: its own, or the adjacent one nearer the centre where its link is down or its
edge router has failed (R261). -/
def bridgeCol (s : State) (fromDie x : Nat) : Nat :=
  let l := sget {} s.mesh.bridge (fromDie * 20 + x)
  let l2 := sget {} s.mesh.bridge ((1 - fromDie) * 20 + x)
  if l.down || l2.down || routerFailed s (siteAt x 19) || routerFailed s (siteAt x 20) then (if x < 10 then x + 1 else x - 1) else x

/-- The adjacent row or column on the die's inward side (R261). -/
def inward (n : Nat) : Nat := if n % 20 < 10 then n + 1 else n - 1

/-- The sites of a detour around the failed site nx that a flit at pos is about to enter: the sidestep, past the site, and
the step back to its row or column. A route that turns at the site turns in the adjacent row (R261). See log 91 [DEDUCED]. -/
def detourOf (pos goal nx : Nat) : List Nat :=
  let x := siteX pos
  let y := siteRow pos
  if siteRow nx = y then
    let r := inward y
    let turn := [siteAt x r, siteAt (siteX nx) r]
    if siteX goal = siteX nx then turn
    else turn ++ [siteAt (2 * siteX nx - x) r, siteAt (2 * siteX nx - x) y]
  else
    let c := inward x
    let z := 2 * siteRow nx - y
    [siteAt c y, siteAt c (siteRow nx), siteAt c z, siteAt x z]

/-- The Bridge link of a column is down, in either direction. -/
def linkDown (s : State) (x : Nat) : Bool := (sget {} s.mesh.bridge x).down || (sget {} s.mesh.bridge (20 + x)).down

/-- The next router of a unicast flit and what stays of its detour: its route, or the way around a failed site or in place
of a failed Bridge link (R240, R261). -/
def nextHop (s : State) (f : Flit) (goal : Nat) : Nat × List Nat :=
  match f.via with
  | v :: rest => (v, rest)
  | [] =>
    let nx := nextRouter f.pos goal
    let c := inward (siteX f.pos)
    if routerFailed s nx && nx ≠ goal then ((detourOf f.pos goal nx).headD nx, (detourOf f.pos goal nx).tail)
    else if siteDie nx ≠ siteDie f.pos && linkDown s (siteX f.pos) then
      (siteAt c (siteRow f.pos), [siteAt c (siteRow nx), nx])
    else (nx, [])

/-! ### Buffers (R243, R248, Table 9-3) -/

/-- Places per virtual channel of the input port of router b that faces router a (Table 9-3). -/
def bufDepth (a b : Nat) : Nat :=
  if siteDie a ≠ siteDie b then 96
  else if siteX a / 10 ≠ siteX b / 10 then 16
  else if siteY a / 10 ≠ siteY b / 10 then 10
  else 6

/-- The flit waits in the input port of router b that faces router a. -/
def Flit.inPort (f : Flit) (a b : Nat) : Bool := !f.arrived && !f.fresh && f.pos = b && f.prev = some a

/-- The input port of router b that faces router a has room for a flit on a channel: one on a detour goes into the port's
separate buffer of 4 (R243, R261). -/
def portRoom (net : List Flit) (a b vc : Nat) (detour : Bool) : Bool :=
  if detour then decide ((net.countP fun f => f.inPort a b && f.via ≠ []) < 4)
  else decide ((net.countP fun f => f.inPort a b && f.via = [] && f.vc = vc) < bufDepth a b)

/-- The last frame of a link takes another flit: it holds fewer than three and has not been sent (R248). -/
def BridgeLink.openFrame (l : BridgeLink) : Bool :=
  match l.frames.getLast? with
  | none => false
  | some fs => decide (fs.length < 3) && !(l.frames.length = 1 && (l.refused || l.refusals ≠ 0))

/-- The link takes a flit: in its last frame, or in a new one of the 64 that its replay buffer holds (R248). -/
def BridgeLink.room (l : BridgeLink) : Bool := l.openFrame || decide (l.frames.length < 64)

/-- A flit enters the last frame of a link, or a new one (R248). -/
def BridgeLink.add (l : BridgeLink) (f : Flit) : BridgeLink :=
  if l.openFrame then { l with frames := l.frames.dropLast ++ [l.frames.getLastD [] ++ [f]] }
  else { l with frames := l.frames ++ [[f]] }

/-- The Bridge link that a flit leaving a router crosses in. -/
def linkKey (s : State) (pos : Nat) : Nat := siteDie pos * 20 + bridgeCol s (siteDie pos) (siteX pos)

/-- The next place of a flit, a router of its die or a frame of a Bridge link, has room for it (R243, R248). -/
def hopRoom (s : State) (f : Flit) (next : Nat) (via : List Nat) : Bool :=
  if siteDie next = siteDie f.pos then portRoom s.mesh.net f.pos next f.vc (via ≠ [])
  else (sget {} s.mesh.bridge (linkKey s f.pos)).room

/-- A flit comes to its next place: a router of its die, or a frame of a Bridge link (R248). -/
def moveTo (s : State) (f : Flit) (next : Nat) : State :=
  let g := { f with pos := next, prev := some f.pos, fresh := false }
  if siteDie next = siteDie f.pos then { s with mesh := { s.mesh with net := s.mesh.net ++ [g] } }
  else { s with mesh := { s.mesh with bridge := smod {} s.mesh.bridge (linkKey s f.pos) fun l => l.add g } }

/-! ### The header (R245, Table 9-4) -/

/-- KIND. -/
def FlitKind.code : FlitKind → Nat
  | .readReq => 0
  | .write => 1
  | .readResp => 2
  | .writeAck => 3
  | .daf96Sum => 4
  | .int32Sum => 5
  | .mcastWrite => 6
  | .tail => 7
  | .farReq => 8
  | .farResp => 9
  | .system => 10

/-- AUX, of which a far request's age is an argument: the spec fixes no clock for it (R195). -/
def Flit.aux (f : Flit) (age : Nat) : Nat :=
  match f.kind with
  | .farReq => age
  | .daf96Sum => f.datum.toNat + (f.count - 1) * 2 ^ 10
  | .int32Sum => (f.payload.length / 4 - 1) * 2 ^ 10
  | .tail => f.count
  | .readResp => if f.refused then 1 else 0
  | _ => 0

/-- The 12-byte header of a flit. -/
def Flit.header (f : Flit) (age : Nat) : List Byte :=
  leBytes 12 (f.dst * 2 ^ 86 + f.src * 2 ^ 76 + f.vc * 2 ^ 74 + f.kind.code * 2 ^ 70 + f.parcel * 2 ^ 67 + (if f.pv then 2 ^ 66 else 0) +
    f.addr.toNat * 2 ^ 24 + f.aux age % 65536 * 2 ^ 8 + (if f.last then 128 else 0) + (f.payload.length - 1) % 64)

/-! ### Lost and dropped flits (R246, R251, R259) -/

/-- A flit is lost: an uncorrectable error in data feeding arithmetic of its parcel, class 0x04 (R246). -/
def loseFlit (s : State) (f : Flit) : State :=
  if f.pv then uncData s f.parcel 0x04 0 f.pos (f.addr.zeroExtend 64) false none
  else logInc s { cls := 0x04, locKind := 0, locNum := f.pos, domain := meshDomain f.pos, addr := f.addr.zeroExtend 64 }

/-- All-ones data of a refused read (R251). -/
def onesData (n : Nat) : List Byte := List.replicate n 0xFF

/-- Bytes that a load's flit asks for. -/
def FlitFor.size : FlitFor → Nat
  | .load _ _ n => n
  | _ => 0

/-- The answer of an endpoint to a request flit, from that endpoint. -/
def answer (f : Flit) (kind : FlitKind) (refused : Bool) (data : List Byte) : Flit :=
  { f with src := f.dst, dst := f.src, vc := 1, kind := kind, refused := refused, payload := data,
           pos := endpointSite f.dst, arrived := false, fresh := true, prev := none, via := [], last := true }

/-- A flit fails the tag check: counted, logged as class 0x32, and answered if its requester waits (R251). -/
def tagDrop (s : State) (f : Flit) : State :=
  let s := bump s (siteBlock f.pos) 16 1
  let s := logInc s { cls := 0x32, parcel := some f.parcel, locKind := 0, locNum := f.pos, domain := meshDomain f.pos,
                      addr := f.addr.zeroExtend 64 }
  match f.kind with
  | .readReq => inject s (answer f .readResp true (onesData f.what.size))
  | .write => inject s (answer f .writeAck false [])
  | _ => s

/-- The tag names the parcel that owns the site's bed (R251). -/
def tagOk (s : State) (f : Flit) : Bool := f.pv && bedParcel s (siteBed f.pos) = some f.parcel

/-- No compute part works at the site (R259). -/
def computeGone (s : State) (site : Nat) : Bool := (getSite s site).fenced || (coreAt s site).isNone

/-- Counted in RT_DISCARD (R259). -/
def discardFlit (s : State) (f : Flit) : State := bump s (siteBlock f.pos) 15 1

/-! ### Multicast trees (R253, R254) -/

/-- The delivery set of an entry for a parcel (R253). -/
def mcSet (s : State) (p : Nat) (m : McEntry) : List Nat :=
  (pclCores s p).filter fun c =>
    let t := tsite s c
    m.x0 ≤ siteX t && siteX t ≤ m.x1 && m.y0 ≤ siteRow t && siteRow t ≤ m.y1 && (!m.bmen || m.beds.getLsbD (coreBed c))

/-- The logical core of the delivery set whose terrace the router's site holds. -/
def mcHere (s : State) (f : Flit) (m : McEntry) : Option Nat := (mcSet s f.parcel m).find? fun c => tsite s c = f.pos

/-- The legs that leave a router of a multicast flit: the next site and the leg there (R254). -/
def mcNext (f : Flit) (m : McEntry) : List (Nat × McLeg) :=
  let x := siteX f.pos
  let y := siteRow f.pos
  let xs := siteX f.src
  let die := siteDie f.pos
  let down := match rectRows m die with
    | some (_, hi) => if y < hi then [(siteAt x (y + 1), McLeg.colSouth)] else []
    | none => []
  let up := match rectRows m die with
    | some (lo, _) => if lo < y then [(siteAt x (y - 1), McLeg.colNorth)] else []
    | none => []
  match f.leg with
  | .transit =>
    if die = siteDie f.src then [(siteAt x (if die = 0 then y + 1 else y - 1), if y = (if die = 0 then 19 else 20) then .row else .transit)]
    else []
  | .row =>
    (if xs ≤ x && x < m.x1 then [(siteAt (x + 1) y, McLeg.row)] else []) ++
    (if x ≤ xs && m.x0 < x then [(siteAt (x - 1) y, McLeg.row)] else []) ++
    (if m.x0 ≤ x && x ≤ m.x1 then up ++ down else [])
  | .colSouth => down
  | .colNorth => up
  | .none => []

/-- The router is in the rectangle on a leg that delivers. -/
def mcInRect (f : Flit) (m : McEntry) : Bool :=
  let y := siteRow f.pos
  f.leg ≠ .transit && m.x0 ≤ siteX f.pos && siteX f.pos ≤ m.x1 && m.y0 ≤ y && y ≤ m.y1

/-- The way from router p around the failed router nx to the router o that a multicast's tree goes on to from there: past
the site where the tree goes straight on, or the turn one hop early (R261). See log 91 [DEDUCED]. -/
def pathAround (p nx o : Nat) : List Nat :=
  if siteX p = siteX o ∨ siteRow p = siteRow o then detourOf p o nx
  else if siteX p = siteX nx then [siteAt (siteX o) (siteRow p), o]
  else [siteAt (siteX p) (siteRow o), o]

/-- The copies of a multicast flit that leave a router: the sites each passes and its leg at the last of them (R254, R261). -/
def mcOuts (s : State) (f : Flit) (m : McEntry) : List (List Nat × McLeg) :=
  (mcNext f m).flatMap fun d =>
    if routerFailed s d.1 then (mcNext { f with pos := d.1, leg := d.2 } m).map fun o => (pathAround f.pos d.1 o.1, o.2)
    else if siteDie d.1 ≠ siteDie f.pos && linkDown s (siteX f.pos) then
      let c := inward (siteX f.pos)
      [([siteAt c (siteRow f.pos), siteAt c (siteRow d.1), d.1], d.2)]
    else [([d.1], d.2)]

/-- The last write of a multicast is performed here: a count of 1 goes to the source site's channel, and a tail's ADD
is made (R254). -/
def mcLast (s : State) (f : Flit) : State :=
  match f.what with
  | .mcWrite core ch true tail =>
    let g : Flit := { src := f.pos, dst := csite s core, vc := 2, kind := .int32Sum, parcel := f.parcel, pv := true, addr := 0,
                      payload := leBytes 4 1, pos := f.pos, what := .mcCount core ch }
    let s := inject s g
    match tail with
    | none => s
    | some b =>
      let m : BeaconMsg := { core := core, site := f.pos, ctx := 0, beacon := b, op := .add 1 }
      { s with mesh := { s.mesh with msgs := s.mesh.msgs ++ [m] } }
  | _ => s

/-- A flit handed to the endpoint of its destination, where it waits for its unit. -/
def handOver (s : State) (f : Flit) : State :=
  { s with mesh := { s.mesh with net := s.mesh.net ++ [{ f with arrived := true, fresh := false }] } }

/-- The ejection queue of a site has room on a virtual channel (Table 9-3). -/
def ejRoom (s : State) (site vc : Nat) : Bool :=
  decide ((s.mesh.net.countP fun f => f.arrived && f.dst = site && f.vc = vc) < 8)

/-- The routers of a site's die take no injection (R260). -/
def dieStopped (s : State) (site : Nat) : Bool := sget false s.mesh.injStopped (siteDie site)

/-- A cast's flit is for the gate of the core that computes here (R168). See log 63 [DEDUCED]. -/
def gateHere (s : State) (f : Flit) : Bool :=
  match coreAt s f.pos with
  | some c => decide (c ∈ pclCores s f.parcel)
  | none => false

/-- The router's own site takes a multicast flit: its terrace, or for a cast its gate. -/
def mcTakes (s : State) (f : Flit) (m : McEntry) : Bool :=
  f.via = [] && mcInRect f m && (if f.what = .gate then gateHere s f else (mcHere s f m).isSome)

/-- What a delivery here sends or hands over has room now. -/
def mcReady (s : State) (f : Flit) : Bool :=
  match f.what with
  | .gate => ejRoom s f.pos 3
  | .mcWrite _ _ true _ => !dieStopped s f.pos
  | _ => true

/-- A multicast flit is delivered to the router's own site (R254). -/
def mcDeliver (s : State) (f : Flit) : State :=
  if f.what = .gate then
    if (getSite s f.pos).fenced then discardFlit s f else handOver s { f with dst := f.pos, mc := none }
  else mcLast (terrWrite s f.pos (f.addr.toNat % 2 ^ 26) f.payload) f

/-- A copy of a multicast flit can leave along a path: each output by its own room (R254). -/
def outRoom (s : State) (f : Flit) (path : List Nat) : Bool :=
  match path with
  | [] => false
  | h :: t => canEnter s h && (t = [] || f.via ≠ [] || linkDown s (siteX f.pos) || sget false s.mesh.detour (siteDie h) ||
      sget false s.mesh.detour (siteDie f.pos)) && hopRoom s f h t

/-- A copy leaves along a path. -/
def sendCopy (f : Flit) (s : State) (o : List Nat × McLeg) : State :=
  match o.1 with
  | [] => s
  | h :: t => moveTo s { f with leg := o.2, via := t, todo := none } h

/-- The copies of flit n that still have to leave its router. -/
def mcLeft (s : State) (f : Flit) (m : McEntry) : List (List Nat × McLeg) :=
  match f.todo with
  | some l => l
  | none => if f.via = [] then mcOuts s f m else [(f.via, f.leg)]

/-- A multicast flit at a router: its site takes it, and each copy whose output has room leaves; none when it has to wait
for all of that (R254). -/
def mcAtRouter (s : State) (n : Nat) (f : Flit) (m : McEntry) : Option State :=
  let left := mcLeft s f m
  let go := left.filter fun o => outRoom s f o.1
  let stay := left.filter fun o => !outRoom s f o.1
  let take := f.todo.isNone && mcTakes s f m
  if take && !mcReady s f then none
  else if f.todo.isSome && go = [] then none
  else if f.todo.isNone && go = [] && stay ≠ [] && !take then none
  else
    let s := if stay = [] then dropFlit s n
      else { s with mesh := { s.mesh with net := s.mesh.net.set n { f with todo := some stay } } }
    let s := if take then mcDeliver s f else s
    some (go.foldl (sendCopy f) s)

/-! ### Merging (R255) -/

/-- Two waiting sums or tails of one buffer merge (R255; detour flits use a separate one, R261). -/
def mergeable (a b : Flit) : Bool :=
  a.kind = b.kind && a.dst = b.dst && a.addr = b.addr && a.parcel = b.parcel && a.pos = b.pos && !a.arrived && !b.arrived &&
  a.vc = 2 && b.vc = 2 && a.via = b.via &&
  (match a.kind with
   | .daf96Sum => a.datum = b.datum && a.count = b.count && a.what = b.what
   | .int32Sum => a.payload.length = b.payload.length && a.what = b.what
   | .tail => decide (a.count + b.count < 1024)
   | _ => false)

/-- Element-wise sums of w bytes each (R52, R255). -/
def sumElems (w : Nat) : Nat → List Byte → List Byte → List Byte
  | 0, _, _ => []
  | n + 1, a, b => leBytes w (leNat (a.take w) + leNat (b.take w)) ++ sumElems w n (a.drop w) (b.drop w)

/-- The sources of a flit: more than one after merges. -/
def Flit.srcs (f : Flit) : List Nat := f.src :: f.also

/-- The two flits have a source in common, and destination and channel: they keep their order (R242). -/
def samePath (f g : Flit) : Bool := g.dst = f.dst && g.vc = f.vc && g.srcs.any fun x => decide (x ∈ f.srcs)

/-- The merged flit. -/
def mergeFlits (a b : Flit) : Flit :=
  let b := { b with also := (b.also ++ a.srcs.filter fun x => decide (x ∉ b.srcs)) }
  match a.kind with
  | .daf96Sum => { b with payload := sumElems 12 a.count a.payload b.payload }
  | .int32Sum => { b with payload := sumElems 4 (a.payload.length / 4) a.payload b.payload }
  | _ => { b with count := a.count + b.count }

/-- The place of flit j among the flits on VC 2 of its router, of which the merge buffer holds 16 (R255). -/
def mergeRank (net : List Flit) (j : Nat) (f : Flit) : Nat := (net.take j).countP fun g => g.pos = f.pos && g.vc = 2 && !g.arrived

/-- Flit i merges with the later flit j: both wait in the merge buffer, and no flit between them has to stay behind flit i
(R242, R255). See log 9 [DEDUCED]. -/
def mergesAt (net : List Flit) (i j : Nat) : Bool :=
  match net[i]?, net[j]? with
  | some a, some b => decide (i < j) && mergeable a b && decide (mergeRank net j b < 16) &&
      !((net.take j).drop (i + 1)).any fun g => g.pos = a.pos && !g.arrived && samePath a g
  | _, _ => false

/-- Flit n merges with a later flit that waits in its router, or with an earlier one; the merged flit takes the place
of the later. -/
def tryMerge (s : State) (n : Nat) (f : Flit) : Option State :=
  let net := s.mesh.net
  let later := (List.range net.length).find? fun i => mergesAt net n i
  let earlier := (List.range net.length).find? fun i => mergesAt net i n
  let put (i j : Nat) : State :=
    match net[i]?, net[j]? with
    | some a, some b => bump { s with mesh := { s.mesh with net := (net.set j (mergeFlits a b)).eraseIdx i } } (siteBlock f.pos) 17 1
    | _, _ => s
  match later, earlier with
  | some i, _ => some (put n i)
  | none, some i => some (put i n)
  | none, none => none

/-! ### A flit at its destination -/

/-- A flit reaches the router of its destination (R241, R251, R259). The Gatehouses, Groundskeepers and the Lodge take no
parcel flit (R251). -/
def deliver (s : State) (f : Flit) : State :=
  if 848 ≤ f.dst then s
  else if 800 ≤ f.dst then modPortF s (f.dst - 800) fun x => { x with ingress := x.ingress ++ [f] }
  else match f.kind with
  | .readReq | .write => if tagOk s f then handOver s f else tagDrop s f
  | .readResp | .farResp =>
    if computeGone s f.pos then discardFlit s f
    else match f.what with
      | .load .. => handOver s f
      | w => wakeFor s w
  | .writeAck => if computeGone s f.pos then discardFlit s f else wakeFor s f.what
  | .mcastWrite => if !tagOk s f then tagDrop s f else if computeGone s f.pos then discardFlit s f else handOver s f
  | .daf96Sum => if !tagOk s f then tagDrop s f else if computeGone s f.pos then discardFlit s f else handOver s f
  | .int32Sum => if !tagOk s f then tagDrop s f else if computeGone s f.pos then discardFlit s f else handOver s f
  | .tail => if !tagOk s f then tagDrop s f else if f.vc = 2 && computeGone s f.pos then discardFlit s f else handOver s f
  | _ => s

/-- No flit of the same source, destination and channel is before this one at its router (R242). -/
def firstOfPath (net : List Flit) (n : Nat) (f : Flit) : Bool :=
  (net.take n).all fun g => !(samePath f g && g.pos = f.pos && !g.arrived)

/-- The far-memory port's ingress queue has room (R194). -/
def ingressRoom (s : State) (f : Flit) : Bool :=
  f.dst < 800 || 848 ≤ f.dst || decide ((getPortF s (f.dst - 800)).ingress.length < 512)

/-- The endpoint of a flit takes it now: its queue has room, and an answer at once can leave (R194, R243, R260). -/
def endRoom (s : State) (f : Flit) : Bool :=
  if 800 ≤ f.dst then ingressRoom s f
  else match f.kind with
    | .readResp | .farResp | .writeAck => ejRoom s f.pos f.vc
    | _ => if tagOk s f then ejRoom s f.pos f.vc else !dieStopped s f.pos

/-- No older far request waits in the flit's router for the same output (R195, R244). -/
def oldestFar (s : State) (f : Flit) : Bool :=
  let out (g : Flit) : Nat := if g.pos = endpointSite g.dst then 800 + g.dst else (nextHop s g (endpointSite g.dst)).1
  f.kind ≠ .farReq || s.mesh.net.all fun g => !(g.kind = .farReq && g.pos = f.pos && !g.arrived && decide (g.born < f.born) && out g = out f)

/-- A flit that leaves the injection queue makes room in it, and its core's contexts may go on (R60, R243). -/
def wakeSource (s : State) (f : Flit) : State :=
  if f.fresh && decide (f.src < 800) then
    match coreAt s f.src with
    | some c => wake s c
    | none => s
  else s

/-- A forwarded flit counts in its router's RT_FWD. -/
def countFwd (s : State) (f : Flit) : State := if f.fresh then s else bump s (siteBlock f.pos) 18 1

/-- Flit n leaves its router: it is delivered, or goes to the next router; none while it has to wait (R241, R243, R254). -/
def flitGoes (s : State) (n : Nat) (f : Flit) : Option State :=
  let goal := endpointSite f.dst
  if !firstOfPath s.mesh.net n f || !oldestFar s f then none
  else match f.mc with
    | some m => mcAtRouter (if f.todo.isNone then countFwd s f else s) n f m
    | none =>
      if f.pos = goal then
        if endRoom s f then some (deliver (dropFlit s n) { f with via := [] }) else none
      else
        let h := nextHop s f goal
        if canEnter s h.1 && (f.via ≠ [] || canEnter s (nextRouter f.pos goal)) && hopRoom s f h.1 h.2 then
          some (moveTo (countFwd (dropFlit s n) f) { f with via := h.2 } h.1)
        else none

/-- FLIT_AT_ROUTER: flit n, in its router: a parity error, or the router's failure, loses it (R246, R260); with a credit it
goes on, is duplicated or delivered; while it cannot it waits, and merges with a matching flit that waits there too (R241,
R243, R255). See log 52 [DESIGN CHOICE]. -/
def execFlitAtRouter (n : Nat) (ok credit : Bool) (s : State) : Out :=
  match s.mesh.net[n]? with
  | none => cannot s
  | some f =>
    if f.arrived then cannot s
    else if !ok || routerFailed s f.pos then done (loseFlit (dropFlit s n) f)
    else match (if credit then flitGoes s n f else none) with
      | some t => done (wakeSource t f)
      | none =>
        match tryMerge s n f with
        | none => cannot s
        | some t => done (wakeSource t f)

/-! ### Remote terraces (R188, R215) -/

/-- The oldest request at a site's terrace controller. -/
def terrReq (site : Nat) (f : Flit) : Bool := f.arrived && f.dst = site && (f.kind = .readReq || f.kind = .write)

/-- A store is performed: it counts in its core's digest, that of a vector register under UNIT 1 (R276, Table 10-3). -/
def storeDone (s : State) (w : FlitFor) (bs : List Byte) : State :=
  match w with
  | .store c _ _ a => digestWrite s c (if bs.length ≤ 8 then 0 else 1) a bs
  | _ => s

/-- The poison word of R226 takes the place of the words of a write that the bond refused twice (R215). -/
def terrPoison (s : State) (site off n : Nat) : State :=
  modSite s site fun x => { x with terr := mwrN x.terr (off / 8 * 8) (zeros (8 * (unitsOf 8 off n).length)),
                                   terrMarks := markInvalid s.far.swInit x.terrMarks (unitsOf 8 off n) }

/-- A read of a terrace may have met a correctable error, which the command's operands do not tell: a free value says so;
then it is counted, and tallied for its row (R219, R220). See log 4 [DESIGN CHOICE]. -/
def readFixed (s : State) (site off : Nat) : State :=
  let (v, s) := takeFree s
  if v.getLsbD 0 then terrTally (bump s (siteBlock site) 19 1) site (terrRow off) 0 else s

/-- TERRACE_REMOTE_ACCESS: the oldest request of a site is served, after a bond error is retried (R188, R215). -/
def execTerraceRemoteAccess (site : Nat) (bondErr : Nat) (s : State) : Out :=
  match s.mesh.net.findIdx? (terrReq site) with
  | none => cannot s
  | some n =>
    match s.mesh.net[n]? with
    | none => cannot s
    | some f =>
      if dieStopped s site || !injRoom s site 1 then cannot s
      else
        let s := dropFlit s n
        let s := if bondErr = 1 then bump s (siteBlock site) 21 1 else s
        let off := f.addr.toNat % 2 ^ 26
        let a : W64 := f.addr.zeroExtend 64
        if f.kind = .readReq then
          if 2 ≤ bondErr then done (uncData s f.parcel 0x05 0 site a false none)
          else
            match terrRead s site off f.what.size with
            | .ok bs => done (inject (readFixed s site off) (answer f .readResp false bs))
            | .error _ => done (uncData s f.parcel 0x05 0 site a false none)
        else if 2 ≤ bondErr then
          let s := terrPoison s site off f.payload.length
          done (uncData (inject s (answer f .writeAck false [])) f.parcel 0x05 0 site a false none)
        else done (inject (storeDone (terrWrite s site off f.payload) f.what f.payload) (answer f .writeAck false []))

/-! ### Tails (R255, R258) -/

/-- TAIL_ARRIVAL: the tail's ADD is made once every sum and write before it at its destination has been taken (R258). -/
def execTailArrival (n : Nat) (s : State) : Out :=
  match s.mesh.net[n]? with
  | none => cannot s
  | some f =>
    let before := (s.mesh.net.take n).any fun g => g.dst = f.dst && g.vc = f.vc && g.arrived && g.kind ≠ .tail
    if f.arrived && f.kind = .tail && !before then
      let add := match f.what with
        | .tail v => v * f.count
        | _ => f.count
      let m : BeaconMsg := { core := 0, site := f.pos, ctx := 0, beacon := f.addr.toNat % 8192, op := .add (BitVec.ofNat 32 add) }
      done { s with mesh := { s.mesh with net := s.mesh.net.eraseIdx n, msgs := s.mesh.msgs ++ [m] } }
    else cannot s

/-! ### Failed routers (R260) -/

/-- The flits in a router are lost (R246, R260). -/
def loseAt (s : State) (site : Nat) : State :=
  let lost := s.mesh.net.filter fun f => f.pos = site && !f.arrived
  lost.foldl loseFlit { s with mesh := { s.mesh with net := s.mesh.net.filter fun f => !(f.pos = site && !f.arrived) } }

/-- A Bridge link touching the die is down. -/
def anyBridgeDown (s : State) : Bool := s.mesh.bridge.any fun x => x.2.down

/-- A router fails (R260): injection stops on the die, its flits are lost, the site's terrace is lost with its parcel's
placement, and a second routing failure of the die stops the module. See log 83 [DEDUCED]. -/
def routerFails (s : State) (site : Nat) : State :=
  let die := siteDie site
  if sget 0 s.mesh.failedRouter die ≠ 0 || anyBridgeDown s then
    failStop (logInc s { cls := 0x36, action := 5, locKind := 0, locNum := site, domain := meshDomain site }) 0x36 0
  else
    let s := logInc s { cls := 0x30, parcel := bedParcel s (siteBed site), locKind := 0, locNum := site, domain := meshDomain site }
    let s := { s with mesh := { s.mesh with failedRouter := sset 0 s.mesh.failedRouter die (site + 1),
                                            injStopped := sset false s.mesh.injStopped die true } }
    let s := modSite s site fun x => { x with rfail := true }
    let s := loseAt s site
    if twinned s then failStop s 0x30 0
    else
      let mine := (bedCores (siteBed site)).filter fun c => !coreAbsent s c && (tsite s c = site || csite s c = site)
      let s := mine.foldl fenceCore s
      match bedParcel s (siteBed site) with
      | none => s
      | some p => stopStep s p .placement

/-- ROUTER_FAILURE: the router's internal parity check reports an error (R260). -/
def execRouterFailure (site : Nat) (s : State) : Out :=
  if site < 800 ∧ sget 0 s.mesh.failedRouter (siteDie site) ≠ site + 1 then done (routerFails s site) else cannot s

/-- ROUTER_CREDIT_TIMEOUT: the router held flits and returned no credit for 4,096 mesh cycles (R260). -/
def execRouterCreditTimeout (site : Nat) (s : State) : Out :=
  if site < 800 ∧ sget 0 s.mesh.failedRouter (siteDie site) ≠ site + 1 ∧ (s.mesh.net.any fun f => f.pos = site && !f.arrived) then
    done (routerFails s site) else cannot s

/-- DETOUR_LOAD: the detour entries are loaded, RT_STAT.DETOUR sets and injection resumes (R260). -/
def execDetourLoad (die : Nat) (s : State) : Out :=
  if sget false s.mesh.injStopped die then
    let s := { s with mesh := { s.mesh with detour := sset false s.mesh.detour die true, injStopped := sset false s.mesh.injStopped die false } }
    done (wakeAll s ((List.range 768).filter fun c => siteDie (csite s c) = die))
  else cannot s

/-! ### The Bridge (R248) -/

def getLink (s : State) (die col : Nat) : BridgeLink := sget {} s.mesh.bridge (die * 20 + col)
def modLink (s : State) (die col : Nat) (f : BridgeLink → BridgeLink) : State :=
  { s with mesh := { s.mesh with bridge := smod {} s.mesh.bridge (die * 20 + col) f } }

/-- A link is declared failed: class 0x31, its frames' flits are lost, and with a failed router on a die the module
stops (R248, R260). -/
def linkFails (s : State) (die col : Nat) : State :=
  let lost := (getLink s die col).frames.flatten
  let s := logInc s { cls := 0x31, locKind := 4, locNum := die * 20 + col, domain := 52 + die }
  let s := modLink s die col fun _ => { down := true }
  let s := lost.foldl loseFlit s
  if sget 0 s.mesh.failedRouter 0 ≠ 0 || sget 0 s.mesh.failedRouter 1 ≠ 0 then
    failStop (logInc s { cls := 0x36, action := 5, locKind := 4, locNum := die * 20 + col, domain := 52 + die }) 0x36 0
  else s

/-- BRIDGE_FRAME_RECEIVED: the oldest frame that die sent in a column arrives; it is acknowledged, or refused on its
CRC, the eighth time in succession with the link's failure (R248). A frame is taken when the receiver has room (R243). -/
def execBridgeFrameReceived (die col : Nat) (crcOk : Bool) (s : State) : Out :=
  let l := getLink s die col
  match l.frames with
  | [] => cannot s
  | fs :: rest =>
    if l.refused || l.down || decide (2 ≤ die) || decide (20 ≤ col) then cannot s
    else
      let s := bump s (brgBlock (1 - die)) 0 1
      if crcOk then
        if !(fs.all fun f => portRoom s.mesh.net (f.prev.getD f.pos) f.pos f.vc (f.via ≠ [])) then cannot s else
        let s := modLink s die col fun l => { l with frames := rest, refusals := 0, seqNo := l.seqNo + 1 }
        done { s with mesh := { s.mesh with net := s.mesh.net ++ fs } }
      else
        let s := bump s (brgBlock (1 - die)) 1 1
        if 8 ≤ l.refusals + 1 then done (linkFails s die col)
        else done (modLink s die col fun l => { l with refusals := l.refusals + 1, refused := true })

/-- BRIDGE_FRAME_REPLAY: the refused frame is sent again (R248). -/
def execBridgeFrameReplay (die col : Nat) (s : State) : Out :=
  if (getLink s die col).refused then
    done (modLink (bump s (brgBlock die) 2 1) die col fun l => { l with refused := false })
  else cannot s

end Sys2Proof.Machine
end

