-- ==== Sys2Proof/Machine/CairnRun.lean ====
section
/-!
DEFINITION. The Cairn controller, the flush queue and arriving sums at work (R128, R132, R133, R135, R138, R140, R141).
-/

namespace Sys2Proof.Machine

/-! ### Spills and refills -/

/-- The far address of a block's copy (R128). -/
def Cairn.farAddr (x : Cairn) (b : Nat) : W64 := x.spill + BitVec.ofNat 64 (cblk * b)

/-- The block to spill next: the lowest-numbered resident one that is full and not the top block (R132). -/
def Cairn.nextSpill (x : Cairn) : Option (Nat × Nat) := x.resident.find? fun r => decide ((r.1 + 1) * cblk < x.depth)

/-- CAIRN_SPILL_START: fewer region blocks are free than AHEAD (R132). -/
def execCairnSpillStart (core : Nat) (s : State) : Out :=
  let x := getCairn s core
  match x.nextSpill with
  | none => cannot s
  | some r =>
    if !coreRuns s core || x.spilling.isSome || decide (x.ahead.toNat ≤ x.free) || !x.regionOk then cannot s
    else done (modCairn s core fun x => { x with spilling := some r, resident := sdel x.resident r.1 })

/-- Bytes that a waiting pop will take. -/
def popBytes (y : Ctx) : Nat :=
  match y.wait with
  | .op .cpopv e => (cairnFmt e.imm.toNat).getD 0
  | .op .cpop e => 64 * (y.s e.rb).toNat
  | _ => 0

/-- A waiting pop of the owner reaches a block (R132). -/
def popReaches (s : State) (c b : Nat) : Bool :=
  let x := getCairn s c
  match x.owner with
  | none => false
  | some k => let n := popBytes (getCtx s c k); decide (n ≠ 0) && decide (b ∈ unitsOf cblk (x.depth - n) n)

/-- The context waits on the Cairn (R135). -/
def waitsOnCairn (y : Ctx) : Bool :=
  y.st = .waiting && (match y.wait with
    | .op .cpush _ | .op .cpopv _ | .op .cpop _ | .op .creset _ => true
    | _ => false)

/-- A spill or refill meets a page fault: it stops, and its owner is HELD at once if it waits on the Cairn (R135). -/
def cairnFault (s : State) (c kind fpn : Nat) (a : W64) (wr : Bool) : State :=
  let k := (getCairn s c).owner.getD 0
  let s := modCairn s c fun x => if wr then { x with spillFault := some a } else { x with refillFault := some a }
  let s := addFault s (coreParcelNum s c) fpn kind { requester := 4, index := k, core := c, addr := a, write := wr }
  if waitsOnCairn (getCtx s c k) then modCtx s c k fun y => { y with st := .held, wait := .fault a } else s

/-- A spill or refill at far address a did not come about. -/
def cairnErr (s : State) (c : Nat) (a : W64) (wr : Bool) : AccErr → State
  | .fault k f => cairnFault s c k f a wr
  | .unc cls kd num => uncArith s c cls kd num a false
  | .snoop l => startSnoop s l wr
  | .reach | .paused => s

/-- CAIRN_SPILL_COMPLETE: the block is in far memory and its region block free; if a pop that waits reaches it, it stays
resident and its copy is never read (R132). -/
def execCairnSpillComplete (core : Nat) (s : State) : Out :=
  let x := getCairn s core
  match x.spilling with
  | none => cannot s
  | some (b, r) =>
    if !coreRuns s core || x.spillFault.isSome then cannot s
    else
      let a := x.farAddr b
      match terrRead s (tsite s core) (x.base.toNat + r * cblk) cblk with
      | .error e => done (cairnErr s core a true e)
      | .ok bs =>
        match spotOf s core ⟨false, false, false, true⟩ a cblk with
        | none => cannot s
        | some sp =>
          match spotWrite s core sp bs with
          | .error e => done (cairnErr s core a true e)
          | .ok s =>
            done (wake (modCairn s core fun x =>
              if popReaches s core b then { x with spilling := none, resident := sput x.resident b r }
              else ({ x with spilling := none, spilled := nins x.spilled b } : Cairn).startRefill) core)

/-- CAIRN_REFILL_COMPLETE: the block is resident, and the next queued refill starts (R133). -/
def execCairnRefillComplete (core : Nat) (s : State) : Out :=
  let x := getCairn s core
  match x.refilling with
  | none => cannot s
  | some (b, r) =>
    if !coreRuns s core || x.refillFault.isSome then cannot s
    else
      let a := x.farAddr b
      match spotOf s core ⟨false, false, false, true⟩ a cblk with
      | none => cannot s
      | some sp =>
        match spotRead s core sp cblk with
        | .error e => done (cairnErr s core a false e)
        | .ok bs =>
          let s := engSeen s core a cblk
          let s := terrWrite s (tsite s core) (x.base.toNat + r * cblk) bs
          done (wake (modCairn s core fun x =>
            ({ x with refilling := none, resident := sput x.resident b r } : Cairn).startRefill) core)

/-! ### The WGA (R138, R140, R141) -/

/-- WINIT_ZEROING_COMPLETE: every element is zero and the context goes on (R140). -/
def execWinitZeroingComplete (core : Nat) (s : State) : Out :=
  match (getWga s core).zeroing with
  | none => cannot s
  | some k =>
    if !coreRuns s core then cannot s
    else
      let s := modWga s core fun w => { w with elems := [], zeroing := none }
      let s := if (getCtx s core k).wait = .zeroing then retire s core k else s
      done (wake s core)

/-- FLUSH_COMPLETE: the running flush, once its context's earlier drains have added, or the WZERO, does its work and
leaves the queue (R141). -/
def execFlushComplete (core : Nat) (s : State) : Out :=
  let x := getCore s core
  match x.wga.flushes with
  | [] => cannot s
  | j :: rest =>
    if !coreRuns s core || injBlocked s core ||
        (!j.zero && x.tiles.drains.any fun d => d.ctx = j.ctx && wgaDrain d && decide (d.sn < j.sn)) then cannot s
    else done (wake (modWga (runFlush s core j) core fun w => { w with flushes := rest }) core)

/-- The oldest flit for a unit of a core that waits at its site. -/
def arrivedFor (s : State) (c : Nat) (k : FlitKind) (w : FlitFor) : Option Nat :=
  s.mesh.net.findIdx? fun f => f.arrived && f.dst = csite s c && f.kind = k && f.what = w

/-- The DAF96 elements of a flit. -/
def flitElems (f : Flit) : List W96 := (chunks 12 f.count f.payload).map fun n => BitVec.ofNat 96 n

/-- Elements of a sum that lie within the WGA, from element i on. -/
def inWga (i : Nat) (es : List W96) : List W96 := es.take (wgaSize - i)

/-- WGA_SUM_ARRIVAL: the oldest sum that has arrived is added, or discarded on a differing datum with DMIS (R138). See log 64 [DEDUCED]. -/
def execWgaSumArrival (core : Nat) (s : State) : Out :=
  match arrivedFor s core .daf96Sum .wga with
  | none => cannot s
  | some n =>
    match s.mesh.net[n]? with
    | none => cannot s
    | some f =>
      if !coreRuns s core || (getWga s core).zeroing.isSome then cannot s
      else
        let i := f.addr.toNat
        done (modWga (dropFlit s n) core fun w =>
          if f.datum = w.datum then w.addAt i (inWga i (flitElems f)) else { w with dmis := true })

end Sys2Proof.Machine
end

