-- ==== Sys2Proof/Machine/Clock.lean ====
section
/-!
DEFINITION. Bed and half clocks in force, their changes, and CLK_LOG (R393 to R397).
-/

namespace Sys2Proof.Machine

/-- CLK8 in force of a bed, MESH8 of a half: 0 is held for 8. -/
def bedClk (s : State) (bed : Nat) : Nat := if sget 0 s.pwr.clk8 bed = 0 then 8 else sget 0 s.pwr.clk8 bed
def halfClk (s : State) (h : Nat) : Nat := if sget 0 s.pwr.mesh8 h = 0 then 8 else sget 0 s.pwr.mesh8 h

/-- A record of CLK_LOG: the domain's cycle count at the switch, its number, and the old and new settings; the 256 most
recent are kept (R397). -/
def logClk (s : State) (dom old new : Nat) : State :=
  let (t, s) := observeCycles s dom
  let e := leBytes 8 t.toNat ++ [BitVec.ofNat 8 dom, BitVec.ofNat 8 old, BitVec.ofNat 8 new, 0, 0, 0, 0, 0]
  let l := s.pwr.clkLog ++ [e]
  bump { s with pwr := { s.pwr with clkLog := l.drop (l.length - 256) } } clkBlock 6 1

/-- A bed's clock switches (R395). -/
def switchBed (s : State) (bed v : Nat) : State :=
  let s := logClk s bed (bedClk s bed) v
  { s with pwr := { s.pwr with clk8 := sset 0 s.pwr.clk8 bed (if v = 8 then 0 else v) } }

/-- The two mesh domains of a half (R393). -/
def halfDomains (h : Nat) : List Nat := [32 + 4 * (h / 2) + h % 2, 34 + 4 * (h / 2) + h % 2]

/-- A half's mesh clock switches, in both its domains (R396). -/
def switchHalf (s : State) (h v : Nat) : State :=
  let old := halfClk s h
  let s := (halfDomains h).foldl (fun s d => logClk s d old v) s
  { s with pwr := { s.pwr with mesh8 := sset 0 s.pwr.mesh8 h (if v = 8 then 0 else v) } }

end Sys2Proof.Machine
end

