-- ==== Sys2Proof/Machine/CopyRun.lean ====
section
/-!
DEFINITION. The copy channels at work: a descriptor starts, moves its rows or tiles, and completes; multicasts (R79 to
R82, R202, R206, R207, R253, R254).
-/

namespace Sys2Proof.Machine

def getChan (s : State) (c ch : Nat) : Chan := (getCore s c).chan ch

/-- The channel halts on a descriptor error (R82). -/
def haltChan (s : State) (c ch : Nat) : State :=
  wake (modChan s c ch fun x => { x with st := .haltedDesc, run := none }) c

/-- A copy met an uncorrectable error: the channel halts with STATE 0x3, or the twin fail-stops (Table 8-4). -/
def copyUnc (s : State) (c ch cls kind num : Nat) (a : W64) : State :=
  let own := ownOf s c cls kind num
  let s := countUnc s cls kind num a
  let i : Inc := { cls := cls, action := if twinned s then 5 else 2, parcel := coreParcel s c, locKind := kind, locNum := num,
                   domain := locDomain kind num, addr := incAddr kind a, detail := (getChan s c ch).descaddr.extractLsb' 0 32 }
  let s := logInc s i
  if twinned s then failStop s cls 0
  else noteOwn (wake (modChan s c ch fun x => { x with st := .haltedErr, run := none }) c) own

/-- An access of a channel did not deliver (R82, R202, R315, Table 8-4); a is its address. -/
def copyErr (s : State) (c ch : Nat) (a : W64) (wr : Bool) : AccErr → State
  | .reach => haltChan s c ch
  | .fault k f =>
    let s := modChan s c ch fun x => { x with st := .held, faultAddr := a }
    addFault s (coreParcelNum s c) f k { requester := 1, index := ch, core := c, addr := a, write := wr }
  | .unc cls kd num => copyUnc s c ch cls kd num a
  | .snoop l => startSnoop s l wr
  | .paused => s

/-! ### Multicast entries (R253, Tables 9-7, 9-8) -/

/-- Entry e of a site's multicast registers. -/
def Site.mcEntry (x : Site) (e : Nat) : McEntry :=
  let r := (sget 0 x.mct (2 * e)).toNat
  { x0 := bits r 0 5, x1 := bits r 5 5, y0 := bits r 10 6, y1 := bits r 16 6, bmen := bit r 31, beds := sget 0 x.mct (2 * e + 1), num := e }

/-- The entry that MCSEL selects for a channel, if EN is 1. -/
def Site.mcOf (x : Site) (ch : Nat) : Option McEntry :=
  let v := bits x.mcsel.toNat (4 * ch) 4
  if bit v 3 then some (x.mcEntry (v % 8)) else none

/-- The rectangle is a rectangle of the mesh (R253). -/
def McEntry.ok (m : McEntry) : Bool := decide (m.x0 ≤ m.x1 ∧ m.x1 ≤ 19 ∧ m.y0 ≤ m.y1 ∧ m.y1 ≤ 39)

/-- The entry that a descriptor's copy uses: MCSEL's, for a destination in SPACE 0x1 (R253). -/
def mcFor (x : Site) (ch : Nat) (b : List Byte) : Option McEntry :=
  if (cdDst b).toNat / 2 ^ 60 = 1 then x.mcOf ch else none

/-! ### A descriptor starts (R79, R81, R82) -/

/-- COPY_DESCRIPTOR_START: once the issuing context's earlier stores are performed, the channel reads its next
descriptor, and halts on a descriptor error. -/
def execCopyDescriptorStart (core ch : Nat) (s : State) : Out :=
  let x := getChan s core ch
  if !coreRuns s core || decide (8 ≤ ch) || x.st ≠ .busy || x.run.isSome || x.tcopy then cannot s
  else match x.queue with
    | [] => cannot s
    | r :: rest =>
      if storeFlying s core r.ctx || (getCtx s core r.ctx).heldSt ≠ [] then cannot s
      else
        let s := modChan s core ch fun x => { x with queue := rest, descaddr := r.desc }
        match engRead s core spNear r.desc 64 with
        | .error e => done (copyErr s core ch r.desc false e)
        | .ok b =>
          let m := mcFor (getCore s core) ch b
          if !cdOk s core b || !(m.map McEntry.ok).getD true then done (haltChan s core ch)
          else done (wake (modChan s core ch fun x => { x with run := some { req := r, bytes := b, mc := m } }) core)

/-! ### Rows and tiles (R206, R207, R254) -/

/-- Bytes at an address as pieces within one 64-byte unit each; fuel is at least their number. -/
def pieces64 : Nat → Nat → List Byte → List (Nat × List Byte)
  | 0, _, _ => []
  | f + 1, a, l =>
    if l = [] then [] else
      let n := 64 - a % 64
      (a, l.take n) :: pieces64 f (a + n) (l.drop n)

/-- A multicast write leaves the channel's site along its legs; last marks the copy's last write. -/
def mcSend (s : State) (c ch : Nat) (m : McEntry) (last : Bool) (tail : Option Nat) (p : Nat × List Byte) : State :=
  (mcLegs (csite s c) m).foldl (fun s l =>
    inject s { src := csite s c, dst := 0, vc := 3, kind := .mcastWrite, parcel := coreParcelNum s c, pv := true,
               addr := BitVec.ofNat 42 (m.num * 2 ^ 28 + p.1), last := last, payload := p.2, pos := csite s c, what := .mcWrite c ch last tail, leg := l, mc := some m }) s

/-- The multicast writes of a row are sent to the delivery set, if it is not empty. -/
def mcWrites (s : State) (c ch : Nat) (m : McEntry) (lastRow : Bool) (tail : Option Nat) (ws : List Wr) : State :=
  if mcSet s (coreParcelNum s c) m = [] then s
  else
    let ps := ws.flatMap fun w => pieces64 (w.2.length / 64 + 2) (w.1.toNat % 2 ^ 26) w.2
    ps.zipIdx.foldl (fun s p => mcSend s c ch m (lastRow && p.2 + 1 = ps.length) tail p.1) s

/-- The writes and flags of the next step of a descriptor. See log 56 [DEDUCED]. -/
def copyStep (s : State) (c : Nat) (r : CopyRun) : Except AccErr (List Wr × W32) :=
  if cdMode r.bytes = 2 then cdTile s c r.bytes r.req.mseed r.pos
  else (cdRow s c r.bytes r.req.mseed r.pos).map fun o => (cdRowWrites r.bytes r.pos o, o.2.2)

/-- The source address of the next step. -/
def copySrc (r : CopyRun) : W64 :=
  if cdMode r.bytes = 2 then
    let across := (cdRowBytes r.bytes + 63) / 64
    addOff (cdSrc r.bytes) (cdSStride r.bytes * (r.pos / across * 64 : Nat) + (r.pos % across * 64 : Nat))
  else addOff (cdSrc r.bytes) (cdSStride r.bytes * r.pos)

/-- The address of the first write of a step. -/
def copyDstOf (ws : List Wr) : W64 := (ws.head?.map (·.1)).getD 0

/-- The lines of far memory that a step's reads have used (R191). -/
def copySeen (s : State) (c : Nat) (r : CopyRun) : State :=
  let b := r.bytes
  if cdMode b = 2 then
    let across := (cdRowBytes b + 63) / 64
    (List.range (min 64 (cdRows b - r.pos / across * 64))).foldl (fun s i =>
      engSeen s c (addOff (copySrc r) (cdSStride b * i)) (min 64 (cdRowBytes b - r.pos % across * 64))) s
  else engSeen s c (copySrc r) (cdRowBytes b)

/-- The step's writes are counted in the core's digest: those of a row at once, a transpose's by whole destination rows
(R276); the channel goes on to the next step. -/
def copyCount (s : State) (c ch : Nat) (r : CopyRun) (ws : List Wr) : State :=
  let o := if cdMode r.bytes = 2 then countTile s c r.bytes r.pos r.parts ws
    else (r.parts, ws.foldl (fun s w => digestWrite s c 2 w.1 w.2) s)
  let ends := if r.mc.isSome then r.ends else (engEnds s c ws).foldl nins r.ends
  modChan o.2 c ch fun x => { x with run := some { r with pos := r.pos + 1, parts := o.1, ends := ends } }

/-- COPY_ROW: the channel reads a source row or tile and writes what it forms (R206, R207). -/
def execCopyRow (core ch : Nat) (s : State) : Out :=
  let x := getChan s core ch
  match x.run with
  | none => cannot s
  | some r =>
    if !coreRuns s core || x.st ≠ .busy || decide (cdSteps r.bytes ≤ r.pos) then cannot s
    else
      match copyStep s core r with
      | .error e => done (copyErr s core ch (copySrc r) false e)
      | .ok o =>
        match r.mc with
        | some m =>
          if !canInject s core 3 then cannot s
          else
            let s := mcWrites (copySeen s core r) core ch m (decide (r.pos + 1 = cdSteps r.bytes)) (cdTail r.bytes) o.1
            done (copyCount (raiseFlags s core r.req.ctx o.2) core ch r o.1)
        | none =>
          match putAll (copySeen s core r) core spAll o.1 with
          | .error e => done (copyErr s core ch (copyDstOf o.1) true e)
          | .ok s => done (copyCount (raiseFlags s core r.req.ctx o.2) core ch r o.1)

/-! ### A descriptor completes (R81, R254) -/

/-- The channel has finished its descriptor: it goes on to the next or is idle. -/
def chanNext (s : State) (c ch : Nat) : State :=
  wake (modChan s c ch fun x => { x with run := none, st := if x.queue = [] then .idle else .busy,
                                          descaddr := (x.queue.head?.map (·.desc)).getD x.descaddr }) c

/-- COPY_DESCRIPTOR_COMPLETE: every row is written; the tail's ARRIVE is made (R81). A multicast to an empty set completes
here, one to others by its counts (R253, R254). -/
def execCopyDescriptorComplete (core ch : Nat) (s : State) : Out :=
  let x := getChan s core ch
  match x.run with
  | none => cannot s
  | some r =>
    if !coreRuns s core || x.st ≠ .busy || decide (r.pos < cdSteps r.bytes) || injBlocked s core then cannot s
    else match r.mc with
      | some m => if mcSet s (coreParcelNum s core) m = [] then done (chanNext s core ch) else cannot s
      | none =>
        let s := match cdTail r.bytes with
          | some b => tailTo s core r.ends b
          | none => s
        done (chanNext s core ch)

/-- The flit is a count for this channel that has arrived. -/
def isCount (c ch : Nat) (f : Flit) : Bool := f.arrived && f.kind = .int32Sum && f.what = .mcCount c ch

/-- MULTICAST_COUNT_COMPLETE: the counts that have arrived make the size of the delivery set (R254). -/
def execMulticastCountComplete (core ch : Nat) (s : State) : Out :=
  let x := getChan s core ch
  match x.run with
  | none => cannot s
  | some r =>
    match r.mc with
    | none => cannot s
    | some m =>
      let n := ((s.mesh.net.filter (isCount core ch)).map fun f => leNat (f.payload.take 4)).sum
      let size := (mcSet s (coreParcelNum s core) m).length
      if n = size ∧ size ≠ 0 ∧ cdSteps r.bytes ≤ r.pos ∧ x.st = .busy then
        done (chanNext { s with mesh := { s.mesh with net := s.mesh.net.filter fun f => !isCount core ch f } } core ch)
      else cannot s

end Sys2Proof.Machine
end

