-- ==== Sys2Proof/Machine/Far.lean ====
section
/-!
DEFINITION. Far-memory ports: requests, the Cadastre cache, the ring cache, and the retirement of rows and pages
(R190 to R199, R216 to R222).
-/

namespace Sys2Proof.Machine

/-! ### Requests at a port (R192, R194, R198, R202) -/

/-- The far address of a request. -/
def Flit.fa (f : Flit) : Nat := f.addr.toNat
/-- Bytes that a request reads or writes. -/
def Flit.len (f : Flit) : Nat := if f.payload = [] then f.what.size else f.payload.length
/-- The request is a write. -/
def Flit.isWr (f : Flit) : Bool := f.payload ≠ []
/-- The physical line of a request. -/
def reqLine (s : State) (f : Flit) : Nat := farLine s f.fa

/-- The die of a far port (R22). -/
def portDie (p : Nat) : Nat := p / 24

/-- The bank queue of a far address: the channel and the bank that its offset selects (R190, R194). -/
def farBank (fa : Nat) : Nat := bits fa 6 6

/-- A request can be admitted: its page is not paused, no snoop that it waits for is out, and its bank queue of 32 has room
(R194, R199, R315); a tail is no access. -/
def FarPort.admits (x : FarPort) (s : State) (f : Flit) : Bool :=
  f.kind = .tail ||
  (!x.paused (f.fa / 2 ^ 24) && !(x.snoops.any fun z => z.line = reqLine s f && z.snooped && !z.lapsed) &&
    decide ((x.missSlots.countP fun g => farBank g.fa = farBank f.fa) < 32))

/-- The older of two requests, the first where they are of an age (R195). -/
def olderOf (o : Option Flit) (f : Flit) : Option Flit :=
  match o with
  | none => some f
  | some g => if f.born < g.born then some f else some g

/-- The oldest waiting request that can be admitted (R194, R195). -/
def nextReq (s : State) (port : Nat) : Option Flit :=
  let x := getPortF s port
  (x.ingress.filter fun f => x.admits s f).foldl olderOf none

/-- A store that its port holds (Table 7-6); that of a context under reset is discarded (R406). -/
def holdStore (s : State) (f : Flit) (kind : Nat) : State :=
  match f.what with
  | .store c k pc a =>
    if (getCtx s c k).resetting then s else
    let s := modCtx s c k fun y => { y with heldSt := y.heldSt ++ [{ addr := a, data := f.payload, pc := pc, born := f.born }] }
    wake (addFault s f.parcel (f.fa / 2 ^ 24) kind { requester := 0, index := k, core := c, addr := a, write := true }) c
  | _ => s

/-- A load whose page refuses it: its context becomes HELD at the LD (Table 7-6). -/
def holdLoad (s : State) (f : Flit) (kind : Nat) : State :=
  match f.what with
  | .load c k _ =>
    match (getCtx s c k).wait with
    | .load _ _ _ a => wake (hold s c k kind (f.fa / 2 ^ 24) a false) c
    | _ => s
  | _ => s

/-- A request fails R198: a page fault (R202). -/
def faultReq (s : State) (f : Flit) (kind : Nat) : State := if f.isWr then holdStore s f kind else holdLoad s f kind

/-- The largest request age seen takes in that of a request, which the spec does not fix (R195). -/
def noteAge (s : State) (p : Nat) : State :=
  let (v, s) := takeFree s
  modPortF s p fun x => { x with ageMax := if x.ageMax.toNat < v.toNat % 65536 then v.extractLsb' 0 16 else x.ageMax }

/-- A line of the device that is not valid was to feed a request (R218, R227). -/
def notValid (s : State) (p : Nat) (f : Flit) : State := uncData s f.parcel 0x08 1 p (BitVec.ofNat 64 f.fa) false none

/-! ### Held contexts go on (R204) -/

/-- The requester is a context: itself, its tile stream, its launch, or the Cairn that it owns (Table 11-10). -/
def FaultReq.ctxOf (r : FaultReq) : Option (Nat × Nat) :=
  if r.requester = 1 ∨ (r.requester = 3 ∧ r.index = 4) then none else some (r.core, r.index)

/-- The context is HELD for the requester: one of its own, or the Cairn's fault that it waits on (R135, R204). -/
def FaultReq.holds (s : State) (c k : Nat) (r : FaultReq) : Bool :=
  r.ctxOf = some (c, k) && (r.requester ≠ 4 || (getCtx s c k).wait = .fault r.addr)

/-- A held set still names a context. -/
def ctxFaulted (s : State) (c k : Nat) : Bool := s.far.faults.any fun f => f.held.any (FaultReq.holds s c k)

/-- A held store of the context has been released and waits at its port to be performed (R204). -/
def redoing (s : State) (c k : Nat) : Bool :=
  s.far.ports.any fun e => (e.2.ingress ++ e.2.missSlots).any fun f => f.arrived && (match f.what with
    | .store a b _ _ => a = c && b = k
    | _ => false)

/-- A HELD context goes on once nothing of it is held any more and its held stores are performed (R204). -/
def releaseCtx (s : State) (c k : Nat) : State :=
  if (getCtx s c k).st = .held ∧ (getCtx s c k).heldSt = [] ∧ ctxFaulted s c k = false ∧ redoing s c k = false then
    modCtx s c k fun y => { y with st := .ready, wait := .none }
  else s

/-- A store has been performed, or will not be: its context may go on. -/
def releaseStore (s : State) (w : FlitFor) : State :=
  match w with
  | .store c k _ _ => releaseCtx s c k
  | _ => s

/-- The ring cache serves a request and answers it (R191, R192). -/
def serveFar (s : State) (p : Nat) (f : Flit) : State :=
  let s := noteAge s p
  if f.isWr then
    if farPartInvalid s f.fa f.len then releaseStore (notValid s p f) f.what
    else
      let s := releaseStore (storeDone (farPut (bump s (fmpBlock p) 1 1) f.fa f.payload) f.what f.payload) f.what
      inject s (answer f .farResp false [])
  else
    let valid := (unitsOf 64 f.fa f.len).all fun l => unitValid s.far.swInit s.far.marks (farLine s (l * 64))
    if !valid then notValid s p f
    else
      let bs := (List.range f.len).map fun i => mrd s.far.mem (farByte s (f.fa + i))
      inject (bump s (fmpBlock p) 0 1) (answer f .farResp false bs)

/-- A host-held line is snooped before a core's access to it (R315). -/
def farReqSnoop (s : State) (f : Flit) : Option Nat := farSnoop s f.fa f.len f.isWr

/-- The port's answers can leave: the die takes injections and its queue has room (R243, R260). -/
def portAnswers (s : State) (port : Nat) : Bool := !dieStopped s (endpointSite (800 + port)) && injRoom s (800 + port) 1

/-- A tail at a port: its ADD is made; every write before it has been performed (R258). -/
def farTail (s : State) (port : Nat) (f : Flit) : State :=
  let m : BeaconMsg := { core := 0, site := endpointSite (800 + port), ctx := 0, beacon := f.addr.toNat % 8192, op := .add 1 }
  { s with mesh := { s.mesh with msgs := s.mesh.msgs ++ [m] } }

/-- FAR_REQUEST_AT_PORT: the oldest request waiting at the port whose bank queue has room is checked against its page's
cached entry, and is served, takes a miss slot, or faults (R191, R194, R195, R198, R202, R315). -/
def execFarRequestAtPort (port : Nat) (s : State) : Out :=
  let x := getPortF s port
  match nextReq s port with
  | none => cannot s
  | some f =>
    let fpn := f.fa / 2 ^ 24
    let rest := x.ingress.erase f
    if 48 ≤ port ∨ portAnswers s port = false then cannot s
    else if f.kind = .tail then done (farTail (modPortF s port fun x => { x with ingress := rest }) port f)
    else if fpn ∉ x.cadCache then cannot s
    else
      let out (s : State) : State := modPortF s port fun x => { x with ingress := rest,
                                                                       cadCache := fpn :: x.cadCache.filter fun c => c ≠ fpn }
      match pageRefusal (getEnt s fpn) f.parcel false (!f.isWr) f.isWr with
      | some k => done (faultReq (out s) f k)
      | none =>
        match farReqSnoop s f with
        | some l => done (startSnoop s l f.isWr)
        | none =>
          let l := reqLine s f
          if l ∈ x.lines ∧ (x.missSlots.all fun g => reqLine s g ≠ l) then
            let s := modPortF (out s) port fun x => x.touch l f.isWr
            done (serveFar (bump s (fmpBlock port) 2 1) port f)
          else if 256 ≤ x.missSlots.length then cannot s
          else done (bump (modPortF (out s) port fun x => { x with missSlots := x.missSlots ++ [f] }) (fmpBlock port) 3 1)

/-- CADASTRE_CACHE_MISS: the entry of the oldest request's page comes from the die's share; the cache holds 512 (R194). -/
def execCadastreCacheMiss (port : Nat) (s : State) : Out :=
  let x := getPortF s port
  match nextReq s port with
  | none => cannot s
  | some f =>
    let fpn := f.fa / 2 ^ 24
    if fpn ∈ x.cadCache ∨ 48 ≤ port ∨ f.kind = .tail then cannot s
    else
      let s := modPortF s port fun x => { x with cadCache := (fpn :: x.cadCache).take 512 }
      done (bump (bump s (fmpBlock port) 10 1) (cadBlock (portDie port)) 0 1)

/-- The cached copy of an entry is invalidated (R199, R201). -/
def dropCad (s : State) (fpn : Nat) : State :=
  modPortF s (fpnPort fpn) fun x => { x with cadCache := x.cadCache.filter fun c => c ≠ fpn }

/-! ### The ring cache's fills (R191, R216 to R220) -/

/-- RS_MODE (R217). -/
def rsMode (s : State) : Nat := objNat s 0x3011 0 0

/-- The codeword of a physical line as the device returns it, with the symbols read wrongly. -/
def readWord (s : State) (l : Nat) (errs : List SymErr) : List Byte :=
  let d := mrdN s.far.mem (l * 64) 64
  errs.foldl (fun c e => rsFlip c e.pos e.bits) (d ++ rsCheck d)

/-- A corrected line is counted, written back and tallied (R219, R220). -/
def correctedLine (s : State) (p l : Nat) (d : List Byte) : State :=
  let s := bump s (fmpBlock p) 4 1
  let s := { s with far := { s.far with mem := mwrN s.far.mem (l * 64) d } }
  farTally s p (farRow (l * 64)) 0

/-- The syndromes of a word, for DETAIL (Table 8-5). See log 18 [DEDUCED]. -/
def synWord (c : List Byte) : W32 := BitVec.ofNat 32 (leNat ((List.range 4).map (rsSyn c)))

/-- RING_CACHE_FILL: the line of the oldest miss comes from the device and serves every request that waits for it. -/
def execRingCacheFill (port : Nat) (errs : List SymErr) (s : State) : Out :=
  let x := getPortF s port
  match x.missSlots with
  | [] => cannot s
  | f :: _ =>
    let l := reqLine s f
    let mine := x.missSlots.filter fun g => reqLine s g = l
    let clear (s : State) : State := modPortF s port fun x => { x with missSlots := x.missSlots.filter fun g => decide (g ∉ mine) }
    if x.paused (f.fa / 2 ^ 24) ∨ portAnswers s port = false then cannot s
    else if !unitValid s.far.swInit s.far.marks l then done (mine.foldl (fun s g => notValid s port g) (clear s))
    else match rsDecode (rsMode s) (readWord s l errs) with
      | none =>
        let d := synWord (readWord s l errs)
        done (mine.foldl (fun s g => releaseStore (uncData s g.parcel 0x07 1 port (BitVec.ofNat 64 g.fa) false none d) g.what) (clear s))
      | some (d, fixed) =>
        let s := if fixed then correctedLine s port l d else s
        let s := modPortF (clear s) port fun x => (x.insert l).touch l (mine.any Flit.isWr)
        done (mine.foldl (fun s g => serveFar s port g) s)

/-! ### Retirement (R199, R220 to R222, R224) -/

/-- The tally entry of a row has reached a threshold and is not frozen (R220, R221). -/
def tallyDue (l : List TallyRow) (row n : Nat) : Bool := l.any fun x => x.row = row && decide (n ≤ x.count) && !x.frozen

/-- The tally without a row. -/
def tallyDrop (l : List TallyRow) (row : Nat) : List TallyRow := l.filter fun x => x.row ≠ row
/-- The tally with a row's entry frozen (R221). See log 65 [DEDUCED]. -/
def tallyFreeze (l : List TallyRow) (row : Nat) : List TallyRow := l.map fun x => if x.row = row then { x with frozen := true } else x

/-- The entry that names a physical page. -/
def entOfPpn (s : State) (ppn : Nat) : Option Nat :=
  ((List.range 3840).map fun i => ppn / 3840 * 3840 + i).find? fun f => entPpn s f = ppn

/-- An FPN of the retirement reserve of twinned operation (R287). -/
def twinReserve (s : State) (f : Nat) : Bool := twinned s && decide (3836 ≤ f % 3840)

/-- Entries that R199 and R287 let the Lodge choose as B. -/
def reservePages (s : State) (port a : Nat) : List Nat :=
  ((List.range 3840).map fun i => port * 3840 + i).filter fun f =>
    let e := getEnt s f
    f ≠ a && !e.v && !e.ret && !e.zpend && (!twinned s || twinReserve s f)

/-- The reserve page that a free value picks for page a (log 12 [DESIGN CHOICE]). -/
def pickPage (s : State) (port a : Nat) (v : W64) : Option Nat :=
  let bs := reservePages s port a
  bs[v.toNat % bs.length]?

/-- The incident of a far page's retirement (Tables 8-7, 8-9). -/
def incRetire (port a : Nat) : Inc :=
  { cls := 0x11, action := 6, locKind := 1, locNum := port, domain := locDomain 1 port, addr := BitVec.ofNat 64 (a * 2 ^ 24) }

/-- A far retirement is due: class 0x11 is logged, and is handled until this page's copy completes; one that is due while
another's is handled counts as overflow (R236, Table 8-9). -/
def dueRetire (s : State) (port a : Nat) : State :=
  if 0x11 ∈ s.repair.handling then logInc s (incRetire port a)
  else
    let s := logInc s (incRetire port a)
    { s with repair := { s.repair with handled11 := some (port, a) } }

/-- The retirement whose incident is being handled is over (R236). -/
def endRetire (s : State) (port a : Nat) : State :=
  if s.repair.handled11 = some (port, a) then
    let s := endHandling s 0x11
    { s with repair := { s.repair with handled11 := none } }
  else s

/-- The retirement of page a takes a reserve page, or there is none left: then the flag says that the next may try
(R222, log 12 [DESIGN CHOICE]). One that does not have to wait is logged when it starts (Table 8-9). -/
def retireOne (s : State) (port a : Nat) (waited : Bool) : State × Bool :=
  match pickPage s port a (takeFree s).1 with
  | none => (endRetire (logInc (takeFree s).2 { incRetire port a with cls := 0x12, action := 7 }) port a, true)
  | some b =>
    let s := if waited then (takeFree s).2 else dueRetire (takeFree s).2 port a
    (modPortF s port fun x => { x with retiring := some { a := a, b := b } }, false)

/-- The next queued retirement of a port starts, when none runs: the Lodge chooses B, or the retirement is refused (R199,
R222; which of the eligible entries it takes is open, log 12 [DESIGN CHOICE]). -/
def startRetire (s : State) (port : Nat) (waited : Bool) : Nat → State
  | 0 => s
  | n + 1 =>
    let x := getPortF s port
    match x.retiring, x.retireQ with
    | none, a :: rest =>
      let r := retireOne (modPortF s port fun x => { x with retireQ := rest }) port a waited
      if r.2 then startRetire r.1 port waited n else r.1
    | _, _ => s

/-- ROW_RETIREMENT: a row has reached its threshold; its retirement starts or is queued (R220, R222). -/
def execRowRetirement (place : RowPlace) (row : Nat) (s : State) : Out :=
  match place with
  | .terrace site =>
    if tallyDue (getSite s site).tally row (terThresh s) && decide (row ∉ (getSite s site).retireQ) then
      done (modSite s site fun x => { x with retireQ := x.retireQ ++ [row] })
    else cannot s
  | .far port =>
    let x := getPortF s port
    if tallyDue x.tally row (farThresh s) then
      match entOfPpn s (row / 16384) with
      | none => cannot s
      | some a =>
        let again := decide (a ∈ x.retireQ) || x.paused a
        let s := if !again && x.retiring.isSome then dueRetire s port a else s
        let s := modPortF s port fun x =>
          { x with tally := tallyFreeze x.tally row, retireQ := if again then x.retireQ else x.retireQ ++ [a] }
        done (startRetire s port false 1)
    else cannot s

/-! ### The Repair Plat (R223) -/

/-- The macro of a row: its bank, of 64 in a terrace (R187) and 16 in a near memory (R75). See log 18 [DEDUCED]. -/
def macroOf (r : Nat × Nat) : Nat × Nat := (r.1, if r.1 < 800 then r.2 % 64 else r.2 % 16)

/-- Spare rows of a row's macro that are in use (R223). -/
def sparesUsed (s : State) (r : Nat × Nat) : Nat := s.repair.plat.countP fun e => macroOf (e.1, e.2.1) = macroOf r

/-- The row's macro has a free spare row, of the 8 that its entry lists (R223). -/
def spareRow (s : State) (r : Nat × Nat) : Bool := decide (sparesUsed s r < 8)

/-- A spare row takes the place of a row for this run, where its macro has one. -/
def useSpare (s : State) (r : Nat × Nat) : State :=
  if spareRow s r then { s with repair := { s.repair with plat := s.repair.plat ++ [(r.1, r.2, sparesUsed s r)] } } else s

/-- A soft entry is recorded; in a full store it is not, and class 0x16 is logged (R223, R224). -/
def recordSoft (s : State) (r : Nat × Nat) (i : Inc) : State :=
  let s := useSpare s r
  if s.repair.softRows.length < 4096 then { s with repair := { s.repair with softRows := s.repair.softRows ++ [r] } }
  else logInc s { i with cls := 0x16, action := 0 }

/-- The row's words as the copy to the spare leaves them: one that cannot be corrected is the poison word (R221, R226). -/
def copyRow (s : State) (site row : Nat) (v : W64) : State :=
  modSite s site fun x =>
    let bad := ((List.range 8).map fun i => row * 8 + i).filter fun u => !unitValid s.far.swInit x.terrMarks u || Config.copyLoses v u
    { x with terr := bad.foldl (fun m u => mwrN m (u * 8) (zeros 8)) x.terr, terrMarks := markInvalid s.far.swInit x.terrMarks bad }

/-- TERRACE_ROW_RETIRE: the row is copied to a spare of its macro and redirected, or the retirement is refused where the
macro has no free spare row (R221, R223). -/
def execTerraceRowRetire (site row : Nat) (s : State) : Out :=
  if row ∉ (getSite s site).retireQ then cannot s
  else
    let i : Inc := { cls := 0x10, action := 6, locKind := 0, locNum := site, domain := meshDomain site,
                     addr := BitVec.ofNat 64 row }
    let s := modSite s site fun x => { x with retireQ := x.retireQ.filter fun r => r ≠ row }
    if spareRow s (site, row) then
      let (v, s) := takeFree s
      let s := copyRow (endHandling (logInc s i) 0x10) site row v
      let s := modSite s site fun x => { x with tally := tallyDrop x.tally row }
      done (recordSoft (bump s (siteBlock site) 23 1) (site, row) i)
    else
      let s := logInc s { i with cls := 0x12, action := 7 }
      done (modSite s site fun x => { x with tally := tallyFreeze x.tally row })

/-- The bytes of one physical page in the place of another's. -/
def movePage (m : List Host.Cell) (pa pb : Nat) : List Host.Cell :=
  let old := m.filter fun c => c.1 / 2 ^ 24 ≠ pb
  (m.filter fun c => c.1 / 2 ^ 24 = pa).foldl (fun acc c => mwr acc (pb * 2 ^ 24 + c.1 % 2 ^ 24) c.2) old

/-- The validity marks of one physical page's lines in the place of another's. -/
def moveMarks (m : List Nat) (pa pb : Nat) : List Nat :=
  (m.filter fun l => l / 2 ^ 18 = pa).foldl (fun acc l => nins acc (pb * 2 ^ 18 + l % 2 ^ 18)) (m.filter fun l => l / 2 ^ 18 ≠ pb)

/-- Lines of physical page pb that the copy into it could not correct: they are written as not valid (R222). -/
def lostLines (pb : Nat) (v : W64) : List Nat := ((List.range (2 ^ 18)).map fun i => pb * 2 ^ 18 + i).filter (Config.copyLoses v)

/-- Entries A and B exchange their PPN fields, and B is retired (R199). -/
def exchangePpn (s : State) (a b : Nat) : State :=
  let d := BitVec.ofNat 18 (entPpn s a) ^^^ BitVec.ofNat 18 (entPpn s b)
  modEnt (modEnt s a fun e => { e with ppnDiff := e.ppnDiff ^^^ d }) b fun e => { e with ppnDiff := e.ppnDiff ^^^ d, ret := true }

/-- A port's retirement is over: the page is copied, the PPNs are exchanged and the accesses resume (R199, R222, R224). -/
def pageRetired (s : State) (port : Nat) : State :=
  match (getPortF s port).retiring with
  | none => s
  | some r =>
    let pa := entPpn s r.a
    let pb := entPpn s r.b
    let (v, s) := takeFree s
    let marks := markInvalid s.far.swInit (moveMarks s.far.marks pa pb) (lostLines pb v)
    let s := { s with far := { s.far with mem := movePage s.far.mem pa pb, marks := marks } }
    let s := dropCad (dropCad (exchangePpn s r.a r.b) r.a) r.b
    let moved (l : Nat) : Nat := if l / 2 ^ 18 = pa then pb * 2 ^ 18 + l % 2 ^ 18 else l
    let s := modPortF s port fun x =>
      { x with retiring := none, lines := x.lines.filter fun l => l / 2 ^ 18 ≠ pa && l / 2 ^ 18 ≠ pb,
               dirtyLines := x.dirtyLines.filter fun l => l / 2 ^ 18 ≠ pa && l / 2 ^ 18 ≠ pb,
               tally := x.tally.filter fun t => t.row / 16384 ≠ pa,
               snoops := x.snoops.map fun z => { z with line := moved z.line } }
    let s := endRetire (bump s (cadBlock (portDie port)) 2 1) port r.a
    let s := if s.repair.retired.length < 1024 then { s with repair := { s.repair with retired := s.repair.retired ++ [(r.a, r.b)] } }
      else logInc s { cls := 0x16, locKind := 1, locNum := port, domain := locDomain 1 port, addr := BitVec.ofNat 64 (r.a * 2 ^ 24) }
    startRetire s port true (getPortF s port).retireQ.length

end Sys2Proof.Machine
end

