-- ==== Sys2Proof/Machine/TileRun.lean ====
section
/-!
DEFINITION. The stream, the arrays, the plumb lane and the drain engine at work (R100 to R121, R40 to R43).
-/

namespace Sys2Proof.Machine

/-! ### The stream's queue (R93, R104, R106) -/

/-- The next row of a sequence comes before the place where it was interrupted (R115, R116). -/
def TseqJob.beforeStop (j : TseqJob) : Bool :=
  match j.stopAt with
  | none => true
  | some p => decide (j.chunk < p.1) || (j.chunk = p.1 && decide (j.row < p.2))

/-- The sequence has rows still to enter the stream. -/
def TseqJob.active (j : TseqJob) : Bool := !j.entered && decide (j.chunk < tdChunks j.desc) && j.beforeStop

/-- The sequence that the stream serves: the first with rows to enter. -/
def Tiles.head (x : Tiles) : Option TseqJob := x.jobs.find? TseqJob.active

/-- A job of a number changed. -/
def Tiles.modJob (x : Tiles) (sn : Nat) (f : TseqJob → TseqJob) : Tiles :=
  { x with jobs := x.jobs.map fun j => if j.sn = sn then f j else j }

/-- The slot of a panel: slot c mod 2 of its array (R104). -/
def slotKey (arr chunk : Nat) : Nat := arr * 2 + chunk % 2

/-- The panel of an array for a chunk that a slot holds. -/
def Tiles.panel (x : Tiles) (sn arr chunk : Nat) : Option (List Byte) :=
  let y := sget { sn := 0, chunk := 0, bytes := [] } x.slots (slotKey arr chunk)
  if y.bytes ≠ [] ∧ y.sn = sn ∧ y.chunk = chunk then some y.bytes else none

/-- The address of a panel (R102). -/
def tdPanel (b : List Byte) (arr chunk : Nat) : W64 := addOff (tdWsrc b) (sfield b 36 4 * arr + sfield b 40 4 * chunk)
/-- The address of an activation row and of its scales (R102). -/
def tdRow (b : List Byte) (chunk row : Nat) : W64 := addOff (tdAsrc b) (sfield b 24 4 * row + sfield b 28 4 * chunk)
def tdScales (b : List Byte) (chunk row : Nat) : W64 := addOff (tdAscale b) (sfield b 32 4 * row + (chunk * tdSb b : Nat))

/-- Jobs whose rows have all entered, or that were interrupted, and have none in the pipeline, are done (R104, R115). -/
def Tiles.finish (x : Tiles) : Tiles :=
  { x with jobs := x.jobs.filter fun j =>
      (x.pipe.any fun p => p.sn = j.sn) || !(j.entered || (j.stopAt.isSome && !j.beforeStop)) }

/-- Sequences, ACCRELs and waits go on after tile work has happened. -/
def tileWake (s : State) (c : Nat) : State := wake (modTiles s c fun t => t.finish.runRels) c

/-! ### What stops the stream (R103, R115, Table 8-4) -/

/-- The last row has entered the stream: TSTART becomes zero and the context's wait ends (R104). -/
def lastRowIn (s : State) (c : Nat) (j : TseqJob) : State :=
  let s := modTiles s c fun t => t.modJob j.sn fun x => { x with entered := true, waited := false }
  if j.waited then retire (modCtx s c j.ctx fun y => { y with tstart := 0 }) c j.ctx else s

/-- The sequence is interrupted at its next row: TSTART takes it and the context no longer waits for it; one whose last row
has entered the stream is over instead (R104, R115). See log 60 [DEDUCED]. -/
def stopTseq (s : State) (c : Nat) (j : TseqJob) : State :=
  if tdChunks j.desc ≤ j.chunk then lastRowIn s c j
  else
    let s := modTiles s c fun t => t.modJob j.sn fun x => { x with stopAt := some (x.chunk, x.row), waited := false }
    modCtx s c j.ctx fun y => { y with tstart := mkTstart j.chunk j.row }

/-- A page fault of a sequence that its context no longer waits for: a record is written once, and the stream waits at the
row until the page lets it pass. -/
def streamFault (s : State) (c : Nat) (j : TseqJob) (a : W64) (k f : Nat) : State :=
  let r : FaultReq := { requester := 2, index := j.ctx, core := c, addr := a, write := false }
  if s.far.faults.any fun g => decide (r ∈ g.held) then s else addFault s (coreParcelNum s c) f k r

/-- A read of the stream did not deliver, for the sequence that the stream serves; a is the address (R103, R115;
log 60 [DEDUCED]). -/
def streamErr (s : State) (c : Nat) (j : TseqJob) (a : W64) : AccErr → State
  | .reach =>
    if j.waited then tileWake (trap (stopTseq s c j) c j.ctx 0x03 a) c
    else tileWake (modTiles s c fun t => t.modJob j.sn fun x => { x with stopAt := some (x.chunk, x.row) }) c
  | .fault k f =>
    if j.waited then
      let s := modCtx (stopTseq s c j) c j.ctx fun y => { y with st := .held, wait := .fault a }
      tileWake (addFault s (coreParcelNum s c) f k { requester := 2, index := j.ctx, core := c, addr := a, write := false }) c
    else streamFault s c j a k f
  | .unc cls kd num => uncArith s c cls kd num a false
  | .snoop l => startSnoop s l false
  | .paused => s

/-- PANEL_LOAD: the current chunk's panel of an array is loaded, or the next chunk's behind it (R100, R101, R106). -/
def execPanelLoad (core arr : Nat) (s : State) : Out :=
  let t := getTiles s core
  match t.jobs.find? fun j => j.active && j.arr.getLsbD arr with
  | none => cannot s
  | some j =>
    let now := (t.panel j.sn arr j.chunk).isNone
    let c := if now then j.chunk else j.chunk + 1
    if !coreRuns s core || decide (tdChunks j.desc ≤ c) || (t.panel j.sn arr c).isSome then cannot s
    else
      let a := tdPanel j.desc arr c
      match engRead s core spAll a 2176 with
      | .ok bs => done (modTiles (engSeen s core a 2176) core fun t =>
          { t with slots := sset { sn := 0, chunk := 0, bytes := [] } t.slots (slotKey arr c) { sn := j.sn, chunk := c, bytes := bs } })
      | .error e => if now && t.head.map (·.sn) = some j.sn then done (streamErr s core j a e) else cannot s

/-- The panels that a row meets, for each array of its sequence; none while one is missing. -/
def rowPanels (t : Tiles) (j : TseqJob) : Option (List (Nat × List Byte)) :=
  (arrs j.arr).foldr (fun m acc =>
    match acc, t.panel j.sn m j.chunk with
    | some l, some b => some ((m, b) :: l)
    | _, _ => none) (some [])

/-- The sequence after a row of it has entered. -/
def TseqJob.advance (j : TseqJob) : TseqJob :=
  if j.row + 1 < tdM j.desc then { j with row := j.row + 1 } else { j with chunk := j.chunk + 1, row := 0 }

/-- STREAM_ROW_ENTRY: the next row of the sequence that the stream serves is read and enters (R104, R105). -/
def execStreamRowEntry (core : Nat) (s : State) : Out :=
  let t := getTiles s core
  match t.head with
  | none => cannot s
  | some j =>
    match rowPanels t j with
    | none => cannot s
    | some ps =>
      if !coreRuns s core then cannot s
      else
        let a := tdRow j.desc j.chunk j.row
        let sa := tdScales j.desc j.chunk j.row
        match engRead s core spAll a 64 with
        | .error e => done (streamErr s core j a e)
        | .ok act =>
          match (if fmtMx (tdAfmt j.desc) then engRead s core spAll sa (tdSb j.desc) else .ok []) with
          | .error e => done (streamErr s core j sa e)
          | .ok sc =>
            let r : PipeRow := { sn := j.sn, chunk := j.chunk, row := j.row, act := act, scales := sc, panels := ps,
                                 last := j.chunk + 1 = tdChunks j.desc && j.row + 1 = tdM j.desc }
            let s := engSeen s core a 64
            let s := if fmtMx (tdAfmt j.desc) then engSeen s core sa (tdSb j.desc) else s
            done (tileWake (modTiles s core fun t => ({ t with pipe := t.pipe ++ [r] } : Tiles).modJob j.sn TseqJob.advance) core)

/-- TSEQ_LAST_ROW_ENTERED: TSTART becomes zero and the context's wait ends (R104). -/
def execTseqLastRowEntered (core : Nat) (s : State) : Out :=
  match (getTiles s core).jobs.find? fun j => !j.entered && decide (tdChunks j.desc ≤ j.chunk) with
  | none => cannot s
  | some j => done (tileWake (lastRowIn s core j) core)

/-! ### A row meets its panels (R40 to R43) -/

/-- The weight row of lane j of a panel, and its scale bytes (Table 4-8). -/
def laneRow (panel : List Byte) (j : Nat) : List Byte := (panel.drop (64 * j)).take 64
def laneScales (panel : List Byte) (j : Nat) : List Byte := (panel.drop (2048 + 4 * j)).take 4

/-- The scale that applies to element i of a side: block scale, per-tensor scale, or 1 (R40). -/
def sideScale (fmt : Nat) (sc : List Byte) (tensor : W32) (i : Nat) : FV :=
  if fmtMx fmt then e8m0 (sc.getD (i / 32) 0x7F) else if fmtFp8 fmt then ofF32 tensor else .fin false 1 0 false

/-- The element values of a 64-byte row by its scales. -/
def sideVals (fmt : Nat) (row sc : List Byte) (tensor : W32) : List FV :=
  (unpack (fmtBits fmt) row).zipIdx.map fun x => (elemVal fmt x.1).mul (sideScale fmt sc tensor x.2)

/-- The exact sum of a lane (R40, R41), before any fault; a weight row that is all +0 contributes +0 (R100). -/
def laneDot (b : List Byte) (p : PipeRow) (panel : List Byte) (j : Nat) : FV :=
  let as := sideVals (tdAfmt b) p.act p.scales (tdAsc b)
  let ws := sideVals (tdWfmt b) (laneRow panel j) (laneScales panel j) (tdWsc b)
  let v := laneSum (List.zipWith FV.mul as ws)
  if v.isZero && allZero (laneRow panel j) then .fin false 0 0 false else v

/-- The exact integer sum of a lane of row class 8I (R43). -/
def laneDotInt (p : PipeRow) (panel : List Byte) (j : Nat) : Int :=
  (List.zipWith (fun a w => sint 8 a * sint 8 w) (unpack 8 p.act) (unpack 8 (laneRow panel j))).sum

/-- A plain FP8 operand of the sequence has an unusable scale (R42). -/
def badTileScale (b : List Byte) : Bool :=
  (fmtFp8 (tdAfmt b) && !scaleOk (tdAsc b)) || (fmtFp8 (tdWfmt b) && !scaleOk (tdWsc b))

/-- The bits that faults turn in a lane's result. -/
def flipOf (fl : List LaneFlip) (arr j : Nat) : W32 :=
  fl.foldl (fun a f => if f.arr = arr ∧ f.lane = j then a ^^^ f.bits else a) 0

/-- A lane's result as the deskew buffer presents it: exact while no fault turns it (log 21 [DEDUCED]). -/
def laneOut (b : List Byte) (p : PipeRow) (fl : List LaneFlip) (m : Nat) (panel : List Byte) (j : Nat) : FV :=
  if badTileScale b then .nan
  else
    let v := laneDot b p panel j
    let x := flipOf fl m j
    if x = 0 then v else ofF32 (toF32 v ^^^ x)

/-- An integer lane's result as presented. -/
def laneOutInt (p : PipeRow) (fl : List LaneFlip) (m : Nat) (panel : List Byte) (j : Nat) : Int :=
  let v := laneDotInt p panel j
  let x := flipOf fl m j
  if x = 0 then v else (BitVec.ofInt 32 v ^^^ x).toInt

/-! ### The plumb lane (R119, R120) -/

/-- A 24-bit significand over a range wide enough for every value that can occur (R119). -/
def fmtWide : Fmt := ⟨20, 23, 524287, .ieee⟩

/-- A value rounded once to 24 bits. -/
def round24 (v : FV) : FV := fmtWide.decode (fmtWide.round v)

/-- The magnitude of a value. -/
def FV.mag : FV → FV
  | .nan => .nan
  | .inf _ => .inf false
  | .fin _ m e t => .fin false m e t

/-- The exact sum of values. -/
def fvSum (l : List FV) : FV := l.foldl FV.add (.fin false 0 0 false)

/-- P and A of a row (R119). -/
def plumbSums (b : List Byte) (p : PipeRow) (panel : List Byte) : FV × FV :=
  let as := sideVals (tdAfmt b) p.act p.scales (tdAsc b)
  let ws := (List.range 32).map fun j => sideVals (tdWfmt b) (laneRow panel j) (laneScales panel j) (tdWsc b)
  let col (g : FV → FV) (i : Nat) : FV := round24 (fvSum (ws.map fun w => g (w.getD i (.fin false 0 0 false))))
  let pv := fvSum (as.zipIdx.map fun x => x.1.mul (col id x.2))
  (pv, fvSum (as.zipIdx.map fun x => x.1.mag.mul (col FV.mag x.2)))

/-- The row passes the check of an array (R119, Table 4-13). -/
def plumbPasses (b : List Byte) (p : PipeRow) (panel : List Byte) (outs : List FV) : Bool :=
  let a := plumbSums b p panel
  let d := ((fvSum (outs.map fun v => ofF32 (toF32 v))).add a.1.negate).mag
  d.dy.le ⟨a.2.dy.n, a.2.dy.e - 20⟩

/-- A scale that the array applies to the row is 0xFF (R120). -/
def plumbScaleFF (b : List Byte) (p : PipeRow) (panel : List Byte) : Bool :=
  let n := (tdSb b)
  (fmtMx (tdAfmt b) && ((p.scales.take n).any fun x => x = 0xFF)) ||
  (fmtMx (tdWfmt b) && (List.range 32).any fun j => ((laneScales panel j).take n).any fun x => x = 0xFF)

/-- The check of an array skips the row: a lane result, P or A is infinite or NaN, or a scale is 0xFF (R120). Where no
fault turns a lane, a lane result shows each of these. -/
def plumbSkips (b : List Byte) (p : PipeRow) (panel : List Byte) (outs : List FV) (turned : Bool) : Bool :=
  (outs.any fun v => !(ofF32 (toF32 v)).isFin) ||
  (turned && (badTileScale b || plumbScaleFF b p panel || !(plumbSums b p panel).1.isFin || !(plumbSums b p panel).2.isFin))

/-- The integer check of an array: sums modulo 2^32 (Table 4-13). -/
def plumbPassesInt (p : PipeRow) (fl : List LaneFlip) (m : Nat) (panel : List Byte) : Bool :=
  decide ((((List.range 32).map fun j => laneOutInt p fl m panel j - laneDotInt p panel j).sum) % 2 ^ 32 = 0)

/-- What the check of an array says of a row. -/
inductive Plumb where
  | pass | skip | fail
  deriving DecidableEq, Repr

/-- The check of array m; without a fault a row never fails it (R120). -/
def plumbOf (b : List Byte) (p : PipeRow) (fl : List LaneFlip) (x : Nat × List Byte) : Plumb :=
  if tdInt b then (if plumbPassesInt p fl x.1 x.2 then .pass else .fail)
  else
    let outs := (List.range 32).map fun j => laneOut b p fl x.1 x.2 j
    let turned := fl.any fun f => f.arr = x.1
    if plumbSkips b p x.2 outs turned then .skip
    else if !turned then .pass
    else if plumbPasses b p x.2 outs then .pass else .fail

/-! ### A row commits (R104, R107, R109) -/

/-- A row of array m is accumulated into its tile, with INTOV where it sets (R40, R43, R109). -/
def commitArr (j : TseqJob) (p : PipeRow) (fl : List LaneFlip) (t : Tiles) (x : Nat × List Byte) : Tiles × W32 :=
  let t := if t.holds x.1 j.tile then t else t.open x.1 j.tile (tdInt j.desc)
  (List.range 32).foldl (fun (r : Tiles × W32) i =>
    let k := tileKey x.1 j.tile p.row i
    let acc := r.1.word x.1 j.tile p.row i
    if tdInt j.desc then
      let o := laneAccInt acc (laneOutInt p fl x.1 x.2 i)
      ({ r.1 with words := sset 0 r.1.words k o.1 }, if o.2 then r.2 ||| fINTOV else r.2)
    else ({ r.1 with words := sset 0 r.1.words k (laneAcc acc (laneOut j.desc p fl x.1 x.2 i)) }, r.2)) (t, 0)

/-- Earlier work on the same tile keeps the row back: a drain that has not read it, or that will release the tile (R113,
Table 4-2), an ACCREL not yet made. -/
def commitWaits (t : Tiles) (j : TseqJob) (p : PipeRow) : Bool :=
  (t.drains.any fun d => decide (d.sn < p.sn) && d.tile = j.tile && d.arr &&& j.arr ≠ 0 &&
    (d.rel || decide (d.row ≤ p.row) && decide (p.row < d.rows))) ||
  (t.rels.any fun r => decide (r.sn < p.sn) && r.tile = j.tile && r.arr &&& j.arr ≠ 0)

/-- A saturating 16-bit count rises by n. -/
def satAdd (v : BitVec 16) (n : Nat) : BitVec 16 := BitVec.ofNat 16 (min 65535 (v.toNat + n))

/-- A job goes back to its first row among those discarded (R121). -/
def TseqJob.back (j : TseqJob) (ps : List PipeRow) : TseqJob :=
  match ps.find? fun p => p.sn = j.sn with
  | none => j
  | some p => { j with chunk := p.chunk, row := p.row, entered := false }

/-- A failed check in solo operation: the row and those behind it are streamed again; a second failure of the same
execution fences the core (R121). -/
def repeatTseq (s : State) (c : Nat) (j : TseqJob) : State :=
  let s := bump s (siteBlock (csite s c)) 5 1
  let s := modCtx s c j.ctx fun y => { y with trepeats := satAdd y.trepeats 1 }
  let s := modTiles s c fun t =>
    let t := { t with jobs := t.jobs.map fun (x : TseqJob) => x.back t.pipe, pipe := [], slots := [] }
    t.modJob j.sn fun x => { x with fails := x.fails + 1 }
  if j.fails = 0 then s
  else match coreParcel s c with
    | none => s
    | some p => stopStep (fenceCore s c) p .replay

/-- A failed plumb check: class 0x20 (R121). -/
def plumbFails (s : State) (c : Nat) (j : TseqJob) : State :=
  let site := csite s c
  let act := if twinned s then 5 else if j.fails = 0 then 0 else 8
  let i : Inc := { cls := 0x20, action := act, parcel := coreParcel s c, locKind := 0, locNum := site, domain := siteBed site,
                   addr := j.descAddr }
  let s := logInc s i
  if twinned s then failStop s 0x20 0 else repeatTseq s c j

/-- The row passes: it is accumulated in every array of its sequence (R104, R107, R120). -/
def commitRow (s : State) (c : Nat) (j : TseqJob) (p : PipeRow) (fl : List LaneFlip) (skips : Nat) : State :=
  let r := p.panels.foldl (fun (r : Tiles × W32) x =>
    let o := commitArr j p fl r.1 x
    (o.1, r.2 ||| o.2)) (getTiles s c, 0)
  let s := modTiles s c fun _ => { r.1 with pipe := r.1.pipe.drop 1 }
  let s := raiseFlags s c j.ctx r.2
  let s := modCtx s c j.ctx fun y => { y with tskips := satAdd y.tskips skips }
  let s := bump (bump s (siteBlock (csite s c)) 6 skips) (siteBlock (csite s c)) 1 p.panels.length
  tileWake s c

/-- TILE_ROW_COMMIT: the oldest row in the pipeline is checked and accumulated, or its sequence is repeated. -/
def execTileRowCommit (core : Nat) (flip : List LaneFlip) (s : State) : Out :=
  let t := getTiles s core
  match t.pipe with
  | [] => cannot s
  | p :: _ =>
    match t.jobs.find? fun j => j.sn = p.sn with
    | none => cannot s
    | some j =>
      if !coreRuns s core || commitWaits t j p then cannot s
      else
        let cs := p.panels.map (plumbOf j.desc p flip)
        if cs.any fun x => x = .fail then done (plumbFails s core j)
        else done (commitRow s core j p flip (cs.countP fun x => x = .skip))

/-! ### The drain engine (R110 to R114) -/

/-- DRAIN_ROW: the next row of the oldest drain goes through the epilogue, once it is committed and the Cairn has room. -/
def execDrainRow (core : Nat) (s : State) : Out :=
  let t := getTiles s core
  match t.drains with
  | [] => cannot s
  | d :: rest =>
    if !coreRuns s core || decide (d.rows ≤ d.row) || rowPending t d.sn d.arr d.tile d.row ||
        (edDest d.ep = 2 && !canInject s core 2) then cannot s
    else match drainRowWork s core d with
      | none => cannot s
      | some (.ok s) =>
        let ends := (engEnds s core ((edRow d.ep d.base d.row, [0]) ::
          (if fmtMx (edDfmt d.ep) then [(edScaleAddr d.ep d.base d.row, [0])] else []))).foldl nins d.ends
        done (tileWake (modTiles s core fun t => { t with drains := { d with row := d.row + 1, ends := ends } :: rest }) core)
      | some (.error .paused) => cannot s
      | some (.error (.unc cls kd num)) => done (uncArith s core cls kd num (edRow d.ep d.base d.row) false)
      | some (.error _) => done (tileWake (modTiles s core fun t => { t with drains := { d with row := d.row + 1 } :: rest }) core)

/-- DRAIN_COMPLETE: tiles are released under REL, the tail is made, and waits end (R114). -/
def execDrainComplete (core : Nat) (s : State) : Out :=
  match (getTiles s core).drains with
  | [] => cannot s
  | d :: rest =>
    if !coreRuns s core || decide (d.row < d.rows) || ((edTail d.ep).isSome && injBlocked s core) then cannot s
    else
      let s := modTiles s core fun t =>
        let t := { t with drains := rest }
        if d.rel then (arrs d.arr).foldl (fun t m => t.empty m d.tile) t else t
      let s := match edTail d.ep with
        | none => s
        | some b =>
          if edDest d.ep = 2 then inject s (tailFlit s core (bits d.base.toNat 32 10) b) else tailTo s core d.ends b
      done (tileWake s core)

end Sys2Proof.Machine
end

