-- ==== Sys2Proof/Machine/UpdateRun.lean ====
section
/-!
DEFINITION. The update engine and the norm gate at work (R152, R153, R157, R159, R166 to R169, R179).
-/

namespace Sys2Proof.Machine

/-- A launch that runs; its context's UPOS is the next group. -/
def runningLaunch (x : Site) : Option Launch := x.launches.find? fun l => l.st = .running

/-- The launch of a context changed. -/
def modLaunch (s : State) (c k : Nat) (f : Launch → Launch) : State :=
  modCore s c fun x => { x with launches := x.launches.map fun l => if l.ctx = k then f l else l }

/-- A boundary mark of the core's parcel is under way: no launch starts in it (R178). -/
def markRuns (s : State) (c : Nat) : Bool :=
  match coreParcel s c with
  | none => false
  | some p => (getPcl s p).mark.phase ≠ .none

/-- UPDATE_LAUNCH_START: the engine takes the launch that became able to start first (R152, R157, R169). -/
def execUpdateLaunchStart (core ctx : Nat) (s : State) : Out :=
  let s' := modCore s core refreshLaunches
  let x := getCore s' core
  match x.launches.find? fun l => l.ctx = ctx with
  | none => cannot s
  | some l =>
    if !coreRuns s core || (runningLaunch x).isSome || l.since = 0 || markRuns s core ||
        x.launches.any (fun y => decide (y.since ≠ 0) && decide (y.since < l.since)) then cannot s
    else
      let s := modLaunch s' core ctx fun l => { l with st := .running }
      let s := if l.tout then modChan s core (tChan ctx) fun x => { x with tcopy := true } else s
      done (modCtx s core ctx fun y => { y with ustat := BitVec.ofNat 4 (nb l.gauge 3 + 3),
                                                 udesc := if l.gauge then y.udesc else l.descAddr })

/-- The launch leaves the engine, and its channel is its own again (R157). -/
def dropLaunch (s : State) (c : Nat) (l : Launch) : State :=
  let s := modCore s c fun x => { x with launches := x.launches.filter fun y => y.ctx ≠ l.ctx }
  if l.tout then
    modChan s c (tChan l.ctx) fun x => { x with tcopy := false, st := if x.st = .idle ∧ x.queue ≠ [] then .busy else x.st }
  else s

/-- The launch reads the WGA (R180). -/
def Launch.wga (l : Launch) : Bool := l.gauge || udGkind l.desc = 0

/-- The launch is interrupted at its next group: UPOS keeps it and USTAT says so (R177, R179). -/
def interruptLaunch (s : State) (c : Nat) (l : Launch) : State :=
  modCtx (dropLaunch s c l) c l.ctx fun y =>
    { y with upos := BitVec.ofNat 32 l.group, ustat := BitVec.ofNat 4 (nb l.gauge 3 + 4), uwga := l.wga }

/-- An access of a group did not deliver: an address out of reach is a descriptor error (R176, R179, R182). -/
def launchErr (s : State) (c : Nat) (l : Launch) (e : UErr) : State :=
  match e.1 with
  | .reach => wake (modCtx (trap (dropLaunch s c l) c l.ctx 0x20 l.descAddr) c l.ctx fun y => { y with ustat := 0 }) c
  | .fault k f =>
    let s := modCtx (interruptLaunch s c l) c l.ctx fun y => { y with st := .held, wait := .fault e.2.1 }
    wake (addFault s (coreParcelNum s c) f k { requester := 3, index := l.ctx, core := c, addr := e.2.1, write := e.2.2 }) c
  | .unc cls kd num => uncArith s c cls kd num e.2.1 true
  | .snoop n => startSnoop s n e.2.2
  | .paused => s

/-- The launch has committed a group. -/
def stepLaunch (s : State) (c : Nat) (l : Launch) : State :=
  modCtx (modLaunch s c l.ctx fun y => { y with group := l.group + 1 }) c l.ctx fun y =>
    { y with upos := BitVec.ofNat 32 (l.group + 1) }

/-- A lazy launch's gradient range in the WGA ends within it (R155). -/
def lazyWgaOver (l : Launch) (g : UGroup) : Bool :=
  udLazy l.desc && udGkind l.desc = 0 && decide (wgaSize < udGsrc l.desc + g.gidx + 64)

/-- UPDATE_GROUP_COMMIT: the next group of the running launch commits all its effects (R159, R166). -/
def execUpdateGroupCommit (core : Nat) (s : State) : Out :=
  match runningLaunch (getCore s core) with
  | none => cannot s
  | some l =>
    if !coreRuns s core then cannot s
    else if l.gauge then
      if l.group < ugGroups l then done (stepLaunch (gaugeWork s core l) core l) else cannot s
    else match nextGroup s core l with
      | .error e => done (launchErr s core l e)
      | .ok none => cannot s
      | .ok (some g) =>
        if lazyWgaOver l g then
          done (wake (modCtx (trap (dropLaunch s core l) core l.ctx 0x19 (BitVec.ofNat 64 wgaSize)) core l.ctx fun y => { y with ustat := 0 }) core)
        else match groupWork s core l g with
          | .error e => done (launchErr s core l e)
          | .ok s => done (stepLaunch s core l)

/-- No group of the launch remains. -/
def launchOver (s : State) (c : Nat) (l : Launch) : Bool :=
  if l.gauge then decide (ugGroups l ≤ l.group)
  else match nextGroup s c l with
    | .ok none => true
    | _ => false

/-- UPDATE_LAUNCH_COMPLETE: the tail's ARRIVE is made, UPOS is zero and the context's wait ends (R152, R153, R175). -/
def execUpdateLaunchComplete (core : Nat) (s : State) : Out :=
  match runningLaunch (getCore s core) with
  | none => cannot s
  | some l =>
    if !coreRuns s core || !launchOver s core l || injBlocked s core then cannot s
    else
      let s := dropLaunch s core l
      let s := match (if l.gauge then none else udTail l.desc) with
        | some b => tailTo s core l.ends b
        | none => s
      let s := modCtx s core l.ctx fun y => { y with upos := 0, ustat := 0, uwga := false }
      let s := if (getCtx s core l.ctx).wait = .launch then retire s core l.ctx else s
      done (wake s core)

/-! ### The norm gate (R167, R168) -/

/-- NGACC_ARRIVAL: a clip sum is added, or discarded on a differing datum with DMIS (R167). -/
def execNgaccArrival (core : Nat) (s : State) : Out :=
  match arrivedFor s core .daf96Sum .ngacc with
  | none => cannot s
  | some n =>
    match s.mesh.net[n]? with
    | none => cannot s
    | some f =>
      if !coreRuns s core then cannot s
      else done (modCore (dropFlit s n) core fun x =>
        { x with gate := if f.datum = x.gate.cfg.extractLsb' 0 10 then
                           { x.gate with ngacc := x.gate.ngacc + BitVec.ofNat 96 (leNat (f.payload.take 12)) }
                         else { x.gate with dmis := true } })

/-- GATE_VALUE_ARRIVAL: a cast value opens a closed gate, or is discarded with DUP (R168, R169). -/
def execGateValueArrival (core : Nat) (s : State) : Out :=
  match arrivedFor s core .mcastWrite .gate with
  | none => cannot s
  | some n =>
    match s.mesh.net[n]? with
    | none => cannot s
    | some f =>
      if !coreRuns s core then cannot s
      else done (wake (modCore (dropFlit s n) core fun x =>
        { x with gate := x.gate.receive f.datum (BitVec.ofNat 96 (leNat (f.payload.take 12))) }) core)

end Sys2Proof.Machine
end

