-- ==== Sys2Proof/Machine/Record.lean ====
section
/-!
DEFINITION. Command records: how a window takes the next record, checks it and completes it (R324 to R333), core sets
(R332), the Gatehouse's own far accesses (R203), and staged values (R14, R357).
-/

namespace Sys2Proof.Machine

/-! ### Records (Table 11-6) -/

def recSeq (r : Rec) : W32 := BitVec.ofNat 32 (field r 0 4)
def recGen (r : Rec) : BitVec 16 := BitVec.ofNat 16 (field r 4 2)
def recOp (r : Rec) : Nat := field r 6 1
def recFlags (r : Rec) : Byte := r.getD 7 0
def recHtag (r : Rec) : W32 := BitVec.ofNat 32 (field r 8 4)
/-- FLAGS: CR and IRQ. -/
def recCr (r : Rec) : Bool := (recFlags r).getLsbD 0
def recIrq (r : Rec) : Bool := (recFlags r).getLsbD 1

/-- The opcodes of Table 11-7. -/
def recListed (op : Nat) : Bool :=
  decide (op ∈ [0x01, 0x02, 0x10, 0x11, 0x12, 0x13, 0x14, 0x20, 0x21, 0x22, 0x23, 0x24, 0x25, 0x26, 0x30, 0x31, 0x32, 0x33])

/-- A record of the work window that a replay executes again (R283): no Cadastre, seal, parcel or dictionary record. -/
def recReplayed (r : Rec) : Bool := decide (recOp r ∈ [0x10, 0x11, 0x13, 0x14, 0x31])

/-- Statuses of a completion (Table 11-9). -/
def stDone : Nat := 0
def stRefused : Nat := 1
def stIllegal : Nat := 2
def stNotHere : Nat := 3
def stFault : Nat := 4
def stAborted : Nat := 5
def stBadSeg : Nat := 6
def stStopped : Nat := 0x0A

/-- A field of the operands: its first byte, its size, and the bits of it that may be set. -/
structure OpField where
  off : Nat
  size : Nat
  mask : Nat

/-- The bits of byte i that a layout uses. -/
def usedBits (lay : List OpField) (i : Nat) : Byte :=
  lay.foldl (fun m f => if f.off ≤ i ∧ i < f.off + f.size then m ||| BitVec.ofNat 8 (f.mask / 2 ^ (8 * (i - f.off))) else m) 0

/-- Reserved bytes and bits of the operands are zero (R331, R332). -/
def operandsOk (lay : List OpField) (r : Rec) : Bool :=
  (List.range 48).all fun i => r.getD (16 + i) 0 &&& ~~~usedBits lay (16 + i) = 0

/-- Reserved bits of the header are zero (R331). -/
def headOk (r : Rec) : Bool := recFlags r &&& 0xFC = 0 && allZero ((r.drop 12).take 4)

/-- A far operand: bits [63:42] zero and 64-byte aligned (R332). -/
def farOpOk (v : Nat) : Bool := decide (v < 2 ^ 42) && decide (v % 64 = 0)

/-- All bits of a field of n bytes. -/
def ones (n : Nat) : Nat := 2 ^ (8 * n) - 1

/-! ### Which record a window executes (R327, R328) -/

/-- The parcel's work window stands: its step is to be replayed or ended, or a rejoin holds it (R283, R302). -/
def stepStands (s : State) (x : Window) : Bool :=
  !x.service && ((getPcl s x.parcel).stop ≠ .none || (getPcl s x.parcel).rejoinHold)

/-- The parcel has stopped at a mark: its work window executes nothing but a PRESET (R299, R339); the STOPPED of another
window's records is log 73 [DEDUCED]. -/
def pclStands (s : State) (x : Window) (r : Rec) : Bool := !x.service && (getPcl s x.parcel).st = .stopped && recOp r ≠ 0x33

/-- The record that window w executes now: the one that waits, the next of a replay, or the next of the open segment.
The window's execution waits behind records that wait for ring room (R341). -/
def curRec (s : State) (w : Nat) : Option Rec :=
  let x := getWin s w
  if !alive s || decide (64 ≤ w) || x.backlog ≠ [] || stepStands s x then none
  else
    let r : Option Rec := match x.waitRec with
      | some r => some r
      | none =>
        if !x.active then none
        else match x.replayQ with
          | r :: _ => some r
          | [] => if x.seg.isSome then (x.buf.find? fun e => e.1 = x.next.toNat).map (·.2) else none
    r.filter fun r => !pclStands s x r

/-- A work record counts towards the CSD (R279). -/
def countRec (s : State) (p : Nat) (r : Rec) : State :=
  modPcl s p fun x =>
    { x with csd := Dig.plus x.csd (contribution (BitVec.ofNat 64 x.recCount) (srcWord p 9 0) (fit 64 r)),
             recCount := x.recCount + 1,
             stepRecs := if recReplayed r then x.stepRecs ++ [r] else x.stepRecs }

/-- The window takes the record: EXEC moves on, and a work record is counted (R279, R325). -/
def takeRec (s : State) (w : Nat) (r : Rec) : State :=
  let x := getWin s w
  if x.waitRec.isSome then s
  else match x.replayQ with
    | _ :: t => modWin s w fun x => { x with replayQ := t, waitRec := some r }
    | [] =>
      let s := modWin (bump s (ghBlock (w / 32)) 0 1) w fun x =>
        { x with buf := sdel x.buf x.next.toNat, next := x.next + 1, waitRec := some r,
                 seg := if x.seg = some (recSeq r) then none else x.seg }
      if x.service then s else countRec s x.parcel r

/-- A record's completion is written: if CR is set, or if its status is not DONE (R333). A replay does not write again
one that has been written (log 22 [DEDUCED]). -/
def writeCompletion (s : State) (w : Nat) (r : Rec) (status : Nat) (body : List Byte) : State :=
  if recCr r || status ≠ stDone then
    let p := (getWin s w).parcel
    let s := emitRec s w (recHead 1 p status (recSeq r) (recHtag r) ++ body) (recIrq r)
    let clear (q : List Byte) : List Byte := if recSeq q = recSeq r then patch q 7 [recFlags q &&& 0xFE] else q
    if (getWin s w).service then s else modPcl s p fun x => { x with stepRecs := x.stepRecs.map clear }
  else s

/-- The window is finished with its record. -/
def endRec (s : State) (w : Nat) : State := modWin s w fun x => { x with waitRec := none, pagesDone := 0 }

/-- A record completes with a status and bytes 12 on of its completion (R333). -/
def finRec (s : State) (w : Nat) (r : Rec) (status : Nat) (body : List Byte) : State :=
  writeCompletion (endRec s w) w r status body

/-- What a record's meaning comes to. -/
inductive RecRes where
  /-- it completes -/
  | fin (status : Nat) (body : List Byte) (s : State)
  /-- the window is finished with it, and what completion it has comes otherwise -/
  | own (s : State)
  /-- it waits -/
  | wait (s : State)

/-- REFUSED with a reason of Table 11-8. -/
def refuse (s : State) (reason : Nat) : RecRes := .fin stRefused (leBytes 4 reason) s

/-- The windows that an opcode may stand in (Table 11-7). -/
inductive Kinds where
  | work | service | both
  deriving DecidableEq, Repr

def Kinds.ok : Kinds → Bool → Bool
  | .work, svc => !svc
  | .service, svc => svc
  | .both, _ => true

/-- A record row: window w executes its record if it has this opcode, and completes it as ILLEGAL or NOTHERE where it
breaks Table 11-7 (R331 to R333). -/
def record (op : Nat) (k : Kinds) (lay : List OpField) (w : Nat) (s : State) (f : Nat → Rec → State → RecRes) : Out :=
  match curRec s w with
  | none => cannot s
  | some r =>
    if recOp r ≠ op then cannot s
    else
      let s := takeRec s w r
      if !headOk r then done (finRec s w r stIllegal [])
      else if !k.ok (getWin s w).service then done (finRec s w r stNotHere [])
      else if !operandsOk lay r then done (finRec s w r stIllegal [])
      else match f (getWin s w).parcel r s with
        | .fin status body s => done (finRec s w r status body)
        | .own s => done (endRec s w)
        | .wait s => done s

/-- The windows whose waiting record has an opcode, for a parcel. -/
def waitersOf (s : State) (op : Nat) (p : Nat) : List (Nat × Rec) :=
  (List.range 64).filterMap fun w =>
    match (getWin s w).waitRec with
    | none => none
    | some r => if recOp r = op ∧ (getWin s w).parcel = p then some (w, r) else none

/-! ### Core sets (R322, R332) -/

/-- The cores of a parcel in a set named by BEDS and SLOTS. -/
def coreSet (s : State) (p beds slots : Nat) : List Nat :=
  (pclCores s p).filter fun c => bit beds (coreBed c) && bit slots (c % 24)

/-- Why a core set is refused: a bed outside the parcel, or an absent core (R322, R334). -/
def setRefusal (s : State) (p beds slots : Nat) : Option Nat :=
  if BitVec.ofNat 32 beds &&& ~~~(getPcl s p).beds ≠ 0 then some 0x0C
  else if (coreSet s p beds slots).any (coreAbsent s) then some 0x0B
  else none

/-- The Gatehouse's work for cores of the other die crosses the Bridge: some link of its die is not failed (R29, R261). See log 97 [DEDUCED]. -/
def reachable (s : State) (p : Nat) (cs : List Nat) : Bool :=
  cs.all fun c => siteDie (csite s c) = pclDie s p ||
    (List.range 20).any fun col => !(sget {} s.mesh.bridge (pclDie s p * 20 + col)).down

/-- A CORE field names a core of the parcel that has a place (Table 11-8). -/
def coreRefusal (s : State) (p c : Nat) : Option Nat :=
  if 768 ≤ c ∨ coreParcel s c ≠ some p then some 0x0C else if coreAbsent s c then some 0x0B else none

/-! ### The Gatehouse's far accesses (R198, R203) -/

/-- Why a Gatehouse access is not made. -/
inductive GhStop where
  /-- R198 fails: the fault record is written -/
  | fault (s : State)
  /-- it waits: a snoop has begun, or the step is to be replayed or ended -/
  | wait (s : State)

/-- The fault record of a Gatehouse access for a command (R203). -/
def ghFault (s : State) (p core fa kind fpn : Nat) (wr : Bool) : State :=
  writeFaultRec s p fpn kind 0 { requester := 6, index := 0, core := core, addr := BitVec.ofNat 64 (2 ^ 62 + fa), write := wr }

/-- An access of the Gatehouse for core did not deliver. See log 71 [DEDUCED]. -/
def ghErr (s : State) (p core fa : Nat) (wr : Bool) : AccErr → GhStop
  | .fault k f => .fault (ghFault s p core fa k f wr)
  | .snoop l => .wait (startSnoop s l wr)
  | .paused => .wait s
  | .unc cls kd num => .wait (uncData s p cls kd num (BitVec.ofNat 64 (2 ^ 62 + fa)) false none)
  | .reach => .fault (ghFault s p core fa 0 (fa / 2 ^ 24) wr)

/-- The Gatehouse reads far memory of a parcel. -/
def ghRead (s : State) (p core fa n : Nat) : Except GhStop (List Byte) :=
  match farRead s p fa n with
  | .ok bs => .ok bs
  | .error e => .error (ghErr s p core fa false e)

/-- The Gatehouse writes far memory of a parcel. -/
def ghWrite (s : State) (p core fa : Nat) (bs : List Byte) : Except GhStop State :=
  match farWrite s p fa bs with
  | .ok t => .ok t
  | .error e => .error (ghErr s p core fa true e)

/-- A stopped access as the result of its record: status FAULT, or a wait. -/
def GhStop.res : GhStop → RecRes
  | .fault s => .fin stFault [] s
  | .wait s => .wait s

/-! ### Staged values (R14, R357) -/

/-- A later value replaces a staged one (R14). -/
def stage (s : State) (p : Nat) (k : StageKey) (v : Nat) : State :=
  modPcl s p fun x => { x with staged := (x.staged.filter fun e => e.1 ≠ k) ++ [(k, v)] }

/-- The staged value of a key. -/
def stagedVal (s : State) (p : Nat) (k : StageKey) : Option Nat :=
  ((getPcl s p).staged.find? fun e => e.1 = k).map (·.2)

/-! ### How started contexts ended (R334) -/

/-- The groups of a window note how a member's program has ended. -/
def noteEnds (s : State) (w : Nat) : State :=
  let note (g : StartGroup) (m : Nat × Nat × Option (W64 × Bool)) : Nat × Nat × Option (W64 × Bool) :=
    let y := getCtx s m.1 m.2.1
    if m.2.2.isNone && y.startedBy = some (w, g.seqNo) && y.ended then (m.1, m.2.1, some (y.exitCode, y.st = .trapped)) else m
  modWin s w fun x => { x with groups := x.groups.map fun (g : StartGroup) => { g with members := g.members.map (note g) } }

/-- Every window notes it. -/
def noteAllEnds (s : State) : State :=
  (List.range 64).foldl (fun s w => if (getWin s w).groups = [] then s else noteEnds s w) s

end Sys2Proof.Machine
end

