-- ==== Sys2Proof/Machine/Reset.lean ====
section
/-!
DEFINITION. Context, core and parcel resets (R406, R407), the loss of beacon blocks (R266), windows closed (R329), and
the initial mark (R340).
-/

namespace Sys2Proof.Machine

/-! ### Outstanding requests (R406) -/

/-- A unit of the core made the request. -/
def FlitFor.byCore (c : Nat) : FlitFor → Bool
  | .load a _ _ => a = c
  | .store a _ _ _ => a = c
  | .mcWrite a _ _ _ => a = c
  | .mcCount a _ => a = c
  | _ => false

/-- The context, or one of its channels, made the request, and its reset discards it: a load or a multicast. -/
def FlitFor.byCtx (c k : Nat) : FlitFor → Bool
  | .load a b _ => a = c && b = k
  | .mcWrite a ch _ _ => a = c && ch / 2 = k
  | .mcCount a ch => a = c && ch / 2 = k
  | _ => false

/-- Requests are discarded wherever they are. -/
def dropFlits (s : State) (p : FlitFor → Bool) : State :=
  let keep (l : List Flit) : List Flit := l.filter fun f => !p f.what
  let keepL (l : BridgeLink) : BridgeLink := { l with frames := l.frames.map keep }
  let s := { s with mesh := { s.mesh with
                                net := keep s.mesh.net,
                                bridge := (skeys s.mesh.bridge).foldl (fun m k => smod {} m k keepL) s.mesh.bridge } }
  (skeys s.far.ports).foldl (fun s q =>
    modPortF s q fun x => { x with ingress := keep x.ingress, missSlots := keep x.missSlots }) s

/-- A requester is one of a context's: itself, its channels, its tile stream, its launch, or the Cairn that it owns
(Table 11-10). -/
def FaultReq.ofCtx (own : Option Nat) (c k : Nat) (r : FaultReq) : Bool :=
  r.core = c && ((r.requester = 1 && r.index / 2 = k) || ((r.requester = 0 || r.requester = 2 || r.requester = 3) && r.index = k) ||
    (r.requester = 4 && own = some k))

/-- The Cairn's stopped spill and refill are given up with its owner's reset. -/
def dropCairnFault (s : State) (c k : Nat) : State :=
  if (getCairn s c).owner = some k then modCairn s c fun x => { x with spillFault := none, refillFault := none } else s

/-! ### Context reset (R406) -/

/-- A channel is idle, with nothing queued. -/
def Chan.reset (x : Chan) : Chan := { x with st := .idle, queue := [], run := none, faultAddr := 0 }

/-- The launch of a context stops at a group boundary and is gone. -/
def endLaunch (s : State) (c k : Nat) : State :=
  match (getCore s c).launches.find? fun l => l.ctx = k with
  | none => s
  | some l => if l.st = .running then dropLaunch s c l
    else modCore s c fun x => { x with launches := x.launches.filter fun y => y.ctx ≠ k }

/-- A context reset begins: the context issues no more, what it waits for is given up, its channels stop at a row
boundary and its launch at a group boundary; its tile work completes (R98, R406). See log 68 [DEDUCED]. -/
def beginCtxReset (s : State) (c k : Nat) : State :=
  if (getCtx s c k).resetting then s
  else
    let s := noteAllEnds s
    let s := dropWaits (dropFault s (FaultReq.ofCtx (getCairn s c).owner c k)) c k
    let s := dropCairnFault s c k
    let s := dropFlits (endLaunch s c k) (FlitFor.byCtx c k)
    let s := modChan (modChan s c (2 * k) Chan.reset) c (2 * k + 1) Chan.reset
    let s := modCore s c fun x =>
      { x with lastSlot := if (x.ctx k).st = .issuing then k else x.lastSlot,
               tiles := { x.tiles with jobs := x.tiles.jobs.map fun (j : TseqJob) => if j.ctx = k then { j with waited := false } else j } }
    modCtx s c k fun y => { y with resetting := true, wait := .none, heldSt := [], st := if y.st = .idle then .idle else .waiting }

/-- What a context reset keeps (R406). -/
def Ctx.afterReset (y : Ctx) : Ctx :=
  { nflags := y.nflags, mseed := y.mseed, mstep := y.mstep, mtid := y.mtid, mkeep := y.mkeep, startedBy := y.startedBy, ended := y.ended }

/-- The context is IDLE with its state reset. -/
def endCtxReset (s : State) (c k : Nat) : State :=
  let own := (getCairn s c).owner
  let s := dropFault (becomeIdle (dropCairnFault s c k) c k) (FaultReq.ofCtx own c k)
  wake (bump (modCtx s c k Ctx.afterReset) clkBlock 5 1) c

/-- CONTEXT_RESET_COMPLETE: its outstanding requests and its tile work are over; the context is IDLE, and the CTXRESET
record that waits for it completes (R98, R406). -/
def execContextResetComplete (core ctx : Nat) (s : State) : Out :=
  if !(getCtx s core ctx).resetting || storeFlying s core ctx || tileBusy (getCore s core) ctx || decide (768 ≤ core) || decide (4 ≤ ctx) then cannot s
  else
    let s := endCtxReset s core ctx
    let mine (x : Nat × Rec) : Bool := field x.2 16 2 = core && field x.2 18 1 = ctx
    done (((waitersOf s 0x32 (coreParcelNum s core)).filter mine).foldl (fun s x => finRec s x.1 x.2 stDone []) s)

/-- The work of all contexts in the matrix unit, the flush queue and the WGA's zeroing is discarded. -/
def Site.dropWork (x : Site) : Site :=
  { x with tiles := { x.tiles with jobs := [], slots := [], pipe := [], drains := [], rels := [] },
           wga := { x.wga with flushes := [], zeroing := none } }

/-- Every context of a core is reset at once, its outstanding work discarded: a replay, and a step's end (R283, R339). -/
def abandonCore (s : State) (c : Nat) : State :=
  let s := (List.range 4).foldl (fun s k => beginCtxReset s c k) s
  (List.range 4).foldl (fun s k => endCtxReset s c k) (modCore s c Site.dropWork)

/-! ### Core reset (R406) -/

/-- What a core reset keeps: memories, router and terrace controller (R406). -/
def Site.coreReset (x : Site) : Site :=
  { near := x.near, terr := x.terr, nearMarks := x.nearMarks, terrMarks := x.terrMarks, mct := x.mct, mcsel := x.mcsel,
    rfail := x.rfail, fenced := x.fenced, tally := x.tally, retireQ := x.retireQ, stepErrs := x.stepErrs }

/-- The bed-domain counters of a core-site block: CS 0 to 14 (Table 13-6, Table 14-5). -/
def zeroBedCtrs (s : State) (site : Nat) : State :=
  { s with regs := { s.regs with ctrs := s.regs.ctrs.filter fun e => !(e.1 / 64 = siteBlock site && decide (e.1 % 64 < 15)) } }

/-- The compute part of a site is reset. -/
def resetSite (s : State) (site : Nat) : State := bump (zeroBedCtrs (modSite s site Site.coreReset) site) clkBlock 4 1

/-- Everything outstanding of a core is discarded. -/
def dropCore (s : State) (c : Nat) : State :=
  let s := dropFlits (dropFault s fun r => r.core = c) (FlitFor.byCore c)
  (List.range 4).foldl (fun s k => dropWaits s c k) s

/-- CORE_RESET: a reset that has begun at a site comes about, its requests completed or discarded (R406). -/
def execCoreReset (site : Nat) (s : State) : Out :=
  if !(getSite s site).resetting || decide (800 ≤ site) then cannot s
  else
    let s := match coreAt s site with
      | some c => dropCore s c
      | none => s
    done (resetSite s site)

/-! ### Windows closed (R329) -/

/-- A window closes: a waiting START or BMARK is ABORTED, buffered records are discarded, other executing records
complete, a START whose contexts run among them. drop says that records not yet written are discarded too (R317). -/
def closeWin (s : State) (w : Nat) (drop : Bool) : State :=
  let x := getWin s w
  if !x.en then s
  else
    let p := x.parcel
    let s := modWin s w fun x => { x with ctl := x.ctl &&& 0x7FFFFFFF, binderr := false, buf := [], seg := none, replayQ := [],
                                          groups := if drop then [] else x.groups, backlog := if drop then [] else x.backlog }
    let s := if !x.service && x.active then modPcl s p fun y => { y with recBacklog := [] } else s
    match x.waitRec with
    | none => s
    | some r =>
      if recOp r = 0x11 ∨ recOp r = 0x12 then
        let s := if recOp r = 0x12 then modPcl s p fun y => { y with mark := {} } else s
        if drop then endRec s w else finRec s w r stAborted []
      else s

/-- Every window of a parcel closes; one whose binding was refused is no window of it (R321, R324). -/
def closeWindows (s : State) (p : Nat) (drop : Bool) : State :=
  (List.range 64).foldl (fun s w => if (getWin s w).parcel = p ∧ (getWin s w).active then closeWin s w drop else s) s

/-! ### Beacon blocks (R263, R266) -/

/-- A beacon lies in a set of blocks. -/
def inBlocks (a0 a1 : W64) (b : Nat) : Bool := (if b / 4096 = 0 then a0 else a1).getLsbD (b % 4096 / 64)

/-- Number of blocks in a set. -/
def popcount (a : W64) : Nat := (List.range 64).countP fun i => a.getLsbD i

/-- Blocks lose their owner: earlier messages are taken in, waiters are answered with status 1, the counters are 0,
and the loss is logged and counted (R266). -/
def loseBlocks (s : State) (p : Nat) (a0 a1 : W64) : State :=
  let n := popcount a0 + popcount a1
  if n = 0 then s
  else
    let mine (m : BeaconMsg) : Bool := inBlocks a0 a1 m.beacon
    let ms := s.mesh.msgs.filter mine
    let s := ms.foldl applyBeacon { s with mesh := { s.mesh with msgs := s.mesh.msgs.filter fun m => !mine m } }
    let out := s.mesh.waiters.filter fun x => inBlocks a0 a1 x.beacon
    let s := { s with mesh := { s.mesh with waiters := s.mesh.waiters.filter fun x => !inBlocks a0 a1 x.beacon,
                                            beacons := s.mesh.beacons.filter fun e => !inBlocks a0 a1 e.1 } }
    let s := out.foldl (fun s x => reply s x.core x.ctx 1) s
    let die := if a0 = 0 then 1 else 0
    let s := logInc s { cls := 0x34, parcel := some p, locKind := 5, locNum := die, domain := 54 + die, detail := BitVec.ofNat 32 n }
    modPcl s p fun x => { x with bcnLost := x.bcnLost + BitVec.ofNat 32 n }

/-- Every beacon root takes the shadow copy of the parcel's beacons (R283, R340). -/
def shadowBeacons (s : State) (p : Nat) : State :=
  let keep := s.mesh.shadow.filter fun e => !beaconOwned s p e.1
  { s with mesh := { s.mesh with shadow := (s.mesh.beacons.filter fun e => beaconOwned s p e.1).foldl (fun m e => sset 0 m e.1 e.2) keep } }

/-! ### The initial mark (R340) -/

/-- The gates of a core close (R170). -/
def NormGate.close (g : NormGate) : NormGate :=
  { g with clipss := 0, ngacc := 0, isOpen := false, dup := false, dmis := false, ovf := false }

/-- NFLAGS, DMIS, CLIPSS, NGACC, the gate, the Theodolite and CD0 to CD3 of a core are cleared (R283, R340). -/
def Site.clearStep (x : Site) : Site :=
  let x := (List.range 4).foldl (fun (x : Site) k => x.modCtx k fun y => { y with nflags := 0 }) x
  { x with wga := { x.wga with dmis := false }, gate := x.gate.close, theo := [], cd0 := 0, cd1 := 0, cd2 := 0, cd3 := 0 }

/-- A parcel's open step begins afresh. -/
def Parcel.newStep (x : Parcel) : Parcel :=
  { x with allTi := true, allSafe := true, updateBegun := false, preempted := false, stepReplays := 0, recCount := 0,
           csd := (0, 0, 0, 0), stepRecs := [], stop := .none, mark := {} }

/-- The errors of a parcel's step are forgotten (R229). -/
def forgetErrs (s : State) (p : Nat) : State :=
  let s := { s with repair := { s.repair with stepAddrs := s.repair.stepAddrs.filter fun e => e.1 ≠ p } }
  (pclBeds s p).foldl (fun s b => (List.range 25).foldl (fun s i =>
    let n := bedSite b i
    if (getSite s n).stepErrs = 0 then s else modSite s n fun y => { y with stepErrs := 0 }) s) s

/-- The initial mark of a parcel (R340). -/
def initialMark (s : State) (p : Nat) : State :=
  let s := shadowBeacons s p
  let s := (pclLive s p).foldl (fun s c => modCore s c Site.clearStep) s
  modPcl (forgetErrs s p) p Parcel.newStep

/-! ### Parcel reset (R406, R407) -/

/-- A parcel reset begins; one that runs takes it in (R407). From a power event on there is none (R399). -/
def beginParcelReset (s : State) (p : Nat) : State :=
  if !pclThere s p || (getPcl s p).st = .inReset then s
  else
    let s := closeWindows (bump s clkBlock 3 1) p true
    let s := { s with far := { s.far with seals := sdel s.far.seals p, faults := s.far.faults.filter fun f => f.parcel ≠ p } }
    let s := (pclLive s p).foldl (fun s c => modCore s c fun x => { x with resetting := true }) s
    setPcl (modPcl s p fun x => { x with staged := [], recBacklog := [], stop := .none, mark := {}, peerDigests := [] }) p .inReset

/-- PARCEL_RESET_COMPLETE: every core is reset; the blocks come back with counters at 0, the initial mark is made, and
the records that wait for the reset complete (R340, R406, R407). -/
def execParcelResetComplete (p : Nat) (s : State) : Out :=
  let x := getPcl s p
  if x.st ≠ .inReset || decide (8 ≤ p) || (getPort s x.port).perst || (pclLive s p).any (fun c => (getCore s c).resetting) then cannot s
  else
    let s := loseBlocks s p x.alloc0 x.alloc1
    let s := (pclLive s p).foldl (fun s c => dropCore s c) s
    let s := initialMark (setPcl s p .active) p
    done ((waitersOf s 0x33 p ++ waitersOf s 0x32 p).foldl (fun s y => finRec s y.1 y.2 stDone []) s)

end Sys2Proof.Machine
end

