-- ==== Sys2Proof/Machine/TwinLink.lean ====
section
/-!
DEFINITION. The twin link: frames out and in, sequence numbers, acknowledgements and the replay buffer (R291 to R294).
-/

namespace Sys2Proof.Machine

/-- The link carries frames: a lane is active and its domain runs. -/
def twinUp (s : State) : Bool := s.twin.lanes ≠ 0 && s.pwr.lodgeUp && !s.pwr.halt

def modTwin (s : State) (f : Twin → Twin) : State := { s with twin := f s.twin }

/-- A frame of Table 10-5: TYPE, U, SEQ and payload, with the NAK owed, the EPOCH, the ACK and the CRC. -/
def twinFrame (s : State) (type : Byte) (u : Bool) (seqNo : W32) (payload : List Byte) : List Byte :=
  let b := [type, BitVec.ofNat 8 ((if u then 1 else 0) + (if s.twin.nakOwed then 2 else 0)), 1, 0] ++
    leBytes 2 s.twin.epoch.toNat ++ [0, 0] ++ leBytes 4 seqNo.toNat ++ leBytes 4 s.twin.rxSeq.toNat ++ fit 236 payload
  b ++ leBytes 4 (crc32c b).toNat

/-- The active lane at or after a place in the rotation (R292, R294). -/
def laneFrom (lanes : Byte) (n : Nat) : Nat := (((List.range 8).map fun i => (n + i) % 8).find? fun i => lanes.getLsbD i).getD 0

/-- A frame leaves on a lane; what NAK was owed has been sent (R292). -/
def putLane (s : State) (lane : Nat) (f : List Byte) : State :=
  modTwin (send (bump s twnBlock 0 1) (.twin lane f)) fun x => { x with nakOwed := false }

/-- A sequenced frame leaves on the next lane of the rotation (R292). -/
def putFrame (s : State) (f : List Byte) : State :=
  let l := laneFrom s.twin.lanes s.twin.lane
  putLane (modTwin s fun x => { x with lane := (l + 1) % 8 }) l f

/-- An unsequenced frame goes out, on the lane at which the rotation stands (R292: any lane). See log 98 [DESIGN CHOICE]. -/
def sendUnseq (s : State) (type : Byte) (payload : List Byte) : State :=
  if twinUp s then putLane s (laneFrom s.twin.lanes s.twin.lane) (twinFrame s type true 0 payload) else s

/-- An unsequenced frame goes out on every active lane (R295). -/
def sendAll (s : State) (type : Byte) (payload : List Byte) : State :=
  if twinUp s then
    ((List.range 8).filter fun i => s.twin.lanes.getLsbD i).foldl (fun s i => putLane s i (twinFrame s type true 0 payload)) s
  else s

/-- Sequenced frames that wait go out while the replay buffer has room (R292); fuel is their number. -/
def pumpTwin : Nat → State → State
  | 0, s => s
  | n + 1, s =>
    match s.twin.txQueue with
    | [] => s
    | (ty, pl) :: rest =>
      if 256 ≤ s.twin.replay.length ∨ !twinUp s then s
      else
        let q := s.twin.txSeq + 1
        let f := twinFrame s ty false q pl
        pumpTwin n (putFrame (modTwin s fun x => { x with txQueue := rest, txSeq := q, replay := x.replay ++ [f] }) f)

/-- Sequenced frames go out, in order (R292). -/
def sendSeqs (s : State) (l : List (Byte × List Byte)) : State :=
  let s := modTwin s fun x => { x with txQueue := x.txQueue ++ l }
  pumpTwin s.twin.txQueue.length s

def sendSeq (s : State) (type : Byte) (payload : List Byte) : State := sendSeqs s [(type, payload)]

/-- SEQ of a frame. -/
def frameSeq (f : List Byte) : W32 := BitVec.ofNat 32 (field f 8 4)

/-- Frames up to an acknowledgement leave the replay buffer (R292). -/
def dropAcked (s : State) (ack : W32) : State :=
  modTwin s fun x =>
    let kept := x.replay.filter fun f => decide ((frameSeq f - ack - 1).toNat < 2 ^ 31)
    { x with replay := kept, tries := x.tries.filter fun e => kept.any fun f => (frameSeq f).toNat = e.1 }

/-- An acknowledgement: frames up to it leave the replay buffer, and waiting ones go out (R292). -/
def takeAck (s : State) (ack : W32) : State :=
  let s := dropAcked s ack
  pumpTwin s.twin.txQueue.length s

/-- A frame of the replay buffer has been replayed 8 times without acknowledgement (R294). -/
def triedOut (s : State) : Bool := s.twin.replay.any fun f => decide (8 ≤ sget 0 s.twin.tries (frameSeq f).toNat)

/-- Every frame from ACK + 1 on is sent again (R292). -/
def replayFrames (s : State) : State :=
  s.twin.replay.foldl (fun s f =>
    let s := modTwin s fun x => { x with tries := smod 0 x.tries (frameSeq f).toNat (· + 1) }
    putFrame (bump s twnBlock 3 1) (twinFrame s (BitVec.ofNat 8 (field f 0 1)) false (frameSeq f) ((f.drop 16).take 236))) s

/-- OPCODE of a CONTROL frame. -/
def ctlOp (f : List Byte) : Nat := field f 16 1

/-- The EPOCH of a frame is not compared: CONTROL frames of OPCODE 1, 2, 4 and 5 (R291). -/
def epochFree (f : List Byte) : Bool := field f 0 1 = 5 && decide (ctlOp f ∈ [1, 2, 4, 5])

/-- The frame passes R291. A module in PAIRING has no EPOCH of its own yet to compare with a HEARTBEAT's (R297, log 35 [DEDUCED]). -/
def frameOk (s : State) (f : List Byte) : Bool :=
  f.length = 256 && field f 252 4 = (crc32c (f.take 252)).toNat && field f 2 1 = 1 &&
  (epochFree f || (s.twin.st = .pairing && field f 0 1 = 1) || field f 4 2 = s.twin.epoch.toNat)

/-- A frame is sequenced. -/
def frameSeqd (f : List Byte) : Bool := !bit (field f 1 1) 0

/-- A frame that passed R291 is accepted, or discarded out of sequence with a NAK owed (R292). -/
def acceptFrame (s : State) (f : List Byte) : Except State State :=
  let s := takeAck s (BitVec.ofNat 32 (field f 12 4))
  if !frameSeqd f then .ok (bump s twnBlock 1 1)
  else if frameSeq f = s.twin.rxSeq + 1 then .ok (bump (modTwin s fun x => { x with rxSeq := frameSeq f }) twnBlock 1 1)
  else .error (modTwin s fun x => { x with nakOwed := true })

/-- A frame of a TYPE (and OPCODE) arrives: what R291 discards is counted, and what is accepted acts. -/
def takeFrame (f : List Byte) (s : State) (g : State → State) : State :=
  if !frameOk s f then bump s twnBlock 2 1
  else match acceptFrame s f with
    | .error s => s
    | .ok s => g s

/-- Sequence numbers start again, with nothing to replay: at a pairing and where the peer is gone. See log 75 [DEDUCED]. -/
def freshLink (s : State) : State :=
  modTwin s fun x => { x with txSeq := 0, rxSeq := 0, replay := [], txQueue := [], tries := [], nakOwed := false }

end Sys2Proof.Machine
end

