-- ==== Sys2Proof/Machine/Mark.lean ====
section
/-!
DEFINITION. The boundary mark (R57, R139, R170, R173, R178, R278 to R280, R298, R338, R390), and the end of a step
without its mark (R339).
-/

namespace Sys2Proof.Machine

/-! ### Step 1: quiescence (R178, R271, R338) -/

/-- The context waits at a closed norm gate: a gated launch, or an NGWAIT (R169, R178). -/
def atGate (s : State) (c k : Nat) : Bool :=
  let y := getCtx s c k
  y.st = .waiting && (y.ustat.toNat % 8 = 2 ||
    match y.wait with
    | .op .ngwait _ => !(getCore s c).gate.isOpen
    | _ => false)

/-- Every context of the parcel is IDLE or waits at a closed gate (R271). See log 70 [DEDUCED]. -/
def quiescent (s : State) (p : Nat) : Bool :=
  (pclLive s p).all fun c => (List.range 4).all fun k => (getCtx s c k).st = .idle || atGate s c k

/-- A launch of the parcel is running or interrupted (R178). -/
def launching (s : State) (p : Nat) : Bool :=
  (pclLive s p).any fun c => (List.range 4).any fun k =>
    let n := (getCtx s c k).ustat.toNat % 8
    n = 3 || n = 4

/-! ### Step 2: staged settings (R14, R164, R263, R320, R395) -/

/-- Operand values go to every core of the parcel (R164). -/
def applyOperand (s : State) (p set idx v : Nat) : State :=
  (pclLive s p).foldl (fun s c => modCore s c fun x => { x with operands := sset 0 x.operands (set * 16 + idx) (BitVec.ofNat 32 v) }) s

/-- A context of the beds is not IDLE. -/
def bedsBusy (s : State) (beds : W32) : Bool :=
  ((List.range 32).filter fun b => beds.getLsbD b).any fun b => (bedCores b).any fun c =>
    !coreAbsent s c && (List.range 4).any fun k => (getCtx s c k).st ≠ .idle

/-- A parcel's RWS objects take effect (Tables 10-11, 12-10). -/
def applyObject (s : State) (p idx v : Nat) : State :=
  modPcl s p fun x =>
    if idx = 0x2006 then { x with compat := BitVec.ofNat 8 v }
    else if idx = 0x2050 then { x with replayLimit := BitVec.ofNat 8 v }
    else if idx = 0xA000 then { x with tally := BitVec.ofNat 16 v }
    else if idx = 0xA001 then { x with thArea := BitVec.ofNat 64 v }
    else x

/-- A beacon allocation applies: blocks given up lose their owner, and those gained start at 0 (R263, R266). -/
def applyBeacons (s : State) (p die : Nat) (v : W64) : State :=
  let old := if die = 0 then (getPcl s p).alloc0 else (getPcl s p).alloc1
  let lost := old &&& ~~~v
  let won := v &&& ~~~old
  let s := if die = 0 then loseBlocks s p lost 0 else loseBlocks s p 0 lost
  let s := { s with mesh := { s.mesh with beacons := s.mesh.beacons.filter fun e =>
                                            !(if die = 0 then inBlocks won 0 e.1 else inBlocks 0 won e.1) } }
  modPcl s p fun x => if die = 0 then { x with alloc0 := v } else { x with alloc1 := v }

/-- A staged change of beds cannot apply while a removed bed is busy (R320). -/
def bedsWait (s : State) (p : Nat) (e : StageKey × Nat) : Bool :=
  e.1 = StageKey.beds && bedsBusy s ((getPcl s p).beds &&& ~~~BitVec.ofNat 32 e.2)

/-- One staged value takes effect. -/
def applyStaged (p : Nat) (s : State) (e : StageKey × Nat) : State :=
  match e.1 with
  | .operand set idx => applyOperand s p set idx e.2
  | .object idx _ => applyObject s p idx e.2
  | .beds => modPcl s p fun x => { x with beds := BitVec.ofNat 32 e.2 }
  | .beacons die => applyBeacons s p die (BitVec.ofNat 64 e.2)
  | .clkBed bed => switchBed s bed e.2

/-- The order of R338 step 2. See log 69 [DEDUCED]. -/
def StageKey.rank : StageKey → Nat
  | .operand _ _ => 0
  | .object _ _ => 1
  | .beds => 2
  | .beacons _ => 3
  | .clkBed _ => 4

/-- The staged settings of a parcel take effect; a change of beds that has to wait stays staged (R320, R338). The flag is
BEDDEF. -/
def applyAll (s : State) (p : Nat) : State × Bool :=
  let l := (getPcl s p).staged
  let keep := l.filter (bedsWait s p)
  let go := l.filter fun e => !bedsWait s p e
  let s := modPcl s p fun x => { x with staged := keep }
  ((List.range 5).foldl (fun s i => (go.filter fun e => e.1.rank = i).foldl (applyStaged p) s) s, keep ≠ [])

/-! ### Step 3: the Theodolite readout (R171 to R173) -/

/-- A core's sum meets the tally core's (R172). -/
def ThSum.merge (a b : ThSum) : ThSum :=
  if !b.touched then a
  else if !a.touched then b
  else { sum := if a.datum = b.datum then a.sum + b.sum else a.sum, datum := a.datum, touched := true, dx := a.dx || b.dx,
         dmis := a.dmis || b.dmis || a.datum ≠ b.datum, nan := a.nan || b.nan }

/-- The parcel's sums by tag × 3 + quantity. -/
def tallySums (s : State) (p : Nat) : SMap ThSum :=
  (pclLive s p).foldl (fun m c => (getCore s c).theo.foldl (fun m e => smod {} m e.1 fun a => a.merge e.2) m) []

/-- What is reported of a sum (R172): its value, and FP32 of its root (R54, Table 6-6). -/
def ThSum.value (x : ThSum) : W96 := if x.dmis then 0 else x.sum
def ThSum.dat (x : ThSum) : Datum := if x.dmis then 0 else x.datum
def ThSum.root (x : ThSum) : W32 := fsqrt (BitVec.ofNat 32 (ofDaf fmtFP32 x.dat.toInt x.value).1)

/-- FLAGS of an entry (Table 6-6). -/
def thFlags (w g u : ThSum) : Nat :=
  nb w.dx 0 + nb g.dx 1 + nb u.dx 2 + nb w.dmis 3 + nb g.dmis 4 + nb u.dmis 5 + nb w.nan 6 + nb g.nan 7 + nb u.nan 8

/-- The readout entry of a tag (Table 6-6), and its FLAGS. -/
def thEntry (m : SMap ThSum) (tag : Nat) : List Byte × Nat :=
  let w := sget {} m (tag * 3)
  let g := sget {} m (tag * 3 + 1)
  let u := sget {} m (tag * 3 + 2)
  let d (x : ThSum) : List Byte := leBytes 2 x.dat.toNat
  (leBytes 2 tag ++ leBytes 2 (thFlags w g u) ++ d w ++ d g ++ d u ++ zeros 6 ++ dafBytes w.value ++ dafBytes g.value ++
    dafBytes u.value ++ leBytes 4 w.root.toNat ++ leBytes 4 g.root.toNat ++ leBytes 4 u.root.toNat, thFlags w g u)

/-- The parcel's tally core (R173, Table 12-10). -/
def tallyCore (s : State) (p : Nat) : Option Nat :=
  let t := (getPcl s p).tally.toNat
  if t ∈ pclLive s p then some t else (pclLive s p).head?

/-- The address of a readout entry: in half THGEN mod 2 of the area; the offset alone where there is none (log 23 [DEDUCED]). -/
def thAddr (x : Parcel) (i : Nat) : W64 :=
  let off := x.thgen.toNat % 2 * 0x40000 + 64 * i
  if x.thArea = ~~~0 then BitVec.ofNat 64 off else BitVec.ofNat 64 (2 ^ 62 + (x.thArea.toNat + off) % 2 ^ 42)

/-- The tally core writes the entries to the readout area, each a covered write (Table 10-3). -/
def writeEntries (x : Parcel) (p c : Nat) : List (List Byte × Nat) → Except (AccErr × W64) State → Except (AccErr × W64) State
  | [], r => r
  | (e, i) :: t, r => do
    let s ← r
    let a := thAddr x i
    let s ← if x.thArea = ~~~0 then .ok s else
      match farWrite s p (a.toNat % 2 ^ 42) e with
      | .ok s => .ok s
      | .error e => .error (e, a)
    writeEntries x p c t (.ok (digestWrite s c 6 a e))

/-- The tally core's write is held on a page of the parcel. -/
def tallyHeld (s : State) (p : Nat) : Bool :=
  s.far.faults.any fun f => f.parcel = p && f.held.any fun r => r.requester = 3 && some r.core = tallyCore s p && r.index = 4

/-- A write of the readout did not come about: it is held on its page, and the mark with it (log 23 [DEDUCED]). -/
def tallyErr (s : State) (p c : Nat) (a : W64) : AccErr → State
  | .fault k f => addFault s p f k { requester := 3, index := 4, core := c, addr := a, write := true }
  | .snoop l => startSnoop s l true
  | _ => s

/-- Phase timing at a mark: the PH_CAT sums of the parcel's beds, in cycles that the spec does not fix, are published
and zeroed (R390, log 4 [DESIGN CHOICE]). -/
def phaseTiming (s : State) (p : Nat) : State :=
  let s := modPcl s p fun x => { x with phBeds := [] }
  (pclBeds s p).foldl (fun s b => (List.range 8).foldl (fun s i =>
    let (v, s) := takeFree s
    modPcl s p fun x => { x with phBeds := sset 0 x.phBeds (b * 8 + i) v }) s) s

/-- THEODOLITE_TALLY_WRITE: the readout of a mark is delivered and every Theodolite of the parcel cleared (R173). -/
def execTheodoliteTallyWrite (p : Nat) (s : State) : Out :=
  let x := getPcl s p
  if x.mark.phase ≠ .readout || !alive s || x.stop ≠ .none || tallyHeld s p || decide (8 ≤ p) then cannot s
  else
    let m := tallySums s p
    let es := (touchedTags m).map (thEntry m)
    let finish (s : State) : State :=
      let s := (pclLive s p).foldl (fun s c => modCore s c fun y => { y with theo := [] }) s
      modPcl (phaseTiming s p) p fun y =>
        { y with readout := es.map (·.1), thHeld := y.thgen, thgen := y.thgen + 1,
                 mark := { y.mark with phase := .digests, thgen := y.thgen, entries := es.length,
                                       flags := es.foldl (fun a e => a ||| BitVec.ofNat 16 e.2) 0 } }
    match tallyCore s p with
    | none => done (finish s)
    | some c =>
      match writeEntries x p c ((es.map (·.1)).zipIdx) (.ok s) with
      | .ok s => done (finish s)
      | .error e => done (tallyErr s p c e.2 e.1)

/-! ### Steps 4 and 5: ORs and digests (R57, R139, R278, R279) -/

/-- The gates of the parcel's cores close (R170). -/
def closeGates (s : State) (p : Nat) : State :=
  let s := (pclLive s p).foldl (fun s c => modCore s c fun x => { x with gate := x.gate.close }) s
  wakeAll s (pclLive s p)

/-- The result block (Table 10-4). -/
def resultBlock (m : MarkRun) : List Byte :=
  leBytes 4 m.nflags.toNat ++ [ofBool m.dmis, 0, 0, 0] ++ leBytes 4 m.thgen.toNat ++ leBytes 4 m.entries ++
  leBytes 2 m.flags.toNat ++ zeros 46

/-- NFLAGS and DMIS are gathered and cleared, and the digests formed and zeroed. -/
def formDigests (s : State) (p : Nat) : State :=
  let cs := pclLive s p
  let nf := cs.foldl (fun a c => (List.range 4).foldl (fun a k => a ||| (getCtx s c k).nflags) a) 0
  let dm := cs.any fun c => (getCore s c).wga.dmis
  let sd := cs.foldl (fun (d : Dig) c => let x := getCore s c; Dig.plus d (x.cd0, x.cd1, x.cd2, x.cd3)) (0, 0, 0, 0)
  let s := cs.foldl (fun s c => modCore s c fun (x : Site) =>
    let x := (List.range 4).foldl (fun (x : Site) k => x.modCtx k fun y => { y with nflags := 0 }) x
    { x with wga := { x.wga with dmis := false }, cd0 := 0, cd1 := 0, cd2 := 0, cd3 := 0 }) s
  modPcl s p fun x =>
    let m := { x.mark with nflags := nf, dmis := dm, ti := x.allTi && x.mark.quiet }
    { x with mark := { m with sd := Dig.plus sd (contribution 0 (srcWord p 8 0) (resultBlock m)), csd := x.csd } }

/-! ### Step 6: the completion record (R280, R284, Table 11-10) -/

/-- Bytes 12 on of a boundary completion record, with its twin status. -/
def markBody (x : Parcel) (twin : Nat) : List Byte :=
  let m := x.mark
  Dig.bytes m.sd ++ Dig.bytes m.csd ++ leBytes 4 m.nflags.toNat ++ leBytes 4 m.thgen.toNat ++ leBytes 2 m.entries ++
  leBytes 2 m.flags.toNat ++
  [BitVec.ofNat 8 (nb m.dmis 0 + nb m.ti 1 + twin * 4 + nb m.beddef 5), BitVec.ofNat 8 x.stepReplays] ++
  leBytes 4 ((x.bmarks + 1).toNat % 2 ^ 32)

/-- Bytes 12 on of a boundary completion record of a step that did not end with its mark: digests and results zero, the
replays and the marks so far (R339, Table 11-10). -/
def endBody (x : Parcel) (twin : Nat) : List Byte :=
  zeros 44 ++ [BitVec.ofNat 8 (twin * 4), BitVec.ofNat 8 x.stepReplays] ++ leBytes 4 (x.bmarks.toNat % 2 ^ 32)

/-- PH_STEP of a mark: marks after it, ring-control cycles since the last one (not fixed by the spec), that domain's
clock in kHz, and the step's replays (Table 13-13). -/
def phStep (s : State) (p : Nat) : State :=
  let (v, s) := takeFree s
  modPcl s p fun x =>
    { x with phStep := leBytes 8 x.bmarks.toNat ++ leBytes 8 v.toNat ++ leBytes 4 1500000 ++ leBytes 4 x.stepReplays ++ zeros 8 }

/-- The window and record of the mark that the parcel executes. -/
def markRec (s : State) (p : Nat) : Option (Nat × Rec) := (waitersOf s 0x12 p).head?

/-- The mark is complete: its record is written and the next step begins (R338 step 6, R283, R302). -/
def finishMark (s : State) (p twin : Nat) : State :=
  match markRec s p with
  | none => s
  | some (w, r) =>
    let x := getPcl s p
    let s := emitRec (endRec s w) w (recHead 2 p stDone (recSeq r) (recHtag r) ++ markBody x twin) (recIrq r)
    let s := phStep (modPcl s p fun x => { x with bmarks := x.bmarks + 1, epochBm := x.epochBm + 1 }) p
    let s := endStepHandling (shadowBeacons s p) p
    modPcl (forgetErrs s p) p fun x => { x.newStep with rejoinHold := decide (s.twin.st = .rejoinSource) }

/-- The parcel stops at its mark (R299, R339, Table 10-8). See log 74 [DEDUCED]. -/
def stopAtMark (s : State) (p cls : Nat) : State :=
  let s := logInc s { cls := cls, parcel := some p, domain := 56 + pclDie s p }
  match markRec s p with
  | none => s
  | some (w, r) =>
    let s := emitRec (endRec s w) w (recHead 2 p stStopped (recSeq r) (recHtag r) ++ endBody (getPcl s p) 2) (recIrq r)
    setPcl (modPcl s p fun x => { x with mark := {} }) p .stopped

/-- The boundary marks of the epoch that this mark makes. -/
def markNo (x : Parcel) : W64 := x.epochBm + 1

/-- CSD and SD as a DIGEST carries them (Table 10-6). -/
def markDigests (x : Parcel) : List Byte := Dig.bytes x.mark.csd ++ Dig.bytes x.mark.sd

/-- The exchange of a mark is decided once the peer's DIGEST is held (R298, Table 10-8). -/
def compareMark (s : State) (p : Nat) : State :=
  let x := getPcl s p
  match x.mark.phase with
  | .exchange =>
    match x.peerDigests.find? fun d => d.1 = markNo x with
    | none => s
    | some d =>
      let s := modPcl s p fun x => { x with peerDigests := x.peerDigests.filter fun e => e.1 ≠ markNo x }
      if d.2.take 16 ≠ Dig.bytes x.mark.csd then stopAtMark s p 0x49
      else if d.2.drop 16 ≠ Dig.bytes x.mark.sd then stopAtMark s p 0x41
      else finishMark (modPcl s p fun y => { y with agreed := markNo y }) p 1
  | _ => s

/-- The twin status of a mark that is not compared (R300, Table 10-8, Table 11-10). -/
def twinStatus (s : State) : Nat :=
  match (if s.twin.st = .rejoinSource then s.twin.prev else s.twin.st) with
  | .lost => 3
  | .survivor => 4
  | _ => 0

/-- The DIGEST of a mark goes out, and the mark waits for the peer's (R298). -/
def sendDigest (s : State) (p : Nat) : State :=
  let x := getPcl s p
  let s := sendSeq s 2 ([BitVec.ofNat 8 p, ofBool x.mark.ti, 0, 0] ++ leBytes 8 (markNo x).toNat ++ markDigests x)
  compareMark (modPcl s p fun x => { x with mark := { x.mark with phase := .exchange } }) p

/-- The marks that wait for a peer that is gone complete unchecked (R298, R310). -/
def releaseMarks (s : State) : State :=
  (List.range 8).foldl (fun s p =>
    if (getPcl s p).mark.phase = .exchange then finishMark s p (twinStatus s) else s) s

/-- BMARK (R338, R271, R275). -/
def execBmark (w : Nat) (s : State) : Out :=
  record 0x12 .work [⟨16, 1, 1⟩] w s fun p r s =>
    let x := getPcl s p
    match x.mark.phase with
    | .none =>
      let quiet := quiescent s p
      if x.st = .stopped then .fin stStopped [] s
      else if launching s p || (bit (field r 16 1) 0 && !quiet) then .wait s
      else
        let (s, def_) := applyAll s p
        .wait (modPcl s p fun x => { x with mark := { phase := .readout, quiet := quiet, beddef := def_ } })
    | .digests =>
      if (pclLive s p).any (writeFlying s) then .wait s
      else
        let s := formDigests (closeGates s p) p
        if s.twin.st = .paired then .wait (sendDigest s p) else .own (finishMark s p (twinStatus s))
    | .readout | .exchange => .wait s

/-! ### A step that ends without its mark (R339) -/

/-- The status of a boundary completion record for each end (Table 11-9). -/
def endStatus : StepEnd → Nat
  | .checkpoint => 7
  | .placement => 8
  | .failStop => 9

/-- The mark that a window has begun to execute, if it has (R338). -/
def begunMark (s : State) (p w : Nat) : Option Rec :=
  if (getPcl s p).mark.phase = .none then none
  else (getWin s w).waitRec.filter fun r => recOp r = 0x12

/-- The completion record of a step that ends without its mark, its digests and results zero (R339): SEQ, HTAG and interrupt
are those of the BMARK that the window has begun to execute, or of none (log 24 [DEDUCED]). Without an enabled work window
there is none. See log 96 [DESIGN CHOICE]. -/
def endRecord (s : State) (p status : Nat) : State :=
  match workWin s p with
  | none => s
  | some w =>
    let r := begunMark s p w
    let irq := match (getWin s w).waitRec with
      | some r => recOp r = 0x12 && recIrq r
      | none => false
    let head := recHead 2 p status ((r.map recSeq).getD 0) ((r.map recHtag).getD 0)
    emitRec (if r.isSome then endRec s w else s) w (head ++ endBody (getPcl s p) 0) irq

/-- The parcel's step ends: its record, and for a restart or a loss of placement every context reset and the work window
closed, a START or BMARK that waits there ABORTED (R329); then the initial mark (R339, R340). -/
def endStep (s : State) (p : Nat) (e : StepEnd) : State :=
  let s := endStepHandling (endRecord s p (endStatus e)) p
  match e with
  | .failStop => initialMark s p
  | _ =>
    let s := (pclLive s p).foldl abandonCore s
    let s := match workWin s p with
      | some w => closeWin s w false
      | none => s
    initialMark s p

/-- A core of the parcel is being fenced. -/
def fencingOf (s : State) (p : Nat) : Bool := s.place.fencing.any fun c => coreParcel s c = some p

/-- STEP_END_WITHOUT_MARK: the Gatehouse ends a step that has been stopped for it, once the writes of its cores that are
on their way have been performed (R28, R282, R339). A fail-stop ends its steps itself (R301). -/
def execStepEndWithoutMark (p : Nat) (cause : StepEnd) (s : State) : Out :=
  let x := getPcl s p
  let due := match cause with
    | .checkpoint => x.stop = .checkpoint || (x.stop = .replay && !replayable x)
    | .placement => x.stop = .placement
    | .failStop => false
  if due && alive s && decide (p < 8) && x.st = .active && !(pclLive s p).any (storesFlying s) && !fencingOf s p then done (endStep s p cause) else cannot s

end Sys2Proof.Machine
end

