-- ==== Sys2Proof/Machine/Pages.lean ====
section
/-!
DEFINITION. Page commands: MAP, UNMAP and CLEAN with their zero-fills (R200, R201, R336), the faults that they and
FAULTABORT resolve (R202 to R205), seals (R209, R210, R315) and RWACK (R343).
-/

namespace Sys2Proof.Machine

/-! ### Faults resolved (R204, R205) -/

/-- The held stores of a context without the first at an address. -/
def dropHeld (s : State) (c k : Nat) (a : W64) : State :=
  modCtx s c k fun y => { y with heldSt := match y.heldSt.find? fun h => h.addr = a with
                                  | none => y.heldSt
                                  | some h => y.heldSt.erase h }

/-- A held store of a context at an address, where it has one. -/
def heldAt (s : State) (r : FaultReq) : Option HeldStore :=
  if r.requester = 0 ∧ r.write then (getCtx s r.core r.index).heldSt.find? fun h => h.addr = r.addr else none

/-- A held store is to be performed at its port: it waits there again as a request, in its own place in the order of ages,
so before every later request of its context (R77, R195, R204). -/
def redoStore (s : State) (r : FaultReq) (h : HeldStore) : State :=
  let fa := h.addr.toNat % 2 ^ 42
  let f := coreFlit s r.core (.far fa) h.addr true h.data (.store r.core r.index h.pc h.addr)
  let p := fpnPort (fa / 2 ^ 24)
  modPortF (dropHeld s r.core r.index h.addr) p fun x =>
    { x with ingress := x.ingress ++ [{ f with pos := endpointSite (800 + p), arrived := true, fresh := false, born := h.born }] }

/-- The stopped spill, or refill, goes on (R135). -/
def Cairn.resume (spill : Bool) (x : Cairn) : Cairn := if spill then { x with spillFault := none } else { x with refillFault := none }

/-- A held requester resumes (R204). -/
def resumeReq (s : State) (r : FaultReq) : State :=
  let s := match heldAt s r with
    | some h => redoStore s r h
    | none => s
  let s := if r.requester = 1 then
      modChan s r.core r.index fun x => { x with st := if x.st = .held then .busy else x.st, faultAddr := 0 }
    else if r.requester = 4 then modCairn s r.core (Cairn.resume r.write)
    else s
  let s := match r.ctxOf with
    | some (c, k) => releaseCtx s c k
    | none => s
  wake s r.core

/-- A MAP has completed: held requesters that the new rights allow resume, and a new record is written for those that
stay (R204). -/
def resolveFaults (s : State) (p fpn : Nat) : State :=
  match s.far.faults.find? fun f => f.parcel = p && f.fpn = fpn with
  | none => s
  | some f =>
    let why (r : FaultReq) : Option Nat := pageRefusal (getEnt s fpn) p false (!r.write) r.write
    let go := f.held.filter fun r => (why r).isNone
    let stay := f.held.filter fun r => (why r).isSome
    let rest := s.far.faults.filter fun g => g ≠ f
    let s := { s with far := { s.far with faults := match stay with
                                            | [] => rest
                                            | _ => s.far.faults.map fun g => if g = f then { g with held := stay } else g } }
    let s := go.foldl resumeReq s
    match stay with
    | [] => nextFaultRec s p
    | r :: _ => if f.recorded then writeFaultRec s p fpn ((why r).getD 0) stay.length r else s

/-- FAULTABORT releases a requester: trap 0x03 with TRAPVAL the faulting address, a halt, or a discarded store (R204;
TRAPPC of a discarded store names the store, log 25 [DEDUCED]). -/
def abortReq (s : State) (r : FaultReq) : State :=
  match heldAt s r with
  | some h => trapAt (dropHeld s r.core r.index h.addr) r.core r.index h.pc 0x03 h.addr
  | none =>
    let trapped : Bool := match r.ctxOf with
      | none => false
      | some (c, k) => (getCtx s c k).st = .held && r.holds s c k
    let s := if r.requester = 4 then modCairn s r.core (Cairn.resume r.write) else s
    if r.requester = 1 then haltChan s r.core r.index
    else match r.ctxOf with
      | none => s
      | some (c, k) => if trapped then wake (trap s c k 0x03 r.addr) c else s

/-- FAULTABORT (R204). -/
def execFaultabort (w : Nat) (s : State) : Out :=
  record 0x25 .service [⟨16, 4, ones 4⟩] w s fun p r s =>
    let fpn := field r 16 4
    match s.far.faults.find? fun f => f.parcel = p && f.fpn = fpn with
    | none => .fin stDone [] s
    | some f =>
      let s := { s with far := { s.far with faults := s.far.faults.filter fun g => g ≠ f } }
      .fin stDone [] (nextFaultRec (f.held.foldl abortReq s) p)

/-! ### Seals (R209, R210) -/

/-- The sealed ranges of a parcel. -/
def sealsOf (s : State) (p : Nat) : List (Nat × Nat) := sget [] s.far.seals p

/-- A page lies in a sealed range of a parcel. -/
def sealedBy (s : State) (p fpn : Nat) : Bool := (sealsOf s p).any fun e => decide (e.1 ≤ fpn) && decide (fpn < e.1 + e.2)

/-- A page lies in a sealed range of another parcel. -/
def sealedByOther (s : State) (p fpn : Nat) : Bool := (List.range 8).any fun q => q ≠ p && sealedBy s q fpn

/-- Lines of a page that a host holds: their physical numbers (R315). -/
def heldLines (s : State) (fpn : Nat) : List Nat :=
  ((getPortF s (fpnPort fpn)).snoops.filter fun x => !x.lapsed && x.line / 2 ^ 18 = entPpn s fpn).map fun x => x.line

/-- Every tracked line of a page is back-invalidated (R315). -/
def snoopPage (s : State) (fpn : Nat) : State := (heldLines s fpn).foldl (fun s l => startSnoop s l true) s

/-- The page is owned by the parcel. -/
def pageOwned (s : State) (p fpn : Nat) : Bool := (getEnt s fpn).v && (getEnt s fpn).owner.toNat = p

/-- Why a SEAL is refused (R209, Table 11-8). See log 79 [DEDUCED]. -/
def sealRefusal (s : State) (p first count : Nat) : Option Nat :=
  if fpnMax < first + count then some 0x04
  else if 16 ≤ (sealsOf s p).length then some 0x06
  else if ((List.range count).any fun i => !pageOwned s p (first + i)) then some 0x05
  else if ((sealsOf s p).any fun e => decide (e.1 < first + count) && decide (first < e.1 + e.2)) then some 0x07
  else none

/-- The layouts of page commands (Table 11-7). -/
def pageFields : List OpField := [⟨16, 4, ones 4⟩, ⟨20, 4, ones 4⟩]

/-- SEAL: the writes that the port has accepted are performed first (R210), and every host-held line of its pages is
back-invalidated (R209, R315). -/
def execSealRange (w : Nat) (s : State) : Out :=
  record 0x23 .work pageFields w s fun p r s =>
    let first := field r 16 4
    let count := field r 20 4
    if count = 0 then .fin stIllegal [] s
    else match sealRefusal s p first count with
      | some x => refuse s x
      | none =>
        let fpns := (List.range count).map fun i => first + i
        if (getPort s (getPcl s p).port).ingress ≠ [] then .wait s
        else if fpns.all fun f => heldLines s f = [] then
          .fin stDone [] { s with far := { s.far with seals := smod [] s.far.seals p fun l => l ++ [(first, count)] } }
        else .wait (fpns.foldl snoopPage s)

/-- UNSEAL: FPN and COUNT equal an entry (R209). -/
def execUnsealRange (w : Nat) (s : State) : Out :=
  record 0x24 .work pageFields w s fun p r s =>
    let e := (field r 16 4, field r 20 4)
    if e.2 = 0 then .fin stIllegal [] s
    else if e ∈ sealsOf s p then .fin stDone [] { s with far := { s.far with seals := smod [] s.far.seals p fun l => l.erase e } }
    else refuse s 0x07

/-- A refused-write report that an RWACK of a parcel ends: its own of the page, and where the record was the port's, that of
every parcel of the port (R211, R314). -/
def rwEnds (s : State) (p fpn : Nat) (x : RefusedPage) : Bool :=
  let own (y : RefusedPage) : Bool := y.parcel = p && y.fpn = fpn && y.recorded
  x.fpn = fpn && (s.far.refusals.any fun y => own y && y.byPort == x.byPort) &&
    (x.parcel = p || (x.byPort && (getPcl s x.parcel).port = (getPcl s p).port))

/-- RWACK: the page's refused-write record is acknowledged, and its refusals count from nothing again (R314, R343). -/
def execRwack (w : Nat) (s : State) : Out :=
  record 0x26 .both [⟨16, 4, ones 4⟩] w s fun p r s =>
    if s.far.refusals.any fun x => x.parcel = p && x.fpn = field r 16 4 && x.recorded then
      .fin stDone [] { s with far := { s.far with refusals := s.far.refusals.filter fun x => !rwEnds s p (field r 16 4) x } }
    else refuse s 0x0D

/-! ### MAP, UNMAP and CLEAN (R200, R201, R336) -/

/-- What a page command comes to at a page. -/
inductive PageRes where
  | refused (reason : Nat)
  | wait (s : State)
  | ok (s : State)

/-- The Gatehouse changes an entry, and the port's cached copy is invalidated (R201). -/
def putEnt (s : State) (fpn : Nat) (f : CadEntry → CadEntry) : State :=
  bump (dropCad (modEnt s fpn f) fpn) (cadBlock (fpn / 92160)) 1 1

/-- A page takes its owner and rights, and what it held up goes on (R201, R204). -/
def mapPage (s : State) (p fpn rights : Nat) : State :=
  let s := putEnt s fpn fun e =>
    { e with v := true, owner := BitVec.ofNat 3 p, lastown := BitVec.ofNat 3 p, lov := true, dirty := false,
             cr := bit rights 0, cw := bit rights 1, hr := bit rights 2, hw := bit rights 3 }
  resolveFaults s p fpn

/-- MAP at one page (R200, R201, R287); the page that a running retirement has chosen as B waits for its end (R199). -/
def mapOne (s : State) (w p fpn rights : Nat) : PageRes :=
  let e := getEnt s fpn
  if fpnMax ≤ fpn ∨ twinReserve s fpn then .refused 0x04
  else if e.zpend || ((getPortF s (fpnPort fpn)).retiring.map (·.b)) = some fpn then .wait s
  else if e.v ∧ e.owner.toNat ≠ p then .refused 0x01
  else if e.ret then .refused 0x02
  else if sealedByOther s p fpn then .refused 0x03
  else if (e.lov ∧ e.lastown.toNat ≠ p) ∨ e.zneed then
    let s := modEnt s fpn fun e => { e with zpend := true }
    .wait { s with far := { s.far with fills := s.far.fills ++ [{ fpn := fpn, window := w }] } }
  else .ok (mapPage s p fpn rights)

/-- UNMAP at one page: host-held lines are back-invalidated first (R201, R315). -/
def unmapOne (s : State) (p fpn : Nat) : PageRes :=
  if fpnMax ≤ fpn then .refused 0x04
  else if !pageOwned s p fpn then .refused 0x05
  else if sealedBy s p fpn then .refused 0x03
  else if heldLines s fpn ≠ [] then .wait (snoopPage s fpn)
  else .ok (putEnt s fpn fun e => { e with v := false, cr := false, cw := false, hr := false, hw := false })

/-- CLEAN at one page (R201). -/
def cleanOne (s : State) (p fpn : Nat) : PageRes :=
  if fpnMax ≤ fpn then .refused 0x04
  else if !pageOwned s p fpn then .refused 0x05
  else .ok (putEnt s fpn fun e => { e with dirty := false })

/-- The body of a page command's completion: REASON, refused FPN and pages done (Table 11-10). -/
def pageBody (reason fpn n : Nat) : List Byte := leBytes 4 reason ++ leBytes 4 fpn ++ leBytes 4 n

/-- A page command goes through its pages in rising order until one is refused or has to wait (R336); fuel is COUNT. -/
def pagesFrom (one : State → Nat → PageRes) (w first count : Nat) : Nat → State → RecRes
  | 0, s => .fin stDone (pageBody 0 0 (getWin s w).pagesDone) s
  | n + 1, s =>
    let k := (getWin s w).pagesDone
    if count ≤ k then .fin stDone (pageBody 0 0 k) s
    else match one s (first + k) with
      | .refused x => .fin stRefused (pageBody x (first + k) k) s
      | .wait s => .wait s
      | .ok s => pagesFrom one w first count n (modWin s w fun x => { x with pagesDone := x.pagesDone + 1 })

/-- A page command with FPN and COUNT. -/
def pageCmd (op : Nat) (lay : List OpField) (w : Nat) (s : State) (one : Nat → Rec → State → Nat → PageRes) : Out :=
  record op .both lay w s fun p r s =>
    let count := field r 20 4
    if count = 0 then .fin stIllegal [] s else pagesFrom (one p r) w (field r 16 4) count count s

def execMapPages (w : Nat) (s : State) : Out :=
  pageCmd 0x20 (pageFields ++ [⟨24, 1, 0xF⟩]) w s fun p r s fpn => mapOne s w p fpn (field r 24 1)

def execUnmapPages (w : Nat) (s : State) : Out := pageCmd 0x21 pageFields w s fun p _ s fpn => unmapOne s p fpn

def execCleanPages (w : Nat) (s : State) : Out := pageCmd 0x22 pageFields w s fun p _ s fpn => cleanOne s p fpn

/-- Bytes and check symbols of a whole physical page are zeros (R200). -/
def zeroPage (s : State) (ppn : Nat) : State :=
  { s with far := { s.far with
      mem := s.far.mem.filter fun c => c.1 / 2 ^ 24 ≠ ppn,
      marks := if s.far.swInit then (List.range (2 ^ 18)).foldl (fun m i => nins m (ppn * 2 ^ 18 + i)) s.far.marks
               else s.far.marks.filter fun l => l / 2 ^ 18 ≠ ppn } }

/-- The MAP that a zero-fill was for takes its page (R200). -/
def fillDone (s : State) (x : ZeroFill) : State :=
  match (getWin s x.window).waitRec with
  | none => s
  | some r =>
    if recOp r = 0x20 ∧ field r 16 4 + (getWin s x.window).pagesDone = x.fpn then
      let s := mapPage s (getWin s x.window).parcel x.fpn (field r 24 1)
      modWin s x.window fun y => { y with pagesDone := y.pagesDone + 1 }
    else s

/-- ZERO_FILL_COMPLETE: the page is zero, ZPEND and ZNEED clear, and the MAP that waits takes the page (R200). -/
def execZeroFillComplete (fpn : Nat) (s : State) : Out :=
  match s.far.fills.find? fun x => x.fpn = fpn with
  | none => cannot s
  | some x =>
    let s := zeroPage s (entPpn s fpn)
    let s := modEnt { s with far := { s.far with fills := s.far.fills.erase x } } fpn fun e => { e with zpend := false, zneed := false }
    done (fillDone s x)

end Sys2Proof.Machine
end

