-- ==== Sys2Proof/Machine/Records.lean ====
section
/-!
DEFINITION. Segments (R325 to R327, R330) and the work and service records that act on cores and parcels: NOP, SEGSEAL,
LOADP, START and its completion, OPERAND, MCREG, CTXRESET and PRESET (R332 to R335, R164, R406).
-/

namespace Sys2Proof.Machine

/-! ### Segments (R327) -/

/-- The records of a segment, from the next one to execute to the first seal among the buffered records that follow it
without a gap, with the SEQs counted; fuel is the window's room. -/
def segOf (x : Window) : Nat → W32 → Option Rec
  | 0, _ => none
  | n + 1, q =>
    match x.buf.find? fun e => e.1 = q.toNat with
    | none => none
    | some e => if recOp e.2 = 0x02 then some e.2 else segOf x n (q + 1)

/-- The seal of the segment passes its checks (R327). -/
def sealOk (x : Window) (r : Rec) : Bool :=
  field r 16 4 = x.next.toNat && field r 20 4 = (recSeq r - x.next + 1).toNat

/-- SEGMENT_EXECUTE: every record from FIRST to the seal has arrived; the segment executes, or is discarded whole with its
seal completed as BADSEG (R327, R328). -/
def execSegmentExecute (w : Nat) (s : State) : Out :=
  let x := getWin s w
  if !alive s || decide (64 ≤ w) || !x.active || x.seg.isSome || x.waitRec.isSome || x.replayQ ≠ [] || x.backlog ≠ [] || stepStands s x then cannot s
  else match segOf x 1024 x.next with
    | none => cannot s
    | some r =>
      if sealOk x r then done (modWin s w fun x => { x with seg := some (recSeq r) })
      else
        let n := (recSeq r - x.next).toNat + 1
        let gone := (List.range n).map fun i => (x.next + BitVec.ofNat 32 i).toNat
        let s := modWin s w fun x => { x with buf := x.buf.filter fun e => decide (e.1 ∉ gone), next := recSeq r + 1, badseg := true }
        done (writeCompletion s w r stBadSeg [])

/-- SEGSEAL: the segment is closed (Table 11-7). -/
def execSegseal (w : Nat) (s : State) : Out :=
  record 0x02 .both [⟨16, 4, ones 4⟩, ⟨20, 4, ones 4⟩] w s fun _ _ s => .fin stDone [] s

/-- NOP; a record whose opcode Table 11-7 does not list is completed here as ILLEGAL (R332). -/
def execNop (w : Nat) (s : State) : Out :=
  match curRec s w with
  | none => cannot s
  | some r =>
    if recListed (recOp r) then record 0x01 .both [] w s fun _ _ s => .fin stDone [] s
    else done (finRec (takeRec s w r) w r stIllegal [])

/-! ### LOADP (R335) -/

/-- The layout of a core set (R332). -/
def setFields : List OpField := [⟨16, 4, ones 4⟩, ⟨20, 4, 0xFFFFFF⟩]

/-- LOADP's operands keep their limits (Table 11-7). -/
def loadpOk (r : Rec) : Bool :=
  let dst := field r 32 4
  let n := field r 36 4
  farOpOk (field r 24 8) && decide (dst % 64 = 0) && decide (n % 64 = 0) && decide (64 ≤ n) && decide (n ≤ nearSize) && decide (dst + n ≤ nearSize)

/-- LOADP (R335). See log 72 [DEDUCED]. -/
def execLoadp (w : Nat) (s : State) : Out :=
  record 0x10 .work (setFields ++ [⟨24, 8, ones 8⟩, ⟨32, 4, ones 4⟩, ⟨36, 4, ones 4⟩]) w s fun p r s =>
    if !loadpOk r then .fin stIllegal [] s
    else if (getPcl s p).st = .stopped then .fin stStopped [] s
    else match setRefusal s p (field r 16 4) (field r 20 4) with
      | some x => refuse s x
      | none =>
        if !reachable s p (coreSet s p (field r 16 4) (field r 20 4)) then .wait s
        else match ghRead s p 0 (field r 24 8) (field r 36 4) with
        | .error e => e.res
        | .ok bs =>
          .fin stDone [] ((coreSet s p (field r 16 4) (field r 20 4)).foldl (fun s c => nearWrite s (csite s c) (field r 32 4) bs) s)

/-! ### START (R69, R334) -/

/-- START's operands keep their limits (Table 11-7). -/
def startOk (r : Rec) : Bool :=
  decide (field r 28 4 % 8 = 0) && farOpOk (field r 32 8) && decide (field r 40 4 % 64 = 0)

/-- The address of the arguments of the core of a rank. -/
def argAddr (r : Rec) (i : Nat) : Nat := field r 32 8 + i * field r 40 4

/-- The Gatehouse reads the arguments: once if the stride is 0, else once for each core (R334). -/
def argReads (s : State) (p : Nat) (r : Rec) (cs : List Nat) : List (Except GhStop (List Byte)) :=
  if field r 40 4 = 0 then [ghRead s p (cs.headD 0) (argAddr r 0) 64]
  else cs.zipIdx.map fun (c, i) => ghRead s p c (argAddr r i) 64

/-- Every argument read that fails R198 has its own fault record written (R203); fuel runs over the cores. -/
def argFaults (p : Nat) (r : Rec) : List (Nat × Nat) → State → State
  | [], s => s
  | (c, i) :: t, s =>
    match ghRead s p c (argAddr r i) 64 with
    | .error (.fault s) => argFaults p r t s
    | _ => argFaults p r t s

/-- The reads wait. -/
def argWait : List (Except GhStop (List Byte)) → Option State
  | [] => none
  | .error (.wait s) :: _ => some s
  | _ :: t => argWait t

/-- The reads that came about, if all did. -/
def argData : List (Except GhStop (List Byte)) → Option (List (List Byte))
  | [] => some []
  | .ok b :: t => (argData t).map fun l => b :: l
  | .error _ :: _ => none

/-- A context starts (R69, R98, R147, R175); a store of the slot's last program that a page fault still holds stays held (R202). -/
def Ctx.start (y : Ctx) (pc : W64) (args : List Byte) (compat : Bool) (by_ : Nat × W32) : Ctx :=
  { st := .ready, pc := pc, sregs := (List.range 8).foldl (fun m i => sset 0 m (i + 1) (BitVec.ofNat 64 (field args (8 * i) 8))) [],
    nflags := y.nflags, mseed := y.mseed, mstep := y.mstep, mtid := y.mtid, mkeep := y.mkeep, compat := compat, startedBy := some by_,
    heldSt := y.heldSt }

/-- Every context of a START starts with its arguments (R334). -/
def startAll (s : State) (w p : Nat) (r : Rec) (cs : List Nat) (data : List (List Byte)) : State :=
  let k := field r 24 1
  let compat := (getPcl s p).compat = 1
  let s := cs.zipIdx.foldl (fun s (c, i) =>
    let args := if field r 40 4 = 0 then data.headD [] else data.getD i []
    modCtx s c k fun y => y.start (BitVec.ofNat 64 (field r 28 4)) args compat (w, recSeq r)) s
  let s := modPcl s p fun x => { x with allTi := x.allTi && bit (field r 25 1) 0, allSafe := x.allSafe && bit (field r 25 1) 1 }
  if recCr r then
    let g : StartGroup := { seqNo := recSeq r, flags := recFlags r, htag := recHtag r, members := cs.map fun c => (c, k, none) }
    modWin s w fun x => { x with groups := x.groups ++ [g] }
  else s

/-- START waits until every context of the set is IDLE, and then starts them (R334). -/
def execStart (w : Nat) (s : State) : Out :=
  record 0x11 .work (setFields ++ [⟨24, 1, 3⟩, ⟨25, 1, 3⟩, ⟨28, 4, 0x1FFFFF⟩, ⟨32, 8, ones 8⟩, ⟨40, 4, ones 4⟩]) w s fun p r s =>
    if !startOk r then .fin stIllegal [] s
    else if (getPcl s p).st = .stopped then .fin stStopped [] s
    else match setRefusal s p (field r 16 4) (field r 20 4) with
      | some x => refuse s x
      | none =>
        let cs := coreSet s p (field r 16 4) (field r 20 4)
        let busy (c : Nat) : Bool := (getCtx s c (field r 24 1)).st ≠ .idle || (getCtx s c (field r 24 1)).resetting || (getCore s c).resetting
        if cs.any busy || !reachable s p cs then .wait s
        else
          let s := noteAllEnds s
          let rs := argReads s p r cs
          match argWait rs with
          | some s => .wait s
          | none =>
            match argData rs with
            | some data => .own (startAll s w p r cs data)
            | none => .fin stFault [] (argFaults p r (if field r 40 4 = 0 then [(cs.headD 0, 0)] else cs.zipIdx) s)

/-- The members of a group that ended by HALT with a nonzero exit code, and those that trapped (Table 11-10). -/
def StartGroup.nonzero (g : StartGroup) : List (Nat × W64) :=
  g.members.filterMap fun m => match m.2.2 with
    | some (v, false) => if v ≠ 0 then some (m.1, v) else none
    | _ => none
def StartGroup.trapped (g : StartGroup) : Nat :=
  g.members.countP fun m => match m.2.2 with
    | some (_, t) => t
    | none => false

/-- The body of a START's completion (Table 11-10). -/
def StartGroup.body (g : StartGroup) : List Byte :=
  let low := g.nonzero.head?.getD (0, 0)
  leBytes 4 0 ++ leBytes 4 g.members.length ++ leBytes 4 g.nonzero.length ++ leBytes 4 g.trapped ++ leBytes 2 low.1 ++ [0, 0] ++
  leBytes 8 low.2.toNat

/-- START_COMPLETION: every context that a START of the window started has ended, and its completion is written (R334). See log 77 [DEDUCED]. -/
def execStartCompletion (w : Nat) (s : State) : Out :=
  let s' := noteEnds s w
  match (getWin s' w).groups.find? fun g => g.members.all fun m => m.2.2.isSome with
  | none => cannot s
  | some g =>
    if !alive s || decide (64 ≤ w) then cannot s
    else
      let s := modWin s' w fun x => { x with groups := x.groups.erase g }
      let hd := recHead 1 (getWin s w).parcel stDone g.seqNo g.htag
      let s := emitRec s w (hd ++ g.body) (g.flags.getLsbD 1)
      let clear (q : List Byte) : List Byte := if recSeq q = g.seqNo then patch q 7 [recFlags q &&& 0xFE] else q
      done (modPcl s (getWin s w).parcel fun x => { x with stepRecs := x.stepRecs.map clear })

/-! ### OPERAND and MCREG (R164, R268) -/

/-- OPERAND stages eight values of a set (R164, R14). -/
def execOperand (w : Nat) (s : State) : Out :=
  record 0x13 .work [⟨16, 1, 0x3F⟩, ⟨17, 1, 1⟩, ⟨20, 32, ones 32⟩] w s fun p r s =>
    .fin stDone [] ((List.range 8).foldl (fun s i =>
      stage s p (.operand (field r 16 1) (8 * field r 17 1 + i)) (field r (20 + 4 * i) 4)) s)

/-- A site's multicast register takes a value; reserved bits of MCT_RECT stay zero (Tables 9-7, 9-8). -/
def setMcReg (x : Site) (off : Nat) (v : W32) : Site :=
  if off = 0x840 then { x with mcsel := v }
  else
    let i := (off - 0x800) / 4
    { x with mct := sset 0 x.mct i (if i % 2 = 0 then v &&& 0x803FFFFF else v) }

/-- MCREG writes the register at each core's CSITE (Table 11-7, R252, R268). -/
def execMcreg (w : Nat) (s : State) : Out :=
  record 0x14 .work (setFields ++ [⟨24, 4, ones 4⟩, ⟨28, 4, ones 4⟩]) w s fun p r s =>
    let off := field r 24 4
    if off < 0x800 ∨ 0x840 < off ∨ off % 4 ≠ 0 then .fin stIllegal [] s
    else if (getPcl s p).st = .stopped then .fin stStopped [] s
    else match setRefusal s p (field r 16 4) (field r 20 4) with
      | some x => refuse s x
      | none =>
        if !reachable s p (coreSet s p (field r 16 4) (field r 20 4)) then .wait s
        else .fin stDone [] ((coreSet s p (field r 16 4) (field r 20 4)).foldl (fun s c =>
          modCore s c fun x => setMcReg x off (BitVec.ofNat 32 (field r 28 4))) s)

/-! ### Resets by record (R406) -/

/-- The layout of CORE and CTX (Table 11-7). -/
def ctxFields : List OpField := [⟨16, 2, 0x3FF⟩, ⟨18, 1, 3⟩]

/-- CTXRESET: the reset begins, and the record completes with it. -/
def execCtxreset (w : Nat) (s : State) : Out :=
  record 0x32 .service ctxFields w s fun p r s =>
    match coreRefusal s p (field r 16 2) with
    | some x => refuse s x
    | none => .wait (beginCtxReset s (field r 16 2) (field r 18 1))

/-- PRESET: a parcel reset begins; the record completes with it. -/
def execPreset (w : Nat) (s : State) : Out :=
  record 0x33 .service [] w s fun p _ s => .wait (beginParcelReset s p)

end Sys2Proof.Machine
end

