-- ==== Sys2Proof/Machine/Preempt.lean ====
section
/-!
DEFINITION. PREEMPT and RESTORE: a context's state goes to a save area, and comes back from one (R90, R91, R98, R116,
R117, R129, R147, R175, R177, R337, Table 3-16).
-/

namespace Sys2Proof.Machine

/-! ### The save area (Table 3-16) -/

/-- Registers of a mask, ascending. -/
def maskRegs (n : Nat) (m : Nat → Bool) : List Nat := (List.range n).filter m

/-- Bytes of a save area whose context owns these registers and arrays. -/
def saveBytes (valloc : W32) (town : BitVec 4) : Nat :=
  1024 + 256 * (maskRegs 32 valloc.getLsbD).length + 65536 * (maskRegs 4 town.getLsbD).length

/-- The tag field: the tag of v[n] in bits 10n to 10n + 9, zero for a register not owned. -/
def saveTags (x : Site) (valloc : W32) : List Byte :=
  leBytes 40 ((maskRegs 32 valloc.getLsbD).foldl (fun a n => a + (x.vtag n).toNat * 2 ^ (10 * n)) 0)

/-- An entry of the compatibility beacon list. -/
def saveBeacon (s : State) (b : Nat) : List Byte := leBytes 4 (0x8000 + b) ++ leBytes 4 (beaconVal s b).toNat

/-- The bytes of a vector register. -/
def saveVreg (x : Site) (v : Nat) : List Byte := (x.vreg v).flatMap fun w => leBytes 4 w.toNat

/-- The bytes of an accumulator tile; those of an EMPTY one are zero. -/
def saveTile (x : Site) (arr t : Nat) : List Byte :=
  (List.range 2048).flatMap fun i => leBytes 4 (x.tiles.word arr t (i / 32) (i % 32)).toNat

/-- A control register's eight bytes; zero for an index that no table lists. -/
def saveCr (s : State) (c k i : Nat) : List Byte := leBytes 8 ((readCr s c k i).getD 0).toNat

/-- The save area of a context. -/
def saveArea (s : State) (c k : Nat) : List Byte :=
  let x := getCore s c
  let y := x.ctx k
  ((List.range 32).flatMap fun i => leBytes 8 (y.s (BitVec.ofNat 5 i)).toNat) ++
  ((List.range 16).flatMap fun i => leBytes 8 (y.a (BitVec.ofNat 5 i)).toNat) ++
  (([0x01, 0x00, 0x02, 0x03, 0x07, 0x08, 0x04, 0x05, 0x06] : List Nat).flatMap (saveCr s c k)) ++
  saveTags x y.valloc ++ zeros 16 ++
  ((List.range 48).flatMap fun i => saveCr s c k (0x10 + i)) ++
  fit 128 (if y.compat then y.compatList.flatMap (saveBeacon s) else []) ++
  ((maskRegs 32 y.valloc.getLsbD).flatMap (saveVreg x)) ++
  ((maskRegs 4 y.town.getLsbD).flatMap fun a => (List.range 8).flatMap (saveTile x a))

/-! ### PREEMPT (R90, R337) -/

/-- CORE, CTX and SAVE (Table 11-7). -/
def saveFields : List OpField := ctxFields ++ [⟨24, 8, ones 8⟩]

/-- The context's launch stops: one that runs at a group boundary, one that waits with UPOS unchanged (R177). -/
def preemptLaunch (s : State) (c k : Nat) : State :=
  match (getCore s c).launches.find? fun l => l.ctx = k with
  | none => s
  | some l =>
    if l.st = .running then interruptLaunch s c l
    else modCtx (dropLaunch s c l) c k fun y => { y with ustat := 0 }

/-- The tile sequences that the context waits for stop at a row boundary with TSTART set (R116). -/
def preemptTiles (s : State) (c k : Nat) : State :=
  let js := (getTiles s c).jobs.filter fun j => j.ctx = k && j.waited
  tileWake (js.foldl (fun s j => stopTseq s c j) s) c

/-- The loads of a context are discarded; they are issued again after a restore. -/
def FlitFor.loadOf (c k : Nat) : FlitFor → Bool
  | .load a b _ => a = c && b = k
  | _ => false

/-- A requester is the context's own: not one of its posted stores, and not a channel or the Cairn. -/
def FaultReq.preempted (s : State) (c k : Nat) (r : FaultReq) : Bool :=
  r.core = c && r.index = k && (r.requester = 0 || r.requester = 2 || r.requester = 3) && (heldAt s r).isNone

/-- The context's issue stops, what it waits for is given up, and its PC stays (R90). See log 78 [DEDUCED]. -/
def beginPreempt (s : State) (p c k : Nat) : State :=
  let y := getCtx s c k
  if y.preempting then s
  else
    let s := dropWaits (dropFault s (FaultReq.preempted s c k)) c k
    let s := preemptTiles (preemptLaunch (dropFlits s (FlitFor.loadOf c k)) c k) c k
    let s := modCore s c fun x => { x with lastSlot := if (x.ctx k).st = .issuing then k else x.lastSlot }
    let s := modCtx s c k fun y =>
      if y.wait = .zeroing then { y with preempting := true }
      else { y with preempting := true, wait := .none, st := if y.st = .trapped then .trapped else .ready }
    wake (modPcl s p fun x => { x with preempted := true }) c

/-- The work of a context that a save waits for is over: copies, tile work, stores and a WINIT's zeroing (R90, R98). -/
def preemptReady (s : State) (c k : Nat) : Bool :=
  let x := getCore s c
  let y := x.ctx k
  let idle (ch : Chan) : Bool := ch.st = .haltedDesc || ch.st = .haltedErr || (ch.st = .idle && ch.queue = [])
  idle (x.chan (2 * k)) && idle (x.chan (2 * k + 1)) && !tileBusy x k && !storeFlying s c k && y.heldSt = [] && y.wait ≠ .zeroing

/-- The context is saved: it is IDLE and its arrays and registers are free, but the Cairn stays its slot's (R98, R129). -/
def endPreempt (s : State) (p c k save : Nat) : State :=
  let own := (getCairn s c).owner
  let s := becomeIdle s c k
  let s := modCairn s c fun x => { x with owner := own }
  let s := modCtx s c k fun y => { y with preempting := false, ustat := 0, uwga := false }
  wake (modPcl s p fun x => { x with saves := (save, c) :: x.saves.filter fun e => e.1 ≠ save }) c

/-- PREEMPT (R90, R337). -/
def execPreempt (w : Nat) (s : State) : Out :=
  record 0x30 .service saveFields w s fun p r s =>
    let c := field r 16 2
    let k := field r 18 1
    let save := field r 24 8
    if !farOpOk save then .fin stIllegal [] s
    else match coreRefusal s p c with
      | some x => refuse s x
      | none =>
        let y := getCtx s c k
        if y.st = .idle ∨ y.resetting ∨ (getCore s c).resetting then .wait s
        else if !y.preempting then
          match farRefusal s p save (saveBytes y.valloc y.town) false false true with
          | some (kind, fpn) => .fin stFault [] (ghFault s p c save kind fpn true)
          | none => .wait (beginPreempt s p c k)
        else if !preemptReady s c k then .wait s
        else
          match ghWrite s p c save (saveArea s c k) with
          | .ok s => .fin stDone [] (endPreempt s p c k save)
          | .error (.wait s) => .wait s
          | .error (.fault s) => .fin stFault [] (modCtx s c k fun y => { y with preempting := false })

/-! ### RESTORE (R91, R117, R129, R147, R175, R337) -/

/-- A saved control register 0x10 to 0x3F. -/
def savedCr (b : List Byte) (i : Nat) : Nat := field b (512 + 8 * (i - 0x10)) 8

/-- VALLOC and TOWN of a save area. -/
def savedValloc (b : List Byte) : W32 := BitVec.ofNat 32 (field b 416 4)
def savedTown (b : List Byte) : BitVec 4 := BitVec.ofNat 4 (savedCr b 0x10)

/-- Why a restore into a slot is refused, with a save area's first 1,024 bytes (R117, R129, R337). -/
def restoreRefusal (s : State) (p c k save : Nat) (b : List Byte) : Option Nat :=
  let x := getCore s c
  let others := (List.range 4).foldl (fun (a : BitVec 4) j => if j = k then a else a ||| (x.ctx j).town) 0
  let stat := savedCr b 0x25
  let other := match (getPcl s p).saves.find? fun e => e.1 = save with
    | none => false
    | some e => e.2 ≠ c
  if savedTown b &&& others ≠ 0 then some 0x09
  else if bit stat 2 && (other || decide (x.cairn.owner ≠ none ∧ x.cairn.owner ≠ some k)) then some 0x0A
  else none

/-- The interrupted launch at UDESC reads the WGA: a gauge, or GKIND 0 (R180). -/
def savedWga (s : State) (c : Nat) (b : List Byte) : Bool :=
  let u := savedCr b 0x32
  u % 8 = 4 && (bit u 3 || (match uRead s c (BitVec.ofNat 64 (savedCr b 0x31)) 128 with
    | .ok d => udGkind d = 0
    | .error _ => true))

/-- The registers of a context as a save area holds them. See log 104 [DEDUCED]. -/
def savedCtx (s : State) (c : Nat) (b : List Byte) : Ctx :=
  let w (off : Nat) : W64 := BitVec.ofNat 64 (field b off 8)
  let compat := bit (field b 392 8) 2
  let list := (List.range 16).filterMap fun i =>
    let e := field b (896 + 8 * i) 8
    if bit e 15 then some (e % 8192) else none
  { st := .ready,
    sregs := (List.range 32).foldl (fun m i => if i = 0 then m else sset 0 m i (w (8 * i))) [],
    aregs := (List.range 16).foldl (fun m i => sset 0 m i (w (256 + 8 * i))) [],
    pc := w 384, nflags := BitVec.ofNat 32 (field b 400 4), tstart := w 408, valloc := savedValloc b, mseed := w 424,
    trapcause := w 432, trappc := w 440, trapval := w 448, town := savedTown b, tdesc := BitVec.ofNat 64 (savedCr b 0x12),
    trepeats := BitVec.ofNat 16 (savedCr b 0x13), tskips := BitVec.ofNat 16 (savedCr b 0x13 / 65536),
    mstep := BitVec.ofNat 32 (savedCr b 0x28), mtid := BitVec.ofNat 32 (savedCr b 0x29), mkeep := BitVec.ofNat 64 (savedCr b 0x2A),
    upos := BitVec.ofNat 32 (savedCr b 0x30), udesc := BitVec.ofNat 64 (savedCr b 0x31), ustat := BitVec.ofNat 4 (savedCr b 0x32),
    uwga := savedWga s c b, compat := compat, compatList := if compat then list else [] }

/-- Vector registers, their tags, and the tiles of a save area go back into the core. -/
def Site.reload (x : Site) (b : List Byte) : Site :=
  let regs := maskRegs 32 (savedValloc b).getLsbD
  let arrs := maskRegs 4 (savedTown b).getLsbD
  let tags := field b 456 40
  let x := regs.zipIdx.foldl (fun (x : Site) (v, i) =>
    (x.setVreg v ((List.range 64).map fun j => BitVec.ofNat 32 (field b (1024 + 256 * i + 4 * j) 4))).setVtag v
      (BitVec.ofNat 10 (tags / 2 ^ (10 * v)))) x
  let base := 1024 + 256 * regs.length
  let words := arrs.zipIdx.foldl (fun m (a, i) => (List.range 16384).foldl (fun m j =>
    sset 0 m (a * 16384 + j) (BitVec.ofNat 32 (field b (base + 65536 * i + 4 * j) 4))) m) x.tiles.words
  let mask := arrMask (savedTown b)
  let tv := savedCr b 0x11
  let hold := (x.tiles.hold &&& ~~~mask) ||| (BitVec.ofNat 32 tv &&& mask)
  let int := (x.tiles.int &&& ~~~mask) ||| (BitVec.ofNat 32 (tv / 2 ^ 32) &&& mask)
  { x with tiles := { x.tiles with words := words, hold := hold, int := int } }

/-- In compatibility mode each listed beacon of the parcel is SET to its saved value before the context issues (R91). See log 108 [DEDUCED]. -/
def restoreBeacons (s : State) (p : Nat) (b : List Byte) : State :=
  if bit (field b 392 8) 2 then
    (List.range 16).foldl (fun s i =>
      let e := field b (896 + 8 * i) 8
      if bit e 15 && beaconOwned s p (e % 8192) then setBeacon s (e % 8192) (BitVec.ofNat 32 (e / 2 ^ 32)) else s) s
  else s

/-- The context is in its slot again. -/
def reloadCtx (s : State) (p c k : Nat) (b : List Byte) : State :=
  let y := savedCtx s c b
  let s := modCore (restoreBeacons s p b) c fun x => x.reload b
  let s := if bit (savedCr b 0x25) 2 then modCairn s c fun x => { x with owner := some k } else s
  wake (modCtx s c k fun z => { y with heldSt := z.heldSt }) c

/-- RESTORE (R337). -/
def execRestoreCtx (w : Nat) (s : State) : Out :=
  record 0x31 .both saveFields w s fun p r s =>
    let c := field r 16 2
    let k := field r 18 1
    let save := field r 24 8
    if !farOpOk save then .fin stIllegal [] s
    else if (getPcl s p).st = .stopped then .fin stStopped [] s
    else match coreRefusal s p c with
      | some x => refuse s x
      | none =>
        if (getCtx s c k).st ≠ .idle ∨ (getCtx s c k).resetting then refuse s 0x08
        else match ghRead s p c save 1024 with
          | .error e => e.res
          | .ok b =>
            match restoreRefusal s p c k save b with
            | some x => refuse s x
            | none =>
              match ghRead s p c save (saveBytes (savedValloc b) (savedTown b)) with
              | .error e => e.res
              | .ok b => .fin stDone [] (reloadCtx s p c k b)

end Sys2Proof.Machine
end

