-- ==== Sys2Proof/Machine/Repair.lean ====
section
/-!
DEFINITION. Uncorrectable errors by their use (R228, R229, R237), scrubbing and laps (R230 to R232), fencing and
relocation (R26 to R28), the replay of a step (R283) and the module's fail-stop (R301).
-/

namespace Sys2Proof.Machine

/-! ### Uncorrectable errors (Table 8-4) -/

/-- The incident of an error as its detector reports it. -/
def uncInc (u : UncErr) (action source : Nat) (p : Option Nat) : Inc :=
  { cls := u.cls, action := action, source := source, parcel := p, locKind := u.locKind, locNum := u.locNum,
    domain := locDomain u.locKind u.locNum, addr := BitVec.ofNat 64 u.addr, detail := BitVec.ofNat 32 u.detail }

/-- An instruction fetch: trap 0x04, or the twin's fail-stop. -/
def uncFetch (s : State) (u : UncErr) (core ctx : Nat) : State :=
  let s := countUnc s u.cls u.locKind u.locNum (BitVec.ofNat 64 u.addr)
  let s := logInc s (uncInc u (if twinned s then 5 else 1) 0 (coreParcel s core))
  if twinned s then failStop s u.cls 0
  else noteOwn (wake (trap s core ctx 0x04 (BitVec.ofNat 64 (u.addr / 64 * 64))) core) (ownOf s core u.cls u.locKind u.locNum)

/-- A copy: the channel halts with STATE 0x3. -/
def uncCopy (s : State) (u : UncErr) (core ch : Nat) : State :=
  copyUnc s core ch u.cls u.locKind u.locNum (BitVec.ofNat 64 u.addr)

/-- A far page with an uncorrectable error found by a scrub or a read is due for retirement (R220, R222). See log 66 [DEDUCED]. -/
def uncFar (s : State) (u : UncErr) : State := countUnc s u.cls u.locKind u.locNum (BitVec.ofNat 64 u.addr)

/-- An error in the handling path: the module fail-stops (R237). Class 0x14 is logged if the log still works; an error in
the Lodge's own SRAM may be one in the log, and whether that still works is a free value (log 4 [DESIGN CHOICE]). -/
def handlingError (s : State) (u : UncErr) : State :=
  let i : Inc := { uncInc u 5 0 none with cls := 0x14 }
  if u.locKind = 3 then
    let (v, s) := takeFree s
    failStop (if v.getLsbD 0 then logInc s i else s) 0x14 2
  else failStop (logInc s i) 0x14 2

/-- The classes of uncorrectable errors: an instruction fetch's is 0x02, those of data the others (Table 8-7). -/
def uncClass (u : UncErr) : Bool :=
  match u.use with
  | .fetch _ _ => u.cls = 0x02
  | .handlingPath => true
  | _ => u.cls = 0x01 || u.cls = 0x03 || u.cls = 0x04 || u.cls = 0x05 || u.cls = 0x07 || u.cls = 0x08

/-- The use of the value is one that can be made now. -/
def usePossible (s : State) : UncUse → Bool
  | .fetch c k => coreRuns s c && decide (k < 4) && (getCtx s c k).st = .issuing
  | .copy c ch => coreRuns s c && decide (ch < 8) && (getChan s c ch).st = .busy
  | .arith c => coreRuns s c && (coreParcel s c).isSome
  | .updateArith c => coreRuns s c && (runningLaunch (getCore s c)).isSome
  | .hostRead k => decide (k < 4)
  | .scrub => true
  | .handlingPath => true

/-- UNCORRECTABLE_ERROR: the error is handled as Table 8-4 says for what was to use the value (R228, R229, R237). -/
def execUncorrectableError (u : UncErr) (s : State) : Out :=
  if !alive s || !usePossible s u.use || !uncClass u then cannot s
  else
    let a : W64 := BitVec.ofNat 64 u.addr
    let own (c : Nat) : Option Nat := ownOf s c u.cls u.locKind u.locNum
    let d : W32 := BitVec.ofNat 32 u.detail
    match u.use with
    | .fetch c k => done (uncFetch s u c k)
    | .copy c ch => done (uncCopy s u c ch)
    | .arith c => done (uncData s (coreParcelNum s c) u.cls u.locKind u.locNum a false (own c) d)
    | .updateArith c => done (uncData s (coreParcelNum s c) u.cls u.locKind u.locNum a true (own c) d)
    | .hostRead k =>
      let s := bump (uncFar s u) (hpBlock k) 3 1
      done (send (logInc s (uncInc u 0 2 none)) (.memData k (List.replicate 64 0xFF) true))
    | .scrub => done (logInc (uncFar s u) (uncInc u 0 1 none))
    | .handlingPath => done (handlingError s u)

/-! ### The Groundskeeper (R214, R219, R230 to R232, R386) -/

/-- Scrubbing runs on a die: GK_CTL.EN is 1 (R386). -/
def gkOn (s : State) (die : Nat) : Bool := alive s && decide (die < 2) && !sget false s.regs.gkOff die

/-- A terrace word with one wrong bit is corrected, written back and tallied; with more it is an uncorrectable error
(R214, R219, R220, R231). -/
def scrubWord (s : State) (die site idx bad : Nat) : State :=
  let x := getSite s site
  let s := bump s (gkBlock die) 0 1
  let a : W64 := BitVec.ofNat 64 (3 * 2 ^ 60 + site * 2 ^ 32 + idx * 8)
  let unc (s : State) : State :=
    let s := bump (countUnc s 0x05 0 site a) (gkBlock die) 4 1
    logInc s { cls := 0x05, source := 1, parcel := bedParcel s (siteBed site), locKind := 0, locNum := site,
               domain := meshDomain site, addr := a }
  if !unitValid s.far.swInit x.terrMarks idx then unc s
  else if bad = 0 then s
  else if bad = 1 then terrTally (bump (bump s (siteBlock site) 19 1) (gkBlock die) 2 1) site (terrRow (idx * 8)) 0
  else unc s

/-- FPN × 2^24 + offset of a physical line, for ADDR (Table 8-5). -/
def lineFa (s : State) (l : Nat) : Nat := (entOfPpn s (l / 2 ^ 18)).getD (l / 2 ^ 18) * 2 ^ 24 + l % 2 ^ 18 * 64

/-- A far line is decoded; what R217 corrects is written back and tallied; what it cannot is logged, and its page is due
for retirement. Lines held dirty and lines not valid are passed over (R219, R230, R231). -/
def scrubLine (s : State) (die l : Nat) (errs : List SymErr) : State :=
  let p := l / 2 ^ 18 / 3840
  if l ∈ (getPortF s p).dirtyLines ∨ unitValid s.far.swInit s.far.marks l = false then s
  else
    let s := bump s (gkBlock die) 1 1
    match rsDecode (rsMode s) (readWord s l errs) with
    | some (_, false) => s
    | some (d, true) => correctedLine (bump s (gkBlock die) 3 1) p l d
    | none =>
      let s := farTally (bump (bump s (fmpBlock p) 5 1) (gkBlock die) 4 1) p (farRow (l * 64)) (farThresh s)
      logInc s { cls := 0x07, source := 1, locKind := 1, locNum := p, domain := locDomain 1 p, addr := BitVec.ofNat 64 (lineFa s l),
                 detail := synWord (readWord s l errs) }

/-- Words of a site's terrace; words of a die's terraces, and lines of its far memory, of one lap (R230). -/
def terrWords : Nat := terrSize / 8
def lapUnits (far : Bool) : Nat := if far then 24 * 3840 * 2 ^ 18 else 400 * terrWords

/-- A lap's unit at a place in its ascending order is passed over: a word of a lost terrace, a line that the ring cache holds
dirty or that is not valid (R189, R230). -/
def passedOver (s : State) (die : Nat) (far : Bool) (i : Nat) : Bool :=
  if far then
    let l := die * 24 * 3840 * 2 ^ 18 + i
    decide (l ∈ (getPortF s (l / 2 ^ 18 / 3840)).dirtyLines) || !unitValid s.far.swInit s.far.marks l
  else (getSite s (die * 400 + i / terrWords)).rfail

/-- The scrubber's next read is at place i: every unit from where it stands up to i is passed over. -/
def scrubAt (s : State) (die : Nat) (far : Bool) (i : Nat) : Bool :=
  let n := sget 0 s.repair.scrubbed (die * 2 + (if far then 1 else 0))
  decide (n ≤ i) && (List.range (i - n)).all fun j => passedOver s die far (n + j)

/-- The scrubber stands at place n of its lap. -/
def scrubTo (s : State) (die : Nat) (far : Bool) (n : Nat) : State :=
  { s with repair := { s.repair with scrubbed := sset 0 s.repair.scrubbed (die * 2 + (if far then 1 else 0)) n } }

/-- SCRUB_READ: the Groundskeeper of a die reads the next word or line of its lap that is not passed over (R230, R231). -/
def execScrubRead (die : Nat) (t : ScrubTarget) (s : State) : Out :=
  if !gkOn s die then cannot s
  else match t with
    | .word site idx bad =>
      let i := site % 400 * terrWords + idx
      if site < 800 ∧ siteDie site = die ∧ idx < terrWords ∧ passedOver s die false i = false ∧ scrubAt s die false i = true then
        done (scrubTo (scrubWord s die site idx bad) die false (i + 1)) else cannot s
    | .line a errs =>
      let i := a / 64 % lapUnits true
      if a < farSize ∧ portDie (a / 2 ^ 24 / 3840) = die ∧ passedOver s die true i = false ∧ scrubAt s die true i = true then
        done (scrubTo (scrubLine s die (a / 64) errs) die true (i + 1)) else cannot s

/-- The settings of a lap as they now are: target and bound (Table 8-6). -/
def lapObjs (s : State) (far : Bool) : Nat × Nat :=
  if far then (objNat s 0x3022 0 600, objNat s 0x3023 0 3600) else (objNat s 0x3020 0 1000, objNat s 0x3021 0 10000)

/-- The key of a lap's settings. -/
def lapKey (die : Nat) (far : Bool) : Nat := die * 4 + if far then 2 else 0

/-- A lap starts, with the settings as they now are (R238). -/
def startLap (s : State) (die : Nat) (far : Bool) : State :=
  let o := lapObjs s far
  let k := lapKey die far
  { s with repair := { s.repair with laps := sset 0 (sset 0 s.repair.laps k (o.1 + 1)) (k + 1) (o.2 + 1) } }

/-- The bound of the lap under way, and its target: it takes no less (R230). -/
def lapBound (s : State) (die : Nat) (far : Bool) : Nat := sget 0 s.repair.laps (lapKey die far + 1) - 1
def lapTarget (s : State) (die : Nat) (far : Bool) : Nat := sget 0 s.repair.laps (lapKey die far) - 1

/-- LAP_END: every unit has been read or passed over; the length is recorded, and an overdue lap logged (R230, R232). -/
def execLapEnd (die : Nat) (far : Bool) (length : Nat) (s : State) : Out :=
  if !gkOn s die || decide (length < lapTarget s die far) || !scrubAt s die far (lapUnits far) then cannot s
  else
    let s := scrubTo s die far 0
    let v := BitVec.ofNat 32 length
    let r := s.repair
    let s := { s with repair := if far then { r with lapFar := sset 0 r.lapFar die v } else { r with lapTer := sset 0 r.lapTer die v } }
    let s := bump s (gkBlock die) (if far then 6 else 5) 1
    let s' := startLap s die far
    if lapBound s die far < length then
      done (logInc (bump s' (gkBlock die) 7 1) { cls := 0x13, source := 1, locKind := 2, locNum := die, domain := 56 + die, detail := v })
    else done s'

/-! ### Fencing and relocation (R26 to R28, R189, R259, R283) -/

/-- The bed's spare is available, and its idle site's router works (R24, R27). -/
def spareFree (s : State) (bed : Nat) : Bool :=
  !sget false s.place.shipUsed bed && !sget false s.place.used bed && !(getSite s (bedSite bed (factoryIdle s bed))).rfail

/-- The logical core has no place any more: its parcel's open step ends with loss of placement (R28). -/
def loseCore (s : State) (c : Nat) : State :=
  let s := { s with place := { s.place with absent := sset false s.place.absent c true } }
  match coreParcel s c with
  | none => s
  | some p => modPcl s p fun x => { x with stop := if x.st = .active then .placement else x.stop }

/-- The fenced core's slot moves to the idle site, whose compute part starts from a core reset (R27, R252). -/
def relocate (s : State) (c : Nat) : State :=
  let bed := coreBed c
  let n := bedSite bed (factoryIdle s bed)
  let s := modSite s n Site.coreReset
  let s := { s with place := { s.place with reloc := sset 0 s.place.reloc c (n + 1), used := sset false s.place.used bed true } }
  match coreParcel s c with
  | none => s
  | some p => modPcl s p fun x => { x with moved := x.moved ++ [c] }

/-- A fenced core waits for nothing any more, and its held stores are discarded; its requests on their way complete, and
their answers are discarded at its site (R259, Table 7-8). -/
def leaveCore (s : State) (c : Nat) : State :=
  let s := dropFault s fun r => r.core = c
  (List.range 4).foldl (fun s k => dropWaits s c k) s

/-- The compute part of a core stops and leaves its parcel (R259, Table 7-8). -/
def fenceSite (s : State) (c : Nat) : State :=
  let site := csite s c
  resetSite (modSite (leaveCore s c) site fun x => { x with fenced := true }) site

/-- FENCE_AND_RELOCATE: a core that is to be fenced stops; its slot moves to the bed's idle site, or it is absent and its
parcel's step ends with loss of placement (R27, R28). -/
def execFenceAndRelocate (core : Nat) (s : State) : Out :=
  if !alive s || decide (core ∉ s.place.fencing) || coreAbsent s core then cannot s
  else
    let site := csite s core
    let lost := (getSite s site).rfail || (getSite s (tsite s core)).rfail
    let s := { s with place := { s.place with fencing := ndel s.place.fencing core } }
    let s := fenceSite s core
    done (endFenceHandling (if !lost && spareFree s (coreBed core) then relocate s core else loseCore s core) site)

/-! ### The replay of a step (R282 to R284) -/

/-- A flit of the parcel that is not a store (R283): what the replay's second step discards. -/
def dropParcelFlits (s : State) (p : Nat) : State :=
  let keep (f : Flit) : Bool := !(f.pv && f.parcel = p)
  let keepL (l : BridgeLink) : BridgeLink := { l with frames := l.frames.map fun fs => fs.filter keep }
  let s := { s with mesh := { s.mesh with
                                net := s.mesh.net.filter keep,
                                bridge := (skeys s.mesh.bridge).foldl (fun m k => smod {} m k keepL) s.mesh.bridge } }
  (skeys s.far.ports).foldl (fun s q =>
    modPortF s q fun x => { x with ingress := x.ingress.filter keep, missSlots := x.missSlots.filter keep }) s

/-- The parcel's beacons take their shadow values; messages about them are gone (R283). -/
def restoreShadow (s : State) (p : Nat) : State :=
  let out := s.mesh.beacons.filter fun e => !beaconOwned s p e.1
  let back := (s.mesh.shadow.filter fun e => beaconOwned s p e.1).foldl (fun m e => sset 0 m e.1 e.2) out
  { s with mesh := { s.mesh with beacons := back, msgs := s.mesh.msgs.filter fun m => !beaconOwned s p m.beacon } }

/-- The Cairn as CRESET leaves it (R136). -/
def Cairn.cleared (x : Cairn) : Cairn :=
  { x with depth := 0, resident := [], spilled := [], spilling := none, refilling := none, refillQ := [], spillFault := none, refillFault := none }

/-- The parcel's operand sets go into the relocated cores' stores (R283). -/
def restoreOperands (s : State) (p : Nat) : State :=
  let moved := (getPcl s p).moved
  match (pclLive s p).find? fun c => c ∉ moved with
  | none => s
  | some c =>
    let ops := (getCore s c).operands
    moved.foldl (fun s d => if coreAbsent s d then s else modCore s d fun x => { x with operands := ops }) s

/-- The work window goes back to the step's first record to execute again; a waiting BMARK follows them (R283). -/
def Window.rewind (x : Window) (recs : List Rec) : Window :=
  let bm := match x.waitRec with
    | some r => if recOp r = 0x12 then [r] else x.replayQ.filter fun q => recOp q = 0x12
    | none => x.replayQ.filter fun q => recOp q = 0x12
  let keep := match x.waitRec with
    | some r => if recReplayed r || recOp r = 0x12 then none else some r
    | none => none
  { x with replayQ := recs ++ bm, waitRec := keep, groups := [] }

/-- STEP_REPLAY (R283). -/
def execStepReplay (p : Nat) (s : State) : Out :=
  let x := getPcl s p
  if !alive s || decide (8 ≤ p) || x.st ≠ .active || x.stop ≠ .replay || !replayable x || fencingOf s p || (pclLive s p).any (storesFlying s) then cannot s
  else
    let s := (pclLive s p).foldl abandonCore s
    let s := restoreOperands (restoreShadow (dropParcelFlits s p) p) p
    let s := (pclLive s p).foldl (fun s c => modCore s c fun (y : Site) => let y := y.clearStep; { y with cairn := y.cairn.cleared }) s
    let s := match workWin s p with
      | none => s
      | some w => modWin s w fun y => y.rewind x.stepRecs
    done (modPcl s p fun y =>
      { y with stop := .none, mark := {}, moved := [], stepReplays := y.stepReplays + 1, replays := y.replays + 1 })

/-! ### The module's fail-stop (R237, R289, R295, R301) -/

/-- The FAILSTOP payload: class, CAUSE, incident SEQ and AGREED of the parcels (Table 10-6). -/
def failPayload (s : State) : List Byte :=
  match s.twin.failMsg with
  | none => []
  | some (cls, cause, q) =>
    [cls, cause, 0, 0] ++ leBytes 4 q.toNat ++ ((List.range 8).flatMap fun p => leBytes 8 (getPcl s p).agreed.toNat)

/-- A fail-stop that has been decided comes about: FAILSTOP goes out on every active lane where the module was twinned,
and every open step ends with fail-stop status (R237, R295, R301). -/
def failStopNow (s : State) : State :=
  if s.pwr.failCls = none then s
  else
    let s := { s with pwr := { s.pwr with failCls := none } }
    let s := if s.twin.failMsg.isSome then sendAll s 3 (failPayload s) else s
    (List.range 8).foldl (fun s p => if (getPcl s p).st = .active then endStep s p .failStop else s) s

/-- MODULE_FAIL_STOP: the fail-stop that has been decided comes about (R237, R295, R301). See log 88 [DEDUCED]. -/
def execModuleFailStop (cls : Nat) (s : State) : Out :=
  if s.pwr.failCls ≠ some cls then cannot s else done (failStopNow s)

end Sys2Proof.Machine
end

