-- ==== Sys2Proof/Machine/HostPort.lean ====
section
/-!
DEFINITION. The host ports: CXL.mem accesses through both decoders (R210, R211, R313, R314, R325, R326, R330), snoops
(R315, R316), record writes observed (R344), link events (R317, R410, R437) and HDM decoders (R313).
-/

namespace Sys2Proof.Machine

/-! ### A port's link -/

/-- The port's link is up and its domain runs (R317, R399, R437). -/
def portServes (s : State) (k : Nat) : Bool :=
  decide (k < 4) && (getPort s k).linkUp && !(getPort s k).perst && !s.pwr.halt && s.pwr.lodgeUp

/-- Accesses are answered with poison and writes discarded: before bring-up completes, and from 45 µs after a power
event (R399, R410). -/
def portClosed (s : State) : Bool := !s.pwr.bringDone || s.pwr.poison

/-- The host has committed a decoder (R313). -/
def decoderOn (s : State) (k d : Nat) : Bool := sget 0 (getPort s k).hdm d ≠ 0

/-- All-ones data, poisoned, and counted (R211, R410). -/
def poisonedRead (s : State) (k n : Nat) : State :=
  send (bump s (hpBlock k) 3 1) (.memData k (List.replicate n 0xFF) true)

/-! ### Accesses that are not applied (R211, R314, R343) -/

/-- A refused-write record (Table 11-10, TYPE 0x05). -/
def refusedRec (q fpn off reason named : Nat) : List Byte :=
  recHead 5 q 0 0 0 ++ leBytes 4 fpn ++ leBytes 4 off ++ leBytes 4 1 ++ [BitVec.ofNat 8 reason, BitVec.ofNat 8 named]

/-- A refused write of a page is counted for a parcel. -/
def countRefused (s : State) (q fpn : Nat) (by_ : Bool) : State :=
  let mine (x : RefusedPage) : Bool := x.parcel = q && x.fpn = fpn && x.byPort == by_
  let l := s.far.refusals
  let more (x : RefusedPage) : RefusedPage := if mine x then { x with count := x.count + 1 } else x
  let l := if l.any mine then l.map more else l ++ [{ parcel := q, fpn := fpn, byPort := by_, count := 1, recorded := false }]
  { s with far := { s.far with refusals := l } }

/-- A parcel has the page's record: the first since the page's last RWACK (R211, R314, R343). -/
def recordRefused (s : State) (q fpn off reason named : Nat) : State :=
  let by_ : Bool := reason = 5
  let mark (x : RefusedPage) : RefusedPage := if x.parcel = q ∧ x.fpn = fpn ∧ x.byPort = by_ then { x with recorded := true } else x
  pclRec { s with far := { s.far with refusals := s.far.refusals.map mark } } q (refusedRec q fpn off reason named)

/-- A refused write of a parcel's own is counted for its page, and recorded if no record is out (R211, R343). -/
def refusedPage (s : State) (q fpn off reason : Nat) : State :=
  let s := countRefused s q fpn false
  if s.far.refusals.any fun x => x.parcel = q && x.fpn = fpn && !x.byPort && x.recorded then s
  else recordRefused s q fpn off reason 0

/-- The parcel that takes a port's own refused-write records (R314). -/
def portRecParcel (s : State) (k : Nat) : Option Nat :=
  (List.range 8).find? fun p => pclThere s p && (getPcl s p).port = k && (workWin s p).isSome

/-- A refused write of REASON 5 is counted for every parcel of the port, and one of them has the page's record: the
lowest-numbered with a work window enabled (R314, Table 11-10). -/
def refusedByPort (s : State) (k fpn off named : Nat) : State :=
  let ps := (List.range 8).filter fun p => pclThere s p && (getPcl s p).port = k
  let s := ps.foldl (fun s p => countRefused s p fpn true) s
  if s.far.refusals.any fun x => decide (x.parcel ∈ ps) && x.fpn = fpn && x.byPort && x.recorded then s
  else match portRecParcel s k with
    | none => s
    | some q => recordRefused s q fpn off 5 named

/-- A host access is not applied: the counts, and for a write its record (R211, R314). -/
def refuseHost (s : State) (k p fa reason : Nat) (wr : Bool) : State :=
  let fpn := fa / 2 ^ 24
  if reason = 5 then
    let s := bump s (hpBlock k) 4 1
    if wr then refusedByPort s k fpn (fa % 2 ^ 24) p else s
  else
    let s := if fpn < fpnMax then bump s (fmpBlock (fpnPort fpn)) 8 1 else s
    let s := modPcl s p fun x => { x with refused := x.refused + 1 }
    if wr then refusedPage s p fpn (fa % 2 ^ 24) reason else s

/-- REASON of a page that fails R198, from its KIND (Table 11-10). -/
def kindReason (kind : Nat) : Nat := if kind = 0 then 1 else if kind = 1 ∨ kind = 2 then 2 else kind

/-- Why a host access through decoder 0 is not applied, if it is not (R198, R210, R211, R227, R314). -/
def hostRefusal (s : State) (k p fa n : Nat) (wr : Bool) : Option Nat :=
  let fpn := fa / 2 ^ 24
  if !pclThere s p || (getPcl s p).port ≠ k then some 5
  else if fpnMax ≤ fpn then some 8
  else match pageRefusal (getEnt s fpn) p true (!wr) wr with
    | some kind => some (kindReason kind)
    | none =>
      if wr && sealedBy s p fpn then some 0
      else if wr && farPartInvalid s fa n then some 6
      else none

/-! ### The ring cache and the snoop filter (R191, R194, R315) -/

/-- A page's entry comes into its port's Cadastre cache (R194). -/
def cadFetch (s : State) (fpn : Nat) : State :=
  let p := fpnPort fpn
  if fpn ∈ (getPortF s p).cadCache then s
  else
    let s := modPortF s p fun x => { x with cadCache := (fpn :: x.cadCache).take 512 }
    bump (bump s (fmpBlock p) 10 1) (cadBlock (portDie p)) 0 1

/-- A line comes into the ring cache, or is found there (R191). -/
def lineFetch (s : State) (fa : Nat) (dirty : Bool) : State :=
  let p := fpnPort (fa / 2 ^ 24)
  let l := farLine s fa
  if l ∈ (getPortF s p).lines then bump (modPortF s p fun x => x.touch l dirty) (fmpBlock p) 2 1
  else bump (modPortF s p fun x => (x.insert l).touch l dirty) (fmpBlock p) 3 1

/-- Whether the host holds the line after its access, and exclusively, is the host's own choice (log 26 [DESIGN CHOICE]); a full filter
first back-invalidates its least recently used line (R315). -/
def trackLine (s : State) (k fa : Nat) : State :=
  let p := fpnPort (fa / 2 ^ 24)
  let l := farLine s fa
  let (v, s) := takeFree s
  let other (x : SnoopLine) : Bool := !(x.line = l && x.host = k && !x.lapsed)
  let s := modPortF s p fun x => { x with snoops := x.snoops.filter other }
  if v.getLsbD 0 then modPortF s p fun x => { x with snoops := { line := l, host := k, exclusive := v.getLsbD 1 } :: x.snoops }
  else s

/-- The line that a full filter gives up first (R315). -/
def filterVictim (s : State) (fa : Nat) : Option Nat :=
  let live := (getPortF s (fpnPort (fa / 2 ^ 24))).snoops.filter fun x => !x.lapsed
  if 65536 ≤ live.length ∧ (live.all fun x => x.line ≠ farLine s fa) then live.getLast?.map fun x => x.line else none

/-! ### Decoder 0 (R192, R210, R211, R313, R330) -/

/-- The parcel and far address of an HDM offset (R313). -/
def hdmParcel (off : Nat) : Nat := bits off 42 3
def hdmFa (off : Nat) : Nat := off % 2 ^ 42

/-- The access lies within one line of the parcel space. -/
def hdmOk (off n : Nat) : Bool := decide (off < 2 ^ 45) && decide (0 < n) && decide (off % 64 + n ≤ 64)

/-- A host write that R211 lets pass is applied (R192); a line written with poison is not valid (R311, class 0x08). See log 99 [DEDUCED]. -/
def applyHostWrite (s : State) (fa : Nat) (data : List Byte) (poisoned : Bool) : State :=
  let s := lineFetch (cadFetch s (fa / 2 ^ 24)) fa true
  let s := farPut (bump s (fmpBlock (fpnPort (fa / 2 ^ 24))) 1 1) fa data
  if poisoned then { s with far := { s.far with marks := markInvalid s.far.swInit s.far.marks [farLine s fa] } } else s

/-- The page's accesses pause for its retirement (R199). -/
def pagePaused (s : State) (fa : Nat) : Bool := (getPortF s (fpnPort (fa / 2 ^ 24))).paused (fa / 2 ^ 24)

/-- A write through decoder 0 is performed, or has to wait for a page's retirement or a snoop (R199, R315, R330). -/
def serveWrite (s : State) (k : Nat) (a : HostAcc) : Except State State :=
  let fa := hdmFa a.off
  let p := hdmParcel a.off
  let s' := send s (.memDone k)
  if portClosed s then .ok s'
  else match hostRefusal s k p fa a.data.length true with
    | some reason => .ok (refuseHost s' k p fa reason true)
    | none =>
      if pagePaused s fa then .error s
      else match filterVictim s fa with
        | some l => .error (startSnoop s l true)
        | none => .ok (trackLine (applyHostWrite s' fa a.data a.poisoned) k fa)

/-- A read through decoder 0 is served, or has to wait. -/
def serveRead (s : State) (k : Nat) (a : HostAcc) : Except State State :=
  let fa := hdmFa a.off
  let p := hdmParcel a.off
  if portClosed s then .ok (poisonedRead s k a.len)
  else match hostRefusal s k p fa a.len false with
    | some reason => .ok (poisonedRead (refuseHost s k p fa reason false) k a.len)
    | none =>
      if pagePaused s fa then .error s
      else match filterVictim s fa with
        | some l => .error (startSnoop s l true)
        | none =>
          let q := fpnPort (fa / 2 ^ 24)
          let s := lineFetch (cadFetch s (fa / 2 ^ 24)) fa false
          if (unitsOf 64 fa a.len).all fun l => unitValid s.far.swInit s.far.marks (farLine s (l * 64)) then
            let bs := (List.range a.len).map fun i => mrd s.far.mem (farByte s (fa + i))
            .ok (trackLine (send (bump s (fmpBlock q) 0 1) (.memData k bs false)) k fa)
          else
            let s := countUnc s 0x08 1 q (BitVec.ofNat 64 (2 ^ 62 + fa))
            .ok (poisonedRead (logInc s { cls := 0x08, source := 2, parcel := some p, locKind := 1, locNum := q,
                                          domain := locDomain 1 q, addr := BitVec.ofNat 64 fa }) k a.len)

/-! ### Decoder 1: records arrive (R313, R314, R325, R326, R329) -/

/-- A record or write is dropped (R325, R329). -/
def dropWrite (s : State) (w : Nat) : State :=
  bump (modWin s w fun x => { x with drop := true, drops := x.drops + 1 }) (ghBlock (w / 32)) 1 1

/-- How far a SEQ lies beyond the next to execute. -/
def Window.ahead (x : Window) (q : W32) : Nat := (q - x.next).toNat

/-- The seal of a buffered record's segment has arrived: the nearest seal at or after it, whose FIRST reaches back to it or
which every record up to it has reached (R326, R327). -/
def Window.sealArrived (x : Window) (q : W32) : Bool :=
  let d := x.ahead q
  let seals := x.buf.filter fun e => recOp e.2 = 0x02 && decide (d ≤ x.ahead (recSeq e.2))
  let near := seals.foldl (fun (a : Option Rec) e => match a with
    | none => some e.2
    | some r => if x.ahead (recSeq e.2) < x.ahead (recSeq r) then some e.2 else some r) none
  match near with
  | none => false
  | some r =>
    decide (x.ahead (BitVec.ofNat 32 (field r 16 4)) ≤ d) ||
    (List.range (x.ahead (recSeq r) - d)).all fun i => x.buf.any fun e => e.1 = (q + BitVec.ofNat 32 i).toNat

/-- A write through decoder 1 is buffered as a record, replaced, or dropped or ignored (R325, R326). See log 76 [DEDUCED]. -/
def serveRecord (s : State) (k : Nat) (a : HostAcc) : State :=
  let s := send s (.memDone k)
  if portClosed s ∨ 16 ≤ a.off / 2 ^ 20 then s
  else
    let w := 16 * k + a.off / 2 ^ 20
    let rel := a.off % 2 ^ 20
    let x := getWin s w
    let q := recSeq a.data
    if !x.active || a.data.length ≠ 64 || rel ≠ 64 * (q.toNat % 16384) || decide (1024 ≤ x.ahead q) then dropWrite s w
    else if recGen a.data ≠ x.gen then bump (modWin s w fun x => { x with genmis := true }) (ghBlock (w / 32)) 1 1
    else if (x.buf.any fun e => e.1 = q.toNat) && x.sealArrived q then dropWrite s w
    else modWin s w fun x => { x with buf := sput x.buf q.toNat a.data }

/-! ### The port's ingress (R194, R330) -/

/-- An access is performed, or has to wait. -/
def serveAcc (s : State) (k : Nat) (a : HostAcc) : Except State State :=
  if a.dec = 1 then .ok (serveRecord s k a) else if a.write then serveWrite s k a else serveRead s k a

/-- The ingress accepts up to 128 accesses and performs them in the order of their arrival, one that has to wait before
those that follow it (Table 7-4, R330; log 100 [DESIGN CHOICE]). -/
def acceptAcc (s : State) (k : Nat) (a : HostAcc) : Out :=
  let hold (s : State) : State := modPort s k fun x => { x with ingress := x.ingress ++ [a] }
  if 128 ≤ (getPort s k).ingress.length then cannot s
  else
    let s := bump s (hpBlock k) (if a.write then 1 else 0) 1
    if (getPort s k).ingress ≠ [] then done (hold s)
    else match serveAcc s k a with
      | .ok s => done s
      | .error s => done (hold s)

/-- Accesses that wait are performed, as far as they can be; fuel is their number. -/
def pumpPort (k : Nat) : Nat → State → State
  | 0, s => s
  | n + 1, s =>
    match (getPort s k).ingress with
    | [] => s
    | a :: t => match serveAcc s k a with
      | .ok s => pumpPort k n (modPort s k fun x => { x with ingress := t })
      | .error s => s

/-- A context of the core waits to read its launch's bitmap, at a page or a line that lets no access pass (R155, R199, R315). -/
def bitmapWaits (x : Site) : Bool := (List.range 4).any fun k =>
  match (x.ctx k).wait with
  | .op .ulaunch _ => true
  | _ => false

/-- What waits at the four ports goes on, and so do launches that wait for their bitmaps. -/
def pumpHosts (s : State) : State :=
  let s := (List.range 4).foldl (fun s k => pumpPort k (getPort s k).ingress.length s) s
  wakeAll s ((List.range 768).filter fun c => bitmapWaits (getCore s c))

/-- HOST_MEM_WRITE (R330). Bit 45 of the row's operand, above the 45 bits of an HDM offset (R313), is the request's poison
mark (R311). See log 99 [DEDUCED]. -/
def execHostMemWrite (port off : Nat) (data : List Byte) (s : State) : Out :=
  let a : HostAcc := { dec := 0, write := true, off := off % 2 ^ 45, len := data.length, data := data, poisoned := off.testBit 45 }
  if !portServes s port || !decoderOn s port 0 || decide (2 ^ 46 ≤ off) || !hdmOk a.off a.len then cannot s
  else acceptAcc s port a

/-- HOST_MEM_READ (R211). -/
def execHostMemRead (port off len : Nat) (s : State) : Out :=
  if !portServes s port || !decoderOn s port 0 || !hdmOk off len then cannot s
  else acceptAcc s port { dec := 0, write := false, off := off, len := len }

/-- WINDOW_RECORD_WRITE (R325). -/
def execWindowRecordWrite (port off : Nat) (data : List Byte) (s : State) : Out :=
  if !portServes s port || !decoderOn s port 1 || decide (2 ^ 28 ≤ off) || data.isEmpty || decide (64 < off % 64 + data.length) then cannot s
  else acceptAcc s port { dec := 1, write := true, off := off, len := data.length, data := data }

/-- PAGE_RETIREMENT_COMPLETE: the retirement is over, and host accesses that it held up go on (R199, R222). -/
def execPageRetirementComplete (port : Nat) (s : State) : Out :=
  if (getPortF s port).retiring = none then cannot s else done (pumpHosts (pageRetired s port))

/-- DECODER1_READ: all-ones data without poison (R314). -/
def execDecoder1Read (port off len : Nat) (s : State) : Out :=
  if !portServes s port || !decoderOn s port 1 || decide (2 ^ 28 ≤ off) || decide (len = 0) || decide (64 < off % 64 + len) then cannot s
  else
    let s := bump s (hpBlock port) 0 1
    if portClosed s then done (poisonedRead s port len) else done (send s (.memData port (List.replicate len 0xFF) false))

/-! ### Snoops (R315, R316) -/

/-- A host-held line that has been snooped, or whose limit has passed. -/
def snoopOf (s : State) (host line : Nat) (lapsed : Bool) : Option SnoopLine :=
  (getPortF s (line / 2 ^ 18 / 3840)).snoops.find? fun x => x.line = line && x.host = host && x.lapsed == lapsed && (x.snooped || lapsed)

/-- The line's entry leaves its port's filter. -/
def dropSnoop (s : State) (x : SnoopLine) : State :=
  modPortF s (x.line / 2 ^ 18 / 3840) fun y => { y with snoops := y.snoops.filter fun z => z ≠ x }

/-- The write-back that comes with a host's answer is a host write, completed on the link as one (R315). -/
def writeBack (s : State) (port fa : Nat) (data : List Byte) : State :=
  let p := (getEnt s (fa / 2 ^ 24)).owner.toNat
  if data.isEmpty then s
  else
    let s := send (bump s (hpBlock port) 1 1) (.memDone port)
    if portClosed s then s
    else match hostRefusal s port p fa 64 true with
      | some reason => refuseHost s port p fa reason true
      | none => applyHostWrite s fa data false

/-- The write-back that comes after the limit is refused with REASON 7 (R315). -/
def lateWriteBack (s : State) (port fa : Nat) (data : List Byte) : State :=
  if data.isEmpty then s
  else refuseHost (send (bump s (hpBlock port) 1 1) (.memDone port)) port (getEnt s (fa / 2 ^ 24)).owner.toNat fa 7 true

/-- A host's answer in time: after a BISnpInv the line is no longer tracked; after a BISnpData the host may keep it shared,
which is its own choice (R315; log 26 [DESIGN CHOICE]). -/
def answered (s : State) (x : SnoopLine) : State :=
  if x.inv then dropSnoop s x
  else
    let (v, s) := takeFree s
    if v.getLsbD 0 then
      modPortF s (x.line / 2 ^ 18 / 3840) fun y =>
        { y with snoops := y.snoops.map fun z => if z = x then { z with snooped := false, exclusive := false } else z }
    else dropSnoop s x

/-- BISNP_RESPONSE: a host's answer to a snoop, in time or after the limit (R315); host accesses that waited go on. -/
def execBisnpResponse (port line : Nat) (data : List Byte) (s : State) : Out :=
  if !portServes s port || decide (data.length ≠ 0 ∧ data.length ≠ 64) then cannot s
  else match snoopOf s port line false with
    | some x => done (pumpHosts (writeBack (answered s x) port (lineFa s line) data))
    | none =>
      match snoopOf s port line true with
      | none => cannot s
      | some x => done (lateWriteBack (dropSnoop s x) port (lineFa s line) data)

/-- SNOOP_TIMEOUT: no answer 1 ms after a BISnp; class 0x18 (R315). -/
def execSnoopTimeout (port line : Nat) (s : State) : Out :=
  match snoopOf s port line false with
  | none => cannot s
  | some x =>
    if s.pwr.halt then cannot s
    else
      let q := line / 2 ^ 18 / 3840
      let s := modPortF s q fun y =>
        { y with snoops := y.snoops.map fun z => if z = x then { z with snooped := false, lapsed := true } else z }
      done (pumpHosts (logInc s { cls := 0x18, source := 2, locKind := 1, locNum := q, domain := locDomain 1 q, addr := BitVec.ofNat 64 (lineFa s line) }))

/-- H2D_SNOOP: RspIHitI (R316). -/
def execH2dSnoop (port : Nat) (s : State) : Out := if portServes s port then done (send s (.snoopRsp port)) else cannot s

/-! ### Records observed (R344) -/

/-- A record's bytes are in host memory. -/
def putHost (m : SMap Byte) (port : Nat) (a : W64) (bs : List Byte) : SMap Byte :=
  bs.zipIdx.foldl (fun m (b, i) => sset 0 m (port * 2 ^ 64 + (a + BitVec.ofNat 64 i).toNat) b) m

/-- RECORD_GLOBALLY_OBSERVED: the port's oldest record write is in host memory, and its MSI-X message follows (R344). -/
def execRecordGloballyObserved (port : Nat) (s : State) : Out :=
  match s.gate.writes.find? fun x => x.port = port with
  | none => cannot s
  | some x =>
    if !portServes s port then cannot s
    else
      let s := { s with gate := { s.gate with writes := s.gate.writes.erase x, hostMem := putHost s.gate.hostMem port x.addr x.bytes } }
      match x.vector with
      | none => done s
      | some v => done (send s (.msix port v))

/-! ### Link events (R317, R410, R437) -/

/-- Every window of the port is disabled, records not yet written are discarded, and its parcels reset (R317). See log 81 [DEDUCED]. -/
def portEvent (s : State) (k : Nat) : State :=
  let s := { s with gate := { s.gate with writes := s.gate.writes.filter fun x => x.port ≠ k } }
  let s := modPort s k fun x => { x with ingress := [] }
  let s := (List.range 16).foldl (fun s i => closeWin s (16 * k + i) true) s
  (List.range 8).foldl (fun s p => if pclThere s p && (getPcl s p).port = k then beginParcelReset s p else s) s

/-- The link goes down. -/
def linkFalls (s : State) (k : Nat) : State := modPort s k fun x => { x with linkUp := false, speed := 0, width := 0 }

/-- PORT_LINK_EVENT (R317). -/
def execPortLinkEvent (port : Nat) (ev : LinkEvent) (s : State) : Out :=
  if !portServes s port then cannot s
  else
    let s := portEvent s port
    match ev with
    | .linkDown => done (linkFalls s port)
    | .d3hot => done (modPort s port fun x => { x with d3hot := true })
    | .hotReset | .cxlReset => done (modPort s port fun x => { x with d3hot := false })

/-- PERST_N: an assertion holds the link down; its release lets the link train again (R437). -/
def execPerstN (port : Nat) (asserted : Bool) (s : State) : Out :=
  if !s.pwr.lodgeUp || decide (4 ≤ port) || (getPort s port).perst == asserted || decide (Pin.perstN port ∈ s.pwr.lockouts) then cannot s
  else if asserted then done (modPort (linkFalls (portEvent s port) port) port fun x => { x with perst := true })
  else done (modPort s port fun x => { x with perst := false })

/-- CXL_LINK_UP: the link trains up, from bring-up step 6 on (R311, R317, Table 14-6). -/
def execCxlLinkUp (port speed width : Nat) (s : State) : Out :=
  if !s.pwr.lodgeUp || s.pwr.halt || decide (4 ≤ port) || (getPort s port).perst || decide (s.pwr.bringStep.toNat < 6) ||
      decide (speed ∉ [16, 32, 64]) || decide (width ≠ 8) then cannot s
  else done (modPort s port fun x => { x with linkUp := true, d3hot := false, speed := BitVec.ofNat 8 speed, width := width })

/-- HOST_CONFIG_REQUEST: before bring-up completes, Configuration Request Retry Status (R410); afterwards, for a function in
D3hot, it may be the host's return to D0, which the row's operands do not say. See log 101 [DESIGN CHOICE]. -/
def execHostConfigRequest (port : Nat) (s : State) : Out :=
  if !portServes s port then cannot s
  else if !s.pwr.bringDone then done (send s (.configRetry port))
  else if (getPort s port).d3hot then
    let (v, s) := takeFree s
    done (if v.getLsbD 0 then modPort s port fun x => { x with d3hot := false } else s)
  else cannot s

/-- HDM_DECODER_COMMIT: decoder 0 is the parcel space, decoder 1 the windows (R313). -/
def execHdmDecoderCommit (port dec base : Nat) (s : State) : Out :=
  if portServes s port && s.pwr.bringDone && decide (dec < 2) then
    done (modPort s port fun x => { x with hdm := sset 0 x.hdm dec (base + 1) })
  else cannot s

end Sys2Proof.Machine
end

