-- ==== Sys2Proof/Machine/Regs.lean ====
section
/-!
DEFINITION. The register space read: blocks, their common registers, counters and latches, the host filter, captures
and the maps of every block (R366 to R371, R375, R377 to R380, R383 to R387, R412, Tables 9-7, 11-3, 13-1 to 13-10, 14-7).
-/

namespace Sys2Proof.Machine

/-! ### Blocks (Tables 13-1, 13-2) -/

/-- The types of block, each with its place. -/
inductive Blk where
  | modB
  | gh (die : Nat)
  | cad (die : Nat)
  | gk (die : Nat)
  | brg (die : Nat)
  | bcn (die : Nat)
  | hp (port : Nat)
  | clk
  | twn
  | fmp (port : Nat)
  | win (w : Nat)
  | cs (site : Nat)
  deriving DecidableEq, Repr

/-- The block with a number: its address div 0x4000. -/
def blkOf (b : Nat) : Option Blk :=
  if b = 0 then some .modB
  else if b = 4 ∨ b = 5 then some (.gh (b - 4))
  else if b = 8 ∨ b = 9 then some (.cad (b - 8))
  else if b = 0xC ∨ b = 0xD then some (.gk (b - 0xC))
  else if b = 0x10 ∨ b = 0x11 then some (.brg (b - 0x10))
  else if b = 0x14 ∨ b = 0x15 then some (.bcn (b - 0x14))
  else if 0x18 ≤ b ∧ b < 0x1C then some (.hp (b - 0x18))
  else if b = 0x1C then some .clk
  else if b = 0x20 then some .twn
  else if 0x40 ≤ b ∧ b < 0x70 then some (.fmp (b - 0x40))
  else if 0x100 ≤ b ∧ b < 0x140 then some (.win (b - 0x100))
  else if 0x400 ≤ b ∧ b < 0x720 then some (.cs (b - 0x400))
  else none

/-- The blocks in ascending base order (R388). -/
def allBlocks : List Nat :=
  [0, 4, 5, 8, 9, 0xC, 0xD, 0x10, 0x11, 0x14, 0x15, 0x18, 0x19, 0x1A, 0x1B, 0x1C, 0x20] ++
  (List.range 48).map (· + 0x40) ++ (List.range 64).map (· + 0x100) ++ (List.range 800).map (· + 0x400)

/-- Type code and instance (Table 13-2). -/
def blkId : Blk → Nat × Nat
  | .modB => (1, 0)
  | .gh d => (2, d)
  | .cad d => (3, d)
  | .gk d => (4, d)
  | .brg d => (5, d)
  | .bcn d => (6, d)
  | .hp k => (7, k)
  | .clk => (8, 0)
  | .twn => (9, 0)
  | .fmp p => (10, p)
  | .win w => (11, w)
  | .cs n => (12, n)

/-- n counters of 8 bytes from an offset on. -/
def ctrRun (off n : Nat) : List Nat := (List.range n).map fun i => off + 8 * i

/-- The offsets of a block's counters, ascending: the place of an offset in the list is the counter's number (R371). The
64-bit counts of Table 11-3 and Table 9-7 are counters (log 27 [DEDUCED]). -/
def blkCtrs : Blk → List Nat
  | .modB => []
  | .gh _ => ctrRun 0x100 4
  | .cad _ => ctrRun 0x100 3
  | .gk _ => ctrRun 0x100 8
  | .brg _ => ctrRun 0x100 3
  | .bcn _ => ctrRun 0x100 2
  | .hp _ => ctrRun 0x100 5
  | .clk => ctrRun 0x300 7
  | .twn => ctrRun 0x100 5
  | .fmp _ => ctrRun 0x100 12
  | .win _ => [0x28]
  | .cs _ => ctrRun 0x100 7 ++ ctrRun 0x140 8 ++ ctrRun 0x850 4 ++ ctrRun 0x900 5

/-- The second clock domain of a block, the mesh part's of a core site; 0x3F for none (Table 13-3). -/
def secondDomain : Blk → Nat
  | .cs n => meshDomain n
  | _ => 0x3F

/-- Counter i of a core-site block counts bed cycles of a category (R390). -/
def isPhCat (k : Blk) (i : Nat) : Bool :=
  match k with
  | .cs _ => decide (7 ≤ i) && decide (i < 15)
  | _ => false

/-- A live counter. A PH_CAT counter counts cycles that the spec does not fix (log 4 [DESIGN CHOICE]). -/
def ctrVal (s : State) (b : Nat) (k : Blk) (i : Nat) : W64 × State :=
  match k with
  | .win w => ((getWin s w).drops, s)
  | _ => if isPhCat k i then takeFree s else (sget 0 s.regs.ctrs (b * 64 + i), s)

/-! ### The host filter (R367) -/

/-- A host may reach the block through its port; wr for a write. -/
def blkVisible (s : State) (port : Nat) (k : Blk) (wr : Bool) : Bool :=
  match k with
  | .cs n => match bedParcel s (siteBed n) with
    | none => false
    | some p => (getPcl s p).port = port
  | .win w => w / 16 = port
  | .hp q => q = port
  | .cad _ => true
  | .modB => !wr
  | _ => false

/-- The source is one that can reach registers now. -/
def srcOk (s : State) : Src → Bool
  | .host k => portServes s k && s.pwr.bringDone
  | .lodge => s.pwr.lodgeUp
  | .gatehouse d => alive s && decide (d < 2)

/-- The access of a source to a block is filtered. -/
def filtered (s : State) (src : Src) (b : Nat) (wr : Bool) : Bool :=
  match src, blkOf b with
  | .host k, some x => !blkVisible s k x wr
  | .host _, none => true
  | _, _ => false

/-- A filtered access is counted in HP_FILT (R367). -/
def countFilt (s : State) : Src → State
  | .host k => bump s (hpBlock k) 2 1
  | _ => s

/-! ### Values of the maps -/

/-- A number with a flag at a bit. -/
def flagAt (b : Bool) (i : Nat) : Nat := if b then 2 ^ i else 0

/-- The Cadastre entry that a source has selected: FPN, and the entry as latched (R385). -/
def cadLatch (s : State) (src : Src) (die : Nat) : W32 × W64 :=
  match s.regs.cadSel.find? fun e => e.1 = src && e.2.1 = die with
  | none => (0, 0)
  | some e => e.2.2

/-- CAD_ENT as a source reads it: zero to a host unless the latched entry is valid and its owner is bound to the port. -/
def cadEnt (s : State) (src : Src) (die : Nat) : W64 :=
  let v := (cadLatch s src die).2
  match src with
  | .host k =>
    let p := (v.extractLsb' 22 3).toNat
    if v.getLsbD 25 && pclThere s p && (getPcl s p).port = k then v else 0
  | _ => v

/-- The number of a context's state (Tables 3-2, 13-6). -/
def ctxStNum : CtxSt → Nat
  | .idle => 0
  | .ready => 1
  | .issuing => 2
  | .waiting => 3
  | .held => 4
  | .trapped => 5

/-- CS_STAT (Table 13-6). -/
def csStat (s : State) (n : Nat) : Nat :=
  let x := getSite s n
  let bed := siteBed n
  let relocHere := match coreAt s n with
    | some c => sget 0 s.place.reloc c ≠ 0
    | none => false
  let part := match bedParcel s bed with
    | none => 0
    | some p => 2 ^ 16 + p * 2 ^ 13
  let core := match coreAt s n with
    | some c => if coreAbsent s c || x.fenced then 0x3FF else c
    | none => 0x3FF
  flagAt relocHere 19 + flagAt (n = bedSite bed (factoryIdle s bed)) 18 + flagAt x.fenced 17 + part + core

/-- CS_CTXST (Table 13-6). -/
def csCtxst (s : State) (n : Nat) : Nat :=
  (List.range 4).foldl (fun a k => a + ctxStNum ((getSite s n).ctx k).st * 16 ^ k) 0

/-- RT_STAT (Table 9-7). -/
def rtStat (s : State) (n : Nat) : Nat :=
  let x := getSite s n
  flagAt (sget false s.mesh.detour (siteDie n)) 3 + flagAt x.rfail 2 + flagAt x.fenced 1 +
    flagAt (!sget false s.mesh.injStopped (siteDie n) && !x.rfail) 0

/-- FMP_STAT (Table 13-7). -/
def fmpStat (s : State) (p : Nat) : Nat :=
  let y := getPortF s p
  (s.repair.retired.countP fun e => fpnPort e.1 = p) % 4096 * 2 ^ 16 + rsMode s * 8 + flagAt y.init 2 + flagAt y.trained 1

/-- BRG_STAT: the link of each column trained and in service (Table 13-10). -/
def brgStat (s : State) (die : Nat) : Nat :=
  (List.range 20).foldl (fun a x => a + flagAt (s.mesh.trained.getLsbD x && !(sget {} s.mesh.bridge (die * 20 + x)).down) x) 0

/-- WIN_STAT (Table 11-5). -/
def winStat (x : Window) : Nat :=
  x.buf.length % 2048 * 2 ^ 16 + flagAt x.binderr 5 + flagAt x.drop 4 + flagAt x.badseg 3 + flagAt x.genmis 2 +
    flagAt x.waitRec.isSome 1 + flagAt x.active 0

/-- PWR_STAT (Table 14-7). See log 86 [DEDUCED]. -/
def pwrStat (s : State) : Nat :=
  let p := s.pwr
  flagAt p.thTrip 5 + flagAt p.thWarn 4 + flagAt p.ovTrip 3 + flagAt p.ovWarn 2 + flagAt p.under 1 + flagAt p.halt 0

/-- DIN_STAT (Table 14-7). -/
def dinStat (s : State) : Nat :=
  let p := s.pwr
  flagAt (decide (Pin.pwrWarnN ∈ p.lockouts)) 8 + flagAt (decide (Pin.fenceN ∈ p.lockouts)) 7 +
    flagAt (decide (Pin.resetN ∈ p.lockouts)) 6 + flagAt p.warnPin 2 + flagAt p.fencePin 1 + flagAt p.resetPin 0

/-- TJ in sixteenths of a degree, of a reading in thousandths (Table 14-7). -/
def tjWord (s : State) : Nat := (s.pwr.tj * 16 / 1000 % 65536).toNat

/-- A register of a block's own map that is no counter, as a source reads it; reserved offsets read zero (R366). -/
def mapRead (s : State) (src : Src) (k : Blk) (off : Nat) : W32 :=
  let n (v : Nat) : W32 := BitVec.ofNat 32 v
  match k with
  | .modB => if off = 0 then n (0x768 * 256 + s.firm.stepping.toNat)
      else if off = 4 then n (flagAt (twinned s) 2 + flagAt s.pwr.failStopped 1 + flagAt s.pwr.bringDone 0) else 0
  | .cad die =>
    if off = 0 then n (die * 92160)
    else if off = 4 then (cadLatch s src die).1
    else if off = 8 then (cadEnt s src die).extractLsb' 0 32
    else if off = 0xC then (cadEnt s src die).extractLsb' 32 32 else 0
  | .gk die => if off = 0 then n (flagAt (!sget false s.regs.gkOff die) 0) else 0
  | .brg die => if off = 0 then n (brgStat s die) else 0
  | .bcn die => if off = 0 then n (sget 0 s.mesh.wmax die % 4096) else 0
  | .clk =>
    if off = 0 then s.pwr.locked.extractLsb' 0 32
    else if off = 4 then (s.pwr.locked.extractLsb' 32 28).zeroExtend 32
    else if 0x100 ≤ off ∧ off < 0x180 then n (bedClk s ((off - 0x100) / 4))
    else if 0x180 ≤ off ∧ off < 0x190 then n (halfClk s ((off - 0x180) / 4))
    else if off = 0x200 then n (pwrStat s)
    else if off = 0x204 then n (dinStat s)
    else if off = 0x210 then n (s.pwr.vin / 10 % 65536)
    else if off = 0x214 then n (s.pwr.iin / 10 % 65536)
    else if off = 0x218 then n (tjWord s) else 0
  | .fmp p => if off = 0 then n (fmpStat s p) else if off = 4 then (getPortF s p).ageMax.zeroExtend 32 else 0
  | .win w =>
    let x := getWin s w
    if off = 0 then x.ctl
    else if off = 4 then x.gen.zeroExtend 32
    else if off = 8 then x.next
    else if off = 0xC then n (winStat x)
    else if off = 0x10 then x.crBase.extractLsb' 0 32
    else if off = 0x14 then x.crBase.extractLsb' 32 32
    else if off = 0x18 then x.crLog.zeroExtend 32
    else if off = 0x1C then x.crHead
    else if off = 0x20 then x.crTail else 0
  | .cs site =>
    if off = 0 then n (csStat s site)
    else if off = 4 then n (csCtxst s site)
    else if 0x800 ≤ off ∧ off < 0x840 then sget 0 (getSite s site).mct ((off - 0x800) / 4)
    else if off = 0x840 then (getSite s site).mcsel
    else if off = 0x844 then n (rtStat s site) else 0
  | _ => 0

/-! ### Configuration and its check (R374, R375) -/

/-- The block's enable bit; 0 for a block without one (Table 13-5). -/
def blkEn (s : State) (k : Blk) : Bool :=
  match k with
  | .win w => (getWin s w).en
  | .gk die => !sget false s.regs.gkOff die
  | _ => false

/-- The configuration fields of a window block but WIN_NEXT, as bytes in offset order (R375). -/
def winConfig (x : Window) : List Byte :=
  leBytes 4 (x.ctl &&& 0x000F001F).toNat ++ leBytes 4 x.gen.toNat ++ leBytes 8 x.crBase.toNat ++ leBytes 4 x.crLog.toNat

/-- CFGCRC: zero for a block without configuration fields (R375). -/
def cfgCrc (s : State) (k : Blk) : W32 :=
  match k with
  | .win w => crc32c (winConfig (getWin s w))
  | _ => 0

/-! ### Common registers (R371, R372, Tables 13-3 to 13-5) -/

/-- The block is unlocked for the source (R372). -/
def unlockedFor (s : State) (b : Nat) (src : Src) : Bool := decide ((b, src) ∈ s.regs.unlocked)

/-- BLK_STAT (Table 13-5). No register field of any map is RWS, so SPEND is 0 (log 28 [DEDUCED]). -/
def blkStat (s : State) (src : Src) (b : Nat) (k : Blk) : Nat :=
  let r := s.regs
  flagAt (unlockedFor s b src) 5 + flagAt (sget false r.lockv b) 4 + flagAt (sget false r.cfgerr b) 3 +
    flagAt (sget false r.wign b) 2 + flagAt (sget false r.chk b && blkEn s k) 1 + flagAt (blkEn s k) 0

/-- Half of a 64-bit value: the low word, or the high one. -/
def halfOf (v : W64) (hi : Bool) : W32 := if hi then v.extractLsb' 32 32 else v.extractLsb' 0 32

/-- The block is a core site's. -/
def Blk.isCs : Blk → Bool
  | .cs _ => true
  | _ => false

/-- The clock domain whose cycle count lies at an offset: CYC and, in a core site's block, CYCM (Table 13-5). -/
def cycDomain (b : Nat) (k : Blk) (off : Nat) : Option Nat :=
  if off = 0xF20 ∨ off = 0xF24 then some (blockDomain b)
  else if (off = 0xF30 ∨ off = 0xF34) ∧ k.isCs then some (secondDomain k)
  else none

/-- A common register at an offset that holds no running count, as a source reads it. -/
def commonVal (s : State) (src : Src) (b : Nat) (k : Blk) (off : Nat) : W32 :=
  let r := s.regs
  let n (v : Nat) : W32 := BitVec.ofNat 32 v
  let hi : Bool := off % 8 = 4
  if off < 0xE00 then
    let i := (off - 0xC00) / 8
    if i < (blkCtrs k).length then halfOf (sget 0 r.hold (b * 64 + i)) hi else 0
  else if off = 0xF00 then n ((blkId k).1 * 65536 + (blkId k).2)
  else if off = 0xF04 then n (flagAt (sget false r.chk b) 0)
  else if off = 0xF08 then n (blkStat s src b k)
  else if off = 0xF10 then sget 0 r.cfgref b
  else if off = 0xF14 then cfgCrc s k
  else if off = 0xF1C then sget 0 r.snapId b
  else if off = 0xF28 ∨ off = 0xF2C then halfOf (sget 0 r.snapCyc b) hi
  else if (off = 0xF38 ∨ off = 0xF3C) ∧ k.isCs then halfOf (sget 0 r.snapCycm b) hi
  else if off = 0xF40 then n (secondDomain k * 256 + blockDomain b)
  else if off = 0xF44 then n (flagAt (sget false r.sview b) 8)
  else 0

/-- The common register at an offset, as a source reads it. -/
def commonRead (s : State) (src : Src) (b : Nat) (k : Blk) (off : Nat) : W32 × State :=
  match cycDomain b k off with
  | some d => (halfOf (observeCycles s d).1 (off % 8 = 4), (observeCycles s d).2)
  | none => (commonVal s src b k off, s)

/-! ### A read (R366, R367, R369, R379) -/

/-- The counter whose word lies at an offset, and whether it is the high word. -/
def ctrAt (k : Blk) (off : Nat) : Option (Nat × Bool) :=
  match (blkCtrs k).findIdx? fun o => o = off / 8 * 8 with
  | none => none
  | some i => if off % 4 = 0 then some (i, off % 8 = 4) else none

/-- The latch that a source holds of a counter. -/
def latchOf (s : State) (src : Src) (b i : Nat) : Option W32 :=
  (s.regs.latches.find? fun l => l.src = src && l.block = b && l.ctr = i).map (·.high)

/-- A read of anything in a block ends what latch the source held of it (R379). -/
def dropLatch (s : State) (src : Src) (b : Nat) : State :=
  { s with regs := { s.regs with latches := s.regs.latches.filter fun l => !(l.src = src && l.block = b) } }

/-- A counter's word: the low word latches the high one, and a high word read next returns the latch (R379). -/
def ctrRead (s : State) (src : Src) (b : Nat) (k : Blk) (i : Nat) (hi : Bool) : W32 × State :=
  if hi then
    match latchOf s src b i with
    | some v => (v, dropLatch s src b)
    | none =>
      let (v, s) := ctrVal s b k i
      (halfOf v true, dropLatch s src b)
  else
    let (v, s) := ctrVal s b k i
    let s := dropLatch s src b
    (halfOf v false, { s with regs := { s.regs with latches := s.regs.latches ++ [{ src := src, block := b, ctr := i, high := halfOf v true }] } })

/-- A source reads the register at an address: zero where it is misaligned, reserved or filtered. -/
def regRead (s : State) (src : Src) (addr : Nat) : W32 × State :=
  let b := addr / 0x4000
  let off := addr % 0x1000
  if addr % 4 ≠ 0 then (0, s)
  else if filtered s src b false then (0, countFilt s src)
  else match blkOf b with
    | none => (0, s)
    | some k =>
      match ctrAt k off with
      | some (i, hi) => ctrRead s src b k i hi
      | none =>
        let s := dropLatch s src b
        if off < 0xC00 then (mapRead s src k off, s) else commonRead s src b k off

/-- COUNTER_LOW_READ: a source reads a counter's low word (R367, R379). -/
def execCounterLowRead (src : Src) (addr : Nat) (s : State) : Out :=
  let low : Bool := match blkOf (addr / 0x4000) with
    | none => false
    | some k => match ctrAt k (addr % 0x1000) with
      | some (_, hi) => !hi
      | none => false
  if !srcOk s src || !low || decide (2 ^ 25 ≤ addr) then cannot s
  else
    let r := regRead s src addr
    done (send r.2 (.regRead src r.1))

/-! ### Captures (R380, R381) -/

/-- The holding registers of a block take its counters, one by one from the i-th; fuel is how many are left. -/
def captureCtrs (b : Nat) (k : Blk) : Nat → Nat → State → State
  | 0, _, s => s
  | n + 1, i, s =>
    let (v, s) := ctrVal s b k i
    captureCtrs b k n (i + 1) { s with regs := { s.regs with hold := sset 0 s.regs.hold (b * 64 + i) v } }

/-- A block captures (R380). -/
def capture (s : State) (b : Nat) (k : Blk) (ident : W32) : State :=
  let s := captureCtrs b k (blkCtrs k).length 0 s
  let (v, s) := observeCycles s (blockDomain b)
  let s := { s with regs := { s.regs with snapCyc := sset 0 s.regs.snapCyc b v, snapId := sset 0 s.regs.snapId b ident } }
  match k with
  | .cs _ =>
    let (v, s) := observeCycles s (secondDomain k)
    { s with regs := { s.regs with snapCycm := sset 0 s.regs.snapCycm b v } }
  | _ => s

/-- The block's domains run, so that it can capture (R381). -/
def blkRuns (s : State) (b : Nat) (k : Blk) : Bool :=
  domainRuns s (blockDomain b) && (secondDomain k = 0x3F || domainRuns s (secondDomain k))

end Sys2Proof.Machine
end

