-- ==== Sys2Proof/Machine/RegWrite.lean ====
section
/-!
DEFINITION. The register space written: aliases, access codes, locks, enable gating and the configuration check (R369,
R370, R372 to R376), window enables (R323, R329), captures and counter clears (R378, R380), and the rows that write
registers.
-/

namespace Sys2Proof.Machine

/-! ### Aliases and locks -/

/-- What a write through an alias makes of a field (R370). -/
def aliasNew (al : Nat) (old v : W32) : W32 :=
  if al = 0 then v else if al = 1 then old ||| v else if al = 2 then old &&& ~~~v else old ^^^ v

/-- The bits of a mask take their new values. -/
def maskNew (al : Nat) (mask old v : W32) : W32 := (old &&& ~~~mask) ||| (aliasNew al old v &&& mask)

/-- A write reaches a field: any direct write, and an alias write with a bit of the field set (log 29 [DEDUCED]). -/
def reaches (al : Nat) (mask v : W32) : Bool := al = 0 || v &&& mask ≠ 0

/-- The block is locked for the source (R372). -/
def lockFor (s : State) (b : Nat) (src : Src) : State :=
  { s with regs := { s.regs with unlocked := s.regs.unlocked.filter fun e => e ≠ (b, src) } }

/-- The block is unlocked for the source (R372). -/
def unlockFor (s : State) (b : Nat) (src : Src) : State :=
  let s := lockFor s b src
  { s with regs := { s.regs with unlocked := s.regs.unlocked ++ [(b, src)] } }

/-- A guarded register of a block (Tables 13-3, 13-9). -/
def guardedReg (k : Blk) (off : Nat) : Bool :=
  off = 0xF04 || off = 0xF10 || match k with
    | .gk _ => decide (off = 0)
    | _ => false

/-- An offset of a block's own map holds a register that is no counter. -/
def mapHas (k : Blk) (off : Nat) : Bool :=
  match k with
  | .modB => decide (off = 0) || decide (off = 4)
  | .cad _ => decide (off < 0x10)
  | .gk _ | .brg _ | .bcn _ => decide (off = 0)
  | .clk => decide (off < 8) || (decide (0x100 ≤ off) && decide (off < 0x190)) || decide (off = 0x200) || decide (off = 0x204) ||
      (decide (0x210 ≤ off) && decide (off < 0x21C))
  | .fmp _ => decide (off < 8)
  | .win _ => decide (off < 0x24)
  | .cs _ => decide (off < 8) || (decide (0x800 ≤ off) && decide (off < 0x848))
  | _ => false

/-- An offset of a block holds a register (R366, R371). -/
def hasReg (k : Blk) (off : Nat) : Bool :=
  let isCs : Bool := match k with
    | .cs _ => true
    | _ => false
  if off < 0xC00 then mapHas k off || (ctrAt k off).isSome
  else if off < 0xE00 then decide ((off - 0xC00) / 8 < (blkCtrs k).length)
  else decide (0xF00 ≤ off) && decide (off < 0xF48) && (isCs || !(decide (0xF30 ≤ off) && decide (off < 0xF40)))

/-- WIGN sets: a write to an RWE field was ignored (R374). -/
def setWign (s : State) (b : Nat) : State := { s with regs := { s.regs with wign := sset false s.regs.wign b true } }

/-! ### Windows opened (R323, R329, R341, R376) -/

/-- The window may not be active: its parcel is not bound to its port, or has another work window enabled (R323). -/
def bindErr (s : State) (w : Nat) : Bool :=
  let x := getWin s w
  let p := x.parcel
  !(pclThere s p && (getPcl s p).port = w / 16) ||
  (!x.service && (List.range 64).any fun v => v ≠ w && (getWin s v).active && !(getWin s v).service && (getWin s v).parcel = p)

/-- A configuration check fails: CFGERR, class 0x60, and the enable clears, or a twin fail-stops (R376). -/
def checkFail (s : State) (b : Nat) (k : Blk) : State :=
  let s := { s with regs := { s.regs with cfgerr := sset false s.regs.cfgerr b true } }
  let inc : Inc := { cls := 0x60, locKind := 6, locNum := b, domain := blockDomain b }
  if twinned s then failStop (logInc s { inc with action := 5 }) 0x60 0
  else
    let s := logInc s inc
    match k with
    | .win w => closeWin s w false
    | _ => s

/-- The check runs on a window block with CHK and EN set; no other block has configuration fields (R375, R376). -/
def runCheck (s : State) (b : Nat) (k : Blk) : State :=
  match k with
  | .win w => if sget false s.regs.chk b && (getWin s w).en && cfgCrc s k ≠ sget 0 s.regs.cfgref b then checkFail s b k else s
  | _ => s

/-- Records that waited for a work window go to its ring (R341, log 13 [DEDUCED]). -/
def takeBacklog (s : State) (w : Nat) : State :=
  let x := getWin s w
  if x.active && !x.service then
    let p := x.parcel
    (getPcl s p).recBacklog.foldl (fun s r => emitRec s w r true) (modPcl s p fun y => { y with recBacklog := [] })
  else s

/-- EN becomes 1 (R323, R329, R376); records that waited for room in the ring are written where there is room now (R341). -/
def openWin (s : State) (w : Nat) : State :=
  let s := modWin s w fun x => { x with ctl := x.ctl ||| 0x80000000, binderr := bindErr s w }
  let s := drainBacklog s w (getWin s w).backlog.length
  takeBacklog (runCheck s (winBlock w) (.win w)) w

/-! ### Writes by block -/

/-- WIN_CTL: the RWE fields are judged against the enable as it stood; then the enable changes (R374). -/
def writeWinCtl (s : State) (w al : Nat) (v : W32) : State :=
  let x := getWin s w
  let mask : W32 := 0x000F001F
  let on := (aliasNew al x.ctl v).getLsbD 31
  if x.en then
    let s := if reaches al mask v then setWign s (winBlock w) else s
    if on then s else closeWin s w false
  else
    let s := modWin s w fun y => { y with ctl := maskNew al mask y.ctl v }
    if on then openWin s w else s

/-- An RWE register of a window block. -/
def writeRwe (s : State) (w al : Nat) (v : W32) (f : Window → Window) : State :=
  if (getWin s w).en then (if reaches al 0xFFFFFFFF v then setWign s (winBlock w) else s) else modWin s w f

/-- The window block's registers (Table 11-3). A LOG2N outside 6 to 16 is ignored (log 30 [DEDUCED]). -/
def writeWin (s : State) (w off al : Nat) (v : W32) : State :=
  let nw (old : W32) : W32 := aliasNew al old v
  if off = 0 then writeWinCtl s w al v
  else if off = 4 then writeRwe s w al (v &&& 0xFFFF) fun x => { x with gen := (nw (x.gen.zeroExtend 32)).extractLsb' 0 16 }
  else if off = 8 then writeRwe s w al v fun x => { x with next := nw x.next }
  else if off = 0xC then
    modWin s w fun x => { x with drop := x.drop && !v.getLsbD 4, badseg := x.badseg && !v.getLsbD 3, genmis := x.genmis && !v.getLsbD 2 }
  else if off = 0x10 then writeRwe s w al v fun x => { x with crBase := x.crBase.extractLsb' 32 32 ++ nw (x.crBase.extractLsb' 0 32) }
  else if off = 0x14 then writeRwe s w al v fun x => { x with crBase := nw (x.crBase.extractLsb' 32 32) ++ x.crBase.extractLsb' 0 32 }
  else if off = 0x18 then
    writeRwe s w al (v &&& 0x1F) fun x =>
      let n := (nw (x.crLog.zeroExtend 32)).extractLsb' 0 5
      if 6 ≤ n.toNat ∧ n.toNat ≤ 16 then { x with crLog := n } else x
  else if off = 0x1C then
    let s := modWin s w fun x => { x with crHead := nw x.crHead }
    drainBacklog s w (getWin s w).backlog.length
  else s

/-- The entry that CAD_SEL names is latched for its source; zero outside the block's share (R385). -/
def writeCadSel (s : State) (src : Src) (die al : Nat) (v : W32) : State :=
  let sel := maskNew al 0x3FFFF (cadLatch s src die).1 v
  let e := if sel.toNat / 92160 = die then entWord s sel.toNat else 0
  let keep := s.regs.cadSel.filter fun x => !(x.1 = src && x.2.1 = die)
  { s with regs := { s.regs with cadSel := keep ++ [(src, die, sel, e)] } }

/-- GK_CTL.EN (R386). -/
def writeGkCtl (s : State) (die al : Nat) (v : W32) : State :=
  let old : W32 := ofBool (!sget false s.regs.gkOff die)
  { s with regs := { s.regs with gkOff := sset false s.regs.gkOff die (!(aliasNew al old v).getLsbD 0) } }

/-- The registers of the maps that a write changes. -/
def mapWrite (s : State) (src : Src) (k : Blk) (off al : Nat) (v : W32) : State :=
  match k with
  | .win w => writeWin s w off al v
  | .cad die => if off = 4 then writeCadSel s src die al v else s
  | .gk die => if off = 0 then writeGkCtl s die al v else s
  | .cs n => if 0x800 ≤ off ∧ off ≤ 0x840 then modSite s n fun x => setMcReg x off (aliasNew al (mapRead s src k off) v) else s
  | _ => s

/-- CCLR: the live counters but PH_CAT, and what is kept since the last CCLR (R378, Tables 13-7, 13-10). See log 43 [DEDUCED]. -/
def clearCtrs (s : State) (b : Nat) (k : Blk) : State :=
  let s := { s with regs := { s.regs with ctrs := s.regs.ctrs.filter fun e => e.1 / 64 ≠ b } }
  match k with
  | .win w => modWin s w fun x => { x with drops := 0 }
  | .fmp p => modPortF s p fun x => { x with ageMax := 0 }
  | .bcn die => { s with mesh := { s.mesh with wmax := sset 0 s.mesh.wmax die (s.mesh.waiters.countP fun x => x.beacon / 4096 = die) } }
  | _ => s

/-- The common registers that a write changes (Tables 13-3 to 13-5). A WO field takes direct writes alone (R370). -/
def commonWrite (s : State) (b : Nat) (k : Blk) (off al : Nat) (v : W32) : State :=
  let r := s.regs
  if off = 0xF04 then
    let s := { s with regs := { r with chk := sset false r.chk b ((aliasNew al (ofBool (sget false r.chk b)) v).getLsbD 0) } }
    if al = 0 ∧ v.getLsbD 1 then clearCtrs s b k else s
  else if off = 0xF08 then
    let keep (m : SMap Bool) (i : Nat) : SMap Bool := if v.getLsbD i then sset false m b false else m
    { s with regs := { r with lockv := keep r.lockv 4, cfgerr := keep r.cfgerr 3, wign := keep r.wign 2 } }
  else if off = 0xF10 then { s with regs := { r with cfgref := sset 0 r.cfgref b (aliasNew al (sget 0 r.cfgref b) v) } }
  else if off = 0xF18 then
    if al = 0 ∧ v ≠ 0 ∧ v.getLsbD 31 = false ∧ blkRuns s b k then capture s b k v else s
  else if off = 0xF44 then
    let old : W32 := BitVec.ofNat 32 (flagAt (sget false r.sview b) 8)
    { s with regs := { r with sview := sset false r.sview b ((aliasNew al old v).getLsbD 8) } }
  else s

/-- A source writes a register: discarded where it is misaligned or reserved, counted where it is filtered, ignored with
LOCKV where it is guarded and locked; any write to a register of the block locks it (R366 to R373). See log 41 [DEDUCED]. -/
def regWrite (s : State) (src : Src) (addr : Nat) (v : W32) : State :=
  let b := addr / 0x4000
  let al := addr / 0x1000 % 4
  let off := addr % 0x1000
  if addr % 4 ≠ 0 then s
  else if filtered s src b true then countFilt s src
  else match blkOf b with
    | none => s
    | some k =>
      if !hasReg k off then s
      else
        let was := unlockedFor s b src
        let s := lockFor s b src
        if off = 0xF0C then (if al = 0 ∧ v = 0x5AFE then unlockFor s b src else s)
        else if guardedReg k off && !was then { s with regs := { s.regs with lockv := sset false s.regs.lockv b true } }
        else if off < 0xC00 then mapWrite s src k off al v else commonWrite s b k off al v

/-! ### The rows -/

/-- The address of a register of a block, through an alias. -/
def regAddr (b al off : Nat) : Nat := b * 0x4000 + al * 0x1000 + off

/-- A write by a source that can reach registers. -/
def regRow (src : Src) (addr : Nat) (v : W32) (s : State) : Out := if srcOk s src then done (regWrite s src addr v) else cannot s

/-- REGISTER_WRITE: any register of the space. -/
def execRegisterWrite (src : Src) (addr : Nat) (v : W32) (s : State) : Out :=
  if addr < 2 ^ 25 then regRow src addr v s else cannot s

/-- EN of a window as a write to its WIN_CTL leaves it. -/
def enAfter (s : State) (w al : Nat) (v : W32) : Bool := (aliasNew al (getWin s w).ctl v).getLsbD 31

/-- WINDOW_ENABLE: a write to WIN_CTL that sets EN (R323, R329, R376). -/
def execWindowEnable (src : Src) (w al : Nat) (v : W32) (s : State) : Out :=
  if w < 64 ∧ al < 4 ∧ (getWin s w).en = false ∧ enAfter s w al v then regRow src (regAddr (winBlock w) al 0) v s else cannot s

/-- WINDOW_DISABLE: a write to WIN_CTL that clears EN (R329). -/
def execWindowDisable (src : Src) (w al : Nat) (v : W32) (s : State) : Out :=
  if w < 64 ∧ al < 4 ∧ (getWin s w).en ∧ enAfter s w al v = false then regRow src (regAddr (winBlock w) al 0) v s else cannot s

/-- CR_HEAD_WRITE: records that waited for room are written (R341). -/
def execCrHeadWrite (src : Src) (w al : Nat) (v : W32) (s : State) : Out :=
  if w < 64 ∧ al < 4 then regRow src (regAddr (winBlock w) al 0x1C) v s else cannot s

/-- A row that writes a common register of a block directly. -/
def commonRow (src : Src) (block off : Nat) (v : W32) (s : State) : Out :=
  if (blkOf block).isSome then regRow src (regAddr block 0 off) v s else cannot s

/-- UNLOCK (R372). -/
def execUnlock (src : Src) (block : Nat) (v : W32) (s : State) : Out := commonRow src block 0xF0C v s

/-- SNAP (R380). See log 42 [DEDUCED]. -/
def execSnap (src : Src) (block : Nat) (v : W32) (s : State) : Out := commonRow src block 0xF18 v s

/-- CCLR: a direct write of BLK_CTL with CCLR set (R378). -/
def execCclr (src : Src) (block : Nat) (v : W32) (s : State) : Out := if v.getLsbD 1 then commonRow src block 0xF04 v s else cannot s

/-- SCANCEL: a direct write of BLK_STG with SCANCEL set (R377). -/
def execScancel (src : Src) (block : Nat) (v : W32) (s : State) : Out := if v.getLsbD 9 then commonRow src block 0xF44 v s else cannot s

/-- CONFIG_CHECK: the periodic comparison (R376). -/
def execConfigCheck (block : Nat) (s : State) : Out :=
  match blkOf block with
  | none => cannot s
  | some k => if domainRuns s (blockDomain block) then done (runCheck s block k) else cannot s

/-- CAD_SEL (R385). -/
def execCadSel (src : Src) (die : Nat) (v : W32) (s : State) : Out :=
  if die < 2 then regRow src (regAddr (cadBlock die) 0 4) v s else cannot s

/-- GROUNDSKEEPER_ENABLE (R386). -/
def execGroundskeeperEnable (src : Src) (die al : Nat) (v : W32) (s : State) : Out :=
  if die < 2 ∧ al < 4 then regRow src (regAddr (gkBlock die) al 0) v s else cannot s

/-! ### Module-wide and parcel snapshots (R381, R382) -/

/-- The blocks of a snapshot: all of them, or the core sites of a parcel's beds and the windows bound to it. -/
def snapScope (s : State) : Option Nat → List Nat
  | none => allBlocks
  | some p => allBlocks.filter fun b => match blkOf b with
    | some (.cs n) => (getPcl s p).beds.getLsbD (siteBed n)
    | some (.win w) => (getWin s w).en && (getWin s w).parcel = p && decide ((getPcl s p).port = w / 16)
    | _ => false

/-- A snapshot starts: every block of its scope whose domains run captures (R381). -/
def startSnapshot (s : State) (ident : W32) (p : Option Nat) : State :=
  let ident := ident ||| 0x80000000
  let run (b : Nat) : Bool := match blkOf b with
    | some k => blkRuns s b k
    | none => false
  let l := snapScope s p
  let s := (l.filter run).foldl (fun s b => match blkOf b with
    | some k => capture s b k ident
    | none => s) s
  { s with regs := { s.regs with snapRun := some { ident := ident, parcel := p, missed := l.filter fun b => !run b } } }

/-- SNAPSHOT_COMPLETE: SNAP_LAST and SNAP_MISSED are set, a missed block is logged, and after a module-wide snapshot
SNAP_SKEW is written: at most 300 ns, by no rule of the spec which (R381, log 4 [DESIGN CHOICE]). -/
def execSnapshotComplete (missed : List Nat) (s : State) : Out :=
  match s.regs.snapRun with
  | none => cannot s
  | some r =>
    if r.missed ≠ missed || !s.pwr.lodgeUp then cannot s
    else
      let s := { s with regs := { s.regs with snapRun := none, snapLast := r.ident, snapMissed := BitVec.ofNat 32 missed.length } }
      let s := missed.foldl (fun s b => logInc s { cls := 0x62, locKind := 6, locNum := b, domain := blockDomain b }) s
      if r.parcel.isSome then done s
      else
        let (v, s) := takeFree s
        done { s with regs := { s.regs with snapSkew := BitVec.ofNat 32 (v.toNat % 301) } }

end Sys2Proof.Machine
end

