-- ==== Sys2Proof/Machine/Firm.lean ====
section
/-!
DEFINITION. Firmware bundles, the boot chain, updates, identity, SPDM and measurements (R416 to R431), and the statuses
of an ACK (Table 12-3).
-/

namespace Sys2Proof.Machine

/-! ### Statuses (Table 12-3) -/

def ackOk : Nat := 0
def ackNoObject : Nat := 1
def ackNoSub : Nat := 2
def ackReadOnly : Nat := 3
def ackWriteOnly : Nat := 4
def ackScope : Nat := 5
def ackLength : Nat := 6
def ackValue : Nat := 7
def ackBusy : Nat := 8
def ackSegment : Nat := 9
def ackState : Nat := 0x0A
def ackNothingStaged : Nat := 0x0B
def ackVersion : Nat := 0x0C
def ackNotReady : Nat := 0x0D

/-- What a write comes to: its status and the state after it. -/
abbrev Ack := Nat × State

/-- A refused write changes nothing. -/
def deny (s : State) (status : Nat) : Ack := (status, s)

/-- A write that is done. -/
def grant (s : State) : Ack := (ackOk, s)

/-- The dictionary answers (Table 14-6 step 3, R420). -/
def dictReady (s : State) : Bool := s.pwr.lodgeUp && s.pwr.dictUp && !s.pwr.recovery

/-! ### Byte strings -/

/-- A number of big-endian bytes (R416). -/
def beNat (l : List Byte) : Nat := leNat l.reverse
/-- The n big-endian bytes of a number. -/
def beBytes (n v : Nat) : List Byte := (leBytes n v).reverse
/-- n bytes from an offset on. -/
def slice (l : List Byte) (off n : Nat) : List Byte := (l.drop off).take n
/-- The ASCII bytes of a string. -/
def ascii (t : String) : List Byte := t.toList.map fun c => BitVec.ofNat 8 c.toNat

/-! ### Bundles (R416, R417, Table 15-1) -/

def bunLevel (b : List Byte) : Nat := field b 4 4
def bunSvn (b : List Byte) : Nat := field b 8 1
def bunKey (b : List Byte) : Nat := field b 9 1
def bunRevoke (b : List Byte) : Nat := field b 10 1 % 16
/-- A body's length with its padding. -/
def padded (n : Nat) : Nat := (n + 4095) / 4096 * 4096
/-- The Lodge, Gatehouse and table bodies. -/
def lodgeBody (b : List Byte) : List Byte := slice b 256 (field b 12 4)
def ghBody (b : List Byte) : List Byte := slice b (256 + padded (field b 12 4)) (field b 16 4)
def tblBody (b : List Byte) : List Byte := slice b (256 + padded (field b 12 4) + padded (field b 16 4)) (field b 20 4)
/-- The digests of a header. -/
def lodgeDig (b : List Byte) : BitVec 256 := BitVec.ofNat 256 (beNat (slice b 24 32))
def ghDigOf (b : List Byte) : BitVec 256 := BitVec.ofNat 256 (beNat (slice b 56 32))
def tblDigOf (b : List Byte) : BitVec 256 := BitVec.ofNat 256 (beNat (slice b 88 32))

/-- A header verifies (R417). See log 89 [DESIGN CHOICE]. -/
def headerOk (s : State) (b : List Byte) : Bool :=
  let pub := slice b 120 64
  decide (bunKey b < 4) && s.firm.keyHash[bunKey b]? == some (Config.sm3 pub) && !s.firm.revoked.getLsbD (bunKey b) &&
  decide (s.firm.svn.toNat ≤ bunSvn b) && Config.sm2Verify pub (b.take 184) (slice b 184 64) &&
  decide (field b 0 4 = 0x56424E44) && decide (field b 11 1 = s.firm.stepping.toNat) && decide (256 ≤ b.length) &&
  allZero (slice b 248 8)

/-- A slot boots: header and Lodge body (R419). -/
def bootOk (s : State) (b : List Byte) : Bool := headerOk s b && Config.sm3 (lodgeBody b) == lodgeDig b

/-- A whole bundle verifies (R422); it is at most 96 MiB (R416). -/
def bundleOk (s : State) (b : List Byte) : Bool :=
  bootOk s b && Config.sm3 (ghBody b) == ghDigOf b && Config.sm3 (tblBody b) == tblDigOf b && decide (b.length ≤ 0x6000000)

/-! ### Slots -/

/-- The bundle of a slot: 0 A, 1 B. -/
def slotOf (s : State) (i : Nat) : List Byte := if i = 0 then s.firm.slotA else s.firm.slotB

/-- The recorded status of a slot. -/
def slotRaw (s : State) (i : Nat) : Byte := if i = 0 then s.firm.statA else s.firm.statB

/-- FW_SLOT_STAT (Table 15-4): a valid slot below the fused SVN reads 3 (R422). -/
def slotStat (s : State) (i : Nat) : Nat :=
  if slotRaw s i = 1 ∧ bunSvn (slotOf s i) < s.firm.svn.toNat then 3 else (slotRaw s i).toNat

def setStat (s : State) (i : Nat) (v : Byte) : State :=
  { s with firm := if i = 0 then { s.firm with statA := v } else { s.firm with statB := v } }

def setSlot (s : State) (i : Nat) (b : List Byte) : State :=
  { s with firm := if i = 0 then { s.firm with slotA := b } else { s.firm with slotB := b } }

/-- The running bundle. -/
def running (s : State) : List Byte := slotOf s s.firm.active.toNat

/-- FW_VERSION and GH_VERSION of a slot: the level of the bundle it holds, 0 where it holds none (R362, R421). -/
def slotLevel (s : State) (i : Nat) : Nat := bunLevel (slotOf s i)

/-! ### The boot ROM (R419, R420, R423, R424) -/

/-- A private key from a digest: (SM3 mod (n − 1)) + 1 (R423). -/
def keyFrom (l : List Byte) : BitVec 256 := BitVec.ofNat 256 ((Config.sm3 l).toNat % (Config.sm2Order - 1) + 1)

/-- The Lodge image of a slot starts, with its alias key and certificate; d_id is not kept (R419, R424). -/
def startLodge (s : State) (i : Nat) : State :=
  let b := slotOf s i
  let seed := beBytes 32 s.firm.seed.toNat
  let did := keyFrom (seed ++ ascii "ID")
  let dal := keyFrom (seed ++ ascii "ALIAS" ++ beBytes 32 (lodgeDig b).toNat)
  let cert := Config.aliasCert (Config.sm2Public dal) (lodgeDig b) (BitVec.ofNat 32 (bunLevel b)) (BitVec.ofNat 8 (bunSvn b))
  { s with
    firm := { s.firm with
                active := BitVec.ofNat 8 i, aliasKey := dal, idPub := Config.sm2Public did, aliasCert := cert },
    pwr := { s.pwr with bringStep := 3, recovery := false } }

/-- A slot fails verification at boot (R419). -/
def bootFail (s : State) (i : Nat) : State :=
  let s := setStat s i 2
  { s with firm := { s.firm with bootFails := s.firm.bootFails + 1 } }

/-- Step 2 runs. -/
def atStep2 (s : State) : Bool := s.pwr.lodgeUp && s.pwr.seqRun = .powerOn && s.pwr.bringStep = 2 && !s.pwr.recovery

/-- BOOT_ROM_VERIFY: the preferred slot, then the other (R419). With neither valid, RECOVERY follows. -/
def execBootRomVerify (s : State) : Out :=
  if !atStep2 s then cannot s
  else
    let i := if s.firm.next = 1 then 1 else 0
    if bootOk s (slotOf s i) then done (startLodge s i)
    else
      let t := bootFail s i
      if bootOk s (slotOf s (1 - i)) then done (startLodge t (1 - i)) else done (bootFail t (1 - i))

/-- RECOVERY: neither slot verifies; ALERT_N is asserted, its cause a bring-up failure (R420, log 31 [DEDUCED]). -/
def execRecovery (s : State) : Out :=
  if atStep2 s && !bootOk s s.firm.slotA && !bootOk s s.firm.slotB then
    done (raiseAlert { s with pwr := { s.pwr with recovery := true } } 5)
  else cannot s

/-! ### Updates (R420, R422) -/

/-- The slot that an upload writes: the one that is not running; slot A in recovery. -/
def uploadSlot (s : State) : Nat := if s.pwr.recovery then 0 else 1 - s.firm.active.toNat

/-- The slot is erased as an upload session opens. See log 49 [DEDUCED]. -/
def openUpload (s : State) : State := setStat (setSlot s (uploadSlot s) []) (uploadSlot s) 0

/-- The upload closes: the bundle is in the slot, valid or not; in recovery a valid one boots. -/
def closeUpload (s : State) (b : List Byte) : Ack :=
  let i := uploadSlot s
  let t := setSlot s i b
  if bundleOk s b then
    let t := setStat t i 1
    grant (if s.pwr.recovery then startLodge { t with firm := { t.firm with fromRecovery := true } } i else t)
  else
    let t := setStat t i 2
    (ackValue, if s.pwr.recovery then t else logInc t { cls := 0x73 })

/-- FW_UPLOAD: a whole segmented upload, by a requester for whom an open session of another means BUSY (R354). See log 39 [DEDUCED]. -/
def execFwUpload (slot : Nat) (bundle : List Byte) (s : State) : Out :=
  if (dictReady s || (s.pwr.lodgeUp && s.pwr.recovery)) && decide (slot = uploadSlot s) && !(s.dict.sessions.any fun x => x.idx = 0x8000) then done (closeUpload (openUpload s) bundle).2
  else cannot s

/-- FW_NEXT: refused for a slot that is not valid. -/
def putFwNext (s : State) (v : Nat) : Ack :=
  if 2 ≤ v ∨ slotStat s v ≠ 1 then deny s ackValue else grant { s with firm := { s.firm with next := BitVec.ofNat 8 v } }

/-- FW_SVN_BURN: only the running bundle's SVN, above the fused one; class 0x74. -/
def putSvnBurn (s : State) (v : Nat) : Ack :=
  if v ≠ bunSvn (running s) ∨ v ≤ s.firm.svn.toNat then deny s ackValue
  else
    let rev := s.firm.revoked ||| BitVec.ofNat 8 (bunRevoke (running s))
    grant (logInc { s with firm := { s.firm with svn := BitVec.ofNat 8 v, revoked := rev } } { cls := 0x74 })

/-! ### SPDM (R426 to R428; request codes from the cited standard, log 11 [PRESUMED]) -/

/-- The request codes of Table 15-3. -/
def spdmListed (code : Nat) : Bool := decide (code ∈ [0x84, 0xE1, 0xE3, 0x81, 0x82, 0x83, 0xE0])

/-- Requesters of the management port whose state is kept, the most recently active first: at most 8 (R428). -/
def spdmTrim (l : List Spdm) : List Spdm :=
  let mg (x : Spdm) : Bool := match x.src with
    | .mgmt _ => true
    | .hostWin _ => false
  (l.filter mg).take 8 ++ l.filter fun x => !mg x

/-- The state of a requester. See log 50 [DEDUCED]. -/
def spdmOf (s : State) (src : Requester) : Option Spdm := s.firm.spdm.find? fun x => x.src = src

/-- The answer to a request (R426, R428). -/
def spdmAnswer (s : State) (src : Requester) (req : List Byte) : List Byte × List Byte :=
  let code := field req 1 1
  match spdmOf s src with
  | none =>
    if code ≠ 0x84 then ([], Config.spdmError 4)
    else
      let r := Config.spdmRespond [] req
      (req ++ r, r)
  | some x =>
    if !spdmListed code then (x.transcript, Config.spdmError 7)
    else
      let t := if code = 0x84 then [] else x.transcript
      let r := Config.spdmRespond t req
      (t ++ req ++ r, r)

/-- SPDM_REQ: the response is ready before the ACK (R427). -/
def putSpdm (s : State) (src : Requester) (req : List Byte) : Ack :=
  let a := spdmAnswer s src req
  let rest := s.firm.spdm.filter fun x => x.src ≠ src
  grant { s with firm := { s.firm with spdm := spdmTrim ({ src := src, transcript := a.1, response := a.2 } :: rest) } }

/-- SPDM_RSP of a requester. -/
def spdmRsp (s : State) (src : Requester) : List Byte := match spdmOf s src with
  | none => []
  | some x => x.response

/-! ### Measurements (R429, R430, Tables 15-5, 15-6) -/

/-- HOST_WINDOW_EN (Table 12-9). -/
def hostWindowEn (s : State) : Nat := objNat s 0x1018 0 0x0F

/-- A measurement block: index, type, size, value. -/
def measBlock (i type : Nat) (v : List Byte) : List Byte :=
  [BitVec.ofNat 8 i, BitVec.ofNat 8 type] ++ leBytes 2 v.length ++ fit 32 v

/-- The seven measurement blocks. -/
def measBlocks (s : State) : List Byte :=
  let b := running s
  measBlock 1 0x00 (beBytes 32 Config.bootRomDigest.toNat) ++
  measBlock 2 0x01 (beBytes 32 (lodgeDig b).toNat) ++
  measBlock 3 0x01 (beBytes 32 s.firm.ghDig.toNat) ++
  measBlock 4 0x03 (beBytes 32 s.firm.tblDig.toNat) ++
  measBlock 5 0x83 (leBytes 4 (bunLevel b) ++ [BitVec.ofNat 8 (bunSvn b), BitVec.ofNat 8 (bunKey b), s.firm.active]) ++
  measBlock 6 0x82 [s.firm.svn, s.firm.revoked &&& 0x0F, s.firm.stepping] ++
  measBlock 7 0x83 [BitVec.ofNat 8 (hostWindowEn s), ofBool s.twin.modeNow, s.twin.roleNow, ofBool s.far.swInit, BitVec.ofNat 8 (rsMode s)]

/-- The signed measurement object for a nonce. -/
def measObject (s : State) (nonce : List Byte) : List Byte :=
  let b := leBytes 4 1 ++ nonce ++ leBytes 4 s.firm.bootCnt.toNat ++ zeros 8 ++ measBlocks s
  b ++ beBytes 64 (Config.sm2Sign s.firm.aliasKey b).toNat

/-- MEAS_NONCE: the object is formed for the requester (R430). -/
def putNonce (s : State) (src : Requester) (nonce : List Byte) : Ack :=
  if nonce.length ≠ 32 then deny s ackLength
  else
    let rest := s.firm.meas.filter fun x => x.1 ≠ src
    grant { s with firm := { s.firm with meas := (src, measObject s nonce) :: rest } }

/-- MEAS_SIGNED of a requester. -/
def measOf (s : State) (src : Requester) : List Byte := match s.firm.meas.find? fun x => x.1 = src with
  | none => zeros 364
  | some x => x.2

/-- The window of the requester is enabled, if it is one (R359). -/
def reqOpen (s : State) (src : Requester) : Bool :=
  match src with
  | .mgmt _ => true
  | .hostWin k => decide (k < 4) && bit (hostWindowEn s) k

end Sys2Proof.Machine
end

