-- ==== Sys2Proof/Machine/Parcels.lean ====
section
/-!
DEFINITION. Parcels by the dictionary: creation, removal, reset, beds, beacon blocks and staged settings (R263, R318 to
R321, R357, R364, R406).
-/

namespace Sys2Proof.Machine

/-! ### Reservations (R263, R319, R320) -/

/-- Beds that parcel q's staged change adds. -/
def reservedBeds (s : State) (q : Nat) : W32 :=
  match stagedVal s q .beds with
  | none => 0
  | some v => BitVec.ofNat 32 v &&& ~~~(getPcl s q).beds

/-- Beds that other parcels hold or have reserved. -/
def othersBeds (s : State) (p : Nat) : W32 :=
  ((List.range 8).filter fun q => q ≠ p && pclThere s q).foldl (fun a q => a ||| (getPcl s q).beds ||| reservedBeds s q) 0

/-- Beds that other parcels have reserved. -/
def othersReserved (s : State) (p : Nat) : W32 :=
  ((List.range 8).filter fun q => q ≠ p && pclThere s q).foldl (fun a q => a ||| reservedBeds s q) 0

/-- Beacon blocks of a die that other parcels hold or have reserved. -/
def othersBlocks (s : State) (p die : Nat) : W64 :=
  ((List.range 8).filter fun q => q ≠ p).foldl (fun a q =>
    a ||| (if die = 0 then (getPcl s q).alloc0 else (getPcl s q).alloc1) ||| BitVec.ofNat 64 ((stagedVal s q (.beacons die)).getD 0)) 0

/-! ### Creation (R319, R340, R410, R437) -/

/-- A parcel as it is created: what counts since its creation is 0; its settings stand. -/
def Parcel.fresh (x : Parcel) : Parcel :=
  { port := x.port, beds := x.beds, alloc0 := x.alloc0, alloc1 := x.alloc1, bcnLost := x.bcnLost, replayLimit := x.replayLimit,
    replays := x.replays, compat := x.compat, tally := x.tally, thArea := x.thArea }

/-- PCL_CTL = 1. See log 48 [DEDUCED]. -/
def createParcel (s : State) (p : Nat) : Ack :=
  let x := getPcl s p
  if !s.pwr.bringDone || x.st ≠ .absent then deny s ackState
  else if x.beds = 0 ∨ x.beds &&& othersBeds s p ≠ 0 then deny s ackValue
  else if bedsBusy s x.beds then deny s ackState
  else
    let t := modPcl s p Parcel.fresh
    let t := setPcl t p (if (getPort s x.port).perst then .inReset else .active)
    grant (initialMark t p)

/-! ### Removal (R321) -/

/-- What stays of a removed parcel: its port and the settings that hold while it is absent. See log 47 [DEDUCED]. -/
def Parcel.removed (x : Parcel) : Parcel :=
  { st := x.st, port := x.port, bcnLost := x.bcnLost, replayLimit := x.replayLimit, replays := x.replays, compat := x.compat,
    tally := x.tally, thArea := x.thArea }

/-- Every page of the parcel is unmapped; what it last owned is to be zero-filled (R200, R321). -/
def unmapAll (s : State) (p : Nat) : State :=
  (skeys s.far.entries).foldl (fun s fpn =>
    let e := getEnt s fpn
    let s := if e.v ∧ e.owner.toNat = p then
        dropCad (modEnt (snoopPage s fpn) fpn fun e => { e with v := false, cr := false, cw := false, hr := false, hw := false }) fpn
      else s
    if e.lov ∧ e.lastown.toNat = p then modEnt s fpn fun e => { e with zneed := true } else s) s

/-- A record that a window still executes as its parcel is removed completes (R329): one that asks for a reset is done with
the removal's own (R407), a page command finds its page unowned, and the rest find their cores outside the parcel. See log 97 [DEDUCED]. -/
def endRemoved (s : State) (w : Nat) : State :=
  let x := getWin s w
  match x.waitRec with
  | none => s
  | some r =>
    if recOp r = 0x32 ∨ recOp r = 0x33 then finRec s w r stDone []
    else if recOp r = 0x20 ∨ recOp r = 0x21 ∨ recOp r = 0x22 then
      finRec s w r stRefused (pageBody 0x05 (field r 16 4 + x.pagesDone) x.pagesDone)
    else finRec s w r stRefused (leBytes 4 0x0C)

/-- PCL_CTL = 2: reset, pages, seals, beacon blocks, windows, beds (R321). -/
def removeParcel (s : State) (p : Nat) : Ack :=
  if !pclThere s p then deny s ackState
  else
    let s := closeWindows (bump s clkBlock 3 1) p true
    let s := (List.range 64).foldl (fun s w => if (getWin s w).parcel = p ∧ (getPcl s p).port = w / 16 then endRemoved s w else s) s
    let s := (pclLive s p).foldl (fun s c => resetSite (dropCore s c) (csite s c)) s
    let s := unmapAll s p
    let s := { s with far := { s.far with
                                 seals := sdel s.far.seals p,
                                 faults := s.far.faults.filter fun f => f.parcel ≠ p,
                                 refusals := s.far.refusals.filter fun x => x.parcel ≠ p } }
    let s := loseBlocks s p (getPcl s p).alloc0 (getPcl s p).alloc1
    let s := endStepHandling (forgetErrs s p) p
    grant (setPcl (modPcl s p Parcel.removed) p .absent)

/-- PCL_CTL = 3: a parcel reset (R406). -/
def resetParcel (s : State) (p : Nat) : Ack := if pclThere s p then grant (beginParcelReset s p) else deny s ackState

/-- PCL_CTL (Table 11-2). -/
def putPclCtl (s : State) (p v : Nat) : Ack :=
  if v = 1 then createParcel s p else if v = 2 then removeParcel s p else if v = 3 then resetParcel s p else deny s ackValue

/-- PCL_PORT: only while absent. -/
def putPclPort (s : State) (p v : Nat) : Ack :=
  if pclThere s p then deny s ackState
  else if 4 ≤ v then deny s ackValue
  else grant (modPcl s p fun x => { x with port := v })

/-! ### Staged objects (R263, R320, R357, R364) -/

/-- A value of a parcel's RWS object is staged, or takes effect at once on an absent parcel (R357). -/
def stageOr (s : State) (p : Nat) (k : StageKey) (v : Nat) : Ack :=
  if pclThere s p then grant (stage s p k v) else grant (applyStaged p s (k, v))

/-- PCL_BEDS: a bed reserved for another parcel is refused, and to a parcel that is there a bed of another (R320); an absent
parcel may name a bed that belongs to another (log 32 [DEDUCED]). -/
def putPclBeds (s : State) (p v : Nat) : Ack :=
  let added := BitVec.ofNat 32 v &&& ~~~(getPcl s p).beds
  if BitVec.ofNat 32 v &&& othersReserved s p ≠ 0 then deny s ackValue
  else if pclThere s p && added &&& othersBeds s p ≠ 0 then deny s ackValue
  else stageOr s p .beds v

/-- BCN_ALLOC: a block held by or reserved for another parcel is refused (R263). -/
def putBcnAlloc (s : State) (p die v : Nat) : Ack :=
  if BitVec.ofNat 64 v &&& othersBlocks s p die ≠ 0 then deny s ackValue else stageOr s p (.beacons die) v

/-- PCL_COMPAT. -/
def putCompat (s : State) (p v : Nat) : Ack := if 2 ≤ v then deny s ackValue else stageOr s p (.object 0x2006 0) v

/-- REPLAY_LIMIT. -/
def putReplayLimit (s : State) (p v : Nat) : Ack := stageOr s p (.object 0x2050 0) v

/-- TH_TALLY: a core outside the parcel is refused (Table 12-10). -/
def putTally (s : State) (p v : Nat) : Ack :=
  if v ≠ 0xFFFF ∧ v ∉ pclCores s p then deny s ackValue else stageOr s p (.object 0xA000 0) v

/-- TH_AREA (R364): 512 KiB aligned, in pages that the parcel owns with CW, or all ones. -/
def putArea (s : State) (p v : Nat) : Ack :=
  let e := getEnt s (v / 2 ^ 24)
  if v = 2 ^ 64 - 1 ∨ (v < 2 ^ 42 ∧ v % 2 ^ 19 = 0 ∧ v / 2 ^ 24 < fpnMax ∧ pageOwned s p (v / 2 ^ 24) ∧ e.cw ∧ e.ret = false) then
    stageOr s p (.object 0xA001 0) v
  else deny s ackValue

/-- CLK_BED (R395): staged for the bed's parcel, or at once. -/
def putClkBed (s : State) (bed v : Nat) : Ack :=
  if v < 2 ∨ 8 < v then deny s ackValue
  else match bedParcel s bed with
    | some p => grant (stage s p (.clkBed bed) v)
    | none => grant (switchBed s bed v)

/-- A staged value is discarded (R357). -/
def unstage (s : State) (p : Nat) (k : StageKey) : State :=
  modPcl s p fun x => { x with staged := x.staged.filter fun e => e.1 ≠ k }

end Sys2Proof.Machine
end

