-- ==== Sys2Proof/Machine/Power.lean ====
section
/-!
DEFINITION. Input power, the power-event stop and power halt (R398 to R400), discrete inputs (R401 to R405, R437),
temperature (R411), clock lock (R414), module warm reset and power-on (R406 to R408), and bring-up (R197, R223 to R227,
R247, R409, R419, R421).
-/

namespace Sys2Proof.Machine

def modPwr (s : State) (f : Power → Power) : State := { s with pwr := f s.pwr }

/-! ### The input (R398, Table 14-7) -/

/-- The input voltage is now vin mV. -/
def setVin (s : State) (vin : Nat) : State :=
  modPwr s fun x => { x with vin := vin, under := decide (vin < 39000), ovTrip := decide (54000 ≤ vin) }

/-- A twin tells its peer that it stops (R295, R307, R408). -/
def tellPeer (s : State) (cls cause : Nat) : State :=
  if s.twin.st = .paired then
    let msg : Byte × Byte × W32 := (BitVec.ofNat 8 cls, BitVec.ofNat 8 cause, s.repair.next - 1)
    let s := modTwin s fun x => { x with failMsg := some msg }
    setTwin (sendAll s 3 (failPayload s)) .failStopped
  else s

/-- The stop of Table 14-3 begins: whatever bring-up or reset runs is absorbed (R399, R415). -/
def beginStop (s : State) : State := modPwr s fun x => { x with stopping := true, seqRun := .none }

/-- A power event passes its filter. It counts only while the compute rails are up; in the stop and in power halt nothing
further happens (log 33 [DEDUCED]). -/
def powerEventAt (s : State) : State :=
  if !s.pwr.rails || s.pwr.stopping || s.pwr.halt then s
  else
    let s := logInc (bump s clkBlock 0 1) { cls := 0x50 }
    beginStop (tellPeer (raiseAlert s 1) 0x50 1)

/-- POWER_EVENT: the input is below 39.0 V for 1 µs (Table 14-2). -/
def execPowerEvent (vin : Nat) (s : State) : Out :=
  if s.pwr.lodgeUp && decide (vin < 39000) then done (powerEventAt (modPwr (setVin s vin) fun x => { x with inputOk := false }))
  else cannot s

/-- HOST_PORTS_POISON: 45 µs after the power event (Table 14-3). -/
def execHostPortsPoison (s : State) : Out :=
  if s.pwr.stopping && !s.pwr.poison then done (pumpHosts (modPwr s fun x => { x with poison := true })) else cannot s

/-- The Lodge's domain alone. -/
def lodgeDomain : BitVec 60 := 2 ^ 58

/-- POWER_HALT: 50 µs after it, every domain but the Lodge stops; record writes not observed are lost with the links, and
after an over-voltage trip compute conversion is switched off (Tables 14-2, 14-3). -/
def execPowerHalt (s : State) : Out :=
  if !s.pwr.stopping then cannot s
  else
    let s := (List.range 4).foldl linkFalls s
    let s := { s with gate := { s.gate with writes := [] } }
    done (modPwr s fun x => { x with stopping := false, poison := true, halt := true, locked := x.locked &&& lodgeDomain,
                                     rails := x.rails && !x.ovTrip })

/-- INPUT_READY: at or above 40.0 V for 10 ms, and below the trip (Table 14-2, log 33 [DEDUCED]). -/
def execInputReady (vin : Nat) (s : State) : Out :=
  if s.pwr.lodgeUp && decide (40000 ≤ vin) && decide (vin < 54000) then done (modPwr (setVin s vin) fun x => { x with inputOk := true })
  else cannot s

/-- OVER_VOLTAGE_WARNING: class 0x51. -/
def execOverVoltageWarning (vin : Nat) (s : State) : Out :=
  if !s.pwr.lodgeUp || decide (vin ≤ 50000) || s.pwr.ovWarn then cannot s
  else done (raiseAlert (logInc (modPwr (setVin s vin) fun x => { x with ovWarn := true }) { cls := 0x51 }) 4)

/-- OVER_VOLTAGE_CLEAR: below 49.0 V for 1 ms the cause clears. -/
def execOverVoltageClear (vin : Nat) (s : State) : Out :=
  if !s.pwr.lodgeUp || decide (49000 ≤ vin) then cannot s
  else done (dropAlert (modPwr (setVin s vin) fun x => { x with ovWarn := false }) 4)

/-- OVER_VOLTAGE_TRIP: a power event and class 0x52; conversion goes off once the stop is complete. -/
def execOverVoltageTrip (vin : Nat) (s : State) : Out :=
  if !s.pwr.lodgeUp || decide (vin < 54000) || s.pwr.ovTrip then cannot s
  else done (logInc (powerEventAt (modPwr (setVin s vin) fun x => { x with inputOk := false })) { cls := 0x52 })

/-! ### Supply and power-on (R363, R398, R406) -/

/-- The objects that the Lodge keeps in its flash among those of the object store (R363). See log 44 [DEDUCED]. -/
def keptObject (k : Nat) : Bool :=
  decide (k / 256 ∈ [0x1012, 0x1013, 0x1014, 0x1015, 0x1016, 0x1018, 0x3010, 0x3011, 0x3020, 0x3021, 0x3022, 0x3023, 0x4014,
    0x5000, 0x5001, 0x5005, 0x9010, 0x9011])

/-- What outlasts the supply: the world outside, fuses, the Lodge's flash, and levels at the pins (R406, R363, R26). -/
def State.persist (s : State) : State :=
  { pending := s.pending,
    free := s.free,
    outbox := s.outbox,
    repair := { history := s.repair.history, softRows := s.repair.softRows, retired := s.repair.retired,
                softClear := s.repair.softClear, nearRows := s.repair.nearRows, fuseRows := s.repair.fuseRows,
                fuseCols := s.repair.fuseCols },
    gate := { hostMem := s.gate.hostMem,
              ports := (List.range 4).foldl (fun m k => sset {} m k { perst := (getPort s k).perst }) [] },
    dict := { objs := s.dict.objs.filter fun e => keptObject e.1 },
    pwr := { clk8 := s.pwr.clk8, mesh8 := s.pwr.mesh8, resetPin := s.pwr.resetPin, fencePin := s.pwr.fencePin,
             warnPin := s.pwr.warnPin },
    firm := { slotA := s.firm.slotA, slotB := s.firm.slotB, statA := s.firm.statA, statB := s.firm.statB, next := s.firm.next,
              svn := s.firm.svn, revoked := s.firm.revoked, keyHash := s.firm.keyHash, seed := s.firm.seed,
              factoryCerts := s.firm.factoryCerts, stepping := s.firm.stepping, serial := s.firm.serial, mac := s.firm.mac,
              bootCnt := s.firm.bootCnt },
    place := { s.place with fencing := [] } }

/-- PLCA_NODE as written. -/
def plcaObj (s : State) : Byte := BitVec.ofNat 8 (objNat s 0x1012 0 0xFF)

/-- LODGE_SUPPLY_UP: a power-on: everything is reset but what outlasts the supply; the boot ROM starts (R406, Table 14-6
steps 1 and 2). TWIN_MODE and TWIN_ROLE take effect (R286). -/
def execLodgeSupplyUp (vin : Nat) (s : State) : Out :=
  if s.pwr.lodgeUp || decide (vin < 30000) then cannot s
  else
    let t := s.persist
    let t := setVin t vin
    let t := modPwr t fun x => { x with lodgeUp := true, locked := lodgeDomain, bringStep := 2, seqRun := .powerOn }
    let t := { t with
      firm := { t.firm with bootCnt := t.firm.bootCnt + 1 },
      dict := { t.dict with plcaNode := plcaObj t },
      far := { t.far with initMode := objNat t 0x3010 0 0 },
      twin := { t.twin with modeNow := decide (objNat t 0x5000 0 0 = 1), roleNow := BitVec.ofNat 8 (objNat t 0x5001 0 0) } }
    done t

/-- LODGE_SUPPLY_LOSS: everything stops; a slot whose upload was open is invalid (R398, R422). -/
def execLodgeSupplyLoss (vin : Nat) (s : State) : Out :=
  if !s.pwr.lodgeUp || decide (30000 ≤ vin) then cannot s
  else
    let open_ := s.dict.sessions.any fun x => x.idx = 0x8000
    let t := if open_ then setStat s (uploadSlot s) 2 else s
    done (setVin t.persist vin)

/-! ### Module warm reset (R406 to R408) -/

/-- Blocks of the Lodge's domain: MOD and CLK. -/
def lodgeBlock (b : Nat) : Bool := b = 0 || b = clkBlock

/-- The entries of a per-block map that belong to the Lodge's domain. -/
def keepLodge {α : Type} (m : SMap α) : SMap α := m.filter fun e => lodgeBlock e.1

/-- The registers that a warm reset keeps: the Lodge's, and the snapshot objects. -/
def Regs.warm (r : Regs) : Regs :=
  { ctrs := r.ctrs.filter fun e => lodgeBlock (e.1 / 64), hold := r.hold.filter fun e => lodgeBlock (e.1 / 64),
    snapId := keepLodge r.snapId, snapCyc := keepLodge r.snapCyc, chk := keepLodge r.chk, lockv := keepLodge r.lockv,
    cfgref := keepLodge r.cfgref, sview := keepLodge r.sview, unlocked := r.unlocked.filter fun e => lodgeBlock e.1,
    latches := r.latches.filter fun l => lodgeBlock l.block, cycles := r.cycles.filter fun e => e.1 = 58,
    snapLast := r.snapLast, snapMissed := r.snapMissed, snapSkew := r.snapSkew }

/-- A parcel after a warm reset: absent, its RW and RWS values kept (R363, R406). -/
def Parcel.warm (x : Parcel) : Parcel :=
  { port := x.port, beds := x.beds, alloc0 := x.alloc0, alloc1 := x.alloc1, bcnLost := x.bcnLost, replayLimit := x.replayLimit,
    replays := x.replays, compat := x.compat, tally := x.tally, thArea := x.thArea }

/-- The classes whose handling cannot end any more otherwise: those of steps, sites and retirements (R236). -/
def endOpenHandling (s : State) : State :=
  let l := s.repair.waitStep.map (·.1) ++ s.repair.waitFence.map (·.1) ++ [0x10, 0x11]
  let s := { s with repair := { s.repair with waitStep := [], waitFence := [], stepAddrs := [], laps := [], handled11 := none, scrubbed := [] } }
  l.foldl endHandling s

/-- A module warm reset starts: every domain but the Lodge is reset, every parcel becomes absent, and the Lodge, its log and
the dictionary stand (R406). A paired twin first sends FAILSTOP (R408). MEM_INIT_MODE takes effect as the start finds it
(R238). See log 45 [DEDUCED]. -/
def beginWarm (s : State) (cause : Nat) : State :=
  let s := bump (tellPeer s 0x00 cause) clkBlock 2 1
  let s := (List.range 8).foldl (fun s p => setPcl s p .absent) s
  let s := endOpenHandling s
  let s := dropAlert (dropAlert s 0) 1
  let s := setTwin s .solo
  { s with
    sites := [],
    mesh := {},
    far := { initMode := objNat s 0x3010 0 0 },
    gate := { hostMem := s.gate.hostMem,
              parcels := (skeys s.gate.parcels).foldl (fun m p => sset {} m p (getPcl s p).warm) [],
              ports := (List.range 4).foldl (fun m k => sset {} m k
                { perst := (getPort s k).perst, hwStale := s.dict.queue.countP fun e => e.1 = .hostWin k }) [] },
    regs := s.regs.warm,
    twin := { modeNow := decide (objNat s 0x5000 0 0 = 1), roleNow := BitVec.ofNat 8 (objNat s 0x5001 0 0) },
    place := { s.place with fencing := [] },
    pwr := { s.pwr with halt := false, stopping := false, poison := false, thTrip := false, bringStep := 3, seqRun := .warm,
                        bringFailed := false, heldBy := [], failStopped := false, failCls := none, bringDone := false } }

/-- A warm reset can start: no sequence or stop of the module runs (R404, R407). -/
def warmFree (s : State) : Bool := s.pwr.lodgeUp && s.pwr.seqRun = .none && !s.pwr.stopping && !s.pwr.recovery

/-- MOD_RESET: 0x7E5E, refused with STATE while a sequence runs (R407, Table 14-8). -/
def putModReset (s : State) (v : Nat) : Ack :=
  if v ≠ 0x7E5E then deny s ackValue else if !warmFree s then deny s ackState else grant (beginWarm s 3)

/-! ### Fail-stops from outside (R401, R411, R414) -/

/-- An incident fail-stops the module (R301). -/
def stopFor (s : State) (i : Inc) (cause : Nat) : State := failStop (logInc s { i with action := 5 }) i.cls cause

/-! ### Discrete inputs (R401 to R405, R437) -/

/-- The input is ignored for now (R403). -/
def lockedOut (s : State) (p : Pin) : Bool := decide (p ∈ s.pwr.lockouts)

/-- The filtered level of RESET_N: an assertion starts a warm reset unless a sequence runs (R404). -/
def levelReset (s : State) (asserted : Bool) : State :=
  let s := modPwr s fun x => { x with resetPin := asserted, resetHeld := x.resetHeld && asserted }
  if asserted && warmFree s then beginWarm s 3 else s

/-- FENCE_N asserted: class 0x58 and a fail-stop; during bring-up the class, and bring-up is held (R401, R415). -/
def levelFence (s : State) (asserted : Bool) : State :=
  let s := modPwr s fun x => { x with fencePin := asserted }
  if !asserted then s
  else if s.pwr.bringDone then stopFor s { cls := 0x58 } 4
  else logInc s { cls := 0x58 }

/-- PWR_WARN_N asserted: a power event (R399, R401). -/
def levelWarn (s : State) (asserted : Bool) : State :=
  let s := modPwr s fun x => { x with warnPin := asserted }
  if asserted then powerEventAt s else s

/-- PERST_N of a port: the link is held down while it is asserted (R437). -/
def levelPerst (s : State) (port : Nat) (asserted : Bool) : State :=
  if asserted then modPort (linkFalls (portEvent s port) port) port fun x => { x with perst := true }
  else modPort s port fun x => { x with perst := false }

/-- A filtered level of an input. -/
def setLevel (s : State) : Pin → Bool → State
  | .resetN, a => levelReset s a
  | .fenceN, a => levelFence s a
  | .pwrWarnN, a => levelWarn s a
  | .perstN k, a => if (getPort s k).perst = a then s else levelPerst s k a

/-- A filtered transition of an input that is not locked out. See log 87 [DEDUCED]. -/
def pinRow (s : State) (p : Pin) (now asserted : Bool) : Out :=
  if !s.pwr.lodgeUp || now == asserted || lockedOut s p then cannot s else done (setLevel s p asserted)

/-- RESET_N. -/
def execResetN (asserted : Bool) (s : State) : Out := pinRow s .resetN s.pwr.resetPin asserted
/-- FENCE_N asserted. -/
def execFenceN (s : State) : Out := pinRow s .fenceN s.pwr.fencePin true
/-- FENCE_N released: a held bring-up may go on (R405). -/
def execFenceNRelease (s : State) : Out := pinRow s .fenceN s.pwr.fencePin false
/-- PWR_WARN_N asserted. -/
def execPwrWarnN (s : State) : Out := pinRow s .pwrWarnN s.pwr.warnPin true
/-- PWR_WARN_N released: a held bring-up may go on (R405). -/
def execPwrWarnNRelease (s : State) : Out := pinRow s .pwrWarnN s.pwr.warnPin false

/-- RESET_N_HELD: class 0x54 once, and DIN_STATE reports it (R404). -/
def execResetNHeld (s : State) : Out :=
  if s.pwr.lodgeUp && s.pwr.resetPin && !s.pwr.resetHeld then
    done (raiseAlert (logInc (modPwr s fun x => { x with resetHeld := true }) { cls := 0x54 }) 3)
  else cannot s

/-- The input exists. -/
def pinOk : Pin → Bool
  | .perstN k => decide (k < 4)
  | _ => true

/-- INPUT_FLAPPING: class 0x53, and the input is ignored for 100 ms (R403). -/
def execInputFlapping (pin : Pin) (s : State) : Out :=
  if !s.pwr.lodgeUp || !pinOk pin || lockedOut s pin then cannot s
  else
    let s := raiseAlert (logInc (bump s clkBlock 1 1) { cls := 0x53 }) 3
    done (modPwr s fun x => { x with lockouts := x.lockouts ++ [pin] })

/-- LOCKOUT_END: the input is sampled again, and the level found counts as a filtered transition (R403). -/
def execLockoutEnd (pin : Pin) (asserted : Bool) (s : State) : Out :=
  if !s.pwr.lodgeUp || !lockedOut s pin then cannot s
  else done (setLevel (modPwr s fun x => { x with lockouts := x.lockouts.filter fun p => p ≠ pin }) pin asserted)

/-! ### Temperature (R411) -/

/-- TJ_WARN, in thousandths of a degree (Table 14-8). -/
def tjWarn (s : State) : Int :=
  let n := objNat s 0x4014 0 105000
  if n < 2 ^ 31 then n else (n : Int) - 2 ^ 32

/-- TEMPERATURE_SAMPLE: the readings of a millisecond; the thermal cause clears after a second at least 5 degrees below
TJ_WARN. -/
def execTemperatureSample (tj : Int) (iin pin : Nat) (s : State) : Out :=
  if !s.pwr.lodgeUp then cannot s
  else
    let cool := if tj ≤ tjWarn s - 5000 then s.pwr.coolMs + 1 else 0
    let s := modPwr s fun x => { x with tj := tj, iin := iin, pin := pin, coolMs := min cool 1000 }
    if 1000 ≤ cool then done (dropAlert (modPwr s fun x => { x with thWarn := false }) 2) else done s

/-- TEMPERATURE_WARNING: class 0x56. -/
def execTemperatureWarning (s : State) : Out :=
  if s.pwr.lodgeUp && !s.pwr.thWarn && decide (tjWarn s ≤ s.pwr.tj) then
    done (raiseAlert (logInc (modPwr s fun x => { x with thWarn := true }) { cls := 0x56 }) 2)
  else cannot s

/-- THERMAL_TRIP: a fail-stop with class 0x57, which ends the open steps (R301), then the stop of Table 14-3 (R411). See log 46 [DEDUCED]. -/
def execThermalTrip (s : State) : Out :=
  if s.pwr.lodgeUp && decide (115000 ≤ s.pwr.tj) && s.pwr.rails && !s.pwr.halt && !s.pwr.stopping then
    done (beginStop (failStopNow (stopFor (modPwr s fun x => { x with thTrip := true }) { cls := 0x57 } 0)))
  else cannot s

/-- CLOCK_LOCK_LOSS: class 0x5B (R414). -/
def execClockLockLoss (dom : Nat) (s : State) : Out :=
  if dom < 60 ∧ domainRuns s dom then
    done (stopFor (modPwr s fun x => { x with locked := x.locked &&& ~~~(2 ^ dom) }) { cls := 0x5B, domain := dom } 0)
  else cannot s

/-! ### Bring-up (R409, Table 14-6) -/

/-- A step of the bring-up or warm reset runs. -/
def atStep (s : State) (n : Nat) : Bool := s.pwr.lodgeUp && s.pwr.seqRun ≠ .none && s.pwr.bringStep.toNat = n

/-- The next step begins. -/
def toStep (s : State) (n : Nat) : State := modPwr s fun x => { x with bringStep := BitVec.ofNat 8 n }

/-- A step fails: class 0x5A with its number, the bring-up cause, and bring-up stops. -/
def failStep (s : State) (n : Nat) : State :=
  let s := raiseAlert (logInc s { cls := 0x5A, source := 3, detail := BitVec.ofNat 32 n }) 5
  modPwr s fun x => { x with seqRun := .none, bringFailed := true }

/-- BRINGUP_STEP_FAILED. A failed step 2 is what RECOVERY is for. -/
def execBringupStepFailed (stp : Nat) (s : State) : Out :=
  if atStep s stp && decide (3 ≤ stp) && decide (stp ≤ 9) then done (failStep s stp) else cannot s

/-- An input holds bring-up: class 0x55, once for each input (R405). -/
def holdFor (s : State) (p : Pin) : State :=
  if p ∈ s.pwr.heldBy then s
  else raiseAlert (logInc (modPwr s fun x => { x with heldBy := x.heldBy ++ [p] }) { cls := 0x55, source := 3 }) 3

/-- A relocated core goes back to its factory site, and its bed's spare is available again (R26, R364). -/
def returnCore (s : State) (c : Nat) : State :=
  if sget 0 s.place.reloc c = 0 then s
  else { s with place := { s.place with reloc := sdel s.place.reloc c, used := sdel s.place.used (coreBed c) } }

/-- The sites of relocated and absent cores stay fenced over a start (R26, log 34 [DEDUCED]). -/
def refence (s : State) : State :=
  let s := (skeys s.place.reloc).foldl (fun s c => modSite s (tsite s c) fun x => { x with fenced := true }) s
  (skeys s.place.absent).foldl (fun s c => modSite s (csite s c) fun x => { x with fenced := true }) s

/-- Near-memory rows that gave errors become soft entries; beyond 4,096 they are not persisted, class 0x16 (R224, R225). -/
def addSoft (s : State) (r : Nat × Nat) : State :=
  if (800 + r.1, r.2) ∈ s.repair.softRows || !spareRow s (800 + r.1, r.2) then s
  else if s.repair.softRows.length < 4096 then { s with repair := { s.repair with softRows := s.repair.softRows ++ [(800 + r.1, r.2)] } }
  else logInc s { cls := 0x16, source := 3, locKind := 0, locNum := r.1, domain := siteBed r.1 }

/-- The Repair Plat as it is loaded: the fuse entries, then the soft ones, each a spare row in use (R223). -/
def loadPlat (s : State) : State :=
  let s := { s with repair := { s.repair with plat := [], platCols := s.repair.fuseCols } }
  s.repair.softRows.foldl useSpare (s.repair.fuseRows.foldl useSpare s)

/-- A near-memory row that has become a soft entry takes its spare; one whose store was full does so for this run (R224, R225). -/
def nearSpare (s : State) (r : Nat × Nat) : State :=
  if s.repair.plat.any fun e => e.1 = 800 + r.1 && e.2.1 = r.2 then s else useSpare s (800 + r.1, r.2)

/-- A pending SOFT_CLEAR empties both stores (R224). -/
def softCleared (s : State) : State :=
  if s.repair.softClear then { s with repair := { s.repair with softRows := [], retired := [], softClear := false } } else s

/-- REPAIR_PLAT_LOAD: pending clears and returns take effect, soft entries are applied, the dictionary answers from here
on, and what the boot ROM recorded is logged (R26, R223 to R225, R364, R419, R420). -/
def execRepairPlatLoad (s : State) : Out :=
  if !atStep s 3 then cannot s
  else
    let s := modPwr (toStep s 4) fun x => { x with dictUp := true }
    let s := loadPlat (softCleared s)
    let rows := s.repair.nearRows
    let s := rows.foldl (fun s r => nearSpare (addSoft s r) r) { s with repair := { s.repair with nearRows := [] } }
    let s := s.place.returns.foldl returnCore s
    let s := refence { s with place := { s.place with returns := [] } }
    let s := (List.range s.firm.bootFails).foldl (fun s _ => logInc s { cls := 0x70, source := 3 }) s
    let s := if s.firm.fromRecovery then logInc s { cls := 0x71, source := 3 } else s
    done { s with firm := { s.firm with bootFails := 0, fromRecovery := false } }

/-- COMPUTE_RAMP: step 4, held for the input and for PWR_WARN_N; the rails come up, or are kept, and all clocks lock
(R400, R405, R409). -/
def execComputeRamp (s : State) : Out :=
  if !atStep s 4 then cannot s
  else if s.pwr.warnPin then done (holdFor s .pwrWarnN)
  else if !s.pwr.inputOk then cannot s
  else done (modPwr (toStep s 5) fun x => { x with rails := true, locked := ~~~0 })

/-- GATEHOUSE_IMAGE_LOAD: step 5; on a mismatch the slot is invalid, class 0x72, and the other slot is preferred if it is
valid (R421). -/
def execGatehouseImageLoad (s : State) : Out :=
  if !atStep s 5 then cannot s
  else
    let b := running s
    if Config.sm3 (ghBody b) == ghDigOf b && Config.sm3 (tblBody b) == tblDigOf b then
      done { toStep s 6 with firm := { s.firm with ghDig := ghDigOf b, tblDig := tblDigOf b } }
    else
      let i := s.firm.active.toNat
      let s := logInc (setStat s i 2) { cls := 0x72, source := 3 }
      let s := if slotStat s (1 - i) = 1 then { s with firm := { s.firm with next := BitVec.ofNat 8 (1 - i) } } else s
      done (failStep s 5)

/-- The Bridge links and the twin lanes that trained. -/
def setTrained (s : State) (links : BitVec 20) (lanes : Byte) : State :=
  { s with mesh := { s.mesh with trained := links }, twin := { s.twin with trained := lanes, lanes := lanes } }

/-- Every far-memory port has trained. -/
def trainPorts (s : State) : State := (List.range 48).foldl (fun s p => modPortF s p fun x => { x with trained := true }) s

/-- LINK_TRAINING: step 6; the Bridge links and, with TWIN_MODE = 1, the twin lanes that trained (R247, R294). -/
def execLinkTraining (links : Nat) (lanes : Byte) (s : State) : Out :=
  if !atStep s 6 || decide (2 ^ 20 ≤ links) then cannot s
  else done (setTrained (trainPorts (toStep s 7)) (BitVec.ofNat 20 links) (if s.twin.modeNow then lanes else 0))

/-- A retirement of the flash is applied again: A and B exchange their pages, and B is retired (R197, R199). -/
def reapply (s : State) (e : Nat × Nat) : State :=
  let pa := (getEnt s e.1).ppnDiff ^^^ BitVec.ofNat 18 e.1
  let pb := (getEnt s e.2).ppnDiff ^^^ BitVec.ofNat 18 e.2
  let s := modEnt s e.1 fun x => { x with ppnDiff := pb ^^^ BitVec.ofNat 18 e.1 }
  modEnt s e.2 fun x => { x with ppnDiff := pa ^^^ BitVec.ofNat 18 e.2, ret := true }

/-- Memories as an initialisation leaves them. -/
def Site.initMem (x : Site) : Site := { x with near := [], terr := [], nearMarks := [], terrMarks := [] }

/-- MEMORY_INIT: step 7: PPNs set, retirements re-applied, memory initialised in the mode selected (R197, R226). -/
def execMemoryInit (s : State) : Out :=
  if !atStep s 7 then cannot s
  else
    let s := (skeys s.sites).foldl (fun s n => modSite s n Site.initMem) (toStep s 8)
    let s := { s with far := { s.far with mem := [], marks := [], entries := [], ppnSet := true, swInit := decide (s.far.initMode = 1) } }
    let s := s.repair.retired.foldl reapply s
    done ((List.range 48).foldl (fun s p => modPortF s p fun x => { x with init := true }) s)

/-- BRINGUP_COMPLETE: step 9, held for RESET_N and FENCE_N: the Groundskeepers are enabled and MOD_STAT[0] sets (R404, R405,
R409). -/
def execBringupComplete (s : State) : Out :=
  if !atStep s 9 then cannot s
  else if s.pwr.fencePin then done (holdFor s .fenceN)
  else if s.pwr.resetPin then cannot s
  else
    let s := { s with regs := { s.regs with gkOff := [] } }
    let s := (List.range 2).foldl (fun s d => startLap (startLap s d false) d true) s
    done (dropAlert (modPwr s fun x => { x with bringDone := true, bringStep := 0xFF, seqRun := .none, heldBy := [] }) 5)

/-! ### Objects of this chapter (R396, R413) -/

/-- CLK_HALF: the half's mesh clock switches; no flit is lost (R396). -/
def putClkHalf (s : State) (h v : Nat) : Ack := if v < 4 ∨ 8 < v then deny s ackValue else grant (switchHalf s h v)

/-- ALERT_CLR: causes 0 and 1 clear only at a warm reset, 2 and 4 only once their condition has ended (Table 14-8). -/
def putAlertClr (s : State) (v : Nat) : Ack :=
  if 64 ≤ v then deny s ackValue
  else
    let m := v &&& 0x3C
    let m := if tjWarn s ≤ s.pwr.tj then m &&& 0x38 else m
    let m := if 50000 < s.pwr.vin then m &&& 0x2C else m
    grant (modPwr s fun x => { x with alert := x.alert &&& ~~~BitVec.ofNat 32 m })

end Sys2Proof.Machine
end

