-- ==== Sys2Proof/Machine/Twin.lean ====
section
/-!
DEFINITION. Twin operation: pairing, heartbeats, the boundary exchange with the peer, its loss or fail-stop, and the
rejoin (R286 to R305, R307, R310).
-/

namespace Sys2Proof.Machine

/-! ### What a module says of itself (Table 10-6, R286) -/

/-- The length of the DER element at the head of a list, header included (R425; log 11 [PRESUMED]). -/
def derLen (l : List Byte) : Nat :=
  let n := field l 1 1
  if n < 128 then n + 2 else n - 128 + 2 + beNat (slice l 2 (n - 128))

/-- The DER elements of a list; fuel bounds their number. -/
def derSplit : Nat → List Byte → List (List Byte)
  | 0, _ => []
  | n + 1, l => if l = [] then [] else l.take (derLen l) :: derSplit n (l.drop (derLen l))

/-- The identity certificate: the third of the certificate store (R425). -/
def idCert (s : State) : List Byte := (derSplit 3 s.firm.factoryCerts).getD 2 []

/-- The identity fields of a CONTROL frame: firmware level, stepping and part, certificate digest, LODGE_DIG. -/
def identity (s : State) : List Byte :=
  leBytes 4 (bunLevel (running s)) ++ leBytes 4 (0x768 * 256 + s.firm.stepping.toNat) ++
  beBytes 32 (Config.sm3 (idCert s)).toNat ++ beBytes 32 (lodgeDig (running s)).toNat

/-- The payload of a CONTROL frame. -/
def control (s : State) (op : Byte) : List Byte := [op, 0, 0, 0] ++ identity s

/-- HEARTBEAT: STATE, ROLE, LANES and HBCOUNT. -/
def sendHeartbeat (s : State) : State :=
  let pl := [BitVec.ofNat 8 (twinCode s.twin.st), s.twin.roleNow, s.twin.lanes, 0] ++ leBytes 4 s.twin.hbCount.toNat
  sendUnseq (modTwin s fun x => { x with hbCount := x.hbCount + 1 }) 1 pl

/-- An absent core, or a mapped page in the retirement reserve, keeps the module out of a pair (R286). -/
def unpairable (s : State) : Bool :=
  (s.place.absent.any fun e => e.2) || s.far.entries.any fun e => e.2.v && decide (3836 ≤ e.1 % 3840)

/-- The peer's level, stepping and part, or role do not fit (R286). See log 40 [DEDUCED]. -/
def misfit (s : State) (info : List Byte) (role : Byte) : Bool :=
  role = s.twin.roleNow || info.take 8 ≠ (identity s).take 8

/-! ### Entering and leaving the pair (R296, R298, R305) -/

/-- The twin enters PAIRED: a new EPOCH, in which no mark has been made. -/
def enterPaired (s : State) : State :=
  let s := modTwin s fun x => { x with epoch := x.epoch + 1, rejoinReq := false, copying := false, endSeen := false }
  let s := (List.range 8).foldl (fun s p => modPcl s p fun x => { x with epochBm := 0, rejoinHold := false, peerDigests := [] }) s
  setTwin s .paired

/-- Bring-up goes on to step 9 after the pairing exchange (Table 14-6). -/
def leaveStep8 (s : State) : State := if atStep s 8 then toStep s 9 else s

/-- The pairing is refused: class 0x46 and SOLO (R286). -/
def refusePairing (s : State) : State := leaveStep8 (setTwin (logInc s { cls := 0x46 }) .solo)

/-- Both PAIR-ACKs have passed (R296). -/
def tryPaired (s : State) : State :=
  if s.twin.st = .pairing && s.twin.pairAckGot && s.twin.pairAckSent then leaveStep8 (enterPaired s) else s

/-- A peer that is gone no longer holds up marks, and nothing is replayed to it. -/
def partWays (s : State) : State := releaseMarks (freshLink s)

/-- The rejoin fails, is refused or is cancelled: class 0x47; the survivor goes back to its previous state and its parcels
go on; a target waits for a warm reset (R302, R304, Table 10-7). -/
def failRejoin (s : State) : State :=
  let s := modTwin (logInc s { cls := 0x47 }) fun x => { x with copying := false, rejoinReq := false, endSeen := false }
  if s.twin.st = .rejoinSource then
    let s := (List.range 8).foldl (fun s p => if (getPcl s p).rejoinHold then modPcl s p fun x => { x with rejoinHold := false } else s) s
    setTwin (freshLink s) s.twin.prev
  else s

/-- The peer is lost (R294, R297, R304, Table 10-8). -/
def losePeer (s : State) : State :=
  let s := modTwin s fun x => { x with peerHb := none }
  match s.twin.st with
  | .paired => partWays (setTwin (logInc s { cls := 0x40 }) .lost)
  | .rejoinSource => failRejoin s
  | .rejoinTarget => if s.twin.copying then failRejoin s else s
  | _ => s

/-- PEER_LOST: 50 µs without a valid HEARTBEAT (R294). -/
def execPeerLost (s : State) : Out := if s.pwr.lodgeUp && !s.pwr.halt then done (losePeer s) else cannot s

/-! ### What a rejoin sends (R303, Table 10-9; layouts below those of Table 10-6 are the model's, log 36 [DESIGN CHOICE]) -/

/-- 4 KiB blocks of a page. -/
def pageBlocks : Nat := 4096

/-- The blocks of a page whose bytes are not all zero. -/
def liveBlocks (s : State) (fpn : Nat) : List Nat :=
  let base := entPpn s fpn * pageBlocks
  (List.range pageBlocks).filter fun b => s.far.mem.any fun c => c.1 / 4096 = base + b

/-- Runs of consecutive numbers in a rising list: first and length. -/
def runsOf : List Nat → List (Nat × Nat)
  | [] => []
  | b :: t =>
    match runsOf t with
    | (c, n) :: r => if c = b + 1 then (b, n + 1) :: r else (b, 1) :: (c, n) :: r
    | [] => [(b, 1)]

/-- Data in pieces of 236 bytes, the last one padded with zeros (R293); fuel is their number. -/
def twinPieces : Nat → List Byte → List (List Byte)
  | 0, _ => []
  | n + 1, l => fit 236 (l.take 236) :: twinPieces n (l.drop 236)

/-- A STATE header and its STATE-DATA frames: SUBTYPE, place, offset, data (R303). -/
def stateMsg (sub place off : Nat) (data : List Byte) : List (Byte × List Byte) :=
  (4, [BitVec.ofNat 8 sub, 0, 0, 0] ++ leBytes 4 place ++ leBytes 4 off ++ leBytes 4 data.length) ::
    (twinPieces ((data.length + 235) / 236) data).map fun d => (6, d)

/-- Bytes of a page's blocks as memory holds them. -/
def blockBytes (s : State) (fpn first n : Nat) : List Byte :=
  mrdN s.far.mem (entPpn s fpn * 2 ^ 24 + first * 4096) (n * 4096)

/-- The pages with V = 1. -/
def livePages (s : State) : List Nat := (skeys s.far.entries).filter fun f => (getEnt s f).v

/-- SUBTYPE 1 for every live page. -/
def pageMsgs (s : State) : List (Byte × List Byte) :=
  (livePages s).flatMap fun f => (runsOf (liveBlocks s f)).flatMap fun r => stateMsg 1 f r.1 (blockBytes s f r.1 r.2)

/-- SUBTYPE 2: the entry words of every FPN, then the seal table of each parcel. -/
def cadData (s : State) : List Byte :=
  ((List.range fpnMax).flatMap fun f => leBytes 8 (entWord s f).toNat) ++
  (List.range 8).flatMap fun p => leBytes 4 (sget [] s.far.seals p).length ++
    (sget [] s.far.seals p).flatMap fun e => leBytes 4 e.1 ++ leBytes 4 e.2

/-- Parts of a site image: terrace, near memory, WGA, WDATUM, tables, operand store. -/
def imgNear : Nat := terrSize
def imgWga : Nat := imgNear + 0x200000
def imgDatum : Nat := imgWga + 262144 * 12
def imgTables : Nat := imgDatum + 4
def imgOps : Nat := imgTables + 6272
def imgEnd : Nat := imgOps + 4096

/-- The site image of a logical core: its terrace, and what its compute part's site holds. -/
def siteImage (s : State) (c : Nat) : List Byte :=
  let x := getCore s c
  mrdN (getSite s (tsite s c)).terr 0 terrSize ++ mrdN x.near 0 0x200000 ++
  ((List.range 262144).flatMap fun i => dafBytes (sget 0 x.wga.elems i)) ++ leBytes 4 x.wga.datum.toNat ++
  mrdN x.tables 0 3136 ++ mrdN x.tables 4096 3136 ++ (List.range 1024).flatMap fun i => leBytes 4 (sget 0 x.operands i).toNat

/-- A staged setting in 16 bytes. -/
def stageBytes (e : StageKey × Nat) : List Byte :=
  let k : Nat × Nat × Nat := match e.1 with
    | .operand a b => (0, a, b)
    | .object a b => (1, a, b)
    | .beds => (2, 0, 0)
    | .beacons d => (3, d, 0)
    | .clkBed b => (4, b, 0)
  [BitVec.ofNat 8 k.1, 0] ++ leBytes 4 k.2.1 ++ leBytes 2 k.2.2 ++ leBytes 8 e.2

/-- The parcel's part of a site image: its setting-up, THGEN and mark counts, its blocks' beacons, its staged settings. -/
def parcelImage (s : State) (p : Nat) : List Byte :=
  let x := getPcl s p
  let bs := s.mesh.beacons.filter fun e => beaconOwned s p e.1
  leBytes 4 p ++ leBytes 1 (pclCode x.st) ++ leBytes 1 x.port ++ [x.replayLimit, x.compat] ++ leBytes 4 x.beds.toNat ++
  leBytes 2 x.tally.toNat ++ [0, 0] ++ leBytes 8 x.alloc0.toNat ++ leBytes 8 x.alloc1.toNat ++ leBytes 8 x.thArea.toNat ++
  leBytes 4 x.thgen.toNat ++ leBytes 8 x.bmarks.toNat ++ leBytes 8 x.epochBm.toNat ++ leBytes 8 x.agreed.toNat ++
  leBytes 4 bs.length ++ leBytes 4 x.staged.length ++ (bs.flatMap fun e => leBytes 4 e.1 ++ leBytes 4 e.2.toNat) ++
  x.staged.flatMap stageBytes

/-- Sites of a parcel's beds whose terrace is no logical core's: idle sites as they were before (R27, R184). -/
def idleTerraces (s : State) (p : Nat) : List Nat :=
  let own := (pclLive s p).map (tsite s)
  ((pclBeds s p).flatMap fun b => (List.range 25).map (bedSite b)).filter fun n => decide (n ∉ own)

/-- SUBTYPE 3 for every site of a parcel, named by physical site; the logical core follows the image, and of a site that
is none's the image is its terrace (log 36 [DESIGN CHOICE]). -/
def siteMsgs (s : State) : List (Byte × List Byte) :=
  ((List.range 8).filter (pclThere s)).flatMap fun p =>
    ((pclLive s p).flatMap fun c => stateMsg 3 (csite s c) 0 (siteImage s c ++ leBytes 4 c ++ parcelImage s p)) ++
    (idleTerraces s p).flatMap fun n => stateMsg 3 n 0 (mrdN (getSite s n).terr 0 terrSize)

/-- Every frame of the copy, REJOIN-DONE last. -/
def copyMsgs (s : State) : List (Byte × List Byte) :=
  pageMsgs s ++ stateMsg 2 0 0 (cadData s) ++ siteMsgs s ++ stateMsg 4 0 0 [] ++ [(5, control s 6)]

/-- Every parcel has stopped at a mark, every context is IDLE and every Cairn empty (R302). -/
def copyReady (s : State) : Bool :=
  ((List.range 8).filter (pclThere s)).all fun p =>
    ((getPcl s p).st ≠ .active || (getPcl s p).rejoinHold) &&
    (pclLive s p).all fun c => (getCore s c).cairn.depth = 0 && (List.range 4).all fun k => (getCtx s c k).st = .idle

/-- The copy starts once the rejoin need wait no longer; this is looked at with each HEARTBEAT (log 36 [DESIGN CHOICE]). -/
def startCopy (s : State) : State :=
  if s.twin.st = .rejoinSource && !s.twin.copying && copyReady s then
    sendSeqs (modTwin s fun x => { x with copying := true, rejoinPages := BitVec.ofNat 32 (livePages s).length }) (copyMsgs s)
  else s

/-- REJOIN-DONE has been acknowledged: every frame of the copy has (R305). -/
def afterAck (s : State) : State :=
  if s.twin.st = .rejoinSource && s.twin.copying && s.twin.txQueue = [] && s.twin.replay = [] then enterPaired s else s

/-! ### What a rejoin's target takes (R303, R304) -/

/-- The words of Cadastre entries: all but PPN and RET, and ZPEND. -/
def takeEntry (s : State) (fpn w : Nat) : State :=
  if w % 2 ^ 38 / 2 ^ 22 = 0 && getEnt s fpn = {} then s
  else modEnt s fpn fun e =>
    { e with lov := bit w 37, zneed := bit w 36, lastown := BitVec.ofNat 3 (bits w 33 3), dirty := bit w 30, hw := bit w 29,
             hr := bit w 28, cw := bit w 27, cr := bit w 26, v := bit w 25, owner := BitVec.ofNat 3 (bits w 22 3) }

/-- The pairs of numbers of a seal table. -/
def sealPairs (d : List Byte) (off n : Nat) : List (Nat × Nat) :=
  (List.range n).map fun i => (field d (off + 8 * i) 4, field d (off + 8 * i + 4) 4)

/-- The seal tables of the parcels in order. -/
def takeSeals (d : List Byte) : List Nat → Nat → State → State
  | [], _, s => s
  | p :: ps, off, s =>
    let n := field d off 4
    takeSeals d ps (off + 4 + 8 * n) { s with far := { s.far with seals := sset [] s.far.seals p (sealPairs d (off + 4) n) } }

/-- A live page of the survivor is retired or in the reserve here (R304). -/
def clashes (s : State) (d : List Byte) : Bool :=
  (List.range fpnMax).any fun f => bit (field d (8 * f) 8) 25 && ((getEnt s f).ret || decide (3836 ≤ f % 3840))

/-- SUBTYPE 2: refused, the survivor told by UNPAIR, or taken (log 36 [DESIGN CHOICE]). -/
def takeCad (s : State) (d : List Byte) : State :=
  if clashes s d then sendSeq (failRejoin s) 5 (control s 3)
  else
    takeSeals d (List.range 8) (8 * fpnMax) ((List.range fpnMax).foldl (fun s f => takeEntry s f (field d (8 * f) 8)) s)

/-- A staged setting from its 16 bytes. -/
def stageOf (d : List Byte) (off : Nat) : StageKey × Nat :=
  let a := field d (off + 2) 4
  let b := field d (off + 6) 2
  let k : StageKey := match field d off 1 with
    | 0 => .operand a b
    | 1 => .object a b
    | 2 => .beds
    | 3 => .beacons a
    | _ => .clkBed a
  (k, field d (off + 8) 8)

/-- A parcel's state by its code. -/
def pclOfCode : Nat → PclSt
  | 1 => .active
  | 2 => .inReset
  | 3 => .stopped
  | _ => .absent

/-- The parcel's part of a site image takes effect. -/
def takeParcel (s : State) (d : List Byte) : State :=
  let p := field d 0 4 % 8
  let nb := field d 68 4
  let ns := field d 72 4
  let s := modPcl s p fun x =>
    { x with st := pclOfCode (field d 4 1), port := field d 5 1 % 4, replayLimit := BitVec.ofNat 8 (field d 6 1),
             compat := BitVec.ofNat 8 (field d 7 1), beds := BitVec.ofNat 32 (field d 8 4), tally := BitVec.ofNat 16 (field d 12 2),
             alloc0 := BitVec.ofNat 64 (field d 16 8), alloc1 := BitVec.ofNat 64 (field d 24 8),
             thArea := BitVec.ofNat 64 (field d 32 8), thgen := BitVec.ofNat 32 (field d 40 4),
             bmarks := BitVec.ofNat 64 (field d 44 8), epochBm := BitVec.ofNat 64 (field d 52 8),
             agreed := BitVec.ofNat 64 (field d 60 8),
             staged := (List.range ns).map fun i => stageOf d (76 + 8 * nb + 16 * i) }
  let bs := (List.range nb).foldl (fun m i => sset 0 m (field d (76 + 8 * i) 4) (BitVec.ofNat 32 (field d (80 + 8 * i) 4)))
    (s.mesh.beacons.filter fun e => !beaconOwned s p e.1)
  shadowBeacons { s with mesh := { s.mesh with beacons := bs } } p

/-- SUBTYPE 3: the image goes to this module's own sites of the logical core; a terrace alone, to the site named. -/
def takeSite (s : State) (n : Nat) (d : List Byte) : State :=
  if d.length = terrSize then terrWrite s (n % 800) 0 d
  else
  let c := field d imgEnd 4 % 768
  let s := terrWrite s (tsite s c) 0 (slice d 0 terrSize)
  let s := nearWrite s (csite s c) 0 (slice d imgNear 0x200000)
  let tabs := mwrN (mwrN [] 0 (slice d imgTables 3136)) 4096 (slice d (imgTables + 3136) 3136)
  let els := (List.range 262144).foldl (fun m i => sset 0 m i (BitVec.ofNat 96 (field d (imgWga + 12 * i) 12))) []
  let ops := (List.range 1024).foldl (fun m i => sset 0 m i (BitVec.ofNat 32 (field d (imgOps + 4 * i) 4))) []
  let s := modCore s c fun x =>
    { x with wga := { x.wga with elems := els, datum := BitVec.ofNat 10 (field d imgDatum 2) }, tables := tabs, operands := ops }
  takeParcel s (d.drop (imgEnd + 4))

/-- All the data of a header has come, and takes effect. -/
def takeState (s : State) (h d : List Byte) : State :=
  match field h 0 1 with
  | 1 => farPut s (field h 4 4 * 2 ^ 24 + field h 8 4 * 4096) d
  | 2 => takeCad s d
  | 3 => takeSite s (field h 4 4) d
  | _ => s

/-! ### Frames (R291 to R298) -/

/-- A frame with NAK asks for a replay from ACK + 1 (R292); after eight of a frame the peer is lost (R294). -/
def heedNak (f : List Byte) (s : State) : State :=
  if frameOk s f && bit (field f 1 1) 1 then
    let s := dropAcked s (BitVec.ofNat 32 (field f 12 4))
    if triedOut s then losePeer s else replayFrames s
  else s

/-- A row of the twin link: a frame of its TYPE (and OPCODE) arrives on a link that is up. -/
def twinRow (type : Nat) (op : Option Nat) (f : List Byte) (s : State) (g : State → State) : Out :=
  let other := match op with
    | none => false
    | some o => decide (ctlOp f ≠ o)
  if !twinUp s || field f 0 1 ≠ type || other then cannot s else done (afterAck (takeFrame f (heedNak f s) g))

/-- The PAIR of a peer whose role a HEARTBEAT has shown is checked and answered (R286, R296; log 35 [DEDUCED]). -/
def answerPair (s : State) : State :=
  match s.twin.peerHb with
  | none => s
  | some (_, role) =>
    if s.twin.st ≠ .pairing ∨ s.twin.peerInfo = [] then s
    else if misfit s s.twin.peerInfo role || unpairable s then refusePairing s
    else tryPaired (sendUnseq (modTwin s fun x => { x with pairAckSent := true }) 5 (control s 2))

/-- HEARTBEAT: the peer's STATE and ROLE (R294, R297). -/
def execHeartbeat (f : List Byte) (s : State) : Out :=
  twinRow 1 none f s fun s =>
    let first := s.twin.peerHb = none
    let s := modTwin s fun x => { x with peerHb := some (BitVec.ofNat 8 (field f 16 1), BitVec.ofNat 8 (field f 17 1)) }
    if first then answerPair s else s

/-- HEARTBEAT_TIMER: each twin sends a HEARTBEAT (R294). -/
def execHeartbeatTimer (s : State) : Out :=
  if !twinUp s || s.twin.st = .solo || s.twin.st = .failStopped then cannot s else done (startCopy (sendHeartbeat s))

/-- DIGEST: the peer's, kept until this module's mark is formed (R298). -/
def execDigest (f : List Byte) (s : State) : Out :=
  twinRow 2 none f s fun s =>
    let p := field f 16 1
    if s.twin.st = .paired ∧ p < 8 then
      compareMark (modPcl s p fun x => { x with peerDigests := x.peerDigests ++ [(BitVec.ofNat 64 (field f 20 8), slice f 28 32)] }) p
    else s

/-- DIGEST_TIMEOUT: class 0x44, UNPAIR, and LOST (R298, Table 10-8). -/
def execDigestTimeout (p : Nat) (s : State) : Out :=
  if s.twin.st = .paired ∧ p < 8 ∧ (getPcl s p).mark.phase = .exchange then
    let s := logInc s { cls := 0x44, parcel := some p, domain := 56 + pclDie s p }
    done (releaseMarks (setTwin (sendSeq s 5 (control s 3)) .lost))
  else cannot s

/-- FAILSTOP: the peer has stopped (R295, R304, Table 10-8). -/
def execFailstop (f : List Byte) (s : State) : Out :=
  twinRow 3 none f s fun s =>
    match s.twin.st with
    | .paired => partWays (setTwin (logInc s { cls := 0x42 }) .survivor)
    | .rejoinSource => failRejoin s
    | .rejoinTarget => if s.twin.copying then failRejoin s else s
    | _ => s

/-- FAILSTOP_REPEAT (R295). -/
def execFailstopRepeat (s : State) : Out :=
  if s.twin.st = .failStopped && s.twin.failMsg.isSome && twinUp s then done (sendAll s 3 (failPayload s)) else cannot s

/-- STATE: a header of the copy (R303); a page that begins is counted. -/
def execTwinState (f : List Byte) (s : State) : Out :=
  twinRow 4 none f s fun s =>
    if s.twin.st ≠ .rejoinTarget ∨ s.twin.copying = false then s
    else
      let h := slice f 16 16
      let old := s.twin.stateHdr
      let new := field h 0 1 = 1 && (field old 0 1 ≠ 1 || field old 4 4 ≠ field h 4 4)
      modTwin s fun x =>
        { x with stateHdr := h, stateData := [], endSeen := x.endSeen || decide (field h 0 1 = 4),
                 rejoinPages := if new then x.rejoinPages + 1 else x.rejoinPages }

/-- STATE_DATA: 236 bytes more of what the header announced (R293). -/
def execStateData (f : List Byte) (s : State) : Out :=
  twinRow 6 none f s fun s =>
    let n := field s.twin.stateHdr 12 4
    if s.twin.st ≠ .rejoinTarget ∨ s.twin.copying = false ∨ n ≤ s.twin.stateData.length then s
    else
      let d := s.twin.stateData ++ slice f 16 236
      let s := modTwin s fun x => { x with stateData := d.take n }
      if n ≤ d.length then takeState s s.twin.stateHdr (d.take n) else s

/-- PAIR: TWIN_PEER holds its identity fields, and it is answered (R286, R296). A survivor does not answer (R297). -/
def execPair (f : List Byte) (s : State) : Out :=
  twinRow 5 (some 1) f s fun s =>
    if s.twin.st = .pairing then answerPair (modTwin s fun x => { x with peerInfo := slice f 20 72 }) else s

/-- PAIR-ACK (R296). -/
def execPairAck (f : List Byte) (s : State) : Out :=
  twinRow 5 (some 2) f s fun s =>
    if s.twin.st = .pairing then tryPaired (modTwin s fun x => { x with pairAckGot := true }) else s

/-- UNPAIR: the peer has left the pair, and is lost to this module (R298, log 35 [DEDUCED]). -/
def execUnpair (f : List Byte) (s : State) : Out := twinRow 5 (some 3) f s losePeer

/-- REJOIN-OFFER: in PAIRING with the survivor known by its HEARTBEAT. A module offering that does not fit is refused with
class 0x46 (R297), what is amiss here with 0x47 (R304); else the EPOCH is taken over and the offer accepted. -/
def execRejoinOffer (f : List Byte) (s : State) : Out :=
  twinRow 5 (some 4) f s fun s =>
    if s.twin.st ≠ .pairing then s
    else
      let role := match s.twin.peerHb with
        | some (_, r) => r
        | none => s.twin.roleNow
      if misfit s (slice f 20 72) role then logInc s { cls := 0x46 }
      else if unpairable s then logInc s { cls := 0x47 }
      else
        let s := modTwin s fun x => { x with epoch := BitVec.ofNat 16 (field f 4 2), peerInfo := slice f 20 72, copying := true, lanes := x.trained,
                                             endSeen := false, stateHdr := [], stateData := [], rejoinPages := 0 }
        setTwin (sendSeq s 5 (control s 5)) .rejoinTarget

/-- REJOIN-ACCEPT: the survivor's parcels stop at their next marks, and the copy follows (R297, R302). -/
def execRejoinAccept (f : List Byte) (s : State) : Out :=
  twinRow 5 (some 5) f s fun s =>
    if s.twin.rejoinReq && (s.twin.st = .survivor || s.twin.st = .lost) then
      setTwin (modTwin s fun x => { x with prev := x.st, rejoinReq := false, copying := false }) .rejoinSource
    else s

/-- REJOIN-DONE: the target acknowledges it in a HEARTBEAT, and enters PAIRED (R305). -/
def execRejoinDone (f : List Byte) (s : State) : Out :=
  twinRow 5 (some 6) f s fun s =>
    if s.twin.st = .rejoinTarget && s.twin.copying && s.twin.endSeen then leaveStep8 (enterPaired (sendHeartbeat s)) else s

/-- TWIN_FRAME_REPLAY: from ACK + 1 on; a frame's ninth time the peer is lost (R292, R294). -/
def execTwinFrameReplay (s : State) : Out :=
  if !twinUp s || s.twin.replay = [] then cannot s
  else if triedOut s then done (losePeer s)
  else done (replayFrames s)

/-- LANE_DROP: class 0x45; its uncorrectable codewords, more than 16, are counted (R294, log 4 [DESIGN CHOICE]). -/
def execLaneDrop (lane : Nat) (s : State) : Out :=
  if lane < 8 ∧ s.twin.lanes.getLsbD lane ∧ s.pwr.lodgeUp then
    let (v, s) := takeFree s
    let s := bump s twnBlock 4 (17 + v.toNat)
    done (modTwin (logInc s { cls := 0x45, detail := BitVec.ofNat 32 lane }) fun x => { x with lanes := x.lanes &&& ~~~(2 ^ lane) })
  else cannot s

/-! ### Pairing at bring-up (R286, R296, Table 14-6 step 8) -/

/-- PAIRING: a module that is to run solo goes on; one that cannot be in a pair stays SOLO; else the exchange begins with a
PAIR, which is sent again each time this comes about (log 35 [DEDUCED]). -/
def execPairing (s : State) : Out :=
  if !atStep s 8 then cannot s
  else if s.twin.st = .pairing then done (sendUnseq s 5 (control s 1))
  else if s.twin.st ≠ .solo then cannot s
  else if !s.twin.modeNow then done (toStep s 9)
  else if unpairable s then done (refusePairing s)
  else
    let s := freshLink s
    let s := modTwin s fun x => { x with lanes := x.trained, peerHb := none, peerInfo := [], pairSent := true,
                                         pairAckSent := false, pairAckGot := false }
    done (sendUnseq (setTwin s .pairing) 5 (control s 1))

/-- The peer's HEARTBEAT shows a survivor of the other role: the limit of 10 s is suspended (R297). -/
def awaitsRejoin (s : State) : Bool := match s.twin.peerHb with
  | some (st, role) => (st = 3 || st = 4) && role ≠ s.twin.roleNow
  | none => false

/-- PAIRING_TIMEOUT: 10 s without PAIR-ACK (R296): class 0x46 and SOLO. -/
def execPairingTimeout (s : State) : Out :=
  if s.twin.st = .pairing && !awaitsRejoin s then done (refusePairing s) else cannot s

/-! ### REJOIN_REQ (R302, Table 10-11) -/

/-- REJOIN_REQ: 1 offers a rejoin from SURVIVOR or LOST; 2 cancels one before its copy starts. -/
def putRejoin (s : State) (v : Nat) : Ack :=
  let alone := s.twin.st = .survivor || s.twin.st = .lost
  if v = 1 then
    if !alone || s.pwr.failStopped then deny s ackState
    else
      let s := modTwin (freshLink s) fun x => { x with rejoinReq := true, lanes := x.trained }
      grant (sendSeq s 5 (control s 4))
  else if v = 2 then
    if s.twin.st = .rejoinSource && !s.twin.copying then
      -- UNPAIR tells the target (log 36 [DESIGN CHOICE])
      grant (failRejoin (sendSeq s 5 (control s 3)))
    else if alone && s.twin.rejoinReq then grant (failRejoin s)
    else deny s ackState
  else deny s ackValue

end Sys2Proof.Machine
end

