-- ==== Sys2Proof/Machine/Objects.lean ====
section
/-!
DEFINITION. The objects of the dictionary: their types, access, scopes and owners, their values, what a write to each does,
and the rows that write objects of their own (R356 to R358, R361 to R365, R381, R382, R388, R389, Tables 8-6, 9-9, 10-11, 11-2, 12-8
to 12-10, 13-12, 13-13, 14-8, 15-4).
-/

namespace Sys2Proof.Machine

/-! ### The index map (R356, R358, R361, Table 12-8) -/

/-- How an object's value is sized (Table 12-4). -/
inductive ObjTyp where
  | fixed (n : Nat)
  | str
  | domain
  deriving DecidableEq, Repr

/-- Access codes of objects (R357). -/
inductive ObjAcc where
  | ro | rw | wo | const | rws
  deriving DecidableEq, Repr

/-- The Scope column (R358): the management port alone, hosts too, or the parcel's owner too. -/
inductive ObjScope where
  | mgmt | host | owner
  deriving DecidableEq, Repr

/-- What names the parcel of an object (R357, R358). -/
inductive ObjPcl where
  | none | block | sub | bed
  deriving DecidableEq, Repr

/-- A row of the object tables; a parcel's or an indexed row is listed at its first index. -/
structure ObjRow where
  idx : Nat
  lo : Nat
  hi : Nat
  typ : ObjTyp
  acc : ObjAcc
  scope : ObjScope
  own : ObjPcl := .none
  deriving DecidableEq, Repr

/-- Table 12-9. -/
def rowsIdentity : List ObjRow :=
  [⟨0x1000, 0, 0, .str, .const, .host, .none⟩, ⟨0x1001, 0, 0, .str, .const, .host, .none⟩,
   ⟨0x1002, 0, 0, .fixed 1, .const, .host, .none⟩, ⟨0x1003, 0, 0, .str, .const, .host, .none⟩,
   ⟨0x1004, 0, 1, .fixed 4, .ro, .host, .none⟩, ⟨0x1005, 0, 1, .fixed 4, .ro, .host, .none⟩,
   ⟨0x1006, 0, 0, .fixed 1, .ro, .host, .none⟩, ⟨0x1007, 0, 0, .fixed 4, .ro, .host, .none⟩,
   ⟨0x1008, 0, 0, .fixed 2, .const, .host, .none⟩, ⟨0x1010, 0, 0, .fixed 6, .const, .mgmt, .none⟩,
   ⟨0x1011, 0, 0, .fixed 16, .ro, .host, .none⟩, ⟨0x1012, 0, 0, .fixed 1, .rw, .mgmt, .none⟩,
   ⟨0x1013, 0, 0, .fixed 1, .rw, .mgmt, .none⟩, ⟨0x1014, 0, 0, .fixed 1, .rw, .mgmt, .none⟩,
   ⟨0x1015, 0, 0, .fixed 16, .rw, .mgmt, .none⟩, ⟨0x1016, 0, 0, .fixed 4, .rw, .mgmt, .none⟩,
   ⟨0x1017, 0, 5, .fixed 4, .ro, .host, .none⟩, ⟨0x1018, 0, 0, .fixed 1, .rw, .mgmt, .none⟩]

/-- Tables 9-9, 10-11, 11-2, 12-10: the parcel blocks. -/
def rowsParcel : List ObjRow :=
  [⟨0x1100, 0, 3, .fixed 4, .ro, .host, .none⟩, ⟨0x2000, 0, 0, .fixed 1, .ro, .host, .block⟩,
   ⟨0x2001, 0, 0, .fixed 1, .rw, .mgmt, .block⟩, ⟨0x2002, 0, 0, .fixed 4, .rws, .mgmt, .block⟩,
   ⟨0x2003, 0, 0, .fixed 1, .wo, .mgmt, .block⟩, ⟨0x2004, 0, 0, .fixed 8, .ro, .host, .block⟩,
   ⟨0x2005, 0, 0, .fixed 8, .ro, .host, .block⟩, ⟨0x2006, 0, 0, .fixed 1, .rws, .owner, .block⟩,
   ⟨0x2040, 0, 1, .fixed 8, .rws, .mgmt, .block⟩, ⟨0x2041, 0, 0, .fixed 4, .ro, .host, .block⟩,
   ⟨0x2050, 0, 0, .fixed 1, .rws, .mgmt, .block⟩, ⟨0x2051, 0, 0, .fixed 4, .ro, .host, .block⟩]

/-- Tables 8-6, 9-9, 10-11. -/
def rowsRepair : List ObjRow :=
  [⟨0x3010, 0, 0, .fixed 1, .rw, .mgmt, .none⟩, ⟨0x3011, 0, 0, .fixed 1, .rw, .mgmt, .none⟩,
   ⟨0x3020, 0, 0, .fixed 4, .rw, .mgmt, .none⟩, ⟨0x3021, 0, 0, .fixed 4, .rw, .mgmt, .none⟩,
   ⟨0x3022, 0, 0, .fixed 4, .rw, .mgmt, .none⟩, ⟨0x3023, 0, 0, .fixed 4, .rw, .mgmt, .none⟩,
   ⟨0x3024, 0, 1, .fixed 4, .ro, .host, .none⟩, ⟨0x3025, 0, 1, .fixed 4, .ro, .host, .none⟩,
   ⟨0x6000, 0, 0, .domain, .ro, .host, .none⟩, ⟨0x6001, 0, 0, .fixed 4, .ro, .host, .none⟩,
   ⟨0x6002, 0, 0, .fixed 4, .rw, .mgmt, .none⟩, ⟨0x6003, 0, 0, .fixed 4, .ro, .host, .none⟩,
   ⟨0x6100, 1, 0x7F, .fixed 4, .rw, .mgmt, .none⟩, ⟨0x9010, 0, 0, .fixed 1, .rw, .mgmt, .none⟩,
   ⟨0x9011, 0, 0, .fixed 1, .rw, .mgmt, .none⟩, ⟨0x9020, 0, 0, .fixed 2, .ro, .host, .none⟩,
   ⟨0x9021, 0, 0, .fixed 2, .ro, .host, .none⟩, ⟨0x9022, 0, 0, .fixed 2, .wo, .mgmt, .none⟩,
   ⟨0x9030, 0, 1, .fixed 2, .ro, .host, .none⟩, ⟨0x9031, 0, 0, .fixed 4, .ro, .host, .none⟩,
   ⟨0x9032, 0, 0, .fixed 4, .ro, .host, .none⟩, ⟨0x5000, 0, 0, .fixed 1, .rw, .mgmt, .none⟩,
   ⟨0x5001, 0, 0, .fixed 1, .rw, .mgmt, .none⟩, ⟨0x5002, 0, 0, .fixed 1, .ro, .host, .none⟩,
   ⟨0x5003, 0, 0, .fixed 2, .ro, .host, .none⟩, ⟨0x5004, 0, 0, .fixed 1, .ro, .host, .none⟩,
   ⟨0x5005, 0, 0, .fixed 4, .rw, .mgmt, .none⟩, ⟨0x5006, 0, 0, .fixed 1, .wo, .mgmt, .none⟩,
   ⟨0x5007, 0, 0, .fixed 4, .ro, .host, .none⟩, ⟨0x5008, 0, 0, .fixed 72, .ro, .host, .none⟩,
   ⟨0x5010, 0, 7, .fixed 8, .ro, .host, .sub⟩]

/-- Tables 12-10, 13-12, 13-13, 14-8, 15-4. -/
def rowsRest : List ObjRow :=
  [⟨0x4000, 0, 0x1F, .fixed 1, .rws, .owner, .bed⟩, ⟨0x4001, 0, 3, .fixed 1, .rw, .mgmt, .none⟩,
   ⟨0x4002, 0, 0, .domain, .ro, .host, .none⟩, ⟨0x4010, 0, 0, .fixed 4, .ro, .host, .none⟩,
   ⟨0x4011, 0, 0, .fixed 4, .ro, .host, .none⟩, ⟨0x4012, 0, 0, .fixed 4, .ro, .host, .none⟩,
   ⟨0x4013, 0, 0, .fixed 4, .ro, .host, .none⟩, ⟨0x4014, 0, 0, .fixed 4, .rw, .mgmt, .none⟩,
   ⟨0x4015, 0, 0, .fixed 4, .const, .host, .none⟩, ⟨0x4020, 0, 0, .fixed 2, .wo, .mgmt, .none⟩,
   ⟨0x4021, 0, 0, .fixed 1, .ro, .host, .none⟩, ⟨0x4022, 0, 0, .fixed 1, .ro, .host, .none⟩,
   ⟨0x4023, 0, 0, .fixed 4, .ro, .host, .none⟩, ⟨0x4024, 0, 0, .fixed 4, .wo, .mgmt, .none⟩,
   ⟨0x9000, 0, 0, .domain, .ro, .host, .none⟩, ⟨0x9001, 0, 1, .fixed 2, .ro, .host, .none⟩,
   ⟨0x9002, 0, 0, .fixed 2, .wo, .mgmt, .none⟩, ⟨0x9003, 0, 0, .fixed 96, .ro, .host, .none⟩,
   ⟨0xA000, 0, 7, .fixed 2, .rws, .owner, .sub⟩, ⟨0xA001, 0, 7, .fixed 8, .rws, .owner, .sub⟩,
   ⟨0xA002, 0, 7, .fixed 4, .ro, .owner, .sub⟩, ⟨0xA003, 0, 7, .fixed 2, .ro, .owner, .sub⟩,
   ⟨0xA010, 0, 0, .domain, .ro, .owner, .block⟩, ⟨0xA100, 0, 7, .fixed 32, .ro, .owner, .sub⟩,
   ⟨0xA110, 0, 0, .domain, .ro, .owner, .block⟩, ⟨0x7000, 0, 0, .fixed 4, .wo, .mgmt, .none⟩,
   ⟨0x7001, 0, 7, .fixed 4, .wo, .owner, .sub⟩, ⟨0x7002, 0, 0, .fixed 4, .ro, .host, .none⟩,
   ⟨0x7003, 0, 0, .fixed 4, .ro, .host, .none⟩, ⟨0x7004, 0, 0, .domain, .ro, .host, .none⟩,
   ⟨0x7010, 0, 0, .fixed 8, .rw, .host, .none⟩, ⟨0x8000, 0, 0, .domain, .wo, .mgmt, .none⟩,
   ⟨0x8001, 0, 1, .fixed 1, .ro, .host, .none⟩, ⟨0x8002, 0, 0, .fixed 1, .rw, .mgmt, .none⟩,
   ⟨0x8003, 0, 0, .fixed 1, .ro, .host, .none⟩, ⟨0x8004, 0, 0, .fixed 1, .wo, .mgmt, .none⟩,
   ⟨0x8005, 0, 0, .fixed 1, .ro, .host, .none⟩, ⟨0x8010, 0, 0, .domain, .ro, .host, .none⟩,
   ⟨0x8011, 0, 0, .fixed 64, .ro, .host, .none⟩, ⟨0x8020, 0, 0, .domain, .wo, .host, .none⟩,
   ⟨0x8021, 0, 0, .domain, .ro, .host, .none⟩, ⟨0x8030, 0, 0, .fixed 32, .wo, .host, .none⟩,
   ⟨0x8031, 0, 0, .fixed 364, .ro, .host, .none⟩]

/-- The row index of an object index, and the parcel that the index names. -/
def objKey (idx : Nat) : Nat × Nat :=
  if 0x2000 ≤ idx ∧ idx < 0x2800 then (0x2000 + idx % 256, (idx - 0x2000) / 256)
  else if 0xA010 ≤ idx ∧ idx < 0xA018 then (0xA010, idx - 0xA010)
  else if 0xA110 ≤ idx ∧ idx < 0xA118 then (0xA110, idx - 0xA110)
  else (idx, 0)

/-- The row of an object, or the status that refuses it (R361). -/
def findObj (idx sub : Nat) : Except Nat ObjRow :=
  match (rowsIdentity ++ rowsParcel ++ rowsRepair ++ rowsRest).find? fun r => r.idx = (objKey idx).1 with
  | none => .error ackNoObject
  | some r => if r.lo ≤ sub ∧ sub ≤ r.hi then .ok r else .error ackNoSub

/-- The parcel that an object belongs to, if it belongs to one. -/
def objParcel (s : State) (r : ObjRow) (idx sub : Nat) : Option Nat :=
  match r.own with
  | .none => none
  | .block => some (objKey idx).2
  | .sub => some sub
  | .bed => bedParcel s sub

/-- The source may reach the object (R358, R359): among hosts, a parcel's object is its owner's alone, whatever its Scope
column says. -/
def scopeOk (s : State) (src : Requester) (r : ObjRow) (idx sub : Nat) : Bool :=
  match src with
  | .mgmt _ => true
  | .hostWin k =>
    let owner (p : Nat) : Bool := pclThere s p && (getPcl s p).port = k
    match r.own with
    | .none => r.scope = .host
    | .bed => r.scope ≠ .mgmt && (match objParcel s r idx sub with
      | none => r.scope = .host
      | some p => owner p)
    | _ => match objParcel s r idx sub with
      | none => r.scope = .host
      | some p => owner p

/-- The source of register accesses that a requester's REG_XFER makes (R389). -/
def regSrc : Requester → Src
  | .mgmt _ => .lodge
  | .hostWin k => .host k

/-! ### Kept values (R363, Tables 8-6, 10-11, 12-9, 14-8) -/

/-- The default of an object whose value the Lodge just keeps. See log 10 [DESIGN CHOICE]. -/
def objDefault (idx : Nat) : List Byte :=
  if idx = 0x1012 then [0xFF]
  else if idx = 0x1013 then [9]
  else if idx = 0x1015 then 0xFF :: 0x02 :: zeros 13 ++ [1]
  else if idx = 0x1016 then leBytes 4 0xF
  else if idx = 0x1018 then [0x0F]
  else if idx = 0x3020 then leBytes 4 1000
  else if idx = 0x3021 then leBytes 4 10000
  else if idx = 0x3022 then leBytes 4 600
  else if idx = 0x3023 then leBytes 4 3600
  else if idx = 0x4014 then leBytes 4 105000
  else if idx = 0x5005 then leBytes 4 10000
  else if idx = 0x9010 then [3]
  else if idx = 0x9011 then [4]
  else [0]

/-- The objects whose value the Lodge just keeps. -/
def plainObj (idx : Nat) : Bool :=
  decide (idx ∈ [0x1012, 0x1013, 0x1014, 0x1015, 0x1016, 0x1018, 0x3010, 0x3011, 0x3020, 0x3021, 0x3022, 0x3023, 0x4014, 0x5000,
    0x5001, 0x5005, 0x9010, 0x9011])

/-- The value of a kept object. -/
def plainVal (s : State) (idx : Nat) : List Byte :=
  match sget [] s.dict.objs (idx * 256) with
  | [] => objDefault idx
  | b => b

/-- A value in the range of a kept object. -/
def plainOk (idx v : Nat) : Bool :=
  if idx = 0x1012 then (decide (1 ≤ v) && decide (v ≤ 8)) || v = 0xFF
  else if idx = 0x1013 then decide (2 ≤ v) && decide (v ≤ 9)
  else if idx = 0x1014 then decide (v ≤ 3)
  else if idx = 0x1016 ∨ idx = 0x1018 then decide (v < 16)
  else if idx = 0x3010 ∨ idx = 0x3011 ∨ idx = 0x5000 ∨ idx = 0x5001 then decide (v ≤ 1)
  else if idx = 0x4014 then decide (60000 ≤ v) && decide (v ≤ 110000)
  else if idx = 0x5005 then decide (10 ≤ v) && decide (v ≤ 600000)
  else if idx = 0x9010 ∨ idx = 0x9011 then decide (1 ≤ v)
  else true

/-- A kept object takes a value; PLCA_NODE also takes effect, after the ACK (R347). -/
def putPlain (s : State) (idx : Nat) (data : List Byte) : Ack :=
  if !plainOk idx (leNat data) then deny s ackValue
  else
    let v := if data = objDefault idx then [] else data
    let d := { s.dict with objs := sset [] s.dict.objs (idx * 256) v }
    grant { s with dict := if idx = 0x1012 then { d with plcaNode := BitVec.ofNat 8 (leNat data) } else d }

/-! ### Values read -/

/-- MGMT_IPV6: fe80:: with the modified EUI-64 of MGMT_MAC (R348). -/
def mgmtIpv6 (s : State) : List Byte :=
  let m := fit 6 s.firm.mac
  [0xFE, 0x80] ++ zeros 6 ++ [m.getD 0 0 ^^^ 2] ++ slice m 1 2 ++ [0xFF, 0xFE] ++ slice m 3 3

/-- PORT_STAT (Table 11-2). -/
def portStat (s : State) (k : Nat) : Nat :=
  let x := getPort s k
  x.speed.toNat + x.width % 16 * 256 + flagAt x.linkUp 12 + flagAt x.d3hot 13

/-- INC_LOG: 512 entries in slot order; an empty slot is zero. -/
def incLog (s : State) : List Byte :=
  (List.range 512).flatMap fun i => match s.repair.log.find? fun e => e.1 = i with
    | none => zeros 32
    | some e => e.2.bytes

/-- CORE_MAP (R364). -/
def coreMap (s : State) : List Byte :=
  (List.range 768).flatMap fun c => leBytes 2 (csite s c + flagAt (coreAbsent s c) 14 + flagAt (sget 0 s.place.reloc c ≠ 0) 15)

/-- SPARE_AVAIL of a die (Table 12-10). See log 82 [DEDUCED]. -/
def spareAvail (s : State) (die : Nat) : Nat :=
  (List.range 16).foldl (fun a b =>
    a + flagAt (!sget false s.place.shipUsed (die * 16 + b) && !sget false s.place.used (die * 16 + b)) b) 0

/-- CORE_ABSENT. -/
def absentMap (s : State) : List Byte :=
  (List.range 96).map fun i => (List.range 8).foldl (fun a b => a + BitVec.ofNat 8 (flagAt (coreAbsent s (8 * i + b)) b)) 0

/-- ROUTER_FAILED of a die, and BRIDGE_DOWN (Table 9-9). -/
def routerFailedVal (s : State) (die : Nat) : Nat := match sget 0 s.mesh.failedRouter die with
  | 0 => 0xFFFF
  | n + 1 => n
def bridgeDown (s : State) : Nat :=
  (List.range 20).foldl (fun a x =>
    a + flagAt ((sget {} s.mesh.bridge x).down || (sget {} s.mesh.bridge (20 + x)).down) x) 0

/-- DIN_STATE (Table 14-8). -/
def dinState (s : State) : Nat :=
  dinStat s % 8 + flagAt s.pwr.resetHeld 3 + dinStat s / 64 % 8 * 16 + flagAt s.pwr.halt 7

/-- An entry of SNAP_DUMP (R388). -/
def snapEntry (s : State) (b : Nat) (k : Blk) : List Byte :=
  let n := (blkCtrs k).length
  let r := s.regs
  leBytes 4 (b * 0x4000) ++ leBytes 2 n ++ leBytes 2 (secondDomain k * 256 + blockDomain b) ++
  leBytes 8 (sget 0 r.snapCyc b).toNat ++ leBytes 8 (sget 0 r.snapCycm b).toNat ++ leBytes 4 (sget 0 r.snapId b).toNat ++ zeros 4 ++
  (List.range n).flatMap fun i => leBytes 8 (sget 0 r.hold (b * 64 + i)).toNat

/-- SNAP_DUMP as a requester sees it (R367, R388). -/
def snapDump (s : State) (src : Requester) : List Byte :=
  allBlocks.flatMap fun b => match blkOf b with
    | none => []
    | some k =>
      let seen : Bool := match src with
        | .mgmt _ => true
        | .hostWin p => blkVisible s p k false
      if (blkCtrs k).isEmpty || !seen then [] else snapEntry s b k

/-- PH_BEDS of a parcel (Table 13-13). -/
def phBedsVal (s : State) (p : Nat) : List Byte :=
  let x := getPcl s p
  (List.range 32).flatMap fun b =>
    [if x.beds.getLsbD b ∧ x.phBeds ≠ [] then BitVec.ofNat 8 (bedClk s b) else 0] ++ zeros 7 ++
    (List.range 8).flatMap fun c => leBytes 8 (sget 0 x.phBeds (b * 8 + c)).toNat

/-- The selected address word of a requester (R389). -/
def regSelOf (s : State) (src : Requester) : W32 := match s.dict.regSel.find? fun e => e.1 = src with
  | none => 0
  | some e => e.2

/-- REG_XFER read: the word and the register's value now (R389). -/
def readXfer (s : State) (src : Requester) : List Byte × State :=
  let w := regSelOf s src
  let r := regRead s (regSrc src) (w.toNat % 2 ^ 25)
  (leBytes 4 w.toNat ++ leBytes 4 r.1.toNat, r.2)

/-- The number of a fixed object's value, by row index, parcel and sub-index. -/
def numVal (s : State) (k p sub : Nat) : Nat :=
  let x := getPcl s p
  let y := getPcl s sub
  if k = 0x1002 then s.firm.stepping.toNat
  else if k = 0x1004 ∨ k = 0x1005 then slotLevel s sub
  else if k = 0x1006 then s.firm.active.toNat
  else if k = 0x1007 then bunLevel (running s)
  else if k = 0x1008 then 0x0204
  else if k = 0x1017 then (sget 0 s.dict.stats sub).toNat
  else if k = 0x1100 then portStat s sub
  else if k = 0x2000 then pclCode x.st
  else if k = 0x2001 then x.port
  else if k = 0x2002 then x.beds.toNat
  else if k = 0x2004 then x.refused.toNat
  else if k = 0x2005 then x.bmarks.toNat
  else if k = 0x2006 then x.compat.toNat
  else if k = 0x2040 then (if sub = 0 then x.alloc0 else x.alloc1).toNat
  else if k = 0x2041 then x.bcnLost.toNat
  else if k = 0x2050 then x.replayLimit.toNat
  else if k = 0x2051 then x.replays.toNat
  else if k = 0x3024 then (sget 0 s.repair.lapTer sub).toNat
  else if k = 0x3025 then (sget 0 s.repair.lapFar sub).toNat
  else if k = 0x4000 then bedClk s sub
  else if k = 0x4001 then halfClk s sub
  else if k = 0x4010 then s.pwr.vin
  else if k = 0x4011 then s.pwr.iin
  else if k = 0x4012 then s.pwr.pin
  else if k = 0x4013 then (BitVec.ofInt 32 s.pwr.tj).toNat
  else if k = 0x4015 then 115000
  else if k = 0x4021 then s.pwr.bringStep.toNat
  else if k = 0x4022 then dinState s
  else if k = 0x4023 then s.pwr.alert.toNat
  else if k = 0x5002 then twinCode s.twin.st
  else if k = 0x5003 then s.twin.epoch.toNat
  else if k = 0x5004 then s.twin.lanes.toNat
  else if k = 0x5007 then s.twin.rejoinPages.toNat
  else if k = 0x5010 then y.agreed.toNat
  else if k = 0x6001 then s.repair.next.toNat
  else if k = 0x6002 then s.repair.ack.toNat
  else if k = 0x6003 then s.repair.logFull.toNat
  else if k = 0x6100 then (sget 0 s.repair.ovf sub).toNat
  else if k = 0x7002 then s.regs.snapLast.toNat
  else if k = 0x7003 then s.regs.snapMissed.toNat
  else if k = 0x8001 then slotStat s sub
  else if k = 0x8002 then s.firm.next.toNat
  else if k = 0x8003 then s.firm.svn.toNat
  else if k = 0x8005 then s.firm.revoked.toNat % 16
  else if k = 0x9001 then spareAvail s sub
  else if k = 0x9020 then s.repair.softRows.length
  else if k = 0x9021 then s.repair.retired.length
  else if k = 0x9030 then routerFailedVal s sub
  else if k = 0x9031 then bridgeDown s
  else if k = 0x9032 then s.regs.snapSkew.toNat
  else if k = 0xA000 then y.tally.toNat
  else if k = 0xA001 then y.thArea.toNat
  else if k = 0xA002 then y.thHeld.toNat
  else if k = 0xA003 then y.readout.length
  else 0

/-- The value of an object of bytes, a string or a DOMAIN; none for the numbers. -/
def bytesVal (s : State) (src : Requester) (k p sub : Nat) : Option (List Byte) :=
  if k = 0x1000 then some (ascii "Solmund")
  else if k = 0x1001 then some (ascii "VZ-768-L")
  else if k = 0x1003 then some (fit 12 s.firm.serial)
  else if k = 0x1010 then some (fit 6 s.firm.mac)
  else if k = 0x1011 then some (mgmtIpv6 s)
  else if k = 0x4002 then some s.pwr.clkLog.flatten
  else if k = 0x5008 then some (fit 72 s.twin.peerInfo)
  else if k = 0x6000 then some (incLog s)
  else if k = 0x7004 then some (snapDump s src)
  else if k = 0x8010 then some (s.firm.factoryCerts ++ s.firm.aliasCert)
  else if k = 0x8011 then some (beBytes 64 s.firm.idPub.toNat)
  else if k = 0x8021 then some (spdmRsp s src)
  else if k = 0x8031 then some (measOf s src)
  else if k = 0x9000 then some (coreMap s)
  else if k = 0x9003 then some (absentMap s)
  else if k = 0xA010 then some (getPcl s p).readout.flatten
  else if k = 0xA100 then some (fit 32 (getPcl s sub).phStep)
  else if k = 0xA110 then some (phBedsVal s p)
  else if plainObj k then some (plainVal s k)
  else none

/-- An object's value, and the state after the read. -/
def objRead (s : State) (src : Requester) (r : ObjRow) (idx sub : Nat) : List Byte × State :=
  if r.idx = 0x7010 then readXfer s src
  else match bytesVal s src r.idx (objKey idx).2 sub with
    | some b => (b, s)
    | none =>
      match r.typ with
      | .fixed n => (leBytes n (numVal s r.idx (objKey idx).2 sub), s)
      | _ => ([], s)

/-! ### Staged values (R357) -/

/-- The key under which an RWS object's value is staged. -/
def stageKeyOf (r : ObjRow) (sub : Nat) : StageKey :=
  if r.idx = 0x2002 then .beds
  else if r.idx = 0x2040 then .beacons sub
  else if r.idx = 0x4000 then .clkBed sub
  else .object r.idx 0

/-- The staged value of an object (R357). -/
def stagedOf (s : State) (r : ObjRow) (idx sub : Nat) : Option (List Byte) :=
  match r.acc, objParcel s r idx sub, r.typ with
  | .rws, some p, .fixed n => (stagedVal s p (stageKeyOf r sub)).map fun v => leBytes n v
  | _, _, _ => none

/-! ### What writes do -/

/-- SNAP_ALL and SNAP_PCL (R381, R382, Table 13-12). -/
def putSnap (s : State) (p : Option Nat) (v : Nat) : Ack :=
  let there : Bool := match p with
    | none => true
    | some q => pclThere s q
  if v = 0 ∨ 2 ^ 31 ≤ v then deny s ackValue
  else if s.regs.snapRun.isSome || !there then deny s ackState
  else grant (startSnapshot s (BitVec.ofNat 32 v) p)

/-- An address outside a host's filter (R367, R389). -/
def xferFiltered (s : State) (src : Requester) (addr : Nat) (wr : Bool) : Bool := filtered s (regSrc src) (addr / 0x4000) wr

/-- REG_XFER written: a write, with UNLOCK before it in the same act, or a selection (R389). -/
def putXfer (s : State) (src : Requester) (data : List Byte) : Ack :=
  let w := field data 0 4
  let v : W32 := BitVec.ofNat 32 (field data 4 4)
  let addr := w % 2 ^ 25
  let wr := bit w 31
  if addr % 4 ≠ 0 ∨ bits w 25 5 ≠ 0 then deny s ackValue
  else if xferFiltered s src addr wr then deny s ackScope
  else if !wr then
    if v ≠ 0 then deny s ackValue
    else
      let sel := (s.dict.regSel.filter fun e => e.1 ≠ src) ++ [(src, BitVec.ofNat 32 w)]
      grant { s with dict := { s.dict with regSel := sel } }
  else if addr % 0x4000 = 0xF0C then deny s ackValue
  else
    let s := if bit w 30 then regWrite s (regSrc src) (addr / 0x4000 * 0x4000 + 0xF0C) 0x5AFE else s
    grant (regWrite s (regSrc src) addr v)

/-- INC_ACK (R233). -/
def putIncAck (s : State) (v : Nat) : Ack := grant { s with repair := { s.repair with ack := BitVec.ofNat 32 v } }

/-- INC_OVF: writing 0 clears (R238). -/
def putIncOvf (s : State) (cls v : Nat) : Ack :=
  if v ≠ 0 then deny s ackValue else grant { s with repair := { s.repair with ovf := sdel s.repair.ovf cls } }

/-- SOFT_CLEAR (R224). -/
def putSoftClear (s : State) (v : Nat) : Ack :=
  if v ≠ 0xC1EA then deny s ackValue else grant { s with repair := { s.repair with softClear := true } }

/-- CORE_RETURN (R364). -/
def putCoreReturn (s : State) (c : Nat) : Ack :=
  if 768 ≤ c ∨ sget 0 s.place.reloc c = 0 then deny s ackValue
  else if bedsBusy s (BitVec.ofNat 32 (2 ^ coreBed c)) then deny s ackState
  else grant { s with place := { s.place with returns := nins s.place.returns c } }

/-- Writes that take effect at the next start, and MOD_RESET, which makes one: a fail-stop does not bar them (R365). See log 38 [DEDUCED]. -/
def nextStart (k : Nat) : Bool := decide (k ∈ [0x3010, 0x4020, 0x5000, 0x5001, 0x8000, 0x8002, 0x9002, 0x9022])

/-- What a write of a value of the right size does (Table 12-8's tables). -/
def putObj (s : State) (src : Requester) (k p sub : Nat) (data : List Byte) : Ack :=
  let v := leNat data
  if k = 0x2001 then putPclPort s p v
  else if k = 0x2002 then putPclBeds s p v
  else if k = 0x2003 then putPclCtl s p v
  else if k = 0x2006 then putCompat s p v
  else if k = 0x2040 then putBcnAlloc s p sub v
  else if k = 0x2050 then putReplayLimit s p v
  else if k = 0x4000 then putClkBed s sub v
  else if k = 0x4001 then putClkHalf s sub v
  else if k = 0x4020 then putModReset s v
  else if k = 0x4024 then putAlertClr s v
  else if k = 0x5006 then putRejoin s v
  else if k = 0x6002 then putIncAck s v
  else if k = 0x6100 then putIncOvf s sub v
  else if k = 0x7000 then putSnap s none v
  else if k = 0x7001 then putSnap s (some sub) v
  else if k = 0x7010 then putXfer s src data
  else if k = 0x8000 then closeUpload s data
  else if k = 0x8002 then putFwNext s v
  else if k = 0x8004 then putSvnBurn s v
  else if k = 0x8020 then putSpdm s src data
  else if k = 0x8030 then putNonce s src data
  else if k = 0x9002 then putCoreReturn s v
  else if k = 0x9022 then putSoftClear s v
  else if k = 0xA000 then putTally s sub v
  else if k = 0xA001 then putArea s sub v
  else putPlain s k data

/-- The value has its type's size (R356). -/
def sizeOk : ObjTyp → List Byte → Bool
  | .fixed n, d => d.length = n
  | .str, d => decide (d.length ≤ 256)
  | .domain, _ => true

/-- CANCEL discards the staged value; with data it is refused with LENGTH, and of an object that is not RWS with VALUE
(R357, log 37 [DEDUCED]). -/
def cancelObj (s : State) (r : ObjRow) (idx sub : Nat) (data : List Byte) : Ack :=
  if data ≠ [] then deny s ackLength
  else if r.acc ≠ .rws then deny s ackValue
  else match objParcel s r idx sub with
    | none => grant s
    | some p => grant (unstage s p (stageKeyOf r sub))

/-- A write to an object that is found: scope, access, size, the fail-stop rule, and then the object's own (R356 to R358,
R365). -/
def writeObj (s : State) (src : Requester) (r : ObjRow) (idx sub : Nat) (data : List Byte) (cancel : Bool) : Ack :=
  let ro := r.acc = .ro || r.acc = .const
  let host : Bool := match src with
    | .mgmt _ => false
    | .hostWin _ => true
  if !scopeOk s src r idx sub || (host && ro) then deny s ackScope
  else if ro then deny s ackReadOnly
  else if cancel then cancelObj s r idx sub data
  else if !sizeOk r.typ data then deny s ackLength
  else if s.pwr.failStopped && !nextStart r.idx then deny s ackState
  else putObj s src r.idx (objKey idx).2 sub data

/-- A read of an object that is found: its status, its value, and the state after it (R357, R358). -/
def readObj (s : State) (src : Requester) (r : ObjRow) (idx sub : Nat) (staged : Bool) : Nat × List Byte × State :=
  if !scopeOk s src r idx sub then (ackScope, [], s)
  else if r.acc = .wo then (ackWriteOnly, [], s)
  else if staged then
    match stagedOf s r idx sub with
    | none => (ackNothingStaged, [], s)
    | some b => (ackOk, b, s)
  else
    let (b, s) := objRead s src r idx sub
    (ackOk, b, s)

/-! ### The rows that write objects -/

/-- The list without a requester's entry for an object. -/
def segDrop (l : List Seg) (src : Requester) (idx sub : Nat) : List Seg :=
  l.filter fun x => !(x.src = src && x.idx = idx && x.sub = sub)

/-- Another requester's segmented write of the object is open. -/
def sessionBusy (s : State) (src : Requester) (idx sub : Nat) : Bool :=
  s.dict.sessions.any fun x => x.idx = idx && x.sub = sub && x.src ≠ src

/-- A requester's write to an object reaches the dictionary and is executed; another's open session of the object makes it
BUSY, and its own is discarded (R354). -/
def objRow (src : Requester) (idx sub : Nat) (data : List Byte) (s : State) : Out :=
  if !dictReady s || !reqOpen s src || sessionBusy s src idx sub then cannot s
  else match findObj idx sub with
    | .error _ => cannot s
    | .ok r => done (writeObj { s with dict := { s.dict with sessions := segDrop s.dict.sessions src idx sub } } src r idx sub data false).2

/-- A write from the management port, whose address does not matter to the object. See log 39 [DEDUCED]. -/
def mgmtRow (idx sub : Nat) (data : List Byte) (s : State) : Out := objRow (.mgmt 0) idx sub data s

/-- A write to an object of a parcel's block. -/
def pclRow (p off sub : Nat) (data : List Byte) (s : State) : Out :=
  if p < 8 then mgmtRow (0x2000 + 0x100 * p + off) sub data s else cannot s

/-- OBJECT_WRITE: an object without a row of its own. -/
def execObjectWrite (src : Requester) (idx sub : Nat) (data : List Byte) (s : State) : Out := objRow src idx sub data s
/-- PARCEL_CREATE (R319). -/
def execParcelCreate (p : Nat) (s : State) : Out := pclRow p 3 0 [1] s
/-- PARCEL_REMOVE (R321). -/
def execParcelRemove (p : Nat) (s : State) : Out := pclRow p 3 0 [2] s
/-- PCL_CTL = 3 (R406). -/
def execPclCtlReset (p : Nat) (s : State) : Out := pclRow p 3 0 [3] s
/-- PCL_BEDS (R320). -/
def execPclBeds (p : Nat) (beds : W32) (s : State) : Out := pclRow p 2 0 (leBytes 4 beds.toNat) s
/-- BCN_ALLOC (R263). -/
def execBcnAlloc (p die : Nat) (blocks : W64) (s : State) : Out := pclRow p 0x40 die (leBytes 8 blocks.toNat) s
/-- SNAP_ALL (R381). -/
def execSnapAll (ident : W32) (s : State) : Out := mgmtRow 0x7000 0 (leBytes 4 ident.toNat) s
/-- SNAP_PCL (R381). -/
def execSnapPcl (p : Nat) (ident : W32) (s : State) : Out := mgmtRow 0x7001 p (leBytes 4 ident.toNat) s
/-- REG_XFER with WR = 1 (R389). -/
def execRegXferWrite (src : Requester) (addrWord value : W32) (s : State) : Out :=
  if addrWord.getLsbD 31 then objRow src 0x7010 0 (leBytes 4 addrWord.toNat ++ leBytes 4 value.toNat) s else cannot s
/-- REG_XFER with WR = 0 (R389). -/
def execRegXferSelect (src : Requester) (addrWord : W32) (s : State) : Out :=
  if addrWord.getLsbD 31 then cannot s else objRow src 0x7010 0 (leBytes 4 addrWord.toNat ++ zeros 4) s
/-- REG_XFER read (R389): the register's value goes to the requester. -/
def execRegXferRead (src : Requester) (s : State) : Out :=
  if !dictReady s || !reqOpen s src then cannot s
  else
    let r := readXfer s src
    done (send r.2 (.regRead (regSrc src) (BitVec.ofNat 32 (field r.1 4 4))))
/-- INC_ACK (R233). -/
def execIncAck (seqNo : W32) (s : State) : Out := mgmtRow 0x6002 0 (leBytes 4 seqNo.toNat) s
/-- INC_OVF (R238). -/
def execIncOvf (cls : Nat) (v : W32) (s : State) : Out := mgmtRow 0x6100 cls (leBytes 4 v.toNat) s
/-- SOFT_CLEAR (R224). -/
def execSoftClear (v : BitVec 16) (s : State) : Out := mgmtRow 0x9022 0 (leBytes 2 v.toNat) s
/-- CORE_RETURN (R364). -/
def execCoreReturn (core : Nat) (s : State) : Out := if core < 65536 then mgmtRow 0x9002 0 (leBytes 2 core) s else cannot s
/-- CLK_BED (R395). -/
def execClkBed (bed : Nat) (v : Byte) (s : State) : Out := mgmtRow 0x4000 bed [v] s
/-- CLK_HALF (R396). -/
def execClkHalf (half : Nat) (v : Byte) (s : State) : Out := mgmtRow 0x4001 half [v] s
/-- MOD_RESET (R407). -/
def execModReset (v : BitVec 16) (s : State) : Out := mgmtRow 0x4020 0 (leBytes 2 v.toNat) s
/-- ALERT_CLR (R413). -/
def execAlertClr (v : W32) (s : State) : Out := mgmtRow 0x4024 0 (leBytes 4 v.toNat) s
/-- PLCA_NODE (R347). -/
def execPlcaNode (v : Byte) (s : State) : Out := mgmtRow 0x1012 0 [v] s
/-- REJOIN_REQ = 1 (R302). -/
def execRejoinStart (s : State) : Out := mgmtRow 0x5006 0 [1] s
/-- REJOIN_REQ = 2 (R302). -/
def execRejoinCancel (s : State) : Out := mgmtRow 0x5006 0 [2] s
/-- FW_NEXT (R422). -/
def execFwNext (v : Byte) (s : State) : Out := mgmtRow 0x8002 0 [v] s
/-- FW_SVN_BURN (R422). -/
def execFwSvnBurn (v : Byte) (s : State) : Out := mgmtRow 0x8004 0 [v] s
/-- SPDM_REQ (R427). -/
def execSpdmReq (src : Requester) (req : List Byte) (s : State) : Out := objRow src 0x8020 0 req s
/-- MEAS_NONCE (R430). -/
def execMeasNonce (src : Requester) (nonce : List Byte) (s : State) : Out := objRow src 0x8030 0 nonce s

end Sys2Proof.Machine
end

