-- ==== Sys2Proof/Machine/Cixa.lean ====
section
/-!
DEFINITION. The Cixa protocol: messages, the Lodge's queue, kept ACKs, segmented transfers, NOTIFY, the host windows, and the
management segment (R346 to R355, R359, R360, R365).
-/

namespace Sys2Proof.Machine

def modDict (s : State) (f : Dict → Dict) : State := { s with dict := f s.dict }

/-! ### Messages (R349, Tables 12-1, 12-2) -/

def mType (m : List Byte) : Nat := field m 1 1
def mTxid (m : List Byte) : Nat := field m 2 2
def mIdx (m : List Byte) : Nat := field m 4 2
def mSub (m : List Byte) : Nat := field m 6 1
def mFlag (m : List Byte) (i : Nat) : Bool := bit (field m 7 1) i
def mOff (m : List Byte) : Nat := field m 8 4
def mLen (m : List Byte) : Nat := field m 12 2
def mData (m : List Byte) : List Byte := m.drop 16

/-- A message of Table 12-1. -/
def cixaMsg (type txid idx sub flags off status : Nat) (data : List Byte) : List Byte :=
  [1, BitVec.ofNat 8 type] ++ leBytes 2 txid ++ leBytes 2 idx ++ [BitVec.ofNat 8 sub, BitVec.ofNat 8 flags] ++ leBytes 4 off ++
  leBytes 2 data.length ++ [BitVec.ofNat 8 status, 0] ++ data

/-- The ACK of a message: it repeats TXID, INDEX, SUBINDEX and OFFSET. -/
def ackOf (m : List Byte) (status flags : Nat) (data : List Byte) : List Byte :=
  cixaMsg 6 (mTxid m) (mIdx m) (mSub m) flags (mOff m) status data

/-- What a request comes to: status, flags, data, and the state after it. -/
structure Reply where
  status : Nat
  flags : Nat := 0
  data : List Byte := []
  state : State

/-- CIXA_STATS counts (Table 12-9). -/
def countCixa (s : State) (i : Nat) : State := modDict s fun d => { d with stats := smod 0 d.stats i fun v => v + 1 }

/-! ### Segmented transfers (R353, R354) -/

/-- The entry of a list of snapshots or sessions for an object, of one requester or of any. -/
def segFor (l : List Seg) (src : Option Requester) (idx sub : Nat) : Option Seg :=
  l.find? fun x => x.idx = idx && x.sub = sub && (src = none || src = some x.src)

/-- A segment of a snapshot: LAST once its last byte is included. -/
def segReply (s : State) (v : List Byte) (off want : Nat) : Reply :=
  { status := ackOk, flags := if v.length ≤ off + want then 1 else 0, data := slice v off want, state := s }

/-- READ-SEG. -/
def readSeg (s : State) (src : Requester) (r : ObjRow) (m : List Byte) : Reply :=
  let idx := mIdx m
  let sub := mSub m
  if mLen m = 0 ∨ 1024 < mLen m then { status := ackLength, state := s }
  else if mOff m = 0 then
    let a := readObj s src r idx sub (mFlag m 1)
    if a.1 ≠ ackOk then { status := a.1, state := a.2.2 }
    else
      let t := modDict a.2.2 fun d => { d with snaps := segDrop d.snaps src idx sub ++ [{ src := src, idx := idx, sub := sub, data := a.2.1 }] }
      segReply t a.2.1 0 (mLen m)
  else if !scopeOk s src r idx sub then { status := ackScope, state := s }
  else match segFor s.dict.snaps (some src) idx sub with
    | none => { status := ackSegment, state := s }
    | some x => segReply s x.data (mOff m) (mLen m)

/-- A session with the data so far; the segment with LAST applies the value. -/
def writeOn (s : State) (src : Requester) (r : ObjRow) (m data : List Byte) : Reply :=
  let idx := mIdx m
  let sub := mSub m
  let rest := segDrop s.dict.sessions src idx sub
  if mFlag m 0 then
    let a := writeObj (modDict s fun d => { d with sessions := rest }) src r idx sub data false
    { status := a.1, state := a.2 }
  else
    { status := ackOk,
      state := modDict s fun d => { d with sessions := rest ++ [{ src := src, idx := idx, sub := sub, data := data }] } }

/-- WRITE-SEG: scope and access are looked at as the session opens, too (log 37 [DEDUCED]); FW_UPLOAD's slot is erased then (R422). -/
def writeSeg (s : State) (src : Requester) (r : ObjRow) (m : List Byte) : Reply :=
  let idx := mIdx m
  let sub := mSub m
  let ro := r.acc = .ro || r.acc = .const
  let host : Bool := match src with
    | .mgmt _ => false
    | .hostWin _ => true
  if mOff m = 0 then
    if sessionBusy s src idx sub then { status := ackBusy, state := s }
    else if !scopeOk s src r idx sub || (host && ro) then { status := ackScope, state := s }
    else if ro then { status := ackReadOnly, state := s }
    else writeOn (if idx = 0x8000 then openUpload s else s) src r m (mData m)
  else match segFor s.dict.sessions (some src) idx sub with
    | none => { status := ackSegment, state := s }
    | some x =>
      if mOff m ≠ x.data.length then
        { status := ackSegment, state := modDict s fun d => { d with sessions := segDrop d.sessions src idx sub } }
      else writeOn s src r m (x.data ++ mData m)

/-! ### A request executed (R349, R350, R352, R358, R359, R420) -/

/-- A READ of a value (R357). -/
def readWhole (s : State) (src : Requester) (r : ObjRow) (m : List Byte) : Reply :=
  let a := readObj s src r (mIdx m) (mSub m) (mFlag m 1)
  { status := a.1, data := a.2.1, state := a.2.2 }

/-- A WRITE of a value (R357). -/
def writeWhole (s : State) (src : Requester) (r : ObjRow) (m : List Byte) : Reply :=
  let a := writeObj s src r (mIdx m) (mSub m) (mData m) (mFlag m 2)
  { status := a.1, state := a.2 }

/-- What recovery answers: READs of a few objects, and FW_UPLOAD (R420). See log 90 [DEDUCED]. -/
def recoveryServes (src : Requester) (m : List Byte) : Bool :=
  let mg : Bool := match src with
    | .mgmt _ => true
    | .hostWin _ => false
  mg && ((mType m = 1 && decide (mIdx m ∈ [0x1000, 0x1001, 0x1002, 0x1003, 0x4021])) || (mType m = 4 && mIdx m = 0x8000))

/-- The dictionary is there for the request. -/
def cixaReady (s : State) (src : Requester) (m : List Byte) : Bool :=
  if s.pwr.recovery then recoveryServes src m else dictReady s

/-- LENGTH agrees with the data that follow (R349, Table 12-2). -/
def lengthOk (m : List Byte) : Bool :=
  decide (mLen m ≤ 1024) && (mData m).length = (if mType m = 3 then 0 else mLen m) && (mType m ≠ 1 || mLen m = 0)

/-- One request is executed. Its reserved bits and bytes are not looked at. See log 37 [DEDUCED]. -/
def execMsg (s : State) (src : Requester) (m : List Byte) : Reply :=
  if field m 0 1 ≠ 1 then { status := ackVersion, state := s }
  else if !cixaReady s src m then { status := ackNotReady, state := s }
  else if !reqOpen s src then { status := ackScope, state := s }
  else match findObj (mIdx m) (mSub m) with
    | .error e => { status := e, state := s }
    | .ok r =>
      let seg : Bool := mType m = 3 || mType m = 4
      if !lengthOk m then { status := ackLength, state := s }
      else if mType m = 2 && sessionBusy s src (mIdx m) (mSub m) then { status := ackBusy, state := s }
      else if seg != decide (r.typ = .domain) then { status := ackLength, state := s }
      else if mType m = 1 then readWhole s src r m
      else if mType m = 2 then writeWhole s src r m
      else if mType m = 3 then readSeg s src r m
      else writeSeg s src r m

/-- The ACK of a message with its answer. -/
def Reply.ack (a : Reply) (m : List Byte) : List Byte := ackOf m a.status a.flags a.data

/-! ### Kept ACKs and the queue (R350, R351) -/

/-- The last 16 ACKs of a requester are kept. -/
def keepAck (l : List KeptAck) (x : KeptAck) : List KeptAck :=
  let mine := l.filter fun y => y.src = x.src
  (match mine.head? with
    | some y => if 16 ≤ mine.length then l.erase y else l
    | none => l) ++ [x]

/-- A management requester's request is served: from its kept ACK with DUP set, or by executing it. -/
def serveMgmt (s : State) (src : Requester) (m : List Byte) : State :=
  match s.dict.kept.find? fun x => x.src = src && x.txid = mTxid m with
  | some x =>
    let dup := patch x.ack 7 [x.ack.getD 7 0 ||| 8]
    send (countCixa s 1) (.cixa src dup)
  | none =>
    let a := execMsg s src m
    let k := a.ack m
    send (modDict a.state fun d => { d with kept := keepAck d.kept { src := src, txid := mTxid m, ack := k } }) (.cixa src k)

/-- A host window's request is served: its ACK goes to the port, which discards it where its time has run out (R360). -/
def serveHost (s : State) (k : Nat) (m : List Byte) : State :=
  let a := execMsg s (.hostWin k) m
  modPort a.state k fun x =>
    if x.hwStale ≠ 0 then { x with hwStale := x.hwStale - 1 } else { x with hwAck := some (a.ack m) }

/-- The request is served. -/
def serve (s : State) (src : Requester) (m : List Byte) : State :=
  match src with
  | .mgmt _ => serveMgmt s src m
  | .hostWin k => serveHost s k m

/-- A request comes in from the management segment with others waiting (R350, R351). -/
def enqueue (s : State) (src : Requester) (m : List Byte) : State :=
  let s := countCixa s 0
  if s.dict.queue.any fun e => e.1 = src && mTxid e.2 = mTxid m then s
  else if 32 ≤ s.dict.queue.length then countCixa s 2
  else modDict s fun d => { d with queue := d.queue ++ [(src, m)] }

/-- A row of a TYPE: the request at the head of the queue is executed; one that is not there comes in, and is executed at
once where nothing waits. A host window's requests come in by GO alone. -/
def cixaRow (type : Nat) (src : Requester) (m : List Byte) (s : State) : Out :=
  let mg : Bool := match src with
    | .mgmt _ => true
    | .hostWin _ => false
  if !s.pwr.lodgeUp || mType m ≠ type || decide (m.length < 16) || decide (1040 < m.length) then cannot s
  else match s.dict.queue with
    | [] => if mg then done (serve (countCixa s 0) src m) else cannot s
    | e :: rest =>
      if e.1 = src ∧ e.2 = m then done (serve (modDict s fun d => { d with queue := rest }) src m)
      else if mg then done (enqueue s src m)
      else cannot s

/-- READ (R350, R357). -/
def execCixaRead (src : Requester) (msg : List Byte) (s : State) : Out := cixaRow 1 src msg s
/-- WRITE (R350, R357). -/
def execCixaWrite (src : Requester) (msg : List Byte) (s : State) : Out := cixaRow 2 src msg s
/-- READ-SEG (R353). -/
def execCixaReadSeg (src : Requester) (msg : List Byte) (s : State) : Out := cixaRow 3 src msg s
/-- WRITE-SEG (R354). -/
def execCixaWriteSeg (src : Requester) (msg : List Byte) (s : State) : Out := cixaRow 4 src msg s

/-- QUEUE_FULL_DISCARD: a request that finds 32 waiting is discarded and counted (R350). -/
def execQueueFullDiscard (src : Requester) (msg : List Byte) (s : State) : Out :=
  if s.pwr.lodgeUp && decide (32 ≤ s.dict.queue.length) && decide (16 ≤ msg.length) && decide (msg.length ≤ 1040) &&
      decide (1 ≤ mType msg) && decide (mType msg ≤ 4) &&
      !(s.dict.queue.any fun e => e.1 = src && mTxid e.2 = mTxid msg) then
    done (countCixa (countCixa s 0) 2)
  else cannot s

/-- KEPT_ACK_EXPIRY: 1 s after it was kept (R351). -/
def execKeptAckExpiry (src : Requester) (txid : Nat) (s : State) : Out :=
  done (modDict s fun d => { d with kept := d.kept.filter fun x => !(x.src = src && x.txid = txid) })

/-- SEGMENT_SESSION_TIMEOUT: nothing is applied (R354). -/
def execSegmentSessionTimeout (idx sub : Nat) (s : State) : Out :=
  done (modDict s fun d => { d with sessions := d.sessions.filter fun x => !(x.idx = idx && x.sub = sub) })

/-- SNAPSHOT_EXPIRY (R353). -/
def execSnapshotExpiry (src : Requester) (idx sub : Nat) (s : State) : Out :=
  done (modDict s fun d => { d with snaps := segDrop d.snaps src idx sub })

/-! ### NOTIFY (R355) -/

/-- Index and sub-index of the object that an event concerns. -/
def eventObj : Event → Nat × Nat
  | .incident _ => (0x6000, 0)
  | .twinState => (0x5002, 0)
  | .alert => (0x4023, 0)
  | .pclState p => (0x2000 + 0x100 * p, 0)

/-- NOTIFY_DEST, the address that NOTIFYs go to (Table 12-9). -/
def notifyDest (s : State) : List Byte := plainVal s 0x1015

/-- NOTIFY: the oldest event that has not been reported; with 16 unanswered it is counted and not sent. -/
def execCixaNotify (ev : Event) (s : State) : Out :=
  match s.dict.events with
  | [] => cannot s
  | e :: rest =>
    if e.1 ≠ ev || !s.pwr.lodgeUp then cannot s
    else
      let s := modDict s fun d => { d with events := rest }
      if 16 ≤ s.dict.notices.length then done (countCixa s 4)
      else
        let o := eventObj ev
        let m := cixaMsg 5 s.dict.nextTxid o.1 o.2 0 0 0 e.2
        let s := modDict s fun d =>
          { d with notices := d.notices ++ [{ txid := d.nextTxid, msg := m, resends := 0 }], nextTxid := (d.nextTxid + 1) % 65536 }
        done (send s (.notify (notifyDest s) m))

/-- ACK of a NOTIFY. -/
def execCixaAck (src : Requester) (msg : List Byte) (s : State) : Out :=
  let mg : Bool := match src with
    | .mgmt _ => true
    | .hostWin _ => false
  if !s.pwr.lodgeUp || !mg || mType msg ≠ 6 || field msg 0 1 ≠ 1 || decide (msg.length < 16) then cannot s
  else done (modDict s fun d => { d with notices := d.notices.filter fun x => x.txid ≠ mTxid msg })

/-- NOTIFY_RESEND: 10 ms without ACK; after 3 resends it counts as unacknowledged. -/
def execNotifyResend (txid : Nat) (s : State) : Out :=
  match s.dict.notices.find? fun x => x.txid = txid with
  | none => cannot s
  | some x =>
    if !s.pwr.lodgeUp then cannot s
    else if 3 ≤ x.resends then
      done (countCixa (modDict s fun d => { d with notices := d.notices.filter fun y => y.txid ≠ txid }) 3)
    else
      let s := modDict s fun d => { d with notices := d.notices.map fun y => if y.txid = txid then { y with resends := y.resends + 1 } else y }
      done (send s (.notify (notifyDest s) x.msg))

/-! ### The host window (R359, R360, Tables 12-5 to 12-7) -/

/-- The interrupt of a host window. -/
def hwIrq (s : State) (k : Nat) : State :=
  let x := getPort s k
  if x.hwCtl.getLsbD 5 then send s (.msix k (x.hwCtl.toNat % 32)) else s

/-- The message in HW_REQ: its header and the data that LENGTH names; a READ-SEG has none. -/
def hwMsg (req : List Byte) : List Byte :=
  let b := fit 1040 req
  b.take (16 + if mType b = 3 then 0 else min (mLen b) 1024)

/-- What the host writes before HW_CTL: HW_REQ unless BUSY, and HW_STAT, whose flags clear. -/
def hwPut (x : Port) (req : List Byte) (stat v : W32) : Port :=
  { x with hwReq := if x.hwBusy then x.hwReq else fit 1040 req,
           hwTimeout := x.hwTimeout && !stat.getLsbD 2, hwDone := x.hwDone && !stat.getLsbD 1, hwCtl := v &&& 0x3F }

/-- GO: the port copies HW_REQ into the Lodge's queue, unless BUSY. A TYPE that is no request has no answer: the Lodge discards
it as it arrives. See log 102 [DESIGN CHOICE]. -/
def execHwGo (port : Nat) (req : List Byte) (stat v : W32) (s : State) : Out :=
  if !srcOk s (.host port) then cannot s
  else
    let busy := (getPort s port).hwBusy
    let s := modPort s port fun x => hwPut x req stat v
    if busy || !v.getLsbD 31 then done s
    else
      let s := modPort s port fun x => { x with hwBusy := true, hwAck := none }
      let m := hwMsg (getPort s port).hwReq
      let s := countCixa s 0
      if 32 ≤ s.dict.queue.length then done (countCixa s 2)
      else if mType m = 0 ∨ 4 < mType m then done s
      else done (modDict s fun d => { d with queue := d.queue ++ [(.hostWin port, m)] })

/-- HOST_WINDOW_TIMEOUT: no ACK within 20 ms; a late one is discarded. -/
def execHostWindowTimeout (port : Nat) (s : State) : Out :=
  if !(getPort s port).hwBusy || (getPort s port).hwAck.isSome then cannot s
  else
    let late := s.dict.queue.countP fun e => e.1 = .hostWin port
    done (hwIrq (modPort s port fun x => { x with hwTimeout := true, hwBusy := false, hwStale := late }) port)

/-- HOST_WINDOW_RESPONSE: the ACK is in HW_RSP. -/
def execHostWindowResponse (port : Nat) (s : State) : Out :=
  match (getPort s port).hwAck with
  | none => cannot s
  | some a => done (hwIrq (modPort s port fun x => { x with hwRsp := fit 1040 a, hwAck := none, hwBusy := false, hwDone := true }) port)

/-! ### The management segment (R346 to R348) -/

/-- PLCA_BEACON_LOSS: with PLCA on, the port falls back to CSMA/CD, or comes back to PLCA (R346). See log 85 [DEDUCED]. -/
def execPlcaBeaconLoss (lost : Bool) (s : State) : Out :=
  if s.pwr.lodgeUp && s.dict.plcaNode ≠ 0xFF then done (modDict s fun d => { d with csmaFallback := lost }) else cannot s

/-- ICMPV6_ECHO_REQUEST: answered with its data (R348). -/
def execIcmpv6EchoRequest (src : Nat) (data : List Byte) (s : State) : Out :=
  if s.pwr.lodgeUp then done (send s (.echoReply src data)) else cannot s

end Sys2Proof.Machine
end

