-- ==== Sys2Proof/Machine/Scalar.lean ====
section
/-!
DEFINITION. The scalar class without its loads and stores (R70, Table 3-8).
-/

namespace Sys2Proof.Machine

/-- A scalar operation of class 0 with operand b: s[RD] becomes f s[RA] b (R70). -/
def aluB (op : Nat) (f : W64 → W64 → W64) (e : Enc) (s : State) : Out :=
  issue (bShape 0 op e false false) e s fun s => wrS e s (f ((e.x s).s e.ra) (opB (e.x s) e))

/-- The shift count b[5:0]. -/
def shiftBy (b : W64) : Nat := b.toNat % 64

/-- 1 for true, 0 for false, in a scalar register. -/
def flag64 (b : Bool) : W64 := if b then 1 else 0

def execAdd (e : Enc) (s : State) : Out := aluB 0x01 (fun a b => a + b) e s
def execSub (e : Enc) (s : State) : Out := aluB 0x02 (fun a b => a - b) e s
def execAnd (e : Enc) (s : State) : Out := aluB 0x03 (fun a b => a &&& b) e s
def execOr (e : Enc) (s : State) : Out := aluB 0x04 (fun a b => a ||| b) e s
def execXor (e : Enc) (s : State) : Out := aluB 0x05 (fun a b => a ^^^ b) e s
def execSll (e : Enc) (s : State) : Out := aluB 0x06 (fun a b => a <<< shiftBy b) e s
def execSrl (e : Enc) (s : State) : Out := aluB 0x07 (fun a b => a >>> shiftBy b) e s
def execSra (e : Enc) (s : State) : Out := aluB 0x08 (fun a b => a.sshiftRight (shiftBy b)) e s
def execMul (e : Enc) (s : State) : Out := aluB 0x09 (fun a b => a * b) e s
def execMulhs (e : Enc) (s : State) : Out := aluB 0x0A (fun a b => BitVec.ofInt 64 (a.toInt * b.toInt / 2 ^ 64)) e s
def execMulhu (e : Enc) (s : State) : Out := aluB 0x0B (fun a b => BitVec.ofNat 64 (a.toNat * b.toNat / 2 ^ 64)) e s
def execMin (e : Enc) (s : State) : Out := aluB 0x0C (fun a b => if a.toInt < b.toInt then a else b) e s
def execMax (e : Enc) (s : State) : Out := aluB 0x0D (fun a b => if a.toInt < b.toInt then b else a) e s
def execSlt (e : Enc) (s : State) : Out := aluB 0x0E (fun a b => flag64 (decide (a.toInt < b.toInt))) e s
def execSltu (e : Enc) (s : State) : Out := aluB 0x0F (fun a b => flag64 (decide (a.toNat < b.toNat))) e s
def execSeq (e : Enc) (s : State) : Out := aluB 0x10 (fun a b => flag64 (decide (a = b))) e s

/-- LIH: IMM becomes the upper half of s[RD], the lower half stays (R70). -/
def execLih (e : Enc) (s : State) : Out :=
  issue { cls := 0, op := 0x11, rd := true, imm := ~~~0 } e s fun s =>
    wrS e s (e.imm ++ ((e.x s).s e.rd).extractLsb' 0 32)

/-- MOVA: a[RD] = s[RA] + b (R70). -/
def execMova (e : Enc) (s : State) : Out :=
  issue (bShape 0 0x12 e true false) e s fun s => wrA e s ((e.x s).s e.ra + opB (e.x s) e)

/-- MOVS: s[RD] = a[RA] (R70). -/
def execMovs (e : Enc) (s : State) : Out :=
  issue { cls := 0, op := 0x13, rd := true, ra := true, aA := true } e s fun s => wrS e s ((e.x s).a e.ra)

/-- ADDA: a[RD] = a[RA] + b (R70). -/
def execAdda (e : Enc) (s : State) : Out :=
  issue (bShape 0 0x17 e true true) e s fun s => wrA e s ((e.x s).a e.ra + opB (e.x s) e)

end Sys2Proof.Machine
end

