-- ==== Sys2Proof/Machine/Dispatch.lean ====
section
/-!
DEFINITION. What each command does: one arm per row of spec/opcode_table.json, each one call of its meaning.
-/

namespace Sys2Proof.Machine

/-- The effect of a command on everything but the queue. -/
def exec (i : Instr) (s : State) : Host.Outcome State Fault Refusal :=
  match i with
  | .add e => Sys2Proof.Machine.execAdd e s
  | .sub e => Sys2Proof.Machine.execSub e s
  | .and e => Sys2Proof.Machine.execAnd e s
  | .or e => Sys2Proof.Machine.execOr e s
  | .xor e => Sys2Proof.Machine.execXor e s
  | .sll e => Sys2Proof.Machine.execSll e s
  | .srl e => Sys2Proof.Machine.execSrl e s
  | .sra e => Sys2Proof.Machine.execSra e s
  | .mul e => Sys2Proof.Machine.execMul e s
  | .mulhs e => Sys2Proof.Machine.execMulhs e s
  | .mulhu e => Sys2Proof.Machine.execMulhu e s
  | .min e => Sys2Proof.Machine.execMin e s
  | .max e => Sys2Proof.Machine.execMax e s
  | .slt e => Sys2Proof.Machine.execSlt e s
  | .sltu e => Sys2Proof.Machine.execSltu e s
  | .seq e => Sys2Proof.Machine.execSeq e s
  | .lih e => Sys2Proof.Machine.execLih e s
  | .mova e => Sys2Proof.Machine.execMova e s
  | .movs e => Sys2Proof.Machine.execMovs e s
  | .adda e => Sys2Proof.Machine.execAdda e s
  | .ld e => Sys2Proof.Machine.execLd e s
  | .st e => Sys2Proof.Machine.execSt e s
  | .loadDataArrival core ctx => Sys2Proof.Machine.execLoadDataArrival core ctx s
  | .br e => Sys2Proof.Machine.execBr e s
  | .bz e => Sys2Proof.Machine.execBz e s
  | .bnz e => Sys2Proof.Machine.execBnz e s
  | .blt e => Sys2Proof.Machine.execBlt e s
  | .bge e => Sys2Proof.Machine.execBge e s
  | .jal e => Sys2Proof.Machine.execJal e s
  | .jr e => Sys2Proof.Machine.execJr e s
  | .rdcr e => Sys2Proof.Machine.execRdcr e s
  | .wrcr e => Sys2Proof.Machine.execWrcr e s
  | .yield e => Sys2Proof.Machine.execYield e s
  | .halt e => Sys2Proof.Machine.execHalt e s
  | .swTrap e => Sys2Proof.Machine.execSwTrap e s
  | .quantumExpiry core => Sys2Proof.Machine.execQuantumExpiry core s
  | .stallBecomesSwitchEligible core ctx => Sys2Proof.Machine.execStallBecomesSwitchEligible core ctx s
  | .contextSelect core => Sys2Proof.Machine.execContextSelect core s
  | .arrive e => Sys2Proof.Machine.execArrive e s
  | .beaconAdd e => Sys2Proof.Machine.execBeaconAdd e s
  | .beaconSet e => Sys2Proof.Machine.execBeaconSet e s
  | .beaconWait e => Sys2Proof.Machine.execBeaconWait e s
  | .beaconMessageAtRoot n => Sys2Proof.Machine.execBeaconMessageAtRoot n s
  | .beaconWake core ctx => Sys2Proof.Machine.execBeaconWake core ctx s
  | .cpy e => Sys2Proof.Machine.execCpy e s
  | .cpyw e => Sys2Proof.Machine.execCpyw e s
  | .cpyq e => Sys2Proof.Machine.execCpyq e s
  | .cpyclr e => Sys2Proof.Machine.execCpyclr e s
  | .copyDescriptorStart core ch => Sys2Proof.Machine.execCopyDescriptorStart core ch s
  | .copyRow core ch => Sys2Proof.Machine.execCopyRow core ch s
  | .copyDescriptorComplete core ch => Sys2Proof.Machine.execCopyDescriptorComplete core ch s
  | .vadd e => Sys2Proof.Machine.execVadd e s
  | .vsub e => Sys2Proof.Machine.execVsub e s
  | .vmul e => Sys2Proof.Machine.execVmul e s
  | .vfma e => Sys2Proof.Machine.execVfma e s
  | .vmax e => Sys2Proof.Machine.execVmax e s
  | .vmin e => Sys2Proof.Machine.execVmin e s
  | .vabs e => Sys2Proof.Machine.execVabs e s
  | .vneg e => Sys2Proof.Machine.execVneg e s
  | .vrcp e => Sys2Proof.Machine.execVrcp e s
  | .vsqrt e => Sys2Proof.Machine.execVsqrt e s
  | .vrsqrt e => Sys2Proof.Machine.execVrsqrt e s
  | .vexp2 e => Sys2Proof.Machine.execVexp2 e s
  | .vlog2 e => Sys2Proof.Machine.execVlog2 e s
  | .vsel e => Sys2Proof.Machine.execVsel e s
  | .vcmplt e => Sys2Proof.Machine.execVcmplt e s
  | .vrsum e => Sys2Proof.Machine.execVrsum e s
  | .vrmax e => Sys2Proof.Machine.execVrmax e s
  | .vld e => Sys2Proof.Machine.execVld e s
  | .vst e => Sys2Proof.Machine.execVst e s
  | .vbcast e => Sys2Proof.Machine.execVbcast e s
  | .vmovs e => Sys2Proof.Machine.execVmovs e s
  | .vcvt e => Sys2Proof.Machine.execVcvt e s
  | .vdadd e => Sys2Proof.Machine.execVdadd e s
  | .viadd e => Sys2Proof.Machine.execViadd e s
  | .vldd e => Sys2Proof.Machine.execVldd e s
  | .vstd e => Sys2Proof.Machine.execVstd e s
  | .tld e => Sys2Proof.Machine.execTld e s
  | .teval e => Sys2Proof.Machine.execTeval e s
  | .tevalm e => Sys2Proof.Machine.execTevalm e s
  | .tcfg e => Sys2Proof.Machine.execTcfg e s
  | .tseq e => Sys2Proof.Machine.execTseq e s
  | .tsync e => Sys2Proof.Machine.execTsync e s
  | .tdrn e => Sys2Proof.Machine.execTdrn e s
  | .tdrv e => Sys2Proof.Machine.execTdrv e s
  | .accrel e => Sys2Proof.Machine.execAccrel e s
  | .panelLoad core arr => Sys2Proof.Machine.execPanelLoad core arr s
  | .streamRowEntry core => Sys2Proof.Machine.execStreamRowEntry core s
  | .tileRowCommit core flip => Sys2Proof.Machine.execTileRowCommit core flip s
  | .tseqLastRowEntered core => Sys2Proof.Machine.execTseqLastRowEntered core s
  | .drainRow core => Sys2Proof.Machine.execDrainRow core s
  | .drainComplete core => Sys2Proof.Machine.execDrainComplete core s
  | .cown e => Sys2Proof.Machine.execCown e s
  | .cpush e => Sys2Proof.Machine.execCpush e s
  | .cpopv e => Sys2Proof.Machine.execCpopv e s
  | .cpop e => Sys2Proof.Machine.execCpop e s
  | .crsv e => Sys2Proof.Machine.execCrsv e s
  | .creset e => Sys2Proof.Machine.execCreset e s
  | .cairnSpillComplete core => Sys2Proof.Machine.execCairnSpillComplete core s
  | .cairnRefillComplete core => Sys2Proof.Machine.execCairnRefillComplete core s
  | .cairnSpillStart core => Sys2Proof.Machine.execCairnSpillStart core s
  | .winit e => Sys2Proof.Machine.execWinit e s
  | .winitZeroingComplete core => Sys2Proof.Machine.execWinitZeroingComplete core s
  | .wzero e => Sys2Proof.Machine.execWzero e s
  | .waddv e => Sys2Proof.Machine.execWaddv e s
  | .wrdv e => Sys2Proof.Machine.execWrdv e s
  | .wflush e => Sys2Proof.Machine.execWflush e s
  | .wsync e => Sys2Proof.Machine.execWsync e s
  | .flushComplete core => Sys2Proof.Machine.execFlushComplete core s
  | .wgaSumArrival core => Sys2Proof.Machine.execWgaSumArrival core s
  | .mdrop e => Sys2Proof.Machine.execMdrop e s
  | .mbits e => Sys2Proof.Machine.execMbits e s
  | .mraw e => Sys2Proof.Machine.execMraw e s
  | .ulaunch e => Sys2Proof.Machine.execUlaunch e s
  | .updateLaunchStart core ctx => Sys2Proof.Machine.execUpdateLaunchStart core ctx s
  | .updateGroupCommit core => Sys2Proof.Machine.execUpdateGroupCommit core s
  | .updateLaunchComplete core => Sys2Proof.Machine.execUpdateLaunchComplete core s
  | .ugauge e => Sys2Proof.Machine.execUgauge e s
  | .ngsend e => Sys2Proof.Machine.execNgsend e s
  | .ngaccArrival core => Sys2Proof.Machine.execNgaccArrival core s
  | .ngcast e => Sys2Proof.Machine.execNgcast e s
  | .gateValueArrival core => Sys2Proof.Machine.execGateValueArrival core s
  | .ngwait e => Sys2Proof.Machine.execNgwait e s
  | .theodoliteTallyWrite p => Sys2Proof.Machine.execTheodoliteTallyWrite p s
  | .terraceRemoteAccess site bondErr => Sys2Proof.Machine.execTerraceRemoteAccess site bondErr s
  | .flitAtRouter n ok credit => Sys2Proof.Machine.execFlitAtRouter n ok credit s
  | .tailArrival n => Sys2Proof.Machine.execTailArrival n s
  | .multicastCountComplete core ch => Sys2Proof.Machine.execMulticastCountComplete core ch s
  | .routerFailure site => Sys2Proof.Machine.execRouterFailure site s
  | .routerCreditTimeout site => Sys2Proof.Machine.execRouterCreditTimeout site s
  | .detourLoad die => Sys2Proof.Machine.execDetourLoad die s
  | .bridgeFrameReceived die col crcOk => Sys2Proof.Machine.execBridgeFrameReceived die col crcOk s
  | .bridgeFrameReplay die col => Sys2Proof.Machine.execBridgeFrameReplay die col s
  | .farRequestAtPort port => Sys2Proof.Machine.execFarRequestAtPort port s
  | .cadastreCacheMiss port => Sys2Proof.Machine.execCadastreCacheMiss port s
  | .ringCacheFill port errs => Sys2Proof.Machine.execRingCacheFill port errs s
  | .zeroFillComplete fpn => Sys2Proof.Machine.execZeroFillComplete fpn s
  | .rowRetirement place row => Sys2Proof.Machine.execRowRetirement place row s
  | .terraceRowRetire site row => Sys2Proof.Machine.execTerraceRowRetire site row s
  | .pageRetirementComplete port => Sys2Proof.Machine.execPageRetirementComplete port s
  | .uncorrectableError u => Sys2Proof.Machine.execUncorrectableError u s
  | .scrubRead die t => Sys2Proof.Machine.execScrubRead die t s
  | .lapEnd die far length => Sys2Proof.Machine.execLapEnd die far length s
  | .fenceAndRelocate core => Sys2Proof.Machine.execFenceAndRelocate core s
  | .stepReplay p => Sys2Proof.Machine.execStepReplay p s
  | .moduleFailStop cls => Sys2Proof.Machine.execModuleFailStop cls s
  | .hostMemWrite port off data => Sys2Proof.Machine.execHostMemWrite port off data s
  | .hostMemRead port off len => Sys2Proof.Machine.execHostMemRead port off len s
  | .windowRecordWrite port off data => Sys2Proof.Machine.execWindowRecordWrite port off data s
  | .decoder1Read port off len => Sys2Proof.Machine.execDecoder1Read port off len s
  | .segmentExecute w => Sys2Proof.Machine.execSegmentExecute w s
  | .hostConfigRequest port => Sys2Proof.Machine.execHostConfigRequest port s
  | .bisnpResponse port line data => Sys2Proof.Machine.execBisnpResponse port line data s
  | .snoopTimeout port line => Sys2Proof.Machine.execSnoopTimeout port line s
  | .h2dSnoop port => Sys2Proof.Machine.execH2dSnoop port s
  | .recordGloballyObserved port => Sys2Proof.Machine.execRecordGloballyObserved port s
  | .portLinkEvent port ev => Sys2Proof.Machine.execPortLinkEvent port ev s
  | .perstN port asserted => Sys2Proof.Machine.execPerstN port asserted s
  | .nop w => Sys2Proof.Machine.execNop w s
  | .segseal w => Sys2Proof.Machine.execSegseal w s
  | .loadp w => Sys2Proof.Machine.execLoadp w s
  | .start w => Sys2Proof.Machine.execStart w s
  | .startCompletion w => Sys2Proof.Machine.execStartCompletion w s
  | .bmark w => Sys2Proof.Machine.execBmark w s
  | .stepEndWithoutMark p cause => Sys2Proof.Machine.execStepEndWithoutMark p cause s
  | .operand w => Sys2Proof.Machine.execOperand w s
  | .mcreg w => Sys2Proof.Machine.execMcreg w s
  | .mapPages w => Sys2Proof.Machine.execMapPages w s
  | .unmapPages w => Sys2Proof.Machine.execUnmapPages w s
  | .cleanPages w => Sys2Proof.Machine.execCleanPages w s
  | .sealRange w => Sys2Proof.Machine.execSealRange w s
  | .unsealRange w => Sys2Proof.Machine.execUnsealRange w s
  | .faultabort w => Sys2Proof.Machine.execFaultabort w s
  | .rwack w => Sys2Proof.Machine.execRwack w s
  | .preempt w => Sys2Proof.Machine.execPreempt w s
  | .restoreCtx w => Sys2Proof.Machine.execRestoreCtx w s
  | .ctxreset w => Sys2Proof.Machine.execCtxreset w s
  | .preset w => Sys2Proof.Machine.execPreset w s
  | .parcelResetComplete p => Sys2Proof.Machine.execParcelResetComplete p s
  | .coreReset site => Sys2Proof.Machine.execCoreReset site s
  | .windowEnable src w al v => Sys2Proof.Machine.execWindowEnable src w al v s
  | .windowDisable src w al v => Sys2Proof.Machine.execWindowDisable src w al v s
  | .crHeadWrite src w al v => Sys2Proof.Machine.execCrHeadWrite src w al v s
  | .unlock src block v => Sys2Proof.Machine.execUnlock src block v s
  | .snap src block v => Sys2Proof.Machine.execSnap src block v s
  | .cclr src block v => Sys2Proof.Machine.execCclr src block v s
  | .scancel src block v => Sys2Proof.Machine.execScancel src block v s
  | .counterLowRead src addr => Sys2Proof.Machine.execCounterLowRead src addr s
  | .configCheck block => Sys2Proof.Machine.execConfigCheck block s
  | .cadSel src die v => Sys2Proof.Machine.execCadSel src die v s
  | .groundskeeperEnable src die al v => Sys2Proof.Machine.execGroundskeeperEnable src die al v s
  | .registerWrite src addr v => Sys2Proof.Machine.execRegisterWrite src addr v s
  | .hwGo port req stat v => Sys2Proof.Machine.execHwGo port req stat v s
  | .hostWindowTimeout port => Sys2Proof.Machine.execHostWindowTimeout port s
  | .hostWindowResponse port => Sys2Proof.Machine.execHostWindowResponse port s
  | .cixaRead src msg => Sys2Proof.Machine.execCixaRead src msg s
  | .cixaWrite src msg => Sys2Proof.Machine.execCixaWrite src msg s
  | .cixaReadSeg src msg => Sys2Proof.Machine.execCixaReadSeg src msg s
  | .cixaWriteSeg src msg => Sys2Proof.Machine.execCixaWriteSeg src msg s
  | .cixaAck src msg => Sys2Proof.Machine.execCixaAck src msg s
  | .cixaNotify ev => Sys2Proof.Machine.execCixaNotify ev s
  | .notifyResend txid => Sys2Proof.Machine.execNotifyResend txid s
  | .segmentSessionTimeout idx sub => Sys2Proof.Machine.execSegmentSessionTimeout idx sub s
  | .snapshotExpiry src idx sub => Sys2Proof.Machine.execSnapshotExpiry src idx sub s
  | .queueFullDiscard src msg => Sys2Proof.Machine.execQueueFullDiscard src msg s
  | .objectWrite src idx sub data => Sys2Proof.Machine.execObjectWrite src idx sub data s
  | .parcelCreate p => Sys2Proof.Machine.execParcelCreate p s
  | .parcelRemove p => Sys2Proof.Machine.execParcelRemove p s
  | .pclCtlReset p => Sys2Proof.Machine.execPclCtlReset p s
  | .pclBeds p beds => Sys2Proof.Machine.execPclBeds p beds s
  | .bcnAlloc p die blocks => Sys2Proof.Machine.execBcnAlloc p die blocks s
  | .snapAll ident => Sys2Proof.Machine.execSnapAll ident s
  | .snapPcl p ident => Sys2Proof.Machine.execSnapPcl p ident s
  | .snapshotComplete missed => Sys2Proof.Machine.execSnapshotComplete missed s
  | .regXferWrite src addrWord value => Sys2Proof.Machine.execRegXferWrite src addrWord value s
  | .regXferSelect src addrWord => Sys2Proof.Machine.execRegXferSelect src addrWord s
  | .regXferRead src => Sys2Proof.Machine.execRegXferRead src s
  | .incAck seqNo => Sys2Proof.Machine.execIncAck seqNo s
  | .incOvf cls v => Sys2Proof.Machine.execIncOvf cls v s
  | .softClear v => Sys2Proof.Machine.execSoftClear v s
  | .coreReturn core => Sys2Proof.Machine.execCoreReturn core s
  | .clkBed bed v => Sys2Proof.Machine.execClkBed bed v s
  | .clkHalf half v => Sys2Proof.Machine.execClkHalf half v s
  | .modReset v => Sys2Proof.Machine.execModReset v s
  | .alertClr v => Sys2Proof.Machine.execAlertClr v s
  | .plcaNode v => Sys2Proof.Machine.execPlcaNode v s
  | .rejoinStart => Sys2Proof.Machine.execRejoinStart s
  | .rejoinCancel => Sys2Proof.Machine.execRejoinCancel s
  | .fwUpload slot bundle => Sys2Proof.Machine.execFwUpload slot bundle s
  | .fwNext v => Sys2Proof.Machine.execFwNext v s
  | .fwSvnBurn v => Sys2Proof.Machine.execFwSvnBurn v s
  | .spdmReq src req => Sys2Proof.Machine.execSpdmReq src req s
  | .measNonce src nonce => Sys2Proof.Machine.execMeasNonce src nonce s
  | .heartbeat f => Sys2Proof.Machine.execHeartbeat f s
  | .heartbeatTimer => Sys2Proof.Machine.execHeartbeatTimer s
  | .peerLost => Sys2Proof.Machine.execPeerLost s
  | .digest f => Sys2Proof.Machine.execDigest f s
  | .digestTimeout p => Sys2Proof.Machine.execDigestTimeout p s
  | .failstop f => Sys2Proof.Machine.execFailstop f s
  | .failstopRepeat => Sys2Proof.Machine.execFailstopRepeat s
  | .twinState f => Sys2Proof.Machine.execTwinState f s
  | .stateData f => Sys2Proof.Machine.execStateData f s
  | .pair f => Sys2Proof.Machine.execPair f s
  | .pairAck f => Sys2Proof.Machine.execPairAck f s
  | .unpair f => Sys2Proof.Machine.execUnpair f s
  | .rejoinOffer f => Sys2Proof.Machine.execRejoinOffer f s
  | .rejoinAccept f => Sys2Proof.Machine.execRejoinAccept f s
  | .rejoinDone f => Sys2Proof.Machine.execRejoinDone f s
  | .twinFrameReplay => Sys2Proof.Machine.execTwinFrameReplay s
  | .laneDrop lane => Sys2Proof.Machine.execLaneDrop lane s
  | .pairingTimeout => Sys2Proof.Machine.execPairingTimeout s
  | .lodgeSupplyUp vin => Sys2Proof.Machine.execLodgeSupplyUp vin s
  | .lodgeSupplyLoss vin => Sys2Proof.Machine.execLodgeSupplyLoss vin s
  | .inputReady vin => Sys2Proof.Machine.execInputReady vin s
  | .powerEvent vin => Sys2Proof.Machine.execPowerEvent vin s
  | .hostPortsPoison => Sys2Proof.Machine.execHostPortsPoison s
  | .powerHalt => Sys2Proof.Machine.execPowerHalt s
  | .overVoltageWarning vin => Sys2Proof.Machine.execOverVoltageWarning vin s
  | .overVoltageTrip vin => Sys2Proof.Machine.execOverVoltageTrip vin s
  | .resetN asserted => Sys2Proof.Machine.execResetN asserted s
  | .resetNHeld => Sys2Proof.Machine.execResetNHeld s
  | .fenceN => Sys2Proof.Machine.execFenceN s
  | .pwrWarnN => Sys2Proof.Machine.execPwrWarnN s
  | .inputFlapping pin => Sys2Proof.Machine.execInputFlapping pin s
  | .lockoutEnd pin asserted => Sys2Proof.Machine.execLockoutEnd pin asserted s
  | .temperatureSample tj iin pin => Sys2Proof.Machine.execTemperatureSample tj iin pin s
  | .temperatureWarning => Sys2Proof.Machine.execTemperatureWarning s
  | .thermalTrip => Sys2Proof.Machine.execThermalTrip s
  | .clockLockLoss dom => Sys2Proof.Machine.execClockLockLoss dom s
  | .bootRomVerify => Sys2Proof.Machine.execBootRomVerify s
  | .recovery => Sys2Proof.Machine.execRecovery s
  | .repairPlatLoad => Sys2Proof.Machine.execRepairPlatLoad s
  | .computeRamp => Sys2Proof.Machine.execComputeRamp s
  | .gatehouseImageLoad => Sys2Proof.Machine.execGatehouseImageLoad s
  | .linkTraining links lanes => Sys2Proof.Machine.execLinkTraining links lanes s
  | .memoryInit => Sys2Proof.Machine.execMemoryInit s
  | .pairing => Sys2Proof.Machine.execPairing s
  | .bringupComplete => Sys2Proof.Machine.execBringupComplete s
  | .bringupStepFailed stp => Sys2Proof.Machine.execBringupStepFailed stp s
  | .overVoltageClear vin => Sys2Proof.Machine.execOverVoltageClear vin s
  | .fenceNRelease => Sys2Proof.Machine.execFenceNRelease s
  | .pwrWarnNRelease => Sys2Proof.Machine.execPwrWarnNRelease s
  | .keptAckExpiry src txid => Sys2Proof.Machine.execKeptAckExpiry src txid s
  | .plcaBeaconLoss lost => Sys2Proof.Machine.execPlcaBeaconLoss lost s
  | .icmpv6EchoRequest src data => Sys2Proof.Machine.execIcmpv6EchoRequest src data s
  | .cxlLinkUp port speed width => Sys2Proof.Machine.execCxlLinkUp port speed width s
  | .contextResetComplete core ctx => Sys2Proof.Machine.execContextResetComplete core ctx s
  | .hdmDecoderCommit port dec base => Sys2Proof.Machine.execHdmDecoderCommit port dec base s

end Sys2Proof.Machine
end

