-- ==== Sys2Proof/Safety.lean ====
section
/-!
DEFINITION. The terms in which claims about the module are stated.
-/

namespace Sys2Proof.Machine

/-- The state that an answer leaves: the next state; the state itself where there is none. -/
def after (s : State) : Out → State
  | .next t => t
  | _ => s

/-- The state that the answer to a record leaves. -/
def RecRes.after : RecRes → State
  | .fin _ _ s | .own s | .wait s => s

/-- The state that the answer for one page leaves; s where the page is refused. -/
def PageRes.after (s : State) : PageRes → State
  | .refused _ => s
  | .wait t | .ok t => t

/-- The state that a stopped access of a Gatehouse leaves. -/
def GhStop.after : GhStop → State
  | .fault s | .wait s => s

/-- The binding of logical cores to sites (R24, R25, R27, R28, R252): the placement without the relocations and returns
that wait. -/
def Place.core (x : Place) : Place := { x with fencing := [], returns := [] }

/-- The logical core's slot has moved to the idle site (R27). -/
def relocated (s : State) (c : Nat) : Prop := sget 0 s.place.reloc c ≠ 0

/-- The placement is sound: a bed's factory idle site is one of its 25, a core that has moved has moved to it and has
consumed the bed's spare, and only one core of a bed has (R24 to R27). -/
def Placed (s : State) : Prop :=
  (∀ bed, factoryIdle s bed < 25) ∧
  (∀ c, relocated s c → csite s c = bedSite (coreBed c) (factoryIdle s (coreBed c)) ∧
    sget false s.place.used (coreBed c) = true) ∧
  ∀ c d, relocated s c → relocated s d → coreBed c = coreBed d → c = d

/-! ### Core instructions -/

/-- An instruction of shape h issues and executes: nothing keeps its context from issuing, its PC is in near memory, its
row is in the row buffer or free of parity errors, and its word is legal (R59 to R61, R64, R66, R76). -/
def Issues (h : Shape) (e : Enc) (s : State) : Prop :=
  canIssue s e = true ∧ (e.x s).pc.toNat < nearSize ∧ (fetchRow s e.core e.ctx).isSome = true ∧ h.legal e = true

/-- The state in which an issued instruction acts: its row is in the row buffer, and it is counted. -/
def issued (e : Enc) (s : State) : State := countIssue ((fetchRow s e.core e.ctx).getD s) e.core e.ctx

/-- Every byte of near memory, terraces and far memory reads as before. -/
def SameMemory (s t : State) : Prop :=
  (∀ n a, mrd (getSite t n).near a = mrd (getSite s n).near a) ∧
  (∀ n a, mrd (getSite t n).terr a = mrd (getSite s n).terr a) ∧
  ∀ a, mrd t.far.mem a = mrd s.far.mem a

/-- Nothing but sites and registers has changed, and of these nothing but core c's site, which other sites do not share,
and counters; of the counters only CS_ISSUED of that site has, by one. -/
def OnlySite (c : Nat) (s t : State) : Prop :=
  t = { s with sites := t.sites, regs := t.regs } ∧ t.regs = { s.regs with ctrs := t.regs.ctrs } ∧
  (∀ i, sget 0 t.regs.ctrs i = sget 0 s.regs.ctrs i + (if i = siteBlock (csite s c) * 64 then 1 else 0)) ∧
  ∀ n, n ≠ csite s c → getSite t n = getSite s n

/-- Of the core's site only the contexts have changed, and of these only the instruction's own. -/
def OnlyContext (e : Enc) (s t : State) : Prop :=
  OnlySite e.core s t ∧ SameMemory s t ∧ getCore t e.core = { getCore s e.core with ctxs := (getCore t e.core).ctxs } ∧
  ∀ j, j ≠ e.ctx → getCtx t e.core j = getCtx s e.core j

/-- The instruction's context is y, whatever its row buffer and its quantum are. -/
def CtxIs (e : Enc) (t : State) (y : Ctx) : Prop :=
  e.x t = { y with rowBuf := (e.x t).rowBuf, quantum := (e.x t).quantum }

/-- The command is executed, with s[RD] = v (nothing for s0), the PC at the next instruction, and nothing else changed. -/
def WritesS (i : Instr) (e : Enc) (s : State) (v : W64) : Prop :=
  ∃ t, exec i s = .next t ∧ OnlyContext e s t ∧
    CtxIs e t { e.x s with pc := (e.x s).pc + 8, sregs := (e.x t).sregs } ∧
    ∀ r, (e.x t).s r = if r = e.rd ∧ r ≠ 0 then v else (e.x s).s r

/-- The command is executed, with a[RD] = v, the PC at the next instruction, and nothing else changed. -/
def WritesA (i : Instr) (e : Enc) (s : State) (v : W64) : Prop :=
  ∃ t, exec i s = .next t ∧ OnlyContext e s t ∧
    CtxIs e t { e.x s with pc := (e.x s).pc + 8, aregs := (e.x t).aregs } ∧
    ∀ r, (e.x t).a r = if r = e.rd then v else (e.x s).a r

/-- The command is executed, with the PC at a and nothing else changed. -/
def Jumps (i : Instr) (e : Enc) (s : State) (a : W64) : Prop :=
  ∃ t, exec i s = .next t ∧ OnlyContext e s t ∧ CtxIs e t { e.x s with pc := a }

/-- The command is executed and its context traps at its own PC, with every register and all of memory as before (R67). -/
def Traps (i : Instr) (e : Enc) (s : State) (cause : Nat) (val : W64) : Prop :=
  ∃ t, exec i s = .next t ∧ SameMemory s t ∧
    CtxIs e t { e.x s with st := .trapped, wait := .none, trapcause := BitVec.ofNat 64 cause, trappc := (e.x s).pc,
                           trapval := val, ended := true }

/-- As OnlyContext, and the context has given up the issue slot. -/
def OnlyContextSlot (e : Enc) (s t : State) : Prop :=
  OnlySite e.core s t ∧ SameMemory s t ∧
  getCore t e.core = { getCore s e.core with ctxs := (getCore t e.core).ctxs, lastSlot := e.ctx } ∧
  ∀ j, j ≠ e.ctx → getCtx t e.core j = getCtx s e.core j

/-- Operand b (R70): IMM sign-extended with MOD[0], else s[RB]. -/
def operandB (e : Enc) (s : State) : W64 := if e.md.getLsbD 0 then e.imm.signExtend 64 else (e.x s).s e.rb

/-- The branch target: PC + 8 × IMM (R72). -/
def branchTarget (e : Enc) (s : State) : W64 := (e.x s).pc + 8 * e.imm.signExtend 64

/-- The context owns every vector register of the list (R83). -/
def Owns (e : Enc) (s : State) (rs : List Nat) : Prop := ∀ r ∈ rs, r < 32 ∧ (e.x s).valloc.getLsbD r = true

/-- The command is executed: lane j of vector register r holds w r j and register r has tag d r, the flags fl are set
besides those set before, the PC goes on, and nothing else changes. -/
def WritesV (i : Instr) (e : Enc) (s : State) (w : Nat → Nat → W32) (d : Nat → Datum) (fl : W32) : Prop :=
  ∃ t, exec i s = .next t ∧ OnlySite e.core s t ∧ SameMemory s t ∧
    CtxIs e t { e.x s with pc := (e.x s).pc + 8, nflags := (e.x s).nflags ||| fl } ∧
    (∀ j, j ≠ e.ctx → getCtx t e.core j = getCtx s e.core j) ∧
    getCore t e.core = { getCore s e.core with
      ctxs := (getCore t e.core).ctxs, vlanes := (getCore t e.core).vlanes, vtags := (getCore t e.core).vtags } ∧
    (∀ r, (getCore t e.core).vtag r = d r) ∧ ∀ r j, r < 32 → j < 64 → (getCore t e.core).lane r j = w r j

/-- v[RD] holds f j in lane j; the other registers, and every tag, are as before. -/
def WritesRD (i : Instr) (e : Enc) (s : State) (f : Nat → W32) : Prop :=
  WritesV i e s (fun r j => if r = e.rd.toNat then f j else (getCore s e.core).lane r j) (getCore s e.core).vtag 0

/-- Triple RD holds f j as its element j and has tag d; the other registers are as before, and fl is set. -/
def WritesTriple (i : Instr) (e : Enc) (s : State) (f : Nat → W96) (d : Datum) (fl : W32) : Prop :=
  WritesV i e s
    (fun r j => if e.rd.toNat ≤ r ∧ r < e.rd.toNat + 3 then (f j).extractLsb' (32 * (r - e.rd.toNat)) 32
      else (getCore s e.core).lane r j)
    (fun r => if r = e.rd.toNat then d else (getCore s e.core).vtag r) fl

/-- Memory after a write of core c at a spot: exactly the bytes at the spot are those given. -/
def StoredAt (c : Nat) (s t : State) (x : Spot) (bs : List Byte) : Prop :=
  (∀ n a, mrd (getSite t n).near a =
    match x with
    | .near off => if n = csite s c ∧ off ≤ a ∧ a < off + bs.length then bs.getD (a - off) 0 else mrd (getSite s n).near a
    | _ => mrd (getSite s n).near a) ∧
  (∀ n a, mrd (getSite t n).terr a =
    match x with
    | .terr _ site off => if n = site ∧ off ≤ a ∧ a < off + bs.length then bs.getD (a - off) 0 else mrd (getSite s n).terr a
    | _ => mrd (getSite s n).terr a) ∧
  ∀ a, mrd t.far.mem a = mrd s.far.mem a

/-- The digest words of a core. -/
def digestOf (s : State) (c : Nat) : Dig := ((getCore s c).cd0, (getCore s c).cd1, (getCore s c).cd2, (getCore s c).cd3)

/-- The command is executed: the bytes bs are stored at the spot x of the address a, counted in the core's digest under
the unit, the PC goes on, and nothing else changes. -/
def Stores (i : Instr) (e : Enc) (s : State) (unit : Nat) (a : W64) (x : Spot) (bs : List Byte) : Prop :=
  ∃ t, exec i s = .next t ∧ StoredAt e.core s t x bs ∧ t = { s with sites := t.sites, regs := t.regs } ∧
    t.regs = { s.regs with ctrs := t.regs.ctrs } ∧ CtxIs e t { e.x s with pc := (e.x s).pc + 8 } ∧
    (∀ j, j ≠ e.ctx → getCtx t e.core j = getCtx s e.core j) ∧
    (∀ n, n ≠ csite s e.core →
      getSite t n = { getSite s n with terr := (getSite t n).terr, terrMarks := (getSite t n).terrMarks }) ∧
    getCore t e.core = { getCore s e.core with
      ctxs := (getCore t e.core).ctxs, near := (getCore t e.core).near, nearMarks := (getCore t e.core).nearMarks,
      terr := (getCore t e.core).terr, terrMarks := (getCore t e.core).terrMarks, cd0 := (getCore t e.core).cd0,
      cd1 := (getCore t e.core).cd1, cd2 := (getCore t e.core).cd2, cd3 := (getCore t e.core).cd3 } ∧
    digestOf t e.core = (digestOf s e.core).plus
      (writeDigest (srcWord (coreParcelNum s e.core) unit e.core) (bs.length / 64 + 2) a bs)

/-- The command is executed and its context waits: WAITING with the reason w, having given up the slot, or stalled in
place, with registers, PC and memory as before. -/
def Waits (i : Instr) (e : Enc) (s : State) (eligible : Bool) (w : Wait) : Prop :=
  ∃ t, exec i s = .next t ∧ SameMemory s t ∧ CtxIs e t { e.x s with st := if eligible then .waiting else .issuing, wait := w }

/-- No segmented write of the objects is open, which would make another write of them BUSY (R354). -/
def NoWriteOpen (s : State) (idxs : List Nat) : Prop := ∀ x ∈ s.dict.sessions, x.idx ∉ idxs

/-- Window w takes record r as one of opcode op that breaks none of Table 11-7's rules: its header and operands keep their
reserved bits zero and the window is of a kind that may hold it (R328, R331 to R333). -/
def RecordRuns (op : Nat) (k : Kinds) (lay : List OpField) (w : Nat) (s : State) (r : Rec) : Prop :=
  curRec s w = some r ∧ recOp r = op ∧ headOk r = true ∧ k.ok (getWin s w).service = true ∧ operandsOk lay r = true


/-- The replay that a frame's NAK asks for, if it asks for one, is not a frame's ninth (R292, R294). -/
def NakServed (f : List Byte) (s : State) : Prop :=
  bit (field f 1 1) 1 = true → triedOut (dropAcked s (BitVec.ofNat 32 (field f 12 4))) = false

/-- A frame of a TYPE arrives on a link that is up, passes R291 and is accepted in its place; u is the state once the replay
that it asks for is sent, and its acknowledgement and its own SEQ are taken (R291, R292). -/
def FrameIn (type : Nat) (f : List Byte) (s u : State) : Prop :=
  twinUp s = true ∧ field f 0 1 = type ∧ frameOk s f = true ∧ NakServed f s ∧ acceptFrame (heedNak f s) f = .ok u

end Sys2Proof.Machine

/-- The word of a core instruction. -/
def Sys2Proof.Instr.enc? : Sys2Proof.Instr → Option Sys2Proof.Enc
  | .add e | .sub e | .and e | .or e | .xor e | .sll e | .srl e | .sra e | .mul e | .mulhs e | .mulhu e | .min e
  | .max e | .slt e | .sltu e | .seq e | .lih e | .mova e | .movs e | .adda e | .ld e | .st e | .br e | .bz e
  | .bnz e | .blt e | .bge e | .jal e | .jr e | .rdcr e | .wrcr e | .yield e | .halt e | .swTrap e | .arrive e
  | .beaconAdd e | .beaconSet e | .beaconWait e | .cpy e | .cpyw e | .cpyq e | .cpyclr e | .vadd e | .vsub e
  | .vmul e | .vfma e | .vmax e | .vmin e | .vabs e | .vneg e | .vrcp e | .vsqrt e | .vrsqrt e | .vexp2 e | .vlog2 e
  | .vsel e | .vcmplt e | .vrsum e | .vrmax e | .vld e | .vst e | .vbcast e | .vmovs e | .vcvt e | .vdadd e
  | .viadd e | .vldd e | .vstd e | .tld e | .teval e | .tevalm e | .tcfg e | .tseq e | .tsync e | .tdrn e | .tdrv e
  | .accrel e | .cown e | .cpush e | .cpopv e | .cpop e | .crsv e | .creset e | .winit e | .wzero e | .waddv e
  | .wrdv e | .wflush e | .wsync e | .mdrop e | .mbits e | .mraw e | .ulaunch e | .ugauge e | .ngsend e | .ngcast e
  | .ngwait e => some e
  | _ => none
end

