-- ==== Sys2Proof/Certificates/Slice0/Obligations.lean ====
section
/-!
DEFINITION. The statements about the model, in the spec's order: the queue and the placement, core instructions, the
engines of a core, mesh and far memory, repair, host ports and records, registers, the dictionary, twin, power.
-/

open Sys2Proof Sys2Proof.Machine

/-! ### The queue, reset and the placement -/

/-- A step takes the command at the front of the queue and executes it with the queue's rest; an empty queue idles, which
is the model's choice (log 3). -/
def Obligations.StepExecutesTheFrontCommand : Prop :=
  (∀ (s : State) (c : Instr) (q : List Instr), s.pending = c :: q → step s = exec c { s with pending := q }) ∧
  ∀ s : State, s.pending = [] → step s = .next s

/-- Reset: the queue is empty, no domain runs, the Lodge is not up, no parcel exists, every byte reads as zero, every core
computes at its own factory site, every context is IDLE with its registers and control registers zero, and the placement
is sound. Zero is the model's choice where the spec gives no value (log 6). -/
def Obligations.ResetState : Prop :=
  (State.reset.pending = [] ∧ State.reset.pwr.lodgeUp = false ∧ State.reset.pwr.locked = 0 ∧ alive State.reset = false ∧
    (∀ p, getPcl State.reset p = {}) ∧ (∀ w, getWin State.reset w = {}) ∧
    (∀ n, getSite State.reset n = {}) ∧ (∀ c k, getCtx State.reset c k = {}) ∧ (∀ c, csite State.reset c = tsite State.reset c) ∧
    State.reset.far.mem = [] ∧ State.reset.twin.st = .solo) ∧
  (Placed State.reset)

/-- Every step keeps the placement sound: a core that has moved has moved to its bed's factory idle site, has consumed the
bed's spare, and is the only one of its bed (R24 to R27). -/
def Obligations.EveryStepKeepsPlacementSound : Prop := ∀ s t : State, Placed s → step s = .next t → Placed t

/-- While the placement is sound, two logical cores never compute at one site, never share a terrace, and no core computes
at the site that holds another's terrace (R24 to R27, R252). -/
def Obligations.CoresNeverShareSite : Prop :=
  ∀ s : State, Placed s →
    (∀ c d, c < 768 → d < 768 → csite s c = csite s d → c = d) ∧
    (∀ c d, c < 768 → d < 768 → tsite s c = tsite s d → c = d) ∧
    ∀ c d, c < 768 → d < 768 → csite s c = tsite s d → c = d

/-- What a core needs in order to issue: while bring-up is not complete, or the module is fail-stopped, halted or stopping
on a power event, no core instruction does anything. -/
def Obligations.NothingIssuesInStoppedModule : Prop :=
  ∀ (i : Instr) (e : Enc) (s : State), i.enc? = some e → alive s = false → exec i s = .next s

/-- Site, bed and core numbers (R8), and the factory's binding: slots 0 to 23 of a bed stand at its sites in raster order of
bed-local position, row by row from west to east, and the idle site is skipped (R25). -/
def Obligations.SitesAndCoresAreNumbered : Prop :=
  (∀ die x y, die < 2 → x < 20 → y < 20 →
    let n := die * 400 + y * 20 + x
    siteDie n = die ∧ siteX n = x ∧ siteY n = y ∧ siteBed n = die * 16 + (y / 5 * 4 + x / 5)) ∧
  (∀ die bed slot, die < 2 → bed < 16 → slot < 24 → coreBed (die * 384 + bed * 24 + slot) = die * 16 + bed) ∧
  (∀ die bed row col, die < 2 → bed < 16 → row < 5 → col < 5 →
    bedSite (die * 16 + bed) (5 * row + col) = die * 400 + (bed / 4 * 5 + row) * 20 + (bed % 4 * 5 + col)) ∧
  ∀ (s : State) (die bed : Nat), die < 2 → bed < 16 → factoryIdle s (die * 16 + bed) < 25 →
    ∃ pos : Nat → Nat,
      (∀ slot, slot < 24 → pos slot < 25 ∧ pos slot ≠ factoryIdle s (die * 16 + bed) ∧
        tsite s (die * 384 + bed * 24 + slot) = bedSite (die * 16 + bed) (pos slot)) ∧
      ∀ i j, i < j → j < 24 → pos i < pos j

/-! ### The scalar class (R70, Table 3-8) -/

/-- The scalar operations with operand b write s[RD] and nothing else; shifts take b[5:0]; MULHS and MULHU are the high
halves of the exact products; comparisons write 1 or 0. LIH replaces the upper half of s[RD] and keeps the lower;
MOVS, MOVA and ADDA move and add address registers. An unused field that is not zero traps as an illegal encoding with
the instruction word in TRAPVAL (R64, R66, Table 3-5): here for ADD, whose RB is unused with MOD[0] = 1 and whose IMM
is unused without it. -/
def Obligations.ScalarOperationResults : Prop :=
  (∀ (e : Enc) (s : State),
      let a := (e.x s).s e.ra
      let b := operandB e s
      let sh := (b.extractLsb' 0 6).toNat
      (Issues (bShape 0 0x01 e false false) e s → WritesS (.add e) e s (a + b)) ∧
      (Issues (bShape 0 0x02 e false false) e s → WritesS (.sub e) e s (a - b)) ∧
      (Issues (bShape 0 0x03 e false false) e s → WritesS (.and e) e s (a &&& b)) ∧
      (Issues (bShape 0 0x04 e false false) e s → WritesS (.or e) e s (a ||| b)) ∧
      (Issues (bShape 0 0x05 e false false) e s → WritesS (.xor e) e s (a ^^^ b)) ∧
      (Issues (bShape 0 0x06 e false false) e s → WritesS (.sll e) e s (a <<< sh)) ∧
      (Issues (bShape 0 0x07 e false false) e s → WritesS (.srl e) e s (a >>> sh)) ∧
      (Issues (bShape 0 0x08 e false false) e s → WritesS (.sra e) e s (a.sshiftRight sh)) ∧
      (Issues (bShape 0 0x09 e false false) e s → WritesS (.mul e) e s (a * b)) ∧
      (Issues (bShape 0 0x0A e false false) e s →
        WritesS (.mulhs e) e s ((a.signExtend 128 * b.signExtend 128).extractLsb' 64 64)) ∧
      (Issues (bShape 0 0x0B e false false) e s →
        WritesS (.mulhu e) e s ((a.zeroExtend 128 * b.zeroExtend 128).extractLsb' 64 64)) ∧
      (Issues (bShape 0 0x0C e false false) e s → WritesS (.min e) e s (if a.slt b then a else b)) ∧
      (Issues (bShape 0 0x0D e false false) e s → WritesS (.max e) e s (if a.slt b then b else a)) ∧
      (Issues (bShape 0 0x0E e false false) e s → WritesS (.slt e) e s (if a.slt b then 1 else 0)) ∧
      (Issues (bShape 0 0x0F e false false) e s → WritesS (.sltu e) e s (if a.ult b then 1 else 0)) ∧
      (Issues (bShape 0 0x10 e false false) e s → WritesS (.seq e) e s (if a = b then 1 else 0))) ∧
  ((∀ (e : Enc) (s : State),
        (Issues { cls := 0, op := 0x11, rd := true, imm := ~~~0 } e s →
          WritesS (.lih e) e s (e.imm ++ ((e.x s).s e.rd).extractLsb' 0 32)) ∧
        (Issues { cls := 0, op := 0x13, rd := true, ra := true, aA := true } e s → WritesS (.movs e) e s ((e.x s).a e.ra)) ∧
        (Issues (bShape 0 0x12 e true false) e s → WritesA (.mova e) e s ((e.x s).s e.ra + operandB e s)) ∧
        (Issues (bShape 0 0x17 e true true) e s → WritesA (.adda e) e s ((e.x s).a e.ra + operandB e s))) ∧
    (∀ (e : Enc) (s : State), canIssue s e = true → (e.x s).pc.toNat < nearSize → (fetchRow s e.core e.ctx).isSome = true →
        (e.md.getLsbD 0 = true ∧ e.rb ≠ 0) ∨ (e.md.getLsbD 0 = false ∧ e.imm ≠ 0) ∨ 2 ≤ e.md.toNat →
        Traps (.add e) e s 0x01 (0#4 ++ 1#6 ++ e.rd ++ e.ra ++ e.rb ++ e.md ++ e.imm)))

/-! ### The control class (R68, R72, Table 3-9) -/

/-- Branches go to PC + 8 × IMM or on; JAL links PC + 8; JR goes to s[RA]. Only the PC, and the link register, change. A JR
to an address that is not a multiple of 8, or that is not in own near memory, traps at the JR (R72). -/
def Obligations.BranchResults : Prop :=
  (∀ (e : Enc) (s : State),
      let a := (e.x s).s e.ra
      let b := (e.x s).s e.rb
      let on := (e.x s).pc + 8
      (Issues { cls := 1, op := 1, imm := ~~~0 } e s → Jumps (.br e) e s (branchTarget e s)) ∧
      (Issues { cls := 1, op := 2, ra := true, imm := ~~~0 } e s → Jumps (.bz e) e s (if a = 0 then branchTarget e s else on)) ∧
      (Issues { cls := 1, op := 3, ra := true, imm := ~~~0 } e s → Jumps (.bnz e) e s (if a = 0 then on else branchTarget e s)) ∧
      (Issues { cls := 1, op := 4, ra := true, rb := true, imm := ~~~0 } e s →
        Jumps (.blt e) e s (if a.slt b then branchTarget e s else on)) ∧
      (Issues { cls := 1, op := 5, ra := true, rb := true, imm := ~~~0 } e s →
        Jumps (.bge e) e s (if a.slt b then on else branchTarget e s)) ∧
      (Issues { cls := 1, op := 6, rd := true, imm := ~~~0 } e s →
        ∃ t, exec (.jal e) s = .next t ∧ OnlyContext e s t ∧
          CtxIs e t { e.x s with pc := branchTarget e s, sregs := (e.x t).sregs } ∧
          ∀ r, (e.x t).s r = if r = e.rd ∧ r ≠ 0 then on else (e.x s).s r) ∧
      (Issues { cls := 1, op := 7, ra := true } e s → a.toNat % 8 = 0 → a.toNat < 2097152 → Jumps (.jr e) e s a)) ∧
  (∀ (e : Enc) (s : State), Issues { cls := 1, op := 7, ra := true } e s →
      (((e.x s).s e.ra).toNat % 8 ≠ 0 → Traps (.jr e) e s 0x02 ((e.x s).s e.ra)) ∧
      (((e.x s).s e.ra).toNat % 8 = 0 → 2097152 ≤ ((e.x s).s e.ra).toNat → Traps (.jr e) e s 0x03 ((e.x s).s e.ra)))

/-- RDCR writes s[RD] with the control register that IMM[7:0] names (R68, Tables 3-6, 4-4, 5-7, 5-9, 6-8); the status
words are packed as their tables say. An index that no table lists traps. WRCR writes the control register that
IMM[7:0] names: NFLAGS clears where s[RA] has a one, read-only registers ignore the write, and the context's own
registers take s[RA]; an index that no table lists traps (R13, R68), and so do TOWN, TSTAT, TDESC and TCOUNT (R99). A
write of VALLOC naming a register that another context of the core holds traps, and takes nothing; otherwise the
context holds exactly the registers named, and those newly claimed carry datum tag 0 (R83, R86). -/
def Obligations.ControlRegistersReadAndWrite : Prop :=
  (∀ (e : Enc) (s : State), Issues { cls := 1, op := 8, rd := true, imm := 0xFF } e s →
      let x := e.x s
      let y := getCore s e.core
      (∀ r ∈ ([(0x00, ctxStat s e.core e.ctx), (0x01, x.pc), (0x02, x.nflags.zeroExtend 64), (0x03, x.tstart),
               (0x04, x.trapcause), (0x05, x.trappc), (0x06, x.trapval), (0x07, x.valloc.zeroExtend 64), (0x08, x.mseed),
               (0x10, x.town.zeroExtend 64), (0x11, (y.tiles.int &&& arrMask x.town) ++ (y.tiles.hold &&& arrMask x.town)),
               (0x12, x.tdesc), (0x13, (0 : W32) ++ x.tskips ++ x.trepeats),
               (0x20, y.cairn.base), (0x21, y.cairn.limit), (0x22, y.cairn.spill), (0x23, y.cairn.spillLim),
               (0x24, BitVec.ofNat 64 y.cairn.depth), (0x25, cairnStat y.cairn), (0x26, y.cairn.ahead.zeroExtend 64),
               (0x28, x.mstep.zeroExtend 64), (0x29, x.mtid.zeroExtend 64), (0x2A, x.mkeep),
               (0x2C, y.wga.datum.zeroExtend 64), (0x2D, wStat y.wga),
               (0x30, x.upos.zeroExtend 64), (0x31, x.udesc), (0x32, x.ustat.zeroExtend 64), (0x33, y.gate.cfg),
               (0x34, ngStat y.gate), (0x35, y.gate.norm.zeroExtend 64), (0x36, thStat y.theo)] : List (Nat × W64)),
        e.imm.toNat = r.1 → WritesS (.rdcr e) e s r.2) ∧
      (readCr s e.core e.ctx e.imm.toNat = none →
        Traps (.rdcr e) e s 0x01 (1#4 ++ 8#6 ++ e.rd ++ e.ra ++ e.rb ++ e.md ++ e.imm))) ∧
  ((∀ (e : Enc) (s : State), Issues { cls := 1, op := 9, ra := true, imm := 0xFF } e s →
        let x := e.x s
        let v := x.s e.ra
        (∀ r ∈ ([(0x02, { x with nflags := x.nflags &&& ~~~v.extractLsb' 0 32 }),
                 (0x03, { x with tstart := (v.extractLsb' 0 30).zeroExtend 64 }), (0x08, { x with mseed := v }),
                 (0x28, { x with mstep := v.extractLsb' 0 32 }), (0x29, { x with mtid := v.extractLsb' 0 32 }),
                 (0x2A, { x with mkeep := v }), (0x30, { x with upos := v.extractLsb' 0 32 })] : List (Nat × Ctx)),
          e.imm.toNat = r.1 →
            ∃ t, exec (.wrcr e) s = .next t ∧ OnlyContext e s t ∧ CtxIs e t { r.2 with pc := x.pc + 8 }) ∧
        (∀ i ∈ ([0x00, 0x01, 0x04, 0x05, 0x06, 0x2C, 0x2D, 0x31, 0x32, 0x34, 0x35, 0x36] : List Nat),
          e.imm.toNat = i → Jumps (.wrcr e) e s (x.pc + 8)) ∧
        (readCr s e.core e.ctx e.imm.toNat = none ∨ (0x10 ≤ e.imm.toNat ∧ e.imm.toNat ≤ 0x13) →
          Traps (.wrcr e) e s 0x01 (1#4 ++ 9#6 ++ e.rd ++ e.ra ++ e.rb ++ e.md ++ e.imm))) ∧
    (∀ (e : Enc) (s : State), Issues { cls := 1, op := 9, ra := true, imm := 0xFF } e s → e.imm = 0x07 →
        let m : W32 := ((e.x s).s e.ra).extractLsb' 0 32
        let others := othersOwn (getCore s e.core) e.ctx
        (m &&& others ≠ 0 → Traps (.wrcr e) e s 0x05 ((m &&& others).zeroExtend 64)) ∧
        (m &&& others = 0 →
          ∃ t, exec (.wrcr e) s = .next t ∧ OnlySite e.core s t ∧ SameMemory s t ∧
            CtxIs e t { e.x s with pc := (e.x s).pc + 8, valloc := m } ∧
            (∀ j, j ≠ e.ctx → getCtx t e.core j = getCtx s e.core j) ∧
            getCore t e.core = { getCore s e.core with ctxs := (getCore t e.core).ctxs, vtags := (getCore t e.core).vtags } ∧
            ∀ i, (getCore t e.core).vtag i =
              if i < 32 ∧ m.getLsbD i ∧ !(e.x s).valloc.getLsbD i then 0 else (getCore s e.core).vtag i)))

/-- TRAP raises the software trap with TRAPVAL = IMM (Table 3-9; zero-extended, log 17). YIELD gives up the slot and stays
READY (R61). HALT ends the program with its exit code and releases vector registers, arrays and the Cairn (R83, R98,
R129). -/
def Obligations.ProgramEnds : Prop :=
  ∀ (e : Enc) (s : State),
    (Issues { cls := 1, op := 0x0C, imm := ~~~0 } e s → Traps (.swTrap e) e s 0x09 (e.imm.zeroExtend 64)) ∧
    (Issues { cls := 1, op := 0x0A } e s → (e.x s).heldSt = [] →
      ∃ t, exec (.yield e) s = .next t ∧ OnlyContextSlot e s t ∧ CtxIs e t { e.x s with pc := (e.x s).pc + 8, st := .ready }) ∧
    (Issues { cls := 1, op := 0x0B, ra := true } e s → (e.x s).heldSt = [] → tileBusy (getCore s e.core) e.ctx = false →
      ∃ t, exec (.halt e) s = .next t ∧ OnlySite e.core s t ∧ SameMemory s t ∧
        CtxIs e t { e.x s with pc := (e.x s).pc + 8, st := .idle, wait := .none, exitCode := (e.x s).s e.ra, ended := true,
                               valloc := 0, town := 0 } ∧
        (∀ j, j ≠ e.ctx → getCtx t e.core j = getCtx s e.core j) ∧
        (getCore t e.core).cairn.owner ≠ some e.ctx ∧ (getCore t e.core).lastSlot = e.ctx ∧
        (getCore t e.core).tiles.hold = (getCore s e.core).tiles.hold &&& ~~~arrMask (e.x s).town)

/-- The issue slot: at the quantum's end the issuing context is READY and gives up the slot; a context stalled in place for
16 cycles is WAITING and gives it up; a free slot goes to the next READY context in rotation (R59 to R61). -/
def Obligations.IssueSlotMoves : Prop :=
  ∀ (c k : Nat) (s : State), coreRuns s c = true → k < 4 →
    ((getCtx s c k).st = .issuing → (∀ j, j < k → (getCtx s c j).st ≠ .issuing) → 64 ≤ (getCtx s c k).quantum →
        otherReady (getCore s c) k = true →
      ∃ t, exec (.quantumExpiry c) s = .next t ∧ getCtx t c k = { getCtx s c k with st := .ready, quantum := 0 } ∧
        (getCore t c).lastSlot = k ∧ (∀ j, j ≠ k → getCtx t c j = getCtx s c j) ∧ SameMemory s t) ∧
    ((getCtx s c k).st = .issuing → (getCtx s c k).wait ≠ .none →
      ∃ t, exec (.stallBecomesSwitchEligible c k) s = .next t ∧ getCtx t c k = { getCtx s c k with st := .waiting } ∧
        (getCore t c).lastSlot = k ∧ (∀ j, j ≠ k → getCtx t c j = getCtx s c j) ∧ SameMemory s t) ∧
    (slotFree (getCore s c) = true → nextReady (getCore s c) = some k →
      ∃ t, exec (.contextSelect c) s = .next t ∧ getCtx t c k = { getCtx s c k with st := .issuing, quantum := 0 } ∧
        (∀ j, j ≠ k → getCtx t c j = getCtx s c j) ∧ SameMemory s t)

/-! ### Loads and stores (R71, R182, R183, R185, R188) -/

/-- A load of near memory, or of a terrace where its core computes, writes s[RD] with the little-endian value of its 1, 2, 4
or 8 bytes, sign-extended with MOD[4] and zero-extended without. A load or store whose address is not a multiple of its size
traps with the address, and so does one whose address is outside what the core may reach; a reserved size is an illegal
encoding (R66, R71, R182, R183). -/
def Obligations.LocalLoadsAndTraps : Prop :=
  (∀ (e : Enc) (s : State) (z : Nat) (x : Spot) (bs : List Byte),
      Issues { cls := 0, op := 0x14, rd := true, ra := true, aA := true, md := 0x1E, imm := ~~~0 } e s →
      let a := (e.x s).a e.ra + e.imm.signExtend 64
      (e.md.extractLsb' 1 3).toNat = z → z < 4 → (z = 3 → e.md.getLsbD 4 = false) → a.toNat % 2 ^ z = 0 →
      spotOf s e.core spAll a (2 ^ z) = some x → isLocal s e.core x = true → spotRead s e.core x (2 ^ z) = .ok bs →
      WritesS (.ld e) e s
        (if e.md.getLsbD 4 then (BitVec.ofNat (8 * 2 ^ z) (leNat bs)).signExtend 64 else BitVec.ofNat 64 (leNat bs))) ∧
  (∀ (e : Enc) (s : State) (z : Nat),
      let a := (e.x s).a e.ra + e.imm.signExtend 64
      let ldS : Shape := { cls := 0, op := 0x14, rd := true, ra := true, aA := true, md := 0x1E, imm := ~~~0 }
      let stS : Shape := { cls := 0, op := 0x15, ra := true, rb := true, aA := true, md := 0x0E, imm := ~~~0 }
      (e.md.extractLsb' 1 3).toNat = z →
      (Issues ldS e s → 4 ≤ z ∨ (z = 3 ∧ e.md.getLsbD 4 = true) →
        Traps (.ld e) e s 0x01 (0#4 ++ 0x14#6 ++ e.rd ++ e.ra ++ e.rb ++ e.md ++ e.imm)) ∧
      (Issues stS e s → 4 ≤ z → Traps (.st e) e s 0x01 (0#4 ++ 0x15#6 ++ e.rd ++ e.ra ++ e.rb ++ e.md ++ e.imm)) ∧
      (z < 4 → a.toNat % 2 ^ z ≠ 0 →
        (Issues ldS e s → (z = 3 → e.md.getLsbD 4 = false) → Traps (.ld e) e s 0x02 a) ∧
        (Issues stS e s → Traps (.st e) e s 0x02 a)) ∧
      (z < 4 → a.toNat % 2 ^ z = 0 → spotOf s e.core spAll a (2 ^ z) = none →
        (Issues ldS e s → (z = 3 → e.md.getLsbD 4 = false) → Traps (.ld e) e s 0x03 a) ∧
        (Issues stS e s → Traps (.st e) e s 0x03 a)))

/-- A load that its site cannot serve goes into the mesh and its context waits; the data, when it arrives, is written to
s[RD] and the context is READY; a refused one traps (R60, R62, R251). -/
def Obligations.RemoteLoads : Prop :=
  (∀ (e : Enc) (s : State) (z : Nat) (x : Spot),
    Issues { cls := 0, op := 0x14, rd := true, ra := true, aA := true, md := 0x1E, imm := ~~~0 } e s →
    let a := (e.x s).a e.ra + e.imm.signExtend 64
    (e.md.extractLsb' 1 3).toNat = z → z < 4 → (z = 3 → e.md.getLsbD 4 = false) → a.toNat % 2 ^ z = 0 →
    spotOf s e.core spAll a (2 ^ z) = some x → isLocal s e.core x = false → (e.x s).heldSt = [] →
    farFull s e.core x = false → canInject s e.core 0 = true →
    Waits (.ld e) e s true (.load e.rd (2 ^ z) (e.md.getLsbD 4) a) ∧
    ∃ t, exec (.ld e) s = .next t ∧ t.mesh = { s.mesh with born := s.mesh.born + 1, net := s.mesh.net ++
      [{ coreFlit s e.core x a false [] (.load e.core e.ctx (2 ^ z)) with born := s.mesh.born }] }) ∧
  ∀ (c k : Nat) (s : State) (pre post : List Flit) (f : Flit) (rd : BitVec 5) (z : Nat) (sext : Bool) (a : W64),
    s.mesh.net = pre ++ f :: post → (∀ g ∈ pre, answersLoad c k g = false) → answersLoad c k f = true →
    (getCtx s c k).wait = .load rd z sext a → (getCtx s c k).st = .waiting →
    ∃ t, exec (.loadDataArrival c k) s = .next (wake t c) ∧ t.mesh = { s.mesh with net := pre ++ post } ∧
      if f.refused then
        getCtx t c k = { getCtx s c k with st := .trapped, wait := .none, trapcause := 0x03, trappc := (getCtx s c k).pc,
                                           trapval := a, ended := true }
      else
        getCtx t c k = { (getCtx s c k).setS rd (loadVal z sext f.payload) with
                         pc := (getCtx s c k).pc + 8, wait := .none, st := .ready }

/-- A store to near memory, or to a terrace where its core computes, stores the low bytes of s[RB], which the core's digest
counts, and no other byte changes; one outside the site is posted: a write flit goes out and the program goes on (R188). -/
def Obligations.StoreResults : Prop :=
  ∀ (e : Enc) (s : State) (z : Nat) (x : Spot),
    Issues { cls := 0, op := 0x15, ra := true, rb := true, aA := true, md := 0x0E, imm := ~~~0 } e s →
    let a := (e.x s).a e.ra + e.imm.signExtend 64
    let bs := leBytes (2 ^ z) ((e.x s).s e.rb).toNat
    (e.md.extractLsb' 1 3).toNat = z → z < 4 → a.toNat % 2 ^ z = 0 → spotOf s e.core spAll a (2 ^ z) = some x →
    (isLocal s e.core x = true → Stores (.st e) e s 0 a x bs) ∧
    (isLocal s e.core x = false → (e.x s).heldSt = [] → farFull s e.core x = false → canInject s e.core 0 = true →
      ∃ t, exec (.st e) s = .next t ∧ SameMemory s t ∧ CtxIs e t { e.x s with pc := (e.x s).pc + 8 } ∧
        t.mesh = { s.mesh with born := s.mesh.born + 1, net := s.mesh.net ++
          [{ coreFlit s e.core x a true bs (.store e.core e.ctx (e.x s).pc a) with born := s.mesh.born }] })

/-! ### Beacons (R73, R74, R262 to R265) -/

/-- ARRIVE, ADD and SET send one message to the beacon's root, ADD of 1, ADD of s[RA] and SET to s[RA], once the context's
earlier stores are performed, and the program goes on; WAIT sends its count and its context waits for the reply; a
beacon that the parcel does not own traps. The root: the messages of one site to one root act in order; ADD and SET
change the counter and answer every waiter whose count is now met; a WAIT is answered at once if its count is met,
else it is entered. A reply writes its status to the waiting context's s[RD] and makes the context READY (R62, R262,
R264, R265). ADDs in any order leave the sum of their counts (R264). -/
def Obligations.BeaconsCount : Prop :=
  (∀ (e : Enc) (s : State) (i : Instr) (h : Shape) (op : BeaconOp) (p : Nat),
      let b := beaconOf (e.x s) e
      let v : W32 := ((e.x s).s e.ra).extractLsb' 0 32
      let m : BeaconMsg := { core := e.core, site := csite s e.core, ctx := e.ctx, beacon := b, op := op }
      (i, h, op) ∈ ([(.arrive e, bcnShape 1 e false false, .add 1), (.beaconAdd e, bcnShape 2 e false true, .add v),
                     (.beaconSet e, bcnShape 3 e false true, .set v), (.beaconWait e, bcnShape 4 e true true, .wait v)] :
                    List (Instr × Shape × BeaconOp)) →
      Issues h e s → coreParcel s e.core = some p →
      (beaconOwned s p b = false → Traps i e s 0x06 (BitVec.ofNat 64 b)) ∧
      (beaconOwned s p b = true → i ≠ .beaconWait e → (e.x s).compat = false → (e.x s).heldSt = [] →
        storeFlying s e.core e.ctx = false →
        ∃ t, exec i s = .next t ∧ SameMemory s t ∧ CtxIs e t { e.x s with pc := (e.x s).pc + 8 } ∧
          t.mesh = { s.mesh with msgs := s.mesh.msgs ++ [m] }) ∧
      (beaconOwned s p b = true → i = .beaconWait e →
        Waits i e s true (.reply e.rd) ∧ ∃ t, exec i s = .next t ∧ t.mesh = { s.mesh with msgs := s.mesh.msgs ++ [m] })) ∧
  ((∀ (n : Nat) (s : State) (m : BeaconMsg), s.mesh.msgs[n]? = some m →
        (∀ j x, j < n → s.mesh.msgs[j]? = some x → ¬(x.site = m.site ∧ x.beacon / 4096 = m.beacon / 4096)) →
        ∃ t, exec (.beaconMessageAtRoot n) s = .next t ∧ t.mesh.msgs = s.mesh.msgs.eraseIdx n ∧ t.mesh.net = s.mesh.net ∧
          t.sites = s.sites ∧ t.far = s.far ∧ t.gate = s.gate ∧
          (∀ b, b ≠ m.beacon → sget 0 t.mesh.beacons b = sget 0 s.mesh.beacons b) ∧
          match m.op with
          | .wait v =>
            sget 0 t.mesh.beacons m.beacon = sget 0 s.mesh.beacons m.beacon ∧
            (v ≤ sget 0 s.mesh.beacons m.beacon →
              t.mesh.waiters = s.mesh.waiters ∧
              t.mesh.replies = s.mesh.replies ++ [{ core := m.core, ctx := m.ctx, status := 0 }]) ∧
            (sget 0 s.mesh.beacons m.beacon < v →
              t.mesh.replies = s.mesh.replies ∧
              t.mesh.waiters = s.mesh.waiters ++ [{ core := m.core, ctx := m.ctx, beacon := m.beacon, count := v }])
          | op =>
            let v : W32 := match op with
              | .add v => sget 0 s.mesh.beacons m.beacon + v
              | .set v => v
              | .wait v => v
            let met (x : Waiter) : Bool := x.beacon = m.beacon && decide (x.count ≤ v)
            sget 0 t.mesh.beacons m.beacon = v ∧ t.mesh.waiters = s.mesh.waiters.filter (fun x => !met x) ∧
            t.mesh.replies = s.mesh.replies ++
              (s.mesh.waiters.filter met).map fun x => { core := x.core, ctx := x.ctx, status := 0 }) ∧
    (∀ (c k : Nat) (s : State) (pre post : List BeaconReply) (r : BeaconReply) (rd : BitVec 5),
        s.mesh.replies = pre ++ r :: post → (∀ x ∈ pre, ¬(x.core = c ∧ x.ctx = k)) → r.core = c → r.ctx = k →
        (getCtx s c k).wait = .reply rd → (getCtx s c k).st = .waiting →
        ∃ t, exec (.beaconWake c k) s = .next t ∧ t.mesh = { s.mesh with replies := pre ++ post } ∧ SameMemory s t ∧
          getCtx t c k = { (getCtx s c k).setS rd (r.status.zeroExtend 64) with
                           pc := (getCtx s c k).pc + 8, wait := .none, st := .ready } ∧
          ∀ j, j ≠ k → getCtx t c j = getCtx s c j)) ∧
  ∀ (s : State) (b : Nat) (ms : List BeaconMsg) (vs : BeaconMsg → W32), (∀ m ∈ ms, m.beacon = b ∧ m.op = .add (vs m)) →
    beaconVal (ms.foldl applyBeacon s) b = beaconVal s b + (ms.map vs).sum

/-! ### Copies (R78 to R82, R206, R207, R253, R254) -/

/-- CPY queues its descriptor with the context's MSEED on its channel, which becomes busy; CPYQ reads the channel's status
word, CPYW does once the channel is idle or halted and waits before that; CPYCLR empties the queue, and a halted channel is
idle again. -/
def Obligations.CopyInstructions : Prop :=
  ∀ (e : Enc) (s : State),
    let ch := 2 * e.ctx + (if e.imm.getLsbD 0 then 1 else 0)
    let x := getChan s e.core ch
    let a := (e.x s).a e.ra
    (Issues { cls := 2, op := 1, ra := true, aA := true, imm := 1 } e s → a.toNat % 64 = 0 → a.toNat + 64 ≤ 2097152 →
      (e.x s).heldSt = [] → x.waiting < 4 →
      ∃ t, exec (.cpy e) s = .next t ∧ OnlySite e.core s t ∧ SameMemory s t ∧
        CtxIs e t { e.x s with pc := (e.x s).pc + 8 } ∧ (∀ n, n ≠ ch → getChan t e.core n = getChan s e.core n) ∧
        getChan t e.core ch = { x with
          queue := x.queue ++ [{ desc := a, mseed := (e.x s).mseed, ctx := e.ctx }],
          descaddr := if x.st = .idle then a else x.descaddr,
          st := if x.st = .idle then .busy else x.st }) ∧
    (Issues { cls := 2, op := 3, rd := true, imm := 1 } e s → WritesS (.cpyq e) e s x.status) ∧
    (Issues { cls := 2, op := 2, rd := true, imm := 1 } e s →
      (x.settled = true → WritesS (.cpyw e) e s x.status) ∧ (x.settled = false → Waits (.cpyw e) e s true (.op .cpyw e))) ∧
    (Issues { cls := 2, op := 4, imm := 1 } e s →
      ∃ t, exec (.cpyclr e) s = .next (wake t e.core) ∧ SameMemory s t ∧
        CtxIs e t { e.x s with pc := (e.x s).pc + 8 } ∧ (∀ n, n ≠ ch → getChan t e.core n = getChan s e.core n) ∧
        (getChan t e.core ch).queue = [] ∧
        ((x.st = .haltedDesc ∨ x.st = .haltedErr) → (getChan t e.core ch).st = .idle ∧ (getChan t e.core ch).run = none) ∧
        (x.run.isSome = true → x.st = .busy → (getChan t e.core ch).st = .busy ∧ (getChan t e.core ch).run = x.run))

/-- A channel begins its oldest descriptor once its issuer's earlier stores are performed; a descriptor with an error
halts the channel instead (R79, R82). One whose rows are written completes: its tail arrives at its beacon, or leaves for the one remote endpoint of
all its writes (R258), and the channel goes on to the next or is idle (R81); a multicast completes when the counts make the size of its delivery set
(R254). A step of a copy performs the writes that it forms, which the core's digest counts (R276), sets the conversion's flags in its issuer, and goes on to
the next step; in mode 0x0 it writes the source row's bytes to the destination row, at the row strides (R79, R80,
R206). -/
def Obligations.CopiesRun : Prop :=
  ((∀ (c ch : Nat) (s : State) (r : CopyReq) (q : List CopyReq) (b : List Byte),
        let x := getChan s c ch
        let m := mcFor (getCore s c) ch b
        coreRuns s c = true → ch < 8 → x.st = .busy → x.run = none → x.tcopy = false → x.queue = r :: q →
        storeFlying s c r.ctx = false → (getCtx s c r.ctx).heldSt = [] → engRead s c spNear r.desc 64 = .ok b →
        ∃ t, exec (.copyDescriptorStart c ch) s = .next (wake t c) ∧ SameMemory s t ∧
          if cdOk s c b ∧ (∀ y, m = some y → y.ok = true) then
            getChan t c ch = { x with queue := q, descaddr := r.desc, run := some { req := r, bytes := b, mc := m } }
          else getChan t c ch = { x with queue := q, descaddr := r.desc, st := .haltedDesc }) ∧
    (∀ (c ch : Nat) (s : State) (r : CopyRun),
        let x := getChan s c ch
        let next : Chan := { x with run := none, st := if x.queue = [] then .idle else .busy,
                                    descaddr := (x.queue.head?.map (·.desc)).getD x.descaddr }
        x.run = some r → x.st = .busy → cdSteps r.bytes ≤ r.pos →
        (coreRuns s c = true → r.mc = none → injBlocked s c = false →
          ∃ t, exec (.copyDescriptorComplete c ch) s = .next (wake t c) ∧ getChan t c ch = next ∧ SameMemory s t ∧
            (cdTail r.bytes = none → t.mesh = s.mesh) ∧
            ∀ b, cdTail r.bytes = some b → t.mesh =
              match r.ends.filter fun _ => r.ends.length = 1 && r.ends ≠ [csite s c] with
              | [] => { s.mesh with msgs := s.mesh.msgs ++ [{ core := c, site := csite s c, ctx := 0, beacon := b, op := .add 1 }] }
              | d :: _ => { s.mesh with born := s.mesh.born + 1, net := s.mesh.net ++
                  [{ src := csite s c, dst := d, vc := 0, kind := .tail, parcel := coreParcelNum s c, pv := true,
                     addr := BitVec.ofNat 42 b, pos := csite s c, what := .tail 1, born := s.mesh.born }] }) ∧
        ∀ m, r.mc = some m → mcSet s (coreParcelNum s c) m ≠ [] →
          ((s.mesh.net.filter (isCount c ch)).map fun f => leNat (f.payload.take 4)).sum = (mcSet s (coreParcelNum s c) m).length →
          ∃ t, exec (.multicastCountComplete c ch) s = .next (wake t c) ∧ getChan t c ch = next ∧ SameMemory s t ∧
            t.mesh = { s.mesh with net := s.mesh.net.filter fun f => !isCount c ch f })) ∧
  ((∀ (c ch : Nat) (s u : State) (r : CopyRun) (ws : List Wr) (fl : W32), coreRuns s c = true →
      (getChan s c ch).run = some r → (getChan s c ch).st = .busy → r.pos < cdSteps r.bytes → r.mc = none →
      copyStep s c r = .ok (ws, fl) → putAll (copySeen s c r) c spAll ws = .ok u →
      ∃ t parts, exec (.copyRow c ch) s = .next t ∧ SameMemory u t ∧
        getChan t c ch = { getChan s c ch with
          run := some { r with pos := r.pos + 1, parts := parts, ends := (engEnds s c ws).foldl nins r.ends } } ∧
        (cdMode r.bytes ≠ 2 → parts = r.parts ∧ digestOf t c =
          ws.foldl (fun d w => d.plus (writeDigest (srcWord (coreParcelNum s c) 2 c) (w.2.length / 64 + 2) w.1 w.2)) (digestOf s c)) ∧
        getCtx t c r.req.ctx = { getCtx s c r.req.ctx with nflags := (getCtx s c r.req.ctx).nflags ||| fl }) ∧
    (∀ (c : Nat) (s : State) (r : CopyRun) (bs : List Byte), cdMode r.bytes = 0 →
      engRead s c spAll (addOff (cdSrc r.bytes) (cdSStride r.bytes * r.pos)) (cdRowBytes r.bytes) = .ok bs →
      copyStep s c r = .ok ([(addOff (cdDst r.bytes) (cdDStride r.bytes * r.pos), bs)], 0)) ∧
    ∀ (c unit : Nat) (s : State) (sp : Spaces) (a : W64) (off : Nat) (bs : List Byte),
      spotOf s c sp a bs.length = some (.near off) →
      ∃ u, writeAll s c unit sp [(a, bs)] = .ok u ∧ StoredAt c s u (.near off) bs ∧
        digestOf u c = (digestOf s c).plus (writeDigest (srcWord (coreParcelNum s c) unit c) (bs.length / 64 + 2) a bs))

/-! ### The vector class (R83 to R87, Table 3-14) -/

/-- Lane-wise operations write every lane of v[RD] with their function of the lanes of v[RA] and of v[RB], or of s[RB][31:0]
with MOD[5]; those of three operands also take v[RC] of MOD[4:0] (R84). Absolute value and negation touch the sign bit
only. Reductions combine neighbouring pairs over six levels into lane 0 and clear the others (R85). VBCAST copies a scalar
to every lane, VMOVS a lane to a scalar. Naming a register that the context does not own traps with those registers (R83):
here for VADD, VABS, VFMA and VST. -/
def Obligations.VectorResults : Prop :=
  (∀ (e : Enc) (s : State),
      let y := getCore s e.core
      let a (j : Nat) : W32 := y.lane e.ra.toNat j
      let bc := e.md.getLsbD 5
      let b (j : Nat) : W32 := if bc then ((e.x s).s e.rb).extractLsb' 0 32 else y.lane e.rb.toNat j
      let rc := (e.md.extractLsb' 0 5).toNat
      let c (j : Nat) : W32 := y.lane rc j
      let rb : List Nat := if bc then [] else [e.rb.toNat]
      let two (op : Nat) (i : Instr) (f : W32 → W32 → W32) : Prop :=
        Issues { cls := 4, op := op, rd := true, ra := true, rb := true, md := 0x20 } e s →
          Owns e s (e.rd.toNat :: e.ra.toNat :: rb) → WritesRD i e s fun j => f (a j) (b j)
      let three (op : Nat) (i : Instr) (f : W32 → W32 → W32 → W32) : Prop :=
        Issues { cls := 4, op := op, rd := true, ra := true, rb := true, md := 0x3F } e s →
          Owns e s (e.rd.toNat :: e.ra.toNat :: rc :: rb) → WritesRD i e s fun j => f (a j) (b j) (c j)
      two 0x01 (.vadd e) fadd ∧ two 0x02 (.vsub e) fsub ∧ two 0x03 (.vmul e) fmul ∧ two 0x05 (.vmax e) fmax ∧
      two 0x06 (.vmin e) fmin ∧ two 0x0F (.vcmplt e) (fun a b => if flt a b then 0x3F800000 else 0) ∧
      two 0x18 (.viadd e) (· + ·) ∧ three 0x04 (.vfma e) ffma ∧
      three 0x0E (.vsel e) fun a b c => if c &&& 0x7FFFFFFF = 0 then b else a) ∧
  (∀ (e : Enc) (s : State),
      let a (j : Nat) : W32 := (getCore s e.core).lane e.ra.toNat j
      let one (op : Nat) (i : Instr) (f : W32 → W32) : Prop :=
        Issues { cls := 4, op := op, rd := true, ra := true } e s → Owns e s [e.rd.toNat, e.ra.toNat] →
          WritesRD i e s fun j => f (a j)
      one 0x07 (.vabs e) (fun v => 0#1 ++ v.extractLsb' 0 31) ∧
      one 0x08 (.vneg e) (fun v => (~~~v.extractLsb' 31 1) ++ v.extractLsb' 0 31) ∧
      one 0x09 (.vrcp e) frcp ∧ one 0x0A (.vsqrt e) fsqrt ∧ one 0x0B (.vrsqrt e) frsqrt ∧
      one 0x0C (.vexp2 e) fexp2 ∧ one 0x0D (.vlog2 e) flog2) ∧
  (∀ (e : Enc) (s : State),
      let y := getCore s e.core
      let lv (f : W32 → W32 → W32) (g : Nat → W32) (j : Nat) : W32 := f (g (2 * j)) (g (2 * j + 1))
      let top (f : W32 → W32 → W32) : W32 := lv f (lv f (lv f (lv f (lv f (lv f (y.lane e.ra.toNat)))))) 0
      (Issues { cls := 4, op := 0x10, rd := true, ra := true } e s → Owns e s [e.rd.toNat, e.ra.toNat] →
        WritesRD (.vrsum e) e s fun j => if j = 0 then top fadd else 0) ∧
      (Issues { cls := 4, op := 0x11, rd := true, ra := true } e s → Owns e s [e.rd.toNat, e.ra.toNat] →
        WritesRD (.vrmax e) e s fun j => if j = 0 then top fmax else 0) ∧
      (Issues { cls := 4, op := 0x14, rd := true, ra := true } e s → Owns e s [e.rd.toNat] →
        WritesRD (.vbcast e) e s fun _ => ((e.x s).s e.ra).extractLsb' 0 32) ∧
      (Issues { cls := 4, op := 0x15, rd := true, ra := true, imm := 0x3F } e s → Owns e s [e.ra.toNat] →
        WritesS (.vmovs e) e s ((y.lane e.ra.toNat e.imm.toNat).zeroExtend 64))) ∧
  (∀ (e : Enc) (s : State),
      let bad (rs : List Nat) : W32 :=
        (List.range 32).foldl (fun m r => if r ∈ rs ∧ (e.x s).valloc.getLsbD r = false then m ||| (1 <<< r) else m) 0
      let rb : List Nat := if e.md.getLsbD 5 then [] else [e.rb.toNat]
      let l2 := e.rd.toNat :: e.ra.toNat :: rb
      let l3 := e.rd.toNat :: e.ra.toNat :: (e.md.extractLsb' 0 5).toNat :: rb
      (Issues { cls := 4, op := 1, rd := true, ra := true, rb := true, md := 0x20 } e s → bad l2 ≠ 0 →
        Traps (.vadd e) e s 0x05 ((bad l2).zeroExtend 64)) ∧
      (Issues { cls := 4, op := 7, rd := true, ra := true } e s → bad [e.rd.toNat, e.ra.toNat] ≠ 0 →
        Traps (.vabs e) e s 0x05 ((bad [e.rd.toNat, e.ra.toNat]).zeroExtend 64)) ∧
      (Issues { cls := 4, op := 4, rd := true, ra := true, rb := true, md := 0x3F } e s → bad l3 ≠ 0 →
        Traps (.vfma e) e s 0x05 ((bad l3).zeroExtend 64)) ∧
      (Issues { cls := 4, op := 0x13, ra := true, rb := true, aA := true, md := 0x20, imm := ~~~0 } e s → bad rb ≠ 0 →
        Traps (.vst e) e s 0x05 ((bad rb).zeroExtend 64)))

/-- Vector loads take 256 bytes as 64 little-endian lanes, or 768 as 64 elements of 96 bits with the tag IMM[9:0];
vector stores store the same forms, VST of v[RB] or with MOD[5] of s[RB] in every lane, counted in the digest under UNIT 1
(R84, R86, Table 10-3). A core that has moved away from its terrace reaches it through the mesh: its VLD waits for the
answer, its VST is posted (R60, R185). -/
def Obligations.VectorMemoryResults : Prop :=
  ∀ (e : Enc) (s : State) (bs : List Byte) (x : Spot),
    let y := getCore s e.core
    let a := (e.x s).a e.ra + e.imm.signExtend 64
    let d := (e.x s).a e.ra + (e.imm.extractLsb' 10 22).signExtend 64
    (Issues { cls := 4, op := 0x12, rd := true, ra := true, aA := true, imm := ~~~0 } e s → Owns e s [e.rd.toNat] →
      a.toNat % 64 = 0 → spotOf s e.core spLocal a 256 = some x →
      (isLocal s e.core x = false → canInject s e.core 0 = true → Waits (.vld e) e s true (.vload e.rd none a)) ∧
      (isLocal s e.core x = true → spotRead s e.core x 256 = .ok bs →
      WritesRD (.vld e) e s fun j => BitVec.ofNat 32 (leNat ((bs.drop (4 * j)).take 4)))) ∧
    (Issues { cls := 4, op := 0x19, rd := true, ra := true, aA := true, imm := ~~~0 } e s → e.rd.toNat ≤ 29 →
      Owns e s [e.rd.toNat, e.rd.toNat + 1, e.rd.toNat + 2] → d.toNat % 64 = 0 → spotOf s e.core spLocal d 768 = some x →
      isLocal s e.core x = true → spotRead s e.core x 768 = .ok bs →
      WritesTriple (.vldd e) e s (fun j => BitVec.ofNat 96 (leNat ((bs.drop (12 * j)).take 12))) (e.imm.extractLsb' 0 10) 0) ∧
    (Issues { cls := 4, op := 0x13, ra := true, rb := true, aA := true, md := 0x20, imm := ~~~0 } e s →
      (e.md.getLsbD 5 = false → Owns e s [e.rb.toNat]) →
      a.toNat % 64 = 0 → spotOf s e.core spLocal a 256 = some x →
      let v (j : Nat) : W32 := if e.md.getLsbD 5 then ((e.x s).s e.rb).extractLsb' 0 32 else y.lane e.rb.toNat j
      let vs := (List.range 64).flatMap fun j => leBytes 4 (v j).toNat
      (isLocal s e.core x = true → Stores (.vst e) e s 1 a x vs) ∧
      (isLocal s e.core x = false → canInject s e.core 0 = true →
        ∃ t, exec (.vst e) s = .next t ∧ SameMemory s t ∧ CtxIs e t { e.x s with pc := (e.x s).pc + 8 } ∧
          t.mesh = { s.mesh with born := s.mesh.born + 1, net := s.mesh.net ++
            [{ coreFlit s e.core x a true vs (.store e.core e.ctx (e.x s).pc a) with born := s.mesh.born }] })) ∧
    (Issues { cls := 4, op := 0x1A, ra := true, rb := true, aA := true, imm := 0xFFFFFC00 } e s → e.rb.toNat ≤ 29 →
      Owns e s [e.rb.toNat, e.rb.toNat + 1, e.rb.toNat + 2] → d.toNat % 64 = 0 → spotOf s e.core spLocal d 768 = some x →
      isLocal s e.core x = true →
      Stores (.vstd e) e s 1 d x ((List.range 64).flatMap fun j => leBytes 12
        (y.lane (e.rb.toNat + 2) j ++ y.lane (e.rb.toNat + 1) j ++ y.lane e.rb.toNat j).toNat))

/-- VDADD adds two triples of one datum element by element, modulo 2^96, and the result carries that datum; triples of
different data trap with both tags (R52, R86). VCVT from FP32 converts the 64 lanes to BF16 or FP16, packed from byte 0 with
the rest of v[RD] zero, rounded once, or to DAF96 with the datum IMM[19:10] and the flags of R50; a pair not listed traps
(R44, R50, R87). -/
def Obligations.VectorDatumAndConversions : Prop :=
  (∀ (e : Enc) (s : State),
      let y := getCore s e.core
      let el (r j : Nat) : W96 := y.lane (r + 2) j ++ y.lane (r + 1) j ++ y.lane r j
      let t3 (r : BitVec 5) : List Nat := [r.toNat, r.toNat + 1, r.toNat + 2]
      Issues { cls := 4, op := 0x17, rd := true, ra := true, rb := true } e s →
      (e.rd.toNat ≤ 29 → e.ra.toNat ≤ 29 → e.rb.toNat ≤ 29 → Owns e s (t3 e.rd ++ t3 e.ra ++ t3 e.rb) →
        (y.vtag e.ra.toNat = y.vtag e.rb.toNat →
          WritesTriple (.vdadd e) e s (fun j => el e.ra.toNat j + el e.rb.toNat j) (y.vtag e.ra.toNat) 0) ∧
        (y.vtag e.ra.toNat ≠ y.vtag e.rb.toNat →
          Traps (.vdadd e) e s 0x07 ((y.vtag e.ra.toNat).zeroExtend 64 <<< 16 ||| (y.vtag e.rb.toNat).zeroExtend 64))) ∧
      (29 < e.rd.toNat ∨ 29 < e.ra.toNat ∨ 29 < e.rb.toNat →
        Traps (.vdadd e) e s 0x01 (4#4 ++ 0x17#6 ++ e.rd ++ e.ra ++ e.rb ++ e.md ++ e.imm))) ∧
  (∀ (e : Enc) (s : State),
      let y := getCore s e.core
      let sf := (e.imm.extractLsb' 0 5).toNat
      let df := (e.imm.extractLsb' 5 5).toNat
      let d : Datum := e.imm.extractLsb' 10 10
      let v (j : Nat) : FV := ofF32 (y.lane e.ra.toNat j)
      let h (fp8 : Bool) : Shape := { cls := 4, op := 0x16, rd := true, ra := true, rb := fp8, imm := 0xFFFFF }
      let half (f : Fmt) (j : Nat) : W32 :=
        if j < 32 then BitVec.ofNat 32 (f.round (v (2 * j)) + 65536 * f.round (v (2 * j + 1))) else 0
      (Issues (h false) e s → sf = 0 → df = 1 → d = 0 → Owns e s [e.rd.toNat, e.ra.toNat] →
        WritesRD (.vcvt e) e s (half fmtBF16)) ∧
      (Issues (h false) e s → sf = 0 → df = 2 → d = 0 → Owns e s [e.rd.toNat, e.ra.toNat] →
        WritesRD (.vcvt e) e s (half fmtFP16)) ∧
      (Issues (h false) e s → sf = 0 → df = 0x10 → e.rd.toNat ≤ 29 →
        Owns e s [e.rd.toNat, e.rd.toNat + 1, e.rd.toNat + 2, e.ra.toNat] →
        WritesTriple (.vcvt e) e s (fun j => (toDaf d.toInt (v j)).1) d
          ((List.range 64).foldl (fun f j => f ||| (toDaf d.toInt (v j)).2) 0)) ∧
      (Issues (h (fmtFp8 sf || fmtFp8 df)) e s → vcvtOk sf df = false ∨ (df ≠ 0x10 ∧ d ≠ 0) →
        Traps (.vcvt e) e s 0x01 (4#4 ++ 0x16#6 ++ e.rd ++ e.ra ++ e.rb ++ e.md ++ e.imm)))

/-! ### Tables and masks (R88, R89, R142 to R146) -/

/-- TLD takes a valid image of 3136 bytes from near memory into the table that IMM[0] names, and traps on an invalid one,
leaving the table, once the drains with a table that were issued before it are over; TEVAL evaluates the table at each lane,
and TEVALM multiplies by v[RB] besides, once no TLD of the core waits (R88, R89, R114). The mask of a
lane is mixed from the context's seed, step, tensor id, the instruction's layer tag and the element index s + j modulo 2^32
(R142); an element is kept when the upper half of the output is not below the threshold (R144, R146). -/
def Obligations.TablesAndMasks : Prop :=
  (∀ (e : Enc) (s : State) (img : List Byte),
      let y := getCore s e.core
      let n := if e.imm.getLsbD 0 then 1 else 0
      let a := (e.x s).a e.ra
      let tl (z : Site) (k : Nat) : List Byte := (List.range 3136).map fun i => sget 0 z.tables (k * 4096 + i)
      (Issues { cls := 5, op := 1, ra := true, aA := true, imm := 1 } e s → a.toNat % 64 = 0 →
        engRead s e.core spNear a 3136 = .ok img →
        (y.tiles.drains.any tableDrain = true → Waits (.tld e) e s false (.op .tld e)) ∧
        (y.tiles.drains.any tableDrain = false → imageOk img = true →
          ∃ t, exec (.tld e) s = .next t ∧ OnlySite e.core s t ∧ SameMemory s t ∧
            CtxIs e t { e.x s with pc := (e.x s).pc + 8 } ∧ tl (getCore t e.core) n = img ∧
            tl (getCore t e.core) (1 - n) = tl y (1 - n) ∧
            getCore t e.core = { y with ctxs := (getCore t e.core).ctxs, tables := (getCore t e.core).tables }) ∧
        (y.tiles.drains.any tableDrain = false → imageOk img = false → Traps (.tld e) e s 0x0A a)) ∧
      (Issues { cls := 5, op := 2, rd := true, ra := true, imm := 1 } e s → Owns e s [e.rd.toNat, e.ra.toNat] →
        (tldWaits y = true → Waits (.teval e) e s false (.op .teval e)) ∧
        (tldWaits y = false → WritesRD (.teval e) e s fun j => tableEval (tl y n) (y.lane e.ra.toNat j))) ∧
      (Issues { cls := 5, op := 3, rd := true, ra := true, rb := true, imm := 1 } e s →
        Owns e s [e.rd.toNat, e.ra.toNat, e.rb.toNat] → tldWaits y = false →
        WritesRD (.tevalm e) e s fun j => fmul (tableEval (tl y n) (y.lane e.ra.toNat j)) (y.lane e.rb.toNat j))) ∧
  (∀ (e : Enc) (s : State),
      let x := e.x s
      let y := getCore s e.core
      let z (base : W32) (j : Nat) : W64 :=
        mix x.mseed ((e.imm.extractLsb' 0 12).zeroExtend 32 ++ x.mstep ++ x.mtid ++ (base + BitVec.ofNat 32 j))
      let keep (base : W32) (j : Nat) : Prop := x.mkeep.extractLsb' 0 32 ≤ (z base j).extractLsb' 32 32
      (Issues { cls := 9, op := 1, rd := true, ra := true, rb := true, imm := 0xFFF } e s → Owns e s [e.rd.toNat, e.ra.toNat] →
        WritesRD (.mdrop e) e s fun j =>
          if keep ((x.s e.rb).extractLsb' 0 32) j then fmul (y.lane e.ra.toNat j) (x.mkeep.extractLsb' 32 32) else 0) ∧
      (Issues { cls := 9, op := 2, rd := true, ra := true, imm := 0xFFF } e s →
        ∃ v : W64, WritesS (.mbits e) e s v ∧ ∀ j, j < 64 → (v.getLsbD j = true ↔ keep ((x.s e.ra).extractLsb' 0 32) j)) ∧
      (Issues { cls := 9, op := 3, rd := true, ra := true, imm := 0xFFF } e s → e.rd.toNat ≤ 30 →
        Owns e s [e.rd.toNat, e.rd.toNat + 1] →
        WritesV (.mraw e) e s
          (fun r j => if r = e.rd.toNat then (z ((x.s e.ra).extractLsb' 0 32) j).extractLsb' 0 32
            else if r = e.rd.toNat + 1 then (z ((x.s e.ra).extractLsb' 0 32) j).extractLsb' 32 32 else y.lane r j) y.vtag 0))

/-! ### The matrix unit (R92 to R125) -/

/-- TCFG gives the context exactly the arrays of s[RA][3:0], once its tile work is complete, and the tiles of arrays that it
gives up become EMPTY; an array of another context traps. TSYNC waits until the context's tile work is complete (R95 to R97).
ACCREL empties the tile in its arrays, at once where no tile work comes before it; TDRV reads a row of a pair of arrays, an
EMPTY tile as +0, once earlier sequences have committed it (R96, R109, Table 4-2). -/
def Obligations.TileOwnershipAndReads : Prop :=
  (∀ (e : Enc) (s : State),
      let m : BitVec 4 := ((e.x s).s e.ra).extractLsb' 0 4
      let y := getCore s e.core
      let busy := tileBusy y e.ctx
      (Issues { cls := 6, op := 1, ra := true } e s →
        (m &&& othersArrs y e.ctx ≠ 0 → Traps (.tcfg e) e s 0x10 ((m &&& othersArrs y e.ctx).zeroExtend 64)) ∧
        (m &&& othersArrs y e.ctx = 0 → busy = true → Waits (.tcfg e) e s false (.op .tcfg e)) ∧
        (m &&& othersArrs y e.ctx = 0 → busy = false →
          ∃ t, exec (.tcfg e) s = .next t ∧ OnlySite e.core s t ∧ SameMemory s t ∧
            CtxIs e t { e.x s with pc := (e.x s).pc + 8, town := m } ∧
            (∀ j, j ≠ e.ctx → getCtx t e.core j = getCtx s e.core j) ∧
            ∀ a k, a < 4 → k < 8 → (getTiles t e.core).holds a k =
              ((getTiles s e.core).holds a k && !((e.x s).town.getLsbD a && !m.getLsbD a)))) ∧
      (Issues { cls := 6, op := 3 } e s →
        (busy = true → Waits (.tsync e) e s true (.op .tsync e)) ∧ (busy = false → Jumps (.tsync e) e s ((e.x s).pc + 8)))) ∧
  (∀ (e : Enc) (s : State),
      let x := e.x s
      let u := getTiles s e.core
      let arr : BitVec 4 := e.imm.extractLsb' 0 4
      let tile := (e.imm.extractLsb' 4 3).toNat
      let p := if e.imm.getLsbD 0 then 2 else 0
      let pm : BitVec 4 := if e.imm.getLsbD 0 then 0xC else 0x3
      let k := (e.imm.extractLsb' 1 3).toNat
      let r := (e.imm.extractLsb' 4 6).toNat
      (Issues { cls := 7, op := 3, imm := 0x7F } e s → arr ≠ 0 → arr &&& ~~~x.town = 0 →
        (∀ j ∈ u.jobs, j.ctx ≠ e.ctx) → (∀ d ∈ u.drains, d.ctx ≠ e.ctx) → u.rels = [] →
        ∃ t, exec (.accrel e) s = .next t ∧ OnlySite e.core s t ∧ SameMemory s t ∧
          CtxIs e t { x with pc := x.pc + 8 } ∧
          ∀ m n, m < 4 → n < 8 → (getTiles t e.core).holds m n = (u.holds m n && !(arr.getLsbD m && decide (n = tile)))) ∧
      (Issues { cls := 7, op := 2, rd := true, imm := 0x3FF } e s → pm &&& ~~~x.town = 0 → Owns e s [e.rd.toNat] →
        (rowPending u u.nextSn pm k r = false →
          WritesRD (.tdrv e) e s fun j =>
            let m := if j < 32 then p else p + 1
            if u.hold.getLsbD (8 * m + k) then sget 0 u.words (((m * 8 + k) * 64 + r) * 32 + j % 32) else 0) ∧
        (rowPending u u.nextSn pm k r = true → Waits (.tdrv e) e s false (.op .tdrv e))) ∧
      (Issues { cls := 7, op := 2, rd := true, imm := 0x3FF } e s → pm &&& ~~~x.town ≠ 0 →
        Traps (.tdrv e) e s 0x11 ((pm &&& ~~~x.town).zeroExtend 64)))

/-- TSEQ with a legal descriptor joins the stream's queue at TSTART, TDESC takes its address, and its context waits; it traps
for no arrays, for arrays not owned, for a pair of formats that no row class has, and for every other fault of the
descriptor, with its address (R96, R102 to R104). TDRN with a legal epilogue descriptor joins the drain queue of four with
the context's MSEED, and the program goes on; it waits for room, and with a table for a TLD before it; an illegal descriptor, or a destination that R112, R138 or
R257 forbids, traps (R110 to R113). -/
def Obligations.TileWorkIssues : Prop :=
  (∀ (e : Enc) (s : State) (b : List Byte),
      let x := e.x s
      let a := x.a e.ra
      let arr : BitVec 4 := e.imm.extractLsb' 0 4
      let tile := (e.imm.extractLsb' 4 3).toNat
      let u := getTiles s e.core
      let word : W64 := 6#4 ++ 2#6 ++ e.rd ++ e.ra ++ e.rb ++ e.md ++ e.imm
      Issues { cls := 6, op := 2, ra := true, aA := true, imm := 0x7F } e s →
      (arr = 0 → Traps (.tseq e) e s 0x01 word) ∧
      (arr ≠ 0 → arr &&& ~~~x.town ≠ 0 → Traps (.tseq e) e s 0x11 ((arr &&& ~~~x.town).zeroExtend 64)) ∧
      (arr ≠ 0 → arr &&& ~~~x.town = 0 →
        (a.toNat % 64 ≠ 0 → Traps (.tseq e) e s 0x12 a) ∧
        (a.toNat % 64 = 0 → engRead s e.core spNear a 64 = .ok b →
          (tdFmtOk b = false → Traps (.tseq e) e s 0x01 word) ∧
          (tdFmtOk b = true → tdOk b x.tstart = false → Traps (.tseq e) e s 0x12 a) ∧
          (tdFmtOk b = true → tdOk b x.tstart = true →
            (∀ m, m < 4 → arr.getLsbD m = true → u.after m tile ≠ some (!tdInt b)) →
            ∃ t, exec (.tseq e) s = .next t ∧ OnlySite e.core s t ∧ SameMemory s t ∧
              CtxIs e t { x with st := .waiting, wait := .streaming, tdesc := a } ∧
              getTiles t e.core = { u with
                nextSn := u.nextSn + 1,
                jobs := u.jobs ++ [{ sn := u.nextSn, ctx := e.ctx, arr := arr, tile := tile, desc := b, descAddr := a,
                                     chunk := (x.tstart.extractLsb' 6 24).toNat, row := (x.tstart.extractLsb' 0 6).toNat }] })))) ∧
  (∀ (e : Enc) (s : State) (b : List Byte),
      let x := e.x s
      let a := x.a e.ra
      let arr : BitVec 4 := e.imm.extractLsb' 0 4
      let rows := (e.imm.extractLsb' 7 7).toNat
      let u := getTiles s e.core
      let n := (arrs arr).length
      Issues { cls := 7, op := 1, ra := true, rb := true, aA := true, aB := true, imm := 0x7FFF } e s →
      (arr = 0 ∨ rows = 0 ∨ 64 < rows → Traps (.tdrn e) e s 0x01 (7#4 ++ 1#6 ++ e.rd ++ e.ra ++ e.rb ++ e.md ++ e.imm)) ∧
      (arr ≠ 0 → 1 ≤ rows → rows ≤ 64 →
        (arr &&& ~~~x.town ≠ 0 → Traps (.tdrn e) e s 0x11 ((arr &&& ~~~x.town).zeroExtend 64)) ∧
        (arr &&& ~~~x.town = 0 → a.toNat % 64 ≠ 0 → Traps (.tdrn e) e s 0x12 a) ∧
        (arr &&& ~~~x.town = 0 → a.toNat % 64 = 0 → engRead s e.core spNear a 64 = .ok b → edFmtOk b = true →
          (edOk s e.core b n = false → Traps (.tdrn e) e s 0x12 a) ∧
          (edOk s e.core b n = true → edCairn b = false →
            (∀ t, drainTrap s e.core b (x.a e.rb) n rows = some t → Traps (.tdrn e) e s t.1 t.2) ∧
            (drainTrap s e.core b (x.a e.rb) n rows = none →
              (4 ≤ u.drains.length → Waits (.tdrn e) e s true (.desc .tdrn e b)) ∧
              (u.drains.length < 4 → edTable b = true → tldWaits (getCore s e.core) = true →
                Waits (.tdrn e) e s false (.desc .tdrn e b)) ∧
              (u.drains.length < 4 → edTable b = false ∨ tldWaits (getCore s e.core) = false →
                ∃ t, exec (.tdrn e) s = .next t ∧ OnlySite e.core s t ∧ SameMemory s t ∧
                  CtxIs e t { x with pc := x.pc + 8 } ∧
                  getTiles t e.core = { u with
                    nextSn := u.nextSn + 1,
                    drains := u.drains ++ [{ sn := u.nextSn, ctx := e.ctx, arr := arr, tile := (e.imm.extractLsb' 4 3).toNat,
                                             rows := rows, rel := e.imm.getLsbD 14, ep := b, base := x.a e.rb,
                                             mseed := x.mseed }] }))))))

/-- The stream: the panel of the current chunk, or of the next, is loaded into the array's slot; the row of the oldest
sequence enters with the panels that it meets, and the sequence goes on to the next row, then to the next chunk; at
its last row TSTART becomes zero and the context's wait ends (R93, R100 to R106). A row that passes its plumb checks
is accumulated: every word of its row in each of its arrays takes the old word, or +0 where the tile was EMPTY, plus
the lane's exact sum of products, rounded once, or for INT8 the integer sum wrapped to 32 bits; no other word of a
HOLDING tile changes (R40 to R43, R107, R109). Without a fault the lane's sum is that over the elements of activation
times weight times both scales, +0 where the weight row is all +0 and the sum zero, NaN with an unusable scale, and for
INT8 that of signed bytes (R40, R41, R100). -/
def Obligations.StreamMoves : Prop :=
  (∀ (c : Nat) (s : State) (j : TseqJob),
      let u := getTiles s c
      (∀ m n bs, u.jobs.find? (fun j => j.active && j.arr.getLsbD m) = some j → coreRuns s c = true →
        n = (if (u.panel j.sn m j.chunk).isNone then j.chunk else j.chunk + 1) → n < tdChunks j.desc → u.panel j.sn m n = none →
        engRead s c spAll (tdPanel j.desc m n) 2176 = .ok bs →
        ∃ t, exec (.panelLoad c m) s = .next t ∧ SameMemory s t ∧
          t = { s with sites := t.sites, far := { s.far with ports := t.far.ports }, regs := { s.regs with ctrs := t.regs.ctrs } } ∧
          (getTiles t c).panel j.sn m n = some bs ∧ getTiles t c = { u with slots := (getTiles t c).slots }) ∧
      (∀ ps act, u.head = some j → rowPanels u j = some ps → coreRuns s c = true → fmtMx (tdAfmt j.desc) = false →
        engRead s c spAll (tdRow j.desc j.chunk j.row) 64 = .ok act →
        ∃ t, exec (.streamRowEntry c) s = .next (tileWake t c) ∧ SameMemory s t ∧
          getTiles t c = { u with
            pipe := u.pipe ++ [{ sn := j.sn, chunk := j.chunk, row := j.row, act := act, scales := [], panels := ps,
                                 last := decide (j.chunk + 1 = tdChunks j.desc) && decide (j.row + 1 = tdM j.desc) }],
            jobs := u.jobs.map fun x => if x.sn = j.sn then
                (if x.row + 1 < tdM x.desc then { x with row := x.row + 1 } else { x with chunk := x.chunk + 1, row := 0 }) else x }) ∧
      (u.jobs.find? (fun j => !j.entered && decide (tdChunks j.desc ≤ j.chunk)) = some j →
        ∃ t, exec (.tseqLastRowEntered c) s = .next (tileWake t c) ∧ SameMemory s t ∧
          getTiles t c = { u with jobs := u.jobs.map fun x => if x.sn = j.sn then { x with entered := true, waited := false } else x } ∧
          (j.waited = true → (getCtx s c j.ctx).st = .waiting →
            getCtx t c j.ctx = { getCtx s c j.ctx with
              tstart := 0, pc := (getCtx s c j.ctx).pc + 8, wait := .none, st := .ready }))) ∧
  ((∀ (c : Nat) (s : State) (fl : List LaneFlip) (j : TseqJob) (p : PipeRow) (q : List PipeRow),
        let u := getTiles s c
        coreRuns s c = true → u.pipe = p :: q → u.jobs.find? (fun j => j.sn = p.sn) = some j → commitWaits u j p = false →
        (∀ x ∈ p.panels, plumbOf j.desc p fl x ≠ .fail) → (p.panels.map fun x => x.1).Nodup → (∀ x ∈ p.panels, x.1 < 4) →
        j.tile < 8 → p.row < 64 →
        ∃ t, exec (.tileRowCommit c fl) s = .next (tileWake t c) ∧ SameMemory s t ∧ (getTiles t c).pipe = q ∧
          (∀ x ∈ p.panels, (getTiles t c).holds x.1 j.tile = true ∧ ∀ i, i < 32 →
            (getTiles t c).word x.1 j.tile p.row i =
              if tdInt j.desc then BitVec.ofInt 32 ((u.word x.1 j.tile p.row i).toInt + laneOutInt p fl x.1 x.2 i)
              else toF32 ((ofF32 (u.word x.1 j.tile p.row i)).add (laneOut j.desc p fl x.1 x.2 i))) ∧
          ∀ m k r i, m < 4 → k < 8 → r < 64 → i < 32 → ¬(k = j.tile ∧ r = p.row ∧ ∃ x ∈ p.panels, x.1 = m) →
            (getTiles t c).word m k r i = u.word m k r i) ∧
    (∀ (b : List Byte) (p : PipeRow) (m : Nat) (panel : List Byte) (j : Nat),
        (badTileScale b = true → laneOut b p [] m panel j = .nan) ∧
        (let v := laneSum (List.zipWith FV.mul (sideVals (tdAfmt b) p.act p.scales (tdAsc b))
            (sideVals (tdWfmt b) (laneRow panel j) (laneScales panel j) (tdWsc b)))
         badTileScale b = false → laneOut b p [] m panel j =
          if v.isZero = true ∧ (∀ x ∈ laneRow panel j, x = 0) then .fin false 0 0 false else v) ∧
        (p.act.length = 64 → 64 * j + 64 ≤ panel.length → laneOutInt p [] m panel j =
          ((List.range 64).map fun i => (p.act.getD i 0).toInt * (panel.getD (64 * j + i) 0).toInt).sum)))

/-- A row that fails a plumb check is not accumulated: twinned, the module fail-stops; alone, the pipeline and the panel
slots are emptied and every sequence stays, TREPEATS of the sequence's context counts one more up to its limit, and a
failure after an earlier one of the same sequence marks the parcel's core for fencing (R121). -/
def Obligations.PlumbFailures : Prop :=
  ∀ (c : Nat) (s : State) (fl : List LaneFlip) (j : TseqJob) (p : PipeRow) (q : List PipeRow) (x : Nat × List Byte),
    let u := getTiles s c
    coreRuns s c = true → u.pipe = p :: q → u.jobs.find? (fun j => j.sn = p.sn) = some j → commitWaits u j p = false →
    x ∈ p.panels → plumbOf j.desc p fl x = .fail →
    ∃ t, exec (.tileRowCommit c fl) s = .next t ∧ SameMemory s t ∧ (getTiles t c).words = u.words ∧
      (twinned s = true → t.pwr.failStopped = true ∧ t.twin.st = .failStopped) ∧
      (twinned s = false → (getTiles t c).pipe = [] ∧ (getTiles t c).slots = [] ∧
        (getTiles t c).jobs.length = u.jobs.length ∧
        (getCtx t c j.ctx).trepeats = (if (getCtx s c j.ctx).trepeats = 0xFFFF then 0xFFFF else (getCtx s c j.ctx).trepeats + 1) ∧
        (j.fails ≠ 0 → (coreParcel s c).isSome = true → c ∈ t.place.fencing))

/-- The drain engine: the next committed row of the oldest drain goes through its epilogue, with an all-zero CTL as FP32
words to its destination row; a drain whose rows are done releases its tiles under REL and makes its tail (R110 to R114). -/
def Obligations.DrainMoves : Prop :=
  ∀ (c : Nat) (s : State) (d : DrainJob) (q : List DrainJob),
    let u := getTiles s c
    let n := (arrs d.arr).length
    coreRuns s c = true → u.drains = d :: q →
    (∀ v, d.row < d.rows → rowPending u d.sn d.arr d.tile d.row = false → (edDest d.ep = 2 → canInject s c 2 = true) →
      drainRowWork s c d = some (.ok v) →
      ∃ t ends, exec (.drainRow c) s = .next (tileWake t c) ∧ SameMemory v t ∧
        getTiles t c = { getTiles v c with drains := { d with row := d.row + 1, ends := ends } :: q }) ∧
    (∀ off, field d.ep 4 4 = 0 → (∀ m, m < 4 → d.arr.getLsbD m = true → u.isInt m d.tile = false) →
      spotOf s c spNoFar (edRow d.ep d.base d.row) (128 * n) = some (.near off) →
      ∃ v, drainRowWork s c d = some (.ok v) ∧ StoredAt c s v (.near off)
        ((arrs d.arr).flatMap fun m => (List.range 32).flatMap fun i =>
          leBytes 4 (toF32 (ofF32 (u.word m d.tile d.row i))).toNat)) ∧
    (d.rows ≤ d.row → (edTail d.ep ≠ none → injBlocked s c = false) →
      ∃ t, exec (.drainComplete c) s = .next (tileWake t c) ∧ SameMemory s t ∧ (getTiles t c).drains = q ∧
        (∀ m k, m < 4 → k < 8 → (getTiles t c).holds m k = (u.holds m k && !(d.rel && d.arr.getLsbD m && decide (k = d.tile)))) ∧
        (edTail d.ep = none → t.mesh = s.mesh) ∧
        ∀ b, edTail d.ep = some b → edDest d.ep ≠ 2 → d.ends.length ≠ 1 ∨ d.ends = [csite s c] →
          t.mesh = { s.mesh with msgs := s.mesh.msgs ++ [{ core := c, site := csite s c, ctx := 0, beacon := b, op := .add 1 }] })

/-! ### The Cairn (R128 to R136) -/

/-- COWN claims a free Cairn and releases an own one; every other Cairn instruction, and a write of a Cairn register, of a
context that does not own it traps with OWNED and OWNER. A register may be written only while the Cairn is empty and
nothing is in flight, and only with a value that its table allows (R129, R136, Tables 5-5, 5-7). -/
def Obligations.CairnOwnership : Prop :=
  ∀ (e : Enc) (s : State),
    let x := getCairn s e.core
    let v := (e.x s).s e.ra
    let changed (i : Instr) (y : Cairn) : Prop :=
      ∃ t, exec i s = .next t ∧ OnlySite e.core s t ∧ SameMemory s t ∧ CtxIs e t { e.x s with pc := (e.x s).pc + 8 } ∧
        (∀ j, j ≠ e.ctx → getCtx t e.core j = getCtx s e.core j) ∧ getCairn t e.core = y
    let own : W64 := BitVec.ofNat 64 (match x.owner with | none => 0 | some k => 4 + k % 4)
    x.fault = none →
    (Issues { cls := 8, op := 1, imm := 1 } e s → e.imm = 1 →
      (x.owner = none ∨ x.owner = some e.ctx → changed (.cown e) { x with owner := some e.ctx }) ∧
      (x.owner ≠ none → x.owner ≠ some e.ctx → Traps (.cown e) e s 0x1D own)) ∧
    (Issues { cls := 8, op := 1, imm := 1 } e s → e.imm = 0 →
      (x.owner = some e.ctx → changed (.cown e) { x with owner := none }) ∧
      (x.owner ≠ some e.ctx → changed (.cown e) x)) ∧
    (x.owner ≠ some e.ctx →
      (Issues { cls := 8, op := 2, ra := true, imm := 0x1F } e s → e.imm ≤ 2 → Traps (.cpush e) e s 0x1D own) ∧
      (Issues { cls := 8, op := 3, rd := true, imm := 0x1F } e s → e.imm ≤ 2 → Traps (.cpopv e) e s 0x1D own) ∧
      (Issues { cls := 8, op := 4, ra := true, rb := true, aA := true } e s → (e.x s).s e.rb ≠ 0 → Traps (.cpop e) e s 0x1D own) ∧
      (Issues { cls := 8, op := 5, ra := true } e s → v ≠ 0 → Traps (.crsv e) e s 0x1D own) ∧
      (Issues { cls := 8, op := 6 } e s → Traps (.creset e) e s 0x1D own) ∧
      (Issues { cls := 1, op := 9, ra := true, imm := 0xFF } e s → 0x20 ≤ e.imm.toNat → e.imm.toNat ≤ 0x26 →
        Traps (.wrcr e) e s 0x1D own)) ∧
    (Issues { cls := 1, op := 9, ra := true, imm := 0xFF } e s → x.owner = some e.ctx →
      ∀ r ∈ ([(0x20, { x with base := v }), (0x21, { x with limit := v }), (0x22, { x with spill := v }),
              (0x23, { x with spillLim := v }), (0x26, { x with ahead := v.extractLsb' 0 3 })] : List (Nat × Cairn)),
        e.imm.toNat = r.1 →
        (x.depth = 0 → x.moving = false → cairnValOk r.1 v = true → changed (.wrcr e) r.2) ∧
        (x.depth ≠ 0 ∨ x.moving = true ∨ cairnValOk r.1 v = false → Traps (.wrcr e) e s 0x1E (BitVec.ofNat 64 r.1)))

/-- CPUSH puts 64 lanes, as FP32 words or rounded once to BF16 or FP16, on top of the Cairn: they are stored in the region
block that holds the top, and the depth rises by their bytes (here where the top block is resident and has room); beyond
the spill area it traps, and while no region block is free it waits. CPOPV takes the top 64 lanes into v[RD], widened
exactly, CPOP the top rows of 64 bytes into near memory, both in push order, and the depth falls. More than the depth traps,
a spilled block not reserved traps with its number, and one on its way is waited for (R130 to R134). -/
def Obligations.CairnPushesAndPops : Prop :=
  (∀ (e : Enc) (s : State),
      let x := getCairn s e.core
      let lane (j : Nat) : W32 := (getCore s e.core).lane e.ra.toNat j
      let f := e.imm.toNat
      let bs : List Byte := if f = 0 then (List.range 64).flatMap fun j => leBytes 4 (lane j).toNat
        else (List.range 64).flatMap fun j => leBytes 2 ((if f = 1 then fmtBF16 else fmtFP16).round (ofF32 (lane j)))
      Issues { cls := 8, op := 2, ra := true, imm := 0x1F } e s → f ≤ 2 → x.owner = some e.ctx → x.fault = none →
      Owns e s [e.ra.toNat] → x.regionOk = true → cairnDrains (getCore s e.core) e.ctx = false →
      (∀ r, x.depth + bs.length ≤ x.spillLim.toNat → x.region (x.depth / 65536) = some r →
        x.depth % 65536 + bs.length ≤ 65536 →
        ∃ t, exec (.cpush e) s = .next t ∧
          StoredAt e.core s t (.terr 1 (tsite s e.core) (x.base.toNat + r * 65536 + x.depth % 65536)) bs ∧
          CtxIs e t { e.x s with pc := (e.x s).pc + 8 } ∧ getCairn t e.core = { x with depth := x.depth + bs.length }) ∧
      (x.spillLim.toNat < x.depth + bs.length → Traps (.cpush e) e s 0x1A (BitVec.ofNat 64 (x.depth + bs.length))) ∧
      (x.depth + bs.length ≤ x.spillLim.toNat → x.room bs.length = false → Waits (.cpush e) e s true (.op .cpush e))) ∧
  (∀ (e : Enc) (s : State) (bs : List Byte) (b : Nat),
      let x := getCairn s e.core
      let f := e.imm.toNat
      let n := if f = 0 then 256 else 128
      let a := (e.x s).a e.ra
      let k := 64 * ((e.x s).s e.rb).toNat
      (Issues { cls := 8, op := 3, rd := true, imm := 0x1F } e s → f ≤ 2 → x.owner = some e.ctx → x.fault = none →
        Owns e s [e.rd.toNat] → x.regionOk = true →
        (x.depth < n → Traps (.cpopv e) e s 0x1B (BitVec.ofNat 64 n)) ∧
        (n ≤ x.depth → cairnTop s e.core n = .error (.notReserved b) → Traps (.cpopv e) e s 0x1C (BitVec.ofNat 64 b)) ∧
        (n ≤ x.depth → cairnTop s e.core n = .error .wait → Waits (.cpopv e) e s true (.op .cpopv e)) ∧
        (n ≤ x.depth → cairnTop s e.core n = .ok bs →
          ∃ t, exec (.cpopv e) s = .next t ∧ OnlySite e.core s t ∧ SameMemory s t ∧
            CtxIs e t { e.x s with pc := (e.x s).pc + 8 } ∧ (getCairn t e.core).depth = x.depth - n ∧
            ∀ r j, r < 32 → j < 64 → (getCore t e.core).lane r j =
              if r = e.rd.toNat then
                (if f = 0 then BitVec.ofNat 32 (leNat ((bs.drop (4 * j)).take 4))
                 else toF32 ((if f = 1 then fmtBF16 else fmtFP16).decode (leNat ((bs.drop (2 * j)).take 2))))
              else (getCore s e.core).lane r j)) ∧
      (Issues { cls := 8, op := 4, ra := true, rb := true, aA := true } e s → k ≠ 0 → x.owner = some e.ctx →
        x.fault = none → x.regionOk = true → k ≤ x.depth → a.toNat % 64 = 0 → a.toNat + k ≤ 2097152 →
        cairnTop s e.core k = .ok bs →
        ∃ t, exec (.cpop e) s = .next t ∧ StoredAt e.core s t (.near a.toNat) bs ∧
          CtxIs e t { e.x s with pc := (e.x s).pc + 8 } ∧ (getCairn t e.core).depth = x.depth - k) ∧
      (∀ m r, 0 < m → m ≤ x.depth → (x.depth - m) % 65536 + m ≤ 65536 → x.region ((x.depth - m) / 65536) = some r →
        cairnTop s e.core m = .ok bs →
        terrRead s (tsite s e.core) (x.base.toNat + r * 65536 + (x.depth - m) % 65536) m = .ok bs))

/-- CRSV queues refills of the highest-numbered spilled blocks, highest first, and the first starts if none runs and a
region block is free; CRESET empties the Cairn once nothing is in flight (R133, R136). With fewer free region blocks than
AHEAD the controller takes the lowest full block below the top out of the resident ones; the spill's completion leaves the
block's bytes in far memory at its place in the spill area, and a block that a waiting pop reaches stays resident; a refill
brings them back to the region block chosen for it, that of the highest queued block first (R132, R133). -/
def Obligations.CairnBlocksMove : Prop :=
  (∀ (e : Enc) (s : State),
      let x := getCairn s e.core
      let n := ((e.x s).s e.ra).toNat
      let q := (((x.spilled.filter fun b => b ∉ x.refillQ).reverse).take n).foldl nins x.refillQ
      x.owner = some e.ctx → x.fault = none →
      (Issues { cls := 8, op := 5, ra := true } e s → n ≠ 0 →
        ∃ t, exec (.crsv e) s = .next t ∧ OnlySite e.core s t ∧ SameMemory s t ∧ CtxIs e t { e.x s with pc := (e.x s).pc + 8 } ∧
          (x.refilling.isSome = true → getCairn t e.core = { x with refillQ := q }) ∧
          (∀ b r, x.refilling = none → q.getLast? = some b → x.pick = some r →
            getCairn t e.core = { x with refilling := some (b, r), refillQ := ndel q b, spilled := ndel x.spilled b })) ∧
      (Issues { cls := 8, op := 6 } e s →
        (x.moving = false →
          ∃ t, exec (.creset e) s = .next t ∧ OnlySite e.core s t ∧ SameMemory s t ∧ CtxIs e t { e.x s with pc := (e.x s).pc + 8 } ∧
            getCairn t e.core = { x with depth := 0, resident := [], spilled := [], refillQ := [] }) ∧
        (x.moving = true →
          Waits (.creset e) e s true (.op .creset e) ∧
          ∃ t, exec (.creset e) s = .next t ∧ getCairn t e.core = { x with refillQ := [] }))) ∧
  (∀ (c : Nat) (s : State) (b r : Nat) (bs : List Byte) (sp : Spot),
      let x := getCairn s c
      let far : W64 := x.spill + BitVec.ofNat 64 (65536 * b)
      let off := x.base.toNat + r * 65536
      coreRuns s c = true →
      (x.resident.find? (fun q => decide ((q.1 + 1) * 65536 < x.depth)) = some (b, r) → x.spilling = none →
        x.free < x.ahead.toNat → x.regionOk = true →
        ∃ t, exec (.cairnSpillStart c) s = .next t ∧ SameMemory s t ∧
          getCairn t c = { x with spilling := some (b, r), resident := sdel x.resident b }) ∧
      (∀ v, x.spilling = some (b, r) → x.spillFault = none → terrRead s (tsite s c) off 65536 = .ok bs →
        spotOf s c ⟨false, false, false, true⟩ far 65536 = some sp → spotWrite s c sp bs = .ok v →
        ∃ t, exec (.cairnSpillComplete c) s = .next (wake t c) ∧ SameMemory v t ∧
          (popReaches s c b = false →
            getCairn t c = ({ x with spilling := none, spilled := nins x.spilled b } : Cairn).startRefill) ∧
          (popReaches s c b = true → getCairn t c = { x with spilling := none, resident := sput x.resident b r })) ∧
      (x.refilling = some (b, r) → x.refillFault = none → spotOf s c ⟨false, false, false, true⟩ far 65536 = some sp → spotRead s c sp 65536 = .ok bs →
        ∃ t, exec (.cairnRefillComplete c) s = .next (wake t c) ∧ StoredAt c s t (.terr 1 (tsite s c) off) bs ∧
          getCairn t c = ({ x with refilling := none, resident := sput x.resident b r } : Cairn).startRefill))

/-! ### The weight-gradient accumulator (R137 to R141) -/

/-- WADDV adds the 64 elements of triple RA into the WGA from element s[RB] on, modulo 2^96, and WRDV reads 64 elements
with the WGA's datum; a differing datum traps with both, and a range beyond the 262144 elements with the first beyond.
A mesh sum that has arrived is added from its element on where its datum is the WGA's, and discarded with DMIS where
it is not (R138). WINIT waits for the WGA's work and then begins to zero it with WDATUM = IMM[9:0]; its completion
leaves every element zero and its context goes on (R140). WZERO and WFLUSH join the flush queue while fewer than two
wait behind the running one, and WSYNC waits for the context's flushes and drains into the WGA (R141). -/
def Obligations.WgaInstructions : Prop :=
  ((∀ (e : Enc) (s : State),
        let y := getCore s e.core
        let el (r j : Nat) : W96 := y.lane (r + 2) j ++ y.lane (r + 1) j ++ y.lane r j
        let i := ((e.x s).s e.rb).toNat
        let k := ((e.x s).s e.ra).toNat
        y.cairn.fault = none →
        (Issues { cls := 8, op := 0x12, ra := true, rb := true } e s → e.ra.toNat ≤ 29 →
          Owns e s [e.ra.toNat, e.ra.toNat + 1, e.ra.toNat + 2] →
          (y.vtag e.ra.toNat ≠ y.wga.datum →
            Traps (.waddv e) e s 0x18 ((y.vtag e.ra.toNat).zeroExtend 64 <<< 16 ||| y.wga.datum.zeroExtend 64)) ∧
          (y.vtag e.ra.toNat = y.wga.datum → 262144 < i + 64 → Traps (.waddv e) e s 0x19 (BitVec.ofNat 64 (max i 262144))) ∧
          (y.vtag e.ra.toNat = y.wga.datum → i + 64 ≤ 262144 →
            ∃ t, exec (.waddv e) s = .next t ∧ OnlySite e.core s t ∧ SameMemory s t ∧ CtxIs e t { e.x s with pc := (e.x s).pc + 8 } ∧
              (getWga t e.core).datum = y.wga.datum ∧
              ∀ n, (getWga t e.core).el n = y.wga.el n + (if i ≤ n ∧ n < i + 64 then el e.ra.toNat (n - i) else 0))) ∧
        (Issues { cls := 8, op := 0x13, rd := true, ra := true } e s → e.rd.toNat ≤ 29 →
          Owns e s [e.rd.toNat, e.rd.toNat + 1, e.rd.toNat + 2] →
          (262144 < k + 64 → Traps (.wrdv e) e s 0x19 (BitVec.ofNat 64 (max k 262144))) ∧
          (k + 64 ≤ 262144 → WritesTriple (.wrdv e) e s (fun j => y.wga.el (k + j)) y.wga.datum 0))) ∧
    (∀ (c n : Nat) (s : State) (f : Flit), coreRuns s c = true → (getWga s c).zeroing = none →
        arrivedFor s c .daf96Sum .wga = some n → s.mesh.net[n]? = some f →
        ∃ t, exec (.wgaSumArrival c) s = .next t ∧ SameMemory s t ∧ t.mesh = { s.mesh with net := s.mesh.net.eraseIdx n } ∧
          let w := getWga s c
          let i := f.addr.toNat
          (f.datum ≠ w.datum → getWga t c = { w with dmis := true }) ∧
          (f.datum = w.datum → (getWga t c).dmis = w.dmis ∧
            ∀ k, k < 262144 → (getWga t c).el k = w.el k +
              (if i ≤ k ∧ k < i + f.count then BitVec.ofNat 96 (leNat ((f.payload.drop (12 * (k - i))).take 12)) else 0)))) ∧
  ((∀ (e : Enc) (s : State) (b : List Byte),
      let y := getCore s e.core
      let w := y.wga
      let i := ((e.x s).s e.ra).toNat
      let n := ((e.x s).s e.rb).toNat
      let a := (e.x s).a e.ra
      let queued (c : Instr) (j : FlushJob) : Prop :=
        ∃ t, exec c s = .next t ∧ OnlySite e.core s t ∧ SameMemory s t ∧ CtxIs e t { e.x s with pc := (e.x s).pc + 8 } ∧
          getWga t e.core = { w with flushes := w.flushes ++ [{ j with sn := y.tiles.nextSn }] } ∧
          getTiles t e.core = { y.tiles with nextSn := y.tiles.nextSn + 1 }
      let mine := (w.flushes.any fun f => f.ctx = e.ctx) || (y.tiles.drains.any fun d => d.ctx = e.ctx && wgaDrain d)
      let inUse := y.tiles.drains.any wgaDrain || decide (w.flushes ≠ []) || w.zeroing.isSome || wgaLaunch y
      y.cairn.fault = none →
      (Issues { cls := 8, op := 0x10, imm := 0x3FF } e s →
        (inUse = true → Waits (.winit e) e s true (.op .winit e)) ∧
        (inUse = false → Waits (.winit e) e s true .zeroing ∧
          ∃ t, exec (.winit e) s = .next t ∧ getWga t e.core = { w with datum := e.imm.extractLsb' 0 10, zeroing := some e.ctx })) ∧
      (Issues { cls := 8, op := 0x11, ra := true, rb := true } e s → n ≠ 0 →
        (262144 < i + n → Traps (.wzero e) e s 0x19 (BitVec.ofNat 64 (max i 262144))) ∧
        (i + n ≤ 262144 → w.flushes.length < 3 → queued (.wzero e) { ctx := e.ctx, zero := true, desc := [], first := i, count := n }) ∧
        (i + n ≤ 262144 → 3 ≤ w.flushes.length → Waits (.wzero e) e s true (.op .wzero e))) ∧
      (Issues { cls := 8, op := 0x14, ra := true, aA := true } e s →
        (a.toNat % 64 ≠ 0 ∨ 2097152 < a.toNat + 64 → Traps (.wflush e) e s 0x1F a) ∧
        (a.toNat % 64 = 0 → a.toNat + 64 ≤ 2097152 → engRead s e.core spNear a 64 = .ok b →
          (fdOk s e.core b = false → Traps (.wflush e) e s 0x1F a) ∧
          (fdOk s e.core b = true → 3 ≤ w.flushes.length → Waits (.wflush e) e s true (.desc .wflush e b)) ∧
          (fdOk s e.core b = true → w.flushes.length < 3 →
            queued (.wflush e) { ctx := e.ctx, zero := false, desc := b, first := field b 0 4, count := field b 4 4 }))) ∧
      (Issues { cls := 8, op := 0x15 } e s →
        (mine = false → Jumps (.wsync e) e s ((e.x s).pc + 8)) ∧ (mine = true → Waits (.wsync e) e s true (.op .wsync e)))) ∧
    ∀ (c k : Nat) (s : State), coreRuns s c = true → (getWga s c).zeroing = some k → (getCtx s c k).wait = .zeroing →
      (getCtx s c k).st = .waiting →
      ∃ t, exec (.winitZeroingComplete c) s = .next (wake t c) ∧ SameMemory s t ∧
        (getWga t c).datum = (getWga s c).datum ∧ (getWga t c).zeroing = none ∧ (∀ n, (getWga t c).el n = 0) ∧
        getCtx t c k = { getCtx s c k with pc := (getCtx s c k).pc + 8, wait := .none, st := .ready })

/-- A WZERO clears its elements when its turn comes; a flush to memory in MODE 1 stores its elements as 12 bytes each, in
MODE 2 as FP32, once rounded, and clears them under CLEAR; one to another core (MODE 0) sends them as sums of five elements
(R54, R141, R257). -/
def Obligations.WgaFlushes : Prop :=
  ∀ (c : Nat) (s : State) (j : FlushJob) (q : List FlushJob) (off : Nat),
    let w := getWga s c
    let n := j.count
    let es := (List.range n).map fun i => w.el (j.first + i)
    let bs : List Byte := if fdMode j.desc = 1 then es.flatMap fun v => leBytes 12 v.toNat
      else es.flatMap fun v => leBytes 4 (fmtFP32.round (intVal v.toInt (w.datum.toInt - 60)))
    coreRuns s c = true → injBlocked s c = false → w.flushes = j :: q →
    (j.zero = true →
      ∃ t, exec (.flushComplete c) s = .next (wake t c) ∧ SameMemory s t ∧ (getWga t c).flushes = q ∧
        ∀ i, (getWga t c).el i = if j.first ≤ i ∧ i < j.first + n then 0 else w.el i) ∧
    (j.zero = false → ((getTiles s c).drains.any fun d => d.ctx = j.ctx && wgaDrain d && decide (d.sn < j.sn)) = false →
      (fdMode j.desc = 1 ∨ fdMode j.desc = 2 → fdTail j.desc = none →
        spotOf s c spLocal (fdDst j.desc) bs.length = some (.near off) →
        ∃ t, exec (.flushComplete c) s = .next (wake t c) ∧ StoredAt c s t (.near off) bs ∧ (getWga t c).flushes = q ∧
          ∀ i, (getWga t c).el i = if fdClear j.desc = true ∧ j.first ≤ i ∧ i < j.first + n then 0 else w.el i) ∧
      (fdMode j.desc = 0 → fdTail j.desc = none →
        ∃ t, exec (.flushComplete c) s = .next (wake t c) ∧ SameMemory s t ∧ (getWga t c).flushes = q ∧
          let fs := sumFlits s c (fdTarget j.desc) w.datum .wga (n / 5 + 1) (field j.desc 16 8) es
          t.mesh = { s.mesh with born := s.mesh.born + fs.length, net := s.mesh.net ++
            (fs.zipIdx.map fun x => { x.1 with born := s.mesh.born + x.2 }) }))


/-! ### The update engine (R152 to R166, R175) -/

/-- ULAUNCH with a legal descriptor and program, and UGAUGE with a count and a sum to form, join the engine's queue and their
contexts wait; the update phase of the parcel's step has begun (R281). An illegal descriptor traps with its address, an
illegal program with the index and the word of its first illegal instruction, a range of groups, for a lazy launch of those of
its touched rows, that leaves the WGA with the first element beyond (R154 to R156, R163, R166, Table 6-13). -/
def Obligations.UpdateLaunchesQueue : Prop :=
  ∀ (e : Enc) (s : State) (b pb : List Byte),
    let x := e.x s
    let a := x.a e.ra
    let i := (x.s e.ra).toNat
    let n := (x.s e.rb).toNat
    let queued (c : Instr) (p : Launch → Prop) : Prop :=
      ∃ t l, exec c s = .next t ∧ SameMemory s t ∧
        CtxIs e t { x with st := .waiting, wait := .launch, ustat := (e.x t).ustat } ∧
        (getCore t e.core).launches.getLast? = some l ∧ p l ∧ l.ctx = e.ctx ∧ l.st ≠ .running ∧ l.group = x.upos.toNat ∧
        (getCore t e.core).launches.length = (getCore s e.core).launches.length + 1 ∧
        ∀ q, coreParcel s e.core = some q → q < 8 → (getPcl t q).updateBegun = true
    (Issues { cls := 0xA, op := 1, ra := true, rb := true, aA := true } e s →
      (a.toNat % 64 ≠ 0 → Traps (.ulaunch e) e s 0x20 a) ∧
      (a.toNat % 64 = 0 → engRead s e.core spNear a 128 = .ok b →
        (udOk b x.upos.toNat = false → Traps (.ulaunch e) e s 0x20 a) ∧
        (∀ m, udOk b x.upos.toNat = true →
          (udLazy b = false ∧ m = udGroups b) ∨
            (udLazy b = true ∧ ∃ bm, readBitmap s e.core b = .ok bm ∧
              m = (touchedRows (udRows b) bm).length * (udRowlen b / 64)) →
          (m < x.upos.toNat → Traps (.ulaunch e) e s 0x20 a) ∧
          (x.upos.toNat ≤ m → udGkind b = 0 → 262144 < udGsrc b + 64 * m →
            Traps (.ulaunch e) e s 0x19 (BitVec.ofNat 64 (max (udGsrc b) 262144))) ∧
          (x.upos.toNat ≤ m → ¬(udGkind b = 0 ∧ 262144 < udGsrc b + 64 * m) →
            engRead s e.core spNear (udProg b) (4 * udPlen b) = .ok pb →
            (∀ k w, progBad (udNslot b) 0 [] [] (lanesOf pb) = some (k, w) →
              Traps (.ulaunch e) e s 0x21 (BitVec.ofNat 32 k ++ w)) ∧
            (progBad (udNslot b) 0 [] [] (lanesOf pb) = none → x.heldSt = [] →
              queued (.ulaunch e) fun l => l.gauge = false ∧ l.desc = b ∧ l.descAddr = a ∧ l.prog = lanesOf pb ∧
                l.stepNo = (x.s e.rb).extractLsb' 0 32))))) ∧
    (Issues { cls := 0xA, op := 2, ra := true, rb := true, imm := 0xFFFFFF } e s →
      (n = 0 ∨ (e.imm.getLsbD 12 = false ∧ e.imm.getLsbD 13 = false) →
        Traps (.ugauge e) e s 0x01 (0xA#4 ++ 2#6 ++ e.rd ++ e.ra ++ e.rb ++ e.md ++ e.imm)) ∧
      (n ≠ 0 → e.imm.getLsbD 12 = true ∨ e.imm.getLsbD 13 = true →
        (262144 < i + n → Traps (.ugauge e) e s 0x19 (BitVec.ofNat 64 (max i 262144))) ∧
        (i + n ≤ 262144 → queued (.ugauge e) fun l => l.gauge = true ∧ l.first = i ∧ l.count = n ∧ l.imm = e.imm)))

/-- The engine takes a launch that is able to start when it runs none; its groups commit one after the other, each with all
its effects, UPOS naming the next; when none remains the tail arrives, or leaves for the one remote endpoint of all its writes
(R258), UPOS is zero and the context goes on (R152, R153,
R157, R159, R175). A group of a plain dense launch stores to the master what its program stores in SLOT 9, element by
element (R155, R161, R162). -/
def Obligations.UpdateGroupsCommit : Prop :=
  (∀ (c k : Nat) (s : State) (l : Launch), coreRuns s c = true → (getCore s c).launches = [l] → l.ctx = k → l.st ≠ .running →
    launchAble (getCore s c) l = true → l.since = 0 → markRuns s c = false →
    ∃ t, exec (.updateLaunchStart c k) s = .next t ∧ SameMemory s t ∧
      (getCore t c).launches = [{ l with st := .running, since := 1 }] ∧ (getCtx t c k).ustat = (if l.gauge then 0xB else 3) ∧
      (getCtx t c k).udesc = (if l.gauge then (getCtx s c k).udesc else l.descAddr)) ∧
  (∀ (c : Nat) (s v : State) (l : Launch) (g : UGroup), coreRuns s c = true → runningLaunch (getCore s c) = some l →
    l.gauge = false → nextGroup s c l = .ok (some g) → lazyWgaOver l g = false → groupWork s c l g = .ok v →
    ∃ t, exec (.updateGroupCommit c) s = .next t ∧ SameMemory v t ∧
      (getCtx t c l.ctx).upos = BitVec.ofNat 32 (l.group + 1) ∧ (getCore t c).theo = (getCore v c).theo ∧
      (getCore t c).launches = (getCore v c).launches.map fun y => if y.ctx = l.ctx then { y with group := l.group + 1 } else y) ∧
  (∀ (c : Nat) (s : State) (l : Launch) (g : UGroup) (wbs gbs : List Byte) (v : Nat → W32) (off : Nat),
    let b := l.desc
    udLazy b = false → udNslot b = 0 → udGkind b = 1 → udGclr b = false → udGmeas b = false → udTheo b = false →
    udFout b = false → udTout b = false → (∀ w ∈ l.prog, uiOp w = 2 → uiSlot w = 9) →
    engRead s c spAll g.maddr 256 = .ok wbs → engRead s c spAll (BitVec.ofNat 64 (udGsrc b + 4 * g.gidx)) 256 = .ok gbs →
    spotOf s c spAll g.maddr 256 = some (.near off) →
    (∀ j, j < 64 → storedIn (runProg (fun i => sget 0 (getCore s c).operands (udOpset b * 16 + i))
        (fun sl => if sl < 8 then 0
          else if sl = 8 then BitVec.ofNat 32 (leNat ((gbs.drop (4 * j)).take 4))
          else if sl = 9 then BitVec.ofNat 32 (leNat ((wbs.drop (4 * j)).take 4))
          else if sl = 10 then (if udGated b then (getCore s c).gate.factor else 0x3F800000) else 0x3F800000) l.prog) 9 =
      some (v j)) →
    ∃ t, groupWork s c l g = .ok t ∧ StoredAt c s t (.near off) ((List.range 64).flatMap fun j => leBytes 4 (v j).toNat)) ∧
  ∀ (c : Nat) (s : State) (l : Launch), coreRuns s c = true → runningLaunch (getCore s c) = some l → launchOver s c l = true →
    injBlocked s c = false → (getCtx s c l.ctx).wait = .launch → (getCtx s c l.ctx).st = .waiting →
    ∃ t, exec (.updateLaunchComplete c) s = .next (wake t c) ∧ SameMemory s t ∧
      (getCore t c).launches = (getCore s c).launches.filter (fun y => y.ctx ≠ l.ctx) ∧
      getCtx t c l.ctx = { getCtx s c l.ctx with
        upos := 0, ustat := 0, uwga := false, pc := (getCtx s c l.ctx).pc + 8, wait := .none, st := .ready } ∧
      (l.ends.length ≠ 1 ∨ l.ends = [csite s c] ∨ l.gauge = true → t.mesh = { s.mesh with msgs := s.mesh.msgs ++
        (match (if l.gauge then none else udTail l.desc) with
         | none => []
         | some b => [{ core := c, site := csite s c, ctx := 0, beacon := b, op := .add 1 }]) }) ∧
      ∀ d b, l.ends = [d] → d ≠ csite s c → l.gauge = false → udTail l.desc = some b →
        t.mesh = { s.mesh with born := s.mesh.born + 1, net := s.mesh.net ++
          [{ src := csite s c, dst := d, vc := 0, kind := .tail, parcel := coreParcelNum s c, pv := true,
             addr := BitVec.ofNat 42 b, pos := csite s c, what := .tail 1, born := s.mesh.born }] }

/-- The clip norm: a gauge adds the squares of its elements to CLIPSS under the gate's datum; NGSEND sends it to the gate core
with a tail and clears it, once the site takes its flits; the gate core adds a sum of its datum, and sets DMIS for another;
NGCAST sends NGACC as a multicast to every core of the parcel; a value opens a closed gate with NORM its square root and FACTOR 1.0 or CMAX / NORM, and sets DUP on an open
one; NGWAIT waits for the gate and reads FACTOR (R166 to R169). -/
def Obligations.NormGateRules : Prop :=
  (∀ (e : Enc) (s : State),
    let v := (e.x s).s e.ra
    let g := (getCore s e.core).gate
    let d : Datum := g.cfg.extractLsb' 0 10
    let n := csite s e.core
    let p := coreParcelNum s e.core
    let all : McEntry := { x0 := 0, x1 := 19, y0 := 0, y1 := 39, bmen := true, beds := (getPcl s p).beds }
    let legs := mcLegs n all
    let cast (x : McLeg × Nat) : Flit :=
      { src := n, dst := 0, vc := 3, kind := .mcastWrite, parcel := p, pv := true, addr := 0, datum := d,
        payload := leBytes 12 g.ngacc.toNat, pos := n, what := .gate, leg := x.1, mc := some all, born := s.mesh.born + x.2 }
    let sum : Flit :=
      { src := n, dst := csite s v.toNat, vc := 2, kind := .daf96Sum, parcel := p, pv := true, addr := 0, datum := d,
        count := 1, payload := leBytes 12 g.clipss.toNat, pos := n, what := .ngacc }
    let tail : Flit :=
      { src := n, dst := csite s v.toNat, vc := 2, kind := .tail, parcel := p, pv := true,
        addr := (e.imm.extractLsb' 0 13).zeroExtend 42, pos := n, what := .tail 1 }
    (Issues { cls := 0xA, op := 3, ra := true, imm := 0x1FFF } e s →
      (768 ≤ v.toNat → Traps (.ngsend e) e s 0x03 v) ∧
      (v.toNat < 768 → canInject s e.core 2 = false → Waits (.ngsend e) e s true (.op .ngsend e)) ∧
      (v.toNat < 768 → canInject s e.core 2 = true →
        ∃ t, exec (.ngsend e) s = .next t ∧ SameMemory s t ∧ CtxIs e t { e.x s with pc := (e.x s).pc + 8 } ∧
          (getCore t e.core).gate = { g with clipss := 0 } ∧
          t.mesh = { s.mesh with born := s.mesh.born + 2, net := s.mesh.net ++
            [{ sum with born := s.mesh.born }, { tail with born := s.mesh.born + 1 }] })) ∧
    (Issues { cls := 0xA, op := 4 } e s → canInject s e.core 3 = true →
      ∃ t, exec (.ngcast e) s = .next t ∧ SameMemory s t ∧ CtxIs e t { e.x s with pc := (e.x s).pc + 8 } ∧
        t.mesh = { s.mesh with born := s.mesh.born + legs.length, net := s.mesh.net ++ legs.zipIdx.map cast }) ∧
    (Issues { cls := 0xA, op := 5, rd := true } e s →
      (g.isOpen = true → WritesS (.ngwait e) e s (g.factor.zeroExtend 64)) ∧
      (g.isOpen = false → Waits (.ngwait e) e s true (.op .ngwait e)))) ∧
  (∀ (c n : Nat) (s : State) (f : Flit), coreRuns s c = true → s.mesh.net[n]? = some f →
    let g := (getCore s c).gate
    let v : W96 := BitVec.ofNat 96 (leNat (f.payload.take 12))
    let net := s.mesh.net.eraseIdx n
    (arrivedFor s c .daf96Sum .ngacc = some n →
      ∃ t, exec (.ngaccArrival c) s = .next t ∧ SameMemory s t ∧ t.mesh = { s.mesh with net := net } ∧
        (getCore t c).gate = if f.datum = g.cfg.extractLsb' 0 10 then { g with ngacc := g.ngacc + v } else { g with dmis := true }) ∧
    (arrivedFor s c .mcastWrite .gate = some n →
      ∃ t, exec (.gateValueArrival c) s = .next (wake t c) ∧ SameMemory s t ∧ t.mesh = { s.mesh with net := net } ∧
        let sum := fmtFP32.round (intVal v.toInt (f.datum.toInt - 60))
        let norm := fsqrt (BitVec.ofNat 32 sum)
        let cmax : W32 := g.cfg.extractLsb' 32 32
        (g.isOpen = true → (getCore t c).gate = { g with dup := true }) ∧
        (g.isOpen = false → (getCore t c).gate = { g with
          isOpen := true, norm := norm, ovf := g.ovf || decide (sum % 2147483648 = 0x7F800000),
          factor := if fnan norm = false ∧ fnan cmax = false ∧ flt cmax norm = false then 0x3F800000 else fdiv cmax norm }))) ∧
  ∀ (c : Nat) (s : State) (l : Launch), coreRuns s c = true → runningLaunch (getCore s c) = some l → l.gauge = true →
    l.group < (l.count + 63) / 64 →
    ∃ t, exec (.updateGroupCommit c) s = .next t ∧ SameMemory s t ∧
      (getCtx t c l.ctx).upos = BitVec.ofNat 32 (l.group + 1) ∧ (getCore t c).wga = (getCore s c).wga ∧
      (l.imm.getLsbD 12 = false → (getCore t c).gate = (getCore s c).gate) ∧
      (l.imm.getLsbD 12 = true → (getCore t c).gate.clipss =
        (List.range (min 64 (l.count - 64 * l.group))).foldl (fun z j =>
          let w := (getCore s c).wga
          let x := ofF32 (BitVec.ofNat 32 (fmtFP32.round (intVal (w.el (l.first + 64 * l.group + j)).toInt (w.datum.toInt - 60))))
          z + (toDaf ((getCore s c).gate.cfg.extractLsb' 0 10).toInt (x.mul x)).1) (getCore s c).gate.clipss)

/-! ### The mesh (R240 to R261) -/

/-- Routes: a unicast flit goes along its row to its destination's column and then along that column, each hop one router
nearer (R240). One about to enter a failed site goes round it once the detour is loaded: it steps to the adjacent row or
column, passes the site and steps back, or turns there; in place of a failed Bridge link it crosses in the next column
(R261). With a credit and an intact header a flit that is first of its path goes to its next router, or into a frame of the
Bridge of at most three, when there is room for it (R242, R243); at its destination a request of the parcel that owns the site's bed is handed over, one of another is dropped and a load of it answered with
all ones, refused (R248, R251). -/
def Obligations.FlitsAreRouted : Prop :=
  let dist (x y : Nat) : Nat := (max x y) - (min x y)
  let hops (x y : Nat) : Nat := dist (siteX x) (siteX y) + dist (siteRow x) (siteRow y)
  (∀ a b, a < 800 → b < 800 → a ≠ b →
    let n := nextRouter a b
    n < 800 ∧ hops a n = 1 ∧ hops n b + 1 = hops a b ∧ (siteX a ≠ siteX b → siteRow n = siteRow a)) ∧
  (∀ a b, a < 800 → b < 800 → a ≠ b → nextRouter a b ≠ b →
    let n := nextRouter a b
    ∃ v rest, detourOf a b n = v :: rest ∧ v < 800 ∧ hops a v = 1 ∧
      (siteRow n = siteRow a → siteX v = siteX a) ∧ (siteRow n ≠ siteRow a → siteRow v = siteRow a) ∧
      (∀ u ∈ v :: rest, u < 800 ∧ u ≠ n ∧ u ≠ a) ∧
      (∀ p q, (p, q) ∈ (v :: rest).zip rest → hops p q = 1) ∧
      (if siteRow n = siteRow a ∧ siteX b = siteX n then rest.length = 1 ∧ siteX (rest.getLastD v) = siteX n
       else rest.length = 3 ∧ rest.getLastD v = nextRouter n b)) ∧
  ∀ (n : Nat) (s : State) (f : Flit), s.mesh.net[n]? = some f → f.arrived = false → f.mc = none →
    routerFailed s f.pos = false → firstOfPath s.mesh.net n f = true → oldestFar s f = true →
    let goal := endpointSite f.dst
    let nx := nextRouter f.pos goal
    let goes (v : Nat) (rest : List Nat) : Prop :=
      let g : Flit := { f with pos := v, via := rest, prev := some f.pos, fresh := false }
      hopRoom s f v rest = true →
      ∃ t, exec (.flitAtRouter n true true) s = .next (wakeSource t f) ∧ SameMemory s t ∧
        (siteDie v = siteDie f.pos → t.mesh = { s.mesh with net := s.mesh.net.eraseIdx n ++ [g] }) ∧
        (siteDie v ≠ siteDie f.pos → t.mesh.net = s.mesh.net.eraseIdx n ∧
          let col := bridgeCol s (siteDie f.pos) (siteX f.pos)
          let fs := (getLink s (siteDie f.pos) col).frames
          getLink t (siteDie f.pos) col = { getLink s (siteDie f.pos) col with
            frames := if (getLink s (siteDie f.pos) col).openFrame then fs.dropLast ++ [fs.getLastD [] ++ [g]] else fs ++ [[g]] })
    (f.pos ≠ goal → f.via = [] → routerFailed s nx = false →
      (siteDie nx = siteDie f.pos ∨ linkDown s (siteX f.pos) = false) → goes nx []) ∧
    (f.pos ≠ goal → f.via = [] → nx ≠ goal → routerFailed s nx = true → sget false s.mesh.detour (siteDie nx) = true →
      ∀ v rest, detourOf f.pos goal nx = v :: rest → routerFailed s v = false → goes v rest) ∧
    (f.pos ≠ goal → f.via = [] → routerFailed s nx = false → siteDie nx ≠ siteDie f.pos → linkDown s (siteX f.pos) = true →
      let c := inward (siteX f.pos)
      routerFailed s (siteAt c (siteRow f.pos)) = false → goes (siteAt c (siteRow f.pos)) [siteAt c (siteRow nx), nx]) ∧
    (∀ v rest, f.pos ≠ goal → f.via = v :: rest → routerFailed s v = false → goes v rest) ∧
    (f.dst < 800 → f.pos = f.dst → f.kind = .readReq → endRoom s f = true →
      ∃ t, exec (.flitAtRouter n true true) s = .next (wakeSource t f) ∧ SameMemory s t ∧
        if f.pv ∧ bedParcel s (siteBed f.pos) = some f.parcel then
          t.mesh = { s.mesh with net := s.mesh.net.eraseIdx n ++ [{ f with arrived := true, via := [], fresh := false }] }
        else t.mesh = { s.mesh with born := s.mesh.born + 1, net := s.mesh.net.eraseIdx n ++
          [{ f with src := f.dst, dst := f.src, vc := 1, kind := .readResp, refused := true, pos := f.pos, via := [], fresh := true,
                    prev := none, last := true, born := s.mesh.born, payload := List.replicate f.what.size 0xFF }] })

/-- A terrace serves the oldest request at it: a read is answered with the bytes, a write is stored and acknowledged (R188). A
tail adds to its beacon once the sums and writes before it are taken (R258). A frame of the Bridge with a good CRC is
accepted in order; one refused is sent again, and refused eight times running fails its link (R248). The first failed
router of a die stops injection there and loses its flits until the detour is loaded; the next failure stops the module (R260). -/
def Obligations.MeshEndpointsAndFailures : Prop :=
  (∀ (site n err : Nat) (s : State) (f : Flit), s.mesh.net.findIdx? (terrReq site) = some n → s.mesh.net[n]? = some f →
    sget false s.mesh.injStopped (siteDie site) = false → injRoom s site 1 = true → err < 2 →
    let off := f.addr.toNat % 67108864
    let back (k : FlitKind) (bs : List Byte) : Flit :=
      { f with src := f.dst, dst := f.src, vc := 1, kind := k, refused := false, payload := bs, pos := endpointSite f.dst,
               arrived := false, fresh := true, prev := none, via := [], last := true, born := s.mesh.born }
    (∀ bs, f.kind = .readReq → terrRead s site off f.what.size = .ok bs →
      ∃ t, exec (.terraceRemoteAccess site err) s = .next t ∧ SameMemory s t ∧
        t.mesh = { s.mesh with born := s.mesh.born + 1, net := s.mesh.net.eraseIdx n ++ [back .readResp bs] }) ∧
    (f.kind = .write →
      ∃ t, exec (.terraceRemoteAccess site err) s = .next t ∧ StoredAt 0 s t (.terr 2 site off) f.payload ∧
        t.mesh = { s.mesh with born := s.mesh.born + 1, net := s.mesh.net.eraseIdx n ++ [back .writeAck []] })) ∧
  (∀ (n v : Nat) (s : State) (f : Flit), s.mesh.net[n]? = some f → f.arrived = true → f.kind = .tail → f.what = .tail v →
    (∀ g ∈ s.mesh.net.take n, ¬(g.dst = f.dst ∧ g.vc = f.vc ∧ g.arrived = true ∧ g.kind ≠ .tail)) →
    ∃ t, exec (.tailArrival n) s = .next t ∧ t = { s with mesh := t.mesh } ∧
      t.mesh = { s.mesh with net := s.mesh.net.eraseIdx n, msgs := s.mesh.msgs ++ [
        { core := 0, site := f.pos, ctx := 0, beacon := f.addr.toNat % 8192, op := .add (BitVec.ofNat 32 (v * f.count)) }] }) ∧
  (∀ (die col : Nat) (s : State) (fs : List Flit) (q : List (List Flit)), die < 2 → col < 20 →
    let l := getLink s die col
    l.frames = fs :: q → l.down = false →
    (l.refused = false → (∀ f ∈ fs, portRoom s.mesh.net (f.prev.getD f.pos) f.pos f.vc (f.via ≠ []) = true) →
      ∃ t, exec (.bridgeFrameReceived die col true) s = .next t ∧ SameMemory s t ∧
      t.mesh.net = s.mesh.net ++ fs ∧ getLink t die col = { l with frames := q, refusals := 0, seqNo := l.seqNo + 1 }) ∧
    (l.refused = false → l.refusals < 7 → ∃ t, exec (.bridgeFrameReceived die col false) s = .next t ∧ SameMemory s t ∧
      t.mesh.net = s.mesh.net ∧ getLink t die col = { l with refusals := l.refusals + 1, refused := true }) ∧
    (l.refused = false → l.refusals = 7 → ∃ t, exec (.bridgeFrameReceived die col false) s = .next t ∧
      (getLink t die col).down = true ∧ (getLink t die col).frames = []) ∧
    (l.refused = true → ∃ t, exec (.bridgeFrameReplay die col) s = .next t ∧ SameMemory s t ∧
      t.mesh.net = s.mesh.net ∧ getLink t die col = { l with refused := false })) ∧
  (∀ (site : Nat) (s : State), site < 800 → twinned s = false → sget 0 s.mesh.failedRouter (siteDie site) = 0 →
    anyBridgeDown s = false →
    ∃ t, exec (.routerFailure site) s = .next t ∧ SameMemory s t ∧ sget 0 t.mesh.failedRouter (siteDie site) = site + 1 ∧
      sget false t.mesh.injStopped (siteDie site) = true ∧ (getSite t site).rfail = true ∧
      (∀ f ∈ t.mesh.net, f.pos = site → f.arrived = true) ∧
      ((∃ f ∈ s.mesh.net, f.pos = site ∧ f.arrived = false) → exec (.routerCreditTimeout site) s = .next t)) ∧
  (∀ (site : Nat) (s : State), site < 800 → sget 0 s.mesh.failedRouter (siteDie site) ≠ 0 →
    sget 0 s.mesh.failedRouter (siteDie site) ≠ site + 1 →
    ∃ t, exec (.routerFailure site) s = .next t ∧ SameMemory s t ∧ t.pwr.failStopped = true) ∧
  ∀ (die : Nat) (s : State), sget false s.mesh.injStopped die = true →
    ∃ t cs, exec (.detourLoad die) s = .next (wakeAll t cs) ∧ SameMemory s t ∧ sget false t.mesh.detour die = true ∧
      sget false t.mesh.injStopped die = false ∧ t.mesh.net = s.mesh.net

/-! ### Far memory (R190 to R202, R216 to R222) -/

/-- A far port takes the oldest of its requests that can be admitted, while its answers can leave (R194, R195): with the page's
entry cached and its line present, a load is answered with the
bytes of the page's physical place and a store writes them; without the line it takes a miss slot, which a fill serves; one
whose page refuses its parcel holds its context and joins the page's held set; an entry not cached is fetched into the
cache of 512 (R191 to R194, R197, R198, R202). -/
def Obligations.FarRequestsServed : Prop :=
  ∀ (p : Nat) (s : State) (f : Flit), p < 48 →
    let x := getPortF s p
    let fpn := f.addr.toNat / 16777216
    let line := farLine s f.addr.toNat
    let ok := pageRefusal (getEnt s fpn) f.parcel false (!f.isWr) f.isWr
    let back (bs : List Byte) : Flit :=
      { f with src := f.dst, dst := f.src, vc := 1, kind := .farResp, refused := false, payload := bs,
               pos := endpointSite f.dst, arrived := false, fresh := true, prev := none, via := [], last := true,
               born := s.mesh.born }
    let q := x.ingress.erase f
    (nextReq s p = some f → f.kind ≠ .tail → fpn ∉ x.cadCache →
      ∃ t, exec (.cadastreCacheMiss p) s = .next t ∧ SameMemory s t ∧
        getPortF t p = { x with cadCache := (fpn :: x.cadCache).take 512 }) ∧
    (nextReq s p = some f → portAnswers s p = true → f.kind ≠ .tail → fpn ∈ x.cadCache → ok = none → farReqSnoop s f = none →
      (line ∈ x.lines → (∀ g ∈ x.missSlots, reqLine s g ≠ line) →
        (f.payload = [] → (∀ l ∈ unitsOf 64 f.addr.toNat f.what.size, unitValid s.far.swInit s.far.marks (farLine s (l * 64)) = true) →
          ∃ t, exec (.farRequestAtPort p) s = .next t ∧ SameMemory s t ∧ (getPortF t p).ingress = q ∧
            t.mesh = { s.mesh with born := s.mesh.born + 1, net := s.mesh.net ++
              [back ((List.range f.what.size).map fun i => mrd s.far.mem (farByte s (f.addr.toNat + i)))] }) ∧
        (f.payload ≠ [] → farPartInvalid s f.addr.toNat f.payload.length = false →
          (∀ i j, i < j → j < f.payload.length → farByte s (f.addr.toNat + i) ≠ farByte s (f.addr.toNat + j)) →
          ∃ t, exec (.farRequestAtPort p) s = .next t ∧ (getPortF t p).ingress = q ∧
            (∀ i, i < f.payload.length → mrd t.far.mem (farByte s (f.addr.toNat + i)) = f.payload.getD i 0) ∧
            (∀ a, (∀ i, i < f.payload.length → a ≠ farByte s (f.addr.toNat + i)) → mrd t.far.mem a = mrd s.far.mem a) ∧
            (getEnt t fpn).dirty = true ∧ t.mesh = { s.mesh with born := s.mesh.born + 1, net := s.mesh.net ++ [back []] })) ∧
      (line ∉ x.lines → x.missSlots.length < 256 →
        ∃ t, exec (.farRequestAtPort p) s = .next t ∧ SameMemory s t ∧ (getPortF t p).ingress = q ∧
          (getPortF t p).missSlots = x.missSlots ++ [f] ∧ t.mesh = s.mesh)) ∧
    (∀ kind c k n rd z sx a, nextReq s p = some f → portAnswers s p = true → f.kind ≠ .tail → fpn ∈ x.cadCache → ok = some kind →
      f.payload = [] → f.what = .load c k n → (getCtx s c k).wait = .load rd z sx a →
      ∃ t, exec (.farRequestAtPort p) s = .next (wake t c) ∧ SameMemory s t ∧
        getCtx t c k = { getCtx s c k with st := .held, wait := .fault a } ∧
        ∃ g ∈ t.far.faults, g.parcel = coreParcelNum s c ∧ g.fpn = fpn ∧
          { requester := 0, index := k, core := c, addr := a, write := false } ∈ g.held) ∧
    (∀ errs d fixed, x.missSlots = [f] → portAnswers s p = true → x.paused fpn = false → unitValid s.far.swInit s.far.marks line = true →
      rsDecode (rsMode s) (readWord s line errs) = some (d, fixed) → f.payload = [] →
      (∀ l ∈ unitsOf 64 f.addr.toNat f.what.size, unitValid s.far.swInit s.far.marks (farLine s (l * 64)) = true) →
      (∀ i, i < 64 → d.getD i 0 = mrd s.far.mem (line * 64 + i)) → d.length = 64 →
      ∃ t, exec (.ringCacheFill p errs) s = .next t ∧ SameMemory s t ∧ (getPortF t p).missSlots = [] ∧
        (getPortF t p).lines.head? = some line ∧
        t.mesh = { s.mesh with born := s.mesh.born + 1, net := s.mesh.net ++
          [back ((List.range f.what.size).map fun i => mrd s.far.mem (farByte s (f.addr.toNat + i)))] }) ∧
    (nextReq s p = some f → f ∈ x.ingress ∧ x.admits s f = true ∧ ∀ g ∈ x.ingress, x.admits s g = true → f.born ≤ g.born)

/-- A row that has reached its threshold is due: a terrace row is queued for a spare row, a far row's page for a reserve page;
at a page's completion its entry names the reserve's physical page, which holds its bytes, and the reserve entry is retired
(R199, R220 to R222). A scrub read that corrects a single wrong bit counts it to its row and logs nothing; a lap's length is
kept, and a lap within its bound logs nothing (R230 to R232). A zero-filled page reads as zero and no longer waits (R200). -/
def Obligations.FarRepairWork : Prop :=
  (∀ (site row : Nat) (s : State), tallyDue (getSite s site).tally row (terThresh s) = true → row ∉ (getSite s site).retireQ →
    ∃ t, exec (.rowRetirement (.terrace site) row) s = .next t ∧ SameMemory s t ∧
      getSite t site = { getSite s site with retireQ := (getSite s site).retireQ ++ [row] }) ∧
  (∀ (site row : Nat) (s : State), row ∈ (getSite s site).retireQ →
    ∃ t, exec (.terraceRowRetire site row) s = .next t ∧ row ∉ (getSite t site).retireQ ∧
      (spareRow s (site, row) = true → (∀ x ∈ (getSite t site).tally, x.row ≠ row) ∧
        (∀ n a, mrd (getSite t n).near a = mrd (getSite s n).near a) ∧ (∀ a, mrd t.far.mem a = mrd s.far.mem a) ∧
        (∀ n a, (n ≠ site ∨ a / 64 ≠ row ∨ unitValid t.far.swInit (getSite t site).terrMarks (a / 8) = true) →
          mrd (getSite t n).terr a = mrd (getSite s n).terr a)) ∧
      (spareRow s (site, row) = false → SameMemory s t ∧ ∀ x ∈ (getSite t site).tally, x.row = row → x.frozen = true)) ∧
  (∀ (p row a : Nat) (s : State), tallyDue (getPortF s p).tally row (farThresh s) = true → entOfPpn s (row / 16384) = some a →
    (getPortF s p).retiring = none → (getPortF s p).retireQ = [] → reservePages s p a ≠ [] →
    ∃ t b, exec (.rowRetirement (.far p) row) s = .next t ∧ SameMemory s t ∧ b ∈ reservePages s p a ∧
      (getPortF t p).retiring = some { a := a, b := b }) ∧
  (∀ (p a b : Nat) (s : State), (getPortF s p).retiring = some { a := a, b := b } → (getPortF s p).retireQ = [] →
    Memory.wf s.far.mem = true → a ≠ b → entPpn s a ≠ entPpn s b →
    ∃ t, exec (.pageRetirementComplete p) s = .next (pumpHosts t) ∧ entPpn t a = entPpn s b ∧ entPpn t b = entPpn s a ∧
      (getEnt t b).ret = true ∧ (getPortF t p).retiring = none ∧
      (∀ o, o < 16777216 → mrd t.far.mem (entPpn t a * 16777216 + o) = mrd s.far.mem (entPpn s a * 16777216 + o)) ∧
      (∀ y, y / 16777216 ≠ entPpn s b → mrd t.far.mem y = mrd s.far.mem y)) ∧
  (∀ (fpn : Nat) (s : State) (x : ZeroFill), s.far.fills.find? (fun x => x.fpn = fpn) = some x →
    ∃ u, exec (.zeroFillComplete fpn) s = .next (fillDone u x) ∧ (getEnt u fpn).zpend = false ∧ (getEnt u fpn).zneed = false ∧
      ∀ o, o < 16777216 → mrd u.far.mem (entPpn s fpn * 16777216 + o) = 0) ∧
  (∀ (die site idx bad : Nat) (s : State), gkOn s die = true → site < 800 → siteDie site = die → idx < 6291456 →
    (getSite s site).rfail = false → unitValid s.far.swInit (getSite s site).terrMarks idx = true →
    scrubAt s die false (site % 400 * 6291456 + idx) = true →
    ∃ t, exec (.scrubRead die (.word site idx bad)) s = .next t ∧ SameMemory s t ∧
      sget 0 t.repair.scrubbed (die * 2) = site % 400 * 6291456 + idx + 1 ∧
      (bad = 0 → (getSite t site).tally = (getSite s site).tally) ∧
      (bad = 1 → (getSite t site).tally = (tallyAdd 16 0 (getSite s site).tally (idx / 8)).1 ∧
        t.repair = { s.repair with scrubbed := t.repair.scrubbed })) ∧
  ∀ (die len : Nat) (far : Bool) (s : State), gkOn s die = true → lapTarget s die far ≤ len →
    scrubAt s die far (lapUnits far) = true →
    ∃ t, exec (.lapEnd die far len) s = .next t ∧ SameMemory s t ∧
      sget 0 (if far then t.repair.lapFar else t.repair.lapTer) die = BitVec.ofNat 32 len ∧
      sget 0 t.repair.scrubbed (die * 2 + (if far then 1 else 0)) = 0 ∧
      (len ≤ lapBound s die far → t.repair.log = s.repair.log ∧ t.repair.logFull = s.repair.logFull)

/-! ### Windows and records (R323 to R344) -/

/-- A window takes the records of a sealed segment in the order of SEQ; a segment whose seal does not fit is discarded
whole, its seal completed as BADSEG. NOP and SEGSEAL only complete; an opcode that Table 11-7 does not list completes as
ILLEGAL. A completion is written to the window's ring at CR_TAIL if CR is set or the status is not DONE, with the status
and the record's SEQ (R326 to R328, R332, R333, R341, R342). -/
def Obligations.RecordsAreTakenAndCompleted : Prop :=
  (∀ (w : Nat) (s : State) (r : Rec), RecordRuns 0x01 .both [] w s r → exec (.nop w) s = .next (finRec (takeRec s w r) w r 0 [])) ∧
  (∀ (w : Nat) (s : State) (r : Rec), RecordRuns 0x02 .both [⟨16, 4, ones 4⟩, ⟨20, 4, ones 4⟩] w s r →
    exec (.segseal w) s = .next (finRec (takeRec s w r) w r 0 [])) ∧
  (∀ (w : Nat) (s : State) (r : Rec), curRec s w = some r → recListed (recOp r) = false →
    exec (.nop w) s = .next (finRec (takeRec s w r) w r 2 [])) ∧
  (∀ (w : Nat) (s : State) (r : Rec), curRec s w = some r → (getWin s w).waitRec = none → (getWin s w).replayQ = [] →
    let t := takeRec s w r
    SameMemory s t ∧ (getWin t w).waitRec = some r ∧ (getWin t w).next = (getWin s w).next + 1 ∧
    ((getWin s w).service = false →
      (getPcl t (getWin s w).parcel).recCount = (getPcl s (getWin s w).parcel).recCount + 1)) ∧
  (∀ (w : Nat) (s : State) (r : Rec) (st : Nat) (body : List Byte),
    let x := getWin s w
    let t := finRec s w r st body
    s.pwr.stopping = false → s.pwr.halt = false → x.backlog = [] → ringRoom x = true → st < 256 →
    SameMemory s t ∧ (getWin t w).waitRec = none ∧
    (recCr r = false → st = 0 → t.gate.writes = s.gate.writes) ∧
    (recCr r = true ∨ st ≠ 0 → (getWin t w).crTail = x.crTail + 1 ∧
      ∃ h, t.gate.writes = s.gate.writes ++ [h] ∧ h.port = w / 16 ∧
        h.addr = x.crBase + BitVec.ofNat 64 (64 * (x.crTail.toNat % 2 ^ x.crLog.toNat)) ∧ h.bytes.length = 64 ∧
        field h.bytes 0 1 = 1 ∧ field h.bytes 3 1 = st ∧ field h.bytes 4 4 = (recSeq r).toNat ∧
        h.vector = if recIrq r then some x.vector else none)) ∧
  ∀ (w : Nat) (s : State) (r : Rec),
    let x := getWin s w
    alive s = true → w < 64 → x.active = true → x.seg = none → x.waitRec = none → x.replayQ = [] → x.backlog = [] →
    stepStands s x = false → segOf x 1024 x.next = some r →
    (sealOk x r = true → ∃ t, exec (.segmentExecute w) s = .next t ∧ t = { s with gate := t.gate } ∧
      getWin t w = { x with seg := some (recSeq r) }) ∧
    (sealOk x r = false → ∃ t, exec (.segmentExecute w) s = .next t ∧ SameMemory s t ∧ (getWin t w).badseg = true ∧
      (getWin t w).seg = none ∧ (getWin t w).next = recSeq r + 1 ∧ ∀ e ∈ (getWin t w).buf, e ∈ x.buf ∧
        ∀ i, i ≤ (recSeq r - x.next).toNat → e.1 ≠ (x.next + BitVec.ofNat 32 i).toNat)

/-- LOADP writes the bytes at SRC to near memory at DST of every core of its set. START starts context CTX of every core of
its set at ENTRY with the core's eight arguments in s1 to s8 and every other register zero; when all its contexts have
ended, START_COMPLETION writes the counts. OPERAND stages eight values; MCREG writes one register of every core of its set.
NOP and SEGSEAL only complete. BMARK begins its mark when nothing holds it up; THEODOLITE_TALLY_WRITE clears every
Theodolite of the parcel, with THGEN one higher, where no readout area is set; and once its cores' writes are performed, a
mark of a module that is not paired completes with BMARKS one higher (R14, R69, R164, R173, R268, R334, R335, R338, Table 11-7). -/
def Obligations.CoreRecordsDo : Prop :=
  (∀ (w : Nat) (s : State) (r : Rec), RecordRuns 0x01 .both [] w s r →
    ∃ t, exec (.nop w) s = .next (finRec t w r 0 []) ∧ SameMemory s t) ∧
  (∀ (w : Nat) (s : State) (r : Rec), RecordRuns 0x02 .both [⟨16, 4, ones 4⟩, ⟨20, 4, ones 4⟩] w s r →
    ∃ t, exec (.segseal w) s = .next (finRec t w r 0 []) ∧ SameMemory s t) ∧
  (∀ (w : Nat) (s : State) (r : Rec),
    let p := (getWin s w).parcel
    RecordRuns 0x12 .work [⟨16, 1, 1⟩] w s r →
    ((getPcl s p).mark.phase = .none → (getPcl s p).st ≠ .stopped → launching s p = false → quiescent s p = true →
      ∃ t, exec (.bmark w) s = .next t ∧ (getWin t w).waitRec = some r ∧ (getPcl t p).mark.phase = .readout) ∧
    ((getPcl s p).mark.phase = .digests → ((pclLive s p).any fun c => writeFlying s c) = false → s.twin.st = .solo →
      waitersOf s 0x12 p = [(w, r)] →
      ∃ t, exec (.bmark w) s = .next t ∧ (getWin t w).waitRec = none ∧ (getPcl t p).bmarks = (getPcl s p).bmarks + 1)) ∧
  (∀ (p : Nat) (s : State), p < 8 → alive s = true → (getPcl s p).mark.phase = .readout → (getPcl s p).stop = .none →
    tallyHeld s p = false → (getPcl s p).thArea = ~~~0 →
    ∃ t, exec (.theodoliteTallyWrite p) s = .next t ∧ (getPcl t p).mark.phase = .digests ∧
      (getPcl t p).thgen = (getPcl s p).thgen + 1 ∧ ∀ c ∈ pclLive s p, (getCore t c).theo = []) ∧
  (∀ (w : Nat) (s : State) (r : Rec) (bs : List Byte),
    let p := (getWin s w).parcel
    let cs := coreSet s p (field r 16 4) (field r 20 4)
    RecordRuns 0x10 .work (setFields ++ [⟨24, 8, ones 8⟩, ⟨32, 4, ones 4⟩, ⟨36, 4, ones 4⟩]) w s r → loadpOk r = true →
    (getPcl s p).st ≠ .stopped → setRefusal s p (field r 16 4) (field r 20 4) = none → reachable s p cs = true →
    farRead s p (field r 24 8) (field r 36 4) = .ok bs →
    ∃ t, exec (.loadp w) s = .next (finRec t w r 0 []) ∧
      (∀ n a, mrd (getSite t n).near a =
        if (cs.any fun c => csite s c = n) = true ∧ field r 32 4 ≤ a ∧ a < field r 32 4 + bs.length
        then bs.getD (a - field r 32 4) 0 else mrd (getSite s n).near a) ∧
      (∀ n a, mrd (getSite t n).terr a = mrd (getSite s n).terr a) ∧ t.far = s.far) ∧
  (∀ (w : Nat) (s : State) (r : Rec) (bs : Nat → List Byte),
    let p := (getWin s w).parcel
    let cs := coreSet s p (field r 16 4) (field r 20 4)
    let k := field r 24 1
    RecordRuns 0x11 .work (setFields ++ [⟨24, 1, 3⟩, ⟨25, 1, 3⟩, ⟨28, 4, 0x1FFFFF⟩, ⟨32, 8, ones 8⟩, ⟨40, 4, ones 4⟩]) w s r →
    Placed s → startOk r = true → (getPcl s p).st ≠ .stopped → setRefusal s p (field r 16 4) (field r 20 4) = none →
    cs ≠ [] → reachable s p cs = true → (∀ c ∈ cs, (getCtx s c k).st = .idle ∧ (getCtx s c k).resetting = false ∧ (getCore s c).resetting = false) →
    (∀ i, i < cs.length → farRead s p (argAddr r i) 64 = .ok (bs i)) →
    ∃ t, exec (.start w) s = .next t ∧ SameMemory s t ∧ (getWin t w).waitRec = none ∧
      ∀ i c, cs[i]? = some c →
        let y := getCtx t c k
        y.st = .ready ∧ y.pc = BitVec.ofNat 64 (field r 28 4) ∧ y.aregs = [] ∧ y.startedBy = some (w, recSeq r) ∧
        ∀ q : BitVec 5, y.s q = if 1 ≤ q.toNat ∧ q.toNat ≤ 8 then BitVec.ofNat 64 (field (bs i) (8 * (q.toNat - 1)) 8) else 0) ∧
  (∀ (w : Nat) (s : State) (g : StartGroup),
    let u := noteEnds s w
    let x := getWin u w
    alive s = true → w < 64 → x.groups.find? (fun g => g.members.all fun m => m.2.2.isSome) = some g →
    x.backlog = [] → ringRoom x = true →
    ∃ t h, exec (.startCompletion w) s = .next t ∧ SameMemory s t ∧ (getWin t w).groups = x.groups.erase g ∧
      t.gate.writes = s.gate.writes ++ [h] ∧ field h.bytes 0 1 = 1 ∧ field h.bytes 3 1 = 0 ∧
      field h.bytes 4 4 = g.seqNo.toNat ∧ field h.bytes 16 4 = g.members.length % 2 ^ 32 ∧
      field h.bytes 20 4 = g.nonzero.length % 2 ^ 32 ∧ field h.bytes 24 4 = g.trapped % 2 ^ 32) ∧
  (∀ (w : Nat) (s : State) (r : Rec),
    let p := (getWin s w).parcel
    RecordRuns 0x13 .work [⟨16, 1, 0x3F⟩, ⟨17, 1, 1⟩, ⟨20, 32, ones 32⟩] w s r →
    ∃ t, exec (.operand w) s = .next (finRec t w r 0 []) ∧ SameMemory s t ∧
      ∀ key, stagedVal t p key =
        match key with
        | .operand set idx => if set = field r 16 1 ∧ idx / 8 = field r 17 1 then some (field r (20 + 4 * (idx % 8)) 4) else stagedVal s p key
        | _ => stagedVal s p key) ∧
  ∀ (w : Nat) (s : State) (r : Rec),
    let p := (getWin s w).parcel
    let off := field r 24 4
    let cs := coreSet s p (field r 16 4) (field r 20 4)
    RecordRuns 0x14 .work (setFields ++ [⟨24, 4, ones 4⟩, ⟨28, 4, ones 4⟩]) w s r → 0x800 ≤ off → off ≤ 0x840 → off % 4 = 0 →
    (getPcl s p).st ≠ .stopped → setRefusal s p (field r 16 4) (field r 20 4) = none → reachable s p cs = true →
    ∃ t, exec (.mcreg w) s = .next (finRec t w r 0 []) ∧ SameMemory s t ∧
      ∀ n, getSite t n = if (cs.any fun c => csite s c = n) = true then setMcReg (getSite s n) off (BitVec.ofNat 32 (field r 28 4))
        else getSite s n

/-! ### Marks, step ends and replays (R278 to R284, R338, R339) -/

/-- A boundary mark that asks for quiescence waits for it, then its readout is delivered and every Theodolite of the parcel
cleared with THGEN one higher; then NFLAGS and the digests are zeroed, and a module that is not paired completes it:
BMARKS is one higher and a new step begins. A step that ends without its mark leaves every context IDLE;
so does a replay, which executes the step's records again from the shadow copy of the beacons (R57, R170, R173, R271, R278
to R284, R338 to R340). -/
def Obligations.MarksEndSteps : Prop :=
  (∀ (w : Nat) (s : State) (r : Rec),
    let p := (getWin s w).parcel
    RecordRuns 0x12 .work [⟨16, 1, 1⟩] w s r → (getPcl s p).mark.phase = .none → (getPcl s p).st ≠ .stopped →
    launching s p = false → (bit (field r 16 1) 0 = true → quiescent s p = true) →
    ∃ t, exec (.bmark w) s = .next t ∧ (getWin t w).waitRec = some r ∧ (getPcl t p).mark.phase = .readout ∧
      (getPcl t p).mark.quiet = quiescent s p ∧ (getPcl t p).bmarks = (getPcl s p).bmarks ∧
      ∀ e ∈ (getPcl t p).staged, e.1 = .beds) ∧
  (∀ (p : Nat) (s : State),
    let x := getPcl s p
    p < 8 → x.mark.phase = .readout → alive s = true → x.stop = .none → tallyHeld s p = false →
    (x.thArea = ~~~0 → ∃ t, exec (.theodoliteTallyWrite p) s = .next t ∧ SameMemory s t ∧
      (getPcl t p).readout = (touchedTags (tallySums s p)).map (fun g => (thEntry (tallySums s p) g).1) ∧
      (getPcl t p).thHeld = x.thgen ∧ (getPcl t p).thgen = x.thgen + 1 ∧ (getPcl t p).mark.phase = .digests ∧
      (∀ c ∈ pclLive s p, (getCore t c).theo = [])) ∧
    (∀ c u, tallyCore s p = some c →
      writeEntries x p c (((touchedTags (tallySums s p)).map fun g => (thEntry (tallySums s p) g).1).zipIdx) (.ok s) = .ok u →
      ∃ t, exec (.theodoliteTallyWrite p) s = .next t ∧ t.far = u.far)) ∧
  (∀ (w : Nat) (s : State) (r : Rec),
    let p := (getWin s w).parcel
    RecordRuns 0x12 .work [⟨16, 1, 1⟩] w s r → (getPcl s p).mark.phase = .digests → p < 8 →
    ((pclLive s p).any fun c => writeFlying s c) = false → s.twin.st ≠ .paired →
    ∃ t, exec (.bmark w) s = .next t ∧ (getPcl t p).bmarks = (getPcl s p).bmarks + 1 ∧ (getPcl t p).mark = {} ∧
      (getPcl t p).stepRecs = [] ∧ (getPcl t p).csd = (0, 0, 0, 0) ∧ (getPcl t p).recCount = 0 ∧ (getWin t w).waitRec = none ∧
      ∀ c ∈ pclLive s p, digestOf t c = (0, 0, 0, 0) ∧ ∀ k, k < 4 → (getCtx t c k).nflags = 0) ∧
  (∀ (p : Nat) (s : State), p < 8 → alive s = true → (getPcl s p).st = .active → fencingOf s p = false →
    ((pclLive s p).any fun c => storesFlying s c) = false →
    (((getPcl s p).stop = .checkpoint → ∃ t, exec (.stepEndWithoutMark p .checkpoint) s = .next t ∧ (getPcl t p).stop = .none ∧
      (getPcl t p).mark = {} ∧ (getPcl t p).stepRecs = [] ∧ ∀ c ∈ pclLive s p, ∀ k, k < 4 → (getCtx t c k).st = .idle) ∧
    ((getPcl s p).stop = .placement → ∃ t, exec (.stepEndWithoutMark p .placement) s = .next t ∧ (getPcl t p).stop = .none ∧
      (getPcl t p).mark = {} ∧ (getPcl t p).stepRecs = [] ∧ ∀ c ∈ pclLive s p, ∀ k, k < 4 → (getCtx t c k).st = .idle) ∧
    ((getPcl s p).stop = .replay → replayable (getPcl s p) = true → swf 0 s.mesh.shadow = true →
      ∃ t, exec (.stepReplay p) s = .next t ∧ (getPcl t p).stop = .none ∧
        (getPcl t p).stepReplays = (getPcl s p).stepReplays + 1 ∧ (getPcl t p).replays = (getPcl s p).replays + 1 ∧
        (∀ c ∈ pclLive s p, digestOf t c = (0, 0, 0, 0) ∧ (getCore t c).cairn.depth = 0 ∧
          ∀ k, k < 4 → (getCtx t c k).st = .idle) ∧
        (∀ b, beaconOwned s p b = true → beaconVal t b = sget 0 s.mesh.shadow b) ∧
        ∀ v, workWin s p = some v → (getWin t v).replayQ = ((getWin s v).rewind (getPcl s p).stepRecs).replayQ)))

/-! ### Page records (R200 to R210, R336, R343) -/

/-- MAP gives each page of its range to the parcel with the rights named, UNMAP takes each out of use and CLEAN clears DIRTY
of each. SEAL enters a range of owned pages in the seal
table, UNSEAL takes an entry out or refuses a range that is not there, FAULTABORT gives up a faulting page and traps the
context it holds with 0x03, and RWACK takes the page's refused writes off the list (R200, R201, R204, R209, R210, R336, R343). -/
def Obligations.PageRecordsDo : Prop :=
  ∀ (w : Nat) (s : State) (r : Rec),
    let p := (getWin s w).parcel
    let first := field r 16 4
    let n := field r 20 4
    let inR (f : Nat) : Prop := first ≤ f ∧ f < first + n
    (RecordRuns 0x20 .both (pageFields ++ [⟨24, 1, 0xF⟩]) w s r → n ≠ 0 → (getWin s w).pagesDone = 0 → p < 8 →
      (∀ f, inR f → f < 184320 ∧ twinReserve s f = false ∧ (getEnt s f).zpend = false ∧ (getEnt s f).zneed = false ∧
        (getEnt s f).ret = false ∧ (getPortF s (fpnPort f)).retiring.map (·.b) ≠ some f ∧
        ((getEnt s f).v = true → (getEnt s f).owner.toNat = p) ∧
        ((getEnt s f).lov = true → (getEnt s f).lastown.toNat = p) ∧ sealedByOther s p f = false ∧
        ∀ g ∈ s.far.faults, ¬(g.parcel = p ∧ g.fpn = f)) →
      ∃ t, exec (.mapPages w) s = .next (finRec t w r 0 (pageBody 0 0 n)) ∧ SameMemory s t ∧
        (∀ f, inR f → getEnt t f = { getEnt s f with
          v := true, owner := BitVec.ofNat 3 p, lastown := BitVec.ofNat 3 p, lov := true, dirty := false,
          cr := bit (field r 24 1) 0, cw := bit (field r 24 1) 1, hr := bit (field r 24 1) 2, hw := bit (field r 24 1) 3 }) ∧
        ∀ f, ¬inR f → getEnt t f = getEnt s f) ∧
    (RecordRuns 0x21 .both pageFields w s r → n ≠ 0 → (getWin s w).pagesDone = 0 →
      (∀ f, inR f → f < 184320 ∧ pageOwned s p f = true ∧ sealedBy s p f = false ∧ heldLines s f = []) →
      ∃ t, exec (.unmapPages w) s = .next (finRec t w r 0 (pageBody 0 0 n)) ∧ SameMemory s t ∧
        (∀ f, inR f → getEnt t f = { getEnt s f with v := false, cr := false, cw := false, hr := false, hw := false }) ∧
        ∀ f, ¬inR f → getEnt t f = getEnt s f) ∧
    (RecordRuns 0x22 .both pageFields w s r → n ≠ 0 → (getWin s w).pagesDone = 0 →
      (∀ f, inR f → f < 184320 ∧ pageOwned s p f = true) →
      ∃ t, exec (.cleanPages w) s = .next (finRec t w r 0 (pageBody 0 0 n)) ∧ SameMemory s t ∧
        (∀ f, inR f → getEnt t f = { getEnt s f with dirty := false }) ∧ ∀ f, ¬inR f → getEnt t f = getEnt s f) ∧
    (RecordRuns 0x23 .work pageFields w s r → n ≠ 0 → sealRefusal s p first n = none →
      (getPort s (getPcl s p).port).ingress = [] → (∀ f, inR f → heldLines s f = []) →
      ∃ t, exec (.sealRange w) s = .next (finRec t w r 0 []) ∧ t.far = { s.far with seals := t.far.seals } ∧
        sealsOf t p = sealsOf s p ++ [(first, n)] ∧ ∀ q, q ≠ p → sealsOf t q = sealsOf s q) ∧
    (RecordRuns 0x24 .work pageFields w s r → n ≠ 0 → (first, n) ∈ sealsOf s p →
      ∃ t, exec (.unsealRange w) s = .next (finRec t w r 0 []) ∧ t.far = { s.far with seals := t.far.seals } ∧
        sealsOf t p = (sealsOf s p).erase (first, n) ∧ ∀ q, q ≠ p → sealsOf t q = sealsOf s q) ∧
    (RecordRuns 0x24 .work pageFields w s r → n ≠ 0 → (first, n) ∉ sealsOf s p →
      exec (.unsealRange w) s = .next (finRec (takeRec s w r) w r 1 (leBytes 4 7))) ∧
    (∀ f q, RecordRuns 0x25 .service [⟨16, 4, ones 4⟩] w s r →
      s.far.faults.find? (fun g => g.parcel = p && g.fpn = first) = some f → f.held = [q] → q.requester = 0 → q.write = false →
      (getCtx s q.core q.index).st = .held →
      ∃ t, exec (.faultabort w) s = .next (finRec t w r 0 []) ∧
        (getCtx t q.core q.index).st = .trapped ∧ (getCtx t q.core q.index).trapcause = 0x03 ∧
        (getCtx t q.core q.index).trapval = q.addr) ∧
    (RecordRuns 0x26 .both [⟨16, 4, ones 4⟩] w s r → (∃ x ∈ s.far.refusals, x.parcel = p ∧ x.fpn = first ∧ x.recorded = true) →
      ∃ t, exec (.rwack w) s = .next (finRec t w r 0 []) ∧ SameMemory s t ∧
        t.far.refusals = (s.far.refusals.filter fun x => !rwEnds s p first x) ∧
        ∀ x ∈ t.far.refusals, ¬(x.parcel = p ∧ x.fpn = first ∧ x.recorded = true))

/-! ### Pre-emption and resets (R90, R91, R337, R406) -/

/-- PREEMPT stops a context, and once its work is over writes its save area to far memory and leaves it IDLE; RESTORE brings a
context back READY; a save area taken of a context gives back its registers, its PC and its control registers (R90, R91,
R337, Table 3-16). -/
def Obligations.ContextsAreSavedAndRestored : Prop :=
  (∀ (w : Nat) (s : State) (r : Rec),
    let p := (getWin s w).parcel
    let c := field r 16 2
    let k := field r 18 1
    let save := field r 24 8
    let y := getCtx s c k
    (RecordRuns 0x30 .service saveFields w s r → farOpOk save = true → coreRefusal s p c = none → y.resetting = false →
      (getCore s c).resetting = false → y.st ≠ .idle →
      (y.preempting = false → (∀ o e, y.wait ≠ .op o e) → (∀ o e b, y.wait ≠ .desc o e b) →
        (∀ j ∈ (getTiles s c).jobs, j.ctx = k → j.waited = true → j.chunk < tdChunks j.desc) →
        farRefusal s p save (saveBytes y.valloc y.town) false false true = none →
        ∃ t, exec (.preempt w) s = .next t ∧ (getWin t w).waitRec = some r ∧ (getCtx t c k).preempting = true ∧
          (getCtx t c k).pc = y.pc ∧ (getPcl t p).preempted = true) ∧
      (∀ v, (getWin s w).waitRec = some r → y.preempting = true → preemptReady s c k = true →
        farWrite s p save (saveArea s c k) = .ok v →
        exec (.preempt w) s = .next (finRec (endPreempt v p c k save) w r 0 []) ∧
        (getCtx (endPreempt v p c k save) c k).st = .idle ∧ (getCtx (endPreempt v p c k save) c k).preempting = false)) ∧
    (∀ b, RecordRuns 0x31 .both saveFields w s r → farOpOk save = true → (getPcl s p).st ≠ .stopped → coreRefusal s p c = none →
      y.st = .idle → y.resetting = false → restoreRefusal s p c k save (b.take 1024) = none → bit (field b 392 8) 2 = false →
      farRead s p save 1024 = .ok (b.take 1024) →
      farRead s p save (saveBytes (savedValloc (b.take 1024)) (savedTown (b.take 1024))) = .ok b →
      ∃ t, exec (.restoreCtx w) s = .next (finRec (wake t c) w r 0 []) ∧ getCtx t c k = { savedCtx s c b with heldSt := y.heldSt } ∧
        (∀ j, j ≠ k → getCtx t c j = getCtx s c j) ∧ SameMemory s t)) ∧
  ∀ (s u : State) (c k d : Nat), (getCtx s c k).compat = false →
    let y := getCtx s c k
    let z := savedCtx u d (saveArea s c k)
    (∀ r, z.s r = y.s r) ∧ (∀ r : BitVec 5, r.toNat < 16 → z.a r = y.a r) ∧ z.pc = y.pc ∧ z.nflags = y.nflags ∧
    z.tstart = y.tstart ∧ z.valloc = y.valloc ∧ z.mseed = y.mseed ∧ z.trapcause = y.trapcause ∧ z.trappc = y.trappc ∧
    z.trapval = y.trapval ∧ z.town = y.town ∧ z.st = .ready ∧ z.compat = false

/-- A context reset stops its context, and when its stores and tile work are over leaves it IDLE with its registers zero,
NFLAGS and its mask registers kept; a core reset keeps the site's memories and router and resets all else; a parcel
reset closes the parcel's windows and discards its seals and staged settings, and ends once every core is reset. A step that
is ended without its mark, or replayed, leaves every context of the parcel's cores IDLE (R98, R283, R339, R406, R407). -/
def Obligations.ResetsDo : Prop :=
  (∀ (w : Nat) (s : State) (r : Rec), RecordRuns 0x32 .service ctxFields w s r →
    coreRefusal s (getWin s w).parcel (field r 16 2) = none → (getCtx s (field r 16 2) (field r 18 1)).resetting = false →
    ∃ t, exec (.ctxreset w) s = .next t ∧ SameMemory s t ∧ (getWin t w).waitRec = some r ∧
      (getCtx t (field r 16 2) (field r 18 1)).resetting = true ∧ (getCtx t (field r 16 2) (field r 18 1)).wait = .none) ∧
  (∀ (c k : Nat) (s : State), c < 768 → k < 4 → (getCtx s c k).resetting = true → storeFlying s c k = false →
    tileBusy (getCore s c) k = false →
    ∃ t, exec (.contextResetComplete c k) s = .next t ∧ (getCtx t c k).st = .idle ∧ (getCtx t c k).sregs = [] ∧
      (getCtx t c k).aregs = [] ∧ (getCtx t c k).pc = 0 ∧ (getCtx t c k).valloc = 0 ∧ (getCtx t c k).town = 0 ∧
      (getCtx t c k).resetting = false ∧ (getCtx t c k).nflags = (getCtx s c k).nflags ∧
      (getCtx t c k).mseed = (getCtx s c k).mseed ∧ (getCtx t c k).mkeep = (getCtx s c k).mkeep) ∧
  (∀ (n : Nat) (s : State), n < 800 → (getSite s n).resetting = true →
    ∃ t, exec (.coreReset n) s = .next t ∧ SameMemory s t ∧ getSite t n = (getSite s n).coreReset ∧ ∀ m, m ≠ n → getSite t m = getSite s m) ∧
  (∀ (w : Nat) (s : State) (r : Rec),
    let p := (getWin s w).parcel
    RecordRuns 0x33 .service [] w s r → (getPcl s p).st = .active →
    ∃ t, exec (.preset w) s = .next t ∧ SameMemory s t ∧ (getWin t w).waitRec = some r ∧ (getPcl t p).st = .inReset ∧
      (getPcl t p).staged = [] ∧ sealsOf t p = [] ∧ (∀ v, v < 64 → (getWin s v).parcel = p → (getWin s v).active = true → (getWin t v).en = false) ∧
      ∀ c ∈ pclLive s p, (getCore t c).resetting = true) ∧
  (∀ (p : Nat) (s : State), p < 8 → alive s = true → (getPcl s p).st = .active → fencingOf s p = false →
    ((pclLive s p).any fun c => storesFlying s c) = false →
    ((getPcl s p).stop = .checkpoint → ∃ t, exec (.stepEndWithoutMark p .checkpoint) s = .next t ∧ (getPcl t p).stop = .none ∧
      ∀ c ∈ pclLive s p, ∀ k, k < 4 → (getCtx t c k).st = .idle) ∧
    ((getPcl s p).stop = .placement → ∃ t, exec (.stepEndWithoutMark p .placement) s = .next t ∧ (getPcl t p).stop = .none ∧
      ∀ c ∈ pclLive s p, ∀ k, k < 4 → (getCtx t c k).st = .idle) ∧
    ((getPcl s p).stop = .replay → replayable (getPcl s p) = true → ∃ t, exec (.stepReplay p) s = .next t ∧
      (getPcl t p).stop = .none ∧ (getPcl t p).stepReplays = (getPcl s p).stepReplays + 1 ∧
      ∀ c ∈ pclLive s p, ∀ k, k < 4 → (getCtx t c k).st = .idle)) ∧
  ∀ (p : Nat) (s : State), p < 8 → (getPcl s p).st = .inReset → (getPort s (getPcl s p).port).perst = false →
    ((pclLive s p).any fun c => (getCore s c).resetting) = false →
    ∃ t, exec (.parcelResetComplete p) s = .next t ∧ (getPcl t p).st = .active ∧ SameMemory s t ∧
      (∀ b, b < 8192 → beaconOwned s p b = true → beaconVal t b = 0) ∧
      ∀ c ∈ pclLive s p, digestOf t c = (0, 0, 0, 0) ∧ (getCore t c).theo = []

/-! ### Errors that the module handles (R26 to R28, R228, R229, R237, R301, R364) -/

/-- An uncorrectable error acts by the use of its value: a fetch traps 0x04 with the row as TRAPVAL, a copy halts its
channel, data for arithmetic stops the parcel's step, a host's read is answered with poison, a scrub stops nothing, and
the handling path, or a use by a core of a twinned module, stops the module. A core to be fenced moves to its bed's idle
site, or is absent; a fail-stop that was decided comes about once and leaves the parcels' states; a return is noted (R26 to R28, R228, R229, R237, R301, R364). -/
def Obligations.ErrorsAreHandled : Prop :=
  (∀ (u : UncErr) (s : State), alive s = true → usePossible s u.use = true → uncClass u = true →
    match u.use with
    | .fetch c k =>
      (twinned s = false → ∃ t, exec (.uncorrectableError u) s = .next t ∧ (getCtx t c k).st = .trapped ∧
        (getCtx t c k).trapcause = 0x04 ∧ (getCtx t c k).trappc = (getCtx s c k).pc ∧
        (getCtx t c k).trapval = BitVec.ofNat 64 (u.addr / 64 * 64)) ∧
      (twinned s = true → ∃ t, exec (.uncorrectableError u) s = .next t ∧ t.pwr.failStopped = true)
    | .copy c ch =>
      (twinned s = false → ∃ t, exec (.uncorrectableError u) s = .next (noteOwn (wake t c) (ownOf s c u.cls u.locKind u.locNum)) ∧
        (getChan t c ch).st = .haltedErr) ∧
      (twinned s = true → ∃ t, exec (.uncorrectableError u) s = .next t ∧ t.pwr.failStopped = true)
    | .arith c =>
      (twinned s = false → ∃ t, exec (.uncorrectableError u) s = .next t ∧ (getPcl t (coreParcelNum s c)).stop ≠ .none) ∧
      (twinned s = true → ∃ t, exec (.uncorrectableError u) s = .next t ∧ t.pwr.failStopped = true)
    | .updateArith c =>
      (twinned s = false → ∃ t, exec (.uncorrectableError u) s = .next t ∧
        ((getPcl t (coreParcelNum s c)).stop = .checkpoint ∨ (getPcl t (coreParcelNum s c)).stop = .placement)) ∧
      (twinned s = true → ∃ t, exec (.uncorrectableError u) s = .next t ∧ t.pwr.failStopped = true)
    | .hostRead k => ∃ t, exec (.uncorrectableError u) s = .next t ∧ SameMemory s t ∧
        t.outbox = s.outbox ++ [.memData k (List.replicate 64 0xFF) true] ∧ t.pwr.failStopped = s.pwr.failStopped
    | .scrub => ∃ t, exec (.uncorrectableError u) s = .next t ∧ SameMemory s t ∧ t.pwr.failStopped = s.pwr.failStopped ∧
        t.gate = s.gate ∧ t.outbox = s.outbox
    | .handlingPath => ∃ t, exec (.uncorrectableError u) s = .next t ∧ t.pwr.failStopped = true) ∧
  (∀ (c : Nat) (s : State), alive s = true → c ∈ s.place.fencing → coreAbsent s c = false →
    let idle := bedSite (coreBed c) (factoryIdle s (coreBed c))
    let ok := !((getSite s (csite s c)).rfail || (getSite s (tsite s c)).rfail) && spareFree s (coreBed c)
    ∃ t, exec (.fenceAndRelocate c) s = .next t ∧ SameMemory s t ∧ c ∉ t.place.fencing ∧ (∀ d, tsite t d = tsite s d) ∧
      (∀ d, d ≠ c → csite t d = csite s d ∧ coreAbsent t d = coreAbsent s d) ∧
      (ok = true → csite t c = idle ∧ sget false t.place.used (coreBed c) = true ∧ coreAbsent t c = false) ∧
      (ok = false → csite t c = csite s c ∧ coreAbsent t c = true)) ∧
  (∀ (cls : Nat) (s : State), s.pwr.failCls = some cls →
    ∃ t, exec (.moduleFailStop cls) s = .next t ∧ SameMemory s t ∧ t.pwr.failCls = none ∧
      ∀ p, p < 8 → (getPcl t p).st = (getPcl s p).st) ∧
  ∀ (c : Nat) (s : State), dictReady s = true → NoWriteOpen s [0x9002] → c < 768 → sget 0 s.place.reloc c ≠ 0 →
    bedsBusy s (BitVec.ofNat 32 (2 ^ coreBed c)) = false →
    ∃ t, exec (.coreReturn c) s = .next t ∧ t = { s with place := { s.place with returns := nins s.place.returns c } }

/-! ### Host ports (R192, R210, R211, R311 to R317, R325, R344, R410, R437) -/

/-- Decoder 0: a write of a page that its parcel owns with HW, outside its sealed ranges, is stored and a read of one with HR
answered with the bytes; one that meets a page whose retirement runs waits, a line written with poison (log 99) is not valid; a
refused write stores nothing, a refused read is answered with all ones, poisoned, and before
bring-up completes so is every read (R192, R198, R199, R210, R211, R227, R311, R313, R314, R330, R410). -/
def Obligations.HostAccessesFarMemory : Prop :=
  ∀ (k off : Nat) (s : State), portServes s k = true → decoderOn s k 0 = true → (getPort s k).ingress = [] →
    let fa := hdmFa off
    let p := hdmParcel off
    (∀ data, hdmOk off data.length = true →
      (portClosed s = true → ∃ t, exec (.hostMemWrite k off data) s = .next t ∧ SameMemory s t ∧ t.outbox = s.outbox ++ [.memDone k]) ∧
      (∀ reason, portClosed s = false → hostRefusal s k p fa data.length true = some reason →
        ∃ t, exec (.hostMemWrite k off data) s = .next t ∧ SameMemory s t ∧ t.outbox = s.outbox ++ [.memDone k]) ∧
      (portClosed s = false → hostRefusal s k p fa data.length true = none → pagePaused s fa = true →
        ∃ t x, exec (.hostMemWrite k off data) s = .next t ∧ SameMemory s t ∧ t.outbox = s.outbox ∧ (getPort t k).ingress = [x] ∧
          x.write = true ∧ x.off = off ∧ x.data = data) ∧
      (portClosed s = false → hostRefusal s k p fa data.length true = none → pagePaused s fa = false → filterVictim s fa = none →
        (∃ t, exec (.hostMemWrite k (2 ^ 45 + off) data) s = .next t ∧ t.outbox = s.outbox ++ [.memDone k] ∧
          unitValid t.far.swInit t.far.marks (farLine s fa) = false) ∧
        ∃ t, exec (.hostMemWrite k off data) s = .next t ∧ t.outbox = s.outbox ++ [.memDone k] ∧ t.sites = s.sites ∧
          (∀ i, i < data.length → mrd t.far.mem (farByte s (fa + i)) = data.getD i 0) ∧
          (∀ a, (∀ i, i < data.length → a ≠ farByte s (fa + i)) → mrd t.far.mem a = mrd s.far.mem a) ∧
          getEnt t (fa / 2 ^ 24) = { getEnt s (fa / 2 ^ 24) with dirty := true })) ∧
    ∀ len, hdmOk off len = true →
      (portClosed s = true → ∃ t, exec (.hostMemRead k off len) s = .next t ∧ SameMemory s t ∧
        t.outbox = s.outbox ++ [.memData k (List.replicate len 0xFF) true]) ∧
      (∀ reason, portClosed s = false → hostRefusal s k p fa len false = some reason →
        ∃ t, exec (.hostMemRead k off len) s = .next t ∧ SameMemory s t ∧
          t.outbox = s.outbox ++ [.memData k (List.replicate len 0xFF) true]) ∧
      (portClosed s = false → hostRefusal s k p fa len false = none → pagePaused s fa = false → filterVictim s fa = none →
        ((unitsOf 64 fa len).all fun l => unitValid s.far.swInit s.far.marks (farLine s (l * 64))) = true →
        ∃ t, exec (.hostMemRead k off len) s = .next t ∧ SameMemory s t ∧
          t.outbox = s.outbox ++ [.memData k ((List.range len).map fun i => mrd s.far.mem (farByte s (fa + i))) false])

/-- Decoder 1: a record of 64 bytes with the window's GEN, at the place of its SEQ, within 1,024 of EXEC and not yet sealed, is
buffered under its SEQ; with another GEN it sets GENMIS and any other write is dropped and counted; a read answers all ones.
A segment that has arrived whole, with a seal that fits it, begins to execute. A record write observed is in host memory, and
its interrupt follows (R313, R314, R325 to R329, R344). -/
def Obligations.HostWritesRecords : Prop :=
  (∀ (k off : Nat) (data : List Byte) (s : State), portServes s k = true → decoderOn s k 1 = true → portClosed s = false →
    (getPort s k).ingress = [] → off < 2 ^ 24 → data ≠ [] → off % 64 + data.length ≤ 64 →
    let w := 16 * k + off / 2 ^ 20
    let x := getWin s w
    let q := recSeq data
    let fits := x.active && data.length = 64 && off % 2 ^ 20 = 64 * (q.toNat % 16384) && decide (x.ahead q < 1024)
    ∃ t, exec (.windowRecordWrite k off data) s = .next t ∧ SameMemory s t ∧ t.outbox = s.outbox ++ [.memDone k] ∧
      (fits = true → recGen data = x.gen → (x.buf.any fun e => e.1 = q.toNat) = false →
        getWin t w = { x with buf := sput x.buf q.toNat data }) ∧
      (fits = true → recGen data ≠ x.gen → getWin t w = { x with genmis := true }) ∧
      (fits = false → getWin t w = { x with drop := true, drops := x.drops + 1 })) ∧
  (∀ (k off len : Nat) (s : State), portServes s k = true → decoderOn s k 1 = true → portClosed s = false → off < 2 ^ 28 → len ≠ 0 →
    off % 64 + len ≤ 64 → ∃ t, exec (.decoder1Read k off len) s = .next t ∧ SameMemory s t ∧
      t.outbox = s.outbox ++ [.memData k (List.replicate len 0xFF) false] ∧ t.gate = s.gate) ∧
  (∀ (w : Nat) (s : State) (r : Rec), alive s = true → w < 64 → (getWin s w).active = true → (getWin s w).seg = none →
    (getWin s w).waitRec = none → (getWin s w).replayQ = [] → (getWin s w).backlog = [] → stepStands s (getWin s w) = false →
    segOf (getWin s w) 1024 (getWin s w).next = some r → sealOk (getWin s w) r = true →
    ∃ t, exec (.segmentExecute w) s = .next t ∧ SameMemory s t ∧ (getWin t w).seg = some (recSeq r)) ∧
  ∀ (k : Nat) (s : State) (h : HostWrite), portServes s k = true → s.gate.writes.find? (fun x => x.port = k) = some h → h.bytes.length = 64 →
    ∃ t, exec (.recordGloballyObserved k) s = .next t ∧ SameMemory s t ∧ t.gate.writes = s.gate.writes.erase h ∧
      t.gate = { s.gate with writes := t.gate.writes, hostMem := t.gate.hostMem } ∧
      (∀ i, i < 64 → sget 0 t.gate.hostMem (k * 2 ^ 64 + (h.addr + BitVec.ofNat 64 i).toNat) = h.bytes.getD i 0) ∧
      t.outbox = s.outbox ++ (match h.vector with
        | none => []
        | some v => [.msix k v])

/-- A snoop's answer ends the snoop, with its write-back stored if R211 lets it pass, and host accesses that waited go on; without an answer in 1 ms
the line's later write-back is refused. A host's own snoop finds nothing held. A link event or PERST_N closes the port's
windows, discards its record writes and resets its parcels; configuration requests before bring-up completes are retried,
and one to a function in D3hot changes nothing but that port (whether it returns it to D0 is the model's free value, log 101),
and a host commits its decoders after it (R311, R313, R315 to R317, R410, R437). -/
def Obligations.HostPortEvents : Prop :=
  (∀ (k line : Nat) (data : List Byte) (s : State) (x : SnoopLine), portServes s k = true → data.length = 0 ∨ data.length = 64 →
    (snoopOf s k line false = some x →
      exec (.bisnpResponse k line data) s = .next (pumpHosts (writeBack (answered s x) k (lineFa s line) data)) ∧
      x ∉ (getPortF (answered s x) (line / 2 ^ 18 / 3840)).snoops ∧
      (s.pwr.halt = false → ∃ t, exec (.snoopTimeout k line) s = .next (pumpHosts t) ∧ SameMemory s t ∧ t.gate = s.gate ∧
        { x with snooped := false, lapsed := true } ∈ (getPortF t (line / 2 ^ 18 / 3840)).snoops)) ∧
    (snoopOf s k line false = none → snoopOf s k line true = some x →
      ∃ t, exec (.bisnpResponse k line data) s = .next t ∧ SameMemory s t)) ∧
  (∀ (k : Nat) (s : State), portServes s k = true →
    exec (.h2dSnoop k) s = .next (send s (.snoopRsp k)) ∧
    (s.pwr.bringDone = false → exec (.hostConfigRequest k) s = .next (send s (.configRetry k))) ∧
    (s.pwr.bringDone = true → (getPort s k).d3hot = true → ∃ t, exec (.hostConfigRequest k) s = .next t ∧ SameMemory s t ∧
      t.outbox = s.outbox ∧ ∀ j, j ≠ k → getPort t j = getPort s j) ∧
    (∀ d base, s.pwr.bringDone = true → d < 2 → ∃ t, exec (.hdmDecoderCommit k d base) s = .next t ∧ SameMemory s t ∧
      decoderOn t k d = true ∧ sget 0 (getPort t k).hdm d = base + 1 ∧ ∀ j, j ≠ k → getPort t j = getPort s j) ∧
    ∀ ev, ∃ t, exec (.portLinkEvent k ev) s = .next t ∧ SameMemory s t ∧
      (∀ h ∈ t.gate.writes, h.port ≠ k) ∧ (∀ i, i < 16 → (getWin t (16 * k + i)).en = false) ∧
      (∀ p, p < 8 → (getPcl s p).port = k → (getPcl s p).st = .active → (getPcl t p).st = .inReset) ∧
      (getPort t k).ingress = [] ∧ (ev = .linkDown → (getPort t k).linkUp = false) ∧ (ev = .d3hot → (getPort t k).d3hot = true)) ∧
  (∀ (k : Nat) (s : State), s.pwr.lodgeUp = true → k < 4 → Pin.perstN k ∉ s.pwr.lockouts →
    ((getPort s k).perst = false → ∃ t, exec (.perstN k true) s = .next t ∧ SameMemory s t ∧ (getPort t k).perst = true ∧
      (getPort t k).linkUp = false ∧ ∀ i, i < 16 → (getWin t (16 * k + i)).en = false) ∧
    ((getPort s k).perst = true → ∃ t, exec (.perstN k false) s = .next t ∧ SameMemory s t ∧ getPort t k = { getPort s k with perst := false })) ∧
  ∀ (k speed width : Nat) (s : State), s.pwr.lodgeUp = true → s.pwr.halt = false → k < 4 → (getPort s k).perst = false →
    6 ≤ s.pwr.bringStep.toNat → speed ∈ [16, 32, 64] → width = 8 →
    ∃ t, exec (.cxlLinkUp k speed width) s = .next t ∧ SameMemory s t ∧ portServes t k = true ∧
      getPort t k = { getPort s k with linkUp := true, d3hot := false, speed := BitVec.ofNat 8 speed, width := 8 }

/-! ### Registers (R323, R366 to R386) -/

/-- A register written by a source that can reach registers: a misaligned, reserved or filtered write changes no register; a write
to a guarded register of a block that is locked for the source is ignored and sets LOCKV; UNLOCK opens the block to that
source until its next write to the block; a host reaches only what is its own (R366, R367, R370, R372, R373). -/
def Obligations.RegisterWritesAreChecked : Prop :=
  ∀ (src : Src) (s : State), srcOk s src = true →
    (∀ addr v, addr < 2 ^ 25 → addr % 4 ≠ 0 → exec (.registerWrite src addr v) s = .next s) ∧
    (∀ addr v, addr < 2 ^ 25 → addr % 4 = 0 → filtered s src (addr / 0x4000) true = true →
      exec (.registerWrite src addr v) s = .next (countFilt s src)) ∧
    (∀ addr v k, addr < 2 ^ 25 → addr % 4 = 0 → filtered s src (addr / 0x4000) true = false → blkOf (addr / 0x4000) = some k →
      let b := addr / 0x4000
      let off := addr % 0x1000
      (hasReg k off = false → exec (.registerWrite src addr v) s = .next s) ∧
      (hasReg k off = true → guardedReg k off = true → unlockedFor s b src = false →
        ∃ t, exec (.registerWrite src addr v) s = .next t ∧ t = { s with regs := { s.regs with
          unlocked := s.regs.unlocked.filter fun e => e ≠ (b, src), lockv := sset false s.regs.lockv b true } }) ∧
      (hasReg k off = true → off ≠ 0xF0C → (guardedReg k off = true → unlockedFor s b src = true) →
        ∃ t, exec (.registerWrite src addr v) s = .next t ∧ SameMemory s t ∧ unlockedFor t b src = false)) ∧
    (∀ b v, (blkOf b).isSome = true → filtered s src b true = false →
      (∃ t, exec (.unlock src b 0x5AFE) s = .next t ∧ unlockedFor t b src = true ∧ t = { s with regs := t.regs } ∧
        ∀ c q, (c, q) ≠ (b, src) → unlockedFor t c q = unlockedFor s c q) ∧
      (v ≠ 0x5AFE → ∃ t, exec (.unlock src b v) s = .next t ∧ unlockedFor t b src = false))

/-- The rows that write registers of their own: EN of a window opens it, with BINDERR where its parcel is not bound to its
port, and closes it; CR_HEAD takes its value; SNAP captures every counter, CCLR clears them, CAD_SEL latches an entry, EN of
a Groundskeeper block runs it; a counter's low word read latches its high word; the configuration check leaves a block
whose CRC fits as it is (R323, R329, R341, R376 to R380, R385, R386). -/
def Obligations.RegisterRowsDo : Prop :=
  (∀ (src : Src) (w : Nat) (v : W32) (s : State), srcOk s src = true → w < 64 → filtered s src (winBlock w) true = false →
    ((getWin s w).en = false → v.getLsbD 31 = true → sget false s.regs.chk (winBlock w) = false →
      ∃ t, exec (.windowEnable src w 0 v) s = .next t ∧ SameMemory s t ∧ (getWin t w).en = true ∧
        (getWin t w).parcel = (v.extractLsb' 17 3).toNat ∧
        ((getPcl s (v.extractLsb' 17 3).toNat).port ≠ w / 16 → (getWin t w).binderr = true) ∧
        ∀ x, x ≠ w → getWin t x = getWin s x) ∧
    ((getWin s w).en = true → v.getLsbD 31 = false →
      ∃ t, exec (.windowDisable src w 0 v) s = .next t ∧ SameMemory s t ∧ (getWin t w).en = false ∧ (getWin t w).buf = [] ∧
        (getWin t w).seg = none) ∧
    ((getWin s w).backlog = [] → ∃ t, exec (.crHeadWrite src w 0 v) s = .next t ∧ SameMemory s t ∧
      getWin t w = { getWin s w with crHead := v })) ∧
  (∀ (src : Src) (b : Nat) (k : Blk) (v : W32) (s : State), srcOk s src = true → blkOf b = some k → filtered s src b true = false →
    (v ≠ 0 → v.getLsbD 31 = false → blkRuns s b k = true → k.isCs = false →
      ∃ t, exec (.snap src b v) s = .next t ∧ SameMemory s t ∧ sget 0 t.regs.snapId b = v ∧
        ∀ i, i < (blkCtrs k).length → sget 0 t.regs.hold (b * 64 + i) = (ctrVal s b k i).1) ∧
    (v.getLsbD 1 = true → unlockedFor s b src = true → ∃ t, exec (.cclr src b v) s = .next t ∧ SameMemory s t ∧
      (∀ i, i < 64 → sget 0 t.regs.ctrs (b * 64 + i) = 0) ∧
      ∀ i, i / 64 ≠ b → sget 0 t.regs.ctrs i = sget 0 s.regs.ctrs i) ∧
    (v.getLsbD 9 = true → ∃ t, exec (.scancel src b v) s = .next t ∧ t = { s with regs := t.regs } ∧ t.regs.ctrs = s.regs.ctrs ∧
      unlockedFor t b src = false) ∧
    (domainRuns s (blockDomain b) = true → cfgCrc s k = sget 0 s.regs.cfgref b → exec (.configCheck b) s = .next s)) ∧
  (∀ (src : Src) (addr i : Nat) (k : Blk) (s : State), srcOk s src = true → addr < 2 ^ 25 → addr % 8 = 0 →
    blkOf (addr / 0x4000) = some k → ctrAt k (addr % 0x1000) = some (i, false) → isPhCat k i = false →
    filtered s src (addr / 0x4000) false = false →
    let v := (ctrVal s (addr / 0x4000) k i).1
    ∃ t, exec (.counterLowRead src addr) s = .next t ∧ SameMemory s t ∧ t.outbox = s.outbox ++ [.regRead src (v.extractLsb' 0 32)] ∧
      latchOf t src (addr / 0x4000) i = some (v.extractLsb' 32 32)) ∧
  ∀ (src : Src) (die : Nat) (v : W32) (s : State), srcOk s src = true → die < 2 →
    (filtered s src (cadBlock die) true = false → (cadLatch s src die).1 &&& ~~~0x3FFFF = 0 →
      ∃ t, exec (.cadSel src die v) s = .next t ∧ t = { s with regs := t.regs } ∧ (cadLatch t src die).1 = v &&& 0x3FFFF ∧
        (cadLatch t src die).2 = if (v &&& 0x3FFFF).toNat / 92160 = die then entWord s (v &&& 0x3FFFF).toNat else 0) ∧
    (filtered s src (gkBlock die) true = false → unlockedFor s (gkBlock die) src = true →
      ∃ t, exec (.groundskeeperEnable src die 0 v) s = .next t ∧ t = { s with regs := t.regs } ∧
        sget false t.regs.gkOff die = !v.getLsbD 0)

/-! ### The dictionary (R346 to R365, R381, R382, R388, R389) -/

/-- A request: of the management segment it is answered by an ACK that repeats its TXID, INDEX, SUBINDEX and OFFSET, kept for
its requester; one whose ACK is kept is answered by it with DUP set and not executed again; with others waiting it joins
the queue, and with 32 waiting it is discarded and counted. Of a host window it enters by GO (one of no
request's TYPE is discarded, the model's choice, log 102) and its ACK comes into HW_RSP (R349 to R352, R359, R360). -/
def Obligations.RequestsAreAnswered : Prop :=
  (∀ (src : Nat) (m : List Byte) (s : State), s.pwr.lodgeUp = true → 16 ≤ m.length → m.length ≤ 1040 →
    let row (t : State) : Prop := (mType m = 1 → exec (.cixaRead (.mgmt src) m) s = .next t) ∧
      (mType m = 2 → exec (.cixaWrite (.mgmt src) m) s = .next t) ∧ (mType m = 3 → exec (.cixaReadSeg (.mgmt src) m) s = .next t) ∧
      (mType m = 4 → exec (.cixaWriteSeg (.mgmt src) m) s = .next t)
    (s.dict.queue = [] → ∀ x, s.dict.kept.find? (fun x => x.src = .mgmt src && x.txid = mTxid m) = some x →
      ∃ t, row t ∧ SameMemory s t ∧ t.outbox = s.outbox ++ [.cixa (.mgmt src) (patch x.ack 7 [x.ack.getD 7 0 ||| 8])] ∧
        t = { s with outbox := t.outbox, dict := { s.dict with stats := t.dict.stats } }) ∧
    (s.dict.queue = [] → s.dict.kept.find? (fun x => x.src = .mgmt src && x.txid = mTxid m) = none →
      let a := execMsg (countCixa s 0) (.mgmt src) m
      ∃ t, row t ∧ t.outbox = a.state.outbox ++ [.cixa (.mgmt src) (a.ack m)] ∧
        field (a.ack m) 1 1 = 6 ∧ field (a.ack m) 2 2 = mTxid m ∧ field (a.ack m) 4 2 = mIdx m ∧ field (a.ack m) 8 4 = mOff m ∧
        { src := .mgmt src, txid := mTxid m, ack := a.ack m } ∈ t.dict.kept ∧
        t = { a.state with outbox := t.outbox, dict := { a.state.dict with kept := t.dict.kept } }) ∧
    (∀ e q, s.dict.queue = e :: q → ¬(e.1 = .mgmt src ∧ e.2 = m) → (s.dict.queue.any fun e => e.1 = .mgmt src && mTxid e.2 = mTxid m) = false →
      (s.dict.queue.length < 32 → ∃ t, row t ∧ t.dict.queue = s.dict.queue ++ [(.mgmt src, m)] ∧
        t = { s with dict := { s.dict with queue := t.dict.queue, stats := t.dict.stats } }) ∧
      (32 ≤ s.dict.queue.length → 1 ≤ mType m → mType m ≤ 4 → ∃ t, row t ∧ exec (.queueFullDiscard (.mgmt src) m) s = .next t ∧
        t = { s with dict := { s.dict with stats := t.dict.stats } } ∧ sget 0 t.dict.stats 2 = sget 0 s.dict.stats 2 + 1))) ∧
  (∀ (k : Nat) (req : List Byte) (stat v : W32) (s : State), srcOk s (.host k) = true → (getPort s k).hwBusy = false →
    v.getLsbD 31 = true → s.dict.queue.length < 32 →
    let m := hwMsg (fit 1040 req)
    ∃ t, exec (.hwGo k req stat v) s = .next t ∧ SameMemory s t ∧ (getPort t k).hwBusy = true ∧
      (getPort t k).hwReq = fit 1040 req ∧
      t.dict.queue = if 1 ≤ mType m ∧ mType m ≤ 4 then s.dict.queue ++ [(.hostWin k, m)] else s.dict.queue) ∧
  (∀ (k : Nat) (s : State), (getPort s k).hwBusy = true → (getPort s k).hwAck = none →
    ∃ t, exec (.hostWindowTimeout k) s = .next t ∧ SameMemory s t ∧ (getPort t k).hwTimeout = true ∧ (getPort t k).hwBusy = false) ∧
  ∀ (k : Nat) (s : State) (a : List Byte), (getPort s k).hwAck = some a →
    ∃ t, exec (.hostWindowResponse k) s = .next t ∧ SameMemory s t ∧ (getPort t k).hwRsp = fit 1040 a ∧
      (getPort t k).hwBusy = false ∧ (getPort t k).hwDone = true ∧
      t.outbox = s.outbox ++ (if (getPort s k).hwCtl.getLsbD 5 then [.msix k ((getPort s k).hwCtl.toNat % 32)] else [])

/-- A NOTIFY reports the oldest event with the value of its object to the address in NOTIFY_DEST; its ACK ends it, 10 ms without one sends it again and after
three resends it counts as unacknowledged. Kept ACKs, sessions and snapshots expire with nothing applied; a loss of the
PLCA beacon falls back to CSMA/CD and an echo request is answered with its data (R346, R348, R351, R353 to R355). -/
def Obligations.NotifiesAndExpiries : Prop :=
  (∀ (e : Event) (b : List Byte) (q : List (Event × List Byte)) (s : State), s.dict.events = (e, b) :: q → s.pwr.lodgeUp = true →
    s.dict.notices.length < 16 →
    let m := cixaMsg 5 s.dict.nextTxid (eventObj e).1 (eventObj e).2 0 0 0 b
    ∃ t, exec (.cixaNotify e) s = .next t ∧ t.outbox = s.outbox ++ [.notify (notifyDest s) m] ∧
      t.dict.events = q ∧
      t.dict.notices = s.dict.notices ++ [{ txid := s.dict.nextTxid, msg := m, resends := 0 }] ∧
      t = { s with outbox := t.outbox, dict := t.dict }) ∧
  (∀ (txid : Nat) (x : Notice) (s : State), s.dict.notices.find? (fun x => x.txid = txid) = some x → s.pwr.lodgeUp = true →
    (x.resends < 3 → ∃ t, exec (.notifyResend txid) s = .next t ∧ t.outbox = s.outbox ++ [.notify (notifyDest s) x.msg] ∧
      { x with resends := x.resends + 1 } ∈ t.dict.notices) ∧
    (3 ≤ x.resends → ∃ t, exec (.notifyResend txid) s = .next t ∧ t.outbox = s.outbox ∧ (∀ y ∈ t.dict.notices, y.txid ≠ txid) ∧
      sget 0 t.dict.stats 3 = sget 0 s.dict.stats 3 + 1) ∧
    ∀ a m, mType m = 6 → field m 0 1 = 1 → 16 ≤ m.length → mTxid m = txid →
      ∃ t, exec (.cixaAck (.mgmt a) m) s = .next t ∧ (∀ y ∈ t.dict.notices, y.txid ≠ txid) ∧
        t = { s with dict := { s.dict with notices := t.dict.notices } }) ∧
  (∀ (src : Requester) (txid idx sub : Nat) (s : State),
    (∃ t, exec (.keptAckExpiry src txid) s = .next t ∧ (∀ x ∈ t.dict.kept, ¬(x.src = src ∧ x.txid = txid)) ∧
      t = { s with dict := { s.dict with kept := t.dict.kept } }) ∧
    (∃ t, exec (.segmentSessionTimeout idx sub) s = .next t ∧ (∀ x ∈ t.dict.sessions, ¬(x.idx = idx ∧ x.sub = sub)) ∧
      t = { s with dict := { s.dict with sessions := t.dict.sessions } }) ∧
    ∃ t, exec (.snapshotExpiry src idx sub) s = .next t ∧ (∀ x ∈ t.dict.snaps, ¬(x.src = src ∧ x.idx = idx ∧ x.sub = sub)) ∧
      t = { s with dict := { s.dict with snaps := t.dict.snaps } }) ∧
  ∀ (lost : Bool) (src : Nat) (data : List Byte) (s : State), s.pwr.lodgeUp = true →
    (s.dict.plcaNode ≠ 0xFF → ∃ t, exec (.plcaBeaconLoss lost) s = .next t ∧ t = { s with dict := { s.dict with csmaFallback := lost } }) ∧
    exec (.icmpv6EchoRequest src data) s = .next { s with outbox := s.outbox ++ [.echoReply src data] }

/-- Parcels by the dictionary: creation takes an absent parcel's beds, when they are free and idle, and makes it ACTIVE with its
counts at 0; removal unmaps its pages, drops its seals and closes its windows; PCL_BEDS, BCN_ALLOC and CLK_BED are staged
for the next mark of a parcel that is there and take effect at once otherwise; a bed reserved for another parcel is refused to
either (log 32) (R263, R318 to R321, R340, R357, R395, R406). -/
def Obligations.ParcelObjectsDo : Prop :=
  ∀ (p : Nat) (s : State), p < 8 → dictReady s = true → s.pwr.failStopped = false →
    NoWriteOpen s [0x2002 + 0x100 * p, 0x2003 + 0x100 * p, 0x2040 + 0x100 * p, 0x4000] →
    let x := getPcl s p
    (s.pwr.bringDone = true → x.st = .absent → x.beds ≠ 0 → x.beds &&& othersBeds s p = 0 → bedsBusy s x.beds = false →
      ∃ t, exec (.parcelCreate p) s = .next t ∧ SameMemory s t ∧
        (getPcl t p).st = (if (getPort s x.port).perst then .inReset else .active) ∧ (getPcl t p).beds = x.beds ∧
        (getPcl t p).bmarks = 0 ∧ (getPcl t p).refused = 0 ∧ (getPcl t p).thgen = 0 ∧
        (∀ q, q ≠ p → getPcl t q = getPcl s q) ∧ ∀ c ∈ pclLive s p, digestOf t c = (0, 0, 0, 0)) ∧
    (pclThere s p = true → ∃ t, exec (.parcelRemove p) s = .next t ∧ SameMemory s t ∧ (getPcl t p).st = .absent ∧
      (getPcl t p).beds = 0 ∧ (getPcl t p).alloc0 = 0 ∧ (getPcl t p).alloc1 = 0 ∧ sealsOf t p = [] ∧
      (∀ w, w < 64 → (getWin s w).parcel = p → (getWin s w).active = true → (getWin t w).en = false) ∧
      ∀ f, (getEnt t f).v = true → (getEnt t f).owner.toNat ≠ p) ∧
    (pclThere s p = true → exec (.pclCtlReset p) s = .next (beginParcelReset s p)) ∧
    (∀ beds : W32, pclThere s p = true → beds &&& othersReserved s p = 0 → (beds &&& ~~~x.beds) &&& othersBeds s p = 0 →
      ∃ t, exec (.pclBeds p beds) s = .next t ∧ stagedVal t p .beds = some beds.toNat ∧ (getPcl t p).beds = x.beds) ∧
    (∀ beds : W32, pclThere s p = false → beds &&& othersReserved s p = 0 →
      ∃ t, exec (.pclBeds p beds) s = .next t ∧ (getPcl t p).beds = beds ∧ SameMemory s t) ∧
    (∀ beds : W32, beds &&& othersReserved s p ≠ 0 → exec (.pclBeds p beds) s = .next s) ∧
    (∀ (die : Nat) (v : W64), die < 2 → pclThere s p = true → v &&& othersBlocks s p die = 0 →
      ∃ t, exec (.bcnAlloc p die v) s = .next t ∧ stagedVal t p (.beacons die) = some v.toNat ∧ t.mesh = s.mesh) ∧
    ∀ (bed : Nat) (v : Byte), bed < 32 → 2 ≤ v.toNat → v.toNat ≤ 8 →
      (bedParcel s bed = some p → ∃ t, exec (.clkBed bed v) s = .next t ∧ stagedVal t p (.clkBed bed) = some v.toNat ∧
        bedClk t bed = bedClk s bed) ∧
      (bedParcel s bed = none → ∃ t, exec (.clkBed bed v) s = .next t ∧ bedClk t bed = v.toNat ∧
        ∀ b, b ≠ bed → bedClk t b = bedClk s b)

/-- The other objects that rows of their own write: acknowledgements, clears, clocks of halves, the warm reset, the node number,
snapshots, register transfers, and, for an object without such a row, what a write of its value to the dictionary does while no
segmented write of it by another requester is open
(R224, R233, R238, R347, R354, R357, R363, R381, R389, R396, R407, R413). -/
def Obligations.ObjectRowsDo : Prop :=
  (∀ (s : State), dictReady s = true → s.pwr.failStopped = false →
    NoWriteOpen s [0x1012, 0x4001, 0x4024, 0x6002, 0x6100, 0x7000, 0x7001, 0x7010, 0x9022] →
    (∀ v : W32, exec (.incAck v) s = .next { s with repair := { s.repair with ack := v } }) ∧
    (∀ cls, 1 ≤ cls → cls ≤ 0x7F → exec (.incOvf cls 0) s = .next { s with repair := { s.repair with ovf := sdel s.repair.ovf cls } }) ∧
    (exec (.softClear 0xC1EA) s = .next { s with repair := { s.repair with softClear := true } }) ∧
    (∀ (h : Nat) (v : Byte), h < 4 → 4 ≤ v.toNat → v.toNat ≤ 8 → ∃ t, exec (.clkHalf h v) s = .next t ∧ halfClk t h = v.toNat ∧
      (∀ g, g ≠ h → halfClk t g = halfClk s g) ∧ t.mesh = s.mesh) ∧
    (∀ v : W32, v.toNat < 64 → ∃ t, exec (.alertClr v) s = .next t ∧ t = { s with pwr := { s.pwr with alert := t.pwr.alert } } ∧
      t.pwr.alert.getLsbD 0 = s.pwr.alert.getLsbD 0 ∧ t.pwr.alert.getLsbD 1 = s.pwr.alert.getLsbD 1 ∧
      t.pwr.alert.getLsbD 3 = (s.pwr.alert.getLsbD 3 && !v.getLsbD 3) ∧ t.pwr.alert.getLsbD 5 = (s.pwr.alert.getLsbD 5 && !v.getLsbD 5)) ∧
    (∀ v : Byte, (1 ≤ v.toNat ∧ v.toNat ≤ 8) ∨ v = 0xFF → ∃ t, exec (.plcaNode v) s = .next t ∧ t.dict.plcaNode = v ∧
      plainVal t 0x1012 = [v] ∧ t = { s with dict := t.dict }) ∧
    (∀ v : W32, v ≠ 0 → v.toNat < 2 ^ 31 → s.regs.snapRun = none →
      ∃ t, exec (.snapAll v) s = .next t ∧ SameMemory s t ∧ ∃ r, t.regs.snapRun = some r ∧ r.ident = v ||| 0x80000000 ∧ r.parcel = none) ∧
    (∀ (p : Nat) (v : W32), v ≠ 0 → v.toNat < 2 ^ 31 → s.regs.snapRun = none → pclThere s p = true →
      ∃ t, exec (.snapPcl p v) s = .next t ∧ SameMemory s t ∧ ∃ r, t.regs.snapRun = some r ∧ r.ident = v ||| 0x80000000 ∧ r.parcel = some p) ∧
    (∀ (a : Nat) (w v : W32), let addr := w.toNat % 2 ^ 25
      addr % 4 = 0 → bits w.toNat 25 5 = 0 → w.getLsbD 31 = true → addr % 0x4000 ≠ 0xF0C →
      exec (.regXferWrite (.mgmt a) w v) s = .next (regWrite (if w.getLsbD 30 then
        regWrite s .lodge (addr / 0x4000 * 0x4000 + 0xF0C) 0x5AFE else s) .lodge addr v)) ∧
    (∀ (a : Nat) (w : W32), w.toNat % 4 = 0 → bits w.toNat 25 5 = 0 → w.getLsbD 31 = false →
      ∃ t, exec (.regXferSelect (.mgmt a) w) s = .next t ∧ regSelOf t (.mgmt a) = w ∧
        t = { s with dict := { s.dict with regSel := t.dict.regSel } } ∧
        let r := regRead t .lodge (w.toNat % 2 ^ 25)
        exec (.regXferRead (.mgmt a)) t = .next { r.2 with outbox := r.2.outbox ++ [.regRead .lodge r.1] })) ∧
  (∀ (l : List Nat) (r : SnapRun) (s : State), s.regs.snapRun = some r → r.missed = l → s.pwr.lodgeUp = true →
    ∃ t, exec (.snapshotComplete l) s = .next t ∧ SameMemory s t ∧ t.regs.snapRun = none ∧ t.regs.snapLast = r.ident ∧
      t.regs.snapMissed = BitVec.ofNat 32 l.length ∧ (r.parcel = none → t.regs.snapSkew.toNat ≤ 300)) ∧
  (∀ (s : State), dictReady s = true → warmFree s = true → NoWriteOpen s [0x4020] → ∃ t, exec (.modReset 0x7E5E) s = .next t ∧ t.pwr.bringStep = 3 ∧
    t.pwr.seqRun = .warm ∧ t.pwr.bringDone = false ∧ t.twin.st = .solo ∧ t.sites = [] ∧ ∀ p, (getPcl t p).st = .absent) ∧
  ∀ (src : Requester) (idx sub : Nat) (d : List Byte) (s : State) (r : ObjRow), dictReady s = true → reqOpen s src = true →
    findObj idx sub = .ok r → r.acc ≠ .ro → r.acc ≠ .const → scopeOk s src r idx sub = true → sizeOk r.typ d = true →
    s.pwr.failStopped = false →
    (sessionBusy s src idx sub = true → exec (.objectWrite src idx sub d) s = .next s) ∧
    (sessionBusy s src idx sub = false → exec (.objectWrite src idx sub d) s =
      .next (putObj { s with dict := { s.dict with sessions := segDrop s.dict.sessions src idx sub } } src r.idx (objKey idx).2 sub d).2)

/-! ### Firmware and attestation (R416 to R431) -/

/-- An upload leaves its bundle in the slot that is not running, valid if all of it verifies; FW_NEXT takes a valid slot and
FW_SVN_BURN the running bundle's SVN with its revocations; SPDM and measurement requests leave their answers for their
requester; the boot ROM starts the preferred slot that verifies, else the other, and with neither enters recovery (R416, R417, R419, R420, R422, R426 to R430). -/
def Obligations.FirmwareRowsDo : Prop :=
  (∀ (b : List Byte) (s : State), dictReady s = true → NoWriteOpen s [0x8000] →
    let i := uploadSlot s
    (bundleOk s b = true → ∃ t, exec (.fwUpload i b) s = .next t ∧ slotOf t i = b ∧ slotRaw t i = 1 ∧
      t = { s with firm := t.firm }) ∧
    (bundleOk s b = false → ∃ t, exec (.fwUpload i b) s = .next t ∧ slotOf t i = b ∧ slotRaw t i = 2 ∧ t.firm.active = s.firm.active)) ∧
  (∀ (v : Byte) (s : State), dictReady s = true → NoWriteOpen s [0x8002] → v.toNat < 2 → slotStat s v.toNat = 1 →
    exec (.fwNext v) s = .next { s with firm := { s.firm with next := v } }) ∧
  (∀ (v : Byte) (s : State), dictReady s = true → s.pwr.failStopped = false → NoWriteOpen s [0x8004] → v.toNat = bunSvn (running s) → s.firm.svn.toNat < v.toNat →
    ∃ t, exec (.fwSvnBurn v) s = .next t ∧ t.firm = { s.firm with
      svn := v, revoked := s.firm.revoked ||| BitVec.ofNat 8 (bunRevoke (running s)) }) ∧
  (∀ (a : Nat) (req : List Byte) (s : State), dictReady s = true → s.pwr.failStopped = false → NoWriteOpen s [0x8020] →
    ∃ t, exec (.spdmReq (.mgmt a) req) s = .next t ∧ spdmRsp t (.mgmt a) = (spdmAnswer s (.mgmt a) req).2 ∧ t = { s with firm := t.firm }) ∧
  (∀ (a : Nat) (nonce : List Byte) (s : State), dictReady s = true → s.pwr.failStopped = false → NoWriteOpen s [0x8030] → nonce.length = 32 →
    ∃ t, exec (.measNonce (.mgmt a) nonce) s = .next t ∧ measOf t (.mgmt a) = measObject s nonce ∧ t = { s with firm := t.firm }) ∧
  ∀ (s : State), atStep2 s = true →
    let i := if s.firm.next = 1 then 1 else 0
    (bootOk s (slotOf s i) = true → ∃ t, exec .bootRomVerify s = .next t ∧ t.firm.active.toNat = i ∧ t.pwr.bringStep = 3 ∧
      t = { s with firm := t.firm, pwr := { s.pwr with bringStep := 3, recovery := false } }) ∧
    (bootOk s (slotOf s i) = false → bootOk s (slotOf s (1 - i)) = true →
      ∃ t, exec .bootRomVerify s = .next t ∧ t.firm.active.toNat = 1 - i ∧ t.pwr.bringStep = 3 ∧ slotRaw t i = 2) ∧
    (bootOk s s.firm.slotA = false → bootOk s s.firm.slotB = false →
      ∃ t, exec .recovery s = .next t ∧ t.pwr.recovery = true ∧ t.pwr.alert.getLsbD 5 = true)

/-- An RWS object of a parcel reads, whatever is staged for it, as the value still in force, also right after a write; of
two writes before the mark the later granted one alone is staged (R14). -/
def Obligations.StagedValuesWaitForTheMark : Prop :=
  ∀ (s : State) (r : ObjRow) (idx sub p : Nat), findObj idx sub = .ok r → r.acc = .rws → objParcel s r idx sub = some p →
    pclThere s p = true →
    (∀ (q : Requester) (staged : List (StageKey × Nat)),
      let t := modPcl s p fun x => { x with staged := staged }
      (readObj t q r idx sub false).1 = (readObj s q r idx sub false).1 ∧
      (readObj t q r idx sub false).2.1 = (readObj s q r idx sub false).2.1) ∧
    (∀ (src q : Requester) (d : List Byte),
      (readObj (writeObj s src r idx sub d false).2 q r idx sub false).2.1 = (readObj s q r idx sub false).2.1) ∧
    ∀ (src src' : Requester) (d d' : List Byte),
      let t := (writeObj s src r idx sub d false).2
      (writeObj t src' r idx sub d' false).1 = ackOk →
      (getPcl (writeObj t src' r idx sub d' false).2 p).staged.filter (fun e => e.1 = stageKeyOf r sub) =
        [(stageKeyOf r sub, leNat d')]

/-! ### Twin operation (R286 to R310) -/

/-- Frames of the twin link: one that fails R291 is only counted and a sequenced one out of its place is owed a NAK. A
HEARTBEAT shows the peer's state and role; a DIGEST that agrees completes the mark it waits for, one whose SD differs
stops the parcel; FAILSTOP makes a survivor, UNPAIR a module that has lost its peer; PAIR-ACK after its own makes the
pair, with a new EPOCH; a rejoin is offered, accepted, copied and done (R291, R292, R296 to R299, R302 to R305; SUBTYPE
layouts are the model's, log 36). -/
def Obligations.TwinFramesAct : Prop :=
  (∀ (f : List Byte) (s : State), twinUp s = true → field f 0 1 = 1 → s.twin.st ≠ .rejoinSource →
    (frameOk s f = false → exec (.heartbeat f) s = .next (bump s twnBlock 2 1)) ∧
    (frameOk s f = true → NakServed f s → frameSeqd f = true → frameSeq f ≠ s.twin.rxSeq + 1 →
      ∃ t, exec (.heartbeat f) s = .next t ∧ t.twin.nakOwed = true ∧ t.twin.rxSeq = s.twin.rxSeq ∧ t.twin.peerHb = s.twin.peerHb)) ∧
  ∀ (f : List Byte) (s u : State),
    (FrameIn 1 f s u → s.twin.st ≠ .rejoinSource → ∃ t, exec (.heartbeat f) s = .next t ∧ SameMemory s t ∧
      t.twin.peerHb = some (BitVec.ofNat 8 (field f 16 1), BitVec.ofNat 8 (field f 17 1))) ∧
    (FrameIn 2 f s u → s.twin.st = .paired → field f 16 1 < 8 →
      let p := field f 16 1
      let x := getPcl s p
      let d : W64 × List Byte := (BitVec.ofNat 64 (field f 20 8), slice f 28 32)
      (x.mark.phase ≠ .exchange → ∃ t, exec (.digest f) s = .next t ∧ SameMemory s t ∧ (getPcl t p).peerDigests = x.peerDigests ++ [d]) ∧
      (x.mark.phase = .exchange → x.peerDigests = [] → d.1 = markNo x → (markRec s p).isSome = true → d.2.take 16 = Dig.bytes x.mark.csd →
        (d.2.drop 16 = Dig.bytes x.mark.sd → ∃ t, exec (.digest f) s = .next t ∧ SameMemory s t ∧
          (getPcl t p).bmarks = x.bmarks + 1 ∧ (getPcl t p).agreed = markNo x ∧ (getPcl t p).mark = {}) ∧
        (d.2.drop 16 ≠ Dig.bytes x.mark.sd → ∃ t, exec (.digest f) s = .next t ∧ SameMemory s t ∧
          (getPcl t p).st = .stopped ∧ (getPcl t p).bmarks = x.bmarks))) ∧
    (FrameIn 3 f s u → s.twin.st = .paired → ∃ t, exec (.failstop f) s = .next t ∧ SameMemory s t ∧ t.twin.st = .survivor) ∧
    (FrameIn 4 f s u → s.twin.st = .rejoinTarget → s.twin.copying = true →
      ∃ t, exec (.twinState f) s = .next t ∧ SameMemory s t ∧ t.twin.stateHdr = slice f 16 16 ∧ t.twin.stateData = []) ∧
    (FrameIn 6 f s u → s.twin.st = .rejoinTarget → s.twin.copying = true →
      let n := field s.twin.stateHdr 12 4
      let d := s.twin.stateData ++ slice f 16 236
      (d.length < n → ∃ t, exec (.stateData f) s = .next t ∧ SameMemory s t ∧ t.twin.stateData = d) ∧
      (s.twin.stateData.length < n → n ≤ d.length → field s.twin.stateHdr 0 1 = 1 → ∃ t, exec (.stateData f) s = .next t ∧
        t.far.mem = (farPut s (field s.twin.stateHdr 4 4 * 2 ^ 24 + field s.twin.stateHdr 8 4 * 4096) (d.take n)).far.mem)) ∧
    (FrameIn 5 f s u → ctlOp f = 1 → s.twin.st = .pairing →
      ∃ t, exec (.pair f) s = .next t ∧ SameMemory s t ∧ t.twin.peerInfo = slice f 20 72 ∧
        ∀ st role, s.twin.peerHb = some (st, role) → misfit s (slice f 20 72) role = false → unpairable s = false → t.twin.pairAckSent = true) ∧
    (FrameIn 5 f s u → ctlOp f = 2 → s.twin.st = .pairing → ∃ t, exec (.pairAck f) s = .next t ∧ SameMemory s t ∧ t.twin.pairAckGot = true ∧
      (s.twin.pairAckSent = true → t.twin.st = .paired ∧ t.twin.epoch = s.twin.epoch + 1) ∧
      (s.twin.pairAckSent = false → t.twin.st = .pairing)) ∧
    (FrameIn 5 f s u → ctlOp f = 3 → s.twin.st = .paired → ∃ t, exec (.unpair f) s = .next t ∧ SameMemory s t ∧ t.twin.st = .lost) ∧
    (∀ st role, FrameIn 5 f s u → ctlOp f = 4 → s.twin.st = .pairing → s.twin.peerHb = some (st, role) →
      misfit s (slice f 20 72) role = false → unpairable s = false → ∃ t, exec (.rejoinOffer f) s = .next t ∧ SameMemory s t ∧
        t.twin.st = .rejoinTarget ∧ t.twin.epoch = BitVec.ofNat 16 (field f 4 2) ∧ t.twin.copying = true) ∧
    (FrameIn 5 f s u → ctlOp f = 5 → s.twin.rejoinReq = true → s.twin.st = .survivor ∨ s.twin.st = .lost →
      ∃ t, exec (.rejoinAccept f) s = .next t ∧ SameMemory s t ∧ t.twin.st = .rejoinSource ∧ t.twin.prev = s.twin.st) ∧
    (FrameIn 5 f s u → ctlOp f = 6 → s.twin.st = .rejoinTarget → s.twin.copying = true → s.twin.endSeen = true →
      ∃ t, exec (.rejoinDone f) s = .next t ∧ SameMemory s t ∧ t.twin.st = .paired ∧ t.twin.epoch = s.twin.epoch + 1)

/-- Events of the twin: each HEARTBEAT carries the state and role; a peer that is lost, or whose DIGEST does not come, leaves
the module LOST and its marks complete unchecked; a fail-stopped module repeats FAILSTOP on every active lane;
what is not acknowledged is sent again, each frame eight times; a lane drops; pairing at bring-up begins with PAIR and ends in 10 s at the latest; a rejoin is asked
for and cancelled by REJOIN_REQ (R286, R292, R294 to R298, R302; log 35). -/
def Obligations.TwinEventsAct : Prop :=
  (∀ (s : State), twinUp s = true → s.twin.st ≠ .solo → s.twin.st ≠ .failStopped →
    (s.twin.st ≠ .rejoinSource → ∃ t lane fr, exec .heartbeatTimer s = .next t ∧
      t.outbox = s.outbox ++ [.twin lane fr] ∧ s.twin.lanes.getLsbD lane = true ∧ fr.length = 256 ∧
      field fr 0 1 = 1 ∧ field fr 16 1 = twinCode s.twin.st ∧ t.twin.hbCount = s.twin.hbCount + 1 ∧ t.twin.st = s.twin.st) ∧
    (s.twin.st = .rejoinSource → s.twin.copying = false → copyReady s = true → ∃ t, exec .heartbeatTimer s = .next t ∧
      t.twin.copying = true ∧ t.twin.rejoinPages = BitVec.ofNat 32 (livePages s).length)) ∧
  (∀ (s : State), s.pwr.lodgeUp = true → s.pwr.halt = false →
    (s.twin.st = .paired → ∃ t, exec .peerLost s = .next t ∧ SameMemory s t ∧ t.twin.st = .lost ∧ t.twin.peerHb = none ∧
      ∀ p, p < 8 → (getPcl s p).mark.phase = .exchange → (markRec s p).isSome = true → (getPcl t p).bmarks = (getPcl s p).bmarks + 1) ∧
    (s.twin.st = .rejoinSource → ∃ t, exec .peerLost s = .next t ∧ SameMemory s t ∧ t.twin.st = s.twin.prev)) ∧
  (∀ (p : Nat) (s : State), p < 8 → s.twin.st = .paired → (getPcl s p).mark.phase = .exchange →
    ∃ t, exec (.digestTimeout p) s = .next t ∧ SameMemory s t ∧ t.twin.st = .lost) ∧
  (∀ (s : State), s.twin.st = .failStopped → s.twin.failMsg.isSome = true → twinUp s = true →
    ∃ t, ∃ fr : Nat → List Byte, exec .failstopRepeat s = .next t ∧ t.outbox = s.outbox ++
      (((List.range 8).filter fun i => s.twin.lanes.getLsbD i).map fun i => .twin i (fr i)) ∧
      ∀ i, i < 8 → s.twin.lanes.getLsbD i = true → field (fr i) 0 1 = 3) ∧
  (∀ (s : State), twinUp s = true → s.twin.replay ≠ [] →
    (triedOut s = false → ∃ t fs, exec .twinFrameReplay s = .next t ∧ t.outbox = s.outbox ++ fs ∧ fs.length = s.twin.replay.length ∧
      t.twin.replay = s.twin.replay ∧
      ∀ f ∈ s.twin.replay, sget 0 s.twin.tries (frameSeq f).toNat < sget 0 t.twin.tries (frameSeq f).toNat) ∧
    (triedOut s = true → exec .twinFrameReplay s = .next (losePeer s))) ∧
  (∀ (l : Nat) (s : State), l < 8 → s.twin.lanes.getLsbD l = true → s.pwr.lodgeUp = true →
    ∃ t, exec (.laneDrop l) s = .next t ∧ SameMemory s t ∧ ∀ j, t.twin.lanes.getLsbD j = (s.twin.lanes.getLsbD j && decide (j ≠ l))) ∧
  (∀ (s : State), atStep s 8 = true →
    (s.twin.st = .solo → s.twin.modeNow = false → exec .pairing s = .next (toStep s 9)) ∧
    (s.twin.st = .solo → s.twin.modeNow = true → unpairable s = true →
      ∃ t, exec .pairing s = .next t ∧ t.twin.st = .solo ∧ t.pwr.bringStep = 9) ∧
    (s.twin.st = .solo → s.twin.modeNow = true → unpairable s = false →
      ∃ t, exec .pairing s = .next t ∧ t.twin.st = .pairing ∧ t.twin.pairSent = true ∧ t.twin.pairAckSent = false ∧ t.twin.pairAckGot = false)) ∧
  (∀ (s : State), s.twin.st = .pairing → awaitsRejoin s = false →
    ∃ t, exec .pairingTimeout s = .next t ∧ SameMemory s t ∧ t.twin.st = .solo) ∧
  ∀ (s : State), dictReady s = true → s.pwr.failStopped = false → NoWriteOpen s [0x5006] →
    (s.twin.st = .survivor ∨ s.twin.st = .lost → ∃ t, exec .rejoinStart s = .next t ∧ SameMemory s t ∧ t.twin.rejoinReq = true ∧
      t.twin.st = s.twin.st) ∧
    (s.twin.st = .rejoinSource → s.twin.copying = false → ∃ t, exec .rejoinCancel s = .next t ∧ SameMemory s t ∧ t.twin.st = s.twin.prev)

/-! ### Power, pins and bring-up (R398 to R415) -/

/-- The input and its pins: a power event with the rails up begins the stop, in which the ports are poisoned and then every
domain but the Lodge stops; over-voltage, thermal and clock events set their alerts or stop the module;
RESET_N starts a warm reset, FENCE_N a fail-stop, PWR_WARN_N a power event; a flapping input is ignored until its lockout
ends (R398 to R406, R411, R414, R437). -/
def Obligations.PowerAndPinsAct : Prop :=
  (∀ (v : Nat) (s : State), s.pwr.lodgeUp = false → 30000 ≤ v → ∃ t, exec (.lodgeSupplyUp v) s = .next t ∧ t.pwr.lodgeUp = true ∧
    t.pwr.vin = v ∧ t.pwr.bringStep = 2 ∧ t.pwr.seqRun = .powerOn ∧ t.sites = [] ∧ t.firm.bootCnt = s.firm.bootCnt + 1 ∧
    t.far = { initMode := t.far.initMode } ∧ t.place.reloc = s.place.reloc) ∧
  (∀ (v : Nat) (s : State), s.pwr.lodgeUp = true →
    (v < 30000 → ∃ t, exec (.lodgeSupplyLoss v) s = .next t ∧ t.pwr.lodgeUp = false ∧ t.sites = [] ∧ t.pwr.bringDone = false ∧
      t.repair.retired = s.repair.retired) ∧
    (v < 39000 → s.pwr.rails = true → s.pwr.stopping = false → s.pwr.halt = false →
      ∃ t, exec (.powerEvent v) s = .next t ∧ SameMemory s t ∧ t.pwr.stopping = true ∧ t.pwr.alert.getLsbD 1 = true ∧ alive t = false) ∧
    (40000 ≤ v → v < 54000 → exec (.inputReady v) s = .next (modPwr (setVin s v) fun x => { x with inputOk := true })) ∧
    (50000 < v → s.pwr.ovWarn = false → ∃ t, exec (.overVoltageWarning v) s = .next t ∧ SameMemory s t ∧ t.pwr.ovWarn = true ∧
      t.pwr.alert.getLsbD 4 = true) ∧
    (v < 49000 → ∃ t, exec (.overVoltageClear v) s = .next t ∧ SameMemory s t ∧ t.pwr.ovWarn = false ∧ t.pwr.alert.getLsbD 4 = false) ∧
    (54000 ≤ v → s.pwr.ovTrip = false → s.pwr.rails = true → s.pwr.stopping = false → s.pwr.halt = false →
      ∃ t, exec (.overVoltageTrip v) s = .next t ∧ SameMemory s t ∧ t.pwr.ovTrip = true ∧ t.pwr.stopping = true)) ∧
  (∀ (s : State), s.pwr.stopping = true →
    (s.pwr.poison = false → exec .hostPortsPoison s = .next (pumpHosts { s with pwr := { s.pwr with poison := true } })) ∧
    ∃ t, exec .powerHalt s = .next t ∧ SameMemory s t ∧ t.pwr.halt = true ∧ t.pwr.stopping = false ∧
      (∀ d, domainRuns t d = (domainRuns s d && decide (d = 58))) ∧ t.gate.writes = [] ∧
      (t.pwr.rails = (s.pwr.rails && !s.pwr.ovTrip)) ∧ ∀ k, k < 4 → (getPort t k).linkUp = false) ∧
  (∀ (s : State), s.pwr.lodgeUp = true →
    (s.pwr.resetPin = false → Pin.resetN ∉ s.pwr.lockouts → ∃ t, exec (.resetN true) s = .next t ∧ t.pwr.resetPin = true ∧
      (warmFree s = true → t.pwr.bringStep = 3 ∧ t.pwr.seqRun = .warm ∧ t.sites = [] ∧ ∀ p, (getPcl t p).st = .absent) ∧
      (warmFree s = false → SameMemory s t ∧ t.pwr.seqRun = s.pwr.seqRun)) ∧
    (s.pwr.resetPin = true → Pin.resetN ∉ s.pwr.lockouts → exec (.resetN false) s = .next { s with pwr := { s.pwr with
      resetPin := false, resetHeld := false } }) ∧
    (s.pwr.resetPin = true → s.pwr.resetHeld = false → ∃ t, exec .resetNHeld s = .next t ∧ SameMemory s t ∧ t.pwr.resetHeld = true) ∧
    (s.pwr.fencePin = false → Pin.fenceN ∉ s.pwr.lockouts → ∃ t, exec .fenceN s = .next t ∧ SameMemory s t ∧ t.pwr.fencePin = true ∧
      (s.pwr.bringDone = true → t.pwr.failStopped = true) ∧ (s.pwr.bringDone = false → t.pwr.failStopped = s.pwr.failStopped)) ∧
    (s.pwr.fencePin = true → Pin.fenceN ∉ s.pwr.lockouts → exec .fenceNRelease s = .next { s with pwr := { s.pwr with fencePin := false } }) ∧
    (s.pwr.warnPin = false → Pin.pwrWarnN ∉ s.pwr.lockouts → s.pwr.rails = true → s.pwr.stopping = false → s.pwr.halt = false →
      ∃ t, exec .pwrWarnN s = .next t ∧ SameMemory s t ∧ t.pwr.warnPin = true ∧ t.pwr.stopping = true) ∧
    (s.pwr.warnPin = true → Pin.pwrWarnN ∉ s.pwr.lockouts → exec .pwrWarnNRelease s = .next { s with pwr := { s.pwr with warnPin := false } }) ∧
    (∀ pin, pinOk pin = true → pin ∉ s.pwr.lockouts → ∃ t, exec (.inputFlapping pin) s = .next t ∧ SameMemory s t ∧
      t.pwr.lockouts = s.pwr.lockouts ++ [pin] ∧ t.pwr.alert.getLsbD 3 = true) ∧
    (∀ pin a, pin ∈ s.pwr.lockouts → exec (.lockoutEnd pin a) s = .next (setLevel { s with pwr := { s.pwr with
      lockouts := s.pwr.lockouts.filter fun p => p ≠ pin } } pin a))) ∧
  ∀ (s : State), s.pwr.lodgeUp = true →
    (∀ tj iin pin, ∃ t, exec (.temperatureSample tj iin pin) s = .next t ∧ SameMemory s t ∧ t.pwr.tj = tj ∧ t.pwr.iin = iin ∧ t.pwr.pin = pin ∧
      (tjWarn s - 5000 < tj → t.pwr.coolMs = 0 ∧ t.pwr.thWarn = s.pwr.thWarn)) ∧
    (s.pwr.thWarn = false → tjWarn s ≤ s.pwr.tj → ∃ t, exec .temperatureWarning s = .next t ∧ SameMemory s t ∧ t.pwr.thWarn = true ∧
      t.pwr.alert.getLsbD 2 = true) ∧
    (115000 ≤ s.pwr.tj → s.pwr.rails = true → s.pwr.halt = false → s.pwr.stopping = false →
      ∃ t, exec .thermalTrip s = .next t ∧ SameMemory s t ∧ t.pwr.thTrip = true ∧ t.pwr.failStopped = true ∧ t.pwr.stopping = true) ∧
    ∀ d, d < 60 → domainRuns s d = true → ∃ t, exec (.clockLockLoss d) s = .next t ∧ SameMemory s t ∧ domainRuns t d = false ∧
      (∀ j, j ≠ d → domainRuns t j = domainRuns s j) ∧ t.pwr.failStopped = true

/-- Bring-up goes through its steps: the Repair Plat is applied and pending returns take effect, the rails come up and every
domain runs, the Gatehouse image is verified, the links and ports train, memories and PPNs are set, and at the end
the Groundskeepers are enabled and the module is up; PWR_WARN_N and FENCE_N hold their steps and a step that fails ends
bring-up (R26, R197, R224, R226, R247, R400, R404, R405, R409, R421). -/
def Obligations.BringupStepsDo : Prop :=
  (∀ (s : State), atStep s 3 = true → ∃ t, exec .repairPlatLoad s = .next t ∧ SameMemory s t ∧ t.pwr.bringStep = 4 ∧ dictReady t = !s.pwr.recovery ∧
    t.place.returns = [] ∧ t.repair.softClear = false ∧ (∀ c ∈ s.place.returns, csite t c = tsite t c) ∧
    ∀ c, c ∉ s.place.returns → csite t c = csite s c) ∧
  (∀ (s : State), atStep s 4 = true →
    (s.pwr.warnPin = true → ∃ t, exec .computeRamp s = .next t ∧ SameMemory s t ∧ t.pwr.bringStep = s.pwr.bringStep ∧ Pin.pwrWarnN ∈ t.pwr.heldBy) ∧
    (s.pwr.warnPin = false → s.pwr.inputOk = true → ∃ t, exec .computeRamp s = .next t ∧ SameMemory s t ∧ t.pwr.bringStep = 5 ∧
      t.pwr.rails = true ∧ ∀ d, d < 60 → domainRuns t d = true)) ∧
  (∀ (s : State), atStep s 5 = true →
    let b := running s
    let ok := Config.sm3 (ghBody b) == ghDigOf b && Config.sm3 (tblBody b) == tblDigOf b
    (ok = true → ∃ t, exec .gatehouseImageLoad s = .next t ∧ SameMemory s t ∧ t.pwr.bringStep = 6 ∧ t.firm.ghDig = ghDigOf b) ∧
    (ok = false → ∃ t, exec .gatehouseImageLoad s = .next t ∧ SameMemory s t ∧ t.pwr.seqRun = .none ∧ t.pwr.bringFailed = true ∧
      slotRaw t s.firm.active.toNat = 2)) ∧
  (∀ (links : Nat) (lanes : Byte) (s : State), atStep s 6 = true → links < 2 ^ 20 →
    ∃ t, exec (.linkTraining links lanes) s = .next t ∧ SameMemory s t ∧ t.pwr.bringStep = 7 ∧ t.mesh.trained = BitVec.ofNat 20 links ∧
      t.twin.lanes = (if s.twin.modeNow then lanes else 0) ∧ ∀ p, p < 48 → (getPortF t p).trained = true) ∧
  (∀ (s : State), atStep s 7 = true → ∃ t, exec .memoryInit s = .next t ∧ t.pwr.bringStep = 8 ∧ t.far.ppnSet = true ∧
    (∀ n a, mrd (getSite t n).near a = 0 ∧ mrd (getSite t n).terr a = 0) ∧ (∀ a, mrd t.far.mem a = 0) ∧
    (∀ p, p < 48 → (getPortF t p).init = true) ∧ (s.repair.retired = [] → ∀ f, f < 184320 → entPpn t f = f ∧ (getEnt t f).v = false)) ∧
  (∀ (s : State), atStep s 9 = true →
    (s.pwr.fencePin = true → ∃ t, exec .bringupComplete s = .next t ∧ SameMemory s t ∧ t.pwr.bringDone = s.pwr.bringDone ∧ Pin.fenceN ∈ t.pwr.heldBy) ∧
    (s.pwr.fencePin = false → s.pwr.resetPin = false → ∃ t, exec .bringupComplete s = .next t ∧ SameMemory s t ∧ t.pwr.bringDone = true ∧
      t.pwr.bringStep = 0xFF ∧ t.pwr.seqRun = .none ∧ ∀ d, sget false t.regs.gkOff d = false)) ∧
  ∀ (n : Nat) (s : State), 3 ≤ n → n ≤ 9 → atStep s n = true → ∃ t, exec (.bringupStepFailed n) s = .next t ∧ SameMemory s t ∧
    t.pwr.seqRun = .none ∧ t.pwr.bringFailed = true ∧ t.pwr.alert.getLsbD 5 = true
end

