-- ==== Sys2Proof/Laws/State.lean ====
section
/-!
SUPPORT. The state's parts under the named updates.
-/

namespace Sys2Proof.Machine

@[simp] theorem after_done (s t : State) : after s (done t) = t := rfl
@[simp] theorem after_cannot (s : State) : after s (cannot s) = s := rfl
@[simp] theorem after_next (s t : State) : after s (.next t) = t := rfl

@[simp] theorem RecRes.after_fin (n : Nat) (b : List Byte) (s : State) : (RecRes.fin n b s).after = s := rfl
@[simp] theorem RecRes.after_own (s : State) : (RecRes.own s).after = s := rfl
@[simp] theorem RecRes.after_wait (s : State) : (RecRes.wait s).after = s := rfl
@[simp] theorem refuse_after (s : State) (n : Nat) : (refuse s n).after = s := rfl
@[simp] theorem PageRes.after_refused (s : State) (n : Nat) : (PageRes.refused n).after s = s := rfl
@[simp] theorem PageRes.after_wait (s t : State) : (PageRes.wait t).after s = t := rfl
@[simp] theorem PageRes.after_ok (s t : State) : (PageRes.ok t).after s = t := rfl
@[simp] theorem GhStop.after_fault (s : State) : (GhStop.fault s).after = s := rfl
@[simp] theorem GhStop.after_wait (s : State) : (GhStop.wait s).after = s := rfl
@[simp] theorem GhStop.res_after (x : GhStop) : x.res.after = x.after := by cases x <;> rfl

@[simp] theorem Place.core_fencing (x : Place) (l : List Nat) : { x with fencing := l }.core = x.core := rfl
@[simp] theorem Place.core_returns (x : Place) (l : List Nat) : { x with returns := l }.core = x.core := rfl

@[simp] theorem ite_place (c : Prop) [Decidable c] (a b : State) :
    (if c then a else b).place.core = if c then a.place.core else b.place.core := by split <;> rfl

/-- Operations that leave the binding alone leave it alone when folded over a list. -/
@[simp] theorem foldl_place {β : Type} (l : List β) (h : State → β → State) (s : State)
    (H : ∀ s x, (h s x).place.core = s.place.core) : (l.foldl h s).place.core = s.place.core := by
  induction l generalizing s with
  | nil => rfl
  | cons x t ih => rw [List.foldl_cons, ih, H]

/-- An attempt that leaves the binding alone leaves it alone whether or not it comes about. -/
theorem getD_place {o : Option State} {s : State} (H : ∀ t, o = some t → t.place.core = s.place.core) :
    (o.getD s).place.core = s.place.core := by
  cases o with
  | none => rfl
  | some t => exact H t rfl

end Sys2Proof.Machine
end

