-- ==== Sys2Proof/Laws/PlaceOps.lean ====
section
/-!
SUPPORT. What the operations of Machine/Ops.lean do to the placement of cores: nothing.
-/

namespace Sys2Proof.Machine

open Host (Outcome)

@[simp] theorem done_place (s : State) : (after s (done s)).place.core = s.place.core := by
  unfold done
  simp

@[simp] theorem cannot_place (s : State) : (after s (cannot s)).place.core = s.place.core := by
  unfold cannot
  simp

@[simp] theorem setSite_place (s : State) (n : Nat) (x : Site) : (setSite s n x).place.core = s.place.core := by
  unfold setSite
  simp

@[simp] theorem modSite_place (s : State) (n : Nat) (f : Site → Site) : (modSite s n f).place.core = s.place.core := by
  unfold modSite
  simp

@[simp] theorem modCore_place (s : State) (c : Nat) (f : Site → Site) : (modCore s c f).place.core = s.place.core := by
  unfold modCore
  simp

@[simp] theorem modCtx_place (s : State) (c k : Nat) (f : Ctx → Ctx) : (modCtx s c k f).place.core = s.place.core := by
  unfold modCtx
  simp

@[simp] theorem raiseFlags_place (s : State) (c k : Nat) (f : W32) : (raiseFlags s c k f).place.core = s.place.core := by
  unfold raiseFlags
  simp

@[simp] theorem takeFree_place (s : State) : (takeFree s).2.place.core = s.place.core := by
  unfold takeFree
  simp

@[simp] theorem bump_place (s : State) (block i n : Nat) : (bump s block i n).place.core = s.place.core := by
  unfold bump
  simp

@[simp] theorem observeCycles_place (s : State) (d : Nat) : (observeCycles s d).2.place.core = s.place.core := by
  unfold observeCycles takeFree
  split <;> rfl

@[simp] theorem modPcl_place (s : State) (p : Nat) (f : Parcel → Parcel) : (modPcl s p f).place.core = s.place.core := by
  unfold modPcl
  simp

@[simp] theorem modWin_place (s : State) (w : Nat) (f : Window → Window) : (modWin s w f).place.core = s.place.core := by
  unfold modWin
  simp

@[simp] theorem modPort_place (s : State) (k : Nat) (f : Port → Port) : (modPort s k f).place.core = s.place.core := by
  unfold modPort
  simp

@[simp] theorem startRec_place (s : State) (w : Nat) (bytes : List Byte) (irq : Bool) : (startRec s w bytes irq).place.core = s.place.core := by
  unfold startRec
  simp

@[simp] theorem emitRec_place (s : State) (w : Nat) (bytes : List Byte) (irq : Bool) : (emitRec s w bytes irq).place.core = s.place.core := by
  unfold emitRec
  simp

@[simp] theorem drainBacklog_place (s : State) (w n : Nat) : (drainBacklog s w n).place.core = s.place.core := by
  induction n generalizing s with
  | zero => rfl
  | succ n ih =>
    unfold drainBacklog
    split
    · rfl
    · split
      · rw [ih]; simp
      · rfl

@[simp] theorem pclRec_place (s : State) (p : Nat) (bytes : List Byte) : (pclRec s p bytes).place.core = s.place.core := by
  unfold pclRec
  repeat' split
  all_goals simp

@[simp] theorem giveUp_place (s : State) (c k : Nat) : (giveUp s c k).place.core = s.place.core := by
  unfold giveUp
  repeat' (first | split | intro _ | dsimp only)
  all_goals first | (simp; done) | (simp [*]; done) | (simp_all; done)

@[simp] theorem trapAt_place (s : State) (c k : Nat) (pc : W64) (cause : Nat) (val : W64) : (trapAt s c k pc cause val).place.core = s.place.core := by
  unfold trapAt
  repeat' (first | split | intro _ | dsimp only)
  all_goals simp

@[simp] theorem trap_place (s : State) (c k : Nat) (cause : Nat) (val : W64) : (trap s c k cause val).place.core = s.place.core := by
  unfold trap
  simp

@[simp] theorem noteEvent_place (s : State) (e : Event) (v : List Byte) : (noteEvent s e v).place.core = s.place.core := by
  unfold noteEvent
  simp

@[simp] theorem setTwin_place (s : State) (t : TwinSt) : (setTwin s t).place.core = s.place.core := by
  unfold setTwin
  simp

@[simp] theorem setPcl_place (s : State) (p : Nat) (t : PclSt) : (setPcl s p t).place.core = s.place.core := by
  unfold setPcl
  simp

@[simp] theorem logInc_place (s : State) (i : Inc) : (logInc s i).place.core = s.place.core := by
  unfold logInc
  simp

@[simp] theorem endHandling_place (s : State) (cls : Nat) : (endHandling s cls).place.core = s.place.core := by
  unfold endHandling
  simp

@[simp] theorem endStepHandling_place (s : State) (p : Nat) : (endStepHandling s p).place.core = s.place.core := by
  unfold endStepHandling
  simp

@[simp] theorem endFenceHandling_place (s : State) (site : Nat) : (endFenceHandling s site).place.core = s.place.core := by
  unfold endFenceHandling
  simp

@[simp] theorem raiseAlert_place (s : State) (b : Nat) : (raiseAlert s b).place.core = s.place.core := by
  unfold raiseAlert
  simp

@[simp] theorem dropAlert_place (s : State) (b : Nat) : (dropAlert s b).place.core = s.place.core := by
  unfold dropAlert
  simp

@[simp] theorem send_place (s : State) (m : OutMsg) : (send s m).place.core = s.place.core := by
  unfold send
  simp

@[simp] theorem modPortF_place (s : State) (p : Nat) (f : FarPort → FarPort) : (modPortF s p f).place.core = s.place.core := by
  unfold modPortF
  simp

@[simp] theorem modEnt_place (s : State) (fpn : Nat) (f : CadEntry → CadEntry) : (modEnt s fpn f).place.core = s.place.core := by
  unfold modEnt
  simp

@[simp] theorem farPut_place (s : State) (fa : Nat) (bs : List Byte) : (farPut s fa bs).place.core = s.place.core := by
  unfold farPut
  simp

@[simp] theorem useEntry_place (s : State) (fpn : Nat) : (useEntry s fpn).place.core = s.place.core := by
  unfold useEntry
  repeat' (first | split | intro _ | dsimp only)
  all_goals first | (simp; done) | (simp [*]; done) | (simp_all; done)

@[simp] theorem useLine_place (wr : Bool) (s : State) (l : Nat) : (useLine wr s l).place.core = s.place.core := by
  unfold useLine
  repeat' (first | split | intro _ | dsimp only)
  all_goals first | (simp; done) | (simp [*]; done) | (simp_all; done)

@[simp] theorem farUse_place (s : State) (fa n : Nat) (wr : Bool) : (farUse s fa n wr).place.core = s.place.core := by
  unfold farUse
  repeat' (first | split | intro _ | dsimp only)
  all_goals first | (simp; done) | (simp [*]; done) | (simp_all; done)

theorem farWrite_place (s : State) (p fa : Nat) (bs : List Byte) : ∀ t, farWrite s p fa bs = .ok t → t.place.core = s.place.core := by
  intro t h
  unfold farWrite at h
  repeat' (first | split at h | dsimp only at h)
  all_goals first | contradiction | (simp only [Option.some.injEq, Except.ok.injEq] at h; subst h; first | (simp; done) | (simp [*]; done) | (simp_all; done))

@[simp] theorem nearWrite_place (s : State) (site off : Nat) (bs : List Byte) : (nearWrite s site off bs).place.core = s.place.core := by
  unfold nearWrite
  simp

@[simp] theorem terrWrite_place (s : State) (site off : Nat) (bs : List Byte) : (terrWrite s site off bs).place.core = s.place.core := by
  unfold terrWrite
  simp

@[simp] theorem digestWrite_place (s : State) (c unit : Nat) (a : W64) (bs : List Byte) : (digestWrite s c unit a bs).place.core = s.place.core := by
  unfold digestWrite
  simp

@[simp] theorem writeFaultRec_place (s : State) (p fpn kind held : Nat) (r : FaultReq) : (writeFaultRec s p fpn kind held r).place.core = s.place.core := by
  unfold writeFaultRec
  simp

@[simp] theorem addFault_place (s : State) (p fpn kind : Nat) (r : FaultReq) : (addFault s p fpn kind r).place.core = s.place.core := by
  unfold addFault
  simp

@[simp] theorem nextFaultRec_place (s : State) (p : Nat) : (nextFaultRec s p).place.core = s.place.core := by
  unfold nextFaultRec
  split
  · rfl
  · split
    · rfl
    · split
      · rfl
      · simp

@[simp] theorem dropFault_place (s : State) (f : FaultReq → Bool) : (dropFault s f).place.core = s.place.core := by
  unfold dropFault
  simp

@[simp] theorem stopStep_place (s : State) (p : Nat) (st : StepStop) : (stopStep s p st).place.core = s.place.core := by
  unfold stopStep
  simp

@[simp] theorem fenceCore_place (s : State) (c : Nat) : (fenceCore s c).place.core = s.place.core := rfl

@[simp] theorem failStop_place (s : State) (cls cause : Nat) : (failStop s cls cause).place.core = s.place.core := by
  unfold failStop
  simp

@[simp] theorem terrTally_place (s : State) (site row n : Nat) : (terrTally s site row n).place.core = s.place.core := by
  unfold terrTally
  simp

@[simp] theorem farTally_place (s : State) (port row n : Nat) : (farTally s port row n).place.core = s.place.core := by
  unfold farTally
  simp

@[simp] theorem countUnc_place (s : State) (cls kind num : Nat) (addr : W64) : (countUnc s cls kind num addr).place.core = s.place.core := by
  unfold countUnc
  simp

@[simp] theorem countOwn_place (s : State) (own : Option Nat) : (countOwn s own).place.core = s.place.core := by
  unfold countOwn
  repeat' (first | split | intro _ | dsimp only)
  all_goals first | (simp; done) | (simp [*]; done) | (simp_all; done)

@[simp] theorem fenceSecond_place (s : State) (own : Option Nat) : (fenceSecond s own).place.core = s.place.core := by
  unfold fenceSecond
  repeat' (first | split | intro _ | dsimp only)
  all_goals first | (simp; done) | (simp [*]; done) | (simp_all; done)

@[simp] theorem noteOwn_place (s : State) (own : Option Nat) : (noteOwn s own).place.core = s.place.core := by
  unfold noteOwn
  repeat' (first | split | intro _ | dsimp only)
  all_goals first | (simp; done) | (simp [*]; done) | (simp_all; done)

@[simp] theorem uncData_place (s : State) (p cls kind num : Nat) (addr : W64) (upd : Bool) (own : Option Nat) (detail : W32) :
    (uncData s p cls kind num addr upd own detail).place.core = s.place.core := by
  simp [uncData]

@[simp] theorem uncArith_place (s : State) (c cls kind num : Nat) (addr : W64) (upd : Bool) : (uncArith s c cls kind num addr upd).place.core = s.place.core := by
  unfold uncArith
  simp

@[simp] theorem fetchError_place (s : State) (c k : Nat) (row : W64) : (fetchError s c k row).place.core = s.place.core := by
  unfold fetchError
  repeat' (first | split | intro _ | dsimp only)
  all_goals first | (simp; done) | (simp [*]; done) | (simp_all; done)

@[simp] theorem startSnoop_place (s : State) (line : Nat) (inv : Bool) : (startSnoop s line inv).place.core = s.place.core := by
  unfold startSnoop
  simp

end Sys2Proof.Machine
end

