-- ==== Sys2Proof/Laws/PlaceOperands.lean ====
section
/-!
SUPPORT. What the operations of Machine/Operands.lean do to the placement of cores: nothing.
-/

namespace Sys2Proof.Machine

open Host (Outcome)

theorem spotWrite_place (s : State) (c : Nat) (x : Spot) (bs : List Byte) : ∀ t, spotWrite s c x bs = .ok t → t.place.core = s.place.core := by
  intro t h
  unfold spotWrite at h
  repeat' (first | split at h | dsimp only at h)
  all_goals first | contradiction | exact farWrite_place _ _ _ _ _ h | (simp only [Option.some.injEq, Except.ok.injEq] at h; subst h; first | (simp; done) | (simp [*]; done) | (simp_all; done) | (have hh := farWrite_place _ _ _ _ _ ‹_›; simp [*]; done))

theorem engPut_place (s : State) (c : Nat) (sp : Spaces) (a : W64) (bs : List Byte) : ∀ t, engPut s c sp a bs = .ok t → t.place.core = s.place.core := by
  intro t h
  unfold engPut at h
  repeat' (first | split at h | dsimp only at h)
  all_goals first | contradiction | exact spotWrite_place _ _ _ _ _ h | (simp only [Option.some.injEq, Except.ok.injEq] at h; subst h; first | (simp; done) | (simp [*]; done) | (simp_all; done) | (have hh := spotWrite_place _ _ _ _ _ ‹_›; simp [*]; done))

theorem engWrite_place (s : State) (c unit : Nat) (sp : Spaces) (a : W64) (bs : List Byte) : ∀ t, engWrite s c unit sp a bs = .ok t → t.place.core = s.place.core := by
  intro t h
  unfold engWrite at h
  cases hw : engPut s c sp a bs with
  | error x => rw [hw] at h; contradiction
  | ok u =>
    rw [hw] at h
    simp only [Except.map, Except.ok.injEq] at h
    subst h
    simp [engPut_place _ _ _ _ _ _ hw]

@[simp] theorem engSeen_place (s : State) (c : Nat) (a : W64) (n : Nat) : (engSeen s c a n).place.core = s.place.core := by
  unfold engSeen
  repeat' (first | split | intro _ | dsimp only)
  all_goals first | (simp; done) | (simp [*]; done) | (simp_all; done)

theorem fetchRow_place (s : State) (c k : Nat) : ∀ t, fetchRow s c k = some t → t.place.core = s.place.core := by
  intro t h
  unfold fetchRow at h
  repeat' (first | split at h | dsimp only at h)
  all_goals first | contradiction | (simp only [Option.some.injEq, Except.ok.injEq] at h; subst h; first | (simp; done) | (simp [*]; done) | (simp_all; done))

@[simp] theorem countIssue_place (s : State) (c k : Nat) : (countIssue s c k).place.core = s.place.core := by
  unfold countIssue
  simp

@[simp] theorem retire_place (s : State) (c k : Nat) : (retire s c k).place.core = s.place.core := by
  unfold retire
  simp

@[simp] theorem issue_place (h : Shape) (e : Enc) (s : State) (f : State → State) (H : ∀ u, (f u).place.core = u.place.core) : (after s (issue h e s f)).place.core = s.place.core := by
  unfold issue
  repeat' (first | split | intro _ | dsimp only)
  all_goals first | simp; done | (have hh := fetchRow_place _ _ _ _ ‹_›; simp [*]; done)

@[simp] theorem Enc.trap_place (e : Enc) (s : Machine.State) (cause : Nat) (val : W64) : (Enc.trap e s cause val).place.core = s.place.core := by
  unfold Enc.trap
  simp

@[simp] theorem wrS_place (e : Enc) (s : State) (v : W64) : (wrS e s v).place.core = s.place.core := by
  unfold wrS
  simp

@[simp] theorem wrA_place (e : Enc) (s : State) (v : W64) : (wrA e s v).place.core = s.place.core := by
  unfold wrA
  simp

@[simp] theorem block_place (s : State) (c k : Nat) (eligible : Bool) (w : Wait) : (block s c k eligible w).place.core = s.place.core := by
  unfold block
  simp

@[simp] theorem orWait_place (att : State → Option State) (eligible : Bool) (o : WaitOp) (e : Enc) (s : State) (H : ∀ t, att s = some t → t.place.core = s.place.core) : (orWait att eligible o e s).place.core = s.place.core := by
  unfold orWait
  repeat' (first | split | intro _ | dsimp only)
  all_goals simp_all

@[simp] theorem orWaitDesc_place (att : State → Option State) (eligible : Bool) (o : WaitOp) (e : Enc) (b : List Byte) (s : State) (H : ∀ t, att s = some t → t.place.core = s.place.core) : (orWaitDesc att eligible o e b s).place.core = s.place.core := by
  unfold orWaitDesc
  repeat' (first | split | intro _ | dsimp only)
  all_goals simp_all

@[simp] theorem hold_place (s : State) (c k kind fpn : Nat) (a : W64) (wr : Bool) : (hold s c k kind fpn a wr).place.core = s.place.core := by
  unfold hold
  simp

theorem heldAtPort_place (s : State) (e : Enc) : ∀ t, heldAtPort s e = some t → t.place.core = s.place.core := by
  intro t h
  unfold heldAtPort at h
  repeat' (first | split at h | dsimp only at h)
  all_goals first | contradiction | (simp only [Option.some.injEq, Except.ok.injEq] at h; subst h; first | (simp; done) | (simp [*]; done) | (simp_all; done))

@[simp] theorem unlessHeld_place (e : Enc) (s : State) (f : State → State) (H : ∀ u, (f u).place.core = u.place.core) : (unlessHeld e s f).place.core = s.place.core := by
  unfold unlessHeld
  first | (simp; done) | ((repeat' (first | split | intro _ | dsimp only )) <;> first | (simp; done) | (simp [*]; done) | (simp_all; done) | (have hh := heldAtPort_place _ _ _ ‹_›; simp [*]; done))

@[simp] theorem inject_place (s : State) (f : Flit) : (inject s f).place.core = s.place.core := by
  unfold inject
  simp

end Sys2Proof.Machine
end

