-- ==== Sys2Proof/Laws/Sparse.lean ====
section
/-!
SUPPORT. Sparse maps and byte memories: what a read gives after a write, and that every operation keeps the canonical
form.
-/

namespace Sys2Proof.Machine

variable {α : Type}

/-! ### A read after a write -/

theorem sget_sput_same (d : α) (m : SMap α) (k : Nat) (v : α) : sget d (sput m k v) k = v := by
  induction m with
  | nil => simp [sput, sget]
  | cons e t ih =>
    obtain ⟨j, x⟩ := e
    simp only [sput]
    split
    · simp [sget]
    · split <;> simp_all [sget]

theorem sget_sput_ne (d : α) (m : SMap α) {k j : Nat} (v : α) (h : j ≠ k) : sget d (sput m k v) j = sget d m j := by
  induction m with
  | nil => simp [sput, sget, h]
  | cons e t ih =>
    obtain ⟨i, x⟩ := e
    simp only [sput]
    split
    · subst_vars; simp [sget, h]
    · split <;> simp_all [sget]

theorem sdel_cons (j : Nat) (x : α) (t : SMap α) (k : Nat) :
    sdel ((j, x) :: t) k = if j = k then sdel t k else (j, x) :: sdel t k := by
  by_cases h : j = k <;> simp [sdel, h]

theorem sget_sdel_same (d : α) (m : SMap α) (k : Nat) : sget d (sdel m k) k = d := by
  induction m with
  | nil => rfl
  | cons e t ih =>
    obtain ⟨i, x⟩ := e
    rw [sdel_cons]
    split
    · exact ih
    · simp [sget, ih, Ne.symm ‹_›]

theorem sget_sdel_ne (d : α) (m : SMap α) {k j : Nat} (h : j ≠ k) : sget d (sdel m k) j = sget d m j := by
  induction m with
  | nil => rfl
  | cons e t ih =>
    obtain ⟨i, x⟩ := e
    rw [sdel_cons]
    split
    · subst_vars; simp [sget, h, ih]
    · simp [sget, ih]

/-! ### The parts of the canonical form -/

theorem sabove_trans {m : SMap α} {i k : Nat} (h : sabove k m = true) (hk : i ≤ k) : sabove i m = true := by
  cases m with
  | nil => rfl
  | cons e t => simp only [sabove, decide_eq_true_eq] at *; omega

theorem sabove_sput {m : SMap α} {i k : Nat} {v : α} (h : sabove i m = true) (hk : i < k) :
    sabove i (sput m k v) = true := by
  cases m with
  | nil => simpa [sput, sabove] using hk
  | cons e t =>
    simp only [sput]
    split
    · simpa [sabove] using hk
    · split <;> simp_all [sabove]

theorem mem_sdel {m : SMap α} {k : Nat} {e : Nat × α} (h : e ∈ sdel m k) : e ∈ m := (List.mem_filter.mp h).1

theorem sabove_of_all {m : SMap α} {k : Nat} (h : ∀ e ∈ m, k < e.1) : sabove k m = true := by
  cases m with
  | nil => rfl
  | cons e t => simpa [sabove] using h e (by simp)

/-! ### Over a default -/

variable [DecidableEq α]

@[simp] theorem sget_sset_same (d : α) (m : SMap α) (k : Nat) (v : α) : sget d (sset d m k v) k = v := by
  unfold sset
  split
  · subst_vars; exact sget_sdel_same _ m k
  · exact sget_sput_same d m k v

@[simp] theorem sget_sset_ne (d : α) (m : SMap α) {k j : Nat} (v : α) (h : j ≠ k) :
    sget d (sset d m k v) j = sget d m j := by
  unfold sset
  split
  · exact sget_sdel_ne d m h
  · exact sget_sput_ne d m v h

theorem sget_sset (d : α) (m : SMap α) (k j : Nat) (v : α) :
    sget d (sset d m k v) j = if j = k then v else sget d m j := by
  by_cases h : j = k
  · subst h; simp
  · simp [h]

theorem sget_smod (d : α) (m : SMap α) (k j : Nat) (f : α → α) :
    sget d (smod d m k f) j = if j = k then f (sget d m k) else sget d m j := by
  simp only [smod, sget_sset]

/-! ### The canonical form -/

theorem swf_sput {d : α} {m : SMap α} {k : Nat} {v : α} (h : swf d m = true) (hv : v ≠ d) :
    swf d (sput m k v) = true := by
  induction m with
  | nil => simp [sput, swf, sabove, hv]
  | cons e t ih =>
    obtain ⟨j, x⟩ := e
    simp only [swf, Bool.and_eq_true, decide_eq_true_eq] at h
    obtain ⟨⟨ha, hx⟩, ht⟩ := h
    simp only [sput]
    split
    · subst_vars; simp [swf, ha, hv, ht]
    · split
      · simp_all [swf, sabove]
      · have hk : j < k := by omega
        simp [swf, hx, ih ht, sabove_sput ha hk]

theorem sabove_all {d : α} {m : SMap α} {k : Nat} (h : sabove k m = true) (hw : swf d m = true) :
    ∀ e ∈ m, k < e.1 := by
  induction m generalizing k with
  | nil => simp
  | cons e t ih =>
    obtain ⟨j, x⟩ := e
    simp only [swf, Bool.and_eq_true, decide_eq_true_eq] at hw
    simp only [sabove, decide_eq_true_eq] at h
    intro e he
    rcases List.mem_cons.mp he with rfl | he
    · exact h
    · exact ih (sabove_trans hw.1.1 (Nat.le_of_lt h)) hw.2 e he

theorem swf_sdel {d : α} {m : SMap α} {k : Nat} (h : swf d m = true) : swf d (sdel m k) = true := by
  induction m with
  | nil => rfl
  | cons e t ih =>
    obtain ⟨j, x⟩ := e
    simp only [swf, Bool.and_eq_true, decide_eq_true_eq] at h
    obtain ⟨⟨ha, hx⟩, ht⟩ := h
    rw [sdel_cons]
    split
    · exact ih ht
    · have hb : sabove j (sdel t k) = true := sabove_of_all fun e he => sabove_all ha ht e (mem_sdel he)
      simp [swf, hb, hx, ih ht]

/-- Setting a key keeps the canonical form, whatever the value. -/
theorem swf_sset {d : α} {m : SMap α} {k : Nat} {v : α} (h : swf d m = true) : swf d (sset d m k v) = true := by
  unfold sset
  split
  · exact swf_sdel h
  · exact swf_sput h ‹_›

theorem swf_smod {d : α} {m : SMap α} {k : Nat} {f : α → α} (h : swf d m = true) : swf d (smod d m k f) = true :=
  swf_sset h

/-! ### Byte memories -/

theorem mrd_mwr (m : List Host.Cell) (a i : Nat) (b : Byte) : mrd (mwr m a b) i = if i = a then b else mrd m i :=
  sget_sset 0 m a i b

theorem mwr_wf {m : List Host.Cell} (a : Nat) (b : Byte) (h : Memory.wf m = true) : Memory.wf (mwr m a b) = true :=
  swf_sset h

/-- Every write of bytes keeps the memory's canonical form. -/
theorem mwrN_wf {m : List Host.Cell} (a : Nat) (bs : List Byte) (h : Memory.wf m = true) :
    Memory.wf (mwrN m a bs) = true := by
  induction bs generalizing m a with
  | nil => exact h
  | cons b t ih => exact ih (a + 1) (mwr_wf a b h)

/-- A byte outside the written ones reads as before. -/
theorem mrd_mwrN_out (m : List Host.Cell) (a : Nat) (bs : List Byte) (i : Nat) (h : i < a ∨ a + bs.length ≤ i) :
    mrd (mwrN m a bs) i = mrd m i := by
  induction bs generalizing m a with
  | nil => rfl
  | cons b t ih =>
    simp only [List.length_cons] at h
    rw [mwrN, ih _ _ (by omega), mrd_mwr, if_neg (by omega)]

/-- A written byte reads as written. -/
theorem mrd_mwrN_in (m : List Host.Cell) (a : Nat) (bs : List Byte) (i : Nat) (h : i < bs.length) :
    mrd (mwrN m a bs) (a + i) = bs[i] := by
  induction bs generalizing m a i with
  | nil => simp at h
  | cons b t ih =>
    rw [mwrN]
    cases i with
    | zero => rw [Nat.add_zero, mrd_mwrN_out _ _ _ _ (by omega), mrd_mwr]; simp
    | succ n =>
      have := ih (mwr m a b) (a + 1) n (by simpa using h)
      rw [show a + (n + 1) = a + 1 + n by omega, this]; rfl

end Sys2Proof.Machine
end

