-- ==== Sys2Proof/Laws/Issue.lean ====
section
/-!
SUPPORT. What is read after a site or a context has been changed, and what the issue of an instruction does.
-/

namespace Sys2Proof.Machine

/-! ### Reading a changed site -/

@[simp] theorem csite_modSite (s : State) (n : Nat) (f : Site → Site) (c : Nat) : csite (modSite s n f) c = csite s c := rfl
@[simp] theorem csite_modCore (s : State) (c : Nat) (f : Site → Site) (d : Nat) : csite (modCore s c f) d = csite s d := rfl
@[simp] theorem csite_modCtx (s : State) (c k : Nat) (f : Ctx → Ctx) (d : Nat) : csite (modCtx s c k f) d = csite s d := rfl
@[simp] theorem csite_bump (s : State) (b i n : Nat) (d : Nat) : csite (bump s b i n) d = csite s d := rfl

theorem getSite_modSite (s : State) (n m : Nat) (f : Site → Site) :
    getSite (modSite s n f) m = if m = n then f (getSite s n) else getSite s m := by
  simp only [getSite, modSite, setSite, sget_sset]

theorem getSite_modCore (s : State) (c m : Nat) (f : Site → Site) :
    getSite (modCore s c f) m = if m = csite s c then f (getSite s (csite s c)) else getSite s m := getSite_modSite ..

@[simp] theorem getSite_bump (s : State) (b i n m : Nat) : getSite (bump s b i n) m = getSite s m := rfl

@[simp] theorem getCore_modCore_same (s : State) (c : Nat) (f : Site → Site) :
    getCore (modCore s c f) c = f (getCore s c) := by
  simp [getCore, getSite_modCore]

@[simp] theorem getCore_bump (s : State) (b i n c : Nat) : getCore (bump s b i n) c = getCore s c := rfl

@[simp] theorem ctx_modCtx_same (x : Site) (k : Nat) (f : Ctx → Ctx) : (x.modCtx k f).ctx k = f (x.ctx k) := by
  simp [Site.ctx, Site.modCtx, sget_smod]

theorem ctx_modCtx_ne (x : Site) {k j : Nat} (f : Ctx → Ctx) (h : j ≠ k) : (x.modCtx k f).ctx j = x.ctx j := by
  simp [Site.ctx, Site.modCtx, sget_smod, h]

@[simp] theorem getCtx_modCtx_same (s : State) (c k : Nat) (f : Ctx → Ctx) : getCtx (modCtx s c k f) c k = f (getCtx s c k) := by
  simp [getCtx, modCtx]

theorem getCtx_modCtx_ne (s : State) (c : Nat) {k j : Nat} (f : Ctx → Ctx) (h : j ≠ k) :
    getCtx (modCtx s c k f) c j = getCtx s c j := by
  simp [getCtx, modCtx, ctx_modCtx_ne _ _ h]

@[simp] theorem getCtx_bump (s : State) (b i n c k : Nat) : getCtx (bump s b i n) c k = getCtx s c k := rfl

/-! ### Registers of a context (R64) -/

theorem Ctx.s_setS (x : Ctx) (r q : BitVec 5) (v : W64) : (x.setS r v).s q = if q = r ∧ q ≠ 0 then v else x.s q := by
  by_cases hr : r = 0
  · subst hr
    have : ¬(q = 0 ∧ q ≠ 0) := fun h => h.2 h.1
    rw [Ctx.setS, if_pos rfl, if_neg this]
  · rw [Ctx.setS, if_neg hr]
    unfold Ctx.s
    by_cases hq : q = 0
    · simp only [hq, if_true, ne_eq, not_true_eq_false, and_false, if_false]
    · have hn : q.toNat = r.toNat ↔ q = r := BitVec.toNat_inj
      simp only [hq, if_false, sget_sset, hn, ne_eq, not_false_eq_true, and_true]

theorem Ctx.a_setA (x : Ctx) (r q : BitVec 5) (v : W64) : (x.setA r v).a q = if q = r then v else x.a q := by
  have hn : q.toNat = r.toNat ↔ q = r := BitVec.toNat_inj
  simp [Ctx.a, Ctx.setA, sget_sset, hn]

/-! ### Issue (R59 to R61, R66, R76) -/

/-- An instruction that issues does what f does in the state that has issued it. -/
theorem issue_next {h : Shape} {e : Enc} {s : State} (hi : Issues h e s) (f : State → State) :
    issue h e s f = .next (f (issued e s)) := by
  obtain ⟨h1, h2, h3, h4⟩ := hi
  obtain ⟨u, hu⟩ := Option.isSome_iff_exists.mp h3
  have h2' : ¬nearSize ≤ (getCtx s e.core e.ctx).pc.toNat := Nat.not_le.mpr h2
  simp [issue, issued, h1, h2', hu, h4, done]

/-- What an issue that does not execute the instruction comes to: nothing at all, or a trap. -/
theorem issue_not {h : Shape} {e : Enc} {s : State} (f : State → State) (hc : canIssue s e = false) :
    issue h e s f = .next s := by
  simp [issue, hc, cannot]

/-! ### Nothing but a context changes -/

theorem countIssue_eq (s : State) (c k : Nat) :
    countIssue s c k = modCtx (bump s (siteBlock (csite s c)) 0 1) c k fun y =>
      { y with quantum := if otherReady (getCore s c) k then y.quantum + 1 else 0 } := rfl

theorem fetchRow_eq {s u : State} {c k : Nat} (h : fetchRow s c k = some u) :
    ∃ f : Ctx → List (Nat × List Byte), u = modCtx s c k fun y => { y with rowBuf := f y } := by
  unfold fetchRow at h
  dsimp only at h
  split at h
  · exact ⟨_, (Option.some.inj h).symm⟩
  · split at h
    · contradiction
    · exact ⟨_, (Option.some.inj h).symm⟩

/-- An issued instruction has changed its context's row buffer and quantum, and the core's count of instructions. -/
theorem issued_eq {h : Shape} {e : Enc} {s : State} (hi : Issues h e s) :
    ∃ (f : Ctx → List (Nat × List Byte)) (g : Ctx → Nat), issued e s =
      modCtx (bump (modCtx s e.core e.ctx fun y => { y with rowBuf := f y }) (siteBlock (csite s e.core)) 0 1) e.core e.ctx
        fun y => { y with quantum := g y } := by
  obtain ⟨u, hu⟩ := Option.isSome_iff_exists.mp hi.2.2.1
  obtain ⟨f, hf⟩ := fetchRow_eq hu
  refine ⟨f, fun y => if otherReady (getCore u e.core) e.ctx then y.quantum + 1 else 0, ?_⟩
  rw [issued, hu, Option.getD_some, countIssue_eq, hf]
  rfl

theorem getSite_modCtx (s : State) (c k n : Nat) (f : Ctx → Ctx) :
    getSite (modCtx s c k f) n = if n = csite s c then (getSite s (csite s c)).modCtx k f else getSite s n :=
  getSite_modCore ..

/-- What changes one context changes nothing that OnlyContext forbids. -/
theorem onlyContext_modCtx {e : Enc} {s t : State} (f : Ctx → Ctx) (h : OnlyContext e s t) :
    OnlyContext e s (modCtx t e.core e.ctx f) := by
  obtain ⟨⟨h1, h2, h3, h4⟩, h5, h6, h7⟩ := h
  obtain ⟨u, r, rfl⟩ : ∃ u r, t = { s with sites := u, regs := r } := ⟨_, _, h1⟩
  have hp (c : Nat) : csite ({ s with sites := u, regs := r } : State) c = csite s c := rfl
  refine ⟨⟨rfl, h2, h3, fun n hn => ?_⟩, ⟨fun n a => ?_, fun n a => ?_, h5.2.2⟩, ?_, fun j hj => ?_⟩
  · rw [getSite_modCtx, hp, if_neg hn, h4 n hn]
  · rw [getSite_modCtx, ← h5.1 n a]
    split
    · subst_vars; rfl
    · rfl
  · rw [getSite_modCtx, ← h5.2.1 n a]
    split
    · subst_vars; rfl
    · rfl
  · rw [modCtx, getCore_modCore_same, h6]
    rfl
  · rw [getCtx_modCtx_ne _ _ _ hj, h7 j hj]

theorem sget_bump (s : State) (b i n j : Nat) :
    sget 0 (bump s b i n).regs.ctrs j = sget 0 s.regs.ctrs j + (if j = b * 64 + i then BitVec.ofNat 64 n else 0) := by
  simp only [bump, sget_smod]
  split
  · subst_vars; rfl
  · simp

/-- The issue of an instruction changes only its context, and what it changes there are the row buffer and the quantum. -/
theorem issued_onlyContext {h : Shape} {e : Enc} {s : State} (hi : Issues h e s) : OnlyContext e s (issued e s) := by
  obtain ⟨f, g, hu⟩ := issued_eq hi
  rw [hu]
  apply onlyContext_modCtx
  refine ⟨⟨rfl, rfl, fun i => ?_, fun n hn => ?_⟩, ⟨fun n a => ?_, fun n a => ?_, fun a => rfl⟩, ?_, fun j hj => ?_⟩
  · rw [sget_bump]
    rfl
  · rw [getSite_bump, getSite_modCtx, if_neg hn]
  · rw [getSite_bump, getSite_modCtx]
    split
    · subst_vars; rfl
    · rfl
  · rw [getSite_bump, getSite_modCtx]
    split
    · subst_vars; rfl
    · rfl
  · rw [getCore_bump, modCtx, getCore_modCore_same]
    rfl
  · rw [getCtx_bump, getCtx_modCtx_ne _ _ _ hj]

theorem issued_ctx {h : Shape} {e : Enc} {s : State} (hi : Issues h e s) : CtxIs e (issued e s) (e.x s) := by
  obtain ⟨f, g, hu⟩ := issued_eq hi
  unfold CtxIs Enc.x
  rw [hu]
  simp only [getCtx_modCtx_same, getCtx_bump]

/-- Registers, PC and control registers are as before while the instruction acts. -/
theorem issued_read {h : Shape} {e : Enc} {s : State} (hi : Issues h e s) :
    (∀ r, (e.x (issued e s)).s r = (e.x s).s r) ∧ (∀ r, (e.x (issued e s)).a r = (e.x s).a r) ∧
    (e.x (issued e s)).pc = (e.x s).pc ∧ (e.x (issued e s)).st = .issuing ∧ (e.x (issued e s)).wait = .none := by
  have hc := issued_ctx hi
  unfold CtxIs at hc
  have h1 := hi.1
  simp only [canIssue, Bool.and_eq_true, decide_eq_true_eq] at h1
  have hst : (e.x s).st = .issuing := h1.1.1.1.1.2
  have hw : (e.x s).wait = .none := h1.1.1.1.2
  rw [hc]
  exact ⟨fun r => rfl, fun r => rfl, rfl, hst, hw⟩

/-- An instruction that is finished leaves its PC at the next. -/
theorem retire_ctx {e : Enc} {t : State} (hst : (e.x t).st = .issuing) (hw : (e.x t).wait = .none) :
    e.x (retire t e.core e.ctx) = { e.x t with pc := (e.x t).pc + 8 } := by
  unfold Enc.x at *
  simp only [retire, getCtx_modCtx_same, hst, reduceCtorEq, or_self, if_false]
  rw [← hw]

/-- An instruction that writes s[RD] and is finished. -/
theorem writesS_of {i : Instr} {h : Shape} {e : Enc} {s : State} {v : W64} (hi : Issues h e s)
    (hx : exec i s = .next (wrS e (issued e s) v)) : WritesS i e s v := by
  obtain ⟨hs, -, hpc, hst, hw⟩ := issued_read hi
  have hc := issued_ctx hi
  have hset (r : BitVec 5) (x : Ctx) : (x.setS r v) = { x with sregs := (x.setS r v).sregs } := by
    unfold Ctx.setS
    split <;> rfl
  have key : e.x (wrS e (issued e s) v) = { (e.x (issued e s)).setS e.rd v with pc := (e.x s).pc + 8 } := by
    rw [wrS, retire_ctx]
    · have hpc' : (getCtx (issued e s) e.core e.ctx).pc = (getCtx s e.core e.ctx).pc := hpc
      simp only [Enc.x, getCtx_modCtx_same]
      rw [hset]
      simp only [hpc']
    · simp only [Enc.x, getCtx_modCtx_same]
      rw [hset]
      exact hst
    · simp only [Enc.x, getCtx_modCtx_same]
      rw [hset]
      exact hw
  refine ⟨_, hx, onlyContext_modCtx _ (onlyContext_modCtx _ (issued_onlyContext hi)), ?_, fun r => ?_⟩
  · unfold CtxIs at hc ⊢
    rw [key, hset, hc]
  · rw [key]
    show ((e.x (issued e s)).setS e.rd v).s r = _
    rw [Ctx.s_setS, hs]
/-- An instruction that writes a[RD] and is finished. -/
theorem writesA_of {i : Instr} {h : Shape} {e : Enc} {s : State} {v : W64} (hi : Issues h e s)
    (hx : exec i s = .next (wrA e (issued e s) v)) : WritesA i e s v := by
  obtain ⟨-, ha, hpc, hst, hw⟩ := issued_read hi
  have hpc' : (getCtx (issued e s) e.core e.ctx).pc = (getCtx s e.core e.ctx).pc := hpc
  have hc := issued_ctx hi
  have key : e.x (wrA e (issued e s) v) = { (e.x (issued e s)).setA e.rd v with pc := (e.x s).pc + 8 } := by
    rw [wrA, retire_ctx]
    · simp only [Enc.x, getCtx_modCtx_same, Ctx.setA, hpc']
    · simp only [Enc.x, getCtx_modCtx_same, Ctx.setA]
      exact hst
    · simp only [Enc.x, getCtx_modCtx_same, Ctx.setA]
      exact hw
  refine ⟨_, hx, onlyContext_modCtx _ (onlyContext_modCtx _ (issued_onlyContext hi)), ?_, fun r => ?_⟩
  · unfold CtxIs at hc ⊢
    rw [key, Ctx.setA, hc]
  · rw [key]
    show ((e.x (issued e s)).setA e.rd v).a r = _
    rw [Ctx.a_setA, ha]

/-- An instruction that only moves the PC. -/
theorem jumps_of {i : Instr} {h : Shape} {e : Enc} {s : State} {a : W64} (hi : Issues h e s)
    (hx : exec i s = .next (modCtx (issued e s) e.core e.ctx fun y => { y with pc := a })) : Jumps i e s a := by
  have hc := issued_ctx hi
  refine ⟨_, hx, onlyContext_modCtx _ (issued_onlyContext hi), ?_⟩
  unfold CtxIs at hc ⊢
  simp only [Enc.x, getCtx_modCtx_same] at hc ⊢
  rw [hc]


end Sys2Proof.Machine
end

