-- ==== Sys2Proof/Laws/Memory.lean ====
section
/-!
SUPPORT. Every operation on near memory, terraces and far memory keeps the canonical form, and each changes the bytes that
it names.
-/

namespace Sys2Proof.Machine

/-- Every memory of the module is in canonical form. -/
def memWf (s : State) : Prop :=
  Memory.wf s.far.mem = true ∧ ∀ n, Memory.wf (getSite s n).near = true ∧ Memory.wf (getSite s n).terr = true

theorem reset_memWf : memWf State.reset := ⟨rfl, fun _ => ⟨rfl, rfl⟩⟩

theorem sabove_filter {m : List Host.Cell} {k : Nat} (p : Host.Cell → Bool) (h : sabove k m = true) (hw : Memory.wf m = true) :
    sabove k (m.filter p) = true := by
  have hall := sabove_all h hw
  cases hf : m.filter p with
  | nil => rfl
  | cons c t =>
    have : c ∈ m := (List.mem_filter.mp (hf ▸ List.mem_cons_self : c ∈ m.filter p)).1
    simpa [sabove] using hall c this

/-- Cells taken out of a memory leave it in canonical form. -/
theorem filter_wf {m : List Host.Cell} (p : Host.Cell → Bool) (h : Memory.wf m = true) : Memory.wf (m.filter p) = true := by
  induction m with
  | nil => rfl
  | cons c t ih =>
    obtain ⟨j, x⟩ := c
    have h' := h
    simp only [Memory.wf, swf, Bool.and_eq_true, decide_eq_true_eq] at h
    obtain ⟨⟨ha, hx⟩, ht⟩ := h
    simp only [List.filter_cons]
    split
    · simp only [Memory.wf, swf, Bool.and_eq_true, decide_eq_true_eq]
      exact ⟨⟨sabove_filter p ha ht, hx⟩, ih ht⟩
    · exact ih ht

theorem foldl_wf {β : Type} (l : List β) (f : List Host.Cell → β → List Host.Cell) {m : List Host.Cell}
    (hf : ∀ m b, Memory.wf m = true → Memory.wf (f m b) = true) (h : Memory.wf m = true) : Memory.wf (l.foldl f m) = true := by
  induction l generalizing m with
  | nil => exact h
  | cons b t ih => exact ih (hf m b h)

theorem movePage_wf {m : List Host.Cell} (pa pb : Nat) (h : Memory.wf m = true) : Memory.wf (movePage m pa pb) = true :=
  foldl_wf _ _ (fun _ _ hm => mwr_wf _ _ hm) (filter_wf _ h)

theorem memWf_modSite {s : State} (n : Nat) (f : Site → Site) (h : memWf s)
    (hf : Memory.wf (f (getSite s n)).near = true ∧ Memory.wf (f (getSite s n)).terr = true) : memWf (modSite s n f) := by
  refine ⟨h.1, fun m => ?_⟩
  unfold modSite setSite getSite
  dsimp only
  rw [sget_sset]
  split
  · exact hf
  · exact h.2 m

theorem nearWrite_memWf {s : State} (site off : Nat) (bs : List Byte) (h : memWf s) : memWf (nearWrite s site off bs) :=
  memWf_modSite site _ h ⟨mwrN_wf _ _ (h.2 site).1, (h.2 site).2⟩

theorem terrWrite_memWf {s : State} (site off : Nat) (bs : List Byte) (h : memWf s) : memWf (terrWrite s site off bs) :=
  memWf_modSite site _ h ⟨(h.2 site).1, mwrN_wf _ _ (h.2 site).2⟩

theorem terrPoison_memWf {s : State} (site off n : Nat) (h : memWf s) : memWf (terrPoison s site off n) :=
  memWf_modSite site _ h ⟨(h.2 site).1, mwrN_wf _ _ (h.2 site).2⟩

theorem foldl_modEnt_far (l : List Nat) (f : CadEntry → CadEntry) (s : State) :
    (l.foldl (fun s k => modEnt s k f) s).far.mem = s.far.mem ∧ (l.foldl (fun s k => modEnt s k f) s).sites = s.sites := by
  induction l generalizing s with
  | nil => exact ⟨rfl, rfl⟩
  | cons k t ih => exact ih _

theorem farPut_memWf {s : State} (fa : Nat) (bs : List Byte) (h : memWf s) : memWf (farPut s fa bs) := by
  unfold farPut
  dsimp only
  refine ⟨?_, fun n => ?_⟩
  · rw [(foldl_modEnt_far _ _ _).1]
    exact foldl_wf _ _ (fun _ _ hm => mwr_wf _ _ hm) h.1
  · unfold getSite
    rw [(foldl_modEnt_far _ _ _).2]
    exact h.2 n

theorem zeroPage_memWf {s : State} (ppn : Nat) (h : memWf s) : memWf (zeroPage s ppn) := ⟨filter_wf _ h.1, h.2⟩

/-- What a page's zero-fill leaves: the page's bytes read as zero, every other byte as before. -/
theorem mrd_filter (m : List Host.Cell) (p : Nat → Bool) (a : Nat) :
    mrd (m.filter fun c => p c.1) a = if p a then mrd m a else 0 := by
  induction m with
  | nil => simp [mrd, sget]
  | cons c t ih =>
    obtain ⟨j, x⟩ := c
    simp only [List.filter_cons]
    by_cases hj : a = j
    · subst hj
      by_cases hp : p a = true
      · simp [hp, mrd, sget]
      · simp only [hp, if_false, Bool.false_eq_true] at ih ⊢
        exact ih
    · by_cases hp : p j = true
      · simp only [hp, if_true, mrd, sget, hj, if_false] at ih ⊢
        exact ih
      · simp only [hp, Bool.false_eq_true, if_false, mrd, sget, hj] at ih ⊢
        exact ih

theorem mrd_zeroPage (s : State) (ppn a : Nat) :
    mrd (zeroPage s ppn).far.mem a = if decide (a / 2 ^ 24 ≠ ppn) = true then mrd s.far.mem a else 0 :=
  mrd_filter s.far.mem (fun a => decide (a / 2 ^ 24 ≠ ppn)) a

/-- A near write changes exactly its bytes. -/
theorem mrd_nearWrite (s : State) (site off : Nat) (bs : List Byte) (n a : Nat) :
    mrd (getSite (nearWrite s site off bs) n).near a =
      if n = site ∧ off ≤ a ∧ a < off + bs.length then bs.getD (a - off) 0 else mrd (getSite s n).near a := by
  unfold nearWrite modSite setSite getSite
  dsimp only
  rw [sget_sset]
  by_cases hn : n = site
  · subst hn
    simp only [if_true, true_and]
    by_cases h : off ≤ a ∧ a < off + bs.length
    · obtain ⟨i, rfl⟩ := Nat.exists_eq_add_of_le h.1
      have hi : i < bs.length := by omega
      rw [mrd_mwrN_in _ _ _ _ hi, if_pos h]
      simp [List.getD_eq_getElem?_getD, hi]
    · rw [mrd_mwrN_out _ _ _ _ (by omega), if_neg h]
  · simp [hn]

/-- A terrace write changes exactly its bytes. -/
theorem mrd_terrWrite (s : State) (site off : Nat) (bs : List Byte) (n a : Nat) :
    mrd (getSite (terrWrite s site off bs) n).terr a =
      if n = site ∧ off ≤ a ∧ a < off + bs.length then bs.getD (a - off) 0 else mrd (getSite s n).terr a := by
  unfold terrWrite modSite setSite getSite
  dsimp only
  rw [sget_sset]
  by_cases hn : n = site
  · subst hn
    simp only [if_true, true_and]
    by_cases h : off ≤ a ∧ a < off + bs.length
    · obtain ⟨i, rfl⟩ := Nat.exists_eq_add_of_le h.1
      have hi : i < bs.length := by omega
      rw [mrd_mwrN_in _ _ _ _ hi, if_pos h]
      simp [List.getD_eq_getElem?_getD, hi]
    · rw [mrd_mwrN_out _ _ _ _ (by omega), if_neg h]
  · simp [hn]

end Sys2Proof.Machine
end

