-- ==== Sys2Proof/Laws/PlaceBeacon.lean ====
section
/-!
SUPPORT. What the operations of Machine/Beacon.lean do to the placement of cores: nothing.
-/

namespace Sys2Proof.Machine

open Host (Outcome)

@[simp] theorem sendBeacon_place (s : State) (c k b : Nat) (op : BeaconOp) : (sendBeacon s c k b op).place.core = s.place.core := by
  unfold sendBeacon
  simp

theorem attUpdate_place (op : Ctx → BeaconOp) (e : Enc) (s : State) : ∀ t, attUpdate op e s = some t → t.place.core = s.place.core := by
  intro t h
  unfold attUpdate at h
  repeat' (first | split at h | dsimp only at h)
  all_goals first | contradiction | exact heldAtPort_place _ _ _ h | (simp only [Option.some.injEq, Except.ok.injEq] at h; subst h; first | (simp; done) | (simp [*]; done) | (simp_all; done) | (have hh := heldAtPort_place _ _ _ ‹_›; simp [*]; done))

@[simp] theorem beaconUpdate_place (op : Ctx → BeaconOp) (o : WaitOp) (h : Shape) (e : Enc) (s : State) : (after s (beaconUpdate op o h e s)).place.core = s.place.core := by
  unfold beaconUpdate
  repeat' (first | split | apply issue_place | apply orWait_place | intro _ | dsimp only)
  all_goals first | simp; done | (have hh := attUpdate_place _ _ _ _ ‹_›; simp [*]; done)

@[simp] theorem execArrive_place (e : Enc) (s : State) : (after s (execArrive e s)).place.core = s.place.core := by
  unfold execArrive
  simp

@[simp] theorem execBeaconAdd_place (e : Enc) (s : State) : (after s (execBeaconAdd e s)).place.core = s.place.core := by
  unfold execBeaconAdd
  simp

@[simp] theorem execBeaconSet_place (e : Enc) (s : State) : (after s (execBeaconSet e s)).place.core = s.place.core := by
  unfold execBeaconSet
  simp

@[simp] theorem execBeaconWait_place (e : Enc) (s : State) : (after s (execBeaconWait e s)).place.core = s.place.core := by
  unfold execBeaconWait
  simp

@[simp] theorem reply_place (s : State) (core ctx : Nat) (status : W32) : (reply s core ctx status).place.core = s.place.core := by
  unfold reply
  simp

@[simp] theorem setBeacon_place (s : State) (b : Nat) (v : W32) : (setBeacon s b v).place.core = s.place.core := by
  unfold setBeacon
  simp

@[simp] theorem waitAtRoot_place (s : State) (m : BeaconMsg) (v : W32) : (waitAtRoot s m v).place.core = s.place.core := by
  unfold waitAtRoot
  simp

@[simp] theorem applyBeacon_place (s : State) (m : BeaconMsg) : (applyBeacon s m).place.core = s.place.core := by
  unfold applyBeacon
  repeat' split
  all_goals simp

@[simp] theorem execBeaconMessageAtRoot_place (n : Nat) (s : State) : (after s (execBeaconMessageAtRoot n s)).place.core = s.place.core := by
  unfold execBeaconMessageAtRoot
  repeat' split
  all_goals simp

@[simp] theorem execBeaconWake_place (core ctx : Nat) (s : State) : (after s (execBeaconWake core ctx s)).place.core = s.place.core := by
  unfold execBeaconWake
  repeat' (first | split | intro _ | dsimp only)
  all_goals simp

@[simp] theorem dropWaits_place (s : State) (c k : Nat) : (dropWaits s c k).place.core = s.place.core := by
  unfold dropWaits
  simp

@[simp] theorem unitArrive_place (s : State) (c b : Nat) (v : Nat) : (unitArrive s c b v).place.core = s.place.core := by
  unfold unitArrive
  simp

end Sys2Proof.Machine
end

