-- ==== Sys2Proof/Laws/PlaceControl.lean ====
section
/-!
SUPPORT. What the operations of Machine/Control.lean do to the placement of cores: nothing.
-/

namespace Sys2Proof.Machine

open Host (Outcome)

@[simp] theorem jump_place (e : Enc) (s : State) (a : W64) : (jump e s a).place.core = s.place.core := by
  unfold jump
  simp

@[simp] theorem branchIf_place (h : Shape) (p : Ctx → Bool) (e : Enc) (s : State) : (after s (branchIf h p e s)).place.core = s.place.core := by
  unfold branchIf
  simp

@[simp] theorem execBr_place (e : Enc) (s : State) : (after s (execBr e s)).place.core = s.place.core := by
  unfold execBr
  simp

@[simp] theorem execBz_place (e : Enc) (s : State) : (after s (execBz e s)).place.core = s.place.core := by
  unfold execBz
  simp

@[simp] theorem execBnz_place (e : Enc) (s : State) : (after s (execBnz e s)).place.core = s.place.core := by
  unfold execBnz
  simp

@[simp] theorem execBlt_place (e : Enc) (s : State) : (after s (execBlt e s)).place.core = s.place.core := by
  unfold execBlt
  simp

@[simp] theorem execBge_place (e : Enc) (s : State) : (after s (execBge e s)).place.core = s.place.core := by
  unfold execBge
  simp

@[simp] theorem execJal_place (e : Enc) (s : State) : (after s (execJal e s)).place.core = s.place.core := by
  unfold execJal
  simp

@[simp] theorem execJr_place (e : Enc) (s : State) : (after s (execJr e s)).place.core = s.place.core := by
  unfold execJr
  simp

@[simp] theorem execRdcr_place (e : Enc) (s : State) : (after s (execRdcr e s)).place.core = s.place.core := by
  unfold execRdcr
  repeat' (first | split | apply issue_place | intro _ | dsimp only)
  all_goals simp

@[simp] theorem writeValloc_place (s : State) (e : Enc) (v : W64) : (writeValloc s e v).place.core = s.place.core := by
  unfold writeValloc
  simp

@[simp] theorem writeCairnCr_place (s : State) (e : Enc) (i : Nat) (v : W64) : (writeCairnCr s e i v).place.core = s.place.core := by
  unfold writeCairnCr
  simp

@[simp] theorem writeNgcfg_place (s : State) (e : Enc) (v : W64) : (writeNgcfg s e v).place.core = s.place.core := by
  unfold writeNgcfg
  simp

@[simp] theorem writeCr_place (s : State) (e : Enc) (word : W64) (i : Nat) (v : W64) : (writeCr s e word i v).place.core = s.place.core := by
  unfold writeCr
  repeat' split
  all_goals simp

@[simp] theorem execWrcr_place (e : Enc) (s : State) : (after s (execWrcr e s)).place.core = s.place.core := by
  unfold execWrcr
  simp

@[simp] theorem becomeIdle_place (s : State) (c k : Nat) : (becomeIdle s c k).place.core = s.place.core := by
  unfold becomeIdle
  simp

theorem attHalt_place (e : Enc) (s : State) : ∀ t, attHalt e s = some t → t.place.core = s.place.core := by
  intro t h
  unfold attHalt at h
  repeat' (first | split at h | dsimp only at h)
  all_goals first | contradiction | exact heldAtPort_place _ _ _ h | (simp only [Option.some.injEq, Except.ok.injEq] at h; subst h; first | (simp; done) | (simp [*]; done) | (simp_all; done) | (have hh := heldAtPort_place _ _ _ ‹_›; simp [*]; done))

@[simp] theorem execHalt_place (e : Enc) (s : State) : (after s (execHalt e s)).place.core = s.place.core := by
  unfold execHalt
  repeat' (first | split | apply issue_place | apply orWait_place | intro _ | dsimp only)
  all_goals first | simp; done | (have hh := attHalt_place _ _ _ ‹_›; simp [*]; done)

@[simp] theorem execSwTrap_place (e : Enc) (s : State) : (after s (execSwTrap e s)).place.core = s.place.core := by
  unfold execSwTrap
  simp

@[simp] theorem execYield_place (e : Enc) (s : State) : (after s (execYield e s)).place.core = s.place.core := by
  unfold execYield
  simp

@[simp] theorem execQuantumExpiry_place (core : Nat) (s : State) : (after s (execQuantumExpiry core s)).place.core = s.place.core := by
  unfold execQuantumExpiry
  repeat' (first | split | intro _ | dsimp only)
  all_goals simp

@[simp] theorem execStallBecomesSwitchEligible_place (core ctx : Nat) (s : State) : (after s (execStallBecomesSwitchEligible core ctx s)).place.core = s.place.core := by
  unfold execStallBecomesSwitchEligible
  repeat' (first | split | intro _ | dsimp only)
  all_goals simp

@[simp] theorem execContextSelect_place (core : Nat) (s : State) : (after s (execContextSelect core s)).place.core = s.place.core := by
  unfold execContextSelect
  repeat' (first | split | intro _ | dsimp only)
  all_goals simp

end Sys2Proof.Machine
end

