-- ==== Sys2Proof/Laws/PlaceCopy.lean ====
section
/-!
SUPPORT. What the operations of Machine/Copy.lean do to the placement of cores: nothing.
-/

namespace Sys2Proof.Machine

open Host (Outcome)

@[simp] theorem modChan_place (s : State) (c ch : Nat) (f : Chan → Chan) : (modChan s c ch f).place.core = s.place.core := by
  unfold modChan
  simp

theorem attCpy_place (e : Enc) (s : State) : ∀ t, attCpy e s = some t → t.place.core = s.place.core := by
  intro t h
  unfold attCpy at h
  repeat' (first | split at h | dsimp only at h)
  all_goals first | contradiction | exact heldAtPort_place _ _ _ h | (simp only [Option.some.injEq, Except.ok.injEq] at h; subst h; first | (simp; done) | (simp [*]; done) | (simp_all; done) | (have hh := heldAtPort_place _ _ _ ‹_›; simp [*]; done))

@[simp] theorem execCpy_place (e : Enc) (s : State) : (after s (execCpy e s)).place.core = s.place.core := by
  unfold execCpy
  repeat' (first | split | apply issue_place | apply orWait_place | intro _ | dsimp only)
  all_goals first | simp; done | (have hh := attCpy_place _ _ _ ‹_›; simp [*]; done)

theorem attCpyw_place (e : Enc) (s : State) : ∀ t, attCpyw e s = some t → t.place.core = s.place.core := by
  intro t h
  unfold attCpyw at h
  repeat' (first | split at h | dsimp only at h)
  all_goals first | contradiction | (simp only [Option.some.injEq, Except.ok.injEq] at h; subst h; first | (simp; done) | (simp [*]; done) | (simp_all; done))

@[simp] theorem execCpyw_place (e : Enc) (s : State) : (after s (execCpyw e s)).place.core = s.place.core := by
  unfold execCpyw
  repeat' (first | split | apply issue_place | apply orWait_place | intro _ | dsimp only)
  all_goals first | simp; done | (have hh := attCpyw_place _ _ _ ‹_›; simp [*]; done)

@[simp] theorem execCpyq_place (e : Enc) (s : State) : (after s (execCpyq e s)).place.core = s.place.core := by
  unfold execCpyq
  simp

theorem putAll_place (s : State) (c : Nat) (sp : Spaces) (l : List Wr) :
    ∀ t, putAll s c sp l = .ok t → t.place.core = s.place.core := by
  induction l generalizing s with
  | nil => intro t h; simp only [putAll, Except.ok.injEq] at h; subst h; rfl
  | cons w l ih =>
    intro t h
    unfold putAll at h
    cases hw : engPut s c sp w.1 w.2 with
    | error e => rw [hw] at h; contradiction
    | ok u =>
      rw [hw] at h
      rw [ih u t h]
      exact engPut_place _ _ _ _ _ _ hw

@[simp] theorem countTile_place (s : State) (c : Nat) (b : List Byte) (t : Nat) (parts : SMap (List Byte)) (ws : List Wr) : (countTile s c b t parts ws).2.place.core = s.place.core := by
  unfold countTile
  repeat' (first | split | intro _ | dsimp only)
  all_goals simp

theorem writeAll_place (s : State) (c unit : Nat) (sp : Spaces) (l : List Wr) :
    ∀ t, writeAll s c unit sp l = .ok t → t.place.core = s.place.core := by
  induction l generalizing s with
  | nil => intro t h; simp only [writeAll, Except.ok.injEq] at h; subst h; rfl
  | cons w l ih =>
    intro t h
    unfold writeAll at h
    cases hw : engWrite s c unit sp w.1 w.2 with
    | error e => rw [hw] at h; contradiction
    | ok u =>
      rw [hw] at h
      rw [ih u t h]
      exact engWrite_place _ _ _ _ _ _ _ hw

end Sys2Proof.Machine
end

