-- ==== Sys2Proof/Laws/PlaceVector.lean ====
section
/-!
SUPPORT. What the operations of Machine/Vector.lean do to the placement of cores: nothing.
-/

namespace Sys2Proof.Machine

open Host (Outcome)

@[simp] theorem owning_place (e : Enc) (rs : List Nat) (s : State) (f : State → State) (H : ∀ u, (f u).place.core = u.place.core) : (owning e rs s f).place.core = s.place.core := by
  unfold owning
  repeat' (first | split | intro _ | dsimp only)
  all_goals simp_all

@[simp] theorem wrV_place (e : Enc) (s : State) (ls : List W32) : (wrV e s ls).place.core = s.place.core := by
  unfold wrV
  simp

@[simp] theorem lane1_place (op : Nat) (f : W32 → W32) (e : Enc) (s : State) : (after s (lane1 op f e s)).place.core = s.place.core := by
  unfold lane1
  simp

@[simp] theorem lane2_place (op : Nat) (f : W32 → W32 → W32) (e : Enc) (s : State) : (after s (lane2 op f e s)).place.core = s.place.core := by
  unfold lane2
  simp

@[simp] theorem lane3_place (op : Nat) (f : W32 → W32 → W32 → W32) (e : Enc) (s : State) : (after s (lane3 op f e s)).place.core = s.place.core := by
  unfold lane3
  simp

@[simp] theorem execVadd_place (e : Enc) (s : State) : (after s (execVadd e s)).place.core = s.place.core := by
  unfold execVadd
  simp

@[simp] theorem execVsub_place (e : Enc) (s : State) : (after s (execVsub e s)).place.core = s.place.core := by
  unfold execVsub
  simp

@[simp] theorem execVmul_place (e : Enc) (s : State) : (after s (execVmul e s)).place.core = s.place.core := by
  unfold execVmul
  simp

@[simp] theorem execVfma_place (e : Enc) (s : State) : (after s (execVfma e s)).place.core = s.place.core := by
  unfold execVfma
  simp

@[simp] theorem execVmax_place (e : Enc) (s : State) : (after s (execVmax e s)).place.core = s.place.core := by
  unfold execVmax
  simp

@[simp] theorem execVmin_place (e : Enc) (s : State) : (after s (execVmin e s)).place.core = s.place.core := by
  unfold execVmin
  simp

@[simp] theorem execVabs_place (e : Enc) (s : State) : (after s (execVabs e s)).place.core = s.place.core := by
  unfold execVabs
  simp

@[simp] theorem execVneg_place (e : Enc) (s : State) : (after s (execVneg e s)).place.core = s.place.core := by
  unfold execVneg
  simp

@[simp] theorem execVrcp_place (e : Enc) (s : State) : (after s (execVrcp e s)).place.core = s.place.core := by
  unfold execVrcp
  simp

@[simp] theorem execVsqrt_place (e : Enc) (s : State) : (after s (execVsqrt e s)).place.core = s.place.core := by
  unfold execVsqrt
  simp

@[simp] theorem execVrsqrt_place (e : Enc) (s : State) : (after s (execVrsqrt e s)).place.core = s.place.core := by
  unfold execVrsqrt
  simp

@[simp] theorem execVexp2_place (e : Enc) (s : State) : (after s (execVexp2 e s)).place.core = s.place.core := by
  unfold execVexp2
  simp

@[simp] theorem execVlog2_place (e : Enc) (s : State) : (after s (execVlog2 e s)).place.core = s.place.core := by
  unfold execVlog2
  simp

@[simp] theorem execVsel_place (e : Enc) (s : State) : (after s (execVsel e s)).place.core = s.place.core := by
  unfold execVsel
  simp

@[simp] theorem execVcmplt_place (e : Enc) (s : State) : (after s (execVcmplt e s)).place.core = s.place.core := by
  unfold execVcmplt
  simp

@[simp] theorem execViadd_place (e : Enc) (s : State) : (after s (execViadd e s)).place.core = s.place.core := by
  unfold execViadd
  simp

@[simp] theorem reduce_place (op : Nat) (f : W32 → W32 → W32) (e : Enc) (s : State) : (after s (reduce op f e s)).place.core = s.place.core := by
  unfold reduce
  simp

@[simp] theorem execVrsum_place (e : Enc) (s : State) : (after s (execVrsum e s)).place.core = s.place.core := by
  unfold execVrsum
  simp

@[simp] theorem execVrmax_place (e : Enc) (s : State) : (after s (execVrmax e s)).place.core = s.place.core := by
  unfold execVrmax
  simp

@[simp] theorem execVbcast_place (e : Enc) (s : State) : (after s (execVbcast e s)).place.core = s.place.core := by
  unfold execVbcast
  simp

@[simp] theorem execVmovs_place (e : Enc) (s : State) : (after s (execVmovs e s)).place.core = s.place.core := by
  unfold execVmovs
  simp

theorem attVld_place (d : Bool) (e : Enc) (s : State) : ∀ t, attVld d e s = some t → t.place.core = s.place.core := by
  intro t h
  unfold attVld at h
  repeat' (first | split at h | dsimp only at h)
  all_goals first | contradiction | (simp only [Option.some.injEq, Except.ok.injEq] at h; subst h; first | (simp; done) | (simp [*]; done) | (simp_all; done))

@[simp] theorem vload_place (d : Bool) (e : Enc) (s : State) : (vload d e s).place.core = s.place.core := by
  unfold vload
  split
  · simp
  · exact orWait_place _ _ _ _ _ (attVld_place d e s)

theorem attVst_place (d : Bool) (e : Enc) (s : State) : ∀ t, attVst d e s = some t → t.place.core = s.place.core := by
  intro t h
  unfold attVst at h
  repeat' (first | split at h | dsimp only at h)
  all_goals first | contradiction | exact engWrite_place _ _ _ _ _ _ _ h | (simp only [Option.some.injEq, Except.ok.injEq] at h; subst h; first | (simp; done) | (simp [*]; done) | (simp_all; done) | (have hh := engWrite_place _ _ _ _ _ _ _ ‹_›; simp [*]; done))

@[simp] theorem vstore_place (d : Bool) (e : Enc) (s : State) : (vstore d e s).place.core = s.place.core := by
  unfold vstore
  split
  · simp
  · exact orWait_place _ _ _ _ _ (attVst_place d e s)

@[simp] theorem execVld_place (e : Enc) (s : State) : (after s (execVld e s)).place.core = s.place.core := by
  unfold execVld
  repeat' (first | split | apply issue_place | apply owning_place | intro _ | dsimp only)
  all_goals simp

@[simp] theorem execVst_place (e : Enc) (s : State) : (after s (execVst e s)).place.core = s.place.core := by
  unfold execVst
  repeat' (first | split | apply issue_place | apply owning_place | intro _ | dsimp only)
  all_goals simp

@[simp] theorem wrT_place (e : Enc) (s : State) (es : List W96) (d : Datum) : (wrT e s es d).place.core = s.place.core := by
  unfold wrT
  simp

@[simp] theorem execVldd_place (e : Enc) (s : State) : (after s (execVldd e s)).place.core = s.place.core := by
  unfold execVldd
  repeat' (first | split | apply issue_place | apply owning_place | intro _ | dsimp only)
  all_goals simp

@[simp] theorem execVstd_place (e : Enc) (s : State) : (after s (execVstd e s)).place.core = s.place.core := by
  unfold execVstd
  repeat' (first | split | apply issue_place | apply owning_place | intro _ | dsimp only)
  all_goals simp

@[simp] theorem execVdadd_place (e : Enc) (s : State) : (after s (execVdadd e s)).place.core = s.place.core := by
  unfold execVdadd
  simp

@[simp] theorem execVcvt_place (e : Enc) (s : State) : (after s (execVcvt e s)).place.core = s.place.core := by
  unfold execVcvt
  simp

@[simp] theorem execMdrop_place (e : Enc) (s : State) : (after s (execMdrop e s)).place.core = s.place.core := by
  unfold execMdrop
  simp

@[simp] theorem execMbits_place (e : Enc) (s : State) : (after s (execMbits e s)).place.core = s.place.core := by
  unfold execMbits
  simp

@[simp] theorem execMraw_place (e : Enc) (s : State) : (after s (execMraw e s)).place.core = s.place.core := by
  unfold execMraw
  simp

end Sys2Proof.Machine
end

