-- ==== Sys2Proof/Laws/PlaceCairn.lean ====
section
/-!
SUPPORT. What the operations of Machine/Cairn.lean do to the placement of cores: nothing.
-/

namespace Sys2Proof.Machine

open Host (Outcome)

@[simp] theorem modCairn_place (s : State) (c : Nat) (f : Cairn → Cairn) : (modCairn s c f).place.core = s.place.core := by
  unfold modCairn
  simp

@[simp] theorem cairnPush_place (s : State) (c : Nat) (bs : List Byte) : (cairnPush s c bs).place.core = s.place.core := by
  unfold cairnPush
  simp

theorem cairnHeld_place (e : Enc) (s : State) : ∀ t, cairnHeld e s = some t → t.place.core = s.place.core := by
  intro t h
  unfold cairnHeld at h
  repeat' (first | split at h | dsimp only at h)
  all_goals first | contradiction | (simp only [Option.some.injEq, Except.ok.injEq] at h; subst h; first | (simp; done) | (simp [*]; done) | (simp_all; done))

@[simp] theorem cairnClass_place (e : Enc) (s : State) (f : State → State) (H : ∀ u, (f u).place.core = u.place.core) : (cairnClass e s f).place.core = s.place.core := by
  unfold cairnClass
  first | (simp; done) | ((repeat' (first | split | intro _ | dsimp only )) <;> first | (simp; done) | (simp [*]; done) | (simp_all; done) | (have hh := cairnHeld_place _ _ _ ‹_›; simp [*]; done))

@[simp] theorem owningCairn_place (e : Enc) (s : State) (f : State → State) (H : ∀ u, (f u).place.core = u.place.core) : (owningCairn e s f).place.core = s.place.core := by
  unfold owningCairn
  repeat' (first | split | apply cairnClass_place | intro _ | dsimp only)
  all_goals simp_all

@[simp] theorem execCown_place (e : Enc) (s : State) : (after s (execCown e s)).place.core = s.place.core := by
  unfold execCown
  simp

theorem attCpush_place (e : Enc) (s : State) : ∀ t, attCpush e s = some t → t.place.core = s.place.core := by
  intro t h
  unfold attCpush at h
  repeat' (first | split at h | dsimp only at h)
  all_goals first | contradiction | exact cairnHeld_place _ _ _ h | (simp only [Option.some.injEq, Except.ok.injEq] at h; subst h; first | (simp; done) | (simp [*]; done) | (simp_all; done) | (have hh := cairnHeld_place _ _ _ ‹_›; simp [*]; done))

@[simp] theorem execCpush_place (e : Enc) (s : State) : (after s (execCpush e s)).place.core = s.place.core := by
  unfold execCpush
  repeat' (first | split | apply issue_place | apply orWait_place | apply owning_place | apply owningCairn_place | intro _ | dsimp only)
  all_goals first | simp; done | (have hh := attCpush_place _ _ _ ‹_›; simp [*]; done)

theorem popThen_place (e : Enc) (n : Nat) (s : State) (f : List Byte → State → State) (H : ∀ b u, (f b u).place.core = u.place.core) : ∀ t, popThen e n s f = some t → t.place.core = s.place.core := by
  intro t h
  unfold popThen at h
  repeat' (first | split at h | dsimp only at h)
  all_goals first | contradiction | (simp only [Option.some.injEq, Except.ok.injEq] at h; subst h; first | (simp; done) | (simp [*]; done) | (simp_all; done))

theorem attCpopv_place (e : Enc) (s : State) : ∀ t, attCpopv e s = some t → t.place.core = s.place.core := by
  intro t h
  unfold attCpopv at h
  split at h
  · simp only [Option.some.injEq] at h
    subst h
    exact cairnHeld_place _ _ _ ‹_›
  · exact popThen_place _ _ _ _ (fun b u => by simp) _ h

@[simp] theorem execCpopv_place (e : Enc) (s : State) : (after s (execCpopv e s)).place.core = s.place.core := by
  unfold execCpopv
  repeat' (first | split | apply issue_place | apply orWait_place | apply owning_place | apply owningCairn_place | intro _ | dsimp only)
  all_goals first | simp; done | (have hh := attCpopv_place _ _ _ ‹_›; simp [*]; done)

theorem attCpop_place (e : Enc) (s : State) : ∀ t, attCpop e s = some t → t.place.core = s.place.core := by
  intro t h
  unfold attCpop at h
  split at h
  · simp only [Option.some.injEq] at h
    subst h
    exact cairnHeld_place _ _ _ ‹_›
  · refine popThen_place _ _ _ _ (fun b u => ?_) _ h
    split
    · have hh := engWrite_place _ _ _ _ _ _ _ ‹_›
      simp [hh]
    · simp

@[simp] theorem execCpop_place (e : Enc) (s : State) : (after s (execCpop e s)).place.core = s.place.core := by
  unfold execCpop
  repeat' (first | split | apply issue_place | apply orWait_place | apply owningCairn_place | intro _ | dsimp only)
  all_goals first | simp; done | (have hh := attCpop_place _ _ _ ‹_›; simp [*]; done)

@[simp] theorem execCrsv_place (e : Enc) (s : State) : (after s (execCrsv e s)).place.core = s.place.core := by
  unfold execCrsv
  simp

theorem attCreset_place (e : Enc) (s : State) : ∀ t, attCreset e s = some t → t.place.core = s.place.core := by
  intro t h
  unfold attCreset at h
  repeat' (first | split at h | dsimp only at h)
  all_goals first | contradiction | exact cairnHeld_place _ _ _ h | (simp only [Option.some.injEq, Except.ok.injEq] at h; subst h; first | (simp; done) | (simp [*]; done) | (simp_all; done) | (have hh := cairnHeld_place _ _ _ ‹_›; simp [*]; done))

@[simp] theorem execCreset_place (e : Enc) (s : State) : (after s (execCreset e s)).place.core = s.place.core := by
  unfold execCreset
  repeat' (first | split | apply issue_place | apply orWait_place | apply owningCairn_place | intro _ | dsimp only)
  all_goals first | simp; done | (have hh := attCreset_place _ _ _ ‹_›; simp [*]; done)

end Sys2Proof.Machine
end

