-- ==== Sys2Proof/Laws/PlaceLoadStore.lean ====
section
/-!
SUPPORT. What the operations of Machine/LoadStore.lean do to the placement of cores: nothing.
-/

namespace Sys2Proof.Machine

open Host (Outcome)

theorem attLd_place (n : Nat) (sext : Bool) (e : Enc) (s : State) : ∀ t, attLd n sext e s = some t → t.place.core = s.place.core := by
  intro t h
  unfold attLd at h
  repeat' (first | split at h | dsimp only at h)
  all_goals first | contradiction | exact heldAtPort_place _ _ _ h | (simp only [Option.some.injEq, Except.ok.injEq] at h; subst h; first | (simp; done) | (simp [*]; done) | (simp_all; done) | (have hh := heldAtPort_place _ _ _ ‹_›; simp [*]; done))

@[simp] theorem ldAt_place (e : Enc) (n : Nat) (s : State) : (ldAt e n s).place.core = s.place.core := by
  unfold ldAt
  repeat' (first | split | apply orWait_place | intro _ | dsimp only)
  all_goals first | simp; done | (have hh := attLd_place _ _ _ _ _ ‹_›; simp [*]; done)

@[simp] theorem execLd_place (e : Enc) (s : State) : (after s (execLd e s)).place.core = s.place.core := by
  unfold execLd
  repeat' split
  all_goals simp

theorem attSt_place (n : Nat) (e : Enc) (s : State) : ∀ t, attSt n e s = some t → t.place.core = s.place.core := by
  intro t h
  unfold attSt at h
  repeat' (first | split at h | dsimp only at h)
  all_goals first | contradiction | exact heldAtPort_place _ _ _ h | (simp only [Option.some.injEq, Except.ok.injEq] at h; subst h; first | (simp; done) | (simp [*]; done) | (simp_all; done) | (have hh := heldAtPort_place _ _ _ ‹_›; simp [*]; done))

@[simp] theorem stAt_place (e : Enc) (n : Nat) (s : State) : (stAt e n s).place.core = s.place.core := by
  unfold stAt
  repeat' (first | split | apply orWait_place | intro _ | dsimp only)
  all_goals first | simp; done | (have hh := engWrite_place _ _ _ _ _ _ _ ‹_›; simp [*]; done) | (have hh := attSt_place _ _ _ _ ‹_›; simp [*]; done)

@[simp] theorem execSt_place (e : Enc) (s : State) : (after s (execSt e s)).place.core = s.place.core := by
  unfold execSt
  repeat' split
  all_goals simp

@[simp] theorem dropFlit_place (s : State) (n : Nat) : (dropFlit s n).place.core = s.place.core := by
  unfold dropFlit
  simp

end Sys2Proof.Machine
end

