-- ==== Sys2Proof/Laws/PlaceTable.lean ====
section
/-!
SUPPORT. What the operations of Machine/Table.lean do to the placement of cores: nothing.
-/

namespace Sys2Proof.Machine

open Host (Outcome)

theorem attTld_place (e : Enc) (s : State) : ∀ t, attTld e s = some t → t.place.core = s.place.core := by
  intro t h
  unfold attTld at h
  repeat' (first | split at h | dsimp only at h)
  all_goals first | contradiction | (simp only [Option.some.injEq, Except.ok.injEq] at h; subst h; first | (simp; done) | (simp [*]; done) | (simp_all; done))

@[simp] theorem execTld_place (e : Enc) (s : State) : (after s (execTld e s)).place.core = s.place.core := by
  unfold execTld
  repeat' (first | split | apply issue_place | apply owning_place | apply orWait_place | intro _ | dsimp only)
  all_goals first | simp; done | (have hh := attTld_place _ _ _ ‹_›; simp [*]; done)

theorem attTeval_place (e : Enc) (s : State) : ∀ t, attTeval e s = some t → t.place.core = s.place.core := by
  intro t h
  unfold attTeval at h
  repeat' (first | split at h | dsimp only at h)
  all_goals first | contradiction | (simp only [Option.some.injEq, Except.ok.injEq] at h; subst h; first | (simp; done) | (simp [*]; done) | (simp_all; done))

@[simp] theorem execTeval_place (e : Enc) (s : State) : (after s (execTeval e s)).place.core = s.place.core := by
  unfold execTeval
  repeat' (first | split | apply issue_place | apply owning_place | apply orWait_place | intro _ | dsimp only)
  all_goals first | simp; done | (have hh := attTeval_place _ _ _ ‹_›; simp [*]; done)

theorem attTevalm_place (e : Enc) (s : State) : ∀ t, attTevalm e s = some t → t.place.core = s.place.core := by
  intro t h
  unfold attTevalm at h
  repeat' (first | split at h | dsimp only at h)
  all_goals first | contradiction | (simp only [Option.some.injEq, Except.ok.injEq] at h; subst h; first | (simp; done) | (simp [*]; done) | (simp_all; done))

@[simp] theorem execTevalm_place (e : Enc) (s : State) : (after s (execTevalm e s)).place.core = s.place.core := by
  unfold execTevalm
  repeat' (first | split | apply issue_place | apply owning_place | apply orWait_place | intro _ | dsimp only)
  all_goals first | simp; done | (have hh := attTevalm_place _ _ _ ‹_›; simp [*]; done)

end Sys2Proof.Machine
end

