-- ==== Sys2Proof/Laws/PlaceWga.lean ====
section
/-!
SUPPORT. What the operations of Machine/Wga.lean do to the placement of cores: nothing.
-/

namespace Sys2Proof.Machine

open Host (Outcome)

@[simp] theorem modWga_place (s : State) (c : Nat) (f : Wga → Wga) : (modWga s c f).place.core = s.place.core := by
  unfold modWga
  simp

@[simp] theorem execWaddv_place (e : Enc) (s : State) : (after s (execWaddv e s)).place.core = s.place.core := by
  unfold execWaddv
  repeat' (first | split | apply issue_place | apply owning_place | apply cairnClass_place | intro _ | dsimp only)
  all_goals simp

@[simp] theorem execWrdv_place (e : Enc) (s : State) : (after s (execWrdv e s)).place.core = s.place.core := by
  unfold execWrdv
  repeat' (first | split | apply issue_place | apply owning_place | apply cairnClass_place | intro _ | dsimp only)
  all_goals simp

theorem attWinit_place (e : Enc) (s : State) : ∀ t, attWinit e s = some t → t.place.core = s.place.core := by
  intro t h
  unfold attWinit at h
  repeat' (first | split at h | dsimp only at h)
  all_goals first | contradiction | exact cairnHeld_place _ _ _ h | (simp only [Option.some.injEq, Except.ok.injEq] at h; subst h; first | (simp; done) | (simp [*]; done) | (simp_all; done) | (have hh := cairnHeld_place _ _ _ ‹_›; simp [*]; done))

@[simp] theorem execWinit_place (e : Enc) (s : State) : (after s (execWinit e s)).place.core = s.place.core := by
  unfold execWinit
  repeat' (first | split | apply issue_place | apply orWait_place | intro _ | dsimp only)
  all_goals first | simp; done | (have hh := attWinit_place _ _ _ ‹_›; simp [*]; done)

@[simp] theorem queueFlush_place (s : State) (c : Nat) (j : FlushJob) : (queueFlush s c j).place.core = s.place.core := by
  unfold queueFlush
  simp

theorem attWzero_place (e : Enc) (s : State) : ∀ t, attWzero e s = some t → t.place.core = s.place.core := by
  intro t h
  unfold attWzero at h
  repeat' (first | split at h | dsimp only at h)
  all_goals first | contradiction | exact cairnHeld_place _ _ _ h | (simp only [Option.some.injEq, Except.ok.injEq] at h; subst h; first | (simp; done) | (simp [*]; done) | (simp_all; done) | (have hh := cairnHeld_place _ _ _ ‹_›; simp [*]; done))

@[simp] theorem execWzero_place (e : Enc) (s : State) : (after s (execWzero e s)).place.core = s.place.core := by
  unfold execWzero
  repeat' (first | split | apply issue_place | apply orWait_place | intro _ | dsimp only)
  all_goals first | simp; done | (have hh := attWzero_place _ _ _ ‹_›; simp [*]; done)

theorem attWflush_place (b : List Byte) (e : Enc) (s : State) : ∀ t, attWflush b e s = some t → t.place.core = s.place.core := by
  intro t h
  unfold attWflush at h
  repeat' (first | split at h | dsimp only at h)
  all_goals first | contradiction | exact cairnHeld_place _ _ _ h | (simp only [Option.some.injEq, Except.ok.injEq] at h; subst h; first | (simp; done) | (simp [*]; done) | (simp_all; done) | (have hh := cairnHeld_place _ _ _ ‹_›; simp [*]; done))

@[simp] theorem execWflush_place (e : Enc) (s : State) : (after s (execWflush e s)).place.core = s.place.core := by
  unfold execWflush
  repeat' (first | split | apply issue_place | apply owning_place | apply orWaitDesc_place | intro _ | dsimp only)
  all_goals first | simp; done | (have hh := attWflush_place _ _ _ _ ‹_›; simp [*]; done)

theorem attWsync_place (e : Enc) (s : State) : ∀ t, attWsync e s = some t → t.place.core = s.place.core := by
  intro t h
  unfold attWsync at h
  repeat' (first | split at h | dsimp only at h)
  all_goals first | contradiction | exact cairnHeld_place _ _ _ h | (simp only [Option.some.injEq, Except.ok.injEq] at h; subst h; first | (simp; done) | (simp [*]; done) | (simp_all; done) | (have hh := cairnHeld_place _ _ _ ‹_›; simp [*]; done))

@[simp] theorem execWsync_place (e : Enc) (s : State) : (after s (execWsync e s)).place.core = s.place.core := by
  unfold execWsync
  repeat' (first | split | apply issue_place | apply orWait_place | intro _ | dsimp only)
  all_goals first | simp; done | (have hh := attWsync_place _ _ _ ‹_›; simp [*]; done)

@[simp] theorem tailTo_place (s : State) (c : Nat) (ends : List Nat) (b : Nat) : (tailTo s c ends b).place.core = s.place.core := by
  unfold tailTo
  repeat' (first | split | intro _ | dsimp only)
  all_goals first | (simp; done) | (simp [*]; done) | (simp_all; done)

@[simp] theorem sendSums_place (s : State) (c target : Nat) (d : Datum) (w : FlitFor) (i : Nat) (l : List W96) : (sendSums s c target d w i l).place.core = s.place.core := by
  unfold sendSums
  simp

@[simp] theorem runFlush_place (s : State) (c : Nat) (j : FlushJob) : (runFlush s c j).place.core = s.place.core := by
  unfold runFlush
  repeat' (first | split | intro _ | dsimp only)
  all_goals first | simp; done | (have hh := engWrite_place _ _ _ _ _ _ _ ‹_›; simp [*]; done)

end Sys2Proof.Machine
end

