-- ==== Sys2Proof/Laws/PlaceTile.lean ====
section
/-!
SUPPORT. What the operations of Machine/Tile.lean do to the placement of cores: nothing.
-/

namespace Sys2Proof.Machine

open Host (Outcome)

@[simp] theorem modTiles_place (s : State) (c : Nat) (f : Tiles → Tiles) : (modTiles s c f).place.core = s.place.core := by
  unfold modTiles
  simp

@[simp] theorem owningArrs_place (e : Enc) (m : BitVec 4) (s : State) (f : State → State) (H : ∀ u, (f u).place.core = u.place.core) : (owningArrs e m s f).place.core = s.place.core := by
  unfold owningArrs
  repeat' (first | split | intro _ | dsimp only)
  all_goals simp_all

theorem attTcfg_place (e : Enc) (s : State) : ∀ t, attTcfg e s = some t → t.place.core = s.place.core := by
  intro t h
  unfold attTcfg at h
  repeat' (first | split at h | dsimp only at h)
  all_goals first | contradiction | (simp only [Option.some.injEq, Except.ok.injEq] at h; subst h; first | (simp; done) | (simp [*]; done) | (simp_all; done))

@[simp] theorem execTcfg_place (e : Enc) (s : State) : (after s (execTcfg e s)).place.core = s.place.core := by
  unfold execTcfg
  repeat' (first | split | apply issue_place | apply orWait_place | intro _ | dsimp only)
  all_goals first | simp; done | (have hh := attTcfg_place _ _ _ ‹_›; simp [*]; done)

theorem attTsync_place (e : Enc) (s : State) : ∀ t, attTsync e s = some t → t.place.core = s.place.core := by
  intro t h
  unfold attTsync at h
  repeat' (first | split at h | dsimp only at h)
  all_goals first | contradiction | (simp only [Option.some.injEq, Except.ok.injEq] at h; subst h; first | (simp; done) | (simp [*]; done) | (simp_all; done))

@[simp] theorem execTsync_place (e : Enc) (s : State) : (after s (execTsync e s)).place.core = s.place.core := by
  unfold execTsync
  repeat' (first | split | apply issue_place | apply orWait_place | intro _ | dsimp only)
  all_goals first | simp; done | (have hh := attTsync_place _ _ _ ‹_›; simp [*]; done)

@[simp] theorem startTseq_place (e : Enc) (b : List Byte) (s : State) : (startTseq e b s).place.core = s.place.core := by
  unfold startTseq
  simp

@[simp] theorem execTseq_place (e : Enc) (s : State) : (after s (execTseq e s)).place.core = s.place.core := by
  unfold execTseq
  repeat' (first | split | apply issue_place | apply owningArrs_place | intro _ | dsimp only)
  all_goals simp

@[simp] theorem execAccrel_place (e : Enc) (s : State) : (after s (execAccrel e s)).place.core = s.place.core := by
  unfold execAccrel
  simp

theorem attTdrv_place (e : Enc) (s : State) : ∀ t, attTdrv e s = some t → t.place.core = s.place.core := by
  intro t h
  unfold attTdrv at h
  repeat' (first | split at h | dsimp only at h)
  all_goals first | contradiction | (simp only [Option.some.injEq, Except.ok.injEq] at h; subst h; first | (simp; done) | (simp [*]; done) | (simp_all; done))

@[simp] theorem execTdrv_place (e : Enc) (s : State) : (after s (execTdrv e s)).place.core = s.place.core := by
  unfold execTdrv
  repeat' (first | split | apply issue_place | apply orWait_place | apply owning_place | apply owningArrs_place | intro _ | dsimp only)
  all_goals first | simp; done | (have hh := attTdrv_place _ _ _ ‹_›; simp [*]; done)

theorem attTdrn_place (b : List Byte) (e : Enc) (s : State) : ∀ t, attTdrn b e s = some t → t.place.core = s.place.core := by
  intro t h
  unfold attTdrn at h
  repeat' (first | split at h | dsimp only at h)
  all_goals first | contradiction | (simp only [Option.some.injEq, Except.ok.injEq] at h; subst h; first | (simp; done) | (simp [*]; done) | (simp_all; done))

@[simp] theorem execTdrn_place (e : Enc) (s : State) : (after s (execTdrn e s)).place.core = s.place.core := by
  unfold execTdrn
  repeat' (first | split | apply issue_place | apply orWaitDesc_place | apply owningArrs_place | intro _ | dsimp only)
  all_goals first | simp; done | (have hh := attTdrn_place _ _ _ _ ‹_›; simp [*]; done)

theorem epiDest_place (s : State) (c : Nat) (d : DrainJob) (o : List Byte × List Nat × W32) : ∀ t, epiDest s c d o = .ok t → t.place.core = s.place.core := by
  intro t h
  simp only [epiDest] at h
  split at h
  · exact writeAll_place _ _ _ _ _ _ h
  · simp only [Except.ok.injEq] at h
    subst h
    simp
  · simp only [Except.ok.injEq] at h
    subst h
    simp

theorem drainRowWork_place (s : State) (c : Nat) (d : DrainJob) :
    ∀ t, drainRowWork s c d = some (.ok t) → t.place.core = s.place.core := by
  intro t h
  simp only [drainRowWork] at h
  split at h
  · simp at h
  · split at h
    · contradiction
    · simp only [Option.some.injEq] at h
      revert h
      generalize hu : epiDest _ _ _ _ = u
      intro h
      cases u with
      | error e => contradiction
      | ok v =>
        simp only [Except.map, Except.ok.injEq] at h
        subst h
        have hh := epiDest_place _ _ _ _ _ hu
        simp [hh, ite_place]

end Sys2Proof.Machine
end

