-- ==== Sys2Proof/Laws/PlaceUpdate.lean ====
section
/-!
SUPPORT. What the operations of Machine/Update.lean do to the placement of cores: nothing.
-/

namespace Sys2Proof.Machine

open Host (Outcome)

theorem uWrites_place (s : State) (c : Nat) (l : List Wr) :
    ∀ t, uWrites s c l = .ok t → t.place.core = s.place.core := by
  induction l generalizing s with
  | nil => intro t h; simp only [uWrites, Except.ok.injEq] at h; subst h; rfl
  | cons w l ih =>
    intro t h
    unfold uWrites at h
    split at h
    · contradiction
    · rw [ih _ t h]
      exact engWrite_place _ _ _ _ _ _ _ ‹_›

@[simp] theorem groupSeen_place (s : State) (c : Nat) (b : List Byte) (g : UGroup) : (groupSeen s c b g).place.core = s.place.core := by
  unfold groupSeen
  repeat' (first | split | intro _ | dsimp only)
  all_goals first | (simp; done) | (simp [*]; done) | (simp_all; done)

@[simp] theorem addEnds_place (s : State) (c k : Nat) (ds : List Nat) : (addEnds s c k ds).place.core = s.place.core := by
  unfold addEnds
  repeat' (first | split | intro _ | dsimp only)
  all_goals first | (simp; done) | (simp [*]; done) | (simp_all; done)

theorem groupWork_place (s : State) (c : Nat) (l : Launch) (g : UGroup) : ∀ t, groupWork s c l g = .ok t → t.place.core = s.place.core := by
  intro t h
  unfold groupWork at h
  dsimp only [bind, Except.bind] at h
  split at h
  · contradiction
  split at h
  · contradiction
  split at h
  · contradiction
  split at h
  · contradiction
  split at h
  · contradiction
  split at h
  · contradiction
  have hh := uWrites_place _ _ _ _ ‹_›
  simp only [pure, Except.pure, Except.ok.injEq] at h
  subst h
  simp [hh, ite_place]

@[simp] theorem gaugeWork_place (s : State) (c : Nat) (l : Launch) : (gaugeWork s c l).place.core = s.place.core := by
  unfold gaugeWork
  simp

@[simp] theorem queueLaunch_place (e : Enc) (l : Launch) (s : State) : (queueLaunch e l s).place.core = s.place.core := by
  unfold queueLaunch
  simp

@[simp] theorem beginUpdate_place (s : State) (c : Nat) : (beginUpdate s c).place.core = s.place.core := by
  unfold beginUpdate
  repeat' split
  all_goals simp

@[simp] theorem launchProg_place (e : Enc) (a : W64) (b : List Byte) (s : State) : (launchProg e a b s).place.core = s.place.core := by
  unfold launchProg
  repeat' (first | split | apply unlessHeld_place | intro _ | dsimp only)
  all_goals simp

@[simp] theorem launchRange_place (e : Enc) (a : W64) (b : List Byte) (n : Nat) (s : State) : (launchRange e a b n s).place.core = s.place.core := by
  unfold launchRange
  repeat' (first | split | intro _ | dsimp only)
  all_goals first | (simp; done) | (simp [*]; done) | (simp_all; done)

@[simp] theorem launchSized_place (e : Enc) (a : W64) (b : List Byte) (s : State) : (launchSized e a b s).place.core = s.place.core := by
  unfold launchSized
  repeat' (first | split | intro _ | dsimp only)
  all_goals first | (simp; done) | (simp [*]; done) | (simp_all; done)

@[simp] theorem launchAt_place (e : Enc) (s : State) : (launchAt e s).place.core = s.place.core := by
  unfold launchAt
  repeat' (first | split | intro _ | dsimp only)
  all_goals first | (simp; done) | (simp [*]; done) | (simp_all; done)

@[simp] theorem execUlaunch_place (e : Enc) (s : State) : (after s (execUlaunch e s)).place.core = s.place.core := by
  unfold execUlaunch
  repeat' (first | split | apply issue_place | intro _ | dsimp only)
  all_goals simp

@[simp] theorem execUgauge_place (e : Enc) (s : State) : (after s (execUgauge e s)).place.core = s.place.core := by
  unfold execUgauge
  simp

theorem attNgsend_place (e : Enc) (s : State) : ∀ t, attNgsend e s = some t → t.place.core = s.place.core := by
  intro t h
  unfold attNgsend at h
  repeat' (first | split at h | dsimp only at h)
  all_goals first | contradiction | (simp only [Option.some.injEq, Except.ok.injEq] at h; subst h; first | (simp; done) | (simp [*]; done) | (simp_all; done))

@[simp] theorem execNgsend_place (e : Enc) (s : State) : (after s (execNgsend e s)).place.core = s.place.core := by
  unfold execNgsend
  exact issue_place _ _ _ _ fun u => orWait_place _ _ _ _ _ (attNgsend_place e u)

theorem attNgcast_place (e : Enc) (s : State) : ∀ t, attNgcast e s = some t → t.place.core = s.place.core := by
  intro t h
  unfold attNgcast at h
  repeat' (first | split at h | dsimp only at h)
  all_goals first | contradiction | (simp only [Option.some.injEq, Except.ok.injEq] at h; subst h; first | (simp; done) | (simp [*]; done) | (simp_all; done))

@[simp] theorem execNgcast_place (e : Enc) (s : State) : (after s (execNgcast e s)).place.core = s.place.core := by
  unfold execNgcast
  exact issue_place _ _ _ _ fun u => orWait_place _ _ _ _ _ (attNgcast_place e u)

theorem attNgwait_place (e : Enc) (s : State) : ∀ t, attNgwait e s = some t → t.place.core = s.place.core := by
  intro t h
  unfold attNgwait at h
  repeat' (first | split at h | dsimp only at h)
  all_goals first | contradiction | (simp only [Option.some.injEq, Except.ok.injEq] at h; subst h; first | (simp; done) | (simp [*]; done) | (simp_all; done))

@[simp] theorem execNgwait_place (e : Enc) (s : State) : (after s (execNgwait e s)).place.core = s.place.core := by
  unfold execNgwait
  repeat' (first | split | apply issue_place | apply orWait_place | intro _ | dsimp only)
  all_goals first | simp; done | (have hh := attNgwait_place _ _ _ ‹_›; simp [*]; done)

end Sys2Proof.Machine
end

