-- ==== Sys2Proof/Laws/PlaceWake.lean ====
section
/-!
SUPPORT. What the operations of Machine/Wake.lean do to the placement of cores: nothing.
-/

namespace Sys2Proof.Machine

open Host (Outcome)

theorem attempt_place (o : WaitOp) (e : Enc) (s : State) : ∀ t, attempt o e s = some t → t.place.core = s.place.core := by
  intro t h
  cases o with
  | ld => exact attLd_place _ _ _ _ _ h
  | st => exact attSt_place _ _ _ _ h
  | arrive => exact attUpdate_place _ _ _ _ h
  | addB => exact attUpdate_place _ _ _ _ h
  | setB => exact attUpdate_place _ _ _ _ h
  | cpy => exact attCpy_place _ _ _ h
  | cpyw => exact attCpyw_place _ _ _ h
  | tcfg => exact attTcfg_place _ _ _ h
  | tsync => exact attTsync_place _ _ _ h
  | tdrv => exact attTdrv_place _ _ _ h
  | cpush => exact attCpush_place _ _ _ h
  | cpopv => exact attCpopv_place _ _ _ h
  | cpop => exact attCpop_place _ _ _ h
  | creset => exact attCreset_place _ _ _ h
  | winit => exact attWinit_place _ _ _ h
  | wzero => exact attWzero_place _ _ _ h
  | wsync => exact attWsync_place _ _ _ h
  | ngwait => exact attNgwait_place _ _ _ h
  | halt => exact attHalt_place _ _ _ h
  | tld => exact attTld_place _ _ _ h
  | teval => exact attTeval_place _ _ _ h
  | tevalm => exact attTevalm_place _ _ _ h
  | vld => exact attVld_place _ _ _ _ h
  | vldd => exact attVld_place _ _ _ _ h
  | vst => exact attVst_place _ _ _ _ h
  | vstd => exact attVst_place _ _ _ _ h
  | ngsend => exact attNgsend_place _ _ _ h
  | ngcast => exact attNgcast_place _ _ _ h
  | ulaunch => rw [← Option.some.inj h]; simp
  | wait | tseq | ugauge | tdrn | wflush => cases h

theorem attemptDesc_place (o : WaitOp) (e : Enc) (b : List Byte) (s : State) : ∀ t, attemptDesc o e b s = some t → t.place.core = s.place.core := by
  intro t h
  unfold attemptDesc at h
  repeat' (first | split at h | dsimp only at h)
  all_goals first | contradiction | exact attTdrn_place _ _ _ _ h | exact attWflush_place _ _ _ _ h | (simp only [Option.some.injEq, Except.ok.injEq] at h; subst h; first | (simp; done) | (simp [*]; done) | (simp_all; done) | (have hh := attTdrn_place _ _ _ _ ‹_›; simp [*]; done) | (have hh := attWflush_place _ _ _ _ ‹_›; simp [*]; done))

@[simp] theorem wakeCtx_place (c : Nat) (s : State) (k : Nat) : (wakeCtx c s k).place.core = s.place.core := by
  unfold wakeCtx
  dsimp only
  split
  · split
    · cases h : attempt _ _ s with
      | some t => exact attempt_place _ _ _ _ h
      | none => simp only [Option.getD_none]; split <;> simp
    · exact getD_place (attemptDesc_place _ _ _ _)
    · rfl
  · rfl

@[simp] theorem wake_place (s : State) (c : Nat) : (wake s c).place.core = s.place.core := by
  unfold wake
  simp

@[simp] theorem wakeAll_place (s : State) (cs : List Nat) : (wakeAll s cs).place.core = s.place.core := by
  unfold wakeAll
  simp

@[simp] theorem wakeFor_place (s : State) (w : FlitFor) : (wakeFor s w).place.core = s.place.core := by
  unfold wakeFor
  repeat' split
  all_goals simp

@[simp] theorem execLoadDataArrival_place (core ctx : Nat) (s : State) : (after s (execLoadDataArrival core ctx s)).place.core = s.place.core := by
  unfold execLoadDataArrival
  repeat' (first | split | intro _ | dsimp only)
  all_goals simp

@[simp] theorem execCpyclr_place (e : Enc) (s : State) : (after s (execCpyclr e s)).place.core = s.place.core := by
  unfold execCpyclr
  simp

end Sys2Proof.Machine
end

