-- ==== Sys2Proof/Laws/PlaceMesh.lean ====
section
/-!
SUPPORT. What the operations of Machine/Mesh.lean do to the placement of cores: nothing.
-/

namespace Sys2Proof.Machine

open Host (Outcome)

@[simp] theorem moveTo_place (s : State) (f : Flit) (next : Nat) : (moveTo s f next).place.core = s.place.core := by
  unfold moveTo
  simp

@[simp] theorem loseFlit_place (s : State) (f : Flit) : (loseFlit s f).place.core = s.place.core := by
  unfold loseFlit
  simp

@[simp] theorem tagDrop_place (s : State) (f : Flit) : (tagDrop s f).place.core = s.place.core := by
  unfold tagDrop
  repeat' split
  all_goals simp

@[simp] theorem discardFlit_place (s : State) (f : Flit) : (discardFlit s f).place.core = s.place.core := by
  unfold discardFlit
  simp

@[simp] theorem mcLast_place (s : State) (f : Flit) : (mcLast s f).place.core = s.place.core := by
  unfold mcLast
  repeat' split
  all_goals simp

theorem tryMerge_place (s : State) (n : Nat) (f : Flit) : ∀ t, tryMerge s n f = some t → t.place.core = s.place.core := by
  intro t h
  unfold tryMerge at h
  repeat' (first | split at h | dsimp only at h)
  all_goals first | contradiction | (simp only [Option.some.injEq, Except.ok.injEq] at h; subst h; first | (simp; done) | (simp [*]; done) | (simp_all; done))

@[simp] theorem handOver_place (s : State) (f : Flit) : (handOver s f).place.core = s.place.core := by
  unfold handOver
  simp

@[simp] theorem mcDeliver_place (s : State) (f : Flit) : (mcDeliver s f).place.core = s.place.core := by
  unfold mcDeliver
  repeat' (first | split | intro _ | dsimp only)
  all_goals first | (simp; done) | (simp [*]; done) | (simp_all; done)

@[simp] theorem sendCopy_place (f : Flit) (s : State) (o : List Nat × McLeg) : (sendCopy f s o).place.core = s.place.core := by
  unfold sendCopy
  repeat' (first | split | intro _ | dsimp only)
  all_goals first | (simp; done) | (simp [*]; done) | (simp_all; done)

theorem mcAtRouter_place (s : State) (n : Nat) (f : Flit) (m : McEntry) : ∀ t, mcAtRouter s n f m = some t → t.place.core = s.place.core := by
  intro t h
  unfold mcAtRouter at h
  repeat' (first | split at h | dsimp only at h)
  all_goals first | contradiction | (simp only [Option.some.injEq] at h; subst h; simp; done)

@[simp] theorem deliver_place (s : State) (f : Flit) : (deliver s f).place.core = s.place.core := by
  unfold deliver
  repeat' split
  all_goals simp

@[simp] theorem wakeSource_place (s : State) (f : Flit) : (wakeSource s f).place.core = s.place.core := by
  unfold wakeSource
  repeat' (first | split | intro _ | dsimp only)
  all_goals first | (simp; done) | (simp [*]; done) | (simp_all; done)

@[simp] theorem countFwd_place (s : State) (f : Flit) : (countFwd s f).place.core = s.place.core := by
  unfold countFwd
  repeat' (first | split | intro _ | dsimp only)
  all_goals first | (simp; done) | (simp [*]; done) | (simp_all; done)

theorem flitGoes_place (s : State) (n : Nat) (f : Flit) : ∀ t, flitGoes s n f = some t → t.place.core = s.place.core := by
  intro t h
  unfold flitGoes at h
  repeat' (first | split at h | dsimp only at h)
  all_goals first
    | contradiction
    | exact mcAtRouter_place _ _ _ _ _ h
    | exact (mcAtRouter_place _ _ _ _ _ h).trans (by simp)
    | (simp only [Option.some.injEq] at h; subst h; first | rfl | (simp; done))

@[simp] theorem execFlitAtRouter_place (n : Nat) (ok credit : Bool) (s : State) : (after s (execFlitAtRouter n ok credit s)).place.core = s.place.core := by
  have key (f : Flit) (t : State) : (if credit = true then flitGoes s n f else none) = some t → t.place.core = s.place.core := by
    intro h
    split at h
    · exact flitGoes_place _ _ _ _ h
    · contradiction
  unfold execFlitAtRouter
  repeat' (first | split | intro _ | dsimp only)
  all_goals first | simp; done | (have hh := tryMerge_place _ _ _ _ ‹_›; simp [*]; done) | (have hh := key _ _ ‹_›; simp [*]; done)

@[simp] theorem storeDone_place (s : State) (w : FlitFor) (bs : List Byte) : (storeDone s w bs).place.core = s.place.core := by
  unfold storeDone
  repeat' split
  all_goals simp

@[simp] theorem terrPoison_place (s : State) (site off n : Nat) : (terrPoison s site off n).place.core = s.place.core := by
  unfold terrPoison
  simp

@[simp] theorem readFixed_place (s : State) (site off : Nat) : (readFixed s site off).place.core = s.place.core := by
  unfold readFixed
  rw [ite_place]
  split <;> simp

@[simp] theorem execTerraceRemoteAccess_place (site : Nat) (bondErr : Nat) (s : State) : (after s (execTerraceRemoteAccess site bondErr s)).place.core = s.place.core := by
  unfold execTerraceRemoteAccess
  repeat' (first | split | intro _ | dsimp only)
  all_goals simp

@[simp] theorem execTailArrival_place (n : Nat) (s : State) : (after s (execTailArrival n s)).place.core = s.place.core := by
  unfold execTailArrival
  repeat' (first | split | intro _ | dsimp only)
  all_goals simp

@[simp] theorem loseAt_place (s : State) (site : Nat) : (loseAt s site).place.core = s.place.core := by
  unfold loseAt
  simp

@[simp] theorem routerFails_place (s : State) (site : Nat) : (routerFails s site).place.core = s.place.core := by
  unfold routerFails
  dsimp only
  split
  · simp
  · rw [ite_place]
    split
    · simp
    · have key := fun l (u : State) => foldl_place l fenceCore u fun _ _ => fenceCore_place _ _
      split <;> simp [key]

@[simp] theorem execRouterFailure_place (site : Nat) (s : State) : (after s (execRouterFailure site s)).place.core = s.place.core := by
  unfold execRouterFailure
  repeat' split
  all_goals simp

@[simp] theorem execRouterCreditTimeout_place (site : Nat) (s : State) : (after s (execRouterCreditTimeout site s)).place.core = s.place.core := by
  unfold execRouterCreditTimeout
  repeat' split
  all_goals simp

@[simp] theorem execDetourLoad_place (die : Nat) (s : State) : (after s (execDetourLoad die s)).place.core = s.place.core := by
  unfold execDetourLoad
  repeat' split
  all_goals simp

@[simp] theorem modLink_place (s : State) (die col : Nat) (f : BridgeLink → BridgeLink) : (modLink s die col f).place.core = s.place.core := by
  unfold modLink
  simp

@[simp] theorem linkFails_place (s : State) (die col : Nat) : (linkFails s die col).place.core = s.place.core := by
  unfold linkFails
  simp

@[simp] theorem execBridgeFrameReceived_place (die col : Nat) (crcOk : Bool) (s : State) : (after s (execBridgeFrameReceived die col crcOk s)).place.core = s.place.core := by
  unfold execBridgeFrameReceived
  repeat' (first | split | intro _ | dsimp only)
  all_goals first | rfl | simp

@[simp] theorem execBridgeFrameReplay_place (die col : Nat) (s : State) : (after s (execBridgeFrameReplay die col s)).place.core = s.place.core := by
  unfold execBridgeFrameReplay
  repeat' split
  all_goals simp

end Sys2Proof.Machine
end

