-- ==== Sys2Proof/Laws/PlaceCairnRun.lean ====
section
/-!
SUPPORT. What the operations of Machine/CairnRun.lean do to the placement of cores: nothing.
-/

namespace Sys2Proof.Machine

open Host (Outcome)

@[simp] theorem execCairnSpillStart_place (core : Nat) (s : State) : (after s (execCairnSpillStart core s)).place.core = s.place.core := by
  unfold execCairnSpillStart
  repeat' (first | split | intro _ | dsimp only)
  all_goals simp

@[simp] theorem cairnFault_place (s : State) (c kind fpn : Nat) (a : W64) (wr : Bool) : (cairnFault s c kind fpn a wr).place.core = s.place.core := by
  unfold cairnFault
  simp

@[simp] theorem cairnErr_place (s : State) (c : Nat) (a : W64) (wr : Bool) (e : AccErr) : (cairnErr s c a wr e).place.core = s.place.core := by
  cases e <;> simp only [cairnErr] <;> (repeat' split) <;> simp

@[simp] theorem execCairnSpillComplete_place (core : Nat) (s : State) : (after s (execCairnSpillComplete core s)).place.core = s.place.core := by
  unfold execCairnSpillComplete
  repeat' (first | split | intro _ | dsimp only)
  all_goals first | simp; done | (have hh := spotWrite_place _ _ _ _ _ ‹_›; simp [*]; done)

@[simp] theorem execCairnRefillComplete_place (core : Nat) (s : State) : (after s (execCairnRefillComplete core s)).place.core = s.place.core := by
  unfold execCairnRefillComplete
  repeat' (first | split | intro _ | dsimp only)
  all_goals simp

@[simp] theorem execWinitZeroingComplete_place (core : Nat) (s : State) : (after s (execWinitZeroingComplete core s)).place.core = s.place.core := by
  unfold execWinitZeroingComplete
  repeat' split
  all_goals simp

@[simp] theorem execFlushComplete_place (core : Nat) (s : State) : (after s (execFlushComplete core s)).place.core = s.place.core := by
  unfold execFlushComplete
  repeat' (first | split | intro _ | dsimp only)
  all_goals simp

@[simp] theorem execWgaSumArrival_place (core : Nat) (s : State) : (after s (execWgaSumArrival core s)).place.core = s.place.core := by
  unfold execWgaSumArrival
  repeat' split
  all_goals simp

end Sys2Proof.Machine
end

