-- ==== Sys2Proof/Laws/PlaceClock.lean ====
section
/-!
SUPPORT. What the operations of Machine/Clock.lean do to the placement of cores: nothing.
-/

namespace Sys2Proof.Machine

open Host (Outcome)

@[simp] theorem logClk_place (s : State) (dom old new : Nat) : (logClk s dom old new).place.core = s.place.core := by
  unfold logClk
  simp

@[simp] theorem switchBed_place (s : State) (bed v : Nat) : (switchBed s bed v).place.core = s.place.core := by
  unfold switchBed
  simp

@[simp] theorem switchHalf_place (s : State) (h v : Nat) : (switchHalf s h v).place.core = s.place.core := by
  unfold switchHalf
  simp

end Sys2Proof.Machine
end

