-- ==== Sys2Proof/Laws/PlaceCopyRun.lean ====
section
/-!
SUPPORT. What the operations of Machine/CopyRun.lean do to the placement of cores: nothing.
-/

namespace Sys2Proof.Machine

open Host (Outcome)

@[simp] theorem haltChan_place (s : State) (c ch : Nat) : (haltChan s c ch).place.core = s.place.core := by
  unfold haltChan
  simp

@[simp] theorem copyUnc_place (s : State) (c ch cls kind num : Nat) (a : W64) : (copyUnc s c ch cls kind num a).place.core = s.place.core := by
  unfold copyUnc
  simp

@[simp] theorem copyErr_place (s : State) (c ch : Nat) (a : W64) (wr : Bool) (e : AccErr) : (copyErr s c ch a wr e).place.core = s.place.core := by
  cases e <;> simp only [copyErr] <;> (repeat' split) <;> simp

@[simp] theorem execCopyDescriptorStart_place (core ch : Nat) (s : State) : (after s (execCopyDescriptorStart core ch s)).place.core = s.place.core := by
  unfold execCopyDescriptorStart
  repeat' (first | split | intro _ | dsimp only)
  all_goals simp

@[simp] theorem mcSend_place (s : State) (c ch : Nat) (m : McEntry) (last : Bool) (tail : Option Nat) (p : Nat × List Byte) : (mcSend s c ch m last tail p).place.core = s.place.core := by
  unfold mcSend
  simp

@[simp] theorem mcWrites_place (s : State) (c ch : Nat) (m : McEntry) (lastRow : Bool) (tail : Option Nat) (ws : List Wr) : (mcWrites s c ch m lastRow tail ws).place.core = s.place.core := by
  unfold mcWrites
  simp

@[simp] theorem copySeen_place (s : State) (c : Nat) (r : CopyRun) : (copySeen s c r).place.core = s.place.core := by
  unfold copySeen
  repeat' (first | split | intro _ | dsimp only)
  all_goals first | (simp; done) | (simp [*]; done) | (simp_all; done)

@[simp] theorem copyCount_place (s : State) (c ch : Nat) (r : CopyRun) (ws : List Wr) : (copyCount s c ch r ws).place.core = s.place.core := by
  unfold copyCount
  repeat' (first | split | intro _ | dsimp only)
  all_goals first | (simp; done) | (simp [*]; done) | (simp_all; done)

@[simp] theorem execCopyRow_place (core ch : Nat) (s : State) : (after s (execCopyRow core ch s)).place.core = s.place.core := by
  unfold execCopyRow
  repeat' (first | split | intro _ | dsimp only)
  all_goals first | simp; done | (have hh := writeAll_place _ _ _ _ _ _ ‹_›; simp [*]; done) | (have hh := putAll_place _ _ _ _ _ ‹_›; simp [*]; done)

@[simp] theorem chanNext_place (s : State) (c ch : Nat) : (chanNext s c ch).place.core = s.place.core := by
  unfold chanNext
  simp

@[simp] theorem execCopyDescriptorComplete_place (core ch : Nat) (s : State) : (after s (execCopyDescriptorComplete core ch s)).place.core = s.place.core := by
  unfold execCopyDescriptorComplete
  repeat' (first | split | intro _ | dsimp only)
  all_goals simp

@[simp] theorem execMulticastCountComplete_place (core ch : Nat) (s : State) : (after s (execMulticastCountComplete core ch s)).place.core = s.place.core := by
  unfold execMulticastCountComplete
  repeat' (first | split | intro _ | dsimp only)
  all_goals simp

end Sys2Proof.Machine
end

