-- ==== Sys2Proof/Laws/PlaceFar.lean ====
section
/-!
SUPPORT. What the operations of Machine/Far.lean do to the placement of cores: nothing.
-/

namespace Sys2Proof.Machine

open Host (Outcome)

@[simp] theorem holdStore_place (s : State) (f : Flit) (kind : Nat) : (holdStore s f kind).place.core = s.place.core := by
  unfold holdStore
  repeat' split
  all_goals simp

@[simp] theorem holdLoad_place (s : State) (f : Flit) (kind : Nat) : (holdLoad s f kind).place.core = s.place.core := by
  unfold holdLoad
  repeat' split
  all_goals simp

@[simp] theorem faultReq_place (s : State) (f : Flit) (kind : Nat) : (faultReq s f kind).place.core = s.place.core := by
  unfold faultReq
  simp

@[simp] theorem noteAge_place (s : State) (p : Nat) : (noteAge s p).place.core = s.place.core := by
  unfold noteAge
  simp

@[simp] theorem notValid_place (s : State) (p : Nat) (f : Flit) : (notValid s p f).place.core = s.place.core := by
  unfold notValid
  simp

@[simp] theorem releaseCtx_place (s : State) (c k : Nat) : (releaseCtx s c k).place.core = s.place.core := by
  unfold releaseCtx
  split <;> simp

@[simp] theorem releaseStore_place (s : State) (w : FlitFor) : (releaseStore s w).place.core = s.place.core := by
  unfold releaseStore
  split <;> simp

@[simp] theorem serveFar_place (s : State) (p : Nat) (f : Flit) : (serveFar s p f).place.core = s.place.core := by
  unfold serveFar
  simp

@[simp] theorem farTail_place (s : State) (port : Nat) (f : Flit) : (farTail s port f).place.core = s.place.core := by
  unfold farTail
  repeat' (first | split | intro _ | dsimp only)
  all_goals first | (simp; done) | (simp [*]; done) | (simp_all; done)

@[simp] theorem execFarRequestAtPort_place (port : Nat) (s : State) : (after s (execFarRequestAtPort port s)).place.core = s.place.core := by
  unfold execFarRequestAtPort
  repeat' (first | split | intro _ | dsimp only)
  all_goals simp

@[simp] theorem execCadastreCacheMiss_place (port : Nat) (s : State) : (after s (execCadastreCacheMiss port s)).place.core = s.place.core := by
  unfold execCadastreCacheMiss
  repeat' (first | split | intro _ | dsimp only)
  all_goals simp

@[simp] theorem dropCad_place (s : State) (fpn : Nat) : (dropCad s fpn).place.core = s.place.core := by
  unfold dropCad
  simp

@[simp] theorem correctedLine_place (s : State) (p l : Nat) (d : List Byte) : (correctedLine s p l d).place.core = s.place.core := by
  unfold correctedLine
  simp

@[simp] theorem execRingCacheFill_place (port : Nat) (errs : List SymErr) (s : State) : (after s (execRingCacheFill port errs s)).place.core = s.place.core := by
  unfold execRingCacheFill
  repeat' (first | split | intro _ | dsimp only | with_reducible refine (foldl_place _ _ _ ?_).trans ?_)
  all_goals simp

@[simp] theorem dueRetire_place (s : State) (port a : Nat) : (dueRetire s port a).place.core = s.place.core := by
  unfold dueRetire
  repeat' (first | split | intro _ | dsimp only)
  all_goals first | (simp; done) | (simp [*]; done) | (simp_all; done)

@[simp] theorem endRetire_place (s : State) (port a : Nat) : (endRetire s port a).place.core = s.place.core := by
  unfold endRetire
  repeat' (first | split | intro _ | dsimp only)
  all_goals first | (simp; done) | (simp [*]; done) | (simp_all; done)

@[simp] theorem retireOne_place (s : State) (port a : Nat) (waited : Bool) : (retireOne s port a waited).1.place.core = s.place.core := by
  unfold retireOne
  split
  · simp
  · dsimp only
    split <;> simp

@[simp] theorem startRetire_place (s : State) (port : Nat) (waited : Bool) (n : Nat) :
    (startRetire s port waited n).place.core = s.place.core := by
  induction n generalizing s with
  | zero => rw [startRetire]
  | succ n ih =>
    rw [startRetire]
    dsimp only
    split
    · split
      · rw [ih]; simp
      · simp
    · rfl

@[simp] theorem execRowRetirement_place (place : RowPlace) (row : Nat) (s : State) : (after s (execRowRetirement place row s)).place.core = s.place.core := by
  unfold execRowRetirement
  repeat' (first | split | intro _ | dsimp only)
  all_goals simp

@[simp] theorem useSpare_place (s : State) (r : Nat × Nat) : (useSpare s r).place.core = s.place.core := by
  unfold useSpare
  repeat' (first | split | intro _ | dsimp only)
  all_goals first | (simp; done) | (simp [*]; done) | (simp_all; done)

@[simp] theorem recordSoft_place (s : State) (r : Nat × Nat) (i : Inc) : (recordSoft s r i).place.core = s.place.core := by
  unfold recordSoft
  simp

@[simp] theorem copyRow_place (s : State) (site row : Nat) (v : W64) : (copyRow s site row v).place.core = s.place.core := by
  unfold copyRow
  repeat' (first | split | intro _ | dsimp only)
  all_goals first | (simp; done) | (simp [*]; done) | (simp_all; done)

@[simp] theorem execTerraceRowRetire_place (site row : Nat) (s : State) : (after s (execTerraceRowRetire site row s)).place.core = s.place.core := by
  unfold execTerraceRowRetire
  repeat' (first | split | intro _ | dsimp only)
  all_goals simp

@[simp] theorem exchangePpn_place (s : State) (a b : Nat) : (exchangePpn s a b).place.core = s.place.core := by
  unfold exchangePpn
  simp

@[simp] theorem pageRetired_place (s : State) (port : Nat) : (pageRetired s port).place.core = s.place.core := by
  unfold pageRetired takeFree
  repeat' (first | dsimp only | split | intro _)
  all_goals simp

end Sys2Proof.Machine
end

