-- ==== Sys2Proof/Laws/PlaceTileRun.lean ====
section
/-!
SUPPORT. What the operations of Machine/TileRun.lean do to the placement of cores: nothing.
-/

namespace Sys2Proof.Machine

open Host (Outcome)

@[simp] theorem tileWake_place (s : State) (c : Nat) : (tileWake s c).place.core = s.place.core := by
  unfold tileWake
  simp

@[simp] theorem lastRowIn_place (s : State) (c : Nat) (j : TseqJob) : (lastRowIn s c j).place.core = s.place.core := by
  unfold lastRowIn
  repeat' (first | split | intro _ | dsimp only)
  all_goals first | (simp; done) | (simp [*]; done) | (simp_all; done)

@[simp] theorem stopTseq_place (s : State) (c : Nat) (j : TseqJob) : (stopTseq s c j).place.core = s.place.core := by
  unfold stopTseq
  simp

@[simp] theorem streamFault_place (s : State) (c : Nat) (j : TseqJob) (a : W64) (k f : Nat) : (streamFault s c j a k f).place.core = s.place.core := by
  unfold streamFault
  repeat' (first | split | intro _ | dsimp only)
  all_goals first | (simp; done) | (simp [*]; done) | (simp_all; done)

@[simp] theorem streamErr_place (s : State) (c : Nat) (j : TseqJob) (a : W64) (e : AccErr) : (streamErr s c j a e).place.core = s.place.core := by
  cases e <;> simp only [streamErr] <;> (repeat' split) <;> simp

@[simp] theorem execPanelLoad_place (core arr : Nat) (s : State) : (after s (execPanelLoad core arr s)).place.core = s.place.core := by
  unfold execPanelLoad
  repeat' (first | split | intro _ | dsimp only)
  all_goals simp

@[simp] theorem execStreamRowEntry_place (core : Nat) (s : State) : (after s (execStreamRowEntry core s)).place.core = s.place.core := by
  unfold execStreamRowEntry
  repeat' (first | split | intro _ | dsimp only)
  all_goals simp

@[simp] theorem execTseqLastRowEntered_place (core : Nat) (s : State) : (after s (execTseqLastRowEntered core s)).place.core = s.place.core := by
  unfold execTseqLastRowEntered
  repeat' split
  all_goals simp

@[simp] theorem repeatTseq_place (s : State) (c : Nat) (j : TseqJob) : (repeatTseq s c j).place.core = s.place.core := by
  unfold repeatTseq
  repeat' (first | split | intro _ | dsimp only)
  all_goals simp

@[simp] theorem plumbFails_place (s : State) (c : Nat) (j : TseqJob) : (plumbFails s c j).place.core = s.place.core := by
  unfold plumbFails
  simp

@[simp] theorem commitRow_place (s : State) (c : Nat) (j : TseqJob) (p : PipeRow) (fl : List LaneFlip) (skips : Nat) : (commitRow s c j p fl skips).place.core = s.place.core := by
  unfold commitRow
  simp

@[simp] theorem execTileRowCommit_place (core : Nat) (flip : List LaneFlip) (s : State) : (after s (execTileRowCommit core flip s)).place.core = s.place.core := by
  unfold execTileRowCommit
  repeat' (first | split | intro _ | dsimp only)
  all_goals simp

@[simp] theorem execDrainRow_place (core : Nat) (s : State) : (after s (execDrainRow core s)).place.core = s.place.core := by
  unfold execDrainRow
  repeat' (first | split | intro _ | dsimp only)
  all_goals first | simp; done | (have hh := drainRowWork_place _ _ _ _ ‹_›; simp [*]; done)

@[simp] theorem execDrainComplete_place (core : Nat) (s : State) : (after s (execDrainComplete core s)).place.core = s.place.core := by
  unfold execDrainComplete
  repeat' split
  all_goals simp

end Sys2Proof.Machine
end

