-- ==== Sys2Proof/Laws/PlaceUpdateRun.lean ====
section
/-!
SUPPORT. What the operations of Machine/UpdateRun.lean do to the placement of cores: nothing.
-/

namespace Sys2Proof.Machine

open Host (Outcome)

@[simp] theorem modLaunch_place (s : State) (c k : Nat) (f : Launch → Launch) : (modLaunch s c k f).place.core = s.place.core := by
  unfold modLaunch
  simp

@[simp] theorem execUpdateLaunchStart_place (core ctx : Nat) (s : State) : (after s (execUpdateLaunchStart core ctx s)).place.core = s.place.core := by
  unfold execUpdateLaunchStart
  repeat' (first | split | intro _ | dsimp only)
  all_goals simp

@[simp] theorem dropLaunch_place (s : State) (c : Nat) (l : Launch) : (dropLaunch s c l).place.core = s.place.core := by
  unfold dropLaunch
  simp

@[simp] theorem interruptLaunch_place (s : State) (c : Nat) (l : Launch) : (interruptLaunch s c l).place.core = s.place.core := by
  unfold interruptLaunch
  simp

@[simp] theorem launchErr_place (s : State) (c : Nat) (l : Launch) (e : UErr) : (launchErr s c l e).place.core = s.place.core := by
  unfold launchErr
  repeat' split
  all_goals simp

@[simp] theorem stepLaunch_place (s : State) (c : Nat) (l : Launch) : (stepLaunch s c l).place.core = s.place.core := by
  unfold stepLaunch
  simp

@[simp] theorem execUpdateGroupCommit_place (core : Nat) (s : State) : (after s (execUpdateGroupCommit core s)).place.core = s.place.core := by
  unfold execUpdateGroupCommit
  repeat' (first | split | intro _ | dsimp only)
  all_goals first | simp; done | (have hh := groupWork_place _ _ _ _ _ ‹_›; simp [*]; done)

@[simp] theorem execUpdateLaunchComplete_place (core : Nat) (s : State) : (after s (execUpdateLaunchComplete core s)).place.core = s.place.core := by
  unfold execUpdateLaunchComplete
  repeat' split
  all_goals simp

@[simp] theorem execNgaccArrival_place (core : Nat) (s : State) : (after s (execNgaccArrival core s)).place.core = s.place.core := by
  unfold execNgaccArrival
  repeat' split
  all_goals simp

@[simp] theorem execGateValueArrival_place (core : Nat) (s : State) : (after s (execGateValueArrival core s)).place.core = s.place.core := by
  unfold execGateValueArrival
  repeat' split
  all_goals simp

end Sys2Proof.Machine
end

