-- ==== Sys2Proof/Laws/PlaceRecord.lean ====
section
/-!
SUPPORT. What the operations of Machine/Record.lean do to the placement of cores: nothing.
-/

namespace Sys2Proof.Machine

open Host (Outcome)

@[simp] theorem countRec_place (s : State) (p : Nat) (r : Rec) : (countRec s p r).place.core = s.place.core := by
  unfold countRec
  simp

@[simp] theorem takeRec_place (s : State) (w : Nat) (r : Rec) : (takeRec s w r).place.core = s.place.core := by
  unfold takeRec
  repeat' (first | split | intro _ | dsimp only)
  all_goals simp

@[simp] theorem writeCompletion_place (s : State) (w : Nat) (r : Rec) (status : Nat) (body : List Byte) : (writeCompletion s w r status body).place.core = s.place.core := by
  unfold writeCompletion
  simp

@[simp] theorem endRec_place (s : State) (w : Nat) : (endRec s w).place.core = s.place.core := by
  unfold endRec
  simp

@[simp] theorem finRec_place (s : State) (w : Nat) (r : Rec) (status : Nat) (body : List Byte) : (finRec s w r status body).place.core = s.place.core := by
  unfold finRec
  simp


@[simp] theorem record_place (op : Nat) (k : Kinds) (lay : List OpField) (w : Nat) (s : State) (f : Nat → Rec → State → RecRes) (H : ∀ p r u, (f p r u).after.place.core = u.place.core) : (after s (record op k lay w s f)).place.core = s.place.core := by
  unfold record
  split
  · rfl
  · split
    · rfl
    · dsimp only
      split
      · simp
      · split
        · simp
        · split
          · simp
          · have key := H (getWin (takeRec s w ‹_›) w).parcel ‹_› (takeRec s w ‹_›)
            split <;> rename_i heq <;> rw [heq] at key <;> simp at key <;> simp [key]

@[simp] theorem ghFault_place (s : State) (p core fa kind fpn : Nat) (wr : Bool) : (ghFault s p core fa kind fpn wr).place.core = s.place.core := by
  unfold ghFault
  simp

@[simp] theorem ghErr_place (s : State) (p core fa : Nat) (wr : Bool) (e : AccErr) :
    (ghErr s p core fa wr e).after.place.core = s.place.core := by
  cases e <;> simp [ghErr]

theorem ghRead_place (s : State) (p core fa n : Nat) :
    ∀ x, ghRead s p core fa n = .error x → x.after.place.core = s.place.core := by
  intro x h
  unfold ghRead at h
  split at h
  · contradiction
  · simp only [Except.error.injEq] at h
    subst h
    simp

theorem ghWrite_place (s : State) (p core fa : Nat) (bs : List Byte) :
    ∀ t, ghWrite s p core fa bs = .ok t → t.place.core = s.place.core := by
  intro t h
  unfold ghWrite at h
  split at h
  · simp only [Except.ok.injEq] at h
    subst h
    exact farWrite_place _ _ _ _ _ ‹_›
  · contradiction

theorem ghWrite_place_error (s : State) (p core fa : Nat) (bs : List Byte) :
    ∀ x, ghWrite s p core fa bs = .error x → x.after.place.core = s.place.core := by
  intro x h
  unfold ghWrite at h
  split at h
  · contradiction
  · simp only [Except.error.injEq] at h
    subst h
    simp


@[simp] theorem stage_place (s : State) (p : Nat) (k : StageKey) (v : Nat) : (stage s p k v).place.core = s.place.core := by
  unfold stage
  simp

@[simp] theorem noteEnds_place (s : State) (w : Nat) : (noteEnds s w).place.core = s.place.core := by
  unfold noteEnds
  simp

@[simp] theorem noteAllEnds_place (s : State) : (noteAllEnds s).place.core = s.place.core := by
  unfold noteAllEnds
  simp

end Sys2Proof.Machine
end

