-- ==== Sys2Proof/Laws/PlaceReset.lean ====
section
/-!
SUPPORT. What the operations of Machine/Reset.lean do to the placement of cores: nothing.
-/

namespace Sys2Proof.Machine

open Host (Outcome)

@[simp] theorem dropFlits_place (s : State) (p : FlitFor → Bool) : (dropFlits s p).place.core = s.place.core := by
  unfold dropFlits
  simp

@[simp] theorem dropCairnFault_place (s : State) (c k : Nat) : (dropCairnFault s c k).place.core = s.place.core := by
  unfold dropCairnFault
  repeat' (first | split | intro _ | dsimp only)
  all_goals first | (simp; done) | (simp [*]; done) | (simp_all; done)

@[simp] theorem endLaunch_place (s : State) (c k : Nat) : (endLaunch s c k).place.core = s.place.core := by
  unfold endLaunch
  repeat' split
  all_goals simp

@[simp] theorem beginCtxReset_place (s : State) (c k : Nat) : (beginCtxReset s c k).place.core = s.place.core := by
  unfold beginCtxReset
  simp

@[simp] theorem endCtxReset_place (s : State) (c k : Nat) : (endCtxReset s c k).place.core = s.place.core := by
  unfold endCtxReset
  simp

@[simp] theorem execContextResetComplete_place (core ctx : Nat) (s : State) : (after s (execContextResetComplete core ctx s)).place.core = s.place.core := by
  unfold execContextResetComplete
  repeat' split
  all_goals simp

@[simp] theorem abandonCore_place (s : State) (c : Nat) : (abandonCore s c).place.core = s.place.core := by
  unfold abandonCore
  simp

@[simp] theorem zeroBedCtrs_place (s : State) (site : Nat) : (zeroBedCtrs s site).place.core = s.place.core := by
  unfold zeroBedCtrs
  simp

@[simp] theorem resetSite_place (s : State) (site : Nat) : (resetSite s site).place.core = s.place.core := by
  unfold resetSite
  simp

@[simp] theorem dropCore_place (s : State) (c : Nat) : (dropCore s c).place.core = s.place.core := by
  unfold dropCore
  simp

@[simp] theorem execCoreReset_place (site : Nat) (s : State) : (after s (execCoreReset site s)).place.core = s.place.core := by
  unfold execCoreReset
  repeat' split
  all_goals simp

@[simp] theorem closeWin_place (s : State) (w : Nat) (drop : Bool) : (closeWin s w drop).place.core = s.place.core := by
  unfold closeWin
  repeat' (first | split | intro _ | dsimp only)
  all_goals simp

@[simp] theorem closeWindows_place (s : State) (p : Nat) (drop : Bool) : (closeWindows s p drop).place.core = s.place.core := by
  unfold closeWindows
  simp

@[simp] theorem loseBlocks_place (s : State) (p : Nat) (a0 a1 : W64) : (loseBlocks s p a0 a1).place.core = s.place.core := by
  unfold loseBlocks
  simp

@[simp] theorem shadowBeacons_place (s : State) (p : Nat) : (shadowBeacons s p).place.core = s.place.core := by
  unfold shadowBeacons
  simp

@[simp] theorem forgetErrs_place (s : State) (p : Nat) : (forgetErrs s p).place.core = s.place.core := by
  unfold forgetErrs
  simp

@[simp] theorem initialMark_place (s : State) (p : Nat) : (initialMark s p).place.core = s.place.core := by
  unfold initialMark
  simp

@[simp] theorem beginParcelReset_place (s : State) (p : Nat) : (beginParcelReset s p).place.core = s.place.core := by
  unfold beginParcelReset
  simp

@[simp] theorem execParcelResetComplete_place (p : Nat) (s : State) : (after s (execParcelResetComplete p s)).place.core = s.place.core := by
  unfold execParcelResetComplete
  repeat' (first | split | intro _ | dsimp only | with_reducible refine (foldl_place _ _ _ ?_).trans ?_)
  all_goals simp

end Sys2Proof.Machine
end

