-- ==== Sys2Proof/Laws/PlaceTwinLink.lean ====
section
/-!
SUPPORT. What the operations of Machine/TwinLink.lean do to the placement of cores: nothing.
-/

namespace Sys2Proof.Machine

open Host (Outcome)

@[simp] theorem modTwin_place (s : State) (f : Twin → Twin) : (modTwin s f).place.core = s.place.core := by
  unfold modTwin
  simp

@[simp] theorem putLane_place (s : State) (lane : Nat) (f : List Byte) : (putLane s lane f).place.core = s.place.core := by
  unfold putLane
  repeat' (first | split | intro _ | dsimp only)
  all_goals first | (simp; done) | (simp [*]; done) | (simp_all; done)

@[simp] theorem putFrame_place (s : State) (f : List Byte) : (putFrame s f).place.core = s.place.core := by
  unfold putFrame
  simp

@[simp] theorem sendUnseq_place (s : State) (type : Byte) (payload : List Byte) : (sendUnseq s type payload).place.core = s.place.core := by
  unfold sendUnseq
  simp

@[simp] theorem sendAll_place (s : State) (type : Byte) (payload : List Byte) : (sendAll s type payload).place.core = s.place.core := by
  unfold sendAll
  repeat' (first | split | intro _ | dsimp only)
  all_goals first | (simp; done) | (simp [*]; done) | (simp_all; done)

@[simp] theorem pumpTwin_place (n : Nat) (s : State) : (pumpTwin n s).place.core = s.place.core := by
  induction n generalizing s with
  | zero => rfl
  | succ n ih =>
    unfold pumpTwin
    split
    · rfl
    · split
      · rfl
      · rw [ih]; simp

@[simp] theorem sendSeqs_place (s : State) (l : List (Byte × List Byte)) : (sendSeqs s l).place.core = s.place.core := by
  unfold sendSeqs
  simp

@[simp] theorem sendSeq_place (s : State) (type : Byte) (payload : List Byte) : (sendSeq s type payload).place.core = s.place.core := by
  unfold sendSeq
  simp

@[simp] theorem dropAcked_place (s : State) (ack : W32) : (dropAcked s ack).place.core = s.place.core := by
  unfold dropAcked
  repeat' (first | split | intro _ | dsimp only)
  all_goals first | (simp; done) | (simp [*]; done) | (simp_all; done)

@[simp] theorem takeAck_place (s : State) (ack : W32) : (takeAck s ack).place.core = s.place.core := by
  unfold takeAck
  simp

@[simp] theorem replayFrames_place (s : State) : (replayFrames s).place.core = s.place.core := by
  unfold replayFrames
  repeat' (first | split | intro _ | dsimp only)
  all_goals first | (simp; done) | (simp [*]; done) | (simp_all; done)

theorem acceptFrame_place (s : State) (f : List Byte) : ∀ t, acceptFrame s f = .ok t ∨ acceptFrame s f = .error t →
    t.place.core = s.place.core := by
  intro t h
  unfold acceptFrame at h
  dsimp only at h
  repeat' split at h
  all_goals
    simp only [Except.ok.injEq, Except.error.injEq, reduceCtorEq, false_or, or_false] at h
    subst h
    simp

@[simp] theorem takeFrame_place (f : List Byte) (s : State) (g : State → State) (H : ∀ u, (g u).place.core = u.place.core) : (takeFrame f s g).place.core = s.place.core := by
  unfold takeFrame
  split
  · rfl
  · split
    · exact acceptFrame_place _ _ _ (.inr ‹_›)
    · rw [H]
      exact acceptFrame_place _ _ _ (.inl ‹_›)

@[simp] theorem freshLink_place (s : State) : (freshLink s).place.core = s.place.core := by
  unfold freshLink
  simp

end Sys2Proof.Machine
end

