-- ==== Sys2Proof/Laws/PlaceMark.lean ====
section
/-!
SUPPORT. What the operations of Machine/Mark.lean do to the placement of cores: nothing.
-/

namespace Sys2Proof.Machine

open Host (Outcome)

@[simp] theorem applyOperand_place (s : State) (p set idx v : Nat) : (applyOperand s p set idx v).place.core = s.place.core := by
  unfold applyOperand
  simp

@[simp] theorem applyObject_place (s : State) (p idx v : Nat) : (applyObject s p idx v).place.core = s.place.core := by
  unfold applyObject
  simp

@[simp] theorem applyBeacons_place (s : State) (p die : Nat) (v : W64) : (applyBeacons s p die v).place.core = s.place.core := by
  unfold applyBeacons
  simp

@[simp] theorem applyStaged_place (p : Nat) (s : State) (e : StageKey × Nat) : (applyStaged p s e).place.core = s.place.core := by
  unfold applyStaged
  repeat' split
  all_goals simp

@[simp] theorem applyAll_place (s : State) (p : Nat) : (applyAll s p).1.place.core = s.place.core := by
  simp [applyAll]

theorem writeEntries_place (x : Parcel) (p c : Nat) (l : List (List Byte × Nat)) :
    ∀ s t, writeEntries x p c l (.ok s) = .ok t → t.place.core = s.place.core := by
  induction l with
  | nil => intro s t h; simp only [writeEntries, Except.ok.injEq] at h; subst h; rfl
  | cons e l ih =>
    intro s t h
    unfold writeEntries at h
    dsimp only [bind, Except.bind] at h
    split at h
    · rw [ih _ _ h]
      simp
    · split at h
      · rw [ih _ _ h]
        have hh := farWrite_place _ _ _ _ _ ‹_›
        simp [hh]
      · contradiction

@[simp] theorem tallyErr_place (s : State) (p c : Nat) (a : W64) (e : AccErr) : (tallyErr s p c a e).place.core = s.place.core := by
  cases e <;> simp only [tallyErr] <;> (repeat' split) <;> simp

@[simp] theorem phaseTiming_place (s : State) (p : Nat) : (phaseTiming s p).place.core = s.place.core := by
  unfold phaseTiming
  simp

@[simp] theorem execTheodoliteTallyWrite_place (p : Nat) (s : State) : (after s (execTheodoliteTallyWrite p s)).place.core = s.place.core := by
  unfold execTheodoliteTallyWrite
  repeat' (first | split | intro _ | dsimp only | with_reducible refine (foldl_place _ _ _ ?_).trans ?_)
  all_goals first | simp; done | (have hh := writeEntries_place _ _ _ _ _ _ ‹_›; simp [*]; done)

@[simp] theorem closeGates_place (s : State) (p : Nat) : (closeGates s p).place.core = s.place.core := by
  unfold closeGates
  simp

@[simp] theorem formDigests_place (s : State) (p : Nat) : (formDigests s p).place.core = s.place.core := by
  unfold formDigests
  simp

@[simp] theorem phStep_place (s : State) (p : Nat) : (phStep s p).place.core = s.place.core := by
  unfold phStep
  simp

@[simp] theorem finishMark_place (s : State) (p twin : Nat) : (finishMark s p twin).place.core = s.place.core := by
  unfold finishMark
  repeat' split
  all_goals simp

@[simp] theorem stopAtMark_place (s : State) (p cls : Nat) : (stopAtMark s p cls).place.core = s.place.core := by
  unfold stopAtMark
  repeat' (first | split | intro _ | dsimp only)
  all_goals simp

@[simp] theorem compareMark_place (s : State) (p : Nat) : (compareMark s p).place.core = s.place.core := by
  unfold compareMark
  repeat' (first | split | intro _ | dsimp only)
  all_goals simp

@[simp] theorem sendDigest_place (s : State) (p : Nat) : (sendDigest s p).place.core = s.place.core := by
  unfold sendDigest
  simp

@[simp] theorem releaseMarks_place (s : State) : (releaseMarks s).place.core = s.place.core := by
  unfold releaseMarks
  simp

@[simp] theorem execBmark_place (w : Nat) (s : State) : (after s (execBmark w s)).place.core = s.place.core := by
  unfold execBmark
  refine record_place _ _ _ _ _ _ fun p r u => ?_
  dsimp only
  split
  · split
    · rfl
    · split
      · rfl
      · simp
  · split
    · rfl
    · split <;> simp
  · rfl
  · rfl

@[simp] theorem endRecord_place (s : State) (p status : Nat) : (endRecord s p status).place.core = s.place.core := by
  unfold endRecord
  repeat' split
  all_goals simp

@[simp] theorem endStep_place (s : State) (p : Nat) (e : StepEnd) : (endStep s p e).place.core = s.place.core := by
  unfold endStep
  repeat' (first | split | intro _ | dsimp only | with_reducible refine (foldl_place _ _ _ ?_).trans ?_)
  all_goals simp

@[simp] theorem execStepEndWithoutMark_place (p : Nat) (cause : StepEnd) (s : State) : (after s (execStepEndWithoutMark p cause s)).place.core = s.place.core := by
  unfold execStepEndWithoutMark
  repeat' (first | split | intro _ | dsimp only)
  all_goals simp

end Sys2Proof.Machine
end

