-- ==== Sys2Proof/Laws/PlacePages.lean ====
section
/-!
SUPPORT. What the operations of Machine/Pages.lean do to the placement of cores: nothing.
-/

namespace Sys2Proof.Machine

open Host (Outcome)

@[simp] theorem dropHeld_place (s : State) (c k : Nat) (a : W64) : (dropHeld s c k a).place.core = s.place.core := by
  unfold dropHeld
  simp

@[simp] theorem redoStore_place (s : State) (r : FaultReq) (h : HeldStore) : (redoStore s r h).place.core = s.place.core := by
  unfold redoStore
  simp

@[simp] theorem resumeReq_place (s : State) (r : FaultReq) : (resumeReq s r).place.core = s.place.core := by
  unfold resumeReq
  repeat' split
  all_goals simp

@[simp] theorem resolveFaults_place (s : State) (p fpn : Nat) : (resolveFaults s p fpn).place.core = s.place.core := by
  unfold resolveFaults
  repeat' (first | split | intro _ | dsimp only | with_reducible refine (foldl_place _ _ _ ?_).trans ?_)
  all_goals simp

@[simp] theorem abortReq_place (s : State) (r : FaultReq) : (abortReq s r).place.core = s.place.core := by
  unfold abortReq
  repeat' split
  all_goals simp

@[simp] theorem execFaultabort_place (w : Nat) (s : State) : (after s (execFaultabort w s)).place.core = s.place.core := by
  unfold execFaultabort
  repeat' (first | split | apply record_place | intro _ | dsimp only | with_reducible refine (foldl_place _ _ _ ?_).trans ?_)
  all_goals simp

@[simp] theorem snoopPage_place (s : State) (fpn : Nat) : (snoopPage s fpn).place.core = s.place.core := by
  unfold snoopPage
  simp

@[simp] theorem execSealRange_place (w : Nat) (s : State) : (after s (execSealRange w s)).place.core = s.place.core := by
  unfold execSealRange
  repeat' (first | split | apply record_place | intro _ | dsimp only | with_reducible refine (foldl_place _ _ _ ?_).trans ?_)
  all_goals simp

@[simp] theorem execUnsealRange_place (w : Nat) (s : State) : (after s (execUnsealRange w s)).place.core = s.place.core := by
  unfold execUnsealRange
  repeat' (first | split | apply record_place | intro _ | dsimp only)
  all_goals simp

@[simp] theorem execRwack_place (w : Nat) (s : State) : (after s (execRwack w s)).place.core = s.place.core := by
  unfold execRwack
  repeat' (first | split | apply record_place | intro _ | dsimp only)
  all_goals simp

@[simp] theorem putEnt_place (s : State) (fpn : Nat) (f : CadEntry → CadEntry) : (putEnt s fpn f).place.core = s.place.core := by
  unfold putEnt
  simp

@[simp] theorem mapPage_place (s : State) (p fpn rights : Nat) : (mapPage s p fpn rights).place.core = s.place.core := by
  unfold mapPage
  simp

@[simp] theorem mapOne_place (s : State) (w p fpn rights : Nat) : ((mapOne s w p fpn rights).after s).place.core = s.place.core := by
  unfold mapOne
  repeat' (first | split | intro _ | dsimp only)
  all_goals simp

@[simp] theorem unmapOne_place (s : State) (p fpn : Nat) : ((unmapOne s p fpn).after s).place.core = s.place.core := by
  unfold unmapOne
  repeat' split
  all_goals simp

@[simp] theorem cleanOne_place (s : State) (p fpn : Nat) : ((cleanOne s p fpn).after s).place.core = s.place.core := by
  unfold cleanOne
  repeat' split
  all_goals simp

@[simp] theorem pagesFrom_place (one : State → Nat → PageRes) (w first count n : Nat) (s : State)
    (H : ∀ u k, ((one u k).after u).place.core = u.place.core) :
    (pagesFrom one w first count n s).after.place.core = s.place.core := by
  induction n generalizing s with
  | zero => rfl
  | succ n ih =>
    unfold pagesFrom
    dsimp only
    split
    · rfl
    · have key := H s (first + (getWin s w).pagesDone)
      split <;> rename_i heq <;> rw [heq] at key <;> simp at key
      · rfl
      · exact key
      · rw [ih]
        simp [key]

@[simp] theorem pageCmd_place (op : Nat) (lay : List OpField) (w : Nat) (s : State) (one : Nat → Rec → State → Nat → PageRes) (H : ∀ p r u k, ((one p r u k).after u).place.core = u.place.core) : (after s (pageCmd op lay w s one)).place.core = s.place.core := by
  unfold pageCmd
  apply record_place
  intro p r u
  dsimp only
  split
  · rfl
  · exact pagesFrom_place _ _ _ _ _ _ (H p r)

@[simp] theorem execMapPages_place (w : Nat) (s : State) : (after s (execMapPages w s)).place.core = s.place.core := by
  unfold execMapPages
  simp

@[simp] theorem execUnmapPages_place (w : Nat) (s : State) : (after s (execUnmapPages w s)).place.core = s.place.core := by
  unfold execUnmapPages
  simp

@[simp] theorem execCleanPages_place (w : Nat) (s : State) : (after s (execCleanPages w s)).place.core = s.place.core := by
  unfold execCleanPages
  simp

@[simp] theorem zeroPage_place (s : State) (ppn : Nat) : (zeroPage s ppn).place.core = s.place.core := by
  unfold zeroPage
  simp

@[simp] theorem fillDone_place (s : State) (x : ZeroFill) : (fillDone s x).place.core = s.place.core := by
  unfold fillDone
  repeat' split
  all_goals simp

@[simp] theorem execZeroFillComplete_place (fpn : Nat) (s : State) : (after s (execZeroFillComplete fpn s)).place.core = s.place.core := by
  unfold execZeroFillComplete
  repeat' split
  all_goals simp

end Sys2Proof.Machine
end

