-- ==== Sys2Proof/Laws/PlaceRecords.lean ====
section
/-!
SUPPORT. What the operations of Machine/Records.lean do to the placement of cores: nothing.
-/

namespace Sys2Proof.Machine

open Host (Outcome)

@[simp] theorem execSegmentExecute_place (w : Nat) (s : State) : (after s (execSegmentExecute w s)).place.core = s.place.core := by
  unfold execSegmentExecute
  repeat' (first | split | intro _ | dsimp only)
  all_goals simp

@[simp] theorem execSegseal_place (w : Nat) (s : State) : (after s (execSegseal w s)).place.core = s.place.core := by
  unfold execSegseal
  repeat' (first | split | apply record_place | intro _ | dsimp only)
  all_goals simp

@[simp] theorem execNop_place (w : Nat) (s : State) : (after s (execNop w s)).place.core = s.place.core := by
  unfold execNop
  repeat' (first | split | apply record_place | intro _ | dsimp only)
  all_goals simp

@[simp] theorem execLoadp_place (w : Nat) (s : State) : (after s (execLoadp w s)).place.core = s.place.core := by
  unfold execLoadp
  repeat' (first | split | apply record_place | intro _ | dsimp only | with_reducible refine (foldl_place _ _ _ ?_).trans ?_)
  all_goals first | simp; done | (have hh := ghRead_place _ _ _ _ _ _ ‹_›; simp [*]; done) | (have hh := ghRead_place _ _ _ _ _ _ ‹_›; simp at hh; simp [*]; done)

@[simp] theorem argFaults_place (p : Nat) (r : Rec) (l : List (Nat × Nat)) (s : State) :
    (argFaults p r l s).place.core = s.place.core := by
  induction l generalizing s with
  | nil => rfl
  | cons e l ih =>
    obtain ⟨c, i⟩ := e
    unfold argFaults
    split
    · rw [ih]
      exact ghRead_place _ _ _ _ _ _ ‹_›
    · exact ih s

theorem argWait_mem (l : List (Except GhStop (List Byte))) : ∀ t, argWait l = some t → .error (.wait t) ∈ l := by
  induction l with
  | nil => intro t h; contradiction
  | cons e l ih =>
    intro t h
    unfold argWait at h
    split at h
    · contradiction
    · simp_all
    · simp_all

theorem argReads_place (s : State) (p : Nat) (r : Rec) (cs : List Nat) :
    ∀ t, argWait (argReads s p r cs) = some t → t.place.core = s.place.core := by
  intro t h
  have hm := argWait_mem _ _ h
  have key (c a n : Nat) (h : Except.error (GhStop.wait t) = ghRead s p c a n) : t.place.core = s.place.core := by
    have := ghRead_place s p c a n _ h.symm
    simpa using this
  unfold argReads at hm
  split at hm
  · exact key _ _ _ (List.mem_singleton.mp hm)
  · obtain ⟨⟨c, i⟩, -, hc⟩ := List.mem_map.mp hm
    exact key _ _ _ hc.symm

@[simp] theorem startAll_place (s : State) (w p : Nat) (r : Rec) (cs : List Nat) (data : List (List Byte)) : (startAll s w p r cs data).place.core = s.place.core := by
  unfold startAll
  simp

@[simp] theorem execStart_place (w : Nat) (s : State) : (after s (execStart w s)).place.core = s.place.core := by
  unfold execStart
  repeat' (first | split | apply record_place | intro _ | dsimp only)
  all_goals first | simp; done | (have hh := argReads_place _ _ _ _ _ ‹_›; simp [*]; done)

@[simp] theorem execStartCompletion_place (w : Nat) (s : State) : (after s (execStartCompletion w s)).place.core = s.place.core := by
  unfold execStartCompletion
  repeat' (first | split | intro _ | dsimp only)
  all_goals simp

@[simp] theorem execOperand_place (w : Nat) (s : State) : (after s (execOperand w s)).place.core = s.place.core := by
  unfold execOperand
  simp

@[simp] theorem execMcreg_place (w : Nat) (s : State) : (after s (execMcreg w s)).place.core = s.place.core := by
  unfold execMcreg
  repeat' (first | split | apply record_place | intro _ | dsimp only | with_reducible refine (foldl_place _ _ _ ?_).trans ?_)
  all_goals simp

@[simp] theorem execCtxreset_place (w : Nat) (s : State) : (after s (execCtxreset w s)).place.core = s.place.core := by
  unfold execCtxreset
  repeat' (first | split | apply record_place | intro _ | dsimp only)
  all_goals simp

@[simp] theorem execPreset_place (w : Nat) (s : State) : (after s (execPreset w s)).place.core = s.place.core := by
  unfold execPreset
  simp

end Sys2Proof.Machine
end

