-- ==== Sys2Proof/Laws/PlacePreempt.lean ====
section
/-!
SUPPORT. What the operations of Machine/Preempt.lean do to the placement of cores: nothing.
-/

namespace Sys2Proof.Machine

open Host (Outcome)

@[simp] theorem preemptLaunch_place (s : State) (c k : Nat) : (preemptLaunch s c k).place.core = s.place.core := by
  unfold preemptLaunch
  repeat' split
  all_goals simp

@[simp] theorem preemptTiles_place (s : State) (c k : Nat) : (preemptTiles s c k).place.core = s.place.core := by
  unfold preemptTiles
  simp

@[simp] theorem beginPreempt_place (s : State) (p c k : Nat) : (beginPreempt s p c k).place.core = s.place.core := by
  unfold beginPreempt
  simp

@[simp] theorem endPreempt_place (s : State) (p c k save : Nat) : (endPreempt s p c k save).place.core = s.place.core := by
  unfold endPreempt
  simp

@[simp] theorem execPreempt_place (w : Nat) (s : State) : (after s (execPreempt w s)).place.core = s.place.core := by
  unfold execPreempt
  repeat' (first | split | apply record_place | intro _ | dsimp only)
  all_goals first | simp; done | (have hh := ghWrite_place _ _ _ _ _ _ ‹_›; simp [*]; done) | (have hh := ghWrite_place_error _ _ _ _ _ _ ‹_›; simp at hh; simp [*]; done)

@[simp] theorem restoreBeacons_place (s : State) (p : Nat) (b : List Byte) : (restoreBeacons s p b).place.core = s.place.core := by
  unfold restoreBeacons
  simp

@[simp] theorem reloadCtx_place (s : State) (p c k : Nat) (b : List Byte) : (reloadCtx s p c k b).place.core = s.place.core := by
  unfold reloadCtx
  simp

@[simp] theorem execRestoreCtx_place (w : Nat) (s : State) : (after s (execRestoreCtx w s)).place.core = s.place.core := by
  unfold execRestoreCtx
  repeat' (first | split | apply record_place | intro _ | dsimp only)
  all_goals first | simp; done | (have hh := ghRead_place _ _ _ _ _ _ ‹_›; simp [*]; done) | (have hh := ghRead_place _ _ _ _ _ _ ‹_›; simp at hh; simp [*]; done)

end Sys2Proof.Machine
end

