-- ==== Sys2Proof/Laws/PlaceRepair.lean ====
section
/-!
SUPPORT. What the operations of Machine/Repair.lean do to the placement of cores: nothing.
-/

namespace Sys2Proof.Machine

open Host (Outcome)

@[simp] theorem uncFetch_place (s : State) (u : UncErr) (core ctx : Nat) : (uncFetch s u core ctx).place.core = s.place.core := by
  unfold uncFetch
  simp

@[simp] theorem uncCopy_place (s : State) (u : UncErr) (core ch : Nat) : (uncCopy s u core ch).place.core = s.place.core := by
  unfold uncCopy
  simp

@[simp] theorem uncFar_place (s : State) (u : UncErr) : (uncFar s u).place.core = s.place.core := by
  unfold uncFar
  simp

@[simp] theorem handlingError_place (s : State) (u : UncErr) : (handlingError s u).place.core = s.place.core := by
  unfold handlingError
  simp

@[simp] theorem execUncorrectableError_place (u : UncErr) (s : State) : (after s (execUncorrectableError u s)).place.core = s.place.core := by
  unfold execUncorrectableError
  repeat' split
  all_goals simp

@[simp] theorem scrubWord_place (s : State) (die site idx bad : Nat) : (scrubWord s die site idx bad).place.core = s.place.core := by
  unfold scrubWord
  simp

@[simp] theorem scrubLine_place (s : State) (die l : Nat) (errs : List SymErr) : (scrubLine s die l errs).place.core = s.place.core := by
  unfold scrubLine
  repeat' (first | split | intro _ | dsimp only)
  all_goals simp

@[simp] theorem scrubTo_place (s : State) (die : Nat) (far : Bool) (n : Nat) : (scrubTo s die far n).place.core = s.place.core := by
  unfold scrubTo
  repeat' (first | split | intro _ | dsimp only)
  all_goals first | (simp; done) | (simp [*]; done) | (simp_all; done)

@[simp] theorem execScrubRead_place (die : Nat) (t : ScrubTarget) (s : State) : (after s (execScrubRead die t s)).place.core = s.place.core := by
  unfold execScrubRead
  repeat' (first | split | intro _ | dsimp only)
  all_goals simp

@[simp] theorem startLap_place (s : State) (die : Nat) (far : Bool) : (startLap s die far).place.core = s.place.core := by
  unfold startLap
  simp

@[simp] theorem execLapEnd_place (die : Nat) (far : Bool) (length : Nat) (s : State) : (after s (execLapEnd die far length s)).place.core = s.place.core := by
  unfold execLapEnd
  repeat' (first | split | intro _ | dsimp only)
  all_goals simp

@[simp] theorem leaveCore_place (s : State) (c : Nat) : (leaveCore s c).place.core = s.place.core := by
  unfold leaveCore
  dsimp only
  exact (foldl_place _ _ _ (by simp)).trans (by simp)

@[simp] theorem fenceSite_place (s : State) (c : Nat) : (fenceSite s c).place.core = s.place.core := by
  unfold fenceSite
  simp

@[simp] theorem dropParcelFlits_place (s : State) (p : Nat) : (dropParcelFlits s p).place.core = s.place.core := by
  unfold dropParcelFlits
  simp

@[simp] theorem restoreShadow_place (s : State) (p : Nat) : (restoreShadow s p).place.core = s.place.core := by
  unfold restoreShadow
  simp

@[simp] theorem restoreOperands_place (s : State) (p : Nat) : (restoreOperands s p).place.core = s.place.core := by
  unfold restoreOperands
  repeat' (first | split | intro _ | dsimp only | with_reducible refine (foldl_place _ _ _ ?_).trans ?_)
  all_goals simp

@[simp] theorem execStepReplay_place (p : Nat) (s : State) : (after s (execStepReplay p s)).place.core = s.place.core := by
  unfold execStepReplay
  repeat' (first | split | intro _ | dsimp only | with_reducible refine (foldl_place _ _ _ ?_).trans ?_)
  all_goals simp

@[simp] theorem failStopNow_place (s : State) : (failStopNow s).place.core = s.place.core := by
  unfold failStopNow
  split
  · rfl
  · dsimp only
    refine (foldl_place _ _ _ ?_).trans ?_
    · intro _ _
      split <;> simp
    · split <;> simp

@[simp] theorem execModuleFailStop_place (cls : Nat) (s : State) : (after s (execModuleFailStop cls s)).place.core = s.place.core := by
  unfold execModuleFailStop
  repeat' split
  all_goals simp

end Sys2Proof.Machine
end

