-- ==== Sys2Proof/Laws/PlaceHostPort.lean ====
section
/-!
SUPPORT. What the operations of Machine/HostPort.lean do to the placement of cores: nothing.
-/

namespace Sys2Proof.Machine

open Host (Outcome)

@[simp] theorem poisonedRead_place (s : State) (k n : Nat) : (poisonedRead s k n).place.core = s.place.core := by
  unfold poisonedRead
  simp

@[simp] theorem countRefused_place (s : State) (q fpn : Nat) (by_ : Bool) : (countRefused s q fpn by_).place.core = s.place.core := by
  unfold countRefused
  rfl

@[simp] theorem recordRefused_place (s : State) (q fpn off reason named : Nat) : (recordRefused s q fpn off reason named).place.core = s.place.core := by
  unfold recordRefused
  simp

@[simp] theorem refusedPage_place (s : State) (q fpn off reason : Nat) : (refusedPage s q fpn off reason).place.core = s.place.core := by
  unfold refusedPage
  dsimp only
  split <;> simp

@[simp] theorem refusedByPort_place (s : State) (k fpn off named : Nat) : (refusedByPort s k fpn off named).place.core = s.place.core := by
  have h (l : List Nat) : (l.foldl (fun s p => countRefused s p fpn true) s).place.core = s.place.core :=
    foldl_place _ _ _ (by simp)
  unfold refusedByPort
  dsimp only
  split
  · exact h _
  · split
    · exact h _
    · simp [h]

@[simp] theorem refuseHost_place (s : State) (k p fa reason : Nat) (wr : Bool) : (refuseHost s k p fa reason wr).place.core = s.place.core := by
  unfold refuseHost
  repeat' (first | split | intro _ | dsimp only)
  all_goals simp

@[simp] theorem cadFetch_place (s : State) (fpn : Nat) : (cadFetch s fpn).place.core = s.place.core := by
  unfold cadFetch
  simp

@[simp] theorem lineFetch_place (s : State) (fa : Nat) (dirty : Bool) : (lineFetch s fa dirty).place.core = s.place.core := by
  unfold lineFetch
  simp

@[simp] theorem trackLine_place (s : State) (k fa : Nat) : (trackLine s k fa).place.core = s.place.core := by
  unfold trackLine
  simp

@[simp] theorem applyHostWrite_place (s : State) (fa : Nat) (data : List Byte) (b : Bool) : (applyHostWrite s fa data b).place.core = s.place.core := by
  unfold applyHostWrite
  dsimp only
  split <;> simp

/-- The state that an access leaves, served or not. -/
def served : Except State State → State
  | .ok s | .error s => s

@[simp] theorem serveWrite_place (s : State) (k : Nat) (a : HostAcc) : (served (serveWrite s k a)).place.core = s.place.core := by
  unfold serveWrite
  repeat' (first | dsimp only | split)
  all_goals simp [served]

@[simp] theorem serveRead_place (s : State) (k : Nat) (a : HostAcc) : (served (serveRead s k a)).place.core = s.place.core := by
  unfold serveRead
  repeat' (first | dsimp only | split)
  all_goals simp [served]

@[simp] theorem dropWrite_place (s : State) (w : Nat) : (dropWrite s w).place.core = s.place.core := by
  unfold dropWrite
  simp

@[simp] theorem serveRecord_place (s : State) (k : Nat) (a : HostAcc) : (serveRecord s k a).place.core = s.place.core := by
  unfold serveRecord
  repeat' (first | dsimp only | split)
  all_goals simp

@[simp] theorem serveAcc_place (s : State) (k : Nat) (a : HostAcc) : (served (serveAcc s k a)).place.core = s.place.core := by
  unfold serveAcc
  split
  · exact serveRecord_place s k a
  · split <;> simp

@[simp] theorem acceptAcc_place (s : State) (k : Nat) (a : HostAcc) : (after s (acceptAcc s k a)).place.core = s.place.core := by
  unfold acceptAcc
  dsimp only
  have h := serveAcc_place (bump s (hpBlock k) (if a.write then 1 else 0) 1) k a
  generalize hu : bump s (hpBlock k) (if a.write then 1 else 0) 1 = u at h ⊢
  have hp : u.place.core = s.place.core := by rw [← hu]; simp
  split
  · simp
  · split
    · simpa using hp
    · cases e : serveAcc u k a <;> rw [e] at h <;> simpa [served, hp] using h

@[simp] theorem pumpPort_place (k n : Nat) (s : State) : (pumpPort k n s).place.core = s.place.core := by
  induction n generalizing s with
  | zero => rw [pumpPort]
  | succ n ih =>
    rw [pumpPort]
    split
    · rfl
    · have h := serveAcc_place s k ‹_›
      split <;> rename_i heq <;> rw [heq] at h
      · rw [ih]
        simpa [served] using h
      · exact h

@[simp] theorem pumpHosts_place (s : State) : (pumpHosts s).place.core = s.place.core := by
  unfold pumpHosts
  dsimp only
  rw [wakeAll_place]
  exact foldl_place _ _ _ (by simp)

@[simp] theorem execHostMemWrite_place (port off : Nat) (data : List Byte) (s : State) : (after s (execHostMemWrite port off data s)).place.core = s.place.core := by
  unfold execHostMemWrite
  repeat' (first | split | intro _ | dsimp only)
  all_goals simp

@[simp] theorem execHostMemRead_place (port off len : Nat) (s : State) : (after s (execHostMemRead port off len s)).place.core = s.place.core := by
  unfold execHostMemRead
  repeat' (first | split | intro _ | dsimp only)
  all_goals simp

@[simp] theorem execPageRetirementComplete_place (port : Nat) (s : State) : (after s (execPageRetirementComplete port s)).place.core = s.place.core := by
  unfold execPageRetirementComplete
  split <;> simp

@[simp] theorem execWindowRecordWrite_place (port off : Nat) (data : List Byte) (s : State) : (after s (execWindowRecordWrite port off data s)).place.core = s.place.core := by
  unfold execWindowRecordWrite
  split <;> simp

@[simp] theorem execDecoder1Read_place (port off len : Nat) (s : State) : (after s (execDecoder1Read port off len s)).place.core = s.place.core := by
  unfold execDecoder1Read
  repeat' (first | split | intro _ | dsimp only)
  all_goals simp

@[simp] theorem dropSnoop_place (s : State) (x : SnoopLine) : (dropSnoop s x).place.core = s.place.core := by
  unfold dropSnoop
  simp

@[simp] theorem writeBack_place (s : State) (port fa : Nat) (data : List Byte) : (writeBack s port fa data).place.core = s.place.core := by
  unfold writeBack
  generalize (getEnt s (fa / 2 ^ 24)).owner.toNat = p
  dsimp only
  repeat' split
  all_goals simp

@[simp] theorem lateWriteBack_place (s : State) (port fa : Nat) (data : List Byte) : (lateWriteBack s port fa data).place.core = s.place.core := by
  unfold lateWriteBack
  split
  · rfl
  · exact (refuseHost_place _ _ _ _ _ _).trans (by simp)

@[simp] theorem answered_place (s : State) (x : SnoopLine) : (answered s x).place.core = s.place.core := by
  unfold answered takeFree
  repeat' (first | dsimp only | split)
  all_goals simp

@[simp] theorem execBisnpResponse_place (port line : Nat) (data : List Byte) (s : State) : (after s (execBisnpResponse port line data s)).place.core = s.place.core := by
  unfold execBisnpResponse
  repeat' split
  all_goals simp

@[simp] theorem execSnoopTimeout_place (port line : Nat) (s : State) : (after s (execSnoopTimeout port line s)).place.core = s.place.core := by
  unfold execSnoopTimeout
  repeat' split
  all_goals simp

@[simp] theorem execH2dSnoop_place (port : Nat) (s : State) : (after s (execH2dSnoop port s)).place.core = s.place.core := by
  unfold execH2dSnoop
  repeat' split
  all_goals simp

@[simp] theorem execRecordGloballyObserved_place (port : Nat) (s : State) : (after s (execRecordGloballyObserved port s)).place.core = s.place.core := by
  unfold execRecordGloballyObserved
  repeat' split
  all_goals simp

@[simp] theorem portEvent_place (s : State) (k : Nat) : (portEvent s k).place.core = s.place.core := by
  unfold portEvent
  simp

@[simp] theorem linkFalls_place (s : State) (k : Nat) : (linkFalls s k).place.core = s.place.core := by
  unfold linkFalls
  simp

@[simp] theorem execPortLinkEvent_place (port : Nat) (ev : LinkEvent) (s : State) : (after s (execPortLinkEvent port ev s)).place.core = s.place.core := by
  unfold execPortLinkEvent
  repeat' split
  all_goals simp

@[simp] theorem execPerstN_place (port : Nat) (asserted : Bool) (s : State) : (after s (execPerstN port asserted s)).place.core = s.place.core := by
  unfold execPerstN
  repeat' split
  all_goals simp

@[simp] theorem execCxlLinkUp_place (port speed width : Nat) (s : State) : (after s (execCxlLinkUp port speed width s)).place.core = s.place.core := by
  unfold execCxlLinkUp
  repeat' split
  all_goals simp

@[simp] theorem execHostConfigRequest_place (port : Nat) (s : State) : (after s (execHostConfigRequest port s)).place.core = s.place.core := by
  unfold execHostConfigRequest takeFree
  repeat' (first | dsimp only | split)
  all_goals simp

@[simp] theorem execHdmDecoderCommit_place (port dec base : Nat) (s : State) : (after s (execHdmDecoderCommit port dec base s)).place.core = s.place.core := by
  unfold execHdmDecoderCommit
  repeat' split
  all_goals simp

end Sys2Proof.Machine
end

