-- ==== Sys2Proof/Laws/PlaceRegs.lean ====
section
/-!
SUPPORT. What the operations of Machine/Regs.lean do to the placement of cores: nothing.
-/

namespace Sys2Proof.Machine

open Host (Outcome)

@[simp] theorem ctrVal_place (s : State) (b : Nat) (k : Blk) (i : Nat) : (ctrVal s b k i).2.place.core = s.place.core := by
  unfold ctrVal
  repeat' split
  all_goals simp

@[simp] theorem countFilt_place (s : State) (e : Src) : (countFilt s e).place.core = s.place.core := by
  cases e <;> simp only [countFilt] <;> (repeat' split) <;> simp

@[simp] theorem commonRead_place (s : State) (src : Src) (b : Nat) (k : Blk) (off : Nat) : (commonRead s src b k off).2.place.core = s.place.core := by
  unfold commonRead
  split <;> simp

@[simp] theorem dropLatch_place (s : State) (src : Src) (b : Nat) : (dropLatch s src b).place.core = s.place.core := by
  unfold dropLatch
  simp

@[simp] theorem ctrRead_place (s : State) (src : Src) (b : Nat) (k : Blk) (i : Nat) (hi : Bool) : (ctrRead s src b k i hi).2.place.core = s.place.core := by
  unfold ctrRead
  have hh := ctrVal_place s b k i
  revert hh
  generalize ctrVal s b k i = r
  intro hh
  dsimp only
  repeat' split
  all_goals first | simp | skip
  all_goals simpa using hh

@[simp] theorem regRead_place (s : State) (src : Src) (addr : Nat) : (regRead s src addr).2.place.core = s.place.core := by
  unfold regRead
  repeat' (first | split | intro _ | dsimp only)
  all_goals simp

@[simp] theorem execCounterLowRead_place (src : Src) (addr : Nat) (s : State) : (after s (execCounterLowRead src addr s)).place.core = s.place.core := by
  unfold execCounterLowRead
  repeat' (first | split | intro _ | dsimp only)
  all_goals simp

@[simp] theorem captureCtrs_place (b : Nat) (k : Blk) (n i : Nat) (s : State) :
    (captureCtrs b k n i s).place.core = s.place.core := by
  induction n generalizing s i with
  | zero => rfl
  | succ n ih => unfold captureCtrs; rw [ih]; simp

@[simp] theorem capture_place (s : State) (b : Nat) (k : Blk) (ident : W32) : (capture s b k ident).place.core = s.place.core := by
  unfold capture
  have h1 := captureCtrs_place b k (blkCtrs k).length 0 s
  revert h1
  generalize captureCtrs b k (blkCtrs k).length 0 s = s1
  intro h1
  dsimp only
  split <;> simp [h1]

end Sys2Proof.Machine
end

