-- ==== Sys2Proof/Laws/PlaceRegWrite.lean ====
section
/-!
SUPPORT. What the operations of Machine/RegWrite.lean do to the placement of cores: nothing.
-/

namespace Sys2Proof.Machine

open Host (Outcome)

@[simp] theorem lockFor_place (s : State) (b : Nat) (src : Src) : (lockFor s b src).place.core = s.place.core := by
  unfold lockFor
  simp

@[simp] theorem unlockFor_place (s : State) (b : Nat) (src : Src) : (unlockFor s b src).place.core = s.place.core := by
  unfold unlockFor
  simp

@[simp] theorem setWign_place (s : State) (b : Nat) : (setWign s b).place.core = s.place.core := by
  unfold setWign
  simp

@[simp] theorem checkFail_place (s : State) (b : Nat) (k : Blk) : (checkFail s b k).place.core = s.place.core := by
  unfold checkFail
  repeat' split
  all_goals simp

@[simp] theorem runCheck_place (s : State) (b : Nat) (k : Blk) : (runCheck s b k).place.core = s.place.core := by
  unfold runCheck
  repeat' split
  all_goals simp

@[simp] theorem takeBacklog_place (s : State) (w : Nat) : (takeBacklog s w).place.core = s.place.core := by
  unfold takeBacklog
  simp

@[simp] theorem openWin_place (s : State) (w : Nat) : (openWin s w).place.core = s.place.core := by
  unfold openWin
  simp

@[simp] theorem writeWinCtl_place (s : State) (w al : Nat) (v : W32) : (writeWinCtl s w al v).place.core = s.place.core := by
  unfold writeWinCtl
  simp

@[simp] theorem writeRwe_place (s : State) (w al : Nat) (v : W32) (f : Window → Window) : (writeRwe s w al v f).place.core = s.place.core := by
  unfold writeRwe
  simp

@[simp] theorem writeWin_place (s : State) (w off al : Nat) (v : W32) : (writeWin s w off al v).place.core = s.place.core := by
  unfold writeWin
  simp

@[simp] theorem writeCadSel_place (s : State) (src : Src) (die al : Nat) (v : W32) : (writeCadSel s src die al v).place.core = s.place.core := by
  unfold writeCadSel
  simp

@[simp] theorem writeGkCtl_place (s : State) (die al : Nat) (v : W32) : (writeGkCtl s die al v).place.core = s.place.core := by
  unfold writeGkCtl
  simp

@[simp] theorem mapWrite_place (s : State) (src : Src) (k : Blk) (off al : Nat) (v : W32) : (mapWrite s src k off al v).place.core = s.place.core := by
  unfold mapWrite
  repeat' split
  all_goals simp

@[simp] theorem clearCtrs_place (s : State) (b : Nat) (k : Blk) : (clearCtrs s b k).place.core = s.place.core := by
  unfold clearCtrs
  repeat' split
  all_goals simp

@[simp] theorem commonWrite_place (s : State) (b : Nat) (k : Blk) (off al : Nat) (v : W32) : (commonWrite s b k off al v).place.core = s.place.core := by
  unfold commonWrite
  simp

@[simp] theorem regWrite_place (s : State) (src : Src) (addr : Nat) (v : W32) : (regWrite s src addr v).place.core = s.place.core := by
  unfold regWrite
  repeat' (first | split | intro _ | dsimp only)
  all_goals simp

@[simp] theorem regRow_place (src : Src) (addr : Nat) (v : W32) (s : State) : (after s (regRow src addr v s)).place.core = s.place.core := by
  unfold regRow
  repeat' split
  all_goals simp

@[simp] theorem execRegisterWrite_place (src : Src) (addr : Nat) (v : W32) (s : State) : (after s (execRegisterWrite src addr v s)).place.core = s.place.core := by
  unfold execRegisterWrite
  repeat' split
  all_goals simp

@[simp] theorem execWindowEnable_place (src : Src) (w al : Nat) (v : W32) (s : State) : (after s (execWindowEnable src w al v s)).place.core = s.place.core := by
  unfold execWindowEnable
  repeat' split
  all_goals simp

@[simp] theorem execWindowDisable_place (src : Src) (w al : Nat) (v : W32) (s : State) : (after s (execWindowDisable src w al v s)).place.core = s.place.core := by
  unfold execWindowDisable
  repeat' split
  all_goals simp

@[simp] theorem execCrHeadWrite_place (src : Src) (w al : Nat) (v : W32) (s : State) : (after s (execCrHeadWrite src w al v s)).place.core = s.place.core := by
  unfold execCrHeadWrite
  repeat' split
  all_goals simp

@[simp] theorem commonRow_place (src : Src) (block off : Nat) (v : W32) (s : State) : (after s (commonRow src block off v s)).place.core = s.place.core := by
  unfold commonRow
  repeat' split
  all_goals simp

@[simp] theorem execUnlock_place (src : Src) (block : Nat) (v : W32) (s : State) : (after s (execUnlock src block v s)).place.core = s.place.core := by
  unfold execUnlock
  simp

@[simp] theorem execSnap_place (src : Src) (block : Nat) (v : W32) (s : State) : (after s (execSnap src block v s)).place.core = s.place.core := by
  unfold execSnap
  simp

@[simp] theorem execCclr_place (src : Src) (block : Nat) (v : W32) (s : State) : (after s (execCclr src block v s)).place.core = s.place.core := by
  unfold execCclr
  repeat' split
  all_goals simp

@[simp] theorem execScancel_place (src : Src) (block : Nat) (v : W32) (s : State) : (after s (execScancel src block v s)).place.core = s.place.core := by
  unfold execScancel
  repeat' split
  all_goals simp

@[simp] theorem execConfigCheck_place (block : Nat) (s : State) : (after s (execConfigCheck block s)).place.core = s.place.core := by
  unfold execConfigCheck
  repeat' split
  all_goals simp

@[simp] theorem execCadSel_place (src : Src) (die : Nat) (v : W32) (s : State) : (after s (execCadSel src die v s)).place.core = s.place.core := by
  unfold execCadSel
  repeat' split
  all_goals simp

@[simp] theorem execGroundskeeperEnable_place (src : Src) (die al : Nat) (v : W32) (s : State) : (after s (execGroundskeeperEnable src die al v s)).place.core = s.place.core := by
  unfold execGroundskeeperEnable
  repeat' split
  all_goals simp

@[simp] theorem startSnapshot_place (s : State) (ident : W32) (p : Option Nat) : (startSnapshot s ident p).place.core = s.place.core := by
  unfold startSnapshot
  repeat' (first | split | intro _ | dsimp only | with_reducible refine (foldl_place _ _ _ ?_).trans ?_)
  all_goals simp

@[simp] theorem execSnapshotComplete_place (missed : List Nat) (s : State) : (after s (execSnapshotComplete missed s)).place.core = s.place.core := by
  unfold execSnapshotComplete
  repeat' split
  all_goals simp

end Sys2Proof.Machine
end

