-- ==== Sys2Proof/Laws/PlaceFirm.lean ====
section
/-!
SUPPORT. What the operations of Machine/Firm.lean do to the placement of cores: nothing.
-/

namespace Sys2Proof.Machine

open Host (Outcome)

@[simp] theorem deny_place (s : State) (status : Nat) : (deny s status).2.place.core = s.place.core := by
  unfold deny
  simp

@[simp] theorem grant_place (s : State) : (grant s).2.place.core = s.place.core := by
  unfold grant
  simp

@[simp] theorem setStat_place (s : State) (i : Nat) (v : Byte) : (setStat s i v).place.core = s.place.core := by
  unfold setStat
  simp

@[simp] theorem setSlot_place (s : State) (i : Nat) (b : List Byte) : (setSlot s i b).place.core = s.place.core := by
  unfold setSlot
  simp

@[simp] theorem startLodge_place (s : State) (i : Nat) : (startLodge s i).place.core = s.place.core := by
  unfold startLodge
  simp

@[simp] theorem bootFail_place (s : State) (i : Nat) : (bootFail s i).place.core = s.place.core := by
  unfold bootFail
  simp

@[simp] theorem execBootRomVerify_place (s : State) : (after s (execBootRomVerify s)).place.core = s.place.core := by
  unfold execBootRomVerify
  repeat' (first | split | intro _ | dsimp only)
  all_goals simp

@[simp] theorem execRecovery_place (s : State) : (after s (execRecovery s)).place.core = s.place.core := by
  unfold execRecovery
  repeat' split
  all_goals simp

@[simp] theorem openUpload_place (s : State) : (openUpload s).place.core = s.place.core := by
  unfold openUpload
  simp

@[simp] theorem closeUpload_place (s : State) (b : List Byte) : (closeUpload s b).2.place.core = s.place.core := by
  unfold closeUpload
  repeat' split
  all_goals simp

@[simp] theorem execFwUpload_place (slot : Nat) (bundle : List Byte) (s : State) : (after s (execFwUpload slot bundle s)).place.core = s.place.core := by
  unfold execFwUpload
  repeat' split
  all_goals simp

@[simp] theorem putFwNext_place (s : State) (v : Nat) : (putFwNext s v).2.place.core = s.place.core := by
  unfold putFwNext
  repeat' split
  all_goals simp

@[simp] theorem putSvnBurn_place (s : State) (v : Nat) : (putSvnBurn s v).2.place.core = s.place.core := by
  unfold putSvnBurn
  repeat' split
  all_goals simp

@[simp] theorem putSpdm_place (s : State) (src : Requester) (req : List Byte) : (putSpdm s src req).2.place.core = s.place.core := by
  unfold putSpdm
  simp

@[simp] theorem putNonce_place (s : State) (src : Requester) (nonce : List Byte) : (putNonce s src nonce).2.place.core = s.place.core := by
  unfold putNonce
  repeat' split
  all_goals simp

end Sys2Proof.Machine
end

