-- ==== Sys2Proof/Laws/PlaceParcels.lean ====
section
/-!
SUPPORT. What the operations of Machine/Parcels.lean do to the placement of cores: nothing.
-/

namespace Sys2Proof.Machine

open Host (Outcome)

@[simp] theorem createParcel_place (s : State) (p : Nat) : (createParcel s p).2.place.core = s.place.core := by
  unfold createParcel
  repeat' (first | split | intro _ | dsimp only)
  all_goals simp

@[simp] theorem unmapAll_place (s : State) (p : Nat) : (unmapAll s p).place.core = s.place.core := by
  unfold unmapAll
  simp

@[simp] theorem endRemoved_place (s : State) (w : Nat) : (endRemoved s w).place.core = s.place.core := by
  unfold endRemoved
  repeat' (first | split | intro _ | dsimp only)
  all_goals first | (simp; done) | (simp [*]; done) | (simp_all; done)

@[simp] theorem removeParcel_place (s : State) (p : Nat) : (removeParcel s p).2.place.core = s.place.core := by
  unfold removeParcel
  repeat' split
  all_goals simp

@[simp] theorem resetParcel_place (s : State) (p : Nat) : (resetParcel s p).2.place.core = s.place.core := by
  unfold resetParcel
  repeat' split
  all_goals simp

@[simp] theorem putPclCtl_place (s : State) (p v : Nat) : (putPclCtl s p v).2.place.core = s.place.core := by
  unfold putPclCtl
  repeat' split
  all_goals simp

@[simp] theorem putPclPort_place (s : State) (p v : Nat) : (putPclPort s p v).2.place.core = s.place.core := by
  unfold putPclPort
  repeat' split
  all_goals simp

@[simp] theorem stageOr_place (s : State) (p : Nat) (k : StageKey) (v : Nat) : (stageOr s p k v).2.place.core = s.place.core := by
  unfold stageOr
  repeat' split
  all_goals simp

@[simp] theorem putPclBeds_place (s : State) (p v : Nat) : (putPclBeds s p v).2.place.core = s.place.core := by
  unfold putPclBeds
  repeat' (first | split | intro _ | dsimp only)
  all_goals simp

@[simp] theorem putBcnAlloc_place (s : State) (p die v : Nat) : (putBcnAlloc s p die v).2.place.core = s.place.core := by
  unfold putBcnAlloc
  repeat' split
  all_goals simp

@[simp] theorem putCompat_place (s : State) (p v : Nat) : (putCompat s p v).2.place.core = s.place.core := by
  unfold putCompat
  repeat' split
  all_goals simp

@[simp] theorem putReplayLimit_place (s : State) (p v : Nat) : (putReplayLimit s p v).2.place.core = s.place.core := by
  unfold putReplayLimit
  simp

@[simp] theorem putTally_place (s : State) (p v : Nat) : (putTally s p v).2.place.core = s.place.core := by
  unfold putTally
  repeat' split
  all_goals simp

@[simp] theorem putArea_place (s : State) (p v : Nat) : (putArea s p v).2.place.core = s.place.core := by
  unfold putArea
  repeat' (first | split | intro _ | dsimp only)
  all_goals simp

@[simp] theorem putClkBed_place (s : State) (bed v : Nat) : (putClkBed s bed v).2.place.core = s.place.core := by
  unfold putClkBed
  repeat' split
  all_goals simp

@[simp] theorem unstage_place (s : State) (p : Nat) (k : StageKey) : (unstage s p k).place.core = s.place.core := by
  unfold unstage
  simp

end Sys2Proof.Machine
end

