-- ==== Sys2Proof/Laws/PlacePower.lean ====
section
/-!
SUPPORT. What the operations of Machine/Power.lean do to the placement of cores: nothing.
-/

namespace Sys2Proof.Machine

open Host (Outcome)

@[simp] theorem modPwr_place (s : State) (f : Power → Power) : (modPwr s f).place.core = s.place.core := by
  unfold modPwr
  simp

@[simp] theorem setVin_place (s : State) (vin : Nat) : (setVin s vin).place.core = s.place.core := by
  unfold setVin
  simp

@[simp] theorem tellPeer_place (s : State) (cls cause : Nat) : (tellPeer s cls cause).place.core = s.place.core := by
  unfold tellPeer
  simp

@[simp] theorem beginStop_place (s : State) : (beginStop s).place.core = s.place.core := by
  unfold beginStop
  simp

@[simp] theorem powerEventAt_place (s : State) : (powerEventAt s).place.core = s.place.core := by
  unfold powerEventAt
  simp

@[simp] theorem execPowerEvent_place (vin : Nat) (s : State) : (after s (execPowerEvent vin s)).place.core = s.place.core := by
  unfold execPowerEvent
  repeat' split
  all_goals simp

@[simp] theorem execHostPortsPoison_place (s : State) : (after s (execHostPortsPoison s)).place.core = s.place.core := by
  unfold execHostPortsPoison
  repeat' split
  all_goals simp

@[simp] theorem execPowerHalt_place (s : State) : (after s (execPowerHalt s)).place.core = s.place.core := by
  unfold execPowerHalt
  repeat' split
  all_goals simp

@[simp] theorem execInputReady_place (vin : Nat) (s : State) : (after s (execInputReady vin s)).place.core = s.place.core := by
  unfold execInputReady
  repeat' split
  all_goals simp

@[simp] theorem execOverVoltageWarning_place (vin : Nat) (s : State) : (after s (execOverVoltageWarning vin s)).place.core = s.place.core := by
  unfold execOverVoltageWarning
  repeat' split
  all_goals simp

@[simp] theorem execOverVoltageClear_place (vin : Nat) (s : State) : (after s (execOverVoltageClear vin s)).place.core = s.place.core := by
  unfold execOverVoltageClear
  repeat' split
  all_goals simp

@[simp] theorem execOverVoltageTrip_place (vin : Nat) (s : State) : (after s (execOverVoltageTrip vin s)).place.core = s.place.core := by
  unfold execOverVoltageTrip
  repeat' split
  all_goals simp

@[simp] theorem State.persist_place (s : State) : (State.persist s).place.core = s.place.core := by
  unfold State.persist
  simp

@[simp] theorem execLodgeSupplyUp_place (vin : Nat) (s : State) : (after s (execLodgeSupplyUp vin s)).place.core = s.place.core := by
  unfold execLodgeSupplyUp
  repeat' split
  all_goals simp

@[simp] theorem execLodgeSupplyLoss_place (vin : Nat) (s : State) : (after s (execLodgeSupplyLoss vin s)).place.core = s.place.core := by
  unfold execLodgeSupplyLoss
  repeat' split
  all_goals simp

@[simp] theorem endOpenHandling_place (s : State) : (endOpenHandling s).place.core = s.place.core := by
  unfold endOpenHandling
  simp

@[simp] theorem beginWarm_place (s : State) (cause : Nat) : (beginWarm s cause).place.core = s.place.core := by
  unfold beginWarm
  simp

@[simp] theorem putModReset_place (s : State) (v : Nat) : (putModReset s v).2.place.core = s.place.core := by
  unfold putModReset
  repeat' split
  all_goals simp

@[simp] theorem stopFor_place (s : State) (i : Inc) (cause : Nat) : (stopFor s i cause).place.core = s.place.core := by
  unfold stopFor
  simp

@[simp] theorem levelReset_place (s : State) (asserted : Bool) : (levelReset s asserted).place.core = s.place.core := by
  unfold levelReset
  simp

@[simp] theorem levelFence_place (s : State) (asserted : Bool) : (levelFence s asserted).place.core = s.place.core := by
  unfold levelFence
  simp

@[simp] theorem levelWarn_place (s : State) (asserted : Bool) : (levelWarn s asserted).place.core = s.place.core := by
  unfold levelWarn
  simp

@[simp] theorem levelPerst_place (s : State) (port : Nat) (asserted : Bool) : (levelPerst s port asserted).place.core = s.place.core := by
  unfold levelPerst
  simp

@[simp] theorem setLevel_place (s : State) (e : Pin) (b : Bool) : (setLevel s e b).place.core = s.place.core := by
  cases e <;> simp only [setLevel] <;> (repeat' split) <;> simp

@[simp] theorem pinRow_place (s : State) (p : Pin) (now asserted : Bool) : (after s (pinRow s p now asserted)).place.core = s.place.core := by
  unfold pinRow
  repeat' split
  all_goals simp

@[simp] theorem execResetN_place (asserted : Bool) (s : State) : (after s (execResetN asserted s)).place.core = s.place.core := by
  unfold execResetN
  simp

@[simp] theorem execFenceN_place (s : State) : (after s (execFenceN s)).place.core = s.place.core := by
  unfold execFenceN
  simp

@[simp] theorem execFenceNRelease_place (s : State) : (after s (execFenceNRelease s)).place.core = s.place.core := by
  unfold execFenceNRelease
  simp

@[simp] theorem execPwrWarnN_place (s : State) : (after s (execPwrWarnN s)).place.core = s.place.core := by
  unfold execPwrWarnN
  simp

@[simp] theorem execPwrWarnNRelease_place (s : State) : (after s (execPwrWarnNRelease s)).place.core = s.place.core := by
  unfold execPwrWarnNRelease
  simp

@[simp] theorem execResetNHeld_place (s : State) : (after s (execResetNHeld s)).place.core = s.place.core := by
  unfold execResetNHeld
  repeat' split
  all_goals simp

@[simp] theorem execInputFlapping_place (pin : Pin) (s : State) : (after s (execInputFlapping pin s)).place.core = s.place.core := by
  unfold execInputFlapping
  repeat' split
  all_goals simp

@[simp] theorem execLockoutEnd_place (pin : Pin) (asserted : Bool) (s : State) : (after s (execLockoutEnd pin asserted s)).place.core = s.place.core := by
  unfold execLockoutEnd
  repeat' split
  all_goals simp

@[simp] theorem execTemperatureSample_place (tj : Int) (iin pin : Nat) (s : State) : (after s (execTemperatureSample tj iin pin s)).place.core = s.place.core := by
  unfold execTemperatureSample
  repeat' (first | split | intro _ | dsimp only)
  all_goals simp

@[simp] theorem execTemperatureWarning_place (s : State) : (after s (execTemperatureWarning s)).place.core = s.place.core := by
  unfold execTemperatureWarning
  repeat' split
  all_goals simp

@[simp] theorem execThermalTrip_place (s : State) : (after s (execThermalTrip s)).place.core = s.place.core := by
  unfold execThermalTrip
  repeat' split
  all_goals simp

@[simp] theorem execClockLockLoss_place (dom : Nat) (s : State) : (after s (execClockLockLoss dom s)).place.core = s.place.core := by
  unfold execClockLockLoss
  repeat' split
  all_goals simp

@[simp] theorem toStep_place (s : State) (n : Nat) : (toStep s n).place.core = s.place.core := by
  unfold toStep
  simp

@[simp] theorem failStep_place (s : State) (n : Nat) : (failStep s n).place.core = s.place.core := by
  unfold failStep
  simp

@[simp] theorem execBringupStepFailed_place (stp : Nat) (s : State) : (after s (execBringupStepFailed stp s)).place.core = s.place.core := by
  unfold execBringupStepFailed
  repeat' split
  all_goals simp

@[simp] theorem holdFor_place (s : State) (p : Pin) : (holdFor s p).place.core = s.place.core := by
  unfold holdFor
  simp

@[simp] theorem refence_place (s : State) : (refence s).place.core = s.place.core := by
  unfold refence
  simp

@[simp] theorem addSoft_place (s : State) (r : Nat × Nat) : (addSoft s r).place.core = s.place.core := by
  unfold addSoft
  simp

@[simp] theorem loadPlat_place (s : State) : (loadPlat s).place.core = s.place.core := by
  unfold loadPlat
  repeat' (first | split | intro _ | dsimp only)
  all_goals first | (simp; done) | (simp [*]; done) | (simp_all; done)

@[simp] theorem nearSpare_place (s : State) (r : Nat × Nat) : (nearSpare s r).place.core = s.place.core := by
  unfold nearSpare
  repeat' (first | split | intro _ | dsimp only)
  all_goals first | (simp; done) | (simp [*]; done) | (simp_all; done)

@[simp] theorem softCleared_place (s : State) : (softCleared s).place.core = s.place.core := by
  unfold softCleared
  simp

@[simp] theorem execComputeRamp_place (s : State) : (after s (execComputeRamp s)).place.core = s.place.core := by
  unfold execComputeRamp
  repeat' split
  all_goals simp

@[simp] theorem execGatehouseImageLoad_place (s : State) : (after s (execGatehouseImageLoad s)).place.core = s.place.core := by
  unfold execGatehouseImageLoad
  repeat' (first | split | intro _ | dsimp only)
  all_goals simp

@[simp] theorem setTrained_place (s : State) (links : BitVec 20) (lanes : Byte) : (setTrained s links lanes).place.core = s.place.core := by
  unfold setTrained
  simp

@[simp] theorem trainPorts_place (s : State) : (trainPorts s).place.core = s.place.core := by
  unfold trainPorts
  simp

@[simp] theorem execLinkTraining_place (links : Nat) (lanes : Byte) (s : State) : (after s (execLinkTraining links lanes s)).place.core = s.place.core := by
  unfold execLinkTraining
  repeat' split
  all_goals simp

@[simp] theorem reapply_place (s : State) (e : Nat × Nat) : (reapply s e).place.core = s.place.core := by
  unfold reapply
  simp

@[simp] theorem execMemoryInit_place (s : State) : (after s (execMemoryInit s)).place.core = s.place.core := by
  unfold execMemoryInit
  repeat' split
  all_goals simp

@[simp] theorem execBringupComplete_place (s : State) : (after s (execBringupComplete s)).place.core = s.place.core := by
  unfold execBringupComplete
  repeat' split
  all_goals simp

@[simp] theorem putClkHalf_place (s : State) (h v : Nat) : (putClkHalf s h v).2.place.core = s.place.core := by
  unfold putClkHalf
  repeat' split
  all_goals simp

@[simp] theorem putAlertClr_place (s : State) (v : Nat) : (putAlertClr s v).2.place.core = s.place.core := by
  unfold putAlertClr
  repeat' split
  all_goals simp

end Sys2Proof.Machine
end

