-- ==== Sys2Proof/Laws/PlaceTwin.lean ====
section
/-!
SUPPORT. What the operations of Machine/Twin.lean do to the placement of cores: nothing.
-/

namespace Sys2Proof.Machine

open Host (Outcome)

@[simp] theorem sendHeartbeat_place (s : State) : (sendHeartbeat s).place.core = s.place.core := by
  unfold sendHeartbeat
  simp

@[simp] theorem enterPaired_place (s : State) : (enterPaired s).place.core = s.place.core := by
  unfold enterPaired
  simp

@[simp] theorem leaveStep8_place (s : State) : (leaveStep8 s).place.core = s.place.core := by
  unfold leaveStep8
  simp

@[simp] theorem refusePairing_place (s : State) : (refusePairing s).place.core = s.place.core := by
  unfold refusePairing
  simp

@[simp] theorem tryPaired_place (s : State) : (tryPaired s).place.core = s.place.core := by
  unfold tryPaired
  simp

@[simp] theorem partWays_place (s : State) : (partWays s).place.core = s.place.core := by
  unfold partWays
  simp

@[simp] theorem failRejoin_place (s : State) : (failRejoin s).place.core = s.place.core := by
  unfold failRejoin
  simp

@[simp] theorem losePeer_place (s : State) : (losePeer s).place.core = s.place.core := by
  unfold losePeer
  repeat' (first | split | intro _ | dsimp only)
  all_goals simp

@[simp] theorem execPeerLost_place (s : State) : (after s (execPeerLost s)).place.core = s.place.core := by
  unfold execPeerLost
  repeat' split
  all_goals simp

@[simp] theorem startCopy_place (s : State) : (startCopy s).place.core = s.place.core := by
  unfold startCopy
  simp

@[simp] theorem afterAck_place (s : State) : (afterAck s).place.core = s.place.core := by
  unfold afterAck
  simp

@[simp] theorem takeEntry_place (s : State) (fpn w : Nat) : (takeEntry s fpn w).place.core = s.place.core := by
  unfold takeEntry
  simp

@[simp] theorem takeSeals_place (d : List Byte) (ps : List Nat) (off : Nat) (s : State) :
    (takeSeals d ps off s).place.core = s.place.core := by
  induction ps generalizing s off with
  | nil => rfl
  | cons p ps ih => unfold takeSeals; rw [ih]

@[simp] theorem takeCad_place (s : State) (d : List Byte) : (takeCad s d).place.core = s.place.core := by
  unfold takeCad
  simp

@[simp] theorem takeParcel_place (s : State) (d : List Byte) : (takeParcel s d).place.core = s.place.core := by
  unfold takeParcel
  simp

@[simp] theorem takeSite_place (s : State) (n : Nat) (d : List Byte) : (takeSite s n d).place.core = s.place.core := by
  unfold takeSite
  dsimp only
  split <;> simp

@[simp] theorem takeState_place (s : State) (h d : List Byte) : (takeState s h d).place.core = s.place.core := by
  unfold takeState
  repeat' split
  all_goals simp

@[simp] theorem heedNak_place (f : List Byte) (s : State) : (heedNak f s).place.core = s.place.core := by
  unfold heedNak
  dsimp only
  repeat' split
  all_goals simp

@[simp] theorem twinRow_place (type : Nat) (op : Option Nat) (f : List Byte) (s : State) (g : State → State) (H : ∀ u, (g u).place.core = u.place.core) : (after s (twinRow type op f s g)).place.core = s.place.core := by
  unfold twinRow
  repeat' (first | split | apply takeFrame_place | intro _ | dsimp only)
  all_goals simp_all

@[simp] theorem answerPair_place (s : State) : (answerPair s).place.core = s.place.core := by
  unfold answerPair
  repeat' split
  all_goals simp

@[simp] theorem execHeartbeat_place (f : List Byte) (s : State) : (after s (execHeartbeat f s)).place.core = s.place.core := by
  unfold execHeartbeat
  simp

@[simp] theorem execHeartbeatTimer_place (s : State) : (after s (execHeartbeatTimer s)).place.core = s.place.core := by
  unfold execHeartbeatTimer
  repeat' split
  all_goals simp

@[simp] theorem execDigest_place (f : List Byte) (s : State) : (after s (execDigest f s)).place.core = s.place.core := by
  unfold execDigest
  simp

@[simp] theorem execDigestTimeout_place (p : Nat) (s : State) : (after s (execDigestTimeout p s)).place.core = s.place.core := by
  unfold execDigestTimeout
  repeat' split
  all_goals simp

@[simp] theorem execFailstop_place (f : List Byte) (s : State) : (after s (execFailstop f s)).place.core = s.place.core := by
  unfold execFailstop
  refine twinRow_place _ _ _ _ _ fun u => ?_
  split
  · simp
  · simp
  · split <;> simp
  · rfl

@[simp] theorem execFailstopRepeat_place (s : State) : (after s (execFailstopRepeat s)).place.core = s.place.core := by
  unfold execFailstopRepeat
  repeat' split
  all_goals simp

@[simp] theorem execTwinState_place (f : List Byte) (s : State) : (after s (execTwinState f s)).place.core = s.place.core := by
  unfold execTwinState
  simp

@[simp] theorem execStateData_place (f : List Byte) (s : State) : (after s (execStateData f s)).place.core = s.place.core := by
  unfold execStateData
  simp

@[simp] theorem execPair_place (f : List Byte) (s : State) : (after s (execPair f s)).place.core = s.place.core := by
  unfold execPair
  simp

@[simp] theorem execPairAck_place (f : List Byte) (s : State) : (after s (execPairAck f s)).place.core = s.place.core := by
  unfold execPairAck
  simp

@[simp] theorem execUnpair_place (f : List Byte) (s : State) : (after s (execUnpair f s)).place.core = s.place.core := by
  unfold execUnpair
  simp

@[simp] theorem execRejoinOffer_place (f : List Byte) (s : State) : (after s (execRejoinOffer f s)).place.core = s.place.core := by
  unfold execRejoinOffer
  simp

@[simp] theorem execRejoinAccept_place (f : List Byte) (s : State) : (after s (execRejoinAccept f s)).place.core = s.place.core := by
  unfold execRejoinAccept
  simp

@[simp] theorem execRejoinDone_place (f : List Byte) (s : State) : (after s (execRejoinDone f s)).place.core = s.place.core := by
  unfold execRejoinDone
  simp

@[simp] theorem execTwinFrameReplay_place (s : State) : (after s (execTwinFrameReplay s)).place.core = s.place.core := by
  unfold execTwinFrameReplay
  repeat' split
  all_goals simp

@[simp] theorem execLaneDrop_place (lane : Nat) (s : State) : (after s (execLaneDrop lane s)).place.core = s.place.core := by
  unfold execLaneDrop takeFree
  split <;> simp

@[simp] theorem execPairing_place (s : State) : (after s (execPairing s)).place.core = s.place.core := by
  unfold execPairing
  repeat' split
  all_goals simp

@[simp] theorem execPairingTimeout_place (s : State) : (after s (execPairingTimeout s)).place.core = s.place.core := by
  unfold execPairingTimeout
  repeat' split
  all_goals simp

@[simp] theorem putRejoin_place (s : State) (v : Nat) : (putRejoin s v).2.place.core = s.place.core := by
  unfold putRejoin
  repeat' (first | split | intro _ | dsimp only)
  all_goals simp

end Sys2Proof.Machine
end

