-- ==== Sys2Proof/Laws/PlaceObjects.lean ====
section
/-!
SUPPORT. What the operations of Machine/Objects.lean do to the placement of cores: nothing.
-/

namespace Sys2Proof.Machine

open Host (Outcome)

@[simp] theorem putPlain_place (s : State) (idx : Nat) (data : List Byte) : (putPlain s idx data).2.place.core = s.place.core := by
  unfold putPlain
  repeat' split
  all_goals simp

@[simp] theorem readXfer_place (s : State) (src : Requester) : (readXfer s src).2.place.core = s.place.core := by
  unfold readXfer
  simp

@[simp] theorem objRead_place (s : State) (src : Requester) (r : ObjRow) (idx sub : Nat) : (objRead s src r idx sub).2.place.core = s.place.core := by
  unfold objRead
  repeat' split
  all_goals simp

@[simp] theorem putSnap_place (s : State) (p : Option Nat) (v : Nat) : (putSnap s p v).2.place.core = s.place.core := by
  unfold putSnap
  repeat' (first | split | intro _ | dsimp only)
  all_goals simp

@[simp] theorem putXfer_place (s : State) (src : Requester) (data : List Byte) : (putXfer s src data).2.place.core = s.place.core := by
  unfold putXfer
  repeat' (first | split | intro _ | dsimp only)
  all_goals simp

@[simp] theorem putIncAck_place (s : State) (v : Nat) : (putIncAck s v).2.place.core = s.place.core := by
  unfold putIncAck
  simp

@[simp] theorem putIncOvf_place (s : State) (cls v : Nat) : (putIncOvf s cls v).2.place.core = s.place.core := by
  unfold putIncOvf
  repeat' split
  all_goals simp

@[simp] theorem putSoftClear_place (s : State) (v : Nat) : (putSoftClear s v).2.place.core = s.place.core := by
  unfold putSoftClear
  repeat' split
  all_goals simp

@[simp] theorem putCoreReturn_place (s : State) (c : Nat) : (putCoreReturn s c).2.place.core = s.place.core := by
  unfold putCoreReturn
  repeat' split
  all_goals simp

@[simp] theorem putObj_place (s : State) (src : Requester) (k p sub : Nat) (data : List Byte) : (putObj s src k p sub data).2.place.core = s.place.core := by
  have key {c : Prop} [Decidable c] {a b : Ack} (ha : a.2.place.core = s.place.core) (hb : b.2.place.core = s.place.core) :
      (if c then a else b).2.place.core = s.place.core := by split <;> assumption
  unfold putObj
  repeat refine key (by simp) ?_
  simp

@[simp] theorem cancelObj_place (s : State) (r : ObjRow) (idx sub : Nat) (data : List Byte) : (cancelObj s r idx sub data).2.place.core = s.place.core := by
  unfold cancelObj
  repeat' split
  all_goals simp

@[simp] theorem writeObj_place (s : State) (src : Requester) (r : ObjRow) (idx sub : Nat) (data : List Byte) (cancel : Bool) : (writeObj s src r idx sub data cancel).2.place.core = s.place.core := by
  unfold writeObj
  repeat' (first | split | intro _ | dsimp only)
  all_goals simp

@[simp] theorem readObj_place (s : State) (src : Requester) (r : ObjRow) (idx sub : Nat) (staged : Bool) : (readObj s src r idx sub staged).2.2.place.core = s.place.core := by
  unfold readObj
  split
  · rfl
  · split
    · rfl
    · split
      · split <;> rfl
      · exact objRead_place _ _ _ _ _

@[simp] theorem objRow_place (src : Requester) (idx sub : Nat) (data : List Byte) (s : State) : (after s (objRow src idx sub data s)).place.core = s.place.core := by
  unfold objRow
  repeat' split
  all_goals simp

@[simp] theorem mgmtRow_place (idx sub : Nat) (data : List Byte) (s : State) : (after s (mgmtRow idx sub data s)).place.core = s.place.core := by
  unfold mgmtRow
  simp

@[simp] theorem pclRow_place (p off sub : Nat) (data : List Byte) (s : State) : (after s (pclRow p off sub data s)).place.core = s.place.core := by
  unfold pclRow
  repeat' split
  all_goals simp

@[simp] theorem execObjectWrite_place (src : Requester) (idx sub : Nat) (data : List Byte) (s : State) : (after s (execObjectWrite src idx sub data s)).place.core = s.place.core := by
  unfold execObjectWrite
  simp

@[simp] theorem execParcelCreate_place (p : Nat) (s : State) : (after s (execParcelCreate p s)).place.core = s.place.core := by
  unfold execParcelCreate
  simp

@[simp] theorem execParcelRemove_place (p : Nat) (s : State) : (after s (execParcelRemove p s)).place.core = s.place.core := by
  unfold execParcelRemove
  simp

@[simp] theorem execPclCtlReset_place (p : Nat) (s : State) : (after s (execPclCtlReset p s)).place.core = s.place.core := by
  unfold execPclCtlReset
  simp

@[simp] theorem execPclBeds_place (p : Nat) (beds : W32) (s : State) : (after s (execPclBeds p beds s)).place.core = s.place.core := by
  unfold execPclBeds
  simp

@[simp] theorem execBcnAlloc_place (p die : Nat) (blocks : W64) (s : State) : (after s (execBcnAlloc p die blocks s)).place.core = s.place.core := by
  unfold execBcnAlloc
  simp

@[simp] theorem execSnapAll_place (ident : W32) (s : State) : (after s (execSnapAll ident s)).place.core = s.place.core := by
  unfold execSnapAll
  simp

@[simp] theorem execSnapPcl_place (p : Nat) (ident : W32) (s : State) : (after s (execSnapPcl p ident s)).place.core = s.place.core := by
  unfold execSnapPcl
  simp

@[simp] theorem execRegXferWrite_place (src : Requester) (addrWord value : W32) (s : State) : (after s (execRegXferWrite src addrWord value s)).place.core = s.place.core := by
  unfold execRegXferWrite
  repeat' split
  all_goals simp

@[simp] theorem execRegXferSelect_place (src : Requester) (addrWord : W32) (s : State) : (after s (execRegXferSelect src addrWord s)).place.core = s.place.core := by
  unfold execRegXferSelect
  repeat' split
  all_goals simp

@[simp] theorem execRegXferRead_place (src : Requester) (s : State) : (after s (execRegXferRead src s)).place.core = s.place.core := by
  unfold execRegXferRead
  repeat' split
  all_goals simp

@[simp] theorem execIncAck_place (seqNo : W32) (s : State) : (after s (execIncAck seqNo s)).place.core = s.place.core := by
  unfold execIncAck
  simp

@[simp] theorem execIncOvf_place (cls : Nat) (v : W32) (s : State) : (after s (execIncOvf cls v s)).place.core = s.place.core := by
  unfold execIncOvf
  simp

@[simp] theorem execSoftClear_place (v : BitVec 16) (s : State) : (after s (execSoftClear v s)).place.core = s.place.core := by
  unfold execSoftClear
  simp

@[simp] theorem execCoreReturn_place (core : Nat) (s : State) : (after s (execCoreReturn core s)).place.core = s.place.core := by
  unfold execCoreReturn
  repeat' split
  all_goals simp

@[simp] theorem execClkBed_place (bed : Nat) (v : Byte) (s : State) : (after s (execClkBed bed v s)).place.core = s.place.core := by
  unfold execClkBed
  simp

@[simp] theorem execClkHalf_place (half : Nat) (v : Byte) (s : State) : (after s (execClkHalf half v s)).place.core = s.place.core := by
  unfold execClkHalf
  simp

@[simp] theorem execModReset_place (v : BitVec 16) (s : State) : (after s (execModReset v s)).place.core = s.place.core := by
  unfold execModReset
  simp

@[simp] theorem execAlertClr_place (v : W32) (s : State) : (after s (execAlertClr v s)).place.core = s.place.core := by
  unfold execAlertClr
  simp

@[simp] theorem execPlcaNode_place (v : Byte) (s : State) : (after s (execPlcaNode v s)).place.core = s.place.core := by
  unfold execPlcaNode
  simp

@[simp] theorem execRejoinStart_place (s : State) : (after s (execRejoinStart s)).place.core = s.place.core := by
  unfold execRejoinStart
  simp

@[simp] theorem execRejoinCancel_place (s : State) : (after s (execRejoinCancel s)).place.core = s.place.core := by
  unfold execRejoinCancel
  simp

@[simp] theorem execFwNext_place (v : Byte) (s : State) : (after s (execFwNext v s)).place.core = s.place.core := by
  unfold execFwNext
  simp

@[simp] theorem execFwSvnBurn_place (v : Byte) (s : State) : (after s (execFwSvnBurn v s)).place.core = s.place.core := by
  unfold execFwSvnBurn
  simp

@[simp] theorem execSpdmReq_place (src : Requester) (req : List Byte) (s : State) : (after s (execSpdmReq src req s)).place.core = s.place.core := by
  unfold execSpdmReq
  simp

@[simp] theorem execMeasNonce_place (src : Requester) (nonce : List Byte) (s : State) : (after s (execMeasNonce src nonce s)).place.core = s.place.core := by
  unfold execMeasNonce
  simp

end Sys2Proof.Machine
end

