-- ==== Sys2Proof/Laws/PlaceCixa.lean ====
section
/-!
SUPPORT. What the operations of Machine/Cixa.lean do to the placement of cores: nothing.
-/

namespace Sys2Proof.Machine

open Host (Outcome)

@[simp] theorem modDict_place (s : State) (f : Dict → Dict) : (modDict s f).place.core = s.place.core := by
  unfold modDict
  simp

@[simp] theorem countCixa_place (s : State) (i : Nat) : (countCixa s i).place.core = s.place.core := by
  unfold countCixa
  simp

@[simp] theorem segReply_place (s : State) (v : List Byte) (off want : Nat) : (segReply s v off want).state.place.core = s.place.core := by
  unfold segReply
  simp

@[simp] theorem readSeg_place (s : State) (src : Requester) (r : ObjRow) (m : List Byte) : (readSeg s src r m).state.place.core = s.place.core := by
  unfold readSeg
  repeat' (first | split | intro _ | dsimp only)
  all_goals simp

@[simp] theorem writeOn_place (s : State) (src : Requester) (r : ObjRow) (m data : List Byte) : (writeOn s src r m data).state.place.core = s.place.core := by
  unfold writeOn
  repeat' split
  all_goals simp

@[simp] theorem writeSeg_place (s : State) (src : Requester) (r : ObjRow) (m : List Byte) : (writeSeg s src r m).state.place.core = s.place.core := by
  unfold writeSeg
  repeat' (first | split | intro _ | dsimp only)
  all_goals simp

@[simp] theorem readWhole_place (s : State) (src : Requester) (r : ObjRow) (m : List Byte) : (readWhole s src r m).state.place.core = s.place.core := by
  unfold readWhole
  simp

@[simp] theorem writeWhole_place (s : State) (src : Requester) (r : ObjRow) (m : List Byte) : (writeWhole s src r m).state.place.core = s.place.core := by
  unfold writeWhole
  simp

@[simp] theorem execMsg_place (s : State) (src : Requester) (m : List Byte) : (execMsg s src m).state.place.core = s.place.core := by
  unfold execMsg
  repeat' (first | split | intro _ | dsimp only)
  all_goals simp

@[simp] theorem serveMgmt_place (s : State) (src : Requester) (m : List Byte) : (serveMgmt s src m).place.core = s.place.core := by
  unfold serveMgmt
  repeat' split
  all_goals simp

@[simp] theorem serveHost_place (s : State) (k : Nat) (m : List Byte) : (serveHost s k m).place.core = s.place.core := by
  unfold serveHost
  simp

@[simp] theorem serve_place (s : State) (src : Requester) (m : List Byte) : (serve s src m).place.core = s.place.core := by
  unfold serve
  repeat' split
  all_goals simp

@[simp] theorem enqueue_place (s : State) (src : Requester) (m : List Byte) : (enqueue s src m).place.core = s.place.core := by
  unfold enqueue
  simp

@[simp] theorem cixaRow_place (type : Nat) (src : Requester) (m : List Byte) (s : State) : (after s (cixaRow type src m s)).place.core = s.place.core := by
  unfold cixaRow
  repeat' split
  all_goals simp

@[simp] theorem execCixaRead_place (src : Requester) (msg : List Byte) (s : State) : (after s (execCixaRead src msg s)).place.core = s.place.core := by
  unfold execCixaRead
  simp

@[simp] theorem execCixaWrite_place (src : Requester) (msg : List Byte) (s : State) : (after s (execCixaWrite src msg s)).place.core = s.place.core := by
  unfold execCixaWrite
  simp

@[simp] theorem execCixaReadSeg_place (src : Requester) (msg : List Byte) (s : State) : (after s (execCixaReadSeg src msg s)).place.core = s.place.core := by
  unfold execCixaReadSeg
  simp

@[simp] theorem execCixaWriteSeg_place (src : Requester) (msg : List Byte) (s : State) : (after s (execCixaWriteSeg src msg s)).place.core = s.place.core := by
  unfold execCixaWriteSeg
  simp

@[simp] theorem execQueueFullDiscard_place (src : Requester) (msg : List Byte) (s : State) : (after s (execQueueFullDiscard src msg s)).place.core = s.place.core := by
  unfold execQueueFullDiscard
  repeat' split
  all_goals simp

@[simp] theorem execKeptAckExpiry_place (src : Requester) (txid : Nat) (s : State) : (after s (execKeptAckExpiry src txid s)).place.core = s.place.core := by
  unfold execKeptAckExpiry
  simp

@[simp] theorem execSegmentSessionTimeout_place (idx sub : Nat) (s : State) : (after s (execSegmentSessionTimeout idx sub s)).place.core = s.place.core := by
  unfold execSegmentSessionTimeout
  simp

@[simp] theorem execSnapshotExpiry_place (src : Requester) (idx sub : Nat) (s : State) : (after s (execSnapshotExpiry src idx sub s)).place.core = s.place.core := by
  unfold execSnapshotExpiry
  simp

@[simp] theorem execCixaNotify_place (ev : Event) (s : State) : (after s (execCixaNotify ev s)).place.core = s.place.core := by
  unfold execCixaNotify
  repeat' (first | split | intro _ | dsimp only)
  all_goals simp

@[simp] theorem execCixaAck_place (src : Requester) (msg : List Byte) (s : State) : (after s (execCixaAck src msg s)).place.core = s.place.core := by
  unfold execCixaAck
  repeat' (first | split | intro _ | dsimp only)
  all_goals simp

@[simp] theorem execNotifyResend_place (txid : Nat) (s : State) : (after s (execNotifyResend txid s)).place.core = s.place.core := by
  unfold execNotifyResend
  repeat' split
  all_goals simp

@[simp] theorem hwIrq_place (s : State) (k : Nat) : (hwIrq s k).place.core = s.place.core := by
  unfold hwIrq
  simp

@[simp] theorem execHwGo_place (port : Nat) (req : List Byte) (stat v : W32) (s : State) : (after s (execHwGo port req stat v s)).place.core = s.place.core := by
  unfold execHwGo
  repeat' (first | split | intro _ | dsimp only)
  all_goals simp

@[simp] theorem execHostWindowTimeout_place (port : Nat) (s : State) : (after s (execHostWindowTimeout port s)).place.core = s.place.core := by
  unfold execHostWindowTimeout
  repeat' split
  all_goals simp

@[simp] theorem execHostWindowResponse_place (port : Nat) (s : State) : (after s (execHostWindowResponse port s)).place.core = s.place.core := by
  unfold execHostWindowResponse
  repeat' split
  all_goals simp

@[simp] theorem execPlcaBeaconLoss_place (lost : Bool) (s : State) : (after s (execPlcaBeaconLoss lost s)).place.core = s.place.core := by
  unfold execPlcaBeaconLoss
  repeat' split
  all_goals simp

@[simp] theorem execIcmpv6EchoRequest_place (src : Nat) (data : List Byte) (s : State) : (after s (execIcmpv6EchoRequest src data s)).place.core = s.place.core := by
  unfold execIcmpv6EchoRequest
  repeat' split
  all_goals simp

end Sys2Proof.Machine
end

