-- ==== Sys2Proof/Laws/PlaceScalar.lean ====
section
/-!
SUPPORT. What the operations of Machine/Scalar.lean do to the placement of cores: nothing.
-/

namespace Sys2Proof.Machine

open Host (Outcome)

@[simp] theorem aluB_place (op : Nat) (f : W64 → W64 → W64) (e : Enc) (s : State) : (after s (aluB op f e s)).place.core = s.place.core := by
  unfold aluB
  simp

@[simp] theorem execAdd_place (e : Enc) (s : State) : (after s (execAdd e s)).place.core = s.place.core := by
  unfold execAdd
  simp

@[simp] theorem execSub_place (e : Enc) (s : State) : (after s (execSub e s)).place.core = s.place.core := by
  unfold execSub
  simp

@[simp] theorem execAnd_place (e : Enc) (s : State) : (after s (execAnd e s)).place.core = s.place.core := by
  unfold execAnd
  simp

@[simp] theorem execOr_place (e : Enc) (s : State) : (after s (execOr e s)).place.core = s.place.core := by
  unfold execOr
  simp

@[simp] theorem execXor_place (e : Enc) (s : State) : (after s (execXor e s)).place.core = s.place.core := by
  unfold execXor
  simp

@[simp] theorem execSll_place (e : Enc) (s : State) : (after s (execSll e s)).place.core = s.place.core := by
  unfold execSll
  simp

@[simp] theorem execSrl_place (e : Enc) (s : State) : (after s (execSrl e s)).place.core = s.place.core := by
  unfold execSrl
  simp

@[simp] theorem execSra_place (e : Enc) (s : State) : (after s (execSra e s)).place.core = s.place.core := by
  unfold execSra
  simp

@[simp] theorem execMul_place (e : Enc) (s : State) : (after s (execMul e s)).place.core = s.place.core := by
  unfold execMul
  simp

@[simp] theorem execMulhs_place (e : Enc) (s : State) : (after s (execMulhs e s)).place.core = s.place.core := by
  unfold execMulhs
  simp

@[simp] theorem execMulhu_place (e : Enc) (s : State) : (after s (execMulhu e s)).place.core = s.place.core := by
  unfold execMulhu
  simp

@[simp] theorem execMin_place (e : Enc) (s : State) : (after s (execMin e s)).place.core = s.place.core := by
  unfold execMin
  simp

@[simp] theorem execMax_place (e : Enc) (s : State) : (after s (execMax e s)).place.core = s.place.core := by
  unfold execMax
  simp

@[simp] theorem execSlt_place (e : Enc) (s : State) : (after s (execSlt e s)).place.core = s.place.core := by
  unfold execSlt
  simp

@[simp] theorem execSltu_place (e : Enc) (s : State) : (after s (execSltu e s)).place.core = s.place.core := by
  unfold execSltu
  simp

@[simp] theorem execSeq_place (e : Enc) (s : State) : (after s (execSeq e s)).place.core = s.place.core := by
  unfold execSeq
  simp

@[simp] theorem execLih_place (e : Enc) (s : State) : (after s (execLih e s)).place.core = s.place.core := by
  unfold execLih
  simp

@[simp] theorem execMova_place (e : Enc) (s : State) : (after s (execMova e s)).place.core = s.place.core := by
  unfold execMova
  simp

@[simp] theorem execMovs_place (e : Enc) (s : State) : (after s (execMovs e s)).place.core = s.place.core := by
  unfold execMovs
  simp

@[simp] theorem execAdda_place (e : Enc) (s : State) : (after s (execAdda e s)).place.core = s.place.core := by
  unfold execAdda
  simp

end Sys2Proof.Machine
end

