-- ==== Sys2Proof/Laws/Placement.lean ====
section
/-!
SUPPORT. The placement of cores: it depends on the binding alone, and what relocation and return do to it.
-/

namespace Sys2Proof.Machine

/-- The placement's soundness depends on the binding alone. -/
theorem placed_congr {s t : State} (h : t.place.core = s.place.core) (hs : Placed s) : Placed t := by
  have hf : t.place.factoryIdle = s.place.factoryIdle := congrArg (·.factoryIdle) h
  have hr : t.place.reloc = s.place.reloc := congrArg (·.reloc) h
  have hu : t.place.used = s.place.used := congrArg (·.used) h
  have hi (b : Nat) : factoryIdle t b = factoryIdle s b := by unfold factoryIdle; rw [hf]
  have hc (c : Nat) : csite t c = csite s c := by unfold csite tsite; rw [hr, hi]
  have hl (c : Nat) : relocated t c ↔ relocated s c := by unfold relocated; rw [hr]
  simpa only [Placed, hi, hc, hl, hu] using hs

/-- A meaning that leaves the binding alone keeps the placement sound. -/
theorem placed_next {s t : State} {o : Out} (h : (after s o).place.core = s.place.core) (hs : Placed s) (ho : o = .next t) :
    Placed t := by
  subst ho
  exact placed_congr h hs

/-- A core that loses its place keeps the placement sound. -/
theorem loseCore_placed {s : State} (c : Nat) (h : Placed s) : Placed (loseCore s c) := by
  have key : Placed ({ s with place := { s.place with absent := sset false s.place.absent c true } } : State) := h
  unfold loseCore
  dsimp only
  split
  · exact key
  · exact placed_congr (by simp) key

/-- A relocation to a bed's spare that nothing has consumed keeps the placement sound. -/
theorem relocate_placed {s : State} (c : Nat) (h : Placed s) (hu : sget false s.place.used (coreBed c) = false) :
    Placed (relocate s c) := by
  have key : Placed ({ s with
      place := { s.place with reloc := sset 0 s.place.reloc c (bedSite (coreBed c) (factoryIdle s (coreBed c)) + 1),
                              used := sset false s.place.used (coreBed c) true } } : State) := by
    obtain ⟨h1, h2, h3⟩ := h
    refine ⟨h1, ?_, ?_⟩
    · intro d hd
      simp only [relocated, sget_sset] at hd
      simp only [csite, sget_sset]
      by_cases hdc : d = c
      · subst hdc
        exact ⟨by simp [factoryIdle], by simp⟩
      · rw [if_neg hdc] at hd
        have := h2 d hd
        simp only [csite] at this
        rw [if_neg hdc]
        refine ⟨this.1, ?_⟩
        split
        · rfl
        · exact this.2
    · intro d e hd he hb
      simp only [relocated, sget_sset] at hd he
      by_cases hdc : d = c <;> by_cases hec : e = c
      · rw [hdc, hec]
      · rw [if_neg hec] at he
        have := (h2 e he).2
        rw [← hb, hdc, hu] at this
        contradiction
      · rw [if_neg hdc] at hd
        have := (h2 d hd).2
        rw [hb, hec, hu] at this
        contradiction
      · rw [if_neg hdc] at hd
        rw [if_neg hec] at he
        exact h3 d e hd he hb
  unfold relocate
  dsimp only
  split
  · exact placed_congr rfl key
  · exact placed_congr (by simp [modSite, setSite]) key

/-- A return keeps the placement sound. -/
theorem returnCore_placed {s : State} (c : Nat) (h : Placed s) : Placed (returnCore s c) := by
  unfold returnCore
  split
  · exact h
  · obtain ⟨h1, h2, h3⟩ := h
    have g (d : Nat) : sget 0 (sdel s.place.reloc c) d ≠ 0 → d ≠ c ∧ sget 0 s.place.reloc d ≠ 0 := by
      intro hd
      have : d ≠ c := by rintro rfl; exact hd (sget_sdel_same _ _ _)
      exact ⟨this, by rwa [sget_sdel_ne _ _ this] at hd⟩
    refine ⟨h1, ?_, ?_⟩
    · intro d hd
      obtain ⟨hn, hr⟩ := g d hd
      have hb : coreBed d ≠ coreBed c := fun hb => hn (h3 d c hr ‹_› hb)
      have := h2 d hr
      refine ⟨?_, ?_⟩
      · have h := this.1
        unfold csite at h ⊢
        dsimp only
        rw [sget_sdel_ne _ _ hn]
        exact h
      · dsimp only
        rw [sget_sdel_ne _ _ hb]
        exact this.2
    · intro d e hd he hb
      exact h3 d e (g d hd).2 (g e he).2 hb

end Sys2Proof.Machine
end

