-- ==== Sys2Proof/Laws/Fields.lean ====
section
/-!
SUPPORT. The state's fields under the named updates: each update leaves every field but its own as it is, and what is read
of its own.
-/

namespace Sys2Proof.Machine

/-! ### Fields -/

@[simp] theorem pending_modSite (s : State) (n : Nat) (f : Site → Site) : (modSite s n f).pending = s.pending := rfl
@[simp] theorem free_modSite (s : State) (n : Nat) (f : Site → Site) : (modSite s n f).free = s.free := rfl
@[simp] theorem outbox_modSite (s : State) (n : Nat) (f : Site → Site) : (modSite s n f).outbox = s.outbox := rfl
@[simp] theorem mesh_modSite (s : State) (n : Nat) (f : Site → Site) : (modSite s n f).mesh = s.mesh := rfl
@[simp] theorem far_modSite (s : State) (n : Nat) (f : Site → Site) : (modSite s n f).far = s.far := rfl
@[simp] theorem repair_modSite (s : State) (n : Nat) (f : Site → Site) : (modSite s n f).repair = s.repair := rfl
@[simp] theorem gate_modSite (s : State) (n : Nat) (f : Site → Site) : (modSite s n f).gate = s.gate := rfl
@[simp] theorem dict_modSite (s : State) (n : Nat) (f : Site → Site) : (modSite s n f).dict = s.dict := rfl
@[simp] theorem regs_modSite (s : State) (n : Nat) (f : Site → Site) : (modSite s n f).regs = s.regs := rfl
@[simp] theorem pwr_modSite (s : State) (n : Nat) (f : Site → Site) : (modSite s n f).pwr = s.pwr := rfl
@[simp] theorem twin_modSite (s : State) (n : Nat) (f : Site → Site) : (modSite s n f).twin = s.twin := rfl
@[simp] theorem firm_modSite (s : State) (n : Nat) (f : Site → Site) : (modSite s n f).firm = s.firm := rfl
@[simp] theorem place_modSite (s : State) (n : Nat) (f : Site → Site) : (modSite s n f).place = s.place := rfl

@[simp] theorem pending_modCore (s : State) (c : Nat) (f : Site → Site) : (modCore s c f).pending = s.pending := rfl
@[simp] theorem free_modCore (s : State) (c : Nat) (f : Site → Site) : (modCore s c f).free = s.free := rfl
@[simp] theorem outbox_modCore (s : State) (c : Nat) (f : Site → Site) : (modCore s c f).outbox = s.outbox := rfl
@[simp] theorem mesh_modCore (s : State) (c : Nat) (f : Site → Site) : (modCore s c f).mesh = s.mesh := rfl
@[simp] theorem far_modCore (s : State) (c : Nat) (f : Site → Site) : (modCore s c f).far = s.far := rfl
@[simp] theorem repair_modCore (s : State) (c : Nat) (f : Site → Site) : (modCore s c f).repair = s.repair := rfl
@[simp] theorem gate_modCore (s : State) (c : Nat) (f : Site → Site) : (modCore s c f).gate = s.gate := rfl
@[simp] theorem dict_modCore (s : State) (c : Nat) (f : Site → Site) : (modCore s c f).dict = s.dict := rfl
@[simp] theorem regs_modCore (s : State) (c : Nat) (f : Site → Site) : (modCore s c f).regs = s.regs := rfl
@[simp] theorem pwr_modCore (s : State) (c : Nat) (f : Site → Site) : (modCore s c f).pwr = s.pwr := rfl
@[simp] theorem twin_modCore (s : State) (c : Nat) (f : Site → Site) : (modCore s c f).twin = s.twin := rfl
@[simp] theorem firm_modCore (s : State) (c : Nat) (f : Site → Site) : (modCore s c f).firm = s.firm := rfl
@[simp] theorem place_modCore (s : State) (c : Nat) (f : Site → Site) : (modCore s c f).place = s.place := rfl

@[simp] theorem pending_modCtx (s : State) (c k : Nat) (f : Ctx → Ctx) : (modCtx s c k f).pending = s.pending := rfl
@[simp] theorem free_modCtx (s : State) (c k : Nat) (f : Ctx → Ctx) : (modCtx s c k f).free = s.free := rfl
@[simp] theorem outbox_modCtx (s : State) (c k : Nat) (f : Ctx → Ctx) : (modCtx s c k f).outbox = s.outbox := rfl
@[simp] theorem mesh_modCtx (s : State) (c k : Nat) (f : Ctx → Ctx) : (modCtx s c k f).mesh = s.mesh := rfl
@[simp] theorem far_modCtx (s : State) (c k : Nat) (f : Ctx → Ctx) : (modCtx s c k f).far = s.far := rfl
@[simp] theorem repair_modCtx (s : State) (c k : Nat) (f : Ctx → Ctx) : (modCtx s c k f).repair = s.repair := rfl
@[simp] theorem gate_modCtx (s : State) (c k : Nat) (f : Ctx → Ctx) : (modCtx s c k f).gate = s.gate := rfl
@[simp] theorem dict_modCtx (s : State) (c k : Nat) (f : Ctx → Ctx) : (modCtx s c k f).dict = s.dict := rfl
@[simp] theorem regs_modCtx (s : State) (c k : Nat) (f : Ctx → Ctx) : (modCtx s c k f).regs = s.regs := rfl
@[simp] theorem pwr_modCtx (s : State) (c k : Nat) (f : Ctx → Ctx) : (modCtx s c k f).pwr = s.pwr := rfl
@[simp] theorem twin_modCtx (s : State) (c k : Nat) (f : Ctx → Ctx) : (modCtx s c k f).twin = s.twin := rfl
@[simp] theorem firm_modCtx (s : State) (c k : Nat) (f : Ctx → Ctx) : (modCtx s c k f).firm = s.firm := rfl
@[simp] theorem place_modCtx (s : State) (c k : Nat) (f : Ctx → Ctx) : (modCtx s c k f).place = s.place := rfl

@[simp] theorem pending_modPcl (s : State) (p : Nat) (f : Parcel → Parcel) : (modPcl s p f).pending = s.pending := rfl
@[simp] theorem free_modPcl (s : State) (p : Nat) (f : Parcel → Parcel) : (modPcl s p f).free = s.free := rfl
@[simp] theorem outbox_modPcl (s : State) (p : Nat) (f : Parcel → Parcel) : (modPcl s p f).outbox = s.outbox := rfl
@[simp] theorem sites_modPcl (s : State) (p : Nat) (f : Parcel → Parcel) : (modPcl s p f).sites = s.sites := rfl
@[simp] theorem mesh_modPcl (s : State) (p : Nat) (f : Parcel → Parcel) : (modPcl s p f).mesh = s.mesh := rfl
@[simp] theorem far_modPcl (s : State) (p : Nat) (f : Parcel → Parcel) : (modPcl s p f).far = s.far := rfl
@[simp] theorem repair_modPcl (s : State) (p : Nat) (f : Parcel → Parcel) : (modPcl s p f).repair = s.repair := rfl
@[simp] theorem dict_modPcl (s : State) (p : Nat) (f : Parcel → Parcel) : (modPcl s p f).dict = s.dict := rfl
@[simp] theorem regs_modPcl (s : State) (p : Nat) (f : Parcel → Parcel) : (modPcl s p f).regs = s.regs := rfl
@[simp] theorem pwr_modPcl (s : State) (p : Nat) (f : Parcel → Parcel) : (modPcl s p f).pwr = s.pwr := rfl
@[simp] theorem twin_modPcl (s : State) (p : Nat) (f : Parcel → Parcel) : (modPcl s p f).twin = s.twin := rfl
@[simp] theorem firm_modPcl (s : State) (p : Nat) (f : Parcel → Parcel) : (modPcl s p f).firm = s.firm := rfl
@[simp] theorem place_modPcl (s : State) (p : Nat) (f : Parcel → Parcel) : (modPcl s p f).place = s.place := rfl

@[simp] theorem pending_modWin (s : State) (w : Nat) (f : Window → Window) : (modWin s w f).pending = s.pending := rfl
@[simp] theorem free_modWin (s : State) (w : Nat) (f : Window → Window) : (modWin s w f).free = s.free := rfl
@[simp] theorem outbox_modWin (s : State) (w : Nat) (f : Window → Window) : (modWin s w f).outbox = s.outbox := rfl
@[simp] theorem sites_modWin (s : State) (w : Nat) (f : Window → Window) : (modWin s w f).sites = s.sites := rfl
@[simp] theorem mesh_modWin (s : State) (w : Nat) (f : Window → Window) : (modWin s w f).mesh = s.mesh := rfl
@[simp] theorem far_modWin (s : State) (w : Nat) (f : Window → Window) : (modWin s w f).far = s.far := rfl
@[simp] theorem repair_modWin (s : State) (w : Nat) (f : Window → Window) : (modWin s w f).repair = s.repair := rfl
@[simp] theorem dict_modWin (s : State) (w : Nat) (f : Window → Window) : (modWin s w f).dict = s.dict := rfl
@[simp] theorem regs_modWin (s : State) (w : Nat) (f : Window → Window) : (modWin s w f).regs = s.regs := rfl
@[simp] theorem pwr_modWin (s : State) (w : Nat) (f : Window → Window) : (modWin s w f).pwr = s.pwr := rfl
@[simp] theorem twin_modWin (s : State) (w : Nat) (f : Window → Window) : (modWin s w f).twin = s.twin := rfl
@[simp] theorem firm_modWin (s : State) (w : Nat) (f : Window → Window) : (modWin s w f).firm = s.firm := rfl
@[simp] theorem place_modWin (s : State) (w : Nat) (f : Window → Window) : (modWin s w f).place = s.place := rfl

@[simp] theorem pending_modPort (s : State) (k : Nat) (f : Port → Port) : (modPort s k f).pending = s.pending := rfl
@[simp] theorem free_modPort (s : State) (k : Nat) (f : Port → Port) : (modPort s k f).free = s.free := rfl
@[simp] theorem outbox_modPort (s : State) (k : Nat) (f : Port → Port) : (modPort s k f).outbox = s.outbox := rfl
@[simp] theorem sites_modPort (s : State) (k : Nat) (f : Port → Port) : (modPort s k f).sites = s.sites := rfl
@[simp] theorem mesh_modPort (s : State) (k : Nat) (f : Port → Port) : (modPort s k f).mesh = s.mesh := rfl
@[simp] theorem far_modPort (s : State) (k : Nat) (f : Port → Port) : (modPort s k f).far = s.far := rfl
@[simp] theorem repair_modPort (s : State) (k : Nat) (f : Port → Port) : (modPort s k f).repair = s.repair := rfl
@[simp] theorem dict_modPort (s : State) (k : Nat) (f : Port → Port) : (modPort s k f).dict = s.dict := rfl
@[simp] theorem regs_modPort (s : State) (k : Nat) (f : Port → Port) : (modPort s k f).regs = s.regs := rfl
@[simp] theorem pwr_modPort (s : State) (k : Nat) (f : Port → Port) : (modPort s k f).pwr = s.pwr := rfl
@[simp] theorem twin_modPort (s : State) (k : Nat) (f : Port → Port) : (modPort s k f).twin = s.twin := rfl
@[simp] theorem firm_modPort (s : State) (k : Nat) (f : Port → Port) : (modPort s k f).firm = s.firm := rfl
@[simp] theorem place_modPort (s : State) (k : Nat) (f : Port → Port) : (modPort s k f).place = s.place := rfl

@[simp] theorem pending_modPortF (s : State) (p : Nat) (f : FarPort → FarPort) : (modPortF s p f).pending = s.pending := rfl
@[simp] theorem free_modPortF (s : State) (p : Nat) (f : FarPort → FarPort) : (modPortF s p f).free = s.free := rfl
@[simp] theorem outbox_modPortF (s : State) (p : Nat) (f : FarPort → FarPort) : (modPortF s p f).outbox = s.outbox := rfl
@[simp] theorem sites_modPortF (s : State) (p : Nat) (f : FarPort → FarPort) : (modPortF s p f).sites = s.sites := rfl
@[simp] theorem mesh_modPortF (s : State) (p : Nat) (f : FarPort → FarPort) : (modPortF s p f).mesh = s.mesh := rfl
@[simp] theorem repair_modPortF (s : State) (p : Nat) (f : FarPort → FarPort) : (modPortF s p f).repair = s.repair := rfl
@[simp] theorem gate_modPortF (s : State) (p : Nat) (f : FarPort → FarPort) : (modPortF s p f).gate = s.gate := rfl
@[simp] theorem dict_modPortF (s : State) (p : Nat) (f : FarPort → FarPort) : (modPortF s p f).dict = s.dict := rfl
@[simp] theorem regs_modPortF (s : State) (p : Nat) (f : FarPort → FarPort) : (modPortF s p f).regs = s.regs := rfl
@[simp] theorem pwr_modPortF (s : State) (p : Nat) (f : FarPort → FarPort) : (modPortF s p f).pwr = s.pwr := rfl
@[simp] theorem twin_modPortF (s : State) (p : Nat) (f : FarPort → FarPort) : (modPortF s p f).twin = s.twin := rfl
@[simp] theorem firm_modPortF (s : State) (p : Nat) (f : FarPort → FarPort) : (modPortF s p f).firm = s.firm := rfl
@[simp] theorem place_modPortF (s : State) (p : Nat) (f : FarPort → FarPort) : (modPortF s p f).place = s.place := rfl

@[simp] theorem pending_modEnt (s : State) (a : Nat) (f : CadEntry → CadEntry) : (modEnt s a f).pending = s.pending := rfl
@[simp] theorem free_modEnt (s : State) (a : Nat) (f : CadEntry → CadEntry) : (modEnt s a f).free = s.free := rfl
@[simp] theorem outbox_modEnt (s : State) (a : Nat) (f : CadEntry → CadEntry) : (modEnt s a f).outbox = s.outbox := rfl
@[simp] theorem sites_modEnt (s : State) (a : Nat) (f : CadEntry → CadEntry) : (modEnt s a f).sites = s.sites := rfl
@[simp] theorem mesh_modEnt (s : State) (a : Nat) (f : CadEntry → CadEntry) : (modEnt s a f).mesh = s.mesh := rfl
@[simp] theorem repair_modEnt (s : State) (a : Nat) (f : CadEntry → CadEntry) : (modEnt s a f).repair = s.repair := rfl
@[simp] theorem gate_modEnt (s : State) (a : Nat) (f : CadEntry → CadEntry) : (modEnt s a f).gate = s.gate := rfl
@[simp] theorem dict_modEnt (s : State) (a : Nat) (f : CadEntry → CadEntry) : (modEnt s a f).dict = s.dict := rfl
@[simp] theorem regs_modEnt (s : State) (a : Nat) (f : CadEntry → CadEntry) : (modEnt s a f).regs = s.regs := rfl
@[simp] theorem pwr_modEnt (s : State) (a : Nat) (f : CadEntry → CadEntry) : (modEnt s a f).pwr = s.pwr := rfl
@[simp] theorem twin_modEnt (s : State) (a : Nat) (f : CadEntry → CadEntry) : (modEnt s a f).twin = s.twin := rfl
@[simp] theorem firm_modEnt (s : State) (a : Nat) (f : CadEntry → CadEntry) : (modEnt s a f).firm = s.firm := rfl
@[simp] theorem place_modEnt (s : State) (a : Nat) (f : CadEntry → CadEntry) : (modEnt s a f).place = s.place := rfl

@[simp] theorem pending_modLink (s : State) (die col : Nat) (f : BridgeLink → BridgeLink) : (modLink s die col f).pending = s.pending := rfl
@[simp] theorem free_modLink (s : State) (die col : Nat) (f : BridgeLink → BridgeLink) : (modLink s die col f).free = s.free := rfl
@[simp] theorem outbox_modLink (s : State) (die col : Nat) (f : BridgeLink → BridgeLink) : (modLink s die col f).outbox = s.outbox := rfl
@[simp] theorem sites_modLink (s : State) (die col : Nat) (f : BridgeLink → BridgeLink) : (modLink s die col f).sites = s.sites := rfl
@[simp] theorem far_modLink (s : State) (die col : Nat) (f : BridgeLink → BridgeLink) : (modLink s die col f).far = s.far := rfl
@[simp] theorem repair_modLink (s : State) (die col : Nat) (f : BridgeLink → BridgeLink) : (modLink s die col f).repair = s.repair := rfl
@[simp] theorem gate_modLink (s : State) (die col : Nat) (f : BridgeLink → BridgeLink) : (modLink s die col f).gate = s.gate := rfl
@[simp] theorem dict_modLink (s : State) (die col : Nat) (f : BridgeLink → BridgeLink) : (modLink s die col f).dict = s.dict := rfl
@[simp] theorem regs_modLink (s : State) (die col : Nat) (f : BridgeLink → BridgeLink) : (modLink s die col f).regs = s.regs := rfl
@[simp] theorem pwr_modLink (s : State) (die col : Nat) (f : BridgeLink → BridgeLink) : (modLink s die col f).pwr = s.pwr := rfl
@[simp] theorem twin_modLink (s : State) (die col : Nat) (f : BridgeLink → BridgeLink) : (modLink s die col f).twin = s.twin := rfl
@[simp] theorem firm_modLink (s : State) (die col : Nat) (f : BridgeLink → BridgeLink) : (modLink s die col f).firm = s.firm := rfl
@[simp] theorem place_modLink (s : State) (die col : Nat) (f : BridgeLink → BridgeLink) : (modLink s die col f).place = s.place := rfl

@[simp] theorem pending_modPwr (s : State) (f : Power → Power) : (modPwr s f).pending = s.pending := rfl
@[simp] theorem free_modPwr (s : State) (f : Power → Power) : (modPwr s f).free = s.free := rfl
@[simp] theorem outbox_modPwr (s : State) (f : Power → Power) : (modPwr s f).outbox = s.outbox := rfl
@[simp] theorem sites_modPwr (s : State) (f : Power → Power) : (modPwr s f).sites = s.sites := rfl
@[simp] theorem mesh_modPwr (s : State) (f : Power → Power) : (modPwr s f).mesh = s.mesh := rfl
@[simp] theorem far_modPwr (s : State) (f : Power → Power) : (modPwr s f).far = s.far := rfl
@[simp] theorem repair_modPwr (s : State) (f : Power → Power) : (modPwr s f).repair = s.repair := rfl
@[simp] theorem gate_modPwr (s : State) (f : Power → Power) : (modPwr s f).gate = s.gate := rfl
@[simp] theorem dict_modPwr (s : State) (f : Power → Power) : (modPwr s f).dict = s.dict := rfl
@[simp] theorem regs_modPwr (s : State) (f : Power → Power) : (modPwr s f).regs = s.regs := rfl
@[simp] theorem twin_modPwr (s : State) (f : Power → Power) : (modPwr s f).twin = s.twin := rfl
@[simp] theorem firm_modPwr (s : State) (f : Power → Power) : (modPwr s f).firm = s.firm := rfl
@[simp] theorem place_modPwr (s : State) (f : Power → Power) : (modPwr s f).place = s.place := rfl

@[simp] theorem pending_modDict (s : State) (f : Dict → Dict) : (modDict s f).pending = s.pending := rfl
@[simp] theorem free_modDict (s : State) (f : Dict → Dict) : (modDict s f).free = s.free := rfl
@[simp] theorem outbox_modDict (s : State) (f : Dict → Dict) : (modDict s f).outbox = s.outbox := rfl
@[simp] theorem sites_modDict (s : State) (f : Dict → Dict) : (modDict s f).sites = s.sites := rfl
@[simp] theorem mesh_modDict (s : State) (f : Dict → Dict) : (modDict s f).mesh = s.mesh := rfl
@[simp] theorem far_modDict (s : State) (f : Dict → Dict) : (modDict s f).far = s.far := rfl
@[simp] theorem repair_modDict (s : State) (f : Dict → Dict) : (modDict s f).repair = s.repair := rfl
@[simp] theorem gate_modDict (s : State) (f : Dict → Dict) : (modDict s f).gate = s.gate := rfl
@[simp] theorem regs_modDict (s : State) (f : Dict → Dict) : (modDict s f).regs = s.regs := rfl
@[simp] theorem pwr_modDict (s : State) (f : Dict → Dict) : (modDict s f).pwr = s.pwr := rfl
@[simp] theorem twin_modDict (s : State) (f : Dict → Dict) : (modDict s f).twin = s.twin := rfl
@[simp] theorem firm_modDict (s : State) (f : Dict → Dict) : (modDict s f).firm = s.firm := rfl
@[simp] theorem place_modDict (s : State) (f : Dict → Dict) : (modDict s f).place = s.place := rfl

@[simp] theorem pending_modTwin (s : State) (f : Twin → Twin) : (modTwin s f).pending = s.pending := rfl
@[simp] theorem free_modTwin (s : State) (f : Twin → Twin) : (modTwin s f).free = s.free := rfl
@[simp] theorem outbox_modTwin (s : State) (f : Twin → Twin) : (modTwin s f).outbox = s.outbox := rfl
@[simp] theorem sites_modTwin (s : State) (f : Twin → Twin) : (modTwin s f).sites = s.sites := rfl
@[simp] theorem mesh_modTwin (s : State) (f : Twin → Twin) : (modTwin s f).mesh = s.mesh := rfl
@[simp] theorem far_modTwin (s : State) (f : Twin → Twin) : (modTwin s f).far = s.far := rfl
@[simp] theorem repair_modTwin (s : State) (f : Twin → Twin) : (modTwin s f).repair = s.repair := rfl
@[simp] theorem gate_modTwin (s : State) (f : Twin → Twin) : (modTwin s f).gate = s.gate := rfl
@[simp] theorem dict_modTwin (s : State) (f : Twin → Twin) : (modTwin s f).dict = s.dict := rfl
@[simp] theorem regs_modTwin (s : State) (f : Twin → Twin) : (modTwin s f).regs = s.regs := rfl
@[simp] theorem pwr_modTwin (s : State) (f : Twin → Twin) : (modTwin s f).pwr = s.pwr := rfl
@[simp] theorem firm_modTwin (s : State) (f : Twin → Twin) : (modTwin s f).firm = s.firm := rfl
@[simp] theorem place_modTwin (s : State) (f : Twin → Twin) : (modTwin s f).place = s.place := rfl

@[simp] theorem pending_bump (s : State) (b i n : Nat) : (bump s b i n).pending = s.pending := rfl
@[simp] theorem free_bump (s : State) (b i n : Nat) : (bump s b i n).free = s.free := rfl
@[simp] theorem outbox_bump (s : State) (b i n : Nat) : (bump s b i n).outbox = s.outbox := rfl
@[simp] theorem sites_bump (s : State) (b i n : Nat) : (bump s b i n).sites = s.sites := rfl
@[simp] theorem mesh_bump (s : State) (b i n : Nat) : (bump s b i n).mesh = s.mesh := rfl
@[simp] theorem far_bump (s : State) (b i n : Nat) : (bump s b i n).far = s.far := rfl
@[simp] theorem repair_bump (s : State) (b i n : Nat) : (bump s b i n).repair = s.repair := rfl
@[simp] theorem gate_bump (s : State) (b i n : Nat) : (bump s b i n).gate = s.gate := rfl
@[simp] theorem dict_bump (s : State) (b i n : Nat) : (bump s b i n).dict = s.dict := rfl
@[simp] theorem pwr_bump (s : State) (b i n : Nat) : (bump s b i n).pwr = s.pwr := rfl
@[simp] theorem twin_bump (s : State) (b i n : Nat) : (bump s b i n).twin = s.twin := rfl
@[simp] theorem firm_bump (s : State) (b i n : Nat) : (bump s b i n).firm = s.firm := rfl
@[simp] theorem place_bump (s : State) (b i n : Nat) : (bump s b i n).place = s.place := rfl

@[simp] theorem pending_send (s : State) (m : OutMsg) : (send s m).pending = s.pending := rfl
@[simp] theorem free_send (s : State) (m : OutMsg) : (send s m).free = s.free := rfl
@[simp] theorem sites_send (s : State) (m : OutMsg) : (send s m).sites = s.sites := rfl
@[simp] theorem mesh_send (s : State) (m : OutMsg) : (send s m).mesh = s.mesh := rfl
@[simp] theorem far_send (s : State) (m : OutMsg) : (send s m).far = s.far := rfl
@[simp] theorem repair_send (s : State) (m : OutMsg) : (send s m).repair = s.repair := rfl
@[simp] theorem gate_send (s : State) (m : OutMsg) : (send s m).gate = s.gate := rfl
@[simp] theorem dict_send (s : State) (m : OutMsg) : (send s m).dict = s.dict := rfl
@[simp] theorem regs_send (s : State) (m : OutMsg) : (send s m).regs = s.regs := rfl
@[simp] theorem pwr_send (s : State) (m : OutMsg) : (send s m).pwr = s.pwr := rfl
@[simp] theorem twin_send (s : State) (m : OutMsg) : (send s m).twin = s.twin := rfl
@[simp] theorem firm_send (s : State) (m : OutMsg) : (send s m).firm = s.firm := rfl
@[simp] theorem place_send (s : State) (m : OutMsg) : (send s m).place = s.place := rfl

/-! ### Reads of another field -/

@[simp] theorem getSite_modPcl (s : State) (p : Nat) (f : Parcel → Parcel) (q : Nat) : getSite (modPcl s p f) q = getSite s q := rfl
@[simp] theorem getSite_modWin (s : State) (w : Nat) (f : Window → Window) (q : Nat) : getSite (modWin s w f) q = getSite s q := rfl
@[simp] theorem getSite_modPort (s : State) (k : Nat) (f : Port → Port) (q : Nat) : getSite (modPort s k f) q = getSite s q := rfl
@[simp] theorem getSite_modPortF (s : State) (p : Nat) (f : FarPort → FarPort) (q : Nat) : getSite (modPortF s p f) q = getSite s q := rfl
@[simp] theorem getSite_modEnt (s : State) (a : Nat) (f : CadEntry → CadEntry) (q : Nat) : getSite (modEnt s a f) q = getSite s q := rfl
@[simp] theorem getSite_modLink (s : State) (die col : Nat) (f : BridgeLink → BridgeLink) (q : Nat) : getSite (modLink s die col f) q = getSite s q := rfl
@[simp] theorem getSite_modPwr (s : State) (f : Power → Power) (q : Nat) : getSite (modPwr s f) q = getSite s q := rfl
@[simp] theorem getSite_modDict (s : State) (f : Dict → Dict) (q : Nat) : getSite (modDict s f) q = getSite s q := rfl
@[simp] theorem getSite_modTwin (s : State) (f : Twin → Twin) (q : Nat) : getSite (modTwin s f) q = getSite s q := rfl
@[simp] theorem getSite_send (s : State) (m : OutMsg) (q : Nat) : getSite (send s m) q = getSite s q := rfl

@[simp] theorem getPcl_modSite (s : State) (n : Nat) (f : Site → Site) (q : Nat) : getPcl (modSite s n f) q = getPcl s q := rfl
@[simp] theorem getPcl_modCore (s : State) (c : Nat) (f : Site → Site) (q : Nat) : getPcl (modCore s c f) q = getPcl s q := rfl
@[simp] theorem getPcl_modCtx (s : State) (c k : Nat) (f : Ctx → Ctx) (q : Nat) : getPcl (modCtx s c k f) q = getPcl s q := rfl
@[simp] theorem getPcl_modPortF (s : State) (p : Nat) (f : FarPort → FarPort) (q : Nat) : getPcl (modPortF s p f) q = getPcl s q := rfl
@[simp] theorem getPcl_modEnt (s : State) (a : Nat) (f : CadEntry → CadEntry) (q : Nat) : getPcl (modEnt s a f) q = getPcl s q := rfl
@[simp] theorem getPcl_modLink (s : State) (die col : Nat) (f : BridgeLink → BridgeLink) (q : Nat) : getPcl (modLink s die col f) q = getPcl s q := rfl
@[simp] theorem getPcl_modPwr (s : State) (f : Power → Power) (q : Nat) : getPcl (modPwr s f) q = getPcl s q := rfl
@[simp] theorem getPcl_modDict (s : State) (f : Dict → Dict) (q : Nat) : getPcl (modDict s f) q = getPcl s q := rfl
@[simp] theorem getPcl_modTwin (s : State) (f : Twin → Twin) (q : Nat) : getPcl (modTwin s f) q = getPcl s q := rfl
@[simp] theorem getPcl_bump (s : State) (b i n : Nat) (q : Nat) : getPcl (bump s b i n) q = getPcl s q := rfl
@[simp] theorem getPcl_send (s : State) (m : OutMsg) (q : Nat) : getPcl (send s m) q = getPcl s q := rfl

@[simp] theorem getWin_modSite (s : State) (n : Nat) (f : Site → Site) (q : Nat) : getWin (modSite s n f) q = getWin s q := rfl
@[simp] theorem getWin_modCore (s : State) (c : Nat) (f : Site → Site) (q : Nat) : getWin (modCore s c f) q = getWin s q := rfl
@[simp] theorem getWin_modCtx (s : State) (c k : Nat) (f : Ctx → Ctx) (q : Nat) : getWin (modCtx s c k f) q = getWin s q := rfl
@[simp] theorem getWin_modPortF (s : State) (p : Nat) (f : FarPort → FarPort) (q : Nat) : getWin (modPortF s p f) q = getWin s q := rfl
@[simp] theorem getWin_modEnt (s : State) (a : Nat) (f : CadEntry → CadEntry) (q : Nat) : getWin (modEnt s a f) q = getWin s q := rfl
@[simp] theorem getWin_modLink (s : State) (die col : Nat) (f : BridgeLink → BridgeLink) (q : Nat) : getWin (modLink s die col f) q = getWin s q := rfl
@[simp] theorem getWin_modPwr (s : State) (f : Power → Power) (q : Nat) : getWin (modPwr s f) q = getWin s q := rfl
@[simp] theorem getWin_modDict (s : State) (f : Dict → Dict) (q : Nat) : getWin (modDict s f) q = getWin s q := rfl
@[simp] theorem getWin_modTwin (s : State) (f : Twin → Twin) (q : Nat) : getWin (modTwin s f) q = getWin s q := rfl
@[simp] theorem getWin_bump (s : State) (b i n : Nat) (q : Nat) : getWin (bump s b i n) q = getWin s q := rfl
@[simp] theorem getWin_send (s : State) (m : OutMsg) (q : Nat) : getWin (send s m) q = getWin s q := rfl

@[simp] theorem getPort_modSite (s : State) (n : Nat) (f : Site → Site) (q : Nat) : getPort (modSite s n f) q = getPort s q := rfl
@[simp] theorem getPort_modCore (s : State) (c : Nat) (f : Site → Site) (q : Nat) : getPort (modCore s c f) q = getPort s q := rfl
@[simp] theorem getPort_modCtx (s : State) (c k : Nat) (f : Ctx → Ctx) (q : Nat) : getPort (modCtx s c k f) q = getPort s q := rfl
@[simp] theorem getPort_modPortF (s : State) (p : Nat) (f : FarPort → FarPort) (q : Nat) : getPort (modPortF s p f) q = getPort s q := rfl
@[simp] theorem getPort_modEnt (s : State) (a : Nat) (f : CadEntry → CadEntry) (q : Nat) : getPort (modEnt s a f) q = getPort s q := rfl
@[simp] theorem getPort_modLink (s : State) (die col : Nat) (f : BridgeLink → BridgeLink) (q : Nat) : getPort (modLink s die col f) q = getPort s q := rfl
@[simp] theorem getPort_modPwr (s : State) (f : Power → Power) (q : Nat) : getPort (modPwr s f) q = getPort s q := rfl
@[simp] theorem getPort_modDict (s : State) (f : Dict → Dict) (q : Nat) : getPort (modDict s f) q = getPort s q := rfl
@[simp] theorem getPort_modTwin (s : State) (f : Twin → Twin) (q : Nat) : getPort (modTwin s f) q = getPort s q := rfl
@[simp] theorem getPort_bump (s : State) (b i n : Nat) (q : Nat) : getPort (bump s b i n) q = getPort s q := rfl
@[simp] theorem getPort_send (s : State) (m : OutMsg) (q : Nat) : getPort (send s m) q = getPort s q := rfl

@[simp] theorem getPortF_modSite (s : State) (n : Nat) (f : Site → Site) (q : Nat) : getPortF (modSite s n f) q = getPortF s q := rfl
@[simp] theorem getPortF_modCore (s : State) (c : Nat) (f : Site → Site) (q : Nat) : getPortF (modCore s c f) q = getPortF s q := rfl
@[simp] theorem getPortF_modCtx (s : State) (c k : Nat) (f : Ctx → Ctx) (q : Nat) : getPortF (modCtx s c k f) q = getPortF s q := rfl
@[simp] theorem getPortF_modPcl (s : State) (p : Nat) (f : Parcel → Parcel) (q : Nat) : getPortF (modPcl s p f) q = getPortF s q := rfl
@[simp] theorem getPortF_modWin (s : State) (w : Nat) (f : Window → Window) (q : Nat) : getPortF (modWin s w f) q = getPortF s q := rfl
@[simp] theorem getPortF_modPort (s : State) (k : Nat) (f : Port → Port) (q : Nat) : getPortF (modPort s k f) q = getPortF s q := rfl
@[simp] theorem getPortF_modLink (s : State) (die col : Nat) (f : BridgeLink → BridgeLink) (q : Nat) : getPortF (modLink s die col f) q = getPortF s q := rfl
@[simp] theorem getPortF_modPwr (s : State) (f : Power → Power) (q : Nat) : getPortF (modPwr s f) q = getPortF s q := rfl
@[simp] theorem getPortF_modDict (s : State) (f : Dict → Dict) (q : Nat) : getPortF (modDict s f) q = getPortF s q := rfl
@[simp] theorem getPortF_modTwin (s : State) (f : Twin → Twin) (q : Nat) : getPortF (modTwin s f) q = getPortF s q := rfl
@[simp] theorem getPortF_bump (s : State) (b i n : Nat) (q : Nat) : getPortF (bump s b i n) q = getPortF s q := rfl
@[simp] theorem getPortF_send (s : State) (m : OutMsg) (q : Nat) : getPortF (send s m) q = getPortF s q := rfl

@[simp] theorem getEnt_modSite (s : State) (n : Nat) (f : Site → Site) (q : Nat) : getEnt (modSite s n f) q = getEnt s q := rfl
@[simp] theorem getEnt_modCore (s : State) (c : Nat) (f : Site → Site) (q : Nat) : getEnt (modCore s c f) q = getEnt s q := rfl
@[simp] theorem getEnt_modCtx (s : State) (c k : Nat) (f : Ctx → Ctx) (q : Nat) : getEnt (modCtx s c k f) q = getEnt s q := rfl
@[simp] theorem getEnt_modPcl (s : State) (p : Nat) (f : Parcel → Parcel) (q : Nat) : getEnt (modPcl s p f) q = getEnt s q := rfl
@[simp] theorem getEnt_modWin (s : State) (w : Nat) (f : Window → Window) (q : Nat) : getEnt (modWin s w f) q = getEnt s q := rfl
@[simp] theorem getEnt_modPort (s : State) (k : Nat) (f : Port → Port) (q : Nat) : getEnt (modPort s k f) q = getEnt s q := rfl
@[simp] theorem getEnt_modLink (s : State) (die col : Nat) (f : BridgeLink → BridgeLink) (q : Nat) : getEnt (modLink s die col f) q = getEnt s q := rfl
@[simp] theorem getEnt_modPwr (s : State) (f : Power → Power) (q : Nat) : getEnt (modPwr s f) q = getEnt s q := rfl
@[simp] theorem getEnt_modDict (s : State) (f : Dict → Dict) (q : Nat) : getEnt (modDict s f) q = getEnt s q := rfl
@[simp] theorem getEnt_modTwin (s : State) (f : Twin → Twin) (q : Nat) : getEnt (modTwin s f) q = getEnt s q := rfl
@[simp] theorem getEnt_bump (s : State) (b i n : Nat) (q : Nat) : getEnt (bump s b i n) q = getEnt s q := rfl
@[simp] theorem getEnt_send (s : State) (m : OutMsg) (q : Nat) : getEnt (send s m) q = getEnt s q := rfl

/-! ### Reads of the same field -/

theorem getPcl_modPcl (s : State) (p q : Nat) (f : Parcel → Parcel) : getPcl (modPcl s p f) q = if q = p then f (getPcl s p) else getPcl s q := by
  simp only [getPcl, modPcl, sget_smod]
theorem getWin_modWin (s : State) (p q : Nat) (f : Window → Window) : getWin (modWin s p f) q = if q = p then f (getWin s p) else getWin s q := by
  simp only [getWin, modWin, sget_smod]
theorem getPort_modPort (s : State) (p q : Nat) (f : Port → Port) : getPort (modPort s p f) q = if q = p then f (getPort s p) else getPort s q := by
  simp only [getPort, modPort, sget_smod]
theorem getPortF_modPortF (s : State) (p q : Nat) (f : FarPort → FarPort) : getPortF (modPortF s p f) q = if q = p then f (getPortF s p) else getPortF s q := by
  simp only [getPortF, modPortF, sget_smod]
theorem getEnt_modEnt (s : State) (p q : Nat) (f : CadEntry → CadEntry) : getEnt (modEnt s p f) q = if q = p then f (getEnt s p) else getEnt s q := by
  simp only [getEnt, modEnt, sget_smod]

@[simp] theorem getWin_modPcl (s : State) (p w : Nat) (f : Parcel → Parcel) : getWin (modPcl s p f) w = getWin s w := rfl
@[simp] theorem getPort_modPcl (s : State) (p k : Nat) (f : Parcel → Parcel) : getPort (modPcl s p f) k = getPort s k := rfl
@[simp] theorem getPcl_modWin (s : State) (w p : Nat) (f : Window → Window) : getPcl (modWin s w f) p = getPcl s p := rfl
@[simp] theorem getPort_modWin (s : State) (w k : Nat) (f : Window → Window) : getPort (modWin s w f) k = getPort s k := rfl
@[simp] theorem getPcl_modPort (s : State) (k p : Nat) (f : Port → Port) : getPcl (modPort s k f) p = getPcl s p := rfl
@[simp] theorem getWin_modPort (s : State) (k w : Nat) (f : Port → Port) : getWin (modPort s k f) w = getWin s w := rfl
@[simp] theorem getEnt_modPortF (s : State) (p a : Nat) (f : FarPort → FarPort) : getEnt (modPortF s p f) a = getEnt s a := rfl
@[simp] theorem getPortF_modEnt (s : State) (a p : Nat) (f : CadEntry → CadEntry) : getPortF (modEnt s a f) p = getPortF s p := rfl

/-! ### Memory under updates that do not name it -/

/-- What leaves sites and far memory alone leaves every byte alone. -/
theorem sameMemory_of {s t : State} (h1 : t.sites = s.sites) (h2 : t.far.mem = s.far.mem) : SameMemory s t :=
  ⟨fun n a => by unfold getSite; rw [h1], fun n a => by unfold getSite; rw [h1], fun a => by rw [h2]⟩

theorem sameMemory_refl (s : State) : SameMemory s s := ⟨fun _ _ => rfl, fun _ _ => rfl, fun _ => rfl⟩

theorem SameMemory.trans {s t u : State} (h : SameMemory s t) (k : SameMemory t u) : SameMemory s u :=
  ⟨fun n a => (k.1 n a).trans (h.1 n a), fun n a => (k.2.1 n a).trans (h.2.1 n a), fun a => (k.2.2 a).trans (h.2.2 a)⟩

/-- A change of a site that leaves its memories alone leaves every byte alone. -/
theorem sameMemory_modSite (s : State) (n : Nat) (f : Site → Site)
    (hn : (f (getSite s n)).near = (getSite s n).near) (ht : (f (getSite s n)).terr = (getSite s n).terr) :
    SameMemory s (modSite s n f) := by
  refine ⟨fun m a => ?_, fun m a => ?_, fun _ => rfl⟩ <;> rw [getSite_modSite] <;> split <;> simp_all

end Sys2Proof.Machine
end

