-- ==== Sys2Proof/Tests/Slice0.lean ====
section
/-!
SUPPORT. Smoke tests of WellFormed, tests of single steps, and for every statement with hypotheses states and operands that
meet them.
-/

namespace Sys2Proof.Tests

set_option Elab.async false

open Sys2Proof Sys2Proof.Machine

/-! ### States -/

/-- The word of core 0, context 0, with registers and fields. -/
def enc (rd ra rb : BitVec 5) (md : BitVec 7) (imm : BitVec 32) : Enc := { core := 0, ctx := 0, rd := rd, ra := ra, rb := rb, md := md, imm := imm }

/-- A module that is up. -/
def up : State :=
  { pwr := { locked := ~~~0, lodgeUp := true, rails := true, dictUp := true, inputOk := true, bringDone := true, bringStep := 0xFF },
    far := { ppnSet := true } }

/-- Parcel 0 is ACTIVE with bed 0, two blocks of beacons, and window 0 as its work window. -/
def par : State := modWin (modPcl up 0 fun x => { x with st := .active, beds := 1, alloc0 := 3 }) 0 fun x => { x with ctl := 0x80000000 }

/-- Core 0 runs context 0 with a few registers, every vector register and arrays 0 and 1. -/
def run0 : State := modCtx par 0 0 fun _ =>
  { st := .issuing, valloc := ~~~0, town := 3, sregs := [(1, 7), (2, 0xFFFFFFFFFFFFFFFE)], aregs := [(1, 0x1000)] }

def withCtx (f : Ctx → Ctx) : State := modCtx run0 0 0 f
def withCore (f : Site → Site) : State := modCore run0 0 f

/-! ### Well-formed commands -/

theorem test_wf_accepts : ∀ i ∈ ([.add (enc 0 0 0 0 0), .nop 63, .hostMemRead 3 0 4, .perstN 3 true] : List Instr), i.wf = true := by decide +kernel

/-- One command for each check of a unit that does not exist. -/
theorem test_wf_refuses : ∀ i ∈ ([.add { enc 0 0 0 0 0 with core := 768 }, .add { enc 0 0 0 0 0 with ctx := 4 }, .nop 64,
    .hostMemRead 4 0 4, .perstN 4 true, .registerWrite (.host 4) 0 0, .registerWrite (.gatehouse 2) 0 0,
    .hwGo 4 [] 0 0, .tileRowCommit 0 [{ arr := 4, lane := 0, bits := 0 }], .tileRowCommit 0 [{ arr := 0, lane := 32, bits := 0 }],
    .ringCacheFill 0 [{ pos := 68, bits := 0 }], .rowRetirement (.terrace 800) 0, .rowRetirement (.far 48) 0,
    .inputFlapping (.perstN 4), .cixaNotify (.pclState 8), .keptAckExpiry (.hostWin 4) 0] : List Instr), i.wf = false := by decide +kernel

theorem test_table_words_spell_nothing : decodeTableWord 0 0 = none := rfl

/-- A flit on its way from site 1. -/
def came' : Flit := { src := 1, dst := 0, vc := 2, kind := .daf96Sum, parcel := 0, pv := true, addr := 0, pos := 1, what := .wga }

/-! ### Core instructions issue -/

theorem wit_issues_scalar : ∀ op ∈ List.range 17, op ≠ 0 →
    Issues (bShape 0 op (enc 3 1 2 0 0) false false) (enc 3 1 2 0 0) run0 ∧
    Issues (bShape 0 op (enc 3 1 0 1 5) false false) (enc 3 1 0 1 5) run0 := by
  unfold Issues; decide +kernel
theorem wit_issues_moves :
    Issues { cls := 0, op := 0x11, rd := true, imm := ~~~0 } (enc 3 0 0 0 0xFFFFFFFF) run0 ∧
    Issues { cls := 0, op := 0x13, rd := true, ra := true, aA := true } (enc 3 15 0 0 0) run0 ∧
    Issues (bShape 0 0x12 (enc 3 1 0 1 5) true false) (enc 3 1 0 1 5) run0 ∧
    Issues (bShape 0 0x17 (enc 15 15 2 0 0) true true) (enc 15 15 2 0 0) run0 := by
  unfold Issues; decide +kernel

/-- One word for each way in which an unused field of ADD is not zero. -/
theorem wit_add_unused : canIssue run0 (enc 3 1 2 1 5) = true ∧ ((enc 3 1 2 1 5).x run0).pc.toNat < nearSize ∧
    (fetchRow run0 0 0).isSome = true ∧ canIssue run0 (enc 3 1 2 0 1) = true ∧ canIssue run0 (enc 3 1 2 2 0) = true := by decide +kernel

/-- s1 = 7, with a given s2 and s4. -/
def runS (a b : W64) : State := withCtx fun x => { x with sregs := [(1, 7), (2, a), (4, b)].filter fun e => e.2 ≠ 0 }

theorem wit_branches : ∀ h ∈ ([({ cls := 1, op := 1, imm := ~~~0 }, enc 0 0 0 0 0xFFFFFFFF), ({ cls := 1, op := 2, ra := true, imm := ~~~0 }, enc 0 1 0 0 8),
      ({ cls := 1, op := 2, ra := true, imm := ~~~0 }, enc 0 0 0 0 8), ({ cls := 1, op := 3, ra := true, imm := ~~~0 }, enc 0 1 0 0 8),
      ({ cls := 1, op := 4, ra := true, rb := true, imm := ~~~0 }, enc 0 2 1 0 8), ({ cls := 1, op := 5, ra := true, rb := true, imm := ~~~0 }, enc 0 2 1 0 8),
      ({ cls := 1, op := 6, rd := true, imm := ~~~0 }, enc 0 0 0 0 8), ({ cls := 1, op := 6, rd := true, imm := ~~~0 }, enc 31 0 0 0 8),
      ({ cls := 1, op := 8, rd := true, imm := 0xFF }, enc 3 0 0 0 0x36), ({ cls := 1, op := 9, ra := true, imm := 0xFF }, enc 0 1 0 0 0x30),
      ({ cls := 1, op := 9, ra := true, imm := 0xFF }, enc 0 1 0 0 0x36), ({ cls := 1, op := 9, ra := true, imm := 0xFF }, enc 0 1 0 0 0x10),
      ({ cls := 1, op := 0x0C, imm := ~~~0 }, enc 0 0 0 0 9), ({ cls := 1, op := 0x0A }, enc 0 0 0 0 0),
      ({ cls := 1, op := 0x0B, ra := true }, enc 0 1 0 0 0)] : List (Shape × Enc)), Issues h.1 h.2 run0 := by
  unfold Issues; decide +kernel

/-- JR: to the last instruction of near memory, to an odd multiple of 4, and beyond near memory. -/
theorem wit_jr : (∀ a ∈ ([2097144, 4, 2097152] : List Nat), Issues { cls := 1, op := 7, ra := true } (enc 0 2 0 0 0) (runS (BitVec.ofNat 64 a) 0) ∧
      ((enc 0 2 0 0 0).x (runS (BitVec.ofNat 64 a) 0)).s 2 = BitVec.ofNat 64 a) ∧
    2097144 % 8 = 0 ∧ 2097144 < 2097152 ∧ 4 % 8 ≠ 0 ∧ 2097152 % 8 = 0 := by
  unfold Issues; decide +kernel

theorem wit_no_control_register : readCr run0 0 0 0x37 = none ∧ readCr run0 0 0 0x14 = none := by decide +kernel

/-- VALLOC: register 5 is another context's, register 6 nobody's. -/
theorem wit_valloc :
    let t := modCtx (withCtx fun x => { x with sregs := [(1, 0x20), (2, 0x40)], valloc := 0x80 }) 0 3 fun x => { x with valloc := 0x20 }
    Issues { cls := 1, op := 9, ra := true, imm := 0xFF } (enc 0 1 0 0 7) t ∧ Issues { cls := 1, op := 9, ra := true, imm := 0xFF } (enc 0 2 0 0 7) t ∧
    othersOwn (getCore t 0) 0 = 0x20 := by
  unfold Issues; decide +kernel

theorem wit_program_ends : (run0 |> (enc 0 0 0 0 0).x).heldSt = [] ∧ tileBusy (getCore run0 0) 0 = false := by decide +kernel

/-! ### The issue slot -/

theorem wit_quantum_ends :
    let t := modCtx (withCtx fun x => { x with quantum := 64 }) 0 1 fun x => { x with st := .ready }
    coreRuns t 0 = true ∧ (getCtx t 0 0).st = .issuing ∧ 64 ≤ (getCtx t 0 0).quantum ∧ otherReady (getCore t 0) 0 = true := by decide +kernel

theorem wit_stall : (getCtx (withCtx fun x => { x with wait := .op .tcfg (enc 0 0 0 0 0) }) 0 0).st = .issuing ∧
    coreRuns (withCtx fun x => { x with wait := .op .tcfg (enc 0 0 0 0 0) }) 0 = true := by decide +kernel

theorem wit_select :
    let t := modCtx par 0 3 fun x => { x with st := .ready }
    coreRuns t 0 = true ∧ slotFree (getCore t 0) = true ∧ nextReady (getCore t 0) = some 3 := by decide +kernel

/-! ### Loads and stores -/

def ldShape : Shape := { cls := 0, op := 0x14, rd := true, ra := true, aA := true, md := 0x1E, imm := ~~~0 }
def stShape : Shape := { cls := 0, op := 0x15, ra := true, rb := true, aA := true, md := 0x0E, imm := ~~~0 }
/-- a1 = a. -/
def runA (a : W64) : State := withCtx fun x => { x with aregs := [(1, a)] }
/-- Terrace space of the core itself, of core 1, and far space. -/
def aTerr : W64 := 0x1000000000000000
def aTerr1 : W64 := 0x2000000100000000
def aFar : W64 := 0x4000000000000000

theorem wit_local_loads : ∀ q ∈ ([(2097151, 0x10, 0), (2097150, 0x12, 1), (2097148, 0x14, 2), (2097144, 0x06, 3)] : List (W64 × BitVec 7 × Nat)),
    Issues ldShape (enc 3 1 0 q.2.1 0) (runA q.1) ∧ (q.2.1.extractLsb' 1 3).toNat = q.2.2 ∧
    spotOf (runA q.1) 0 spAll q.1 (2 ^ q.2.2) = some (.near q.1.toNat) ∧ isLocal (runA q.1) 0 (.near q.1.toNat) = true ∧
    spotRead (runA q.1) 0 (.near q.1.toNat) (2 ^ q.2.2) = .ok (zeros (2 ^ q.2.2)) := by
  unfold Issues; decide +kernel

theorem wit_own_terrace : spotOf (runA aTerr) 0 spAll aTerr 8 = some (.terr 1 0 0) ∧ isLocal (runA aTerr) 0 (.terr 1 0 0) = true := by
  decide +kernel

/-- Loads and stores of a reserved size, off their alignment, and beyond near memory. -/
theorem wit_load_store_traps : Issues ldShape (enc 3 1 0 0x08 0) run0 ∧ Issues ldShape (enc 3 1 0 0x16 0) run0 ∧ Issues stShape (enc 0 1 3 0x0E 0) run0 ∧
    Issues ldShape (enc 3 1 0 0x02 0) (runA 1) ∧ Issues stShape (enc 0 1 3 0x02 0) (runA 1) ∧
    Issues ldShape (enc 3 1 0 0x06 0) (runA 2097152) ∧ Issues stShape (enc 0 1 3 0x06 0) (runA 2097152) ∧
    spotOf (runA 2097152) 0 spAll 2097152 8 = none := by
  unfold Issues; decide +kernel

/-- A load and a store outside the site: of another core's terrace, and of far memory. -/
theorem wit_remote : ∀ q ∈ ([(aTerr1, .terr 2 1 0), (aFar, .far 0)] : List (W64 × Spot)),
    Issues ldShape (enc 3 1 0 0x06 0) (runA q.1) ∧ Issues stShape (enc 0 1 3 0x06 0) (runA q.1) ∧
    spotOf (runA q.1) 0 spAll q.1 8 = some q.2 ∧ isLocal (runA q.1) 0 q.2 = false ∧ ((enc 0 1 0 0 0).x (runA q.1)).heldSt = [] ∧
    farFull (runA q.1) 0 q.2 = false ∧ injBlocked (runA q.1) 0 = false := by
  unfold Issues; decide +kernel

def resp (refused : Bool) : Flit :=
  { src := 1, dst := 0, vc := 1, kind := .readResp, parcel := 0, pv := true, addr := 0, refused := refused, payload := [1, 0, 0, 0, 0, 0, 0, 0],
    pos := 0, arrived := true, what := .load 0 0 8 }

theorem wit_load_arrives : ∀ r, answersLoad 0 0 (resp r) = true ∧
    (getCtx (withCtx fun x => { x with st := .waiting, wait := .load 3 8 false aTerr1 }) 0 0).wait = .load 3 8 false aTerr1 := by decide +kernel

theorem wit_local_stores : ∀ q ∈ ([(2097151, 0x00, 0), (2097144, 0x06, 3)] : List (W64 × BitVec 7 × Nat)),
    Issues stShape (enc 0 1 3 q.2.1 0) (runA q.1) ∧ (q.2.1.extractLsb' 1 3).toNat = q.2.2 ∧
    spotOf (runA q.1) 0 spAll q.1 (2 ^ q.2.2) = some (.near q.1.toNat) := by
  unfold Issues; decide +kernel

/-- A store changes its bytes alone. -/
theorem test_store : ∀ n ∈ [(0x1007, 0), (0x1008, 7), (0x1009, 0), (0x1010, 0)],
    mrd (getCore (after run0 (exec (.st (enc 0 1 1 0x06 8)) run0)) 0).near n.1 = n.2 := by decide +kernel

/-- A load of a negative halfword is sign-extended. -/
theorem test_load_sign : ((enc 3 1 0 0 0).x (after run0 (exec (.ld (enc 3 1 0 0x12 0)) (nearWrite run0 0 0x1000 [0xFE, 0xFF, 7])))).s 3 =
    0xFFFFFFFFFFFFFFFE := by decide +kernel

/-- A core takes injections on every channel, and not while its die's are stopped; nor while eight wait on the channel. -/
theorem wit_injections : (∀ v ∈ List.range 4, canInject run0 0 v = true) ∧
    (let t := { run0 with mesh := { injStopped := [(0, true)] } }; injBlocked t 0 = true ∧ canInject t 0 2 = false) ∧
    injRoom { run0 with mesh := { net := List.replicate 8 { came' with fresh := true } } } 1 2 = false := by decide +kernel

/-! ### Beacons -/

theorem wit_beacons : ∀ h ∈ ([bcnShape 1 (enc 0 0 0 0 127) false false, bcnShape 2 (enc 0 1 0 0 127) false true, bcnShape 3 (enc 0 1 0 0 127) false true,
      bcnShape 4 (enc 3 1 0 0 127) true true] : List Shape),
    Issues h (enc (if h.rd then 3 else 0) (if h.ra then 1 else 0) 0 0 127) run0 ∧ Issues h (enc (if h.rd then 3 else 0) (if h.ra then 1 else 0) 0 0 128) run0 := by
  unfold Issues; decide +kernel

/-- The parcel owns beacons 0 to 127. -/
theorem wit_beacons_owned : coreParcel run0 0 = some 0 ∧ beaconOwned run0 0 127 = true ∧ beaconOwned run0 0 128 = false ∧
    storeFlying run0 0 0 = false ∧ ((enc 0 0 0 0 0).x run0).compat = false := by decide +kernel

def msgOf (op : BeaconOp) : BeaconMsg := { core := 0, site := 0, ctx := 0, beacon := 5, op := op }
def withMsgs (ms : List BeaconMsg) (ws : List Waiter) (rs : List BeaconReply) : State := { run0 with mesh := { msgs := ms, waiters := ws, replies := rs } }

theorem wit_beacon_message : ∀ op ∈ ([.add 1, .set 9, .wait 0, .wait 1] : List BeaconOp),
    (withMsgs [msgOf op] [{ core := 1, ctx := 0, beacon := 5, count := 1 }] []).mesh.msgs[0]? = some (msgOf op) := by decide

/-- An ADD that meets a waiter's count answers it. -/
theorem test_beacon_answer : (after run0 (exec (.beaconMessageAtRoot 0) (withMsgs [msgOf (.add 1)] [{ core := 1, ctx := 0, beacon := 5, count := 1 }] []))).mesh.replies =
    [{ core := 1, ctx := 0, status := 0 }] := by decide +kernel

theorem wit_beacon_wakes :
    let t := modCtx (withMsgs [] [] [{ core := 1, ctx := 0, status := 0 }, { core := 0, ctx := 0, status := 1 }]) 0 0 fun x => { x with st := .waiting, wait := .reply 3 }
    t.mesh.replies = [{ core := 1, ctx := 0, status := 0 }] ++ { core := 0, ctx := 0, status := 1 } :: [] ∧
    (getCtx t 0 0).wait = .reply 3 ∧ (getCtx t 0 0).st = .waiting := by decide +kernel

theorem wit_beacon_adds : ∀ m ∈ [msgOf (.add 1), msgOf (.add 0xFFFFFFFF)], m.beacon = 5 ∧ m.op = .add (if m = msgOf (.add 1) then 1 else 0xFFFFFFFF) := by decide

/-! ### Copies -/

/-- Bytes with little-endian fields: offset, width, value. -/
def desc (n : Nat) (fs : List (Nat × Nat × Nat)) : List Byte := fs.foldl (fun b f => patch b f.1 (leBytes f.2.1 f.2.2)) (zeros n)
/-- The state with bytes in core 0's near memory. -/
def near (a : Nat) (bs : List Byte) (s : State) : State := nearWrite s 0 a bs

def cpyShape : Shape := { cls := 2, op := 1, ra := true, aA := true, imm := 1 }
def withChan (x : Chan) : State := withCore fun y => { y with chans := [(1, x)] }

theorem wit_copy_issues : Issues cpyShape (enc 0 1 0 0 1) (runA 2097088) ∧ (2097088 : W64).toNat % 64 = 0 ∧ (2097088 : W64).toNat + 64 ≤ 2097152 ∧
    (getChan (runA 2097088) 0 1).waiting < 4 ∧ Issues { cls := 2, op := 3, rd := true, imm := 1 } (enc 3 0 0 0 1) run0 ∧
    Issues { cls := 2, op := 2, rd := true, imm := 1 } (enc 3 0 0 0 1) run0 ∧ Issues { cls := 2, op := 4, imm := 1 } (enc 0 0 0 0 1) run0 ∧
    (getChan run0 0 1).settled = true := by
  unfold Issues; decide +kernel

def cpReq : CopyReq := { desc := 0x1000, mseed := 0, ctx := 0 }
/-- Two rows of 64 bytes from 0x2000 to a destination, with beacon 5 as the tail. -/
def cpDesc (dst : Nat) : List Byte := desc 64 [(0, 8, 0x2000), (8, 8, dst), (16, 4, 2), (20, 4, 64), (24, 4, 64), (28, 4, 64), (32, 4, 0x58000)]
def cpRun (dst pos : Nat) (mc : Option McEntry) : CopyRun := { req := cpReq, bytes := cpDesc dst, pos := pos, mc := mc }
def mcE : McEntry := { x0 := 0, x1 := 0, y0 := 0, y1 := 0, bmen := false, beds := 0 }

theorem wit_copy_channels : (getChan (withChan { st := .busy, queue := [cpReq] }) 0 1).settled = false ∧
    (getChan (withChan { st := .haltedDesc, queue := [cpReq] }) 0 1).st = .haltedDesc ∧
    (getChan (withChan { st := .busy, run := some (cpRun 0x3000 0 none) }) 0 1).run.isSome = true := by decide +kernel

/-- A descriptor without and with an error. -/
theorem wit_copy_starts : ∀ d ∈ [cpDesc 0x3000, cpDesc 2097152],
    let t := near 0x1000 d (withChan { st := .busy, queue := [cpReq] })
    coreRuns t 0 = true ∧ (getChan t 0 1).st = .busy ∧ (getChan t 0 1).run = none ∧ (getChan t 0 1).tcopy = false ∧
    (getChan t 0 1).queue = [cpReq] ∧ storeFlying t 0 0 = false ∧ (getCtx t 0 0).heldSt = [] ∧ engRead t 0 spNear 0x1000 64 = .ok d ∧
    (cdOk t 0 d = true ↔ d = cpDesc 0x3000) := by decide +kernel

theorem wit_copy_moves :
    let t := near 0x2000 [1, 2, 3] (withChan { st := .busy, run := some (cpRun 0x3000 0 none) })
    coreRuns t 0 = true ∧ (cpRun 0x3000 0 none).pos < cdSteps (cpDesc 0x3000) ∧ cdMode (cpDesc 0x3000) = 0 ∧
    copyStep t 0 (cpRun 0x3000 0 none) = .ok ([(0x3000, [1, 2, 3] ++ zeros 61)], 0) ∧
    spotOf t 0 spAll 0x3000 64 = some (.near 0x3000) ∧ (writeAll t 0 2 spAll [(0x3000, [1, 2, 3] ++ zeros 61)]).toBool = true := by decide +kernel

theorem wit_copy_completes : cdSteps (cpDesc 0x3000) ≤ (cpRun 0x3000 2 none).pos ∧
    coreRuns (withChan { st := .busy, run := some (cpRun 0x3000 2 none) }) 0 = true := by decide +kernel

/-- A multicast to core 0's own terrace, whose one count has come back. -/
def mcDone : State :=
  let s := withChan { st := .busy, run := some (cpRun 0x1000000000000000 2 (some mcE)) }
  { s with mesh := { net := [{ src := 0, dst := 0, vc := 3, kind := .int32Sum, parcel := 0, pv := true, addr := 0, payload := leBytes 4 1,
                               pos := 0, arrived := true, what := .mcCount 0 1 }] } }

/-- The writes of a row, performed; a copy with one remote endpoint and a tail. -/
theorem wit_copy_writes : (let t := near 0x2000 [1, 2, 3] (withChan { st := .busy, run := some (cpRun 0x3000 0 none) })
      (putAll (copySeen t 0 (cpRun 0x3000 0 none)) 0 spAll [(0x3000, [1, 2, 3] ++ zeros 61)]).toBool = true) ∧ injBlocked run0 0 = false ∧
    cdTail (cpRun 0x3000 2 none).bytes = some 5 ∧ ({ cpRun 0x3000 2 none with ends := [5] } : CopyRun).ends = [5] ∧ csite run0 0 ≠ 5 := by decide +kernel

theorem wit_multicast_completes : mcSet mcDone (coreParcelNum mcDone 0) mcE = [0] ∧
    ((mcDone.mesh.net.filter (isCount 0 1)).map fun f => leNat (f.payload.take 4)).sum = 1 := by decide +kernel

/-! ### Vectors -/

theorem wit_issues_vectors : ∀ h ∈ ([({ cls := 4, op := 1, rd := true, ra := true, rb := true, md := 0x20 }, enc 31 30 2 0x20 0),
      ({ cls := 4, op := 1, rd := true, ra := true, rb := true, md := 0x20 }, enc 31 30 29 0 0),
      ({ cls := 4, op := 4, rd := true, ra := true, rb := true, md := 0x3F }, enc 31 30 2 0x3F 0), ({ cls := 4, op := 7, rd := true, ra := true }, enc 3 4 0 0 0),
      ({ cls := 4, op := 0x15, rd := true, ra := true, imm := 0x3F }, enc 3 4 0 0 63),
      ({ cls := 4, op := 0x12, rd := true, ra := true, aA := true, imm := ~~~0 }, enc 3 1 0 0 0xFFFFFFC0),
      ({ cls := 4, op := 0x13, ra := true, rb := true, aA := true, imm := ~~~0 }, enc 0 1 3 0 0),
      ({ cls := 4, op := 0x19, rd := true, ra := true, aA := true, imm := ~~~0 }, enc 29 1 0 0 0x3FF),
      ({ cls := 4, op := 0x1A, ra := true, rb := true, aA := true, imm := 0xFFFFFC00 }, enc 0 1 29 0 0),
      ({ cls := 4, op := 0x17, rd := true, ra := true, rb := true }, enc 29 0 3 0 0), ({ cls := 4, op := 0x17, rd := true, ra := true, rb := true }, enc 30 0 3 0 0),
      ({ cls := 4, op := 0x16, rd := true, ra := true, imm := 0xFFFFF }, enc 3 4 0 0 0x20),
      ({ cls := 4, op := 0x16, rd := true, ra := true, imm := 0xFFFFF }, enc 3 4 0 0 0x40),
      ({ cls := 4, op := 0x16, rd := true, ra := true, imm := 0xFFFFF }, enc 29 4 0 0 0x80200),
      ({ cls := 4, op := 0x16, rd := true, ra := true, imm := 0xFFFFF }, enc 3 4 0 0 0x421)] : List (Shape × Enc)),
    Issues h.1 h.2 run0 ∧ Owns h.2 run0 [0, 31] := by
  unfold Issues Owns; decide +kernel

/-- The other operations have the shapes above. -/
theorem wit_vector_shapes : (∀ op ∈ [2, 3, 5, 6, 0x0F, 0x18, 0x0E],
      Issues { cls := 4, op := op, rd := true, ra := true, rb := true, md := 0x3F } (enc 3 4 5 6 0) run0) ∧
    ∀ op ∈ [8, 9, 0xA, 0xB, 0xC, 0xD, 0x10, 0x11, 0x14], Issues { cls := 4, op := op, rd := true, ra := true } (enc 3 4 0 0 0) run0 := by
  unfold Issues; decide +kernel

/-- A context that owns register 3 alone. -/
theorem wit_vector_not_owned :
    let t := withCtx fun x => { x with valloc := 8 }
    Issues { cls := 4, op := 1, rd := true, ra := true, rb := true, md := 0x20 } (enc 3 4 3 0 0) t ∧
    Issues { cls := 4, op := 7, rd := true, ra := true } (enc 3 4 0 0 0) t ∧
    Issues { cls := 4, op := 4, rd := true, ra := true, rb := true, md := 0x3F } (enc 3 3 3 4 0) t ∧
    Issues { cls := 4, op := 0x13, ra := true, rb := true, aA := true, imm := ~~~0 } (enc 0 1 4 0 0) t ∧ ((enc 0 0 0 0 0).x t).valloc.getLsbD 4 = false := by
  unfold Issues; decide +kernel

theorem wit_vector_memory : engRead run0 0 spLocal 0xFC0 256 = .ok (zeros 256) ∧ engRead run0 0 spLocal 0x1000 768 = .ok (zeros 768) ∧
    (0xFC0 : W64).toNat % 64 = 0 ∧ spotOf run0 0 spLocal 0x1000 256 = some (.near 0x1000) ∧ spotOf run0 0 spLocal 0x1000 768 = some (.near 0x1000) := by
  decide +kernel

/-- VST of a vector register and of a scalar one, and of a register that the context does not own. -/
theorem wit_vst : let h : Shape := { cls := 4, op := 0x13, ra := true, rb := true, aA := true, md := 0x20, imm := ~~~0 }
    Issues h (enc 0 1 3 0 0) run0 ∧ Issues h (enc 0 1 3 0x20 0) run0 ∧ Issues h (enc 0 1 4 0 0) (withCtx fun x => { x with valloc := 8 }) ∧
    isLocal run0 0 (.near 0x1000) = true ∧ spotRead run0 0 (.near 0xFC0) 256 = .ok (zeros 256) ∧ spotRead run0 0 (.near 0x1000) 768 = .ok (zeros 768) := by
  unfold Issues; decide +kernel

/-- Core 1 computes at site 43, away from its terrace. -/
def away : State := modCtx { run0 with place := { reloc := [(1, 44)], used := [(0, true)] } } 1 0 fun _ => { st := .issuing, valloc := ~~~0, aregs := [(1, 0x1000000000000000)] }
theorem wit_remote_terrace : let e : Enc := { enc 3 1 4 0 0 with core := 1 }
    Issues { cls := 4, op := 0x12, rd := true, ra := true, aA := true, imm := ~~~0 } { e with rb := 0 } away ∧
    Issues { cls := 4, op := 0x13, ra := true, rb := true, aA := true, md := 0x20, imm := ~~~0 } { e with rd := 0 } away ∧
    spotOf away 1 spLocal 0x1000000000000000 256 = some (.terr 1 1 0) ∧ isLocal away 1 (.terr 1 1 0) = false ∧ canInject away 1 0 = true ∧ csite away 1 = 43 := by
  unfold Issues; decide +kernel

/-- Triples of one datum, and of two. -/
theorem wit_tags : (getCore run0 0).vtag 0 = (getCore run0 0).vtag 3 ∧ (getCore (withCore fun x => { x with vtags := [(3, 1)] }) 0).vtag 0 ≠
    (getCore (withCore fun x => { x with vtags := [(3, 1)] }) 0).vtag 3 := by decide +kernel

theorem wit_conversions : vcvtOk 1 1 = false ∧ (0x421 : BitVec 32).extractLsb' 10 10 = (1 : Datum) := by decide +kernel

/-! ### Tables and masks -/

def goodImage : List Byte := zeros 3136
def badImage : List Byte := patch (zeros 3136) 7 [1]

set_option maxRecDepth 20000 in
theorem wit_tables : Issues { cls := 5, op := 1, ra := true, aA := true, imm := 1 } (enc 0 1 0 0 1) run0 ∧
    Issues { cls := 5, op := 2, rd := true, ra := true, imm := 1 } (enc 3 4 0 0 1) run0 ∧
    Issues { cls := 5, op := 3, rd := true, ra := true, rb := true, imm := 1 } (enc 3 4 5 0 1) run0 ∧
    engRead run0 0 spNear 0x1000 3136 = .ok goodImage ∧ imageOk goodImage = true ∧
    engRead (near 0x1007 [1] run0) 0 spNear 0x1000 3136 = .ok badImage ∧ imageOk badImage = false := by
  unfold Issues; decide +kernel

/-- A drain with a table is queued; a TLD of another context waits. -/
theorem wit_table_order : (getTiles run0 0).drains.any tableDrain = false ∧ tldWaits (getCore run0 0) = false ∧
    (let t := withCore fun x => { x with tiles := { drains := [{ sn := 2, ctx := 0, arr := 3, tile := 7, rows := 1, rel := true, ep := desc 64 [(4, 4, 64)], base := 0x3000, mseed := 0 }] } }
     (getTiles t 0).drains.any tableDrain = true ∧ Issues { cls := 5, op := 1, ra := true, aA := true, imm := 1 } (enc 0 1 0 0 1) t) ∧
    (let t := modCtx run0 0 1 fun x => { x with st := .waiting, wait := .op .tld (enc 0 1 0 0 1) }
     tldWaits (getCore t 0) = true ∧ Issues { cls := 5, op := 2, rd := true, ra := true, imm := 1 } (enc 3 4 0 0 1) t) := by
  unfold Issues; decide +kernel

theorem wit_masks : Issues { cls := 9, op := 1, rd := true, ra := true, rb := true, imm := 0xFFF } (enc 3 4 1 0 0xFFF) run0 ∧
    Issues { cls := 9, op := 2, rd := true, ra := true, imm := 0xFFF } (enc 3 1 0 0 0xFFF) run0 ∧
    Issues { cls := 9, op := 3, rd := true, ra := true, imm := 0xFFF } (enc 30 1 0 0 0) run0 := by
  unfold Issues; decide +kernel

/-! ### The matrix unit -/

/-- A stream of m rows of n chunks, of a format. -/
def tdsc (fmt m n : Nat) : List Byte :=
  desc 64 [(0, 8, 0x2000), (16, 8, 0x8000), (24, 4, 64), (28, 4, 4096), (36, 4, 2176), (40, 4, 4352), (52, 4, n), (56, 2, fmt + 32 * fmt), (58, 1, m)]
/-- The sequence of those rows on arrays 0 and 1, tile 7, at its row r of chunk c. -/
def tjob (fmt m n c r : Nat) : TseqJob := { sn := 4, ctx := 0, arr := 3, tile := 7, desc := tdsc fmt m n, descAddr := 0x1000, chunk := c, row := r }
def withTiles (t : Tiles) : State := withCore fun x => { x with tiles := t }
def tdrain (r rows : Nat) (tail : Bool) : DrainJob :=
  { sn := 2, ctx := 0, arr := 3, tile := 7, rows := rows, rel := true, ep := desc 64 [(0, 4, 256), (4, 4, if tail then 0x2000 else 0), (46, 2, if tail then 5 else 0)], base := 0x3000, mseed := 0, row := r }

def tcfgShape : Shape := { cls := 6, op := 1, ra := true }

/-- TCFG of arrays 2 and 3, which another context has, with and without tile work, and of arrays 1 and 2. -/
theorem wit_tcfg :
    let t := modCtx (withCtx fun x => { x with sregs := [(1, 0xC), (2, 0x6)] }) 0 3 fun x => { x with town := 0x8 }
    let u := modCore t 0 fun x => { x with tiles := { hold := ~~~0, jobs := [tjob 2 64 1 0 0] } }
    Issues tcfgShape (enc 0 1 0 0 0) t ∧ Issues tcfgShape (enc 0 2 0 0 0) t ∧ othersArrs (getCore t 0) 0 = 8 ∧ tileBusy (getCore t 0) 0 = false ∧
    Issues tcfgShape (enc 0 2 0 0 0) u ∧ tileBusy (getCore u 0) 0 = true ∧ Issues { cls := 6, op := 3 } (enc 0 0 0 0 0) t ∧
    Issues { cls := 6, op := 3 } (enc 0 0 0 0 0) u := by
  unfold Issues; decide +kernel

/-- TDRV of the arrays it owns and of those it does not; ACCREL. -/
theorem wit_tdrv :
    let u := withTiles { hold := ~~~0, words := [(2047, 9)], jobs := [tjob 2 64 1 0 0] }
    Issues { cls := 7, op := 3, imm := 0x7F } (enc 0 0 0 0 0x73) run0 ∧ Issues { cls := 7, op := 2, rd := true, imm := 0x3FF } (enc 3 0 0 0 0x3FE) run0 ∧
    Issues { cls := 7, op := 2, rd := true, imm := 0x3FF } (enc 3 0 0 0 0x3FF) run0 ∧ Issues { cls := 7, op := 2, rd := true, imm := 0x3FF } (enc 3 0 0 0 0x3FE) u ∧
    rowPending (getTiles run0 0) (getTiles run0 0).nextSn 3 7 63 = false ∧ rowPending (getTiles u 0) 5 3 7 63 = true ∧
    (0xC : BitVec 4) &&& ~~~((enc 0 0 0 0 0).x run0).town ≠ 0 ∧ Owns (enc 3 0 0 0 0x3FE) run0 [3] := by
  unfold Issues Owns; decide +kernel

def tseqShape : Shape := { cls := 6, op := 2, ra := true, aA := true, imm := 0x7F }
def tdrnShape : Shape := { cls := 7, op := 1, ra := true, rb := true, aA := true, aB := true, imm := 0x7FFF }

/-- TSEQ of no arrays, of arrays not owned, of a descriptor off its alignment, of unlike formats, of no rows, and of 64 rows. -/
theorem wit_tseq : ∀ q ∈ ([(0x70, 0x1000, tdsc 2 64 1), (0x7F, 0x1000, tdsc 2 64 1), (0x73, 0x1008, tdsc 2 64 1), (0x73, 0x1000, tdsc 0 64 1),
      (0x73, 0x1000, tdsc 2 0 1), (0x73, 0x1000, tdsc 2 64 1), (0x71, 0x1000, tdsc 4 1 1)] : List (W32 × W64 × List Byte)),
    Issues tseqShape (enc 0 1 0 0 q.1) (near q.2.1.toNat q.2.2 (runA q.2.1)) ∧ engRead (near q.2.1.toNat q.2.2 (runA q.2.1)) 0 spNear q.2.1 64 = .ok q.2.2 := by
  unfold Issues; decide +kernel

theorem wit_tseq_cases : tdFmtOk (tdsc 0 64 1) = false ∧ tdFmtOk (tdsc 2 0 1) = true ∧ tdOk (tdsc 2 0 1) 0 = false ∧ tdFmtOk (tdsc 2 64 1) = true ∧
    tdOk (tdsc 2 64 1) 63 = true ∧ tdOk (tdsc 2 64 1) 64 = false ∧ (getTiles run0 0).after 0 7 = none ∧ (getTiles run0 0).after 1 7 = none := by
  decide +kernel

/-- Epilogue descriptors: to memory; with a format that none has; to an unlisted destination. -/
def epi (ctl param : Nat) : List Byte := desc 64 [(0, 4, 256), (4, 4, ctl), (12, 4, param)]
def rowsImm (rows arr : Nat) : W32 := BitVec.ofNat 32 (rows * 128 + 112 + arr)
def runAB (a b : W64) : State := withCtx fun x => { x with aregs := [(1, a), (2, b)].filter fun e => e.2 ≠ 0 }

theorem wit_tdrn : ∀ q ∈ ([(64, 0, 0x1000, epi 0 0, 0x3000), (0, 3, 0x1000, epi 0 0, 0x3000), (65, 3, 0x1000, epi 0 0, 0x3000), (64, 15, 0x1000, epi 0 0, 0x3000),
      (64, 3, 0x1020, epi 0 0, 0x3000), (64, 3, 0x1000, epi 7 0, 0x3000), (64, 3, 0x1000, epi 0 0, 0x3008), (64, 3, 0x1000, epi 0 0, 2096896),
      (64, 3, 0x1000, epi 0x1001 3, 0), (64, 3, 0x1000, epi 0x1001 0, 1), (64, 3, 0x1000, epi 0x1002 0, 12), (1, 1, 0x1000, epi 0 0, 0x3000),
      (64, 3, 0x1000, epi 0 0, 0x3000)] : List (Nat × Nat × W64 × List Byte × W64)),
    let t := near q.2.2.1.toNat q.2.2.2.1 (runAB q.2.2.1 q.2.2.2.2)
    let i := rowsImm q.1 q.2.1
    Issues tdrnShape (enc 0 1 2 0 i) t ∧ (i.extractLsb' 0 4).toNat = q.2.1 ∧ (i.extractLsb' 7 7).toNat = q.1 ∧
    engRead t 0 spNear q.2.2.1 64 = .ok q.2.2.2.1 ∧ edFmtOk q.2.2.2.1 = true ∧ edCairn q.2.2.2.1 = false := by
  unfold Issues; decide +kernel

/-- Of those: the one to no destination is illegal, the two off a block row's place and the two to the WGA trap, the rest are queued. -/
theorem wit_tdrn_cases : edOk run0 0 (epi 7 0) 2 = false ∧ edOk run0 0 (epi 0 0) 2 = true ∧ edOk run0 0 (epi 0x1001 3) 2 = true ∧ edOk run0 0 (epi 0x1002 0) 2 = true ∧
    drainTrap run0 0 (epi 0 0) 0x3008 2 64 = some (0x13, 0x3008) ∧ drainTrap run0 0 (epi 0 0) 2096896 2 64 = some (0x13, 0x200000) ∧
    drainTrap run0 0 (epi 0x1001 3) 0 2 64 = some (0x18, 0x30000) ∧ drainTrap run0 0 (epi 0x1001 0) 1 2 64 = some (0x13, 1) ∧
    drainTrap run0 0 (epi 0x1002 0) 12 2 64 = some (0x13, 12) ∧ drainTrap run0 0 (epi 0 0) 0x3000 2 64 = none ∧
    4 ≤ (getTiles (withTiles { drains := List.replicate 4 (tdrain 0 1 false) }) 0).drains.length := by
  decide +kernel

/-- A drain with a table behind a TLD that waits, and one before any. -/
theorem wit_tdrn_table : let t := near 0x1000 (epi 64 0) (runAB 0x1000 0x3000)
    let u := modCtx t 0 1 fun x => { x with st := .waiting, wait := .op .tld (enc 0 1 0 0 1) }
    edTable (epi 64 0) = true ∧ edOk t 0 (epi 64 0) 2 = true ∧ tldWaits (getCore t 0) = false ∧ tldWaits (getCore u 0) = true ∧
    Issues tdrnShape (enc 0 1 2 0 (rowsImm 64 3)) u ∧ engRead u 0 spNear 0x1000 64 = .ok (epi 64 0) := by
  unfold Issues; decide +kernel

/-- BF16 panels: 32 rows of 64 bytes, then scales. -/
def tpanel : List Byte := (List.replicate 1088 [(0x80 : Byte), 0x3F]).flatten
def intPanel : List Byte := List.replicate 2176 2
def prow (fmt c r : Nat) (act pan : List Byte) : PipeRow :=
  { sn := 4, chunk := c, row := r, act := act, scales := [], panels := if fmt = 4 then [(0, pan)] else [(0, pan), (1, pan)], last := true }
def act16 : List Byte := (List.replicate 32 [(0 : Byte), 0x40]).flatten
def tslots : SMap Slot := [(0, { sn := 4, chunk := 0, bytes := tpanel }), (2, { sn := 4, chunk := 0, bytes := tpanel })]

theorem wit_stream :
    let u := withTiles { jobs := [tjob 2 64 2 0 63] }
    let v := withTiles { jobs := [tjob 2 64 2 0 63], slots := tslots }
    let w := withTiles { jobs := [tjob 2 64 1 1 0] }
    (getTiles u 0).jobs.find? (fun j => j.active && j.arr.getLsbD 1) = some (tjob 2 64 2 0 63) ∧ (getTiles u 0).panel 4 1 0 = none ∧
    (getTiles v 0).panel 4 1 0 = some tpanel ∧ (getTiles v 0).panel 4 1 1 = none ∧ 1 < tdChunks (tdsc 2 64 2) ∧
    engRead u 0 spAll (tdPanel (tdsc 2 64 2) 1 0) 2176 = .ok (zeros 2176) ∧ engRead v 0 spAll (tdPanel (tdsc 2 64 2) 1 1) 2176 = .ok (zeros 2176) ∧
    (getTiles v 0).head = some (tjob 2 64 2 0 63) ∧ rowPanels (getTiles v 0) (tjob 2 64 2 0 63) = some [(0, tpanel), (1, tpanel)] ∧
    fmtMx (tdAfmt (tdsc 2 64 2)) = false ∧ engRead v 0 spAll (tdRow (tdsc 2 64 2) 0 63) 64 = .ok (zeros 64) ∧
    (getTiles w 0).jobs.find? (fun j => !j.entered && decide (tdChunks j.desc ≤ j.chunk)) = some (tjob 2 64 1 1 0) ∧
    (tjob 2 64 1 1 0).waited = true ∧ (getCtx (withCtx fun x => { x with st := .waiting, wait := .streaming }) 0 0).st = .waiting ∧
    coreRuns u 0 = true ∧ coreRuns v 0 = true := by
  decide +kernel

/-- A BF16 row and an INT8 row of one array pass; the INT8 row with a turned bit fails. -/
theorem wit_commits :
    (∀ x ∈ (prow 2 0 63 act16 tpanel).panels, plumbOf (tdsc 2 64 1) (prow 2 0 63 act16 tpanel) [] x ≠ .fail) ∧
    ((prow 2 0 63 act16 tpanel).panels.map fun x => x.1).Nodup ∧ (∀ x ∈ (prow 2 0 63 act16 tpanel).panels, x.1 < 4) ∧
    plumbOf (tdsc 4 1 1) (prow 4 0 0 (List.replicate 64 3) intPanel) [{ arr := 0, lane := 31, bits := 1 }] (0, intPanel) = .fail ∧
    commitWaits { jobs := [tjob 2 64 1 1 0] } (tjob 2 64 1 1 0) (prow 2 0 63 act16 tpanel) = false ∧
    commitWaits { jobs := [tjob 4 1 1 1 0] } (tjob 4 1 1 1 0) (prow 4 0 0 (List.replicate 64 3) intPanel) = false ∧
    badTileScale (tdsc 2 64 1) = false ∧ badTileScale (patch (tdsc 5 64 1) 44 (leBytes 4 0x7FC00000)) = true ∧ (List.replicate 64 (3 : Byte)).length = 64 ∧
    64 * 31 + 64 ≤ intPanel.length := by
  decide +kernel

/-- Alone and twinned; the first failure of the sequence, and one after an earlier. -/
theorem wit_plumb_fails : twinned run0 = false ∧ twinned { run0 with twin := { st := .paired } } = true ∧ (tjob 4 1 1 1 0).fails = 0 ∧
    ({ tjob 4 1 1 1 0 with fails := 1 } : TseqJob).fails ≠ 0 ∧ (coreParcel run0 0).isSome = true := by decide +kernel

theorem wit_drains :
    let u := withTiles { drains := [tdrain 0 1 false] }
    let v := withTiles { hold := ~~~0, drains := [tdrain 64 64 true] }
    coreRuns u 0 = true ∧ rowPending (getTiles u 0) 2 3 7 0 = false ∧ (drainRowWork u 0 (tdrain 0 1 false)).isSome = true ∧
    field (tdrain 0 1 false).ep 4 4 = 0 ∧ (getTiles u 0).isInt 0 7 = false ∧ spotOf u 0 spNoFar (edRow (tdrain 0 1 false).ep 0x3000 0) 256 = some (.near 0x3000) ∧
    (tdrain 64 64 true).rows ≤ (tdrain 64 64 true).row ∧ edTail (tdrain 64 64 true).ep = some 5 ∧ edDest (tdrain 64 64 true).ep = 0 ∧
    edTail (tdrain 64 64 false).ep = none ∧ coreRuns v 0 = true ∧ canInject u 0 2 = true ∧ injBlocked v 0 = false ∧
    (tdrain 64 64 true).ends.length ≠ 1 ∧ ({ tdrain 64 64 true with ends := [0] } : DrainJob).ends = [csite v 0] := by
  decide +kernel

/-! ### The Cairn -/

/-- A Cairn of context 0 with a region of four blocks and a spill area of eight. -/
def cairn0 : Cairn := { base := 0x20000, limit := 0x60000, spill := 0x4000000000000000, spillLim := 0x80000, owner := some 0 }
def withCairn (x : Cairn) : State := withCore fun y => { y with cairn := x }
/-- s1 and s2. -/
def regs12 (a b : W64) (s : State) : State := modCtx s 0 0 fun x => { x with sregs := [(1, a), (2, b)].filter fun e => e.2 ≠ 0 }
def wrcrShape : Shape := { cls := 1, op := 9, ra := true, imm := 0xFF }

theorem wit_cairn_owner : ∀ o ∈ [none, some 0, some 3], (getCairn (withCairn { cairn0 with owner := o }) 0).fault = none ∧
    ∀ i ∈ [0, 1], Issues { cls := 8, op := 1, imm := 1 } (enc 0 0 0 0 (BitVec.ofNat 32 i)) (withCairn { cairn0 with owner := o }) := by
  unfold Issues; decide +kernel

theorem wit_cairn_not_owned : let t := withCairn { cairn0 with owner := some 3 }
    (∀ f ∈ [0, 2], Issues { cls := 8, op := 2, ra := true, imm := 0x1F } (enc 0 4 0 0 (BitVec.ofNat 32 f)) t ∧
      Issues { cls := 8, op := 3, rd := true, imm := 0x1F } (enc 4 0 0 0 (BitVec.ofNat 32 f)) t) ∧
    Issues { cls := 8, op := 4, ra := true, rb := true, aA := true } (enc 0 1 1 0 0) t ∧ Issues { cls := 8, op := 5, ra := true } (enc 0 1 0 0 0) t ∧
    Issues { cls := 8, op := 6 } (enc 0 0 0 0 0) t ∧ Issues wrcrShape (enc 0 1 0 0 0x20) t ∧ Issues wrcrShape (enc 0 1 0 0 0x26) t := by
  unfold Issues; decide +kernel

/-- Each Cairn register with the last value that its table allows and with one that it does not. -/
theorem wit_cairn_registers : ∀ q ∈ ([(0x20, 50331648, 50331649), (0x21, 50331648, 50397184), (0x22, 0x4000000000010000, 0x4000000000000040),
      (0x23, 4294967296, 4295032832), (0x26, 7, 8)] : List (Nat × W64 × W64)),
    cairnValOk q.1 q.2.1 = true ∧ cairnValOk q.1 q.2.2 = false ∧ Issues wrcrShape (enc 0 1 0 0 (BitVec.ofNat 32 q.1)) (regs12 q.2.1 0 (withCairn cairn0)) ∧
    Issues wrcrShape (enc 0 1 0 0 (BitVec.ofNat 32 q.1)) (regs12 q.2.2 0 (withCairn { cairn0 with depth := 64 })) := by
  unfold Issues; decide +kernel

def cpushShape : Shape := { cls := 8, op := 2, ra := true, imm := 0x1F }
/-- Blocks 0 to 3 resident, the top at a given depth. -/
def cairnR (d : Nat) : Cairn := { cairn0 with depth := d, resident := [(0, 2), (1, 0), (2, 1), (3, 3)] }
/-- Block 4 is the top; 3 resident, 2 on its way out, 0 and 1 spilled. -/
def cairnS : Cairn := { cairn0 with depth := 262144 + 256, resident := [(3, 3), (4, 0)], spilled := [0, 1], spilling := some (2, 1) }

theorem wit_pushes : (∀ q ∈ ([(0, 65280, 256), (1, 65408, 128), (2, 65408, 128)] : List (W32 × Nat × Nat)),
      Issues cpushShape (enc 0 4 0 0 q.1) (withCairn (cairnR q.2.1)) ∧ (cairnR q.2.1).region 0 = some 2 ∧ q.2.1 % 65536 + q.2.2 ≤ 65536) ∧
    Owns (enc 0 4 0 0 0) run0 [4] ∧ cairn0.regionOk = true ∧ cairnDrains (getCore (withCairn (cairnR 0)) 0) 0 = false ∧
    (cairnR 524288).spillLim.toNat < (cairnR 524288).depth + 256 ∧ (cairnR 262144).depth + 256 ≤ cairn0.spillLim.toNat ∧ (cairnR 262144).room 256 = false := by
  unfold Issues Owns; decide +kernel

/-- What the top n bytes of core 0's Cairn are. -/
def topIs (s : State) (n : Nat) (r : Except PopStop (List Byte)) : Bool :=
  match cairnTop s 0 n, r with
  | .ok a, .ok b => a = b
  | .error .wait, .error .wait => true
  | .error (.notReserved a), .error (.notReserved b) => a = b
  | _, _ => false

/-- CPOPV of an empty Cairn, of spilled blocks, of a block on its way, and of a resident one. -/
theorem wit_pops : (∀ x ∈ [cairnR 255, { cairnR 65792 with resident := [], spilled := [1] }, { cairnS with depth := 196608 }, cairnR 262144],
      Issues { cls := 8, op := 3, rd := true, imm := 0x1F } (enc 4 0 0 0 0) (withCairn x)) ∧
    topIs (withCairn { cairnR 65792 with resident := [], spilled := [1] }) 256 (.error (.notReserved 1)) = true ∧
    topIs (withCairn { cairnS with depth := 196608 }) 256 (.error .wait) = true ∧ topIs (withCairn (cairnR 262144)) 256 (.ok (zeros 256)) = true ∧
    Issues { cls := 8, op := 4, ra := true, rb := true, aA := true } (enc 0 1 2 0 0) (regs12 0 1 (modCairn (runA 2097088) 0 fun _ => cairnR 64)) ∧
    topIs (modCairn (runA 2097088) 0 fun _ => cairnR 64) 64 (.ok (zeros 64)) = true ∧ (2097088 : W64).toNat % 64 = 0 ∧
    (2097088 : W64).toNat + 64 ≤ 2097152 ∧ (262144 - 256) % 65536 + 256 ≤ 65536 ∧ (cairnR 262144).region 3 = some 3 := by
  unfold Issues; decide +kernel

theorem wit_cairn_refills : Issues { cls := 8, op := 5, ra := true } (enc 0 1 0 0 0) (withCairn cairnS) ∧ Issues { cls := 8, op := 6 } (enc 0 0 0 0 0) (withCairn cairnS) ∧
    Issues { cls := 8, op := 6 } (enc 0 0 0 0 0) (withCairn (cairnR 64)) ∧ cairnS.moving = true ∧ (cairnR 64).moving = false ∧
    cairnS.refilling = none ∧ cairnS.refillQ ++ ((cairnS.spilled.filter fun b => b ∉ cairnS.refillQ).reverse).take 7 = [1, 0] ∧ cairnS.pick = some 2 ∧
    ({ cairnS with refilling := some (0, 2) } : Cairn).refilling.isSome = true := by
  unfold Issues; decide +kernel

theorem wit_spills : let x : Cairn := { cairnR 262144 with ahead := 1 }
    coreRuns (withCairn x) 0 = true ∧ x.resident.find? (fun q => decide ((q.1 + 1) * 65536 < x.depth)) = some (0, 2) ∧ x.spilling = none ∧ x.free < x.ahead.toNat ∧
    popReaches (withCairn cairnS) 0 2 = false ∧
    popReaches (modCtx (withCairn { cairnS with depth := 196608 }) 0 0 fun y =>
      { y with wait := .op .cpopv (enc 4 0 0 0 0), st := .waiting }) 0 2 = true ∧
    spotOf (withCairn cairnS) 0 ⟨false, false, false, true⟩ (0x4000000000000000 + BitVec.ofNat 64 (65536 * 2)) 65536 = some (.far 131072) := by
  decide +kernel

/-- Parcel 0 has the pages 0 to 3, mapped for cores and hosts. -/
def withPages (s : State) : State := { s with far := { s.far with entries := (List.range 4).map fun i => (i, { v := true, cr := true, cw := true, hr := true, hw := true }) } }

/-- A block of the terrace can be read, and far memory takes and gives it. -/
theorem wit_block_moves (s : State) (h : s.far = (withPages run0).far) (hm : (getSite s 0).terrMarks = []) (hp : coreParcelNum s 0 = 0)
    (hi : injBlocked s 0 = false) (hq : farPaused s 131072 65536 = false) (off : Nat) :
    (∃ bs, terrRead s 0 off 65536 = .ok bs ∧ ∃ v, spotWrite s 0 (.far 131072) bs = .ok v) ∧ ∃ bs, spotRead s 0 (.far 131072) 65536 = .ok bs := by
  have hw : s.far.swInit = false := by rw [h]; rfl
  have hk : s.far.marks = [] := by rw [h]; rfl
  have hs : ∀ n, (getPortF s n).snoops = [] := by intro n; simp only [getPortF, h]; rfl
  have he : getEnt s 0 = { v := true, cr := true, cw := true, hr := true, hw := true } := by simp only [getEnt, h]; decide
  have hu : unitsOf (2 ^ 24) 131072 65536 = [0] := by decide
  have hl : (mrdN (getSite s 0).terr off 65536).length = 65536 := by simp [mrdN]
  refine ⟨⟨mrdN (getSite s 0).terr off 65536, by simp [terrRead, unitValid, hw, hm],
    farUse (farPut s 131072 (mrdN (getSite s 0).terr off 65536)) 131072 65536 true, ?_⟩, (List.range 65536).map fun i => mrd s.far.mem (farByte s (131072 + i)), ?_⟩
  · simp only [spotWrite, farWrite, farRefusal, hl, hu, hp, farSnoop, farPartInvalid, hs, hw, hk, unitValid]
    simp [pageRefusal, he, hi, hq]
  · simp only [spotRead, farRead, farRefusal, hu, hp, farSnoop, hs, hw, hk, unitValid]
    simp [pageRefusal, he, hi, hq]

theorem wit_block_moves_here : (withPages (withCairn cairnS)).far = (withPages run0).far ∧ (getSite (withPages (withCairn cairnS)) 0).terrMarks = [] ∧
    coreParcelNum (withPages (withCairn cairnS)) 0 = 0 ∧ tsite (withPages (withCairn cairnS)) 0 = 0 ∧
    injBlocked (withPages (withCairn cairnS)) 0 = false ∧ farPaused (withPages (withCairn cairnS)) 131072 65536 = false := by decide +kernel

/-! ### The WGA -/

def withWga (w : Wga) : State := withCore fun x => { x with wga := w, vtags := [(3, 9), (6, 9)] }
def wga0 : Wga := { datum := 9, elems := [(0, 5), (262143, 7)] }
def fdsc (mode n : Nat) : List Byte := desc 64 [(0, 4, 262144 - n), (4, 4, n), (8, 4, mode + 4), (16, 8, if mode = 0 then 0 else 0x3000)]
def fjob (mode n : Nat) : FlushJob := { ctx := 0, zero := false, desc := fdsc mode n, first := 262144 - n, count := n, sn := 3 }

/-- At the last 64 elements, and one element beyond; WADDV of a triple with the WGA's datum, and with another. -/
theorem wit_wga : (∀ i ∈ [262080, 262081], Issues { cls := 8, op := 0x12, ra := true, rb := true } (enc 0 3 1 0 0) (regs12 (BitVec.ofNat 64 i) 0 (withWga wga0)) ∧
      Issues { cls := 8, op := 0x13, rd := true, ra := true } (enc 29 1 0 0 0) (regs12 (BitVec.ofNat 64 i) 0 (withWga wga0))) ∧
    Issues { cls := 8, op := 0x12, ra := true, rb := true } (enc 0 29 1 0 0) (withWga wga0) ∧ Owns (enc 0 0 0 0 0) run0 [29, 30, 31] ∧
    (getCore (withWga wga0) 0).vtag 3 = wga0.datum ∧ (getCore (withWga wga0) 0).vtag 29 ≠ wga0.datum ∧ (getCore (withWga wga0) 0).cairn.fault = none := by
  unfold Issues Owns; decide +kernel

/-- A flit of the mesh that has arrived at core 0. -/
def came (k : FlitKind) (w : FlitFor) (d : Datum) (a : BitVec 42) (n : Nat) (bs : List Byte) : Flit :=
  { src := 1, dst := 0, vc := 2, kind := k, parcel := 0, pv := true, addr := a, datum := d, count := n, payload := bs, pos := 0, arrived := true, what := w }
def withNet (s : State) (fs : List Flit) : State := { s with mesh := { s.mesh with net := fs } }

theorem wit_wga_sum : ∀ d ∈ [9, 8], let t := withNet (withWga wga0) [came .daf96Sum .wga (BitVec.ofNat 10 d) 262139 5 ((List.range 5).flatMap fun i => leBytes 12 (i + 1))]
    coreRuns t 0 = true ∧ (getWga t 0).zeroing = none ∧ arrivedFor t 0 .daf96Sum .wga = some 0 ∧ t.mesh.net[0]?.isSome = true := by decide +kernel

theorem wit_wga_queue : (∀ w ∈ [wga0, { wga0 with flushes := [fjob 1 5, fjob 1 5, fjob 1 5] }],
      Issues { cls := 8, op := 0x10, imm := 0x3FF } (enc 0 0 0 0 0x3FF) (withWga w) ∧ Issues { cls := 8, op := 0x11, ra := true, rb := true } (enc 0 1 2 0 0) (regs12 262143 1 (withWga w)) ∧
      Issues { cls := 8, op := 0x11, ra := true, rb := true } (enc 0 1 2 0 0) (regs12 262143 2 (withWga w)) ∧ Issues { cls := 8, op := 0x15 } (enc 0 0 0 0 0) (withWga w)) ∧
    (∀ a ∈ [2097088, 2097056, 2097152], Issues { cls := 8, op := 0x14, ra := true, aA := true } (enc 0 1 0 0 0) (runA (BitVec.ofNat 64 a))) ∧
    (let t := modCore (near 2097088 (fdsc 1 64) (runA 2097088)) 0 fun x => { x with wga := wga0 }
     engRead t 0 spNear 2097088 64 = .ok (fdsc 1 64) ∧ fdOk t 0 (fdsc 1 64) = true ∧ fdOk t 0 (fdsc 3 64) = false ∧ wga0.flushes.length < 3) := by
  unfold Issues; decide +kernel

/-- A WFLUSH whose descriptor fits finds the queue full. -/
theorem wit_flush_full : let t := modCore (near 2097088 (fdsc 1 64) (runA 2097088)) 0 fun x => { x with wga := { wga0 with flushes := [fjob 1 5, fjob 1 5, fjob 1 5] } }
    Issues { cls := 8, op := 0x14, ra := true, aA := true } (enc 0 1 0 0 0) t ∧ engRead t 0 spNear 2097088 64 = .ok (fdsc 1 64) ∧ fdOk t 0 (fdsc 1 64) = true := by
  unfold Issues; decide +kernel

theorem wit_winit_ends : let t := modCtx (withWga { wga0 with zeroing := some 0 }) 0 0 fun x => { x with st := .waiting, wait := .zeroing }
    coreRuns t 0 = true ∧ (getWga t 0).zeroing = some 0 ∧ (getCtx t 0 0).wait = .zeroing ∧ (getCtx t 0 0).st = .waiting := by decide +kernel

/-- A WZERO; flushes to memory in both forms, and to another core. -/
theorem wit_flushes : ∀ m ∈ [0, 1, 2], let t := withWga { wga0 with flushes := [fjob m 64, { fjob m 64 with zero := true }] }
    coreRuns t 0 = true ∧ injBlocked t 0 = false ∧ (getWga t 0).flushes = fjob m 64 :: [{ fjob m 64 with zero := true }] ∧ (getTiles t 0).drains = [] ∧
    fdMode (fdsc m 64) = m ∧ fdTail (fdsc m 64) = none ∧ fdClear (fdsc m 64) = true ∧
    (m ≠ 0 → spotOf t 0 spLocal (fdDst (fdsc m 64)) (if m = 1 then 768 else 256) = some (.near 0x3000)) := by decide +kernel

/-! ### The update engine -/

def usc (ctl gsrc : Nat) : List Byte :=
  desc 128 [(0, 8, 0x1100), (8, 4, ctl), (16, 8, gsrc), (24, 8, 0x10000), (32, 4, 128), (36, 4, 128), (58, 2, if ctl / 32768 % 2 = 1 then 5 else 0)]
/-- T0 := master, T1 := gradient, T2 := T0 + T1, master := T2; a program whose second instruction reads a temporary not written. -/
def uprog : List W32 := [0x08000009, 0x08800008, 0x19002000, 0x10080009]
def badProg : List W32 := [0x08000009, 0x19002000, 0x08800008, 0x10080009]
def progBytes (p : List W32) : List Byte := p.flatMap fun w => leBytes 4 w.toNat
def uRun (b : List Byte) (p : List W32) (a : W64) : State := near a.toNat b (near 0x1100 (progBytes p) (withCtx fun x => { x with aregs := [(1, a)], sregs := [(1, 7), (2, 300)] }))
def ulShape : Shape := { cls := 0xA, op := 1, ra := true, rb := true, aA := true }
def ugShape : Shape := { cls := 0xA, op := 2, ra := true, rb := true, imm := 0xFFFFFF }

/-- ULAUNCH off its alignment, of an illegal descriptor, beyond the WGA, of an illegal program, and legal: at the WGA's last elements and of memory. -/
theorem wit_ulaunch : ∀ q ∈ ([(usc 0x83 0x8000, uprog, 0x1040), (usc 0x183 0x8000, uprog, 0x1000), (usc 3 245761, uprog, 0x1000), (usc 0x83 0x8000, badProg, 0x1000),
      (usc 3 245760, uprog, 0x1000), (usc 0x83 0x8000, uprog, 0x1000)] : List (List Byte × List W32 × W64)),
    Issues ulShape (enc 0 1 2 0 0) (uRun q.1 q.2.1 q.2.2) ∧ engRead (uRun q.1 q.2.1 0x1000) 0 spNear 0x1000 128 = .ok q.1 ∧
    engRead (uRun q.1 q.2.1 0x1000) 0 spNear (udProg q.1) (4 * udPlen q.1) = .ok (progBytes q.2.1) := by
  unfold Issues; decide +kernel

theorem wit_ulaunch_cases : Issues ulShape (enc 0 1 2 0 0) (runA 0x1020) ∧ udOk (usc 0x183 0x8000) 0 = false ∧ udOk (usc 3 245761) 0 = true ∧ udOk (usc 0x83 0x8000) 256 = true ∧
    udOk (usc 0x83 0x8000) 257 = false ∧ 262144 < udGsrc (usc 3 245761) + udRows (usc 3 245761) * udRowlen (usc 3 245761) ∧
    ¬262144 < udGsrc (usc 3 245760) + udRows (usc 3 245760) * udRowlen (usc 3 245760) ∧ progBad 0 0 [] [] (lanesOf (progBytes badProg)) = some (1, 0x19002000) ∧
    progBad 0 0 [] [] (lanesOf (progBytes uprog)) = none ∧ ((enc 0 0 0 0 0).x (uRun (usc 3 245760) uprog 0x1000)).heldSt = [] := by
  unfold Issues; decide +kernel

/-- Lazy launches of two touched rows of 128 elements, four groups: within the WGA, one element beyond, and from UPOS 4 and 5. -/
def lazyD (gsrc : Nat) : List Byte := patch (usc 0x23 gsrc) 40 (leBytes 8 0x1200)
theorem wit_lazy_launch : ∀ q ∈ ([(261888, 0), (261889, 0), (261888, 4), (261888, 5)] : List (Nat × W32)),
    let t := modCtx (near 0x1200 [3] (uRun (lazyD q.1) uprog 0x1000)) 0 0 fun x => { x with upos := q.2 }
    Issues ulShape (enc 0 1 2 0 0) t ∧ engRead t 0 spNear 0x1000 128 = .ok (lazyD q.1) ∧ udOk (lazyD q.1) q.2.toNat = true ∧ udLazy (lazyD q.1) = true ∧
    udGkind (lazyD q.1) = 0 ∧ (readBitmap t 0 (lazyD q.1)).toOption = some ([3] ++ zeros 15) ∧
    (touchedRows (udRows (lazyD q.1)) ([3] ++ zeros 15)).length * (udRowlen (lazyD q.1) / 64) = 4 := by
  unfold Issues; decide +kernel

/-- UGAUGE of no elements, of neither sum, up to the WGA's end, and one beyond. -/
theorem wit_ugauge : ∀ q ∈ ([(1, 0, 0x1000), (1, 5, 0), (262143, 1, 0x1000), (262143, 2, 0x2000)] : List (Nat × Nat × Nat)),
    Issues ugShape (enc 0 1 2 0 (BitVec.ofNat 32 q.2.2)) (regs12 (BitVec.ofNat 64 q.1) (BitVec.ofNat 64 q.2.1) run0) := by
  unfold Issues; decide +kernel

def lnch (g : Nat) (b : List Byte) : Launch := { ctx := 0, gauge := false, st := .engine, desc := b, prog := uprog, stepNo := 7, group := g }
def gaug (g n : Nat) (imm : W32) : Launch := { ctx := 0, gauge := true, st := .engine, desc := [], prog := [], stepNo := 0, group := g, first := 0, count := n, imm := imm }
def launched (l : Launch) : State := modCtx (withCore fun x => { x with launches := [{ l with st := .running, since := 1 }] }) 0 0 fun x => { x with st := .waiting, wait := .launch, upos := 255 }

theorem wit_launch_starts : ∀ l ∈ [lnch 0 (usc 0x83 0x8000), gaug 0 65 0x1000], let t := withCore fun x => { x with launches := [l] }
    coreRuns t 0 = true ∧ (getCore t 0).launches = [l] ∧ l.st ≠ .running ∧ launchAble (getCore t 0) l = true ∧ l.since = 0 ∧ markRuns t 0 = false := by decide +kernel

def lastGroup : UGroup := denseGroup (usc 0x83 0x8000) 255
theorem wit_group_commits :
    let t := launched (lnch 255 (usc 0x83 0x8000))
    coreRuns t 0 = true ∧ runningLaunch (getCore t 0) = some { lnch 255 (usc 0x83 0x8000) with st := .running, since := 1 } ∧
    (nextGroup t 0 (lnch 255 (usc 0x83 0x8000)) |>.toOption) = some (some lastGroup) ∧ lazyWgaOver (lnch 255 (usc 0x83 0x8000)) lastGroup = false ∧
    (groupWork t 0 (lnch 255 (usc 0x83 0x8000)) lastGroup).toBool = true := by decide +kernel

theorem wit_group_stores :
    let b := usc 0x83 0x8000
    udLazy b = false ∧ udNslot b = 0 ∧ udGkind b = 1 ∧ udGclr b = false ∧ udGmeas b = false ∧ udTheo b = false ∧ udFout b = false ∧ udTout b = false ∧
    (uprog.all fun w => uiOp w ≠ 2 || uiSlot w = 9) = true ∧ engRead run0 0 spAll lastGroup.maddr 256 = .ok (zeros 256) ∧
    engRead run0 0 spAll (BitVec.ofNat 64 (udGsrc b + 4 * lastGroup.gidx)) 256 = .ok (zeros 256) ∧
    spotOf run0 0 spAll lastGroup.maddr 256 = some (.near lastGroup.maddr.toNat) ∧
    storedIn (runProg (fun _ => 0) (fun sl => if sl = 10 ∨ sl = 11 then 0x3F800000 else 0) uprog) 9 = some 0 := by decide +kernel

/-- A launch with a tail and a gauge that are over. -/
theorem wit_launch_over : ∀ l ∈ [lnch 256 (usc 0x8083 0x8000), gaug 2 65 0x1000],
    launchOver (launched l) 0 l = true ∧ (getCtx (launched l) 0 0).wait = .launch ∧ (getCtx (launched l) 0 0).st = .waiting ∧
    udTail (usc 0x8083 0x8000) = some 5 ∧ injBlocked (launched l) 0 = false ∧ l.ends.length ≠ 1 ∧ ({ l with ends := [7] } : Launch).ends = [7] ∧
    csite (launched l) 0 ≠ 7 := by decide +kernel

/-! ### The clip norm -/

def withGate (g : NormGate) (w : Wga) : State := withCore fun x => { x with gate := g, wga := w }
def gate0 : NormGate := { cfg := 0x3F80000000000009, clipss := 77, ngacc := 99 }

theorem wit_norm_gate : (∀ v ∈ [767, 768], Issues { cls := 0xA, op := 3, ra := true, imm := 0x1FFF } (enc 0 1 0 0 0x1FFF) (regs12 (BitVec.ofNat 64 v) 0 (withGate gate0 {}))) ∧
    Issues { cls := 0xA, op := 4 } (enc 0 0 0 0 0) (withGate gate0 {}) ∧ coreParcel (withGate gate0 {}) 0 = some 0 ∧
    Issues { cls := 0xA, op := 5, rd := true } (enc 3 0 0 0 0) (withGate gate0 {}) ∧ gate0.isOpen = false ∧
    Issues { cls := 0xA, op := 5, rd := true } (enc 3 0 0 0 0) (withGate { gate0 with isOpen := true, factor := 0x3F000000 } {}) := by
  unfold Issues; decide +kernel

theorem wit_gate_sends : (∀ v ∈ [2, 3], canInject (withGate gate0 {}) 0 v = true) ∧
    (let t := { regs12 5 0 (withGate gate0 {}) with mesh := { injStopped := [(0, true)] } };
     canInject t 0 2 = false ∧ Issues { cls := 0xA, op := 3, ra := true, imm := 0x1FFF } (enc 0 1 0 0 1) t) := by
  unfold Issues; decide +kernel

/-- A sum of the gate's datum and one of another; a gate value at a closed and at an open gate. -/
theorem wit_gate_arrivals :
    (∀ d ∈ [9, 10], let t := withNet (withGate gate0 {}) [came .daf96Sum .ngacc (BitVec.ofNat 10 d) 0 1 (leBytes 12 5)]
      coreRuns t 0 = true ∧ t.mesh.net[0]?.isSome = true ∧ arrivedFor t 0 .daf96Sum .ngacc = some 0) ∧
    ∀ o ∈ [true, false], let t := withNet (withGate { gate0 with isOpen := o } {}) [came .mcastWrite .gate 9 0 1 (leBytes 12 5)]
      arrivedFor t 0 .mcastWrite .gate = some 0 := by decide +kernel

/-- The last group of a gauge of 65 elements, with and without CLIP. -/
theorem wit_gauge_group : ∀ i ∈ [0x1000, 0x2000], let l := gaug 1 65 (BitVec.ofNat 32 i); let t := modCore (launched l) 0 fun x => { x with gate := gate0, wga := wga0 }
    coreRuns t 0 = true ∧ runningLaunch (getCore t 0) = some { l with st := .running, since := 1 } ∧ l.group < (l.count + 63) / 64 := by decide +kernel

/-! ### The mesh -/

/-- A load's request from site 1, at a router on its way to a site. -/
def req (dst pos : Nat) : Flit :=
  { src := 1, dst := dst, vc := 0, kind := .readReq, parcel := 0, pv := true, addr := 16, pos := pos, what := .load 1 0 8 }

/-- A hop along the row, one along the column, one over the Bridge, and the arrival at sites of the parcel and of another. -/
theorem wit_routes : ∀ q ∈ [(5, 1), (45, 5), (410, 390), (799, 0)], let t := withNet run0 [req q.1 q.2]
    t.mesh.net[0]? = some (req q.1 q.2) ∧ (req q.1 q.2).pos ≠ endpointSite q.1 ∧ (req q.1 q.2).via = [] ∧
    routerFailed t (nextRouter q.2 q.1) = false ∧ linkDown t (siteX q.2) = false := by decide +kernel

/-- The router of site 45 has failed, and the detour of its die is loaded. -/
def failed45 (s : State) : State :=
  { s with mesh := { s.mesh with failedRouter := [(0, 46)], detour := [(0, true)] } }

/-- Past the failed site along its row, a turn at it, and past it along its column; and a flit on the way. -/
theorem wit_detours : (∀ q ∈ [(47, 44), (105, 44), (105, 25)], let t := failed45 (withNet run0 [req q.1 q.2]);
      nextRouter q.2 q.1 = 45 ∧ q.1 ≠ 45 ∧ routerFailed t 45 = true ∧ sget false t.mesh.detour (siteDie 45) = true ∧
      routerFailed t ((detourOf q.2 q.1 45).headD 45) = false) ∧
    (let f : Flit := { req 47 64 with via := [65, 66, 46] };
      (withNet (failed45 run0) [f]).mesh.net[0]? = some f ∧ f.pos ≠ endpointSite f.dst ∧ f.via = 65 :: [66, 46] ∧
      routerFailed (failed45 run0) 65 = false) := by
  decide +kernel

/-- The flits of those routes can move on: each is first of its path with room where it goes; at its destination it is taken. -/
theorem wit_flits_move : (∀ q ∈ [(5, 1), (45, 5), (410, 390)], let t := withNet run0 [req q.1 q.2]
      routerFailed t q.2 = false ∧ firstOfPath t.mesh.net 0 (req q.1 q.2) = true ∧ oldestFar t (req q.1 q.2) = true ∧
      hopRoom t (req q.1 q.2) (nextRouter q.2 q.1) [] = true) ∧
    (∀ n ∈ [0, 799], let t := withNet run0 [req n n]
      routerFailed t n = false ∧ firstOfPath t.mesh.net 0 (req n n) = true ∧ endRoom t (req n n) = true) ∧
    injRoom run0 0 1 = true ∧ portRoom run0.mesh.net 5 5 0 false = true ∧
    (let f : Flit := { req 47 64 with via := [65, 66, 46] }; let t := withNet (failed45 run0) [f]
     routerFailed t 64 = false ∧ firstOfPath t.mesh.net 0 f = true ∧ oldestFar t f = true ∧ hopRoom t f 65 [66, 46] = true) := by decide +kernel

/-- A detour written out from R261: row 2 eastward past column 5, on die N whose inward side is south. -/
theorem test_detour_row : detourOf 44 47 45 = [64, 65, 66, 46] := by decide

/-- The link of column 10 is down, and a flit is about to cross in it. -/
theorem wit_link_down : let t := { withNet run0 [req 410 390] with mesh := { (withNet run0 [req 410 390]).mesh with bridge := [(10, { down := true })] } }
    nextRouter 390 410 = 410 ∧ siteDie 410 ≠ siteDie 390 ∧ linkDown t (siteX 390) = true ∧ routerFailed t 410 = false ∧
    routerFailed t (siteAt (inward (siteX 390)) (siteRow 390)) = false := by decide +kernel

theorem wit_route_over_bridge : siteDie (nextRouter 390 410) ≠ siteDie 390 ∧ siteDie (nextRouter 5 45) = siteDie 5 := by decide

theorem wit_arrivals : routerFailed run0 0 = false ∧ bedParcel run0 (siteBed 0) = some 0 ∧ bedParcel run0 (siteBed 799) ≠ some 0 ∧ (req 0 0).pos = (req 0 0).dst ∧
    (req 799 799).pos = (req 799 799).dst ∧ (req 0 0).pv = true := by decide +kernel

def wreq : Flit := { req 0 0 with kind := .write, addr := 50331640, payload := [1, 2, 3, 4, 5, 6, 7, 8], arrived := true, what := .store 1 0 0 0x1000000003000000 }
theorem wit_terrace_access :
    let t := withNet run0 [{ req 0 0 with arrived := true }]
    let u := withNet run0 [wreq]
    t.mesh.net.findIdx? (terrReq 0) = some 0 ∧ u.mesh.net.findIdx? (terrReq 0) = some 0 ∧ sget false t.mesh.injStopped 0 = false ∧
    terrRead t 0 16 8 = .ok (zeros 8) ∧ wreq.kind = .write := by decide +kernel

theorem wit_tail : let t := withNet run0 [came .tail (.tail 1) 0 5 1 [], came .daf96Sum .wga 0 0 1 []]
    t.mesh.net[0]? = some (came .tail (.tail 1) 0 5 1 []) ∧ t.mesh.net.take 0 = [] := by decide +kernel

def withLink (l : BridgeLink) : State := { run0 with mesh := { bridge := [(39, l)] } }
theorem wit_bridge : ∀ r ∈ [0, 6, 7], ∀ b ∈ [true, false], let l : BridgeLink := { frames := [[req 45 5], []], refusals := r, refused := b }
    getLink (withLink l) 1 19 = l := by decide +kernel

theorem wit_router_fails : twinned run0 = false ∧ sget 0 run0.mesh.failedRouter 1 = 0 ∧ anyBridgeDown run0 = false ∧
    (∃ f ∈ (withNet run0 [req 45 799]).mesh.net, f.pos = 799 ∧ f.arrived = false) ∧
    (let t := { run0 with mesh := { failedRouter := [(1, 800)], injStopped := [(1, true)] } }
     sget 0 t.mesh.failedRouter (siteDie 400) ≠ 0 ∧ sget 0 t.mesh.failedRouter (siteDie 400) ≠ 401 ∧ sget false t.mesh.injStopped 1 = true) := by
  refine ⟨by decide +kernel, by decide +kernel, by decide +kernel, ⟨_, List.mem_singleton.2 rfl, rfl, rfl⟩, by decide +kernel⟩

/-! ### Far memory -/

/-- A request at far port 0. -/
def fload (a : BitVec 42) (n : Nat) : Flit :=
  { src := 0, dst := 800, vc := 0, kind := .farReq, parcel := 0, pv := true, addr := a, pos := 2, arrived := true, what := .load 0 0 n }
def fstore (a : BitVec 42) (bs : List Byte) : Flit := { fload a 8 with payload := bs, what := .store 0 0 0 0x4000000000000000 }
def farP (x : FarPort) : State := let s := withPages run0; modCtx { s with far := { s.far with ports := [(0, x)] } } 0 0 fun y => { y with st := .waiting, wait := .load 3 8 false 0x4000000000FFFFF8 }
/-- The last eight bytes of page 0, whose line is present, and of page 4, which is not mapped. -/
def aLast : BitVec 42 := 16777208
def aNone : BitVec 42 := 83886072
def portOf (f : Flit) : FarPort := { ingress := [f], cadCache := [0, 4], lines := [farLine run0 16777208] }

theorem wit_far_hit : ∀ f ∈ [fload aLast 8, fstore aLast [1, 2, 3, 4, 5, 6, 7, 8]], let t := farP (portOf f)
    (getPortF t 0).ingress = [f] ∧ 0 ∈ (getPortF t 0).cadCache ∧ (getPortF t 0).paused 0 = false ∧ pageRefusal (getEnt t 0) 0 false (!f.isWr) f.isWr = none ∧
    farReqSnoop t f = none ∧ farLine t aLast.toNat ∈ (getPortF t 0).lines ∧ (getPortF t 0).missSlots = [] ∧
    (∀ l ∈ unitsOf 64 aLast.toNat 8, unitValid t.far.swInit t.far.marks (farLine t (l * 64)) = true) ∧ farPartInvalid t aLast.toNat 8 = false ∧
    ((List.range 8).map fun i => farByte t (aLast.toNat + i)).Nodup := by decide +kernel

theorem wit_far_miss : let t := farP { portOf (fload aLast 8) with lines := [] }
    let u := farP { portOf (fload aNone 8) with cadCache := [] }
    let v := farP (portOf (fload aNone 8))
    farLine t aLast.toNat ∉ (getPortF t 0).lines ∧ (getPortF t 0).missSlots.length < 256 ∧ aNone.toNat / 16777216 ∉ (getPortF u 0).cadCache ∧
    4 ∈ (getPortF v 0).cadCache ∧ pageRefusal (getEnt v 4) 0 false true false = some 0 ∧ (getCtx v 0 0).wait = .load 3 8 false 0x4000000000FFFFF8 := by
  decide +kernel

set_option maxRecDepth 20000 in
theorem wit_far_fill : let t := farP { missSlots := [fload aLast 8] }
    (getPortF t 0).missSlots = [fload aLast 8] ∧ (getPortF t 0).paused 0 = false ∧ rsDecode (rsMode t) (readWord t (farLine t aLast.toNat) []) = some (zeros 64, false) ∧
    (∀ i, i < 64 → (zeros 64).getD i 0 = mrd t.far.mem (farLine t aLast.toNat * 64 + i)) ∧ (zeros 64).length = 64 := by decide +kernel

/-- The port takes those requests, and its answers can leave. -/
theorem wit_far_next : (∀ f ∈ [fload aLast 8, fstore aLast [1, 2, 3, 4, 5, 6, 7, 8], fload aNone 8], let t := farP (portOf f)
      nextReq t 0 = some f ∧ portAnswers t 0 = true ∧ f.kind = .farReq) ∧
    (let t := farP { portOf (fload aNone 8) with cadCache := [] }; nextReq t 0 = some (fload aNone 8)) ∧
    portAnswers (farP { missSlots := [fload aLast 8] }) 0 = true := by decide +kernel

/-! ### Repair -/

/-- The bank of row 5 of site 0 has a spare, and has none once eight are in use. -/
theorem wit_spares : spareRow run0 (0, 5) = true ∧
    spareRow { run0 with repair := { plat := (List.range 8).map fun i => (0, 5 + 64 * (i + 1), i) } } (0, 5) = false := by decide +kernel

/-- The next word of a lap is read; a lap of which every unit has been read is over. -/
theorem wit_laps : scrubAt { run0 with repair := { scrubbed := [(2, 2516582399)] } } 1 false (799 % 400 * 6291456 + 6291455) = true ∧
    (∀ b ∈ [true, false], let t := { run0 with repair := { laps := [(6, 11), (7, 21)], scrubbed := [(2, lapUnits false), (3, lapUnits true)] } }
      scrubAt t 1 b (lapUnits b) = true) := by decide +kernel

theorem wit_rows_retire : tallyDue (getSite (withCore fun x => { x with tally := [⟨6291455 / 8, 3, false⟩] }) 0).tally (6291455 / 8) (terThresh run0) = true ∧
    5 ∈ (getSite (withCore fun x => { x with retireQ := [5], tally := [⟨5, 3, false⟩] }) 0).retireQ ∧ (getSite run0 0).retireQ = [] := by decide +kernel

def farRow0 (t : Nat) : State := farP { tally := [⟨t, 5, false⟩] }
set_option maxRecDepth 20000 in
theorem wit_pages_retire : let t := farRow0 (entPpn run0 0 * 16384)
    tallyDue (getPortF t 0).tally (entPpn run0 0 * 16384) (farThresh t) = true ∧ entOfPpn t (entPpn run0 0 * 16384 / 16384) = some 0 ∧ (getPortF t 0).retiring = none ∧
    (getPortF t 0).retireQ = [] ∧ 4 ∈ reservePages t 0 0 ∧ (getPortF (farP { retiring := some ⟨0, 4⟩ }) 0).retiring = some ⟨0, 4⟩ ∧ entPpn t 0 ≠ entPpn t 4 ∧
    Memory.wf t.far.mem = true := by
  decide +kernel

theorem wit_zero_fill : let t : State := { run0 with far := { run0.far with fills := [⟨4, 0⟩] } }
    t.far.fills.find? (fun x => x.fpn = 4) = some ⟨4, 0⟩ := by decide

theorem wit_scrubs : gkOn run0 1 = true ∧ siteDie 799 = 1 ∧ (getSite run0 799).rfail = false ∧ unitValid run0.far.swInit (getSite run0 799).terrMarks 6291455 = true ∧
    lapTarget run0 1 true ≤ 0 ∧ (let t := { run0 with repair := { laps := [(6, 11), (7, 21)] } }; lapTarget t 1 true ≤ 10 ∧ 20 ≤ lapBound t 1 true ∧ ¬21 ≤ lapBound t 1 true) := by
  decide +kernel

/-! ### Records -/

/-- A record with its header and operands. -/
def rcd (op seq : Nat) (fs : List (Nat × Nat × Nat)) : Rec := desc 64 ([(0, 4, seq), (6, 1, op), (7, 1, 1)] ++ fs)
/-- Window 0 is about to execute a record, as a work or as a service window. -/
def atRec (svc : Bool) (r : Rec) (s : State) : State :=
  modWin s 0 fun x => { x with ctl := if svc then 0x80010000 else 0x80000000, buf := [(recSeq r |>.toNat, r)], next := recSeq r, seg := some (recSeq r) }

/-- One record of every opcode, with a layout, the windows it may stand in, and whether a service window is taken here. -/
theorem wit_records_run : ∀ q ∈ ([(0x01, .both, [], false, []), (0x02, .both, [⟨16, 4, ones 4⟩, ⟨20, 4, ones 4⟩], true, [(16, 4, 5), (20, 4, 1)]),
      (0x10, .work, setFields ++ [⟨24, 8, ones 8⟩, ⟨32, 4, ones 4⟩, ⟨36, 4, ones 4⟩], false, [(16, 4, 1), (20, 4, 3), (32, 4, 2097088), (36, 4, 64)]),
      (0x11, .work, setFields ++ [⟨24, 1, 3⟩, ⟨25, 1, 3⟩, ⟨28, 4, 0x1FFFFF⟩, ⟨32, 8, ones 8⟩, ⟨40, 4, ones 4⟩], false, [(16, 4, 1), (20, 4, 3), (24, 1, 3), (28, 4, 8)]),
      (0x12, .work, [⟨16, 1, 1⟩], false, [(16, 1, 1)]), (0x13, .work, [⟨16, 1, 0x3F⟩, ⟨17, 1, 1⟩, ⟨20, 32, ones 32⟩], false, [(16, 1, 63), (17, 1, 1), (48, 4, 9)]),
      (0x14, .work, setFields ++ [⟨24, 4, ones 4⟩, ⟨28, 4, ones 4⟩], false, [(16, 4, 1), (20, 4, 3), (24, 4, 0x840), (28, 4, 9)]),
      (0x20, .both, pageFields ++ [⟨24, 1, 0xF⟩], true, [(16, 4, 184318), (20, 4, 2), (24, 1, 5)]), (0x21, .both, pageFields, true, [(20, 4, 4)]),
      (0x22, .both, pageFields, true, [(20, 4, 4)]), (0x23, .work, pageFields, false, [(20, 4, 4)]), (0x24, .work, pageFields, false, [(20, 4, 4)]),
      (0x25, .service, [⟨16, 4, ones 4⟩], true, [(16, 4, 4)]), (0x26, .both, [⟨16, 4, ones 4⟩], true, [(16, 4, 4)]),
      (0x30, .service, saveFields, true, [(24, 8, 64)]), (0x31, .both, saveFields, true, [(18, 1, 3), (24, 8, 64)]),
      (0x32, .service, ctxFields, true, [(18, 1, 3)]), (0x33, .service, [], true, [])] : List (Nat × Kinds × List OpField × Bool × List (Nat × Nat × Nat))),
    RecordRuns q.1 q.2.1 q.2.2.1 0 (atRec q.2.2.2.1 (rcd q.1 5 q.2.2.2.2) run0) (rcd q.1 5 q.2.2.2.2) := by
  unfold RecordRuns; decide +kernel

theorem wit_record_unlisted : curRec (atRec false (rcd 0x03 5 []) run0) 0 = some (rcd 0x03 5 []) ∧ recListed 0x03 = false ∧
    (getWin (atRec false (rcd 0x03 5 []) run0) 0).replayQ = [] ∧ (getWin (atRec false (rcd 0x03 5 []) run0) 0).waitRec = none ∧
    (getWin run0 0).backlog = [] ∧ ringRoom (getWin run0 0) = true ∧ run0.pwr.stopping = false ∧ run0.pwr.halt = false := by decide +kernel

/-- Segments of two records whose seal fits, and whose seal names another FIRST. -/
theorem wit_segments : ∀ a ∈ [5, 4], let r := rcd 2 6 [(16, 4, a), (20, 4, 2)]; let t := modWin run0 0 fun x => { x with next := 5, buf := [(5, rcd 1 5 []), (6, r)] }
    alive t = true ∧ (getWin t 0).active = true ∧ (getWin t 0).seg = none ∧ stepStands t (getWin t 0) = false ∧ segOf (getWin t 0) 1024 5 = some r ∧
    sealOk (getWin t 0) r = decide (a = 5) := by decide +kernel

def rLoadp : Rec := rcd 0x10 5 [(16, 4, 1), (20, 4, 3), (24, 8, 16777152), (32, 4, 2097088), (36, 4, 64)]
def rStart : Rec := rcd 0x11 5 [(16, 4, 1), (20, 4, 6), (24, 1, 3), (28, 4, 8), (32, 8, 64), (40, 4, 64)]

theorem wit_core_records : let t := atRec false rLoadp (withPages run0)
    let u := atRec false rStart (withPages run0)
    loadpOk rLoadp = true ∧ (getPcl t 0).st = .active ∧ setRefusal t 0 1 3 = none ∧ farRead t 0 16777152 64 = .ok (zeros 64) ∧ startOk rStart = true ∧
    coreSet u 0 1 6 = [1, 2] ∧ setRefusal u 0 1 6 = none ∧ (∀ c ∈ [1, 2], (getCtx u c 3).st = .idle ∧ (getCtx u c 3).resetting = false ∧ (getCore u c).resetting = false) ∧
    (∀ i ∈ [0, 1], farRead u 0 (argAddr rStart i) 64 = .ok (zeros 64)) := by decide +kernel

/-- Cores of the parcel's die are reached, and those of the other die over a link of the Bridge that has not failed. -/
theorem wit_reachable : reachable (withPages run0) 0 [0, 1, 23] = true ∧ reachable run0 0 [0, 384] = true ∧
    reachable { run0 with mesh := { bridge := (List.range 20).map fun i => (i, { down := true }) } } 0 [384] = false := by decide +kernel

def grp : StartGroup := { seqNo := 5, flags := 1, htag := 0, members := [(0, 0, none), (1, 3, some (0, false))] }
def ended : State := modWin (withCtx fun x => { x with st := .trapped, startedBy := some (0, 5), ended := true, exitCode := 7 }) 0 fun x => { x with groups := [grp] }
theorem wit_start_completes : (let u := noteEnds ended 0; (getWin u 0).groups.find? (fun g => g.members.all fun m => m.2.2.isSome) =
      some { grp with members := [(0, 0, some (7, true)), (1, 3, some (0, false))] } ∧ (getWin u 0).backlog = [] ∧ ringRoom (getWin u 0) = true) ∧ alive ended = true := by
  decide +kernel

/-! ### Marks and step ends -/

def inPcl (f : Parcel → Parcel) (s : State) : State := modPcl s 0 f
def idle0 : State := withCtx fun x => { x with st := .idle }

theorem wit_mark_begins : (getPcl idle0 0).mark.phase = .none ∧ launching idle0 0 = false ∧ quiescent idle0 0 = true ∧ quiescent run0 0 = false := by decide +kernel

/-- Two tags at core 0; with no area, and with an area in page 0 whose entries fit. -/
def theo2 : SMap ThSum := [(3, { sum := 5, touched := true }), (4095, { sum := 7, touched := true })]
def atReadout (area : W64) : State :=
  inPcl (fun x => { x with mark := { phase := .readout }, thArea := area }) (modCore (withPages idle0) 0 fun x => { x with theo := theo2 })
theorem wit_readout : (getPcl (atReadout (~~~0)) 0).mark.phase = .readout ∧ (getPcl (atReadout (~~~0)) 0).stop = .none ∧ tallyHeld (atReadout 0) 0 = false ∧
    tallyCore (atReadout 0) 0 = some 0 ∧
    (let t := atReadout 0
     (writeEntries (getPcl t 0) 0 0 (((touchedTags (tallySums t 0)).map fun g => (thEntry (tallySums t 0) g).1).zipIdx) (.ok t)).toBool = true) := by decide +kernel

def rMark : Rec := rcd 0x12 5 [(16, 1, 1)]
theorem wit_mark_ends : let t := inPcl (fun x => { x with mark := { phase := .digests } }) (atRec false rMark idle0)
    (getPcl t 0).mark.phase = .digests ∧ ((pclLive t 0).any fun c => writeFlying t c) = false ∧ t.twin.st = .solo ∧ curRec t 0 = some rMark := by decide +kernel

/-- The mark that waits for its digests is the parcel's only one. -/
theorem wit_mark_waits : let t := inPcl (fun x => { x with mark := { phase := .digests } }) (modWin idle0 0 fun x => { x with waitRec := some rMark })
    RecordRuns 0x12 .work [⟨16, 1, 1⟩] 0 t rMark ∧ waitersOf t 0x12 0 = [(0, rMark)] ∧ ((pclLive t 0).any fun c => writeFlying t c) = false ∧
    t.twin.st = .solo := by unfold RecordRuns; decide +kernel

/-- A step stopped for each of its ends. -/
theorem wit_steps_end : ∀ q ∈ [StepStop.checkpoint, .placement, .replay], let t := inPcl (fun x => { x with stop := q, stepRecs := [rLoadp] }) run0
    alive t = true ∧ (getPcl t 0).st = .active ∧ fencingOf t 0 = false ∧ ((pclLive t 0).any fun c => storesFlying t c) = false ∧ (getPcl t 0).stop = q ∧
    replayable (getPcl t 0) = true ∧ swf 0 t.mesh.shadow = true ∧ workWin t 0 = some 0 := by decide +kernel

/-! ### Page records -/

/-- The last two pages of the Cadastre; pages that the parcel has; a seal; a page on the fault list and one refused. -/
def held0 : FaultReq := { requester := 0, index := 0, core := 0, addr := 0x4000000004000000, write := false }
def pageState : State :=
  let s := withPages (withCtx fun x => { x with st := .held, wait := .fault 0x4000000004000000 })
  { s with far := { s.far with faults := [{ parcel := 0, fpn := 4, held := [held0], recorded := true }], refusals := [{ parcel := 0, fpn := 4, byPort := true, count := 1 }] } }
theorem wit_page_records :
    (∀ f ∈ [184318, 184319], twinReserve run0 f = false ∧ (getEnt run0 f).zpend = false ∧ (getEnt run0 f).zneed = false ∧ (getEnt run0 f).ret = false ∧
      (getEnt run0 f).v = false ∧ (getEnt run0 f).lov = false ∧ sealedByOther run0 0 f = false) ∧ run0.far.faults = [] ∧ (getWin run0 0).pagesDone = 0 ∧
    (∀ f ∈ [0, 1, 2, 3], pageOwned (withPages run0) 0 f = true ∧ sealedBy (withPages run0) 0 f = false ∧ heldLines (withPages run0) f = []) ∧
    sealRefusal (withPages run0) 0 0 4 = none ∧ (0, 4) ∉ sealsOf run0 0 ∧ (0, 4) ∈ sealsOf { run0 with far := { run0.far with seals := [(0, [(0, 4)])] } } 0 ∧
    pageState.far.faults.find? (fun g => g.parcel = 0 && g.fpn = 4) = some { parcel := 0, fpn := 4, held := [held0], recorded := true } ∧
    (getCtx pageState 0 0).st = .held ∧ (∀ f ∈ [184318, 184319], (getPortF run0 (fpnPort f)).retiring = none) ∧
    (getPort (withPages run0) (getPcl run0 0).port).ingress = [] := by decide +kernel

theorem wit_refused_page : ∃ x ∈ pageState.far.refusals, x.parcel = 0 ∧ x.fpn = 4 ∧ x.recorded = true := ⟨_, List.mem_singleton.2 rfl, rfl, rfl, rfl⟩

/-! ### Pre-emption and resets -/

/-- Context 0 of core 0 to be pre-empted to page 0; context 3 to be restored from there. -/
def rPreempt : Rec := rcd 0x30 5 [(24, 8, 64)]
def rRestore : Rec := rcd 0x31 5 [(18, 1, 3), (24, 8, 64)]
def small : State := withCtx fun x => { x with valloc := 2, town := 0, sregs := [(1, 7), (31, 9)], pc := 64 }
theorem wit_preempts : let t := atRec true rPreempt (withPages small)
    let u := modWin (modCtx t 0 0 fun x => { x with st := .waiting, preempting := true }) 0 fun x => { x with waitRec := some rPreempt }
    farOpOk 64 = true ∧ coreRefusal t 0 0 = none ∧ (getCtx t 0 0).resetting = false ∧ (getCore t 0).resetting = false ∧ (getCtx t 0 0).st = .issuing ∧ (getCtx t 0 0).wait = .none ∧
    farRefusal t 0 64 (saveBytes 2 0) false false true = none ∧ curRec u 0 = some rPreempt ∧ preemptReady u 0 0 = true ∧ (farWrite u 0 64 (saveArea u 0 0)).toBool = true ∧
    (getCtx u 0 0).compat = false ∧ (getTiles t 0).jobs = [] := by decide +kernel

def saved : State := atRec true rRestore (farPut (withPages small) 64 (saveArea small 0 0))
set_option maxRecDepth 20000 in
theorem wit_restores : farRead saved 0 64 1024 = .ok ((saveArea small 0 0).take 1024) ∧
    farRead saved 0 64 (saveBytes (savedValloc ((saveArea small 0 0).take 1024)) (savedTown ((saveArea small 0 0).take 1024))) = .ok (saveArea small 0 0) ∧
    restoreRefusal saved 0 0 3 64 ((saveArea small 0 0).take 1024) = none ∧ bit (field (saveArea small 0 0) 392 8) 2 = false ∧ coreRefusal saved 0 0 = none ∧
    (getCtx saved 0 3).st = .idle := by decide +kernel

theorem wit_preset : let t := atRec true (rcd 0x33 5 []) run0; (getPcl t 0).st = .active ∧ (getWin t 0).active = true ∧ (getWin t 0).parcel = 0 := by decide +kernel

theorem wit_resets : (let t := atRec true (rcd 0x32 5 [(18, 1, 3)]) run0; coreRefusal t 0 0 = none ∧ (getCtx t 0 3).resetting = false) ∧
    (let t := withCtx fun x => { x with resetting := true }; storeFlying t 0 0 = false ∧ tileBusy (getCore t 0) 0 = false) ∧
    (getSite (modSite run0 799 fun x => { x with resetting := true }) 799).resetting = true ∧
    (let t := inPcl (fun x => { x with st := .inReset }) run0; (getPcl t 0).st = .inReset ∧ (getPort t 0).perst = false ∧ ((pclLive t 0).any fun c => (getCore t c).resetting) = false) := by
  decide +kernel

/-! ### Errors -/

/-- One error for each use of a value, alone and twinned. -/
def unc (u : UncUse) : UncErr := { cls := match u with | .fetch _ _ => 0x02 | _ => 0x05, use := u, locKind := 0, locNum := 0, addr := 127, detail := 0 }
theorem wit_errors : ∀ b ∈ [true, false], let t : State := { (modCore (launched (gaug 1 65 0x1000)) 0 fun x => { x with chans := [(1, { st := .busy, run := some (cpRun 0x3000 0 none) })], ctxs := sset {} x.ctxs 0 { x.ctx 0 with st := .issuing } }) with twin := { st := if b then .paired else .solo } }
    alive t = true ∧ twinned t = b ∧ ∀ u ∈ [UncUse.fetch 0 0, .copy 0 1, .arith 0, .updateArith 0, .hostRead 0, .scrub, .handlingPath], usePossible t u = true ∧ uncClass (unc u) = true := by decide +kernel

/-- A core that moves, one that cannot, and a return. -/
theorem wit_fences : (let t : State := { run0 with place := { fencing := [0, 25], reloc := [(1, 13)], used := [(1, true)] } }
      alive t = true ∧ 25 ∈ t.place.fencing ∧ coreAbsent t 0 = false ∧ coreAbsent t 25 = false ∧ spareFree t 0 = true ∧ spareFree t 1 = false ∧ sget 0 t.place.reloc 1 ≠ 0 ∧
      dictReady t = true) ∧ (let t : State := { up with place := { reloc := [(1, 13)] } }; dictReady t = true ∧ sget 0 t.place.reloc 1 ≠ 0 ∧
      bedsBusy t (BitVec.ofNat 32 (2 ^ coreBed 1)) = false) ∧
    ({ run0 with pwr := { run0.pwr with failCls := some 0x31 } } : State).pwr.failCls = some 0x31 := by decide +kernel

/-! ### Host ports -/

/-- Port 0 is up with both decoders committed; parcel 0 has pages 0 to 3. -/
def hosted : State := let s := withPages run0; { s with gate := { s.gate with ports := [(0, { linkUp := true, speed := 32, width := 8, hdm := [(0, 1), (1, 0x100000001)] })] } }
def withPort (f : Port → Port) : State := { hosted with gate := { hosted.gate with ports := smod {} hosted.gate.ports 0 f } }

theorem wit_host_access : portServes hosted 0 = true ∧ decoderOn hosted 0 0 = true ∧ decoderOn hosted 0 1 = true ∧ portClosed hosted = false ∧
    (∀ n ∈ [1, 64], hdmOk 67108863 1 = true ∧ hdmOk (67108864 - n) n = true ∧ hostRefusal hosted 0 0 (67108864 - n) n true = none ∧
      hostRefusal hosted 0 0 (67108864 - n) n false = none ∧ pagePaused hosted (67108864 - n) = false ∧ filterVictim hosted (67108864 - n) = none ∧
      ((unitsOf 64 (67108864 - n) n).all fun l => unitValid hosted.far.swInit hosted.far.marks (farLine hosted (l * 64))) = true) ∧
    hostRefusal hosted 0 0 67108864 64 true = some 1 ∧ hostRefusal hosted 0 1 0 64 true = some 5 ∧ hostRefusal hosted 0 1 0 64 false = some 5 ∧
    portClosed { hosted with pwr := { hosted.pwr with bringDone := false } } = true := by decide +kernel

/-- Nothing waits at the port; a write to a page whose retirement runs; one with poison; a function in D3hot. -/
theorem wit_host_waits : (getPort hosted 0).ingress = [] ∧ hosted.dict.sessions = [] ∧
    (let t := { hosted with far := { hosted.far with ports := [(0, { retiring := some ⟨0, 4⟩ })] } }
     pagePaused t 64 = true ∧ hostRefusal t 0 0 64 64 true = none ∧ portServes t 0 = true ∧ decoderOn t 0 0 = true) ∧
    (2 ^ 45 + 67108863) % 2 ^ 45 = 67108863 ∧ (2 ^ 45 + 67108863).testBit 45 = true ∧
    (let t := withPort fun x => { x with d3hot := true }; portServes t 0 = true ∧ (getPort t 0).d3hot = true) := by decide +kernel

/-- Record writes at EXEC + 1023 and EXEC + 1024, with another GEN, of a part of a line, and at another place. -/
theorem wit_record_writes : ∀ q ∈ ([(65472, rcd 1 1023 []), (65536, rcd 1 1024 []), (320, patch (rcd 1 5 []) 4 [1]), (320, (rcd 1 5 []).take 32), (384, rcd 1 5 []),
      (320, rcd 1 5 [])] : List (Nat × List Byte)),
    q.1 < 2 ^ 24 ∧ q.2 ≠ [] ∧ q.1 % 64 + q.2.length ≤ 64 ∧ (getWin hosted 0).active = true := by decide +kernel

theorem wit_record_write_fits : (getWin hosted 0).ahead 1023 < 1024 ∧ ¬(getWin hosted 0).ahead 1024 < 1024 ∧ 65472 = 64 * 1023 ∧ recGen (rcd 1 5 []) = (getWin hosted 0).gen ∧
    recGen (patch (rcd 1 5 []) 4 [1]) ≠ (getWin hosted 0).gen ∧ (getWin hosted 0).buf = [] := by decide +kernel

def hostW : HostWrite := { port := 0, addr := 0xFFFFFFFFFFFFFFE0, bytes := rcd 1 5 [], vector := some 3 }
theorem wit_observed : ({ hosted with gate := { hosted.gate with writes := [hostW] } } : State).gate.writes.find? (fun x => x.port = 0) = some hostW ∧ hostW.bytes.length = 64 := by
  decide +kernel

/-- A line of page 0 that host 0 holds, snooped, and one whose snoop has lapsed. -/
def snl : SnoopLine := { line := farLine hosted 0, host := 0, exclusive := true, snooped := true }
def snooping (x : SnoopLine) : State := { hosted with far := { hosted.far with ports := [(0, { snoops := [x] })] } }
theorem wit_snoops : snoopOf (snooping snl) 0 (farLine hosted 0) false = some snl ∧ (snooping snl).pwr.halt = false ∧ portServes (snooping snl) 0 = true ∧
    snoopOf (snooping { snl with lapsed := true }) 0 (farLine hosted 0) false = none ∧
    snoopOf (snooping { snl with lapsed := true }) 0 (farLine hosted 0) true = some { snl with lapsed := true } := by decide +kernel

theorem wit_ports : hosted.pwr.bringDone = true ∧ hosted.pwr.lodgeUp = true ∧ Pin.perstN 0 ∉ hosted.pwr.lockouts ∧ (getPort hosted 0).perst = false ∧
    (getPort (withPort fun x => { x with perst := true }) 0).perst = true ∧ 6 ≤ hosted.pwr.bringStep.toNat ∧ hosted.pwr.halt = false ∧
    portServes { hosted with pwr := { hosted.pwr with bringDone := false } } 0 = true := by decide +kernel

/-! ### Registers -/

theorem wit_register_writes : (∀ src ∈ [Src.lodge, .host 0, .gatehouse 1], srcOk { hosted with pwr := { hosted.pwr with locked := ~~~0 } } src = true) ∧
    filtered hosted (.host 0) 0 true = true ∧ filtered hosted .lodge 0x100 true = false ∧ blkOf 0x100 = some (.win 0) ∧ 0x400000 / 0x4000 = 0x100 ∧ 0x400000 % 4 = 0 ∧
    hasReg (.win 0) 0 = true ∧ guardedReg (.win 0) 0xF04 = true ∧ hasReg (.win 0) 0xF04 = true ∧ unlockedFor hosted 0x100 .lodge = false ∧
    unlockedFor { hosted with regs := { hosted.regs with unlocked := [(0x100, .lodge)] } } 0x100 .lodge = true ∧ guardedReg (.win 0) 0 = false ∧
    hasReg (.win 0) 0xFFC = false := by decide +kernel

theorem wit_window_rows : filtered hosted (.host 0) (winBlock 1) true = false ∧ (getWin hosted 1).en = false ∧ sget false hosted.regs.chk (winBlock 1) = false ∧
    (getWin hosted 0).en = true ∧ (getWin hosted 0).backlog = [] ∧ (0x800E0000 : W32).getLsbD 31 = true ∧ srcOk hosted (.host 0) = true ∧
    (getPcl hosted ((0x80020000 : W32).extractLsb' 17 3).toNat).port = 0 / 16 := by decide +kernel

theorem wit_block_rows : blkRuns hosted 0x101 (.win 1) = true ∧ (Blk.win 1).isCs = false ∧ blkOf 0x101 = some (.win 1) ∧ filtered hosted .lodge 0x101 true = false ∧
    (0x7FFFFFFF : W32).getLsbD 31 = false ∧ unlockedFor { hosted with regs := { hosted.regs with unlocked := [(0x101, .lodge)] } } 0x101 .lodge = true ∧
    domainRuns hosted (blockDomain 0x20) = true ∧ blkOf 0x20 = some .twn ∧ cfgCrc hosted .twn = sget 0 hosted.regs.cfgref 0x20 := by decide +kernel

theorem wit_counter_read : blkOf (0x10100 / 0x4000) = some (.gh 0) ∧ ctrAt (.gh 0) (0x10100 % 0x1000) = some (0, false) ∧ isPhCat (.gh 0) 0 = false ∧ 0x10100 % 8 = 0 ∧
    filtered hosted .lodge (0x10100 / 0x4000) false = false := by decide +kernel

theorem wit_die_rows : filtered hosted .lodge (cadBlock 1) true = false ∧ (cadLatch hosted .lodge 1).1 &&& ~~~0x3FFFF = 0 ∧ filtered hosted .lodge (gkBlock 1) true = false ∧
    unlockedFor { hosted with regs := { hosted.regs with unlocked := [(gkBlock 1, .lodge)] } } (gkBlock 1) .lodge = true := by decide +kernel

/-! ### The dictionary -/

def rdMsg (txid : Nat) : List Byte := cixaMsg 1 txid 0x1000 0 0 0 0 []
def withDict (d : Dict) : State := { hosted with dict := d }

theorem wit_requests : 16 ≤ (rdMsg 7).length ∧ (rdMsg 7).length ≤ 1040 ∧ mType (rdMsg 7) = 1 ∧ hosted.dict.queue = [] ∧
    (withDict { kept := [⟨.mgmt 3, 7, cixaMsg 6 7 0x1000 0 0 0 0 [1]⟩] }).dict.kept.find? (fun x => x.src = .mgmt 3 && x.txid = mTxid (rdMsg 7)) =
      some ⟨.mgmt 3, 7, cixaMsg 6 7 0x1000 0 0 0 0 [1]⟩ ∧ hosted.dict.kept.find? (fun x => x.src = .mgmt 3 && x.txid = mTxid (rdMsg 7)) = none := by decide +kernel

theorem wit_queue : ∀ n ∈ [31, 32], let t := withDict { queue := (List.range n).map fun i => (.mgmt 4, rdMsg (100 + i)) }
    t.dict.queue.length = n ∧ t.dict.queue.head? = some (.mgmt 4, rdMsg 100) ∧ (t.dict.queue.any fun e => e.1 = .mgmt 3 && mTxid e.2 = mTxid (rdMsg 7)) = false := by
  decide +kernel

theorem wit_host_window : srcOk hosted (.host 0) = true ∧ (getPort hosted 0).hwBusy = false ∧ (getPort (withPort fun x => { x with hwBusy := true }) 0).hwBusy = true ∧
    (getPort (withPort fun x => { x with hwBusy := true }) 0).hwAck = none ∧ (getPort (withPort fun x => { x with hwBusy := true, hwAck := some [1], hwCtl := 0x25 }) 0).hwAck = some [1] := by
  decide +kernel

theorem wit_notifies : (withDict { events := [(.twinState, [1])] }).dict.events = [(Event.twinState, [1])] ∧
    (∀ n ∈ [2, 3], (withDict { notices := [⟨7, rdMsg 7, n⟩] }).dict.notices.find? (fun x => x.txid = 7) = some ⟨7, rdMsg 7, n⟩) ∧
    mType (cixaMsg 6 7 0 0 0 0 0 []) = 6 ∧ field (cixaMsg 6 7 0 0 0 0 0 []) 0 1 = 1 ∧ mTxid (cixaMsg 6 7 0 0 0 0 0 []) = 7 ∧ 16 ≤ (cixaMsg 6 7 0 0 0 0 0 []).length ∧
    (withDict { plcaNode := 8 }).dict.plcaNode ≠ 0xFF := by decide +kernel

theorem wit_parcels : dictReady hosted = true ∧ hosted.pwr.failStopped = false ∧ hosted.pwr.bringDone = true ∧
    (let t := modPcl hosted 7 fun x => { x with beds := 0x80000000 }
     (getPcl t 7).st = .absent ∧ (getPcl t 7).beds ≠ 0 ∧ (getPcl t 7).beds &&& othersBeds t 7 = 0 ∧ bedsBusy t (getPcl t 7).beds = false) ∧
    pclThere hosted 0 = true ∧ pclThere hosted 7 = false ∧ ((0x80000001 : W32) &&& ~~~(getPcl hosted 0).beds) &&& othersBeds hosted 0 = 0 ∧
    (0x80000001 : W32) &&& othersReserved hosted 0 = 0 ∧
    (let t := modPcl hosted 0 fun x => { x with staged := [(.beds, 0x80000003)] }
     (0x80000000 : W32) &&& othersReserved t 7 ≠ 0 ∧ (0x01000000 : W32) &&& othersReserved t 7 = 0 ∧ pclThere t 7 = false ∧ dictReady t = true) ∧
    (0x8000000000000003 : W64) &&& othersBlocks hosted 0 1 = 0 ∧ bedParcel hosted 0 = some 0 ∧ bedParcel hosted 31 = none := by decide +kernel

theorem wit_objects : (withPort id).regs.snapRun = none ∧ bits (0xC0000000 : W32).toNat 25 5 = 0 ∧ (0x80400000 : W32).getLsbD 31 = true ∧ warmFree hosted = true ∧
    ({ hosted with regs := { hosted.regs with snapRun := some ⟨0x80000001, none, [4]⟩ } } : State).regs.snapRun = some ⟨0x80000001, none, [4]⟩ ∧ (0x80400000 : W32).toNat % 2 ^ 25 % 0x4000 ≠ 0xF0C := by
  decide +kernel

theorem wit_object_write : ∃ r, findObj 0x9010 0 = .ok r ∧ r.acc ≠ .ro ∧ r.acc ≠ .const ∧ scopeOk hosted (.mgmt 3) r 0x9010 0 = true ∧ sizeOk r.typ [4] = true ∧
    reqOpen hosted (.mgmt 3) = true := ⟨_, rfl, by decide +kernel⟩

theorem wit_staged : ∃ r, findObj 0x2002 0 = .ok r ∧ r.acc = .rws ∧ objParcel hosted r 0x2002 0 = some 0 := ⟨_, rfl, by decide +kernel⟩

/-! ### Firmware -/

theorem leNat_leBytes : ∀ n v : Nat, leNat (leBytes n v) = v % 256 ^ n
  | 0, v => by simp [leBytes, leNat, Nat.mod_one]
  | n + 1, v => by
    have e : 256 ^ (n + 1) = 256 * 256 ^ n := Nat.pow_succ'
    rw [leBytes, leNat, leNat_leBytes n, BitVec.toNat_ofNat, e]
    exact (Nat.mod_mul (x := v) (a := 256) (b := 256 ^ n)).symm

theorem length_leBytes : ∀ n v : Nat, (leBytes n v).length = n
  | 0, _ => rfl
  | n + 1, v => by rw [leBytes, List.length_cons, length_leBytes n]

theorem digest_bytes (d : BitVec 256) : BitVec.ofNat 256 (beNat (beBytes 32 d.toNat)) = d := by
  rw [beNat, beBytes, List.reverse_reverse, leNat_leBytes, Nat.mod_eq_of_lt (by have := d.isLt; norm_num at this ⊢; exact this), BitVec.ofNat_toNat,
    BitVec.setWidth_eq]

/-- A bundle of empty bodies with a digest for the Gatehouse body, for the key zero. -/
def bunHead : List Byte := [0x44, 0x4E, 0x42, 0x56, 5, 0, 0, 0, 1, 0, 0, 0xB0] ++ zeros 12
def bundleD (d : BitVec 256) : List Byte :=
  bunHead ++ beBytes 32 (Config.sm3 []).toNat ++ beBytes 32 d.toNat ++ beBytes 32 (Config.sm3 []).toNat ++ zeros 136
def fused (f : Firm → Firm) : State := { hosted with firm := f { keyHash := [Config.sm3 (zeros 64)] } }

theorem slice_mid (a b c : List Byte) (m n : Nat) (ha : a.length = m) (hb : b.length = n) : slice (a ++ b ++ c) m n = b := by
  subst ha hb; simp [slice]

theorem bundle_parts (d : BitVec 256) : lodgeDig (bundleD d) = Config.sm3 [] ∧ ghDigOf (bundleD d) = d ∧ tblDigOf (bundleD d) = Config.sm3 [] ∧
    lodgeBody (bundleD d) = [] ∧ ghBody (bundleD d) = [] ∧ tblBody (bundleD d) = [] := by
  have hl : ∀ v, (beBytes 32 v).length = 32 := fun v => by rw [beBytes, List.length_reverse, length_leBytes]
  refine ⟨?_, ?_, ?_, ?_, ?_, ?_⟩
  · rw [lodgeDig, bundleD, List.append_assoc, List.append_assoc, slice_mid bunHead _ _ 24 32 rfl (hl _), digest_bytes]
  · rw [ghDigOf, bundleD, List.append_assoc, slice_mid _ _ _ _ _ (by simp [hl]; rfl) (hl _), digest_bytes]
  · rw [tblDigOf, bundleD, slice_mid _ _ _ _ _ (by simp [hl]; rfl) (hl _), digest_bytes]
  all_goals rfl

/-- A bundle verifies under a signature that the curve accepts: a slot boots from it and an upload is valid. -/
theorem wit_bundle (h : Config.sm2Verify (zeros 64) ((bundleD (Config.sm3 [])).take 184) (zeros 64) = true) :
    bundleOk (fused id) (bundleD (Config.sm3 [])) = true ∧ dictReady (fused id) = true := by
  obtain ⟨h1, h2, h3, h4, h5, h6⟩ := bundle_parts (Config.sm3 [])
  have hk : bunKey (bundleD (Config.sm3 [])) = 0 := rfl
  have hp : slice (bundleD (Config.sm3 [])) 120 64 = zeros 64 := rfl
  have hg : slice (bundleD (Config.sm3 [])) 184 64 = zeros 64 := rfl
  have hm : field (bundleD (Config.sm3 [])) 0 4 = 0x56424E44 := rfl
  have hs : field (bundleD (Config.sm3 [])) 11 1 = 0xB0 := rfl
  have hz : allZero (slice (bundleD (Config.sm3 [])) 248 8) = true := rfl
  have hn : (bundleD (Config.sm3 [])).length = 256 := by
    have hb : bunHead.length = 24 := rfl
    have hz : (zeros 136).length = 136 := List.length_replicate
    simp only [bundleD, List.length_append, beBytes, List.length_reverse, length_leBytes, hb, hz]
  refine ⟨?_, rfl⟩
  simp [bundleOk, bootOk, headerOk, h1, h2, h3, h4, h5, h6, hk, hp, hg, h, hm, hs, hz, hn, fused]

theorem wit_no_bundle : bootOk hosted [] = false ∧ bundleOk hosted [] = false ∧
    atStep2 { hosted with pwr := { lodgeUp := true, seqRun := .powerOn, bringStep := 2 } } = true := by decide +kernel

theorem wit_slots : let t := fused fun x => { x with slotB := bunHead, statB := 1, active := 1 }
    dictReady t = true ∧ t.pwr.failStopped = false ∧ slotStat t 1 = 1 ∧ (1 : Byte).toNat = bunSvn (running t) ∧ t.firm.svn.toNat < 1 ∧ (zeros 32).length = 32 := by decide +kernel

/-- A session of another object, or of this one by another requester; requests of a host window with and without an answer. -/
theorem wit_sessions : NoWriteOpen { hosted with dict := { hosted.dict with sessions := [{ src := .mgmt 3, idx := 0x8000, sub := 0, data := [] }] } } [0x8020] ∧
    (let t := { hosted with dict := { hosted.dict with sessions := [{ src := .mgmt 3, idx := 0x8020, sub := 0, data := [] }] } }
     sessionBusy t (.mgmt 1) 0x8020 0 = true ∧ sessionBusy t (.mgmt 3) 0x8020 0 = false) ∧
    mType (hwMsg (fit 1040 [1, 4])) = 4 ∧ mType (hwMsg (fit 1040 [1, 5])) = 5 := by unfold NoWriteOpen; decide +kernel

/-! ### The twin -/

/-- A module in a state of the twin, with all lanes up; a frame of its peer. -/
def twin (f : Twin → Twin) : State := { hosted with twin := f { lanes := 0xFF, trained := 0xFF, epoch := 4 } }
def peer (type : Byte) (u : Bool) (pl : List Byte) : List Byte := twinFrame (twin id) type u 1 pl
def inB (type : Nat) (f : List Byte) (s : State) : Bool := twinUp s && field f 0 1 = type && frameOk s f &&
  !(bit (field f 1 1) 1 && triedOut (dropAcked s (BitVec.ofNat 32 (field f 12 4)))) && (acceptFrame (heedNak f s) f).toBool

theorem frame_in (type : Nat) (f : List Byte) (s : State) (h : inB type f s = true) : ∃ u, FrameIn type f s u := by
  unfold inB at h
  cases e : acceptFrame (heedNak f s) f with
  | error t => simp [e] at h; cases h.2
  | ok u =>
    simp only [Bool.and_eq_true, decide_eq_true_eq] at h
    exact ⟨u, h.1.1.1.1, h.1.1.1.2, h.1.1.2, fun n => by simpa [n] using h.1.2, e⟩

/-- A DIGEST of parcel 0's mark. -/
def digestF (no : Nat) (sd : Nat) : List Byte := peer 2 false ([0, 0, 0, 0] ++ leBytes 8 no ++ leBytes 16 1 ++ leBytes 16 sd)
def exchanging : State :=
  let s := inPcl (fun x => { x with mark := { phase := .exchange, csd := (1, 0, 0, 0), sd := (2, 0, 0, 0) } }) (twin fun x => { x with st := .paired })
  modWin s 0 fun x => { x with waitRec := some rMark }
/-- A CONTROL frame with an identity that fits, or not. -/
def ctlF (op : Byte) (stp : Nat) : List Byte := peer 5 false ([op, 0, 0, 0] ++ leBytes 4 0 ++ leBytes 4 (0x768 * 256 + stp) ++ zeros 64)
def inSt (st : TwinSt) (f : Twin → Twin) : State := twin fun x => f { x with st := st }

set_option maxRecDepth 100000 in
theorem wit_frames : (∀ q ∈ ([(1, peer 1 true [3, 1], twin id), (2, digestF 1 2, exchanging), (2, digestF 1 3, exchanging), (2, digestF 1 2, inSt .paired id),
      (3, peer 3 false [0x31], inSt .paired id), (4, peer 4 false [1], inSt .rejoinTarget fun x => { x with copying := true }),
      (6, peer 6 false [7], inSt .rejoinTarget fun x => { x with copying := true, stateHdr := patch (zeros 16) 12 (leBytes 4 237) }),
      (6, peer 6 false [7], inSt .rejoinTarget fun x => { x with copying := true, stateHdr := patch (patch (zeros 16) 12 (leBytes 4 236)) 0 [1] }),
      (5, ctlF 1 0xB0, inSt .pairing fun x => { x with peerHb := some (0, 1) }), (5, ctlF 2 0xB0, inSt .pairing fun x => { x with pairAckSent := true }),
      (5, ctlF 3 0xB0, inSt .paired id), (5, ctlF 4 0xB0, inSt .pairing fun x => { x with peerHb := some (3, 1) }),
      (5, ctlF 5 0xB0, inSt .survivor fun x => { x with rejoinReq := true }),
      (5, ctlF 6 0xB0, inSt .rejoinTarget fun x => { x with copying := true, endSeen := true })] : List (Nat × List Byte × State)),
    inB q.1 q.2.1 q.2.2 = true) ∧ frameOk (twin id) [1] = false ∧ field [(1 : Byte)] 0 1 = 1 ∧
    (let f := twinFrame (twin id) 1 false 2 []; frameOk (twin id) f = true ∧ frameSeqd f = true ∧ frameSeq f ≠ (twin id).twin.rxSeq + 1) := by decide +kernel

theorem wit_frame_clauses : (getPcl exchanging 0).mark.phase = .exchange ∧ (getPcl exchanging 0).peerDigests = [] ∧ markNo (getPcl exchanging 0) = 1 ∧
    (markRec exchanging 0).isSome = true ∧ BitVec.ofNat 64 (field (digestF 1 2) 20 8) = 1 ∧ (slice (digestF 1 2) 28 32).take 16 = Dig.bytes (1, 0, 0, 0) ∧
    (slice (digestF 1 2) 28 32).drop 16 = Dig.bytes (2, 0, 0, 0) ∧ (slice (digestF 1 3) 28 32).drop 16 ≠ Dig.bytes (2, 0, 0, 0) ∧
    (getPcl (inSt .paired id) 0).mark.phase ≠ .exchange ∧ misfit (twin id) (slice (ctlF 1 0xB0) 20 72) 1 = false ∧ unpairable (twin id) = false ∧
    ctlOp (ctlF 4 0xB0) = 4 := by decide +kernel

theorem wit_twin_events : twinUp (inSt .paired id) = true ∧ copyReady (inSt .rejoinSource id) = false ∧
    copyReady (modPcl (modCtx (inSt .rejoinSource id) 0 0 fun x => { x with st := .idle }) 0 fun x => { x with rejoinHold := true }) = true ∧
    (inSt .failStopped fun x => { x with failMsg := some (0x31, 5, 0) }).twin.failMsg.isSome = true ∧
    (∀ n ∈ [7, 8], let t := inSt .paired fun x => { x with replay := [digestF 1 2], tries := [(1, n)] }
      t.twin.replay ≠ [] ∧ triedOut t = decide (n = 8)) ∧ (inSt .paired id).twin.lanes.getLsbD 7 = true ∧
    (∀ b ∈ [true, false], let t := { inSt .solo fun x => { x with modeNow := b } with pwr := { hosted.pwr with seqRun := .powerOn, bringStep := 8, bringDone := false } }
      atStep t 8 = true ∧ unpairable t = false ∧ unpairable { t with place := { absent := [(5, true)] } } = true) ∧
    awaitsRejoin (inSt .pairing id) = false ∧ dictReady (inSt .lost id) = true ∧ (inSt .rejoinSource id).twin.copying = false := by decide +kernel

/-! ### Power, pins and bring-up -/

def pw (f : Power → Power) : State := { hosted with pwr := f hosted.pwr }
theorem wit_power : (pw fun x => { x with lodgeUp := false }).pwr.lodgeUp = false ∧ hosted.pwr.rails = true ∧ hosted.pwr.stopping = false ∧ hosted.pwr.halt = false ∧
    hosted.pwr.ovWarn = false ∧ hosted.pwr.ovTrip = false ∧ (pw fun x => { x with stopping := true }).pwr.stopping = true ∧ hosted.pwr.poison = false := by decide +kernel

theorem wit_pins : (hosted.pwr.resetPin = false ∧ hosted.pwr.lockouts = [] ∧ warmFree hosted = true) ∧ warmFree (pw fun x => { x with seqRun := .warm }) = false ∧
    (pw fun x => { x with resetPin := true }).pwr.resetHeld = false ∧ hosted.pwr.fencePin = false ∧ (pw fun x => { x with fencePin := true }).pwr.fencePin = true ∧
    hosted.pwr.warnPin = false ∧ pinOk (.perstN 3) = true ∧ Pin.fenceN ∈ (pw fun x => { x with lockouts := [.fenceN] }).pwr.lockouts := by decide +kernel

theorem wit_temperature : hosted.pwr.thWarn = false ∧ tjWarn hosted = 105000 ∧ tjWarn (pw fun x => { x with tj := 105000 }) ≤ 105000 ∧
    115000 ≤ (pw fun x => { x with tj := 115000 }).pwr.tj ∧ domainRuns hosted 59 = true := by decide +kernel

def stepping (n : Nat) (f : Power → Power) : State := pw fun x => f { x with seqRun := .powerOn, bringStep := BitVec.ofNat 8 n, bringDone := false }
theorem wit_bringup : (∀ n ∈ [3, 4, 5, 6, 7, 9], atStep (stepping n id) n = true) ∧ (stepping 4 id).pwr.inputOk = true ∧ (stepping 4 id).pwr.warnPin = false ∧
    (stepping 4 fun x => { x with warnPin := true }).pwr.warnPin = true ∧ (stepping 9 fun x => { x with fencePin := true }).pwr.fencePin = true ∧
    (stepping 9 id).pwr.resetPin = false ∧ (stepping 7 id).repair.retired = [] := by decide +kernel

/-- The running bundle's bodies have the digests of its header, and do not. -/
theorem wit_images : ∀ d, let t := { stepping 5 id with firm := { slotA := bundleD d } }
    (Config.sm3 (ghBody (running t)) == ghDigOf (running t) && Config.sm3 (tblBody (running t)) == tblDigOf (running t)) = (Config.sm3 [] == d) := by
  intro d
  obtain ⟨-, h2, h3, -, h5, h6⟩ := bundle_parts d
  simp [running, slotOf, h2, h3, h5, h6]

/-! ### The queue and the placement -/

/-- Core 1 has moved to the idle site of its bed. -/
def moved : State := { run0 with place := { reloc := [(1, 43)], used := [(0, true)] } }

theorem wit_placed : Placed moved ∧ step moved = .next moved ∧ relocated moved 1 := by
  have hr : ∀ c, relocated moved c → c = 1 := by
    intro c h
    by_contra hc
    exact h (by simpa [moved, sget] using hc)
  refine ⟨⟨fun bed => ?_, fun c h => ?_, fun c d h k _ => ?_⟩, rfl, by unfold relocated; decide⟩
  · exact (by decide : (12 : Nat) < 25)
  · obtain rfl := hr c h; decide
  · rw [hr c h, hr d k]

theorem wit_queue_front : ({ run0 with pending := [.nop 0, .cpyq (enc 3 0 0 0 1)] } : State).pending = [.nop 0, .cpyq (enc 3 0 0 0 1)] ∧ run0.pending = [] := ⟨rfl, rfl⟩

theorem wit_stopped : alive State.reset = false ∧ (Instr.add (enc 0 0 0 0 0)).enc? = some (enc 0 0 0 0 0) ∧ factoryIdle State.reset 31 < 25 := by decide +kernel

end Sys2Proof.Tests
end

section
/-!
PROOFS. The family of the spec's scope: the numbering of sites, beds and cores (R8) with the factory binding (R25), and
staged values before the mark (R14).
-/

namespace Sys2Proof.Machine

/-! ### Numbering and the factory binding (R8, R25) -/

/-- The bed-local position of a factory slot: the raster order with the idle site skipped (R25). -/
def factoryPos (idle slot : Nat) : Nat := if slot < idle then slot else slot + 1

theorem factoryPos_ne_idle (idle slot : Nat) : factoryPos idle slot ≠ idle := by
  unfold factoryPos; split <;> omega

theorem factoryPos_lt {slot : Nat} (idle : Nat) (h : slot < 24) : factoryPos idle slot < 25 := by
  unfold factoryPos; split <;> omega

theorem factoryPos_strictMono (idle : Nat) : StrictMono (factoryPos idle) := by
  intro i j h
  unfold factoryPos; split <;> split <;> omega

theorem coreBed_of_slot {die bed slot : Nat} (hs : slot < 24) :
    coreBed (die * 384 + bed * 24 + slot) = die * 16 + bed := by
  unfold coreBed; omega

theorem bedSite_of_position {die bed row col : Nat} (hb : bed < 16) (hc : col < 5) :
    bedSite (die * 16 + bed) (5 * row + col) = die * 400 + (bed / 4 * 5 + row) * 20 + (bed % 4 * 5 + col) := by
  unfold bedSite; omega

/-- TSITE through the slot's position in its bed (R25). -/
theorem tsite_eq_bedSite_factoryPos (s : State) (c : Nat) :
    tsite s c = bedSite (coreBed c) (factoryPos (factoryIdle s (coreBed c)) (c % 24)) := rfl

theorem tsite_of_slot (s : State) {die bed slot : Nat} (hs : slot < 24) :
    tsite s (die * 384 + bed * 24 + slot) =
      bedSite (die * 16 + bed) (factoryPos (factoryIdle s (die * 16 + bed)) slot) := by
  have hslot : (die * 384 + bed * 24 + slot) % 24 = slot := by omega
  rw [tsite_eq_bedSite_factoryPos, coreBed_of_slot hs, hslot]

theorem site_of_coordinates {die x y : Nat} (hx : x < 20) (hy : y < 20) :
    let n := die * 400 + y * 20 + x
    siteDie n = die ∧ siteX n = x ∧ siteY n = y ∧ siteBed n = die * 16 + (y / 5 * 4 + x / 5) := by
  intro n
  have hdie : siteDie n = die := by unfold siteDie; omega
  have hcol : siteX n = x := by unfold siteX; omega
  have hrow : siteY n = y := by unfold siteY; omega
  refine ⟨hdie, hcol, hrow, ?_⟩
  rw [siteBed, hdie, hcol, hrow, Nat.add_assoc]

/-- Settles O6: numbers by division with remainder, and the factory binding by `factoryPos`, which never meets the idle
site and rises with the slot. -/
theorem sitesAndCoresAreNumbered : Obligations.SitesAndCoresAreNumbered := by
  refine ⟨fun _ _ _ _ hx hy => site_of_coordinates hx hy, fun _ _ _ _ _ hs => coreBed_of_slot hs,
    fun _ _ _ _ _ hb _ hc => bedSite_of_position hb hc, fun s die bed _ _ _ => ?_⟩
  refine ⟨factoryPos (factoryIdle s (die * 16 + bed)), fun slot hs => ⟨?_, ?_, ?_⟩, fun i j hij _ => ?_⟩
  · exact factoryPos_lt _ hs
  · exact factoryPos_ne_idle _ slot
  · exact tsite_of_slot s hs
  · exact factoryPos_strictMono _ hij

/-! ### A parcel's staged list is no part of what is in force (R14) -/

/-- The state with another staged list of parcel p. -/
def withStaged (s : State) (p : Nat) (l : List (StageKey × Nat)) : State := modPcl s p fun x => { x with staged := l }

/-- The staged list with a value for key k, which replaces an earlier one (R14). -/
def restaged (l : List (StageKey × Nat)) (k : StageKey) (v : Nat) : List (StageKey × Nat) :=
  l.filter (fun e => e.1 ≠ k) ++ [(k, v)]

theorem stage_eq_withStaged (s : State) (p : Nat) (k : StageKey) (v : Nat) :
    stage s p k v = withStaged s p (restaged (getPcl s p).staged k v) := rfl

theorem staged_withStaged (s : State) (p : Nat) (l : List (StageKey × Nat)) : (getPcl (withStaged s p l) p).staged = l := by
  rw [withStaged, getPcl_modPcl, if_pos rfl]

theorem restaged_filter_key (l : List (StageKey × Nat)) (k : StageKey) (v : Nat) :
    (restaged l k v).filter (fun e => e.1 = k) = [(k, v)] := by
  simp [restaged, List.filter_append, List.filter_filter]

/-- Whatever of a parcel does not look at its staged list stays, for every parcel. -/
theorem parcelView_withStaged {α : Type} (π : Parcel → α) (hπ : ∀ x l, π { x with staged := l } = π x)
    (s : State) (p : Nat) (l : List (StageKey × Nat)) (q : Nat) : π (getPcl (withStaged s p l) q) = π (getPcl s q) := by
  rw [withStaged, getPcl_modPcl]
  split
  next h => rw [hπ, h]
  next => rfl

section
variable (s : State) (p : Nat) (l : List (StageKey × Nat)) (q : Nat)

@[simp] theorem st_withStaged : (getPcl (withStaged s p l) q).st = (getPcl s q).st :=
  parcelView_withStaged (·.st) (fun _ _ => rfl) s p l q
@[simp] theorem port_withStaged : (getPcl (withStaged s p l) q).port = (getPcl s q).port :=
  parcelView_withStaged (·.port) (fun _ _ => rfl) s p l q
@[simp] theorem beds_withStaged : (getPcl (withStaged s p l) q).beds = (getPcl s q).beds :=
  parcelView_withStaged (·.beds) (fun _ _ => rfl) s p l q
@[simp] theorem alloc0_withStaged : (getPcl (withStaged s p l) q).alloc0 = (getPcl s q).alloc0 :=
  parcelView_withStaged (·.alloc0) (fun _ _ => rfl) s p l q
@[simp] theorem alloc1_withStaged : (getPcl (withStaged s p l) q).alloc1 = (getPcl s q).alloc1 :=
  parcelView_withStaged (·.alloc1) (fun _ _ => rfl) s p l q
@[simp] theorem compat_withStaged : (getPcl (withStaged s p l) q).compat = (getPcl s q).compat :=
  parcelView_withStaged (·.compat) (fun _ _ => rfl) s p l q
@[simp] theorem replayLimit_withStaged : (getPcl (withStaged s p l) q).replayLimit = (getPcl s q).replayLimit :=
  parcelView_withStaged (·.replayLimit) (fun _ _ => rfl) s p l q
@[simp] theorem tally_withStaged : (getPcl (withStaged s p l) q).tally = (getPcl s q).tally :=
  parcelView_withStaged (·.tally) (fun _ _ => rfl) s p l q
@[simp] theorem thArea_withStaged : (getPcl (withStaged s p l) q).thArea = (getPcl s q).thArea :=
  parcelView_withStaged (·.thArea) (fun _ _ => rfl) s p l q

@[simp] theorem bedClk_withStaged (bed : Nat) : bedClk (withStaged s p l) bed = bedClk s bed := rfl

@[simp] theorem pclThere_withStaged : pclThere (withStaged s p l) q = pclThere s q := by
  simp only [pclThere, st_withStaged]

@[simp] theorem bedParcel_withStaged (bed : Nat) : bedParcel (withStaged s p l) bed = bedParcel s bed := by
  simp only [bedParcel, pclThere_withStaged, beds_withStaged]

@[simp] theorem objParcel_withStaged (r : ObjRow) (idx sub : Nat) :
    objParcel (withStaged s p l) r idx sub = objParcel s r idx sub := by
  simp only [objParcel, bedParcel_withStaged]

@[simp] theorem scopeOk_withStaged (src : Requester) (r : ObjRow) (idx sub : Nat) :
    scopeOk (withStaged s p l) src r idx sub = scopeOk s src r idx sub := by
  simp only [scopeOk, objParcel_withStaged, pclThere_withStaged, port_withStaged]

end

/-! ### The RWS objects (Tables 9-9, 10-11, 12-10) -/

/-- An object that the dictionary finds is a row of its tables. -/
theorem findObj_mem {idx sub : Nat} {r : ObjRow} (h : findObj idx sub = .ok r) :
    r ∈ rowsIdentity ++ rowsParcel ++ rowsRepair ++ rowsRest := by
  unfold findObj at h
  split at h
  next => cases h
  next r' hf =>
    split at h
    next => cases h; exact List.mem_of_find?_eq_some hf
    next => cases h

/-- The RWS objects, each by its row index and what names its parcel. -/
inductive RwsRow : Nat → ObjPcl → Prop
  | beds : RwsRow 0x2002 .block
  | compat : RwsRow 0x2006 .block
  | beacons : RwsRow 0x2040 .block
  | replayLimit : RwsRow 0x2050 .block
  | clkBed : RwsRow 0x4000 .bed
  | tally : RwsRow 0xA000 .sub
  | area : RwsRow 0xA001 .sub

theorem rows_rws : ∀ r ∈ rowsIdentity ++ rowsParcel ++ rowsRepair ++ rowsRest, r.acc = .rws →
    (r.idx, r.own) ∈ [(0x2002, ObjPcl.block), (0x2006, .block), (0x2040, .block), (0x2050, .block), (0x4000, .bed),
      (0xA000, .sub), (0xA001, .sub)] := by
  decide +kernel

theorem findObj_rws {idx sub : Nat} {r : ObjRow} (h : findObj idx sub = .ok r) (ha : r.acc = .rws) :
    RwsRow r.idx r.own := by
  have hmem := rows_rws r (findObj_mem h) ha
  simp only [List.mem_cons, Prod.mk.injEq, List.not_mem_nil, or_false] at hmem
  rcases hmem with ⟨hi, ho⟩ | ⟨hi, ho⟩ | ⟨hi, ho⟩ | ⟨hi, ho⟩ | ⟨hi, ho⟩ | ⟨hi, ho⟩ | ⟨hi, ho⟩ <;> rw [hi, ho] <;> constructor

/-- No RWS object is one of bytes. -/
theorem bytesVal_rws {k : Nat} {o : ObjPcl} (h : RwsRow k o) (s : State) (src : Requester) (p sub : Nat) :
    bytesVal s src k p sub = none := by
  cases h <;> rfl

/-- The value of an RWS object is the one in force: no staged list shows in it. -/
theorem numVal_rws_withStaged {k : Nat} {o : ObjPcl} (h : RwsRow k o) (s : State) (p : Nat)
    (l : List (StageKey × Nat)) (q sub : Nat) : numVal (withStaged s p l) k q sub = numVal s k q sub := by
  cases h <;> simp [numVal]

theorem objRead_rws {r : ObjRow} (h : RwsRow r.idx r.own) (s : State) (src : Requester) (idx sub : Nat) :
    (objRead s src r idx sub).1 = match r.typ with
      | .fixed n => leBytes n (numVal s r.idx (objKey idx).2 sub)
      | _ => [] := by
  have hx : r.idx ≠ 0x7010 := by
    intro e; rw [e] at h; cases h
  rw [objRead, if_neg hx, bytesVal_rws h]
  cases r.typ <;> rfl

theorem objRead_rws_withStaged {r : ObjRow} (h : RwsRow r.idx r.own) (s : State) (p : Nat)
    (l : List (StageKey × Nat)) (src : Requester) (idx sub : Nat) :
    (objRead (withStaged s p l) src r idx sub).1 = (objRead s src r idx sub).1 := by
  rw [objRead_rws h, objRead_rws h, numVal_rws_withStaged h]

/-- A read of the value in force: its status and value come from the scope, the access code and `objRead`. -/
theorem readObj_inForce (s : State) (src : Requester) (r : ObjRow) (idx sub : Nat) :
    ((readObj s src r idx sub false).1, (readObj s src r idx sub false).2.1) =
      if !scopeOk s src r idx sub then (ackScope, [])
      else if r.acc = .wo then (ackWriteOnly, [])
      else (ackOk, (objRead s src r idx sub).1) := by
  unfold readObj
  split
  · rfl
  · split <;> rfl

/-- Whatever is staged for a parcel, an RWS object reads as before, with the same status. -/
theorem readObj_rws_withStaged {r : ObjRow} (h : RwsRow r.idx r.own) (s : State) (p : Nat)
    (l : List (StageKey × Nat)) (src : Requester) (idx sub : Nat) :
    (readObj (withStaged s p l) src r idx sub false).1 = (readObj s src r idx sub false).1 ∧
    (readObj (withStaged s p l) src r idx sub false).2.1 = (readObj s src r idx sub false).2.1 := by
  rw [← Prod.mk.injEq, readObj_inForce, readObj_inForce, scopeOk_withStaged, objRead_rws_withStaged h]

/-! ### Writes of RWS objects stage (R14, R357) -/

/-- The answer either refuses, and leaves the state as it is, or stages v under key k. -/
def StagesOrDenies (s : State) (p : Nat) (k : StageKey) (v : Nat) (a : Ack) : Prop :=
  (a.1 ≠ ackOk ∧ a.2 = s) ∨ a = grant (stage s p k v)

theorem stagesOrDenies_deny {s : State} {p : Nat} {k : StageKey} {v status : Nat} (h : status ≠ ackOk) :
    StagesOrDenies s p k v (deny s status) := .inl ⟨h, rfl⟩

theorem stagesOrDenies_grant {s : State} {p : Nat} {k : StageKey} {v : Nat} :
    StagesOrDenies s p k v (grant (stage s p k v)) := .inr rfl

theorem StagesOrDenies.ite {s : State} {p : Nat} {k : StageKey} {v : Nat} {a b : Ack} {c : Prop} [Decidable c]
    (ha : StagesOrDenies s p k v a) (hb : StagesOrDenies s p k v b) : StagesOrDenies s p k v (if c then a else b) := by
  split <;> assumption

section
variable {s : State} {p : Nat} (hp : pclThere s p = true) (v : Nat)
include hp

theorem stageOr_of_there (k : StageKey) : StagesOrDenies s p k v (stageOr s p k v) := by
  rw [stageOr, if_pos hp]; exact stagesOrDenies_grant

theorem putPclBeds_of_there : StagesOrDenies s p .beds v (putPclBeds s p v) :=
  .ite (stagesOrDenies_deny (by decide)) (.ite (stagesOrDenies_deny (by decide)) (stageOr_of_there hp v _))

theorem putBcnAlloc_of_there (die : Nat) : StagesOrDenies s p (.beacons die) v (putBcnAlloc s p die v) :=
  .ite (stagesOrDenies_deny (by decide)) (stageOr_of_there hp v _)

theorem putCompat_of_there : StagesOrDenies s p (.object 0x2006 0) v (putCompat s p v) :=
  .ite (stagesOrDenies_deny (by decide)) (stageOr_of_there hp v _)

theorem putTally_of_there : StagesOrDenies s p (.object 0xA000 0) v (putTally s p v) :=
  .ite (stagesOrDenies_deny (by decide)) (stageOr_of_there hp v _)

theorem putArea_of_there : StagesOrDenies s p (.object 0xA001 0) v (putArea s p v) :=
  .ite (stageOr_of_there hp v _) (stagesOrDenies_deny (by decide))

end

theorem putClkBed_of_bedParcel {s : State} {p bed : Nat} (h : bedParcel s bed = some p) (v : Nat) :
    StagesOrDenies s p (.clkBed bed) v (putClkBed s bed v) := by
  unfold putClkBed
  rw [h]
  exact .ite (stagesOrDenies_deny (by decide)) stagesOrDenies_grant

/-- A write of an RWS object's value is refused or stages it, row by row. -/
theorem putObj_rws {r : ObjRow} (h : RwsRow r.idx r.own) {s : State} {idx sub p : Nat}
    (ho : objParcel s r idx sub = some p) (hp : pclThere s p = true) (src : Requester) (d : List Byte) :
    StagesOrDenies s p (stageKeyOf r sub) (leNat d) (putObj s src r.idx (objKey idx).2 sub d) := by
  obtain ⟨k, lo, hi, typ, acc, scope, own⟩ := r
  cases h with
  | beds => cases ho; exact putPclBeds_of_there hp _
  | compat => cases ho; exact putCompat_of_there hp _
  | beacons => cases ho; exact putBcnAlloc_of_there hp _ sub
  | replayLimit => cases ho; exact stageOr_of_there hp _ _
  | clkBed => exact putClkBed_of_bedParcel ho _
  | tally => cases ho; exact putTally_of_there hp _
  | area => cases ho; exact putArea_of_there hp _

theorem writeObj_rws {r : ObjRow} (h : RwsRow r.idx r.own) (ha : r.acc = .rws) {s : State} {idx sub p : Nat}
    (ho : objParcel s r idx sub = some p) (hp : pclThere s p = true) (src : Requester) (d : List Byte) :
    StagesOrDenies s p (stageKeyOf r sub) (leNat d) (writeObj s src r idx sub d false) := by
  have hput := putObj_rws h ho hp src d
  unfold writeObj
  rw [ha, if_neg Bool.false_ne_true]
  exact .ite (stagesOrDenies_deny (by decide)) (.ite (stagesOrDenies_deny (by decide))
    (.ite (stagesOrDenies_deny (by decide)) (.ite (stagesOrDenies_deny (by decide)) hput)))

/-- The state that such an answer leaves differs in the staged list at most. -/
theorem StagesOrDenies.state {s : State} {p : Nat} {k : StageKey} {v : Nat} {a : Ack} (h : StagesOrDenies s p k v a) :
    a.2 = s ∨ a.2 = withStaged s p (restaged (getPcl s p).staged k v) := by
  rcases h with ⟨-, h⟩ | rfl
  · exact .inl h
  · exact .inr rfl

/-- A granted answer leaves v alone staged under k. -/
theorem StagesOrDenies.staged_filter {s : State} {p : Nat} {k : StageKey} {v : Nat} {a : Ack}
    (h : StagesOrDenies s p k v a) (hok : a.1 = ackOk) :
    (getPcl a.2 p).staged.filter (fun e => e.1 = k) = [(k, v)] := by
  rcases h with ⟨hne, -⟩ | rfl
  · exact absurd hok hne
  · rw [grant, stage_eq_withStaged, staged_withStaged, restaged_filter_key]

/-- Settles O56: writes stage or are refused, no staged list shows in a read, and staging replaces the key's value. -/
theorem stagedValuesWaitForTheMark : Obligations.StagedValuesWaitForTheMark := by
  intro s r idx sub p hfind hacc hown hthere
  have hrow := findObj_rws hfind hacc
  have hfirst (src : Requester) (d : List Byte) := (writeObj_rws hrow hacc hown hthere src d).state
  refine ⟨fun q staged => readObj_rws_withStaged hrow s p staged q idx sub, fun src q d => ?_, fun src src' d d' => ?_⟩
  · rcases hfirst src d with hs | hs
    · rw [hs]
    · rw [hs]
      exact (readObj_rws_withStaged hrow s p _ q idx sub).2
  · intro t hok
    have htown : objParcel t r idx sub = some p := by
      rcases hfirst src d with hs | hs <;> simp only [t, hs, objParcel_withStaged, hown]
    have htthere : pclThere t p = true := by
      rcases hfirst src d with hs | hs <;> simp only [t, hs, pclThere_withStaged, hthere]
    exact (writeObj_rws hrow hacc htown htthere src' d').staged_filter hok

end Sys2Proof.Machine
end

section
/-!
PROOFS. The family of the backward-pass machinery: the table unit (R88, R89, R114) and the mask generator (R142 to R146),
over what an instruction that acts on its core's site leaves.
-/

namespace Sys2Proof.Machine

/-! ### An instruction at work on its core's site -/

/-- Of s only the core's site and the count of instructions have changed, and no memory: the instruction's context is x,
whatever its row buffer and its quantum are, the other contexts are as before, and the rest of the site is as in y. -/
structure Acted (e : Enc) (s t : State) (x : Ctx) (y : Site) : Prop where
  only : OnlySite e.core s t
  memory : SameMemory s t
  ctx : CtxIs e t x
  others : ∀ j, j ≠ e.ctx → getCtx t e.core j = getCtx s e.core j
  site : getCore t e.core = { y with ctxs := (getCore t e.core).ctxs }

/-- A change of a site that neither reads nor touches its contexts, and leaves its memories alone. -/
structure SparesContexts (f : Site → Site) : Prop where
  apart : ∀ x l, f { x with ctxs := l } = { f x with ctxs := l }
  memory : ∀ x, (f x).near = x.near ∧ (f x).terr = x.terr

/-- A change of a context that neither reads nor touches its row buffer and its quantum. -/
def SparesIssue (f : Ctx → Ctx) : Prop :=
  ∀ x l n, f { x with rowBuf := l, quantum := n } = { f x with rowBuf := l, quantum := n }

theorem SparesContexts.ctxs {f : Site → Site} (hf : SparesContexts f) (x : Site) : (f x).ctxs = x.ctxs := by
  have hx : f x = { f x with ctxs := x.ctxs } := hf.apart x x.ctxs
  rw [hx]

theorem spares_setVreg (v : Nat) (ls : List W32) : SparesContexts fun x => x.setVreg v ls :=
  ⟨fun _ _ => rfl, fun _ => ⟨rfl, rfl⟩⟩

theorem OnlySite.modCore {c : Nat} {s t : State} (h : OnlySite c s t) (f : Site → Site) :
    OnlySite c s (modCore t c f) := by
  obtain ⟨hst, hregs, hctrs, hsites⟩ := h
  have hc : csite t c = csite s c := by rw [hst]; rfl
  refine ⟨?_, hregs, hctrs, fun n hn => ?_⟩
  · rw [hst]; rfl
  · rw [getSite_modCore, hc, if_neg hn, hsites n hn]

theorem sameMemory_modCore (s : State) (c : Nat) {f : Site → Site} (hf : ∀ x, (f x).near = x.near ∧ (f x).terr = x.terr) :
    SameMemory s (modCore s c f) :=
  sameMemory_modSite s _ f (hf _).1 (hf _).2

theorem sameMemory_modCtx (s : State) (c k : Nat) (f : Ctx → Ctx) : SameMemory s (modCtx s c k f) :=
  sameMemory_modCore s c fun _ => ⟨rfl, rfl⟩

/-- What does not look at the row buffer and the quantum is as in x. -/
theorem CtxIs.view {α : Type} {e : Enc} {t : State} {x : Ctx} (h : CtxIs e t x) (π : Ctx → α)
    (hπ : ∀ x l n, π { x with rowBuf := l, quantum := n } = π x) : π (e.x t) = π x := by
  rw [h, hπ]

theorem ctxIs_modCtx {e : Enc} {t : State} {x : Ctx} (h : CtxIs e t x) {f : Ctx → Ctx} (hf : SparesIssue f) :
    CtxIs e (modCtx t e.core e.ctx f) (f x) := by
  have hx : e.x (modCtx t e.core e.ctx f) = { f x with rowBuf := (e.x t).rowBuf, quantum := (e.x t).quantum } := by
    rw [Enc.x, getCtx_modCtx_same, ← hf, ← h, Enc.x]
  unfold CtxIs
  rw [hx]

section
variable {e : Enc} {s t : State} {x : Ctx} {y : Site}

theorem Acted.modCore (h : Acted e s t x y) {f : Site → Site} (hf : SparesContexts f) :
    Acted e s (Machine.modCore t e.core f) x (f y) := by
  have hctx (k : Nat) : getCtx (Machine.modCore t e.core f) e.core k = getCtx t e.core k := by
    rw [getCtx, getCore_modCore_same, Site.ctx, hf.ctxs]; rfl
  refine ⟨h.only.modCore f, h.memory.trans (sameMemory_modCore t _ hf.memory), ?_, fun j hj => ?_, ?_⟩
  · have hx := h.ctx
    unfold CtxIs Enc.x at hx ⊢
    rw [hctx, ← hx]
  · rw [hctx, h.others j hj]
  · rw [getCore_modCore_same, hf.ctxs]
    exact (congrArg f h.site).trans (hf.apart y _)

theorem Acted.modCtx (h : Acted e s t x y) {f : Ctx → Ctx} (hf : SparesIssue f) :
    Acted e s (Machine.modCtx t e.core e.ctx f) (f x) y := by
  refine ⟨h.only.modCore _, h.memory.trans (sameMemory_modCtx ..), ctxIs_modCtx h.ctx hf, fun j hj => ?_, ?_⟩
  · rw [getCtx_modCtx_ne _ _ _ hj, h.others j hj]
  · rw [Machine.modCtx, getCore_modCore_same, h.site]
    rfl

/-- A context that has not given up the slot goes on at the next instruction. -/
theorem Acted.retire (h : Acted e s t x y) (hst : x.st = .issuing) (hw : x.wait = .none) :
    Acted e s (Machine.retire t e.core e.ctx) { x with pc := x.pc + 8 } y := by
  have hr := h.modCtx (f := fun z =>
    { z with pc := z.pc + 8, wait := .none, st := if z.st = .waiting ∨ z.st = .held then .ready else z.st }) fun _ _ _ => rfl
  simpa [Machine.retire, hst, ← hw] using hr

end

/-! ### What an issued instruction finds -/

section
variable {h : Shape} {e : Enc} {s : State} (hi : Issues h e s)
include hi

theorem acted_issued : Acted e s (issued e s) (e.x s) (getCore s e.core) := by
  obtain ⟨honly, hmem, hsite, hothers⟩ := issued_onlyContext hi
  exact ⟨honly, hmem, issued_ctx hi, hothers, hsite⟩

theorem issues_st : (e.x s).st = .issuing := by
  obtain ⟨-, -, -, hst, -⟩ := issued_read hi
  rw [← hst, (issued_ctx hi).view (·.st) fun _ _ _ => rfl]

theorem issues_wait : (e.x s).wait = .none := by
  obtain ⟨-, -, -, -, hw⟩ := issued_read hi
  rw [← hw, (issued_ctx hi).view (·.wait) fun _ _ _ => rfl]

theorem csite_issued (c : Nat) : csite (issued e s) c = csite s c := by
  obtain ⟨hst, -⟩ := (acted_issued hi).only
  rw [hst]; rfl

theorem vreg_issued (r : Nat) : (getCore (issued e s) e.core).vreg r = (getCore s e.core).vreg r := by
  rw [(acted_issued hi).site]; rfl

theorem table_issued (n : Nat) : (getCore (issued e s) e.core).table n = (getCore s e.core).table n := by
  rw [(acted_issued hi).site]; rfl

theorem tiles_issued : (getCore (issued e s) e.core).tiles = (getCore s e.core).tiles := by
  rw [(acted_issued hi).site]

theorem wait_issued (k : Nat) : (getCtx (issued e s) e.core k).wait = (getCtx s e.core k).wait := by
  by_cases hk : k = e.ctx
  · rw [hk]; exact (issued_ctx hi).view (·.wait) fun _ _ _ => rfl
  · rw [(acted_issued hi).others k hk]

theorem tldWaits_issued : tldWaits (getCore (issued e s) e.core) = tldWaits (getCore s e.core) := by
  have hw (k : Nat) : ((getCore (issued e s) e.core).ctx k).wait = ((getCore s e.core).ctx k).wait := wait_issued hi k
  simp only [tldWaits, hw]

theorem nearRead_issued (off n : Nat) :
    nearRead (issued e s) (csite s e.core) off n = nearRead s (csite s e.core) off n := by
  have hsite : getSite (issued e s) (csite s e.core) =
      { getSite s (csite s e.core) with ctxs := (getCore (issued e s) e.core).ctxs } :=
    calc getSite (issued e s) (csite s e.core)
      _ = getCore (issued e s) e.core := by rw [getCore, csite_issued hi]
      _ = _ := (acted_issued hi).site
  have hfar : (issued e s).far = s.far := by
    obtain ⟨hst, -⟩ := (acted_issued hi).only
    rw [hst]
  simp only [nearRead, hsite, hfar]

/-- The instruction goes on where its context owns every register that it names (R83). -/
theorem owning_issued {rs : List Nat} (ho : Owns e s rs) (f : State → State) :
    owning e rs (issued e s) f = f (issued e s) := by
  have hval : (e.x (issued e s)).valloc = (e.x s).valloc := (issued_ctx hi).view (·.valloc) fun _ _ _ => rfl
  have hbad : notOwned (e.x (issued e s)) rs = 0 := by
    unfold notOwned
    rw [hval]
    induction rs with
    | nil => rfl
    | cons r t ih =>
      rw [List.foldl_cons, if_pos (ho r (by simp))]
      exact ih fun q hq => ho q (by simp [hq])
  simp [owning, hbad]

end

/-! ### How an issued instruction ends -/

section
variable {i : Instr} {h : Shape} {e : Enc} {s : State} (hi : Issues h e s)
include hi

/-- A stall in place (R60). -/
theorem waits_of_block {w : Wait} (hx : exec i s = .next (block (issued e s) e.core e.ctx false w)) :
    Waits i e s false w := by
  have ha := (acted_issued hi).modCtx (f := fun y => { y with wait := w }) fun _ _ _ => rfl
  refine ⟨_, hx, ha.memory, ?_⟩
  simpa [block, ← issues_st hi] using ha.ctx

/-- Vector registers are written, no tag changes, and the instruction is finished (R84, R86). -/
theorem writesV_of_acted {t : State} {y : Site} {w : Nat → Nat → W32} (hx : exec i s = .next (retire t e.core e.ctx))
    (ha : Acted e s t (e.x s) y) (hy : y = { getCore s e.core with vlanes := y.vlanes })
    (hw : ∀ r j, r < 32 → j < 64 → y.lane r j = w r j) : WritesV i e s w (getCore s e.core).vtag 0 := by
  have hr := ha.retire (issues_st hi) (issues_wait hi)
  refine ⟨_, hx, hr.only, hr.memory, ?_, hr.others, ?_, fun r => ?_, fun r j h32 h64 => ?_⟩
  · simpa using hr.ctx
  · rw [hr.site, hy]
  · rw [hr.site, hy]; rfl
  · rw [hr.site]; exact hw r j h32 h64

end

/-! ### Vector registers -/

/-- A list written word by word from a key on. -/
theorem sget_foldl_zipIdx (ls : List W32) (b n k : Nat) (m : SMap W32) :
    sget 0 ((ls.zipIdx n).foldl (fun m (w, j) => sset 0 m (b + j) w) m) k =
      if b + n ≤ k ∧ k < b + n + ls.length then ls.getD (k - (b + n)) 0 else sget 0 m k := by
  induction ls generalizing n m with
  | nil => rw [if_neg (by simp)]; rfl
  | cons w t ih =>
    rw [List.zipIdx_cons, List.foldl_cons, ih, sget_sset, List.length_cons]
    rcases Nat.lt_trichotomy k (b + n) with hlt | rfl | hgt
    · rw [if_neg (by omega), if_neg (by omega), if_neg (by omega)]
    · rw [if_neg (by omega), if_pos rfl, if_pos (by omega), Nat.sub_self]; rfl
    · obtain ⟨d, rfl⟩ := Nat.exists_eq_add_of_lt hgt
      rw [if_neg (show ¬b + n + d + 1 = b + n by omega), show b + n + d + 1 - (b + n) = d + 1 by omega,
        show b + n + d + 1 - (b + (n + 1)) = d by omega, List.getD_cons_succ]
      exact if_congr (by omega) rfl rfl

theorem lane_setVreg (x : Site) (v : Nat) {ls : List W32} (hl : ls.length = 64) (r : Nat) {j : Nat} (hj : j < 64) :
    (x.setVreg v ls).lane r j = if r = v then ls.getD j 0 else x.lane r j := by
  have hk : v * 64 + 0 ≤ r * 64 + j ∧ r * 64 + j < v * 64 + 0 + ls.length ↔ r = v := by omega
  rw [Site.lane, Site.setVreg, List.take_of_length_le hl.le, sget_foldl_zipIdx]
  simp only [hk]
  split
  next hr => rw [hr, show v * 64 + j - (v * 64 + 0) = j by omega]
  next => rfl

theorem lane_setVreg_range (x : Site) (v : Nat) (f : Nat → W32) (r : Nat) {j : Nat} (hj : j < 64) :
    (x.setVreg v ((List.range 64).map f)).lane r j = if r = v then f j else x.lane r j := by
  rw [lane_setVreg x v (by simp) r hj]
  simp [List.getD_eq_getElem?_getD, hj]

/-- An instruction that writes f j into each lane j of v[RD] and is finished. -/
theorem writesRD_of {i : Instr} {h : Shape} {e : Enc} {s : State} {f : Nat → W32} (hi : Issues h e s)
    (hx : exec i s = .next (wrV e (issued e s) ((List.range 64).map f))) : WritesRD i e s f :=
  writesV_of_acted hi hx ((acted_issued hi).modCore (spares_setVreg ..)) rfl fun r _ _ hj => lane_setVreg_range _ _ f r hj

/-! ### Traps (R67) -/

/-- A record for a window changes nothing but the Gatehouses and the counters. -/
theorem emitRec_eq (s : State) (w : Nat) (b : List Byte) (irq : Bool) :
    emitRec s w b irq = { s with gate := (emitRec s w b irq).gate, regs := (emitRec s w b irq).regs } := by
  unfold emitRec
  split
  · rfl
  · split <;> rfl

theorem pclRec_eq (s : State) (p : Nat) (b : List Byte) :
    pclRec s p b = { s with gate := (pclRec s p b).gate, regs := (pclRec s p b).regs } := by
  unfold pclRec
  split
  · exact emitRec_eq ..
  · rfl

theorem sameMemory_pclRec (s : State) (p : Nat) (b : List Byte) : SameMemory s (pclRec s p b) := by
  rw [pclRec_eq]; exact ⟨fun _ _ => rfl, fun _ _ => rfl, fun _ => rfl⟩

theorem getCtx_pclRec (s : State) (p : Nat) (b : List Byte) (c k : Nat) :
    getCtx (pclRec s p b) c k = getCtx s c k := by
  rw [pclRec_eq]; rfl

theorem sameMemory_giveUp (s : State) (c k : Nat) : SameMemory s (giveUp s c k) :=
  sameMemory_modCore s c fun _ => by split <;> exact ⟨rfl, rfl⟩

theorem getCtx_giveUp (s : State) (c k j : Nat) : getCtx (giveUp s c k) c j = getCtx s c j := by
  rw [getCtx, giveUp, getCore_modCore_same]
  split <;> rfl

/-- The context that a trap leaves. -/
def Ctx.trapped (x : Ctx) (cause : Nat) (val : W64) : Ctx :=
  { x with st := .trapped, wait := .none, trapcause := BitVec.ofNat 64 cause, trappc := x.pc, trapval := val, ended := true }

/-- A trap: the context stops, and beyond it nothing changes but the issue slot and what a record to the host changes. -/
theorem trap_cases (s : State) (c k cause : Nat) (val : W64) :
    SameMemory s (trap s c k cause val) ∧ getCtx (trap s c k cause val) c k = (getCtx s c k).trapped cause val := by
  have hctx (f : Ctx → Ctx) : getCtx (modCtx (giveUp s c k) c k f) c k = f (getCtx s c k) := by
    rw [getCtx_modCtx_same, getCtx_giveUp]
  have hmem (f : Ctx → Ctx) : SameMemory s (modCtx (giveUp s c k) c k f) :=
    (sameMemory_giveUp s c k).trans (sameMemory_modCtx ..)
  unfold trap trapAt
  dsimp only
  split
  · exact ⟨hmem _, hctx _⟩
  · exact ⟨(hmem _).trans (sameMemory_pclRec ..), (getCtx_pclRec ..).trans (hctx _)⟩

/-- An issued instruction that traps at its own PC. -/
theorem traps_of {i : Instr} {h : Shape} {e : Enc} {s : State} {cause : Nat} {val : W64} (hi : Issues h e s)
    (hx : exec i s = .next (e.trap (issued e s) cause val)) : Traps i e s cause val := by
  obtain ⟨hmem, hctx⟩ := trap_cases (issued e s) e.core e.ctx cause val
  refine ⟨_, hx, (acted_issued hi).memory.trans hmem, ?_⟩
  have hs : getCtx (issued e s) e.core e.ctx = _ := issued_ctx hi
  unfold CtxIs Enc.x Enc.trap
  rw [hctx, hs]
  rfl

/-! ### Table images (R88) -/

@[simp] theorem length_mrdN (m : List Host.Cell) (a n : Nat) : (mrdN m a n).length = n := by simp [mrdN]

/-- Bytes read where they were written. -/
theorem mrdN_mwrN_same (m : List Host.Cell) (a : Nat) (bs : List Byte) : mrdN (mwrN m a bs) a bs.length = bs := by
  refine List.ext_getElem (by simp) fun i _ hi => ?_
  simp only [mrdN, List.getElem_map, List.getElem_range]
  exact mrd_mwrN_in m a bs i hi

/-- Bytes read beside those written. -/
theorem mrdN_mwrN_disjoint (m : List Host.Cell) {a b n : Nat} {bs : List Byte} (h : b + n ≤ a ∨ a + bs.length ≤ b) :
    mrdN (mwrN m a bs) b n = mrdN m b n := by
  refine List.map_congr_left fun i hi => mrd_mwrN_out m a bs (b + i) ?_
  have := List.mem_range.mp hi
  omega

/-- Own near memory alone is reached under the spaces of a descriptor (Table 7-3). -/
theorem spotOf_spNear (s : State) (c : Nat) (a : W64) (n : Nat) :
    spotOf s c spNear a n =
      if a.toNat / 2 ^ 60 = 0 ∧ a.toNat % 2 ^ 60 + n ≤ nearSize then some (.near (a.toNat % 2 ^ 60)) else none := by
  unfold spotOf
  dsimp only
  split
  next h => simp only [h, spNear, Bool.true_and, decide_eq_true_eq, true_and]
  all_goals simp_all [spNear]

theorem spotOf_spNear_of_fits (s : State) (c : Nat) {a : W64} {n : Nat} (hspace : a.toNat / 2 ^ 60 = 0)
    (hfits : a.toNat % 2 ^ 60 + n ≤ nearSize) : spotOf s c spNear a n = some (.near (a.toNat % 2 ^ 60)) := by
  rw [spotOf_spNear, if_pos ⟨hspace, hfits⟩]

/-- A near read that delivers: its bytes lie in near memory. -/
theorem engRead_spNear_ok {s : State} {c : Nat} {a : W64} {n : Nat} {bs : List Byte}
    (h : engRead s c spNear a n = .ok bs) :
    a.toNat / 2 ^ 60 = 0 ∧ a.toNat % 2 ^ 60 + n ≤ nearSize ∧ nearRead s (csite s c) (a.toNat % 2 ^ 60) n = .ok bs := by
  rw [engRead, spotOf_spNear] at h
  by_cases hc : a.toNat / 2 ^ 60 = 0 ∧ a.toNat % 2 ^ 60 + n ≤ nearSize
  · rw [if_pos hc] at h
    exact ⟨hc.1, hc.2, h⟩
  · rw [if_neg hc] at h
    cases h

theorem length_of_nearRead {s : State} {site off n : Nat} {bs : List Byte} (h : nearRead s site off n = .ok bs) :
    bs.length = n := by
  unfold nearRead at h
  dsimp only at h
  split at h
  · cases h; simp
  · cases h

/-! ### TLD, TEVAL and TEVALM (R88, R89, R114) -/

/-- A near read of an issued instruction delivers what it would have delivered before. -/
theorem engRead_issued {h : Shape} {e : Enc} {s : State} {a : W64} {n : Nat} {bs : List Byte} (hi : Issues h e s)
    (hr : engRead s e.core spNear a n = .ok bs) : engRead (issued e s) e.core spNear a n = .ok bs := by
  obtain ⟨hspace, hfits, hread⟩ := engRead_spNear_ok hr
  rw [engRead, spotOf_spNear_of_fits _ _ hspace hfits]
  show nearRead (issued e s) (csite (issued e s) e.core) _ n = .ok bs
  rw [csite_issued hi, nearRead_issued hi, hread]

section
variable {e : Enc} {s : State}

/-- TLD at a 64-byte boundary whose image can be read: it waits while a drain with a table is queued, and else takes a valid
image and traps on another. -/
theorem exec_tld (hi : Issues { cls := 5, op := 1, ra := true, aA := true, imm := 1 } e s) {img : List Byte}
    (ha : ((e.x s).a e.ra).toNat % 64 = 0) (hr : engRead s e.core spNear ((e.x s).a e.ra) imgBytes = .ok img) :
    exec (.tld e) s = .next (
      if (getCore s e.core).tiles.drains.any tableDrain then block (issued e s) e.core e.ctx false (.op .tld e)
      else if imageOk img then
        retire (modCore (issued e s) e.core fun x => { x with tables := mwrN x.tables (Enc.tab e * 4096) img }) e.core e.ctx
      else e.trap (issued e s) 0x0A ((e.x s).a e.ra)) := by
  obtain ⟨hspace, hfits, -⟩ := engRead_spNear_ok hr
  have hreg : (e.x (issued e s)).a e.ra = (e.x s).a e.ra := (issued_ctx hi).view (·.a e.ra) fun _ _ _ => rfl
  have hfits64 : ((e.x s).a e.ra).toNat % 2 ^ 60 + 64 ≤ nearSize := by unfold imgBytes at hfits; omega
  have hdesc : descTrap (issued e s) e.core ((e.x s).a e.ra) 64 = none := by
    rw [descTrap, if_neg (not_not.mpr ha), spotOf_spNear_of_fits _ _ hspace hfits64]; rfl
  show execTld e s = _
  rw [execTld, issue_next hi]
  dsimp only
  rw [hreg, hdesc, spotOf_spNear_of_fits _ _ hspace hfits]
  simp only [Option.isNone_some, Bool.false_eq_true, if_false, orWait, attTld]
  rw [hreg, tiles_issued hi, engRead_issued hi hr]
  cases (getCore s e.core).tiles.drains.any tableDrain <;> rfl

/-- The image taken is the one that the table then holds, and the other table is as before. -/
theorem table_of_mwrN {x y : Site} {img : List Byte} {n : Nat} (hx : x.tables = mwrN y.tables (n * 4096) img)
    (hl : img.length = imgBytes) (k : Nat) : x.table k = if k = n then img else y.table k := by
  unfold Site.table
  rw [hx]
  split
  next hk => rw [hk, ← hl, mrdN_mwrN_same]
  next hk =>
    refine mrdN_mwrN_disjoint _ ?_
    rw [hl, imgBytes]
    omega

/-- TLD that takes its image. -/
theorem tld_takes (hi : Issues { cls := 5, op := 1, ra := true, aA := true, imm := 1 } e s) {img : List Byte}
    (hx : exec (.tld e) s = .next (retire (modCore (issued e s) e.core fun x =>
      { x with tables := mwrN x.tables (Enc.tab e * 4096) img }) e.core e.ctx)) (hl : img.length = imgBytes) :
    ∃ t, exec (.tld e) s = .next t ∧ OnlySite e.core s t ∧ SameMemory s t ∧ CtxIs e t { e.x s with pc := (e.x s).pc + 8 } ∧
      (getCore t e.core).table (Enc.tab e) = img ∧
      (getCore t e.core).table (1 - Enc.tab e) = (getCore s e.core).table (1 - Enc.tab e) ∧
      getCore t e.core = { getCore s e.core with ctxs := (getCore t e.core).ctxs, tables := (getCore t e.core).tables } := by
  have hspares : SparesContexts fun x => { x with tables := mwrN x.tables (Enc.tab e * 4096) img } :=
    ⟨fun _ _ => rfl, fun _ => ⟨rfl, rfl⟩⟩
  have ht := ((acted_issued hi).modCore hspares).retire (issues_st hi) (issues_wait hi)
  have hother : 1 - Enc.tab e ≠ Enc.tab e := by unfold Enc.tab; split <;> decide
  have htable := table_of_mwrN (congrArg Site.tables ht.site) hl
  refine ⟨_, hx, ht.only, ht.memory, ht.ctx, (htable _).trans (if_pos rfl), (htable _).trans (if_neg hother), ?_⟩
  rw [ht.site]

/-- TEVAL whose registers the context owns: it waits behind a TLD, and else evaluates its table at each lane. -/
theorem exec_teval (hi : Issues { cls := 5, op := 2, rd := true, ra := true, imm := 1 } e s)
    (ho : Owns e s [e.rd.toNat, e.ra.toNat]) :
    exec (.teval e) s = .next (if tldWaits (getCore s e.core) then block (issued e s) e.core e.ctx false (.op .teval e)
      else wrV e (issued e s) ((List.range 64).map fun j =>
        tableEval ((getCore s e.core).table (Enc.tab e)) ((getCore s e.core).lane e.ra.toNat j))) := by
  show execTeval e s = _
  rw [execTeval, issue_next hi, owning_issued hi ho, orWait, attTeval, tldWaits_issued hi, table_issued hi, vA,
    vreg_issued hi, Site.vreg, List.map_map]
  cases tldWaits (getCore s e.core) <;> rfl

theorem exec_tevalm (hi : Issues { cls := 5, op := 3, rd := true, ra := true, rb := true, imm := 1 } e s)
    (ho : Owns e s [e.rd.toNat, e.ra.toNat, e.rb.toNat]) (hw : tldWaits (getCore s e.core) = false) :
    exec (.tevalm e) s = .next (wrV e (issued e s) ((List.range 64).map fun j =>
      fmul (tableEval ((getCore s e.core).table (Enc.tab e)) ((getCore s e.core).lane e.ra.toNat j))
        ((getCore s e.core).lane e.rb.toNat j))) := by
  show execTevalm e s = _
  rw [execTevalm, issue_next hi, owning_issued hi ho, orWait, attTevalm, tldWaits_issued hi, hw, table_issued hi, vA,
    vreg_issued hi, vreg_issued hi, Site.vreg, Site.vreg, List.zipWith_map, List.zipWith_self]
  rfl

end

/-! ### The mask class (R142, R144, R146) -/

/-- The output for a lane, of the layer tag, the step, the tensor id and the element index (R142). -/
theorem maskLane_eq (x : Ctx) (e : Enc) (base : W32) (j : Nat) :
    maskLane x e base j =
      mix x.mseed ((e.imm.extractLsb' 0 12).zeroExtend 32 ++ x.mstep ++ x.mtid ++ (base + BitVec.ofNat 32 j)) := by
  have htag : (0 : BitVec 20) ++ e.imm.extractLsb' 0 12 = (e.imm.extractLsb' 0 12).zeroExtend 32 := by
    rw [BitVec.zeroExtend, BitVec.setWidth_eq_append (by decide)]; rfl
  rw [maskLane, maskOut, maskCtr, htag]

theorem kept_iff (x : Ctx) (z : W64) : kept x z = true ↔ x.mkeep.extractLsb' 0 32 ≤ z.extractLsb' 32 32 := by
  rw [kept, decide_eq_true_iff, BitVec.le_def]

theorem testBit_nb64 (b : Bool) (n i : Nat) : (execMbits.nb64 b n).testBit i = (decide (n = i) && b) := by
  cases b <;> simp [execMbits.nb64, Nat.testBit_two_pow]

/-- Bits added up from bit 0 on: the sum has just those bits. -/
theorem testBit_foldl_nb64 (p : Nat → Bool) (n : Nat) :
    (List.range n).foldl (fun a j => a + execMbits.nb64 (p j) j) 0 < 2 ^ n ∧
    ∀ i, ((List.range n).foldl (fun a j => a + execMbits.nb64 (p j) j) 0).testBit i = (decide (i < n) && p i) := by
  induction n with
  | zero => simp
  | succ n ih =>
    rw [List.range_succ, List.foldl_append, List.foldl_cons, List.foldl_nil]
    generalize (List.range n).foldl (fun a j => a + execMbits.nb64 (p j) j) 0 = a at ih ⊢
    obtain ⟨hlt, hbits⟩ := ih
    have hb : execMbits.nb64 (p n) n = 2 ^ n * (p n).toNat := by cases p n <;> simp [execMbits.nb64]
    have hor : a + execMbits.nb64 (p n) n = execMbits.nb64 (p n) n ||| a := by
      rw [hb, Nat.add_comm, Nat.two_pow_add_eq_or_of_lt hlt]
    refine ⟨?_, fun i => ?_⟩
    · have hle := Nat.mul_le_mul_left (2 ^ n) (Bool.toNat_le (p n))
      rw [hb, Nat.pow_succ]
      omega
    · rw [hor, Nat.testBit_or, testBit_nb64, hbits]
      rcases Nat.lt_trichotomy i n with h | rfl | h
      · simp [h, h.ne', Nat.lt_succ_of_lt h]
      · simp
      · simp [h.ne, Nat.not_lt.mpr h.le, Nat.not_lt.mpr (Nat.succ_le_of_lt h)]

section
variable {e : Enc} {s : State}

/-- The mask's context registers are those of the instruction's context (R142). -/
theorem maskLane_issued {h : Shape} (hi : Issues h e s) (base : W32) (j : Nat) :
    maskLane (e.x (issued e s)) e base j = maskLane (e.x s) e base j :=
  (issued_ctx hi).view (fun x => maskLane x e base j) fun _ _ _ => rfl

theorem kept_issued {h : Shape} (hi : Issues h e s) (z : W64) : kept (e.x (issued e s)) z = kept (e.x s) z :=
  (issued_ctx hi).view (fun x => kept x z) fun _ _ _ => rfl

theorem mkeep_issued {h : Shape} (hi : Issues h e s) : (e.x (issued e s)).mkeep = (e.x s).mkeep :=
  (issued_ctx hi).view (·.mkeep) fun _ _ _ => rfl

theorem zipIdx_vreg (x : Site) (v : Nat) : (x.vreg v).zipIdx = (List.range 64).map fun j => (x.lane v j, j) := by
  refine List.ext_getElem (by simp [Site.vreg]) fun j _ _ => ?_
  simp [Site.vreg]

theorem exec_mdrop (hi : Issues { cls := 9, op := 1, rd := true, ra := true, rb := true, imm := 0xFFF } e s)
    (ho : Owns e s [e.rd.toNat, e.ra.toNat]) :
    exec (.mdrop e) s = .next (wrV e (issued e s) ((List.range 64).map fun j =>
      if kept (e.x s) (maskLane (e.x s) e (((e.x s).s e.rb).extractLsb' 0 32) j)
      then fmul ((getCore s e.core).lane e.ra.toNat j) ((e.x s).mkeep.extractLsb' 32 32) else 0)) := by
  obtain ⟨hs, -⟩ := issued_read hi
  show execMdrop e s = _
  rw [execMdrop, issue_next hi, owning_issued hi ho]
  simp only [hs, vA, vreg_issued hi, maskLane_issued hi, kept_issued hi, mkeep_issued hi, zipIdx_vreg, List.map_map]
  rfl

theorem exec_mbits (hi : Issues { cls := 9, op := 2, rd := true, ra := true, imm := 0xFFF } e s) :
    exec (.mbits e) s = .next (wrS e (issued e s) (BitVec.ofNat 64 ((List.range 64).foldl (fun a j =>
      a + execMbits.nb64 (kept (e.x s) (maskLane (e.x s) e (((e.x s).s e.ra).extractLsb' 0 32) j)) j) 0))) := by
  obtain ⟨hs, -⟩ := issued_read hi
  show execMbits e s = _
  rw [execMbits, issue_next hi]
  simp only [hs, maskLane_issued hi, kept_issued hi]

theorem exec_mraw (hi : Issues { cls := 9, op := 3, rd := true, ra := true, imm := 0xFFF } e s) (hrd : e.rd.toNat ≤ 30)
    (ho : Owns e s [e.rd.toNat, e.rd.toNat + 1]) :
    exec (.mraw e) s = .next (wrV e (modCore (issued e s) e.core fun x => x.setVreg (e.rd.toNat + 1)
        ((List.range 64).map fun j => (maskLane (e.x s) e (((e.x s).s e.ra).extractLsb' 0 32) j).extractLsb' 32 32))
      ((List.range 64).map fun j => (maskLane (e.x s) e (((e.x s).s e.ra).extractLsb' 0 32) j).extractLsb' 0 32)) := by
  obtain ⟨hs, -⟩ := issued_read hi
  show execMraw e s = _
  rw [execMraw, issue_next hi]
  dsimp only
  rw [if_neg (Nat.not_lt.mpr hrd), owning_issued hi ho]
  simp only [hs, maskLane_issued hi, List.map_map]
  rfl

/-- MRAW writes the halves of the outputs into two registers (R146). -/
theorem mraw_writesV (hi : Issues { cls := 9, op := 3, rd := true, ra := true, imm := 0xFFF } e s) {low high : Nat → W32}
    (hx : exec (.mraw e) s = .next (wrV e
      (modCore (issued e s) e.core fun x => x.setVreg (e.rd.toNat + 1) ((List.range 64).map high)) ((List.range 64).map low))) :
    WritesV (.mraw e) e s (fun r j => if r = e.rd.toNat then low j else if r = e.rd.toNat + 1 then high j
      else (getCore s e.core).lane r j) (getCore s e.core).vtag 0 := by
  refine writesV_of_acted hi hx (((acted_issued hi).modCore (spares_setVreg ..)).modCore (spares_setVreg ..)) rfl
    fun r j _ hj => ?_
  rw [lane_setVreg_range _ _ _ _ hj, lane_setVreg_range _ _ _ _ hj]

end

/-! ### The statement -/

/-- Settles O21: each instruction comes to one update of its core's site (`exec_tld` to `exec_mraw`), and the outputs and
the keep decision are those of R142 and R144 (`maskLane_eq`, `kept_iff`). -/
theorem tablesAndMasks : Obligations.TablesAndMasks := by
  refine ⟨fun e s img => ⟨fun hi ha hr => ⟨fun hd => ?_, fun hd hok => ?_, fun hd hbad => ?_⟩,
    fun hi ho => ⟨fun hw => ?_, fun hw => ?_⟩, fun hi ho hw => ?_⟩,
    fun e s => ⟨fun hi ho => ?_, fun hi => ⟨_, writesS_of hi (exec_mbits hi), fun j hj => ?_⟩, fun hi hrd ho => ?_⟩⟩
  · exact waits_of_block hi ((exec_tld hi ha hr).trans (by rw [if_pos hd]))
  · have hx := exec_tld hi ha hr
    rw [if_neg (by simp [hd]), if_pos hok] at hx
    obtain ⟨-, -, hread⟩ := engRead_spNear_ok hr
    exact tld_takes hi hx (length_of_nearRead hread)
  · have hx := exec_tld hi ha hr
    rw [if_neg (by simp [hd]), if_neg (by simp [hbad])] at hx
    exact traps_of hi hx
  · exact waits_of_block hi ((exec_teval hi ho).trans (by rw [if_pos hw]))
  · exact writesRD_of hi ((exec_teval hi ho).trans (by rw [if_neg (by simp [hw])]; rfl))
  · exact writesRD_of hi (exec_tevalm hi ho hw)
  · have hx := exec_mdrop hi ho
    simp only [kept_iff, maskLane_eq] at hx
    exact writesRD_of hi hx
  · rw [BitVec.getLsbD_ofNat, (testBit_foldl_nb64 _ _).2]
    simp only [hj, decide_true, Bool.true_and, kept_iff, maskLane_eq]
  · have hx := exec_mraw hi hrd ho
    simp only [maskLane_eq] at hx
    exact mraw_writesV hi hx

end Sys2Proof.Machine
end

section
/-!
PROOFS. The queue, reset and the placement (R24 to R27, R252): every command keeps the placement sound, and two cores never
share a site; what keeps a core instruction from issuing (R59, R399).
-/

namespace Sys2Proof.Machine

/-! ### The queue and reset -/

/-- Settles O1: the step's two equations. -/
theorem stepExecutesTheFrontCommand : Obligations.StepExecutesTheFrontCommand := by
  refine ⟨fun s c q h => ?_, fun s h => ?_⟩ <;> rw [step, h]

/-- A placement in which no core has moved is sound where its idle sites are sites of their beds. -/
theorem placed_of_no_relocation {s : State} (hidle : ∀ bed, factoryIdle s bed < 25) (h : s.place.reloc = []) :
    Placed s := by
  have hnone (c : Nat) : ¬relocated s c := by simp [relocated, h, sget]
  exact ⟨hidle, fun c hc => absurd hc (hnone c), fun c _ hc => absurd hc (hnone c)⟩

/-- Settles O2: every field of the reset state is its default, and no core has moved. -/
theorem resetState : Obligations.ResetState := by
  have hplaced : Placed State.reset := placed_of_no_relocation (fun _ => show 12 < 25 by decide) rfl
  exact ⟨⟨rfl, rfl, rfl, rfl, fun _ => rfl, fun _ => rfl, fun _ => rfl, fun _ _ => rfl, fun _ => rfl, rfl, rfl⟩, hplaced⟩

/-! ### Every command keeps the placement sound (R24 to R28) -/

/-- Of all commands, two alone change the binding of cores to sites: a relocation, and the returns of a start. -/
theorem exec_place (i : Instr) (s : State) (hf : ∀ c, i ≠ .fenceAndRelocate c) (hr : i ≠ .repairPlatLoad) :
    (after s (exec i s)).place.core = s.place.core := by
  cases i
  case fenceAndRelocate c => exact absurd rfl (hf c)
  case repairPlatLoad => exact absurd rfl hr
  all_goals simp only [exec]; simp

/-- A fold of an operation that keeps the placement sound keeps it sound. -/
theorem foldl_placed {β : Type} {f : State → β → State} (hf : ∀ {s} x, Placed s → Placed (f s x)) (l : List β) {s : State}
    (h : Placed s) : Placed (l.foldl f s) := by
  induction l generalizing s with
  | nil => exact h
  | cons x t ih => exact ih (hf x h)

/-- FENCE_AND_RELOCATE takes a spare only where none is consumed (R27, R28). -/
theorem execFenceAndRelocate_placed {c : Nat} {s : State} (h : Placed s) : Placed (after s (execFenceAndRelocate c s)) := by
  unfold execFenceAndRelocate
  split
  · exact h
  dsimp only
  generalize hu : fenceSite _ c = u
  have hplaced : Placed u := by
    rw [← hu]
    exact placed_congr (by simp) h
  rw [after_done]
  refine placed_congr (endFenceHandling_place ..) ?_
  split
  next hfree =>
    simp only [spareFree, Bool.and_eq_true, Bool.not_eq_true'] at hfree
    exact relocate_placed c hplaced hfree.2.1.2
  next => exact loseCore_placed c hplaced

/-- REPAIR_PLAT_LOAD only lets cores return (R26, R364). -/
theorem execRepairPlatLoad_placed {s : State} (h : Placed s) : Placed (after s (execRepairPlatLoad s)) := by
  unfold execRepairPlatLoad
  split
  · exact h
  dsimp only
  generalize hu : List.foldl (fun s r => nearSpare (addSoft s r) r) _ _ = u
  have hplaced : Placed u := by
    rw [← hu]
    exact placed_congr (by simp) h
  have hback := foldl_placed returnCore_placed u.place.returns hplaced
  exact placed_congr (by simp) hback

theorem exec_placed (i : Instr) {s t : State} (h : Placed s) (hx : exec i s = .next t) : Placed t := by
  by_cases hf : ∃ c, i = .fenceAndRelocate c
  · obtain ⟨c, rfl⟩ := hf
    have hp := execFenceAndRelocate_placed (c := c) h
    rwa [show execFenceAndRelocate c s = .next t from hx] at hp
  by_cases hr : i = .repairPlatLoad
  · subst hr
    have hp := execRepairPlatLoad_placed h
    rwa [show execRepairPlatLoad s = .next t from hx] at hp
  exact placed_next (exec_place i s (fun c hc => hf ⟨c, hc⟩) hr) h hx

/-- Settles O3: no command but a relocation and a return touches the binding, and each of these keeps it sound. -/
theorem everyStepKeepsPlacementSound : Obligations.EveryStepKeepsPlacementSound := by
  intro s t h hstep
  unfold step at hstep
  split at hstep
  next => cases hstep; exact h
  next c q _ =>
    have hq : Placed { s with pending := q } := h
    exact exec_placed c hq hstep

/-! ### Cores and sites (R24, R25, R252) -/

/-- A core's terrace is at a position of its bed other than the idle one. -/
theorem tsite_position (s : State) (c : Nat) :
    ∃ k, k < 25 ∧ k ≠ factoryIdle s (coreBed c) ∧ tsite s c = bedSite (coreBed c) k :=
  ⟨_, factoryPos_lt _ (Nat.mod_lt c (by decide)), factoryPos_ne_idle _ _, tsite_eq_bedSite_factoryPos s c⟩

/-- Beds and their positions are told apart by the site. -/
theorem bedSite_inj {b b' k k' : Nat} (hk : k < 25) (hk' : k' < 25) (h : bedSite b k = bedSite b' k') : b = b' ∧ k = k' := by
  unfold bedSite at h
  omega

theorem coreBed_slot_inj {c d : Nat} (hb : coreBed c = coreBed d) (hs : c % 24 = d % 24) : c = d := by
  unfold coreBed at hb
  omega

theorem tsite_inj {s : State} {c d : Nat} (he : tsite s c = tsite s d) : c = d := by
  rw [tsite_eq_bedSite_factoryPos, tsite_eq_bedSite_factoryPos] at he
  obtain ⟨hb, hp⟩ := bedSite_inj (factoryPos_lt _ (Nat.mod_lt c (by decide))) (factoryPos_lt _ (Nat.mod_lt d (by decide))) he
  rw [hb] at hp
  exact coreBed_slot_inj hb ((factoryPos_strictMono _).injective hp)

/-- A core that has not moved computes at its terrace's site; one that has computes at its bed's idle site. -/
theorem csite_cases {s : State} (h : Placed s) (c : Nat) :
    (¬relocated s c ∧ csite s c = tsite s c) ∨
    (relocated s c ∧ csite s c = bedSite (coreBed c) (factoryIdle s (coreBed c))) := by
  by_cases hr : relocated s c
  · exact .inr ⟨hr, (h.2.1 c hr).1⟩
  · refine .inl ⟨hr, ?_⟩
    rw [relocated, not_not] at hr
    simp [csite, hr]

/-- An idle site is no core's terrace. -/
theorem idle_ne_tsite {s : State} (h : Placed s) (b c : Nat) : bedSite b (factoryIdle s b) ≠ tsite s c := by
  intro he
  obtain ⟨k, hk, hne, ht⟩ := tsite_position s c
  obtain ⟨rfl, hp⟩ := bedSite_inj (h.1 b) hk (he.trans ht)
  exact hne hp.symm

theorem csite_inj {s : State} (h : Placed s) {c d : Nat} (he : csite s c = csite s d) : c = d := by
  rcases csite_cases h c with ⟨-, hc⟩ | ⟨hrc, hc⟩ <;> rcases csite_cases h d with ⟨-, hd⟩ | ⟨hrd, hd⟩ <;> rw [hc, hd] at he
  · exact tsite_inj he
  · exact absurd he.symm (idle_ne_tsite h _ c)
  · exact absurd he (idle_ne_tsite h _ d)
  · exact h.2.2 c d hrc hrd (bedSite_inj (h.1 _) (h.1 _) he).1

/-- Settles O4: the positions of a bed's terraces and its idle position are told apart by their sites. -/
theorem coresNeverShareSite : Obligations.CoresNeverShareSite := by
  refine fun s h => ⟨fun c d _ _ => csite_inj h, fun c d _ _ => tsite_inj, fun c d _ _ he => ?_⟩
  rcases csite_cases h c with ⟨-, hc⟩ | ⟨-, hc⟩ <;> rw [hc] at he
  · exact tsite_inj he
  · exact absurd he (idle_ne_tsite h _ d)

/-! ### What a core instruction needs in order to issue (R59, R399) -/

theorem canIssue_of_not_alive {s : State} (h : alive s = false) (e : Enc) : canIssue s e = false := by
  simp [canIssue, coreRuns, h]

/-- A core instruction is issued, whatever it does once it has (R59 to R61). -/
theorem exec_eq_issue {i : Instr} {e : Enc} (h : i.enc? = some e) (s : State) :
    ∃ (sh : Shape) (f : State → State), exec i s = issue sh e s f := by
  cases i <;> cases h
  all_goals
    simp only [exec, execAdd, execSub, execAnd, execOr, execXor, execSll, execSrl, execSra, execMul, execMulhs, execMulhu,
    execMin, execMax, execSlt, execSltu, execSeq, execLih, execMova, execMovs, execAdda, execLd, execSt, execBr,
    execBz, execBnz, execBlt, execBge, execJal, execJr, execRdcr, execWrcr, execYield, execHalt, execSwTrap,
    execArrive, execBeaconAdd, execBeaconSet, execBeaconWait, execCpy, execCpyw, execCpyq, execCpyclr, execVadd,
    execVsub, execVmul, execVfma, execVmax, execVmin, execVabs, execVneg, execVrcp, execVsqrt, execVrsqrt, execVexp2,
    execVlog2, execVsel, execVcmplt, execVrsum, execVrmax, execVld, execVst, execVbcast, execVmovs, execVcvt,
    execVdadd, execViadd, execVldd, execVstd, execTld, execTeval, execTevalm, execTcfg, execTseq, execTsync, execTdrn,
    execTdrv, execAccrel, execCown, execCpush, execCpopv, execCpop, execCrsv, execCreset, execWinit, execWzero,
    execWaddv, execWrdv, execWflush, execWsync, execMdrop, execMbits, execMraw, execUlaunch, execUgauge, execNgsend,
    execNgcast, execNgwait, aluB, beaconUpdate, branchIf, lane1, lane2, lane3, reduce]
    exact ⟨_, _, rfl⟩

/-- Settles O5: every core instruction issues first, and a module that is not alive lets none issue. -/
theorem nothingIssuesInStoppedModule : Obligations.NothingIssuesInStoppedModule := by
  intro i e s hi ha
  obtain ⟨sh, f, hx⟩ := exec_eq_issue hi s
  rw [hx, issue_not f (canIssue_of_not_alive ha e)]

end Sys2Proof.Machine
end

section
/-!
PROOFS. The scalar and control classes (R68, R70, R72), the ends of programs (R67, R83, R98) and the issue slot (R59 to R61).
-/

namespace Sys2Proof.Machine

/-! ### What an issued instruction leaves of the rest of the state -/

section
variable {h : Shape} {e : Enc} {s : State} (hi : Issues h e s)
include hi

/-- An issued instruction has changed sites and registers alone. -/
theorem issued_with : issued e s = { s with sites := (issued e s).sites, regs := (issued e s).regs } :=
  (acted_issued hi).only.1

theorem coreParcel_issued (c : Nat) : coreParcel (issued e s) c = coreParcel s c := by rw [issued_with hi]; rfl
theorem coreParcelNum_issued (c : Nat) : coreParcelNum (issued e s) c = coreParcelNum s c := by rw [issued_with hi]; rfl

theorem ctx_issued_ne {j : Nat} (hj : j ≠ e.ctx) : (getCore (issued e s) e.core).ctx j = (getCore s e.core).ctx j :=
  (acted_issued hi).others j hj

theorem s_issued (r : BitVec 5) : (e.x (issued e s)).s r = (e.x s).s r := (issued_read hi).1 r
theorem a_issued (r : BitVec 5) : (e.x (issued e s)).a r = (e.x s).a r := (issued_read hi).2.1 r
theorem pc_issued : (e.x (issued e s)).pc = (e.x s).pc := (issued_ctx hi).view (·.pc) fun _ _ _ => rfl
theorem heldSt_issued : (e.x (issued e s)).heldSt = (e.x s).heldSt := (issued_ctx hi).view (·.heldSt) fun _ _ _ => rfl
theorem valloc_issued : (e.x (issued e s)).valloc = (e.x s).valloc := (issued_ctx hi).view (·.valloc) fun _ _ _ => rfl

theorem opB_issued : opB (e.x (issued e s)) e = operandB e s := by
  rw [opB, s_issued hi]; rfl

theorem cairn_issued : (getCore (issued e s) e.core).cairn = (getCore s e.core).cairn := by rw [(acted_issued hi).site]
theorem wga_issued : (getCore (issued e s) e.core).wga = (getCore s e.core).wga := by rw [(acted_issued hi).site]
theorem gate_issued : (getCore (issued e s) e.core).gate = (getCore s e.core).gate := by rw [(acted_issued hi).site]
theorem theo_issued : (getCore (issued e s) e.core).theo = (getCore s e.core).theo := by rw [(acted_issued hi).site]

end

section
variable {e : Enc} {s t : State} {x : Ctx} {y : Site}

/-- Where nothing of the site but the context has changed. -/
theorem Acted.onlyContext (h : Acted e s t x (getCore s e.core)) : OnlyContext e s t := ⟨h.only, h.memory, h.site, h.others⟩

/-- A change of the site that touches the instruction's context and no other. -/
theorem Acted.modSite (h : Acted e s t x y) {f : Site → Site} (hmem : ∀ z, (f z).near = z.near ∧ (f z).terr = z.terr)
    {x' : Ctx} {y' : Site} (hctx : (f (getCore t e.core)).ctx e.ctx =
      { x' with rowBuf := (e.x t).rowBuf, quantum := (e.x t).quantum })
    (hothers : ∀ z j, j ≠ e.ctx → (f z).ctx j = z.ctx j)
    (hsite : f (getCore t e.core) = { y' with ctxs := (f (getCore t e.core)).ctxs }) :
    Acted e s (Machine.modCore t e.core f) x' y' := by
  refine ⟨h.only.modCore f, h.memory.trans (sameMemory_modCore t _ hmem), ?_, fun j hj => ?_, ?_⟩
  · unfold CtxIs Enc.x getCtx
    rw [getCore_modCore_same, hctx]
  · rw [← h.others j hj, getCtx, getCore_modCore_same, hothers _ j hj, getCtx]
  · rw [getCore_modCore_same]; exact hsite

end

theorem spares_setS (r : BitVec 5) (v : W64) : SparesIssue fun x => x.setS r v := by
  intro x l n
  simp only [Ctx.setS]
  split <;> rfl

theorem setS_eq (x : Ctx) (r : BitVec 5) (v : W64) : x.setS r v = { x with sregs := (x.setS r v).sregs } := by
  unfold Ctx.setS
  split <;> rfl

/-! ### Illegal encodings (R64, R66) -/

/-- A shape that uses every field: every word is legal under it. -/
def fullShape : Shape := { cls := 0, op := 0, rd := true, ra := true, rb := true, md := ~~~0, imm := ~~~0 }

theorem fullShape_legal (e : Enc) : fullShape.legal e = true := by
  simp [Shape.legal, fullShape]

/-- An instruction that issues with a word that is not legal traps (R66). -/
theorem traps_of_illegal {i : Instr} {h : Shape} {e : Enc} {s : State} {f : State → State} (hc : canIssue s e = true)
    (hpc : (e.x s).pc.toNat < nearSize) (hf : (fetchRow s e.core e.ctx).isSome = true) (hl : h.legal e = false)
    (hx : exec i s = issue h e s f) : Traps i e s 0x01 (encWord h e) := by
  have hi : Issues fullShape e s := ⟨hc, hpc, hf, fullShape_legal e⟩
  refine traps_of hi (hx.trans ?_)
  obtain ⟨u, hu⟩ := Option.isSome_iff_exists.mp hf
  have hpc' : ¬nearSize ≤ (getCtx s e.core e.ctx).pc.toNat := Nat.not_le.mpr hpc
  simp [issue, issued, hc, hpc', hu, hl, done, Enc.trap]

/-- What a legal word's unused fields hold (R64). -/
theorem unused_of_legal {h : Shape} {e : Enc} (hl : h.legal e = true) :
    (h.rb = false → e.rb = 0) ∧ e.md &&& ~~~h.md = 0 ∧ e.imm &&& ~~~h.imm = 0 := by
  simp only [Shape.legal, Bool.and_eq_true, Bool.or_eq_true, decide_eq_true_eq] at hl
  obtain ⟨⟨⟨⟨⟨⟨-, hrb⟩, -⟩, -⟩, -⟩, hmd⟩, himm⟩ := hl
  exact ⟨fun hn => hrb.resolve_left (by simp [hn]), hmd, himm⟩

/-! ### The scalar class (R70, Table 3-8) -/

/-- A scalar operation of class 0 with operand b. -/
theorem aluB_writesS {i : Instr} {op : Nat} {f : W64 → W64 → W64} {e : Enc} {s : State} {v : W64}
    (hx : exec i s = aluB op f e s) (hv : v = f ((e.x s).s e.ra) (operandB e s)) :
    Issues (bShape 0 op e false false) e s → WritesS i e s v := by
  intro hi
  refine writesS_of hi (hx.trans ?_)
  rw [aluB, issue_next hi, s_issued hi, opB_issued hi, hv]

/-- The high half of the exact signed product. -/
theorem mulhs_eq (a b : W64) :
    (a.signExtend 128 * b.signExtend 128).extractLsb' 64 64 = BitVec.ofInt 64 (a.toInt * b.toInt / 2 ^ 64) := by
  have hab : a.signExtend 128 * b.signExtend 128 = BitVec.ofInt 128 (a.toInt * b.toInt) := by
    rw [BitVec.ofInt_mul]; rfl
  rw [hab]
  apply BitVec.eq_of_toNat_eq
  rw [BitVec.extractLsb'_toNat, BitVec.toNat_ofInt, BitVec.toNat_ofInt, Nat.shiftRight_eq_div_pow]
  generalize a.toInt * b.toInt = z
  omega

theorem mulhu_eq (a b : W64) :
    (a.zeroExtend 128 * b.zeroExtend 128).extractLsb' 64 64 = BitVec.ofNat 64 (a.toNat * b.toNat / 2 ^ 64) := by
  apply BitVec.eq_of_toNat_eq
  have hlt : a.toNat * b.toNat < 2 ^ 128 :=
    calc a.toNat * b.toNat
      _ < 2 ^ 64 * 2 ^ 64 := Nat.mul_lt_mul'' a.isLt b.isLt
      _ = 2 ^ 128 := rfl
  have ha : a.toNat % 2 ^ 128 = a.toNat := Nat.mod_eq_of_lt (by omega)
  have hb : b.toNat % 2 ^ 128 = b.toNat := Nat.mod_eq_of_lt (by omega)
  rw [BitVec.extractLsb'_toNat, BitVec.toNat_mul, BitVec.toNat_ofNat, Nat.shiftRight_eq_div_pow]
  simp only [BitVec.truncate_eq_setWidth, BitVec.toNat_setWidth, ha, hb, Nat.mod_eq_of_lt hlt]

theorem shiftBy_eq (b : W64) : (b.extractLsb' 0 6).toNat = shiftBy b := by
  simp [shiftBy]

theorem ite_slt {α : Type} (a b : W64) (x y : α) : (if a.slt b then x else y) = if a.toInt < b.toInt then x else y := by
  simp only [BitVec.slt, decide_eq_true_eq]

/-- ADD's word is not legal when a field that it does not use is not zero. -/
theorem add_illegal {e : Enc} (h : (e.md.getLsbD 0 = true ∧ e.rb ≠ 0) ∨ (e.md.getLsbD 0 = false ∧ e.imm ≠ 0) ∨ 2 ≤ e.md.toNat) :
    (bShape 0 0x01 e false false).legal e = false := by
  rw [Bool.eq_false_iff]
  intro hl
  obtain ⟨hrb, hmd, himm⟩ := unused_of_legal hl
  rcases h with ⟨h0, hne⟩ | ⟨h0, hne⟩ | hge
  · exact hne (hrb (by simp [bShape, Enc.md0, h0]))
  · refine hne ?_
    have hall : e.imm &&& ~~~(0 : BitVec 32) = e.imm := BitVec.and_allOnes
    rwa [bShape, Enc.md0, h0, if_neg Bool.false_ne_true, hall] at himm
  · have hlt : ∀ m : BitVec 7, m &&& ~~~1 = 0 → m.toNat < 2 := by decide
    exact absurd hge (Nat.not_le.mpr (hlt _ hmd))

/-- Settles O7: `aluB` for the operations with operand b, with the model's integer forms for the products and comparisons. -/
theorem scalarOperationResults : Obligations.ScalarOperationResults := by
  refine ⟨fun e s => ?_, fun e s => ⟨fun hi => ?_, fun hi => ?_, fun hi => ?_, fun hi => ?_⟩, fun e s hc hpc hf hbad => ?_⟩
  · intro a b sh
    exact ⟨aluB_writesS (f := fun a b => a + b) rfl rfl, aluB_writesS (f := fun a b => a - b) rfl rfl,
      aluB_writesS (f := fun a b => a &&& b) rfl rfl, aluB_writesS (f := fun a b => a ||| b) rfl rfl,
      aluB_writesS (f := fun a b => a ^^^ b) rfl rfl,
      aluB_writesS (f := fun a b => a <<< shiftBy b) rfl (by rw [← shiftBy_eq]),
      aluB_writesS (f := fun a b => a >>> shiftBy b) rfl (by rw [← shiftBy_eq]),
      aluB_writesS (f := fun a b => a.sshiftRight (shiftBy b)) rfl (by rw [← shiftBy_eq]),
      aluB_writesS (f := fun a b => a * b) rfl rfl,
      aluB_writesS (f := fun a b => BitVec.ofInt 64 (a.toInt * b.toInt / 2 ^ 64)) rfl (mulhs_eq a b),
      aluB_writesS (f := fun a b => BitVec.ofNat 64 (a.toNat * b.toNat / 2 ^ 64)) rfl (mulhu_eq a b),
      aluB_writesS (f := fun a b => if a.toInt < b.toInt then a else b) rfl (ite_slt a b a b),
      aluB_writesS (f := fun a b => if a.toInt < b.toInt then b else a) rfl (ite_slt a b b a),
      aluB_writesS (f := fun a b => flag64 (decide (a.toInt < b.toInt))) rfl rfl,
      aluB_writesS (f := fun a b => flag64 (decide (a.toNat < b.toNat))) rfl rfl,
      aluB_writesS (f := fun a b => flag64 (decide (a = b))) rfl (by simp [flag64, a, b])⟩
  · refine writesS_of hi ?_
    show execLih e s = _
    rw [execLih, issue_next hi, s_issued hi]
  · refine writesS_of hi ?_
    show execMovs e s = _
    rw [execMovs, issue_next hi, a_issued hi]
  · refine writesA_of hi ?_
    show execMova e s = _
    rw [execMova, issue_next hi, s_issued hi, opB_issued hi]
  · refine writesA_of hi ?_
    show execAdda e s = _
    rw [execAdda, issue_next hi, a_issued hi, opB_issued hi]
  · have hx : exec (.add e) s = issue (bShape 0 0x01 e false false) e s fun s =>
        wrS e s ((e.x s).s e.ra + opB (e.x s) e) := rfl
    simpa only [encWord, bShape] using traps_of_illegal hc hpc hf (add_illegal hbad) hx

/-! ### The control class (R72, Table 3-9) -/

section
variable {i : Instr} {h : Shape} {e : Enc} {s : State}

/-- A branch that is taken where p holds goes to its target, and else on. -/
theorem branchIf_jumps {p : Ctx → Bool} {a : W64} (hx : exec i s = branchIf h p e s) (hi : Issues h e s)
    (hp : p (e.x (issued e s)) = p (e.x s))
    (ha : a = if p (e.x s) then branchTarget e s else (e.x s).pc + 8) : Jumps i e s a := by
  have hnext := hx.trans (issue_next hi _)
  rw [hp] at hnext
  cases hb : p (e.x s) <;> rw [hb] at hnext ha
  · have hr := (acted_issued hi).retire (issues_st hi) (issues_wait hi)
    refine ⟨_, hnext, hr.onlyContext, ?_⟩
    rw [ha]
    exact hr.ctx
  · refine jumps_of hi (hnext.trans ?_)
    rw [ha]
    show Host.Outcome.next (jump e (issued e s) (target (e.x (issued e s)) e)) = _
    rw [target, pc_issued hi]
    rfl

/-- An instruction of the context alone: f of its registers, and the next PC. -/
theorem writesCtx_of (hi : Issues h e s) {f : Ctx → Ctx} (hf : SparesIssue f) (hst : (f (e.x s)).st = (e.x s).st)
    (hw : (f (e.x s)).wait = (e.x s).wait)
    (hx : exec i s = .next (retire (modCtx (issued e s) e.core e.ctx f) e.core e.ctx)) :
    ∃ t, exec i s = .next t ∧ OnlyContext e s t ∧ CtxIs e t { f (e.x s) with pc := (f (e.x s)).pc + 8 } := by
  have hr := ((acted_issued hi).modCtx hf).retire (hst.trans (issues_st hi)) (hw.trans (issues_wait hi))
  exact ⟨_, hx, hr.onlyContext, hr.ctx⟩

/-- An instruction that only goes on. -/
theorem goesOn_of (hi : Issues h e s) (hx : exec i s = .next (retire (issued e s) e.core e.ctx)) :
    Jumps i e s ((e.x s).pc + 8) := by
  have hr := (acted_issued hi).retire (issues_st hi) (issues_wait hi)
  exact ⟨_, hx, hr.onlyContext, hr.ctx⟩

end

theorem jal_links {e : Enc} {s : State} (hi : Issues { cls := 1, op := 6, rd := true, imm := ~~~0 } e s) :
    ∃ t, exec (.jal e) s = .next t ∧ OnlyContext e s t ∧
      CtxIs e t { e.x s with pc := branchTarget e s, sregs := (e.x t).sregs } ∧
      ∀ r, (e.x t).s r = if r = e.rd ∧ r ≠ 0 then (e.x s).pc + 8 else (e.x s).s r := by
  have hx : exec (.jal e) s = .next (modCtx (modCtx (issued e s) e.core e.ctx fun y => y.setS e.rd ((e.x s).pc + 8))
      e.core e.ctx fun y => { y with pc := branchTarget e s }) := by
    show execJal e s = _
    rw [execJal, issue_next hi]
    dsimp only
    rw [target, pc_issued hi]
    rfl
  have ha := ((acted_issued hi).modCtx (spares_setS e.rd ((e.x s).pc + 8))).modCtx
    (f := fun y => { y with pc := branchTarget e s }) fun _ _ _ => rfl
  have hregs := ha.ctx.view (·.sregs) fun _ _ _ => rfl
  refine ⟨_, hx, ha.onlyContext, ?_, fun r => ?_⟩
  · rw [hregs]
    have hc := ha.ctx
    rw [setS_eq] at hc
    exact hc
  · rw [ha.ctx.view (·.s r) fun _ _ _ => rfl]
    exact Ctx.s_setS ..

section
variable {e : Enc} {s : State} (hi : Issues { cls := 1, op := 7, ra := true } e s)
include hi

theorem exec_jr : exec (.jr e) s = .next (if ((e.x s).s e.ra).toNat % 8 ≠ 0 then e.trap (issued e s) 0x02 ((e.x s).s e.ra)
    else if 2097152 ≤ ((e.x s).s e.ra).toNat then e.trap (issued e s) 0x03 ((e.x s).s e.ra)
    else jump e (issued e s) ((e.x s).s e.ra)) := by
  show execJr e s = _
  rw [execJr, issue_next hi]
  dsimp only
  rw [s_issued hi]
  rfl

end

/-- Settles O8: `branchIf_jumps` for the branches, and the three ends of a JR. -/
theorem branchResults : Obligations.BranchResults := by
  refine ⟨fun e s => ?_, fun e s hi => ⟨fun hmis => ?_, fun hal hout => ?_⟩⟩
  · intro a b on
    refine ⟨fun hi => branchIf_jumps (p := fun _ => true) rfl hi rfl rfl,
      fun hi => branchIf_jumps (p := fun x => decide (x.s e.ra = 0)) rfl hi ?_ ?_,
      fun hi => branchIf_jumps (p := fun x => decide (x.s e.ra ≠ 0)) rfl hi ?_ ?_,
      fun hi => branchIf_jumps (p := fun x => decide ((x.s e.ra).toInt < (x.s e.rb).toInt)) rfl hi ?_ ?_,
      fun hi => branchIf_jumps (p := fun x => decide ((x.s e.rb).toInt ≤ (x.s e.ra).toInt)) rfl hi ?_ ?_,
      jal_links, fun hi hal hin => ?_⟩
    · rw [s_issued hi]
    · simp [a, on]
    · rw [s_issued hi]
    · simp [a, on]
    · rw [s_issued hi, s_issued hi]
    · rw [ite_slt]; simp [a, b, on]
    · rw [s_issued hi, s_issued hi]
    · rw [ite_slt, ← ite_not]; simp only [decide_eq_true_eq, not_lt]; rfl
    · refine jumps_of hi ((exec_jr hi).trans ?_)
      rw [if_neg (not_not.mpr hal), if_neg (Nat.not_le.mpr hin)]
      rfl
  · exact traps_of hi ((exec_jr hi).trans (by rw [if_pos hmis]))
  · exact traps_of hi ((exec_jr hi).trans (by rw [if_neg (not_not.mpr hal), if_pos hout]))

/-! ### Control registers (R68, Tables 3-6, 4-4, 5-7, 5-9, 6-8) -/

section
variable {h : Shape} {e : Enc} {s : State} (hi : Issues h e s)
include hi

theorem ctxStat_issued : ctxStat (issued e s) e.core e.ctx = ctxStat s e.core e.ctx := by
  have hcompat : (getCtx (issued e s) e.core e.ctx).compat = (getCtx s e.core e.ctx).compat :=
    (issued_ctx hi).view (·.compat) fun _ _ _ => rfl
  rw [ctxStat, coreParcelNum_issued hi, hcompat, ctxStat]

/-- Every control register reads as before while the instruction acts. -/
theorem readCr_issued (i : Nat) : readCr (issued e s) e.core e.ctx i = readCr s e.core e.ctx i := by
  have hctx : (getCore (issued e s) e.core).ctx e.ctx = _ := issued_ctx hi
  unfold readCr
  dsimp only
  rw [hctx, tiles_issued hi, cairn_issued hi, wga_issued hi, gate_issued hi, theo_issued hi, ctxStat_issued hi]
  rfl

theorem othersOwn_issued : othersOwn (getCore (issued e s) e.core) e.ctx = othersOwn (getCore s e.core) e.ctx := by
  unfold othersOwn
  congr 1
  funext a j
  split
  · rfl
  next hj => rw [ctx_issued_ne hi hj]

end

section
variable {e : Enc} {s : State}

theorem exec_rdcr (hi : Issues { cls := 1, op := 8, rd := true, imm := 0xFF } e s) :
    exec (.rdcr e) s = .next (match readCr s e.core e.ctx e.imm.toNat with
      | none => e.trap (issued e s) 0x01 (encWord { cls := 1, op := 8, rd := true, imm := 0xFF } e)
      | some v => wrS e (issued e s) v) := by
  show execRdcr e s = _
  rw [execRdcr, issue_next hi, readCr_issued hi] <;> rfl

/-- RDCR of a register that a table lists. -/
theorem rdcr_writesS (hi : Issues { cls := 1, op := 8, rd := true, imm := 0xFF } e s) {v : W64}
    (hv : readCr s e.core e.ctx e.imm.toNat = some v) : WritesS (.rdcr e) e s v :=
  writesS_of hi ((exec_rdcr hi).trans (by rw [hv]))

theorem exec_wrcr (hi : Issues { cls := 1, op := 9, ra := true, imm := 0xFF } e s) :
    exec (.wrcr e) s = .next (writeCr (issued e s) e (encWord { cls := 1, op := 9, ra := true, imm := 0xFF } e)
      e.imm.toNat ((e.x s).s e.ra)) := by
  show execWrcr e s = _
  rw [execWrcr, issue_next hi, s_issued hi]

/-- WRCR of a register of the context's own. -/
theorem wrcr_writesCtx (hi : Issues { cls := 1, op := 9, ra := true, imm := 0xFF } e s) {f : Ctx → Ctx}
    (hf : SparesIssue f) (hst : (f (e.x s)).st = (e.x s).st) (hw : (f (e.x s)).wait = (e.x s).wait)
    (hx : writeCr (issued e s) e (encWord { cls := 1, op := 9, ra := true, imm := 0xFF } e) e.imm.toNat ((e.x s).s e.ra) =
      retire (modCtx (issued e s) e.core e.ctx f) e.core e.ctx) :
    ∃ t, exec (.wrcr e) s = .next t ∧ OnlyContext e s t ∧ CtxIs e t { f (e.x s) with pc := (f (e.x s)).pc + 8 } :=
  writesCtx_of hi hf hst hw ((exec_wrcr hi).trans (by rw [hx]))

end

/-- An index that no table lists, or one of the tile registers but TSTART, traps in a WRCR (R68, R99). -/
theorem writeCr_unlisted {s u : State} {e : Enc} {c k : Nat} {word v : W64} {i : Nat}
    (h : readCr s c k i = none ∨ (0x10 ≤ i ∧ i ≤ 0x13)) : writeCr u e word i v = e.trap u 0x01 word := by
  rcases h with h | ⟨hlo, hhi⟩
  · unfold readCr at h
    dsimp only at h
    split at h
    all_goals try contradiction
    unfold writeCr
    dsimp only
    split
    all_goals try contradiction
    rfl
  · interval_cases i <;> rfl

/-- The tags of the vector registers with those of the registers that p names cleared (R86). -/
def clearTags (p : Nat → Bool) (m : SMap Datum) : SMap Datum :=
  (List.range 32).foldl (fun t i => if p i then sset 0 t i 0 else t) m

theorem spares_vtags (g : SMap Datum → SMap Datum) : SparesContexts fun x => { x with vtags := g x.vtags } :=
  ⟨fun _ _ => rfl, fun _ => ⟨rfl, rfl⟩⟩

/-- Tags cleared one by one. -/
theorem sget_clearTags (p : Nat → Bool) (n : Nat) (m : SMap Datum) (i : Nat) :
    sget 0 ((List.range n).foldl (fun t j => if p j then sset 0 t j 0 else t) m) i =
      if i < n ∧ p i = true then 0 else sget 0 m i := by
  induction n with
  | zero => simp
  | succ n ih =>
    rw [List.range_succ, List.foldl_append, List.foldl_cons, List.foldl_nil]
    by_cases hp : p n = true
    · rw [if_pos hp, sget_sset]
      by_cases hin : i = n
      · subst hin; simp [hp]
      · have hlt : i < n + 1 ↔ i < n := by omega
        rw [if_neg hin, ih]
        simp only [hlt]
    · rw [if_neg hp, ih]
      by_cases hin : i = n
      · subst hin; simp [hp]
      · have hlt : i < n + 1 ↔ i < n := by omega
        simp only [hlt]

section
variable {e : Enc} {s : State} (hi : Issues { cls := 1, op := 9, ra := true, imm := 0xFF } e s) (himm : e.imm = 0x07)
include hi himm

/-- A write of VALLOC claims exactly the registers named, unless another context holds one (R83, R86). -/
theorem exec_wrcr_valloc {m clash : W32} (hm : m = ((e.x s).s e.ra).extractLsb' 0 32)
    (hclash : clash = m &&& othersOwn (getCore s e.core) e.ctx) :
    exec (.wrcr e) s = .next (if clash ≠ 0 then e.trap (issued e s) 0x05 (clash.zeroExtend 64) else
      retire (modCtx (modCore (issued e s) e.core fun x =>
          { x with vtags := clearTags (fun i => (m &&& ~~~(e.x s).valloc).getLsbD i) x.vtags }) e.core e.ctx
        fun y => { y with valloc := m }) e.core e.ctx) := by
  have hval : ((getCore (issued e s) e.core).ctx e.ctx).valloc = (e.x s).valloc := valloc_issued hi
  rw [exec_wrcr hi, himm]
  show Host.Outcome.next (writeValloc (issued e s) e ((e.x s).s e.ra)) = _
  rw [writeValloc]
  dsimp only
  rw [othersOwn_issued hi, hval, ← hm, ← hclash]
  rfl

end

/-- Settles O9: RDCR through `readCr`, WRCR through the arms of `writeCr`, and `exec_wrcr_valloc`. -/
theorem controlRegistersReadAndWrite : Obligations.ControlRegistersReadAndWrite := by
  refine ⟨fun e s hi => ?_, fun e s hi => ?_, fun e s hi himm => ?_⟩
  · intro x y
    refine ⟨fun r hr himm => rdcr_writesS hi ?_, fun hnone => traps_of hi ((exec_rdcr hi).trans (by rw [hnone]; rfl))⟩
    rw [himm]
    clear himm
    revert r
    simp only [List.forall_mem_cons, List.not_mem_nil, false_imp_iff, implies_true, and_true]
    and_intros <;> rfl
  · intro x v
    refine ⟨fun r hr himm => ?_, fun i hi' himm => goesOn_of hi ((exec_wrcr hi).trans ?_), fun hbad => ?_⟩
    · simp only [List.mem_cons, List.not_mem_nil, or_false] at hr
      rcases hr with rfl | rfl | rfl | rfl | rfl | rfl | rfl
      · exact wrcr_writesCtx hi (f := fun y => { y with nflags := y.nflags &&& ~~~v.extractLsb' 0 32 }) (fun _ _ _ => rfl)
          rfl rfl (by rw [himm]; rfl)
      · exact wrcr_writesCtx hi (f := fun y => { y with tstart := (v.extractLsb' 0 30).zeroExtend 64 }) (fun _ _ _ => rfl)
          rfl rfl (by rw [himm]; rfl)
      · exact wrcr_writesCtx hi (f := fun y => { y with mseed := v }) (fun _ _ _ => rfl) rfl rfl (by rw [himm]; rfl)
      · exact wrcr_writesCtx hi (f := fun y => { y with mstep := v.extractLsb' 0 32 }) (fun _ _ _ => rfl) rfl rfl
          (by rw [himm]; rfl)
      · exact wrcr_writesCtx hi (f := fun y => { y with mtid := v.extractLsb' 0 32 }) (fun _ _ _ => rfl) rfl rfl
          (by rw [himm]; rfl)
      · exact wrcr_writesCtx hi (f := fun y => { y with mkeep := v }) (fun _ _ _ => rfl) rfl rfl (by rw [himm]; rfl)
      · exact wrcr_writesCtx hi (f := fun y => { y with upos := v.extractLsb' 0 32 }) (fun _ _ _ => rfl) rfl rfl
          (by rw [himm]; rfl)
    · rw [himm]
      clear himm
      revert i
      simp only [List.forall_mem_cons, List.not_mem_nil, false_imp_iff, implies_true, and_true]
      and_intros <;> rfl
    · refine traps_of hi ((exec_wrcr hi).trans ?_)
      rw [writeCr_unlisted hbad]
      rfl
  · intro m others
    have hx := exec_wrcr_valloc hi himm (m := m) (clash := m &&& others) rfl rfl
    refine ⟨fun hclash => traps_of hi (hx.trans (by rw [if_pos hclash])), fun hfree => ?_⟩
    rw [if_neg (not_not.mpr hfree)] at hx
    have ha := (((acted_issued hi).modCore (spares_vtags (clearTags fun i => (m &&& ~~~(e.x s).valloc).getLsbD i))).modCtx
      (f := fun y => { y with valloc := m }) fun _ _ _ => rfl).retire (issues_st hi) (issues_wait hi)
    refine ⟨_, hx, ha.only, ha.memory, ha.ctx, ha.others, ?_, fun i => ?_⟩
    · rw [ha.site]
    · rw [ha.site]
      refine (sget_clearTags _ _ _ i).trans (if_congr ?_ rfl rfl)
      simp +contextual [BitVec.getLsbD_and, BitVec.getLsbD_not]

/-! ### Ends of programs (R61, R67, R83, R98, R129) -/

theorem unlessHeld_of_none {e : Enc} {s : State} (h : (e.x s).heldSt = []) (f : State → State) : unlessHeld e s f = f s := by
  rw [unlessHeld, heldAtPort, h]

theorem heldAtPort_of_none {e : Enc} {s : State} (h : (e.x s).heldSt = []) : heldAtPort s e = none := by
  rw [heldAtPort, h]

section
variable {e : Enc} {s t : State} {x : Ctx} {y : Site}

/-- A context that becomes IDLE gives back its registers, its arrays and the Cairn, and the slot where it has it. -/
theorem Acted.becomeIdle (h : Acted e s t x y) :
    Acted e s (Machine.becomeIdle t e.core e.ctx)
      { x with st := .idle, wait := .none, valloc := 0, town := 0, ended := true }
      { y with
        tiles := y.tiles.emptyArrs x.town
        lastSlot := if x.st = .issuing then e.ctx else y.lastSlot
        cairn := { y.cairn with owner := if y.cairn.owner = some e.ctx then none else y.cairn.owner } } := by
  have hctx : (getCore t e.core).ctx e.ctx = _ := h.ctx
  rw [Machine.becomeIdle]
  refine h.modSite ?_ ?_ ?_ ?_
  · exact fun z => ⟨rfl, rfl⟩
  · dsimp only
    rw [ctx_modCtx_same]
    show ({ (getCore t e.core).ctx e.ctx with st := _, wait := _, valloc := _, town := _, ended := _ } : Ctx) = _
    rw [hctx]
  · exact fun z j hj => ctx_modCtx_ne _ _ hj
  · dsimp only [Site.modCtx]
    rw [hctx, h.site]

end

section
variable {e : Enc} {s : State}

theorem tileBusy_issued {h : Shape} (hi : Issues h e s) :
    tileBusy (getCore (issued e s) e.core) e.ctx = tileBusy (getCore s e.core) e.ctx := by
  rw [tileBusy, tiles_issued hi, tileBusy]

theorem exec_halt (hi : Issues { cls := 1, op := 0x0B, ra := true } e s) (hh : (e.x s).heldSt = [])
    (hb : tileBusy (getCore s e.core) e.ctx = false) :
    exec (.halt e) s = .next (becomeIdle (modCtx (issued e s) e.core e.ctx fun y =>
      { y with exitCode := (e.x s).s e.ra, pc := y.pc + 8 }) e.core e.ctx) := by
  show execHalt e s = _
  rw [execHalt, issue_next hi, orWait, attHalt, heldAtPort_of_none ((heldSt_issued hi).trans hh), tileBusy_issued hi, hb,
    s_issued hi]
  rfl

theorem exec_yield (hi : Issues { cls := 1, op := 0x0A } e s) (hh : (e.x s).heldSt = []) :
    exec (.yield e) s = .next (modCore (modCtx (issued e s) e.core e.ctx fun y => { y with pc := y.pc + 8, st := .ready })
      e.core fun x => { x with lastSlot := e.ctx }) := by
  show execYield e s = _
  rw [execYield, issue_next hi, unlessHeld_of_none ((heldSt_issued hi).trans hh)]

end

/-- Settles O10: TRAP through `traps_of`, YIELD and HALT through what each does to its context and its site. -/
theorem programEnds : Obligations.ProgramEnds := by
  refine fun e s => ⟨fun hi => traps_of hi ?_, fun hi hh => ?_, fun hi hh hb => ?_⟩
  · show execSwTrap e s = _
    rw [execSwTrap, issue_next hi]
  · have ha := ((acted_issued hi).modCtx (f := fun y => { y with pc := y.pc + 8, st := .ready }) fun _ _ _ => rfl).modCore
      (f := fun x => { x with lastSlot := e.ctx }) ⟨fun _ _ => rfl, fun _ => ⟨rfl, rfl⟩⟩
    exact ⟨_, exec_yield hi hh, ⟨ha.only, ha.memory, ha.site, ha.others⟩, ha.ctx⟩
  · have ha := ((acted_issued hi).modCtx
      (f := fun y => { y with exitCode := (e.x s).s e.ra, pc := y.pc + 8 }) fun _ _ _ => rfl).becomeIdle
    refine ⟨_, exec_halt hi hh hb, ha.only, ha.memory, ha.ctx, ha.others, ?_, ?_, ?_⟩ <;> rw [ha.site]
    · dsimp only
      split
      · simp
      · assumption
    · exact if_pos (issues_st hi)
    · rfl

/-! ### The issue slot (R59 to R61) -/

/-- Of one core's site one context has changed. -/
theorem modCtx_frame (s : State) (c k : Nat) (f : Ctx → Ctx) :
    getCtx (modCtx s c k f) c k = f (getCtx s c k) ∧ (∀ j, j ≠ k → getCtx (modCtx s c k f) c j = getCtx s c j) ∧
    SameMemory s (modCtx s c k f) :=
  ⟨getCtx_modCtx_same .., fun _ hj => getCtx_modCtx_ne _ _ _ hj, sameMemory_modCtx ..⟩

theorem getCtx_lastSlot (s : State) (c k j : Nat) : getCtx (modCore s c fun x => { x with lastSlot := k }) c j = getCtx s c j := by
  rw [getCtx, getCore_modCore_same]; rfl

section
variable {c k : Nat} {s : State} (hr : coreRuns s c = true) (hk : k < 4)
include hr

/-- The quantum of the issuing context ends while another context is READY. -/
theorem exec_quantumExpiry (hk : k < 4) (hst : (getCtx s c k).st = .issuing)
    (hfirst : ∀ j, j < k → (getCtx s c j).st ≠ .issuing) (hq : 64 ≤ (getCtx s c k).quantum)
    (ho : otherReady (getCore s c) k = true) :
    exec (.quantumExpiry c) s = .next (modCore (modCtx s c k fun y => { y with st := .ready, quantum := 0 }) c
      fun x => { x with lastSlot := k }) := by
  have hfind : (List.range 4).find? (fun j => ((getCore s c).ctx j).st = CtxSt.issuing) = some k := by
    rw [List.find?_range_eq_some]
    have hst' : ((getCore s c).ctx k).st = .issuing := hst
    refine ⟨by simp [hst'], List.mem_range.mpr hk, fun j hj => ?_⟩
    have hne : ((getCore s c).ctx j).st ≠ .issuing := hfirst j hj
    simp [hne]
  have hq' : 64 ≤ ((getCore s c).ctx k).quantum := hq
  show execQuantumExpiry c s = _
  rw [execQuantumExpiry, hfind]
  simp only [hr, hq', ho, decide_true, Bool.and_self, if_true]
  rfl

theorem exec_stallBecomesSwitchEligible (hk : k < 4) (hst : (getCtx s c k).st = .issuing) (hw : (getCtx s c k).wait ≠ .none) :
    exec (.stallBecomesSwitchEligible c k) s = .next (block s c k true (getCtx s c k).wait) := by
  show execStallBecomesSwitchEligible c k s = _
  simp [execStallBecomesSwitchEligible, hr, hk, hst, hw, done]

theorem exec_contextSelect (hf : slotFree (getCore s c) = true) (hn : nextReady (getCore s c) = some k) :
    exec (.contextSelect c) s = .next (modCtx s c k fun y => { y with st := .issuing, quantum := 0 }) := by
  show execContextSelect c s = _
  simp [execContextSelect, hr, hf, hn, done]

end

theorem lastSlot_giveUp {s : State} {c k : Nat} (h : (getCtx s c k).st = .issuing) : (getCore (giveUp s c k) c).lastSlot = k := by
  have hst : ((getCore s c).ctx k).st = .issuing := h
  simp [giveUp, hst]

/-- Settles O11: each event is one update of a context, with the slot that gave up noted. -/
theorem issueSlotMoves : Obligations.IssueSlotMoves := by
  refine fun c k s hr hk => ⟨fun hst hfirst hq ho => ?_, fun hst hw => ?_, fun hf hn => ?_⟩
  · obtain ⟨hctx, hothers, hmem⟩ := modCtx_frame s c k fun y => { y with st := .ready, quantum := 0 }
    refine ⟨_, exec_quantumExpiry hr hk hst hfirst hq ho, ?_, ?_, fun j hj => ?_, hmem.trans ?_⟩
    · rw [getCtx_lastSlot, hctx]
    · rw [getCore_modCore_same]
    · rw [getCtx_lastSlot, hothers j hj]
    · exact sameMemory_modCore _ _ fun _ => ⟨rfl, rfl⟩
  · obtain ⟨hctx, hothers, hmem⟩ := modCtx_frame (giveUp s c k) c k fun y => { y with st := .waiting, wait := (getCtx s c k).wait }
    refine ⟨_, exec_stallBecomesSwitchEligible hr hk hst hw, ?_, ?_, fun j hj => ?_, (sameMemory_giveUp s c k).trans ?_⟩
    · exact hctx.trans (by rw [getCtx_giveUp])
    · show (getCore (modCtx (giveUp s c k) c k _) c).lastSlot = k
      rw [modCtx, getCore_modCore_same]
      exact lastSlot_giveUp hst
    · exact (hothers j hj).trans (getCtx_giveUp ..)
    · exact hmem
  · obtain ⟨hctx, hothers, hmem⟩ := modCtx_frame s c k fun y => { y with st := .issuing, quantum := 0 }
    exact ⟨_, exec_contextSelect hr hf hn, hctx, hothers, hmem⟩

end Sys2Proof.Machine
end

section
/-!
PROOFS. Loads and stores (R71, R182 to R185, R188), and the arrival of load data (R60, R62, R251).
-/

namespace Sys2Proof.Machine

@[simp] theorem pc_setS (x : Ctx) (r : BitVec 5) (v : W64) : (x.setS r v).pc = x.pc := by rw [setS_eq]
@[simp] theorem st_setS (x : Ctx) (r : BitVec 5) (v : W64) : (x.setS r v).st = x.st := by rw [setS_eq]
@[simp] theorem wait_setS (x : Ctx) (r : BitVec 5) (v : W64) : (x.setS r v).wait = x.wait := by rw [setS_eq]

theorem leBytes_length (n v : Nat) : (leBytes n v).length = n := by
  induction n generalizing v with
  | zero => rfl
  | succ n ih => rw [leBytes, List.length_cons, ih]

/-! ### What an issued instruction finds in the memories and the mesh -/

section
variable {h : Shape} {e : Enc} {s : State} (hi : Issues h e s)
include hi

/-- Of every site an issued instruction has changed the contexts at most. -/
theorem getSite_issued (n : Nat) : getSite (issued e s) n = { getSite s n with ctxs := (getSite (issued e s) n).ctxs } := by
  by_cases hn : n = csite s e.core
  · have hsite := (acted_issued hi).site
    rw [getCore, csite_issued hi, ← hn, getCore, ← hn] at hsite
    exact hsite
  · obtain ⟨-, -, -, hsites⟩ := (acted_issued hi).only
    rw [hsites n hn]

theorem mesh_issued : (issued e s).mesh = s.mesh := by rw [issued_with hi]
theorem far_issued : (issued e s).far = s.far := by rw [issued_with hi]
theorem gate_state_issued : (issued e s).gate = s.gate := by rw [issued_with hi]
theorem twin_issued : (issued e s).twin = s.twin := by rw [issued_with hi]

theorem spotOf_issued (c : Nat) (sp : Spaces) (a : W64) (n : Nat) : spotOf (issued e s) c sp a n = spotOf s c sp a n := by
  rw [issued_with hi]; rfl

theorem isLocal_issued (c : Nat) (x : Spot) : isLocal (issued e s) c x = isLocal s c x := by
  cases x <;> simp only [isLocal, csite_issued hi]

theorem canInject_issued (c vc : Nat) : canInject (issued e s) c vc = canInject s c vc := by rw [issued_with hi]; rfl
theorem farFull_issued (c : Nat) (x : Spot) : farFull (issued e s) c x = farFull s c x := by rw [issued_with hi]; rfl
theorem storeFlying_issued (c k : Nat) : storeFlying (issued e s) c k = storeFlying s c k := by rw [issued_with hi]; rfl

theorem coreFlit_issued (c : Nat) (x : Spot) (a : W64) (wr : Bool) (bs : List Byte) (w : FlitFor) :
    coreFlit (issued e s) c x a wr bs w = coreFlit s c x a wr bs w := by
  rw [issued_with hi]; rfl

theorem spotRead_issued (c : Nat) (x : Spot) (n : Nat) : spotRead (issued e s) c x n = spotRead s c x n := by
  have hinj : injBlocked (issued e s) c = injBlocked s c := by rw [issued_with hi]; rfl
  have hfar : farRead (issued e s) = farRead s := by rw [issued_with hi]; rfl
  cases x with
  | near off => rw [spotRead, spotRead, csite_issued hi, nearRead, getSite_issued hi, far_issued hi]; rfl
  | terr sp site off =>
    have hread : terrRead (issued e s) site off n = terrRead s site off n := by
      rw [terrRead, getSite_issued hi, far_issued hi]; rfl
    have hlost : terrLost (issued e s) site = terrLost s site := by rw [terrLost, getSite_issued hi]; rfl
    rw [spotRead, spotRead, csite_issued hi, hread, hlost, hinj]
  | far fa => rw [spotRead, spotRead, hinj, hfar, coreParcelNum_issued hi]

theorem engRead_issued_eq (c : Nat) (sp : Spaces) (a : W64) (n : Nat) : engRead (issued e s) c sp a n = engRead s c sp a n := by
  rw [engRead, spotOf_issued hi]
  cases hx : spotOf s c sp a n with
  | none => rw [engRead, hx]
  | some x => rw [engRead, hx]; exact spotRead_issued hi ..

theorem addrAI_issued : addrAI (e.x (issued e s)) e = (e.x s).a e.ra + e.imm.signExtend 64 := by
  rw [addrAI, a_issued hi]; rfl

end

/-! ### Values of loaded bytes (R12, R71) -/

theorem leNat_lt (bs : List Byte) : leNat bs < 2 ^ (8 * bs.length) := by
  induction bs with
  | nil => simp [leNat]
  | cons b t ih =>
    have hb := b.isLt
    rw [leNat, List.length_cons, Nat.mul_succ, Nat.pow_add]
    omega

/-- The sign extension of a number of w bits, as the model forms it. -/
theorem signExtend_ofNat {w v : Nat} (hw64 : w ≤ 64) (hv : v < 2 ^ w) :
    (BitVec.ofNat w v).signExtend 64 =
      if 2 ^ (w - 1) ≤ v then BitVec.ofNat 64 (v + 2 ^ 64 - 2 ^ w) else BitVec.ofNat 64 v := by
  have hpow : 2 ^ w ≤ 2 ^ 64 := Nat.pow_le_pow_right (by decide) hw64
  have hmsb : (BitVec.ofNat w v).msb = decide (2 ^ (w - 1) ≤ v) := by
    rw [BitVec.msb_eq_decide, BitVec.toNat_ofNat, Nat.mod_eq_of_lt hv]
  apply BitVec.eq_of_toNat_eq
  rw [BitVec.toNat_signExtend, hmsb, BitVec.toNat_setWidth, BitVec.toNat_ofNat, Nat.mod_eq_of_lt hv]
  by_cases h : 2 ^ (w - 1) ≤ v
  · simp only [h, decide_true, if_true, BitVec.toNat_ofNat]
    omega
  · simp only [h, decide_false, if_false, BitVec.toNat_ofNat, Bool.false_eq_true]
    omega

/-- A loaded value as the spec reads it. -/
theorem loadVal_eq {z : Nat} {sext : Bool} {bs : List Byte} (hz : z < 4) (hl : bs.length = 2 ^ z) :
    loadVal (2 ^ z) sext bs =
      if sext then (BitVec.ofNat (8 * 2 ^ z) (leNat bs)).signExtend 64 else BitVec.ofNat 64 (leNat bs) := by
  have hlt := leNat_lt bs
  rw [hl] at hlt
  have hw : 8 * 2 ^ z ≤ 64 := by interval_cases z <;> decide
  cases sext with
  | false => simp [loadVal]
  | true =>
    rw [if_pos rfl, signExtend_ofNat hw hlt]
    simp [loadVal]

/-! ### Local loads, and the traps of loads and stores (R66, R71, R182, R183) -/

theorem length_of_terrRead {s : State} {site off n : Nat} {bs : List Byte} (h : terrRead s site off n = .ok bs) :
    bs.length = n := by
  unfold terrRead at h
  dsimp only at h
  split at h
  · cases h; simp
  · cases h

theorem length_of_spotRead {s : State} {c : Nat} {x : Spot} {n : Nat} {bs : List Byte} (hl : isLocal s c x = true)
    (h : spotRead s c x n = .ok bs) : bs.length = n := by
  cases x with
  | near off => exact length_of_nearRead h
  | terr sp site off =>
    rw [isLocal, decide_eq_true_iff] at hl
    rw [spotRead, if_pos hl] at h
    exact length_of_terrRead h
  | far fa => exact absurd hl (by simp [isLocal])

theorem accSize_of_lt {e : Enc} {z : Nat} (h : (e.md.extractLsb' 1 3).toNat = z) (hz : z < 4) : accSize e = some (2 ^ z) := by
  simp only [accSize, h, if_pos hz]

theorem accSize_of_ge {e : Enc} {z : Nat} (h : (e.md.extractLsb' 1 3).toNat = z) (hz : 4 ≤ z) : accSize e = none := by
  simp only [accSize, h, if_neg (Nat.not_lt.mpr hz)]

theorem two_pow_eq_eight {z : Nat} : 2 ^ z = 8 ↔ z = 3 := by
  constructor
  · intro h
    exact Nat.pow_right_injective (le_refl 2) (h.trans (by decide : 8 = 2 ^ 3))
  · rintro rfl; rfl

/-- The shapes of LD and ST (Table 3-8). -/
def ldShape : Shape := { cls := 0, op := 0x14, rd := true, ra := true, aA := true, md := 0x1E, imm := ~~~0 }
def stShape : Shape := { cls := 0, op := 0x15, ra := true, rb := true, aA := true, md := 0x0E, imm := ~~~0 }

section
variable {e : Enc} {s : State} {z : Nat}

theorem exec_ld (hi : Issues ldShape e s) : exec (.ld e) s = .next (match accSize e with
    | none => e.trap (issued e s) 0x01 (encWord ldShape e)
    | some n => if n = 8 ∧ e.md.getLsbD 4 then e.trap (issued e s) 0x01 (encWord ldShape e) else ldAt e n (issued e s)) := by
  show execLd e s = _
  rw [execLd]
  exact issue_next hi _

theorem exec_st (hi : Issues stShape e s) : exec (.st e) s = .next (match accSize e with
    | none => e.trap (issued e s) 0x01 (encWord stShape e)
    | some n => stAt e n (issued e s)) := by
  show execSt e s = _
  rw [execSt]
  exact issue_next hi _

/-- A load of a legal size. -/
theorem exec_ld_size (hi : Issues ldShape e s) (hz : (e.md.extractLsb' 1 3).toNat = z) (h4 : z < 4)
    (hs : z = 3 → e.md.getLsbD 4 = false) : exec (.ld e) s = .next (ldAt e (2 ^ z) (issued e s)) := by
  have hnot : ¬(2 ^ z = 8 ∧ e.md.getLsbD 4 = true) := by
    rintro ⟨h8, h1⟩
    exact absurd h1 (by rw [hs (two_pow_eq_eight.mp h8)]; decide)
  rw [exec_ld hi, accSize_of_lt hz h4]
  dsimp only
  rw [if_neg hnot]

theorem exec_st_size (hi : Issues stShape e s) (hz : (e.md.extractLsb' 1 3).toNat = z) (h4 : z < 4) :
    exec (.st e) s = .next (stAt e (2 ^ z) (issued e s)) := by
  rw [exec_st hi, accSize_of_lt hz h4]

section
variable {h : Shape} (hi : Issues h e s) (n : Nat)
include hi

/-- A load at the address a[RA] + IMM. -/
theorem ldAt_issued : ldAt e n (issued e s) =
    let a := (e.x s).a e.ra + e.imm.signExtend 64
    if a.toNat % n ≠ 0 then e.trap (issued e s) 0x02 a
    else match spotOf s e.core spAll a n with
      | none => e.trap (issued e s) 0x03 a
      | some x =>
        if isLocal s e.core x then
          match spotRead s e.core x n with
          | .ok bs => wrS e (issued e s) (loadVal n (e.md.getLsbD 4) bs)
          | .error (.unc cls kd num) => uncArith (issued e s) e.core cls kd num a false
          | .error _ => e.trap (issued e s) 0x03 a
        else orWait (attLd n (e.md.getLsbD 4) e) true .ld e (issued e s) := by
  rw [ldAt]
  simp only [addrAI_issued hi, spotOf_issued hi, isLocal_issued hi, spotRead_issued hi] <;> rfl

theorem stAt_issued : stAt e n (issued e s) =
    let a := (e.x s).a e.ra + e.imm.signExtend 64
    if a.toNat % n ≠ 0 then e.trap (issued e s) 0x02 a
    else match spotOf s e.core spAll a n with
      | none => e.trap (issued e s) 0x03 a
      | some x =>
        if isLocal s e.core x then
          match engWrite (issued e s) e.core 0 spAll a (leBytes n ((e.x s).s e.rb).toNat) with
          | .ok s => retire s e.core e.ctx
          | .error _ => e.trap (issued e s) 0x03 a
        else orWait (attSt n e) true .st e (issued e s) := by
  rw [stAt]
  simp only [addrAI_issued hi, spotOf_issued hi, isLocal_issued hi, s_issued hi] <;> rfl

end

end

/-- Settles O12: the branches of a load and a store in the order of their checks. -/
theorem localLoadsAndTraps : Obligations.LocalLoadsAndTraps := by
  refine ⟨fun e s z x bs hi => ?_, fun e s z => ?_⟩
  · intro a hz h4 h3 hal hspot hloc hread
    have hx := exec_ld_size hi hz h4 h3
    rw [ldAt_issued hi] at hx
    dsimp only at hx
    rw [if_neg (not_not.mpr hal), hspot] at hx
    dsimp only at hx
    rw [if_pos hloc, hread] at hx
    dsimp only at hx
    rw [loadVal_eq h4 (length_of_spotRead hloc hread)] at hx
    exact writesS_of hi hx
  · intro a ldS stS hz
    refine ⟨fun hi hres => ?_, fun hi h4 => ?_, fun h4 hmis => ⟨fun hi h3 => ?_, fun hi => ?_⟩,
      fun h4 hal hspot => ⟨fun hi h3 => ?_, fun hi => ?_⟩⟩
    · refine traps_of hi ((exec_ld hi).trans ?_)
      rcases Nat.lt_or_ge z 4 with h4 | h4
      · obtain ⟨rfl, hsx⟩ := hres.resolve_left (Nat.not_le.mpr h4)
        rw [accSize_of_lt hz h4]
        dsimp only
        rw [if_pos ⟨rfl, hsx⟩]
        rfl
      · rw [accSize_of_ge hz h4]
        rfl
    · refine traps_of hi ((exec_st hi).trans ?_)
      rw [accSize_of_ge hz h4]
      rfl
    · refine traps_of hi ((exec_ld_size hi hz h4 h3).trans ?_)
      rw [ldAt_issued hi]
      exact congrArg _ (if_pos hmis)
    · refine traps_of hi ((exec_st_size hi hz h4).trans ?_)
      rw [stAt_issued hi]
      exact congrArg _ (if_pos hmis)
    · refine traps_of hi ((exec_ld_size hi hz h4 h3).trans ?_)
      rw [ldAt_issued hi]
      dsimp only
      rw [if_neg (not_not.mpr hal), hspot]
    · refine traps_of hi ((exec_st_size hi hz h4).trans ?_)
      rw [stAt_issued hi]
      dsimp only
      rw [if_neg (not_not.mpr hal), hspot]

/-! ### Requests that leave the site (R60, R188, R202) -/

theorem sameMemory_inject (s : State) (f : Flit) : SameMemory s (inject s f) := sameMemory_of rfl rfl

/-- A trap changes sites, Gatehouses and registers alone. -/
theorem trap_eq (s : State) (c k cause : Nat) (val : W64) :
    trap s c k cause val = { s with
      sites := (trap s c k cause val).sites, gate := (trap s c k cause val).gate, regs := (trap s c k cause val).regs } := by
  unfold trap trapAt
  dsimp only
  split
  · rfl
  · rw [pclRec_eq]; rfl

/-- A context that stalls and gives up the slot (R60). -/
theorem block_switch (s : State) (c k : Nat) (w : Wait) :
    SameMemory s (block s c k true w) ∧ (block s c k true w).mesh = s.mesh ∧
    getCtx (block s c k true w) c k = { getCtx s c k with st := .waiting, wait := w } :=
  ⟨(sameMemory_giveUp s c k).trans (sameMemory_modCtx ..), rfl, by
    rw [block, if_pos rfl, getCtx_modCtx_same, getCtx_giveUp]⟩

/-- An instruction that stalls, switch-eligible, after what changes neither memory nor its context. -/
theorem waits_of_switch {i : Instr} {e : Enc} {s u : State} {w : Wait} (hmem : SameMemory s u) (hctx : CtxIs e u (e.x s))
    (hx : exec i s = .next (block u e.core e.ctx true w)) : Waits i e s true w := by
  obtain ⟨hbm, -, hbc⟩ := block_switch u e.core e.ctx w
  refine ⟨_, hx, hmem.trans hbm, ?_⟩
  have hc : getCtx u e.core e.ctx = _ := hctx
  unfold CtxIs Enc.x
  rw [hbc, hc]
  rfl

/-- An instruction that stalls, switch-eligible, without having done anything. -/
theorem waits_of_issued {i : Instr} {h : Shape} {e : Enc} {s : State} {w : Wait} (hi : Issues h e s)
    (hx : exec i s = .next (block (issued e s) e.core e.ctx true w)) : Waits i e s true w :=
  waits_of_switch (acted_issued hi).memory (issued_ctx hi) hx

/-- A context that goes on after what changes neither memory nor the context. -/
theorem retire_after {h : Shape} {e : Enc} {s u : State} (hi : Issues h e s) (hmem : SameMemory s u) (hctx : CtxIs e u (e.x s)) :
    SameMemory s (retire u e.core e.ctx) ∧ CtxIs e (retire u e.core e.ctx) { e.x s with pc := (e.x s).pc + 8 } := by
  have hst : (e.x u).st = .issuing := (hctx.view (·.st) fun _ _ _ => rfl).trans (issues_st hi)
  have hw : (e.x u).wait = .none := (hctx.view (·.wait) fun _ _ _ => rfl).trans (issues_wait hi)
  refine ⟨hmem.trans (sameMemory_modCtx ..), ?_⟩
  unfold CtxIs at hctx ⊢
  rw [retire_ctx hst hw, hctx]

/-- The request of an access of core e.core as it leaves, with its place in the order of leaving (R195). -/
def leaves (s : State) (f : Flit) : Mesh := { s.mesh with born := s.mesh.born + 1, net := s.mesh.net ++ [{ f with born := s.mesh.born }] }

theorem ctxIs_inject {e : Enc} {t : State} {x : Ctx} (h : CtxIs e t x) (f : Flit) : CtxIs e (inject t f) x := h

theorem mesh_retire (s : State) (c k : Nat) : (retire s c k).mesh = s.mesh := rfl

theorem mesh_inject (s : State) (f : Flit) : (inject s f).mesh = leaves s f := rfl

section
variable {e : Enc} {s : State} {x : Spot} {n : Nat} {h : Shape} (hi : Issues h e s)
include hi

/-- A load's request leaves (R194, R202, R243). -/
theorem attLd_sends {sext : Bool} (hspot : spotOf s e.core spAll ((e.x s).a e.ra + e.imm.signExtend 64) n = some x)
    (hheld : (e.x s).heldSt = []) (hfull : farFull s e.core x = false) (hinj : canInject s e.core 0 = true) :
    let a := (e.x s).a e.ra + e.imm.signExtend 64
    attLd n sext e (issued e s) = some (block (inject (issued e s) (coreFlit s e.core x a false [] (.load e.core e.ctx n)))
      e.core e.ctx true (.load e.rd n sext a)) := by
  simp only [attLd, addrAI_issued hi, spotOf_issued hi, hspot, heldSt_issued hi, hheld, farFull_issued hi, hfull,
    canInject_issued hi, hinj, coreFlit_issued hi]
  simp

/-- A store's request leaves, and the program goes on. -/
theorem attSt_sends (hspot : spotOf s e.core spAll ((e.x s).a e.ra + e.imm.signExtend 64) n = some x)
    (hheld : (e.x s).heldSt = []) (hfull : farFull s e.core x = false) (hinj : canInject s e.core 0 = true) :
    let a := (e.x s).a e.ra + e.imm.signExtend 64
    attSt n e (issued e s) = some (retire (inject (issued e s) (coreFlit s e.core x a true (leBytes n ((e.x s).s e.rb).toNat)
      (.store e.core e.ctx (e.x s).pc a))) e.core e.ctx) := by
  simp only [attSt, addrAI_issued hi, spotOf_issued hi, hspot, heldSt_issued hi, hheld, farFull_issued hi, hfull,
    canInject_issued hi, hinj, coreFlit_issued hi, s_issued hi, pc_issued hi]
  simp

end

/-! ### The data of a load arrives (R62, R251) -/

theorem findIdx?_first {α : Type} {p : α → Bool} {pre post : List α} {x : α} (hpre : ∀ y ∈ pre, p y = false) (hx : p x = true) :
    (pre ++ x :: post).findIdx? p = some pre.length := by
  rw [List.findIdx?_eq_some_iff_getElem]
  refine ⟨by simp, by simpa using hx, fun j hj => ?_⟩
  rw [List.getElem_append_left hj]
  simp [hpre _ (List.getElem_mem hj)]

theorem getElem?_first {α : Type} (pre post : List α) (x : α) : (pre ++ x :: post)[pre.length]? = some x := by simp

theorem eraseIdx_first {α : Type} (pre post : List α) (x : α) : (pre ++ x :: post).eraseIdx pre.length = pre ++ post := by
  rw [List.eraseIdx_append_of_length_le (le_refl _)]; simp

/-- The load of a context is answered by the first flit that answers it. -/
theorem exec_loadDataArrival {c k : Nat} {s : State} {pre post : List Flit} {f : Flit} {rd : BitVec 5} {z : Nat} {sext : Bool}
    {a : W64} (hnet : s.mesh.net = pre ++ f :: post) (hpre : ∀ g ∈ pre, answersLoad c k g = false)
    (hf : answersLoad c k f = true) (hw : (getCtx s c k).wait = .load rd z sext a) :
    exec (.loadDataArrival c k) s = .next (wake (if f.refused then trap (dropFlit s pre.length) c k 0x03 a
      else retire (modCtx (dropFlit s pre.length) c k fun y => y.setS rd (loadVal z sext f.payload)) c k) c) := by
  have hw' : (getCtx (dropFlit s pre.length) c k).wait = .load rd z sext a := hw
  show execLoadDataArrival c k s = _
  rw [execLoadDataArrival, hnet, findIdx?_first hpre hf]
  dsimp only
  rw [getElem?_first]
  dsimp only
  rw [hw']
  dsimp only
  split <;> rfl

/-- A waiting context that goes on is READY, one instruction further. -/
theorem getCtx_retire_waiting {s : State} {c k : Nat} {f : Ctx → Ctx} (h : (f (getCtx s c k)).st = .waiting) :
    getCtx (retire (modCtx s c k f) c k) c k = { f (getCtx s c k) with pc := (f (getCtx s c k)).pc + 8, wait := .none, st := .ready } := by
  rw [retire, getCtx_modCtx_same, getCtx_modCtx_same, h]
  rfl

/-- Settles O13: a load that its site cannot serve leaves as a request (`attLd_sends`), and the answer ends the wait. -/
theorem remoteLoads : Obligations.RemoteLoads := by
  refine ⟨fun e s z x hi => ?_, fun c k s pre post f rd z sext a hnet hpre hf hw hst => ?_⟩
  · intro a hz h4 h3 hal hspot hloc hheld hfull hinj
    have hx := exec_ld_size hi hz h4 h3
    rw [ldAt_issued hi] at hx
    dsimp only at hx
    rw [if_neg (not_not.mpr hal), hspot] at hx
    dsimp only at hx
    rw [if_neg (by simp [hloc]), orWait, attLd_sends hi hspot hheld hfull hinj] at hx
    refine ⟨waits_of_switch ?_ ?_ hx, _, hx, ?_⟩
    · exact (acted_issued hi).memory.trans (sameMemory_inject ..)
    · exact ctxIs_inject (issued_ctx hi) _
    · obtain ⟨-, hmesh, -⟩ := block_switch (inject (issued e s) (coreFlit s e.core x a false [] (.load e.core e.ctx (2 ^ z))))
        e.core e.ctx (.load e.rd (2 ^ z) (e.md.getLsbD 4) a)
      rw [hmesh, mesh_inject, leaves, mesh_issued hi]
  · have hx := exec_loadDataArrival hnet hpre hf hw
    have hmesh : (dropFlit s pre.length).mesh = { s.mesh with net := pre ++ post } := by
      rw [dropFlit, hnet, eraseIdx_first]
    cases hr : f.refused <;> rw [hr] at hx
    · refine ⟨_, hx, hmesh, ?_⟩
      have hsame : getCtx (dropFlit s pre.length) c k = getCtx s c k := rfl
      have hgo := getCtx_retire_waiting (s := dropFlit s pre.length) (c := c) (k := k)
        (f := fun y => y.setS rd (loadVal z sext f.payload)) ((st_setS ..).trans hst)
      rw [if_neg Bool.false_ne_true, if_neg Bool.false_ne_true, hgo, hsame, pc_setS]
    · refine ⟨_, hx, ?_, ?_⟩
      · rw [if_pos rfl, trap_eq]; exact hmesh
      · rw [if_pos rfl, if_pos rfl, (trap_cases ..).2]
        rfl

/-! ### Stores at the core's own site (R181, R185, R276) -/

/-- A write of bytes at a spot of the site itself. -/
def Spot.put (sw : Bool) (x : Spot) (bs : List Byte) (y : Site) : Site :=
  match x with
  | .near off => { y with near := mwrN y.near off bs, nearMarks := markValid sw y.nearMarks (unitsOf 1 off bs.length) }
  | .terr _ _ off =>
    { y with
      terr := mwrN y.terr off bs
      terrMarks := markValid sw y.terrMarks
        ((unitsOf 8 off bs.length).filter fun u => off ≤ u * 8 && u * 8 + 8 ≤ off + bs.length) }
  | .far _ => y

/-- The digest words with a contribution (R276). -/
def Site.digest (d : Dig) (y : Site) : Site :=
  { y with cd0 := y.cd0 + d.1, cd1 := y.cd1 + d.2.1, cd2 := y.cd2 + d.2.2.1, cd3 := y.cd3 + d.2.2.2 }

theorem digestWrite_eq (s : State) (c unit : Nat) (a : W64) (bs : List Byte) : digestWrite s c unit a bs =
    modCore s c (Site.digest (writeDigest (srcWord (coreParcelNum s c) unit c) (bs.length / 64 + 2) a bs)) := rfl

theorem spotWrite_local {s : State} {c : Nat} {x : Spot} (h : isLocal s c x = true) (bs : List Byte) :
    spotWrite s c x bs = .ok (modCore s c (x.put s.far.swInit bs)) := by
  cases x with
  | near off => rfl
  | terr sp site off =>
    rw [isLocal, decide_eq_true_iff] at h
    subst h
    rw [spotWrite, if_pos rfl]; rfl
  | far fa => exact absurd h (by simp [isLocal])

/-- The state after a counted write at the core's own site. -/
def localWrite (s : State) (c unit : Nat) (a : W64) (x : Spot) (bs : List Byte) : State :=
  digestWrite (modCore s c (x.put s.far.swInit bs)) c unit a bs

theorem engWrite_local {s : State} {c unit : Nat} {sp : Spaces} {a : W64} {x : Spot} {bs : List Byte}
    (hspot : spotOf s c sp a bs.length = some x) (h : isLocal s c x = true) :
    engWrite s c unit sp a bs = .ok (localWrite s c unit a x bs) := by
  rw [engWrite, engPut, hspot]
  dsimp only
  rw [spotWrite_local h]
  rfl

/-- A write of bytes into a memory changes exactly its bytes. -/
theorem mrd_mwrN (m : List Host.Cell) (off : Nat) (bs : List Byte) (a : Nat) :
    mrd (mwrN m off bs) a = if off ≤ a ∧ a < off + bs.length then bs.getD (a - off) 0 else mrd m a := by
  by_cases h : off ≤ a ∧ a < off + bs.length
  · obtain ⟨i, rfl⟩ := Nat.exists_eq_add_of_le h.1
    have hi : i < bs.length := by omega
    rw [mrd_mwrN_in _ _ _ _ hi, if_pos h]
    simp [List.getD_eq_getElem?_getD, hi]
  · rw [mrd_mwrN_out _ _ _ _ (by omega), if_neg h]

/-- What a write at the core's own site stores. -/
theorem storedAt_put {s : State} {c : Nat} {x : Spot} (h : isLocal s c x = true) (sw : Bool) (bs : List Byte) :
    StoredAt c s (modCore s c (x.put sw bs)) x bs := by
  have hsame (n : Nat) (hn : n ≠ csite s c) : getSite (modCore s c (x.put sw bs)) n = getSite s n := by
    rw [getSite_modCore, if_neg hn]
  have hown : getSite (modCore s c (x.put sw bs)) (csite s c) = x.put sw bs (getSite s (csite s c)) := by
    rw [getSite_modCore, if_pos rfl]
  cases x with
  | near off =>
    refine ⟨fun n a => ?_, fun n a => ?_, fun _ => rfl⟩ <;> by_cases hn : n = csite s c
    · subst hn
      rw [hown]
      simp only [true_and]
      exact mrd_mwrN ..
    · rw [hsame n hn]
      simp only [hn, false_and, if_false]
    · subst hn; rw [hown]; rfl
    · rw [hsame n hn]
  | terr sp site off =>
    rw [isLocal, decide_eq_true_iff] at h
    subst h
    refine ⟨fun n a => ?_, fun n a => ?_, fun _ => rfl⟩ <;> by_cases hn : n = csite s c
    · subst hn; rw [hown]; rfl
    · rw [hsame n hn]
    · subst hn
      rw [hown]
      simp only [true_and]
      exact mrd_mwrN ..
    · rw [hsame n hn]
      simp only [hn, false_and, if_false]
  | far fa => exact absurd h (by simp [isLocal])

theorem StoredAt.trans_same {c : Nat} {s t u : State} {x : Spot} {bs : List Byte} (h : StoredAt c s t x bs) (k : SameMemory t u) :
    StoredAt c s u x bs := by
  obtain ⟨hn, ht, hf⟩ := h
  obtain ⟨kn, kt, kf⟩ := k
  exact ⟨fun n a => (kn n a).trans (hn n a), fun n a => (kt n a).trans (ht n a), fun a => (kf a).trans (hf a)⟩

theorem SameMemory.then_stored {c : Nat} {s t u : State} {x : Spot} {bs : List Byte} (k : SameMemory s t)
    (hc : csite t c = csite s c) (h : StoredAt c t u x bs) : StoredAt c s u x bs := by
  obtain ⟨hn, ht, hf⟩ := h
  obtain ⟨kn, kt, kf⟩ := k
  cases x with
  | near off =>
    exact ⟨fun n a => by rw [hn, kn, hc], fun n a => (ht n a).trans (kt n a), fun a => (hf a).trans (kf a)⟩
  | terr sp site off =>
    exact ⟨fun n a => (hn n a).trans (kn n a), fun n a => by rw [ht, kt], fun a => (hf a).trans (kf a)⟩
  | far fa => exact ⟨fun n a => (hn n a).trans (kn n a), fun n a => (ht n a).trans (kt n a), fun a => (hf a).trans (kf a)⟩

theorem sameMemory_digestWrite (s : State) (c unit : Nat) (a : W64) (bs : List Byte) :
    SameMemory s (digestWrite s c unit a bs) := sameMemory_modCore s c fun _ => ⟨rfl, rfl⟩

theorem localWrite_stored {s : State} {c unit : Nat} {a : W64} {x : Spot} {bs : List Byte} (h : isLocal s c x = true) :
    StoredAt c s (localWrite s c unit a x bs) x bs :=
  (storedAt_put h _ bs).trans_same (sameMemory_digestWrite ..)

theorem put_eq (sw : Bool) (x : Spot) (bs : List Byte) (y : Site) : x.put sw bs y = { y with
    near := (x.put sw bs y).near, nearMarks := (x.put sw bs y).nearMarks, terr := (x.put sw bs y).terr,
    terrMarks := (x.put sw bs y).terrMarks } := by
  cases x <;> rfl

theorem getCore_localWrite (s : State) (c unit : Nat) (a : W64) (x : Spot) (bs : List Byte) :
    getCore (localWrite s c unit a x bs) c =
      Site.digest (writeDigest (srcWord (coreParcelNum s c) unit c) (bs.length / 64 + 2) a bs)
        (x.put s.far.swInit bs (getCore s c)) := by
  rw [localWrite, digestWrite_eq, getCore_modCore_same, getCore_modCore_same]
  rfl

/-- The site y with the contexts, the memories and the digest words of z. -/
def storedSite (y z : Site) : Site :=
  { y with
    ctxs := z.ctxs, near := z.near, nearMarks := z.nearMarks, terr := z.terr, terrMarks := z.terrMarks
    cd0 := z.cd0, cd1 := z.cd1, cd2 := z.cd2, cd3 := z.cd3 }

theorem storedSite_of {y y' z : Site} {l : SMap Ctx} (hy : y = { y' with ctxs := l }) (hz : z = storedSite y z) :
    z = storedSite y' z := by
  rw [hy] at hz; exact hz

theorem getCore_stored (s : State) (c k unit : Nat) (a : W64) (x : Spot) (bs : List Byte) :
    getCore (retire (localWrite s c unit a x bs) c k) c =
      storedSite (getCore s c) (getCore (retire (localWrite s c unit a x bs) c k) c) := by
  rw [retire, modCtx, getCore_modCore_same, getCore_localWrite]
  cases x <;> rfl

theorem csite_localWrite (s : State) (c unit : Nat) (a : W64) (x : Spot) (bs : List Byte) (d : Nat) :
    csite (localWrite s c unit a x bs) d = csite s d := rfl

theorem getSite_localWrite_ne {s : State} {c unit : Nat} {a : W64} {x : Spot} {bs : List Byte} {n : Nat} (hn : n ≠ csite s c) :
    getSite (localWrite s c unit a x bs) n = getSite s n := by
  rw [localWrite, digestWrite_eq, getSite_modCore, csite_modCore, if_neg hn, getSite_modCore, if_neg hn]

theorem getSite_retire_ne {s : State} {c k n : Nat} (hn : n ≠ csite s c) : getSite (retire s c k) n = getSite s n := by
  rw [retire, getSite_modCtx, if_neg hn]

theorem digestOf_retire (s : State) (c k : Nat) : digestOf (retire s c k) c = digestOf s c := by
  rw [digestOf, retire, modCtx, getCore_modCore_same]; rfl

theorem digestOf_localWrite (s : State) (c unit : Nat) (a : W64) (x : Spot) (bs : List Byte) :
    digestOf (localWrite s c unit a x bs) c =
      (digestOf s c).plus (writeDigest (srcWord (coreParcelNum s c) unit c) (bs.length / 64 + 2) a bs) := by
  rw [digestOf, getCore_localWrite, put_eq]
  rfl

theorem getCtx_localWrite (s : State) (c unit : Nat) (a : W64) (x : Spot) (bs : List Byte) (k : Nat) :
    getCtx (localWrite s c unit a x bs) c k = getCtx s c k := by
  rw [getCtx, getCore_localWrite, put_eq]
  rfl

theorem with_modCore {s t : State} (h : t = { s with sites := t.sites, regs := t.regs }) (c : Nat) (f : Site → Site) :
    modCore t c f = { s with sites := (modCore t c f).sites, regs := (modCore t c f).regs } := by
  rw [h]; rfl

theorem with_retire {s t : State} (h : t = { s with sites := t.sites, regs := t.regs }) (c k : Nat) :
    retire t c k = { s with sites := (retire t c k).sites, regs := (retire t c k).regs } := by
  rw [retire, modCtx]; exact with_modCore h c _

theorem with_localWrite {s t : State} (h : t = { s with sites := t.sites, regs := t.regs }) (c unit : Nat) (a : W64) (x : Spot)
    (bs : List Byte) : localWrite t c unit a x bs =
      { s with sites := (localWrite t c unit a x bs).sites, regs := (localWrite t c unit a x bs).regs } := by
  rw [localWrite, digestWrite_eq]
  exact with_modCore (with_modCore h ..) ..

section
variable {h : Shape} {e : Enc} {s : State} (hi : Issues h e s)
include hi

theorem ctxIs_stored (unit : Nat) (a : W64) (x : Spot) (bs : List Byte) :
    CtxIs e (retire (localWrite (issued e s) e.core unit a x bs) e.core e.ctx) { e.x s with pc := (e.x s).pc + 8 } := by
  have hctx : CtxIs e (localWrite (issued e s) e.core unit a x bs) (e.x s) := by
    have hc := issued_ctx hi
    unfold CtxIs Enc.x at hc ⊢
    rw [getCtx_localWrite, ← hc]
  have hst : (e.x (localWrite (issued e s) e.core unit a x bs)).st = .issuing :=
    (hctx.view (·.st) fun _ _ _ => rfl).trans (issues_st hi)
  have hw : (e.x (localWrite (issued e s) e.core unit a x bs)).wait = .none :=
    (hctx.view (·.wait) fun _ _ _ => rfl).trans (issues_wait hi)
  unfold CtxIs at hctx ⊢
  rw [retire_ctx hst hw, hctx]

theorem digestOf_stored (unit : Nat) (a : W64) (x : Spot) (bs : List Byte) :
    digestOf (retire (localWrite (issued e s) e.core unit a x bs) e.core e.ctx) e.core = (digestOf s e.core).plus
      (writeDigest (srcWord (coreParcelNum s e.core) unit e.core) (bs.length / 64 + 2) a bs) := by
  rw [digestOf_retire, digestOf_localWrite, coreParcelNum_issued hi, digestOf, digestOf, (acted_issued hi).site]

theorem getSite_stored_ne (unit : Nat) (a : W64) (x : Spot) (bs : List Byte) {n : Nat} (hn : n ≠ csite s e.core) :
    getSite (retire (localWrite (issued e s) e.core unit a x bs) e.core e.ctx) n = getSite s n := by
  obtain ⟨-, -, -, hsites⟩ := (acted_issued hi).only
  have hn' : n ≠ csite (issued e s) e.core := by rwa [csite_issued hi]
  rw [getSite_retire_ne (by rwa [csite_localWrite]), getSite_localWrite_ne hn', hsites n hn]

theorem storedAt_stored (unit : Nat) (a : W64) {x : Spot} (bs : List Byte) (hloc : isLocal s e.core x = true) :
    StoredAt e.core s (retire (localWrite (issued e s) e.core unit a x bs) e.core e.ctx) x bs :=
  ((acted_issued hi).memory.then_stored (csite_issued hi _)
    (localWrite_stored ((isLocal_issued hi ..).trans hloc))).trans_same (sameMemory_modCtx ..)

theorem getCtx_stored_ne (unit : Nat) (a : W64) (x : Spot) (bs : List Byte) {j : Nat} (hj : j ≠ e.ctx) :
    getCtx (retire (localWrite (issued e s) e.core unit a x bs) e.core e.ctx) e.core j = getCtx s e.core j := by
  rw [retire, getCtx_modCtx_ne _ _ _ hj, getCtx_localWrite, (acted_issued hi).others j hj]

end

theorem regs_stored (s : State) (c k unit : Nat) (a : W64) (x : Spot) (bs : List Byte) :
    (retire (localWrite s c unit a x bs) c k).regs = s.regs := rfl

/-- A counted write at the core's own site by an issued instruction, which then goes on. -/
theorem stores_of {i : Instr} {h : Shape} {e : Enc} {s : State} {unit : Nat} {a : W64} {x : Spot} {bs : List Byte}
    (hi : Issues h e s) (hloc : isLocal s e.core x = true)
    (hx : exec i s = .next (retire (localWrite (issued e s) e.core unit a x bs) e.core e.ctx)) :
    Stores i e s unit a x bs := by
  obtain ⟨hstate, hregs, -, -⟩ := (acted_issued hi).only
  have hsite := (acted_issued hi).site
  have hctx := ctxIs_stored hi unit a x bs
  have hdig := digestOf_stored hi unit a x bs
  have hmem := storedAt_stored hi unit a bs hloc
  have hothers := fun j (hj : j ≠ e.ctx) => getCtx_stored_ne hi unit a x bs hj
  have hne := fun n (hn : n ≠ csite s e.core) => getSite_stored_ne hi unit a x bs hn
  have hwith := with_retire (with_localWrite hstate e.core unit a x bs) e.core e.ctx
  have hcore := storedSite_of hsite (getCore_stored (issued e s) e.core e.ctx unit a x bs)
  have hr := regs_stored (issued e s) e.core e.ctx unit a x bs
  revert hx hctx hdig hmem hothers hne hwith hcore hr
  generalize retire (localWrite (issued e s) e.core unit a x bs) e.core e.ctx = t
  intro hx hctx hdig hmem hothers hne hwith hcore hr
  refine ⟨t, hx, hmem, hwith, ?_, hctx, hothers, fun n hn => by rw [hne n hn], hcore, hdig⟩
  rw [hr]
  exact hregs

/-- Settles O14: a local store is `engWrite_local`, a remote one leaves as a flit (`attSt_sends`). -/
theorem storeResults : Obligations.StoreResults := by
  intro e s z x hi a bs hz h4 hal hspot
  have hx := exec_st_size hi hz h4
  rw [stAt_issued hi] at hx
  dsimp only at hx
  rw [if_neg (not_not.mpr hal), hspot] at hx
  dsimp only at hx
  refine ⟨fun hloc => ?_, fun hloc hheld hfull hinj => ?_⟩
  · have hlen : (leBytes (2 ^ z) ((e.x s).s e.rb).toNat).length = 2 ^ z := leBytes_length ..
    have hspot' : spotOf (issued e s) e.core spAll a bs.length = some x := by rw [spotOf_issued hi, hlen, hspot]
    rw [if_pos hloc, engWrite_local hspot' ((isLocal_issued hi ..).trans hloc)] at hx
    exact stores_of hi hloc hx
  · rw [if_neg (by simp [hloc]), orWait, attSt_sends hi hspot hheld hfull hinj] at hx
    obtain ⟨hmem, hctx⟩ := retire_after hi ((acted_issued hi).memory.trans (sameMemory_inject _ (coreFlit s e.core x a true bs
      (.store e.core e.ctx (e.x s).pc a)))) (ctxIs_inject (issued_ctx hi) _)
    refine ⟨_, hx, hmem, hctx, ?_⟩
    rw [mesh_retire, mesh_inject, leaves, mesh_issued hi]

end Sys2Proof.Machine
end

section
/-!
PROOFS. The beacon class and the beacon roots (R73, R74, R262 to R265).
-/

namespace Sys2Proof.Machine

/-! ### The roots (R262, R264, R265) -/

/-- The reply to a waiter whose count is met (R265). -/
def Waiter.answered (x : Waiter) : BeaconReply := { core := x.core, ctx := x.ctx, status := 0 }

/-- The waiter waits for beacon b, and its count is met at v. -/
def Waiter.met (b : Nat) (v : W32) (x : Waiter) : Bool := x.beacon = b && decide (x.count ≤ v)

theorem foldl_reply (ws : List Waiter) (s : State) : ws.foldl (fun s x => reply s x.core x.ctx 0) s =
    { s with mesh := { s.mesh with replies := s.mesh.replies ++ ws.map Waiter.answered } } := by
  induction ws generalizing s with
  | nil => simp
  | cons x t ih => rw [List.foldl_cons, ih]; simp [reply, Waiter.answered]

/-- A counter takes a value, and every waiter whose count is now met is answered. -/
theorem setBeacon_eq (s : State) (b : Nat) (v : W32) : setBeacon s b v = bump { s with mesh := { s.mesh with
    beacons := sset 0 s.mesh.beacons b v
    waiters := s.mesh.waiters.filter fun x => !x.met b v
    replies := s.mesh.replies ++ (s.mesh.waiters.filter (Waiter.met b v)).map Waiter.answered } } (bcnBlock (b / 4096)) 0 1 := by
  rw [setBeacon]
  dsimp only
  rw [foldl_reply]
  rfl

theorem beaconVal_setBeacon (s : State) (b : Nat) (v : W32) (d : Nat) :
    beaconVal (setBeacon s b v) d = if d = b then v else beaconVal s d := by
  rw [setBeacon_eq]
  exact sget_sset ..

/-- ADDs in any order leave the sum of their counts (R264). -/
theorem beaconVal_adds (b : Nat) (vs : BeaconMsg → W32) (ms : List BeaconMsg) (s : State)
    (h : ∀ m ∈ ms, m.beacon = b ∧ m.op = .add (vs m)) :
    beaconVal (ms.foldl applyBeacon s) b = beaconVal s b + (ms.map vs).sum := by
  induction ms generalizing s with
  | nil => simp
  | cons m t ih =>
    obtain ⟨hb, hop⟩ := h m (by simp)
    have hm : beaconVal (applyBeacon s m) b = beaconVal s b + vs m := by
      rw [applyBeacon, hop, hb]
      exact (beaconVal_setBeacon ..).trans (if_pos rfl)
    rw [List.foldl_cons, ih _ fun x hx => h x (by simp [hx]), hm, List.map_cons, List.sum_cons, BitVec.add_assoc]

/-- A message that reaches its root first of its site. -/
theorem exec_beaconMessageAtRoot {n : Nat} {s : State} {m : BeaconMsg} (hm : s.mesh.msgs[n]? = some m)
    (hfirst : ∀ j x, j < n → s.mesh.msgs[j]? = some x → ¬(x.site = m.site ∧ x.beacon / 4096 = m.beacon / 4096)) :
    exec (.beaconMessageAtRoot n) s =
      .next (applyBeacon { s with mesh := { s.mesh with msgs := s.mesh.msgs.eraseIdx n } } m) := by
  have hf : firstOfSite s.mesh.msgs n m = true := by
    rw [firstOfSite, List.all_eq_true]
    intro x hx
    obtain ⟨j, hj, hxj⟩ := List.mem_take_iff_getElem.mp hx
    have hjn : j < n := by omega
    have hne := hfirst j x hjn (by rw [← hxj]; exact List.getElem?_eq_getElem _)
    simpa [← not_and_or] using hne
  show execBeaconMessageAtRoot n s = _
  rw [execBeaconMessageAtRoot, hm]
  dsimp only
  rw [if_pos hf]
  rfl

/-- The reply of a context ends its wait. -/
theorem exec_beaconWake {c k : Nat} {s : State} {pre post : List BeaconReply} {r : BeaconReply} {rd : BitVec 5}
    (hr : s.mesh.replies = pre ++ r :: post) (hpre : ∀ x ∈ pre, ¬(x.core = c ∧ x.ctx = k)) (hc : r.core = c) (hk : r.ctx = k)
    (hw : (getCtx s c k).wait = .reply rd) :
    exec (.beaconWake c k) s = .next (retire (modCtx { s with mesh := { s.mesh with replies := pre ++ post } } c k
      fun y => y.setS rd (r.status.zeroExtend 64)) c k) := by
  have hfind : (pre ++ r :: post).findIdx? (fun x => x.core = c && x.ctx = k) = some pre.length :=
    findIdx?_first (fun x hx => by simpa using hpre x hx) (by simp [hc, hk])
  have hw' : (getCtx { s with mesh := { s.mesh with replies := pre ++ post } } c k).wait = .reply rd := hw
  show execBeaconWake c k s = _
  rw [execBeaconWake, hr, hfind]
  dsimp only
  rw [getElem?_first]
  dsimp only
  rw [eraseIdx_first, hw']
  rfl

/-! ### Beacon instructions (R73, R74) -/

section
variable {h : Shape} {e : Enc} {s : State} (hi : Issues h e s)
include hi

theorem beaconOf_issued : beaconOf (e.x (issued e s)) e = beaconOf (e.x s) e := by rw [beaconOf, s_issued hi, beaconOf]

theorem beaconOwned_issued (p b : Nat) : beaconOwned (issued e s) p b = beaconOwned s p b := by rw [issued_with hi]; rfl

theorem compat_issued : (e.x (issued e s)).compat = (e.x s).compat := (issued_ctx hi).view (·.compat) fun _ _ _ => rfl

theorem sendBeacon_mesh (k b : Nat) (op : BeaconOp) : (sendBeacon (issued e s) e.core k b op).mesh =
    { s.mesh with msgs := s.mesh.msgs ++ [{ core := e.core, site := csite s e.core, ctx := k, beacon := b, op := op }] } := by
  rw [sendBeacon, mesh_issued hi, csite_issued hi]

/-- An update in a parcel: it traps on a beacon of another, and else sends its message, or waits to. -/
theorem beaconUpdate_issues {p : Nat} (hp : coreParcel s e.core = some p) (op : Ctx → BeaconOp) (o : WaitOp)
    (hcompat : beaconOwned s p (beaconOf (e.x s) e) = true → (e.x s).compat = false) :
    beaconUpdate op o h e s = .next (if beaconOwned s p (beaconOf (e.x s) e) = false
      then e.trap (issued e s) 0x06 (BitVec.ofNat 64 (beaconOf (e.x s) e))
      else orWait (attUpdate op e) false o e (issued e s)) := by
  have hnum : coreParcelNum s e.core = p := by rw [coreParcelNum, hp]; rfl
  rw [beaconUpdate, issue_next hi]
  dsimp only
  rw [beaconOf_issued hi, coreParcelNum_issued hi, coreParcel_issued hi, beaconOwned_issued hi, hnum, hp]
  cases ho : beaconOwned s p (beaconOf (e.x s) e)
  · rfl
  · have hfull : compatFull (e.x (issued e s)) (beaconOf (e.x s) e) = false := by
      rw [compatFull, compat_issued hi, hcompat ho]; rfl
    rw [hfull]
    rfl

/-- An update sends its message once the earlier stores of its context are performed. -/
theorem attUpdate_sends (op : Ctx → BeaconOp) (hh : (e.x s).heldSt = []) (hf : storeFlying s e.core e.ctx = false) :
    attUpdate op e (issued e s) = some (retire (modCtx
      (sendBeacon (issued e s) e.core e.ctx (beaconOf (e.x s) e) (op (e.x (issued e s)))) e.core e.ctx
      fun y => y.recordBeacon (beaconOf (e.x s) e)) e.core e.ctx) := by
  rw [attUpdate, heldAtPort_of_none ((heldSt_issued hi).trans hh), storeFlying_issued hi, hf]
  dsimp only
  rw [beaconOf_issued hi]
  rfl

end

theorem recordBeacon_plain {x : Ctx} (h : x.compat = false) (b : Nat) : x.recordBeacon b = x := by
  rw [Ctx.recordBeacon, h]; rfl

section
variable {i : Instr} {h : Shape} {e : Enc} {s : State} {p : Nat}

/-- What ARRIVE, ADD and SET do. -/
theorem update_results {op : Ctx → BeaconOp} {o : WaitOp} {v : BeaconOp} (hi : Issues h e s) (hp : coreParcel s e.core = some p)
    (hx : exec i s = beaconUpdate op o h e s) (hv : op (e.x (issued e s)) = v) :
    (beaconOwned s p (beaconOf (e.x s) e) = false → Traps i e s 0x06 (BitVec.ofNat 64 (beaconOf (e.x s) e))) ∧
    (beaconOwned s p (beaconOf (e.x s) e) = true → (e.x s).compat = false → (e.x s).heldSt = [] →
      storeFlying s e.core e.ctx = false →
      ∃ t, exec i s = .next t ∧ SameMemory s t ∧ CtxIs e t { e.x s with pc := (e.x s).pc + 8 } ∧
        t.mesh = { s.mesh with msgs := s.mesh.msgs ++
          [{ core := e.core, site := csite s e.core, ctx := e.ctx, beacon := beaconOf (e.x s) e, op := v }] }) := by
  refine ⟨fun ho => traps_of hi ?_, fun ho hc hh hf => ?_⟩
  · rw [hx, beaconUpdate_issues hi hp op o (fun ht => absurd ht (by simp [ho])), if_pos ho]
  · rw [beaconUpdate_issues hi hp op o fun _ => hc, if_neg (by simp [ho]), orWait, attUpdate_sends hi op hh hf, hv] at hx
    have hsame : SameMemory s (sendBeacon (issued e s) e.core e.ctx (beaconOf (e.x s) e) v) :=
      (acted_issued hi).memory.trans (sameMemory_of rfl rfl)
    have hctx (b : Nat) : CtxIs e (modCtx (sendBeacon (issued e s) e.core e.ctx b v) e.core e.ctx
        fun y => y.recordBeacon b) (e.x s) := by
      have hsent : e.x (sendBeacon (issued e s) e.core e.ctx b v) = e.x (issued e s) := rfl
      have hkept : e.x (modCtx (sendBeacon (issued e s) e.core e.ctx b v) e.core e.ctx fun y => y.recordBeacon b) =
          e.x (issued e s) := by
        rw [Enc.x, getCtx_modCtx_same, ← Enc.x, hsent, recordBeacon_plain ((compat_issued hi).trans hc)]
      unfold CtxIs
      rw [hkept]
      exact issued_ctx hi
    obtain ⟨hmem, hgo⟩ := retire_after hi (hsame.trans (sameMemory_modCtx ..)) (hctx _)
    refine ⟨_, hx, hmem, hgo, ?_⟩
    rw [mesh_retire, mesh_modCtx, sendBeacon_mesh hi]

theorem exec_beaconWait (hi : Issues (bcnShape 4 e true true) e s) (hp : coreParcel s e.core = some p) :
    exec (.beaconWait e) s = .next (if beaconOwned s p (beaconOf (e.x s) e) = false
      then e.trap (issued e s) 0x06 (BitVec.ofNat 64 (beaconOf (e.x s) e))
      else block (sendBeacon (issued e s) e.core e.ctx (beaconOf (e.x s) e) (.wait (((e.x s).s e.ra).extractLsb' 0 32)))
        e.core e.ctx true (.reply e.rd)) := by
  have hnum : coreParcelNum s e.core = p := by rw [coreParcelNum, hp]; rfl
  show execBeaconWait e s = _
  rw [execBeaconWait, issue_next hi]
  dsimp only
  rw [beaconOf_issued hi, coreParcelNum_issued hi, coreParcel_issued hi, beaconOwned_issued hi, hnum, hp, s_issued hi]
  cases beaconOwned s p (beaconOf (e.x s) e) <;> rfl

/-- WAIT sends its count and waits for the reply. -/
theorem wait_results (hi : Issues (bcnShape 4 e true true) e s) (hp : coreParcel s e.core = some p)
    (ho : beaconOwned s p (beaconOf (e.x s) e) = true) :
    Waits (.beaconWait e) e s true (.reply e.rd) ∧
    ∃ t, exec (.beaconWait e) s = .next t ∧ t.mesh = { s.mesh with msgs := s.mesh.msgs ++
      [{ core := e.core, site := csite s e.core, ctx := e.ctx, beacon := beaconOf (e.x s) e,
         op := .wait (((e.x s).s e.ra).extractLsb' 0 32) }] } := by
  have hx := exec_beaconWait hi hp
  rw [if_neg (by simp [ho])] at hx
  have hmesh := sendBeacon_mesh hi e.ctx (beaconOf (e.x s) e) (.wait (((e.x s).s e.ra).extractLsb' 0 32))
  obtain ⟨-, hb, -⟩ := block_switch (sendBeacon (issued e s) e.core e.ctx (beaconOf (e.x s) e)
    (.wait (((e.x s).s e.ra).extractLsb' 0 32))) e.core e.ctx (.reply e.rd)
  refine ⟨waits_of_switch (hx := hx) ?_ ?_, _, hx, hb.trans hmesh⟩
  · exact (acted_issued hi).memory.trans (sameMemory_of rfl rfl)
  · exact issued_ctx hi

end

/-- Settles O15: `update_results` and `wait_results` for the instructions, `setBeacon_eq` and `waitAtRoot` for the root. -/
theorem beaconsCount : Obligations.BeaconsCount := by
  refine ⟨fun e s i h op p => ?_, ⟨fun n s m hm hfirst => ?_, fun c k s pre post r rd hr hpre hc hk hw hst => ?_⟩,
    fun s b ms vs hms => beaconVal_adds b vs ms s hms⟩
  · intro b v m hmem hi hp
    simp only [List.mem_cons, List.not_mem_nil, or_false, Prod.mk.injEq] at hmem
    rcases hmem with ⟨rfl, rfl, rfl⟩ | ⟨rfl, rfl, rfl⟩ | ⟨rfl, rfl, rfl⟩ | ⟨rfl, rfl, rfl⟩
    · obtain ⟨htrap, hgo⟩ := update_results (i := .arrive e) (op := opArrive e) (o := .arrive) hi hp rfl rfl
      exact ⟨htrap, fun ho _ => hgo ho, fun _ h => nomatch h⟩
    · obtain ⟨htrap, hgo⟩ := update_results (i := .beaconAdd e) (op := opAdd e) (o := .addB) hi hp rfl (by rw [opAdd, s_issued hi])
      exact ⟨htrap, fun ho _ => hgo ho, fun _ h => nomatch h⟩
    · obtain ⟨htrap, hgo⟩ := update_results (i := .beaconSet e) (op := opSet e) (o := .setB) hi hp rfl (by rw [opSet, s_issued hi])
      exact ⟨htrap, fun ho _ => hgo ho, fun _ h => nomatch h⟩
    · exact ⟨fun ho => traps_of hi ((exec_beaconWait hi hp).trans (by rw [if_pos ho])), fun _ hne => absurd rfl hne,
        fun ho _ => wait_results hi hp ho⟩
  · refine ⟨_, exec_beaconMessageAtRoot hm hfirst, ?_⟩
    unfold applyBeacon
    dsimp only
    cases hop : m.op with
    | add v =>
      dsimp only
      rw [setBeacon_eq]
      exact ⟨rfl, rfl, rfl, rfl, rfl, fun b hb => (sget_sset ..).trans (if_neg hb), sget_sset_same .., rfl, rfl⟩
    | set v =>
      dsimp only
      rw [setBeacon_eq]
      exact ⟨rfl, rfl, rfl, rfl, rfl, fun b hb => (sget_sset ..).trans (if_neg hb), sget_sset_same .., rfl, rfl⟩
    | wait v =>
      by_cases hv : v ≤ sget 0 s.mesh.beacons m.beacon
      · have hat : waitAtRoot { s with mesh := { s.mesh with msgs := s.mesh.msgs.eraseIdx n } } m v = _ := if_pos hv
        dsimp only
        rw [hat]
        exact ⟨rfl, rfl, rfl, rfl, rfl, fun _ _ => rfl, rfl, fun _ => ⟨rfl, rfl⟩, fun hlt => absurd hv (BitVec.not_le.mpr hlt)⟩
      · have hat : waitAtRoot { s with mesh := { s.mesh with msgs := s.mesh.msgs.eraseIdx n } } m v = _ := if_neg hv
        dsimp only
        rw [hat]
        exact ⟨rfl, rfl, rfl, rfl, rfl, fun _ _ => rfl, rfl, fun hle => absurd hle hv, fun _ => ⟨rfl, rfl⟩⟩
  · have hsame (j : Nat) : getCtx { s with mesh := { s.mesh with replies := pre ++ post } } c j = getCtx s c j := rfl
    refine ⟨_, exec_beaconWake hr hpre hc hk hw, rfl, ?_, ?_, fun j hj => ?_⟩
    · exact (sameMemory_of rfl rfl : SameMemory s { s with mesh := { s.mesh with replies := pre ++ post } }).trans
        ((sameMemory_modCtx ..).trans (sameMemory_modCtx ..))
    · rw [getCtx_retire_waiting ((st_setS ..).trans hst), hsame, pc_setS]
    · rw [retire, getCtx_modCtx_ne _ _ _ hj, getCtx_modCtx_ne _ _ _ hj, hsame]

end Sys2Proof.Machine
end

section
/-!
PROOFS. The copy engine: its instructions on their channel (R78, R82), and its descriptors (R79 to R81, R253, R254).
-/

namespace Sys2Proof.Machine

/-! ### Channels -/

theorem spares_chan (ch : Nat) (f : Chan → Chan) : SparesContexts fun x => { x with chans := smod {} x.chans ch f } :=
  ⟨fun _ _ => rfl, fun _ => ⟨rfl, rfl⟩⟩

theorem getChan_modChan_same (s : State) (c ch : Nat) (f : Chan → Chan) :
    getChan (modChan s c ch f) c ch = f (getChan s c ch) := by
  rw [getChan, modChan, getCore_modCore_same]
  exact (sget_smod ..).trans (if_pos rfl)

theorem getChan_modChan_ne (s : State) (c ch : Nat) (f : Chan → Chan) {n : Nat} (hn : n ≠ ch) :
    getChan (modChan s c ch f) c n = getChan s c n := by
  rw [getChan, modChan, getCore_modCore_same]
  exact (sget_smod ..).trans (if_neg hn)

theorem chans_retire (s : State) (c k : Nat) : (getCore (retire s c k) c).chans = (getCore s c).chans := by
  rw [retire, modCtx, getCore_modCore_same]; rfl

theorem getChan_retire (s : State) (c k ch : Nat) : getChan (retire s c k) c ch = getChan s c ch := by
  rw [getChan, Site.chan, chans_retire]; rfl

theorem clear_halted {x : Chan} (h : x.st = .haltedDesc ∨ x.st = .haltedErr) :
    x.clear = { x with st := .idle, queue := [], run := none } := by
  rcases h with h | h <;> rw [Chan.clear, h]

theorem clear_running {x : Chan} (hrun : x.run.isSome = true) (hst : x.st = .busy) : x.clear = { x with queue := [] } := by
  rw [Chan.clear, hst]
  exact if_neg (by rw [Option.isNone_eq_false_iff.mpr hrun]; decide)

theorem clear_queue (x : Chan) : x.clear.queue = [] := by
  rw [Chan.clear]
  split
  · rfl
  · rfl
  · split <;> rfl
  · rfl

/-! ### The instructions (R78) -/

section
variable {e : Enc} {s : State} {h : Shape} (hi : Issues h e s)
include hi

theorem getChan_issued (ch : Nat) : getChan (issued e s) e.core ch = getChan s e.core ch := by
  rw [getChan, (acted_issued hi).site]; rfl

theorem mseed_issued : (e.x (issued e s)).mseed = (e.x s).mseed := (issued_ctx hi).view (·.mseed) fun _ _ _ => rfl

/-- A change of a channel of the core, after which the instruction ends. -/
theorem acted_modChan (ch : Nat) (f : Chan → Chan) :
    Acted e s (retire (modChan (issued e s) e.core ch f) e.core e.ctx) { e.x s with pc := (e.x s).pc + 8 }
      { getCore s e.core with chans := smod {} (getCore s e.core).chans ch f } :=
  ((acted_issued hi).modCore (spares_chan ch f)).retire (issues_st hi) (issues_wait hi)

theorem getChan_changed (ch : Nat) (f : Chan → Chan) :
    getChan (retire (modChan (issued e s) e.core ch f) e.core e.ctx) e.core ch = f (getChan s e.core ch) := by
  rw [getChan_retire, getChan_modChan_same, getChan_issued hi]

theorem getChan_unchanged (ch : Nat) (f : Chan → Chan) {n : Nat} (hn : n ≠ ch) :
    getChan (retire (modChan (issued e s) e.core ch f) e.core e.ctx) e.core n = getChan s e.core n := by
  rw [getChan_retire, getChan_modChan_ne _ _ _ _ hn, getChan_issued hi]

end

/-- What CPY adds to its channel. -/
def queued (a mseed : W64) (k : Nat) (x : Chan) : Chan :=
  { x with queue := x.queue ++ [{ desc := a, mseed := mseed, ctx := k }],
           descaddr := if x.st = .idle then a else x.descaddr, st := if x.st = .idle then .busy else x.st }

/-- A descriptor in near memory is where a descriptor may be (R78). -/
theorem descTrap_none {s : State} (c : Nat) {a : W64} {n : Nat} (hal : a.toNat % n = 0) (hfit : a.toNat + n ≤ nearSize) :
    descTrap s c a n = none := by
  have hsmall : a.toNat < 2 ^ 60 := lt_of_le_of_lt (Nat.le_of_add_right_le hfit) (by decide)
  rw [descTrap, if_neg (not_not.mpr hal), spotOf_spNear_of_fits _ _ (Nat.div_eq_of_lt hsmall) (by rwa [Nat.mod_eq_of_lt hsmall])]
  rfl

theorem exec_cpy {e : Enc} {s : State} (hi : Issues { cls := 2, op := 1, ra := true, aA := true, imm := 1 } e s)
    (hal : ((e.x s).a e.ra).toNat % 64 = 0) (hfit : ((e.x s).a e.ra).toNat + 64 ≤ nearSize) (hh : (e.x s).heldSt = [])
    (hroom : (getChan s e.core (Enc.chan e)).waiting < 4) :
    exec (.cpy e) s = .next (retire (modChan (issued e s) e.core (Enc.chan e) (queued ((e.x s).a e.ra) (e.x s).mseed e.ctx))
      e.core e.ctx) := by
  have hatt : attCpy e (issued e s) = some (retire (modChan (issued e s) e.core (Enc.chan e)
      (queued ((e.x s).a e.ra) (e.x s).mseed e.ctx)) e.core e.ctx) := by
    rw [attCpy, heldAtPort_of_none ((heldSt_issued hi).trans hh)]
    dsimp only
    rw [if_neg (by rw [← getChan, getChan_issued hi]; omega), a_issued hi, mseed_issued hi]
    rfl
  show execCpy e s = _
  rw [execCpy, issue_next hi]
  dsimp only
  rw [a_issued hi, descTrap_none _ hal hfit, orWait, hatt]

theorem exec_cpyw {e : Enc} {s : State} (hi : Issues { cls := 2, op := 2, rd := true, imm := 1 } e s) :
    exec (.cpyw e) s = .next (if (getChan s e.core (Enc.chan e)).settled then wrS e (issued e s) (getChan s e.core (Enc.chan e)).status
      else block (issued e s) e.core e.ctx true (.op .cpyw e)) := by
  show execCpyw e s = _
  rw [execCpyw, issue_next hi, orWait, attCpyw, ← getChan, getChan_issued hi]
  cases (getChan s e.core (Enc.chan e)).settled <;> rfl

theorem exec_cpyq {e : Enc} {s : State} (hi : Issues { cls := 2, op := 3, rd := true, imm := 1 } e s) :
    exec (.cpyq e) s = .next (wrS e (issued e s) (getChan s e.core (Enc.chan e)).status) := by
  show execCpyq e s = _
  rw [execCpyq, issue_next hi, ← getChan, getChan_issued hi]

theorem exec_cpyclr {e : Enc} {s : State} (hi : Issues { cls := 2, op := 4, imm := 1 } e s) :
    exec (.cpyclr e) s = .next (wake (retire (modChan (issued e s) e.core (Enc.chan e) Chan.clear) e.core e.ctx) e.core) := by
  show execCpyclr e s = _
  rw [execCpyclr, issue_next hi]

/-- Settles O16: each instruction changes its channel alone. -/
theorem copyInstructions : Obligations.CopyInstructions := by
  intro e s ch x a
  refine ⟨fun hi hal hfit hh hroom => ?_, fun hi => writesS_of hi (exec_cpyq hi), fun hi => ?_, fun hi => ?_⟩
  · have ha := acted_modChan hi ch (queued a (e.x s).mseed e.ctx)
    exact ⟨_, exec_cpy hi hal hfit hh hroom, ha.only, ha.memory, ha.ctx, fun n => getChan_unchanged hi ch _, getChan_changed hi ch _⟩
  · have hx := exec_cpyw hi
    refine ⟨fun hset => writesS_of hi ?_, fun hset => waits_of_issued hi ?_⟩
    · exact hx.trans (congrArg _ (if_pos hset))
    · exact hx.trans (congrArg _ (if_neg (Bool.eq_false_iff.mp hset)))
  · have ha := acted_modChan hi ch Chan.clear
    have hch := getChan_changed hi ch Chan.clear
    refine ⟨_, exec_cpyclr hi, ha.memory, ha.ctx, fun n => getChan_unchanged hi ch _, ?_, fun hst => ?_, fun hrun hst => ?_⟩
    · exact (congrArg _ hch).trans (clear_queue _)
    · have hc := hch.trans (clear_halted hst)
      exact ⟨congrArg Chan.st hc, congrArg Chan.run hc⟩
    · have hc := hch.trans (clear_running hrun hst)
      exact ⟨(congrArg Chan.st hc).trans hst, (congrArg Chan.run hc).trans rfl⟩

end Sys2Proof.Machine
end

section
/-!
PROOFS. The work of a core's engines on memory, and the run of a copy (R79 to R82, R206, R207, R253, R254, R276).
-/

namespace Sys2Proof.Machine

/-! ### Writes by engines touch memories alone -/

/-- The site y with the near memory and the terrace of z. -/
def memSite (y z : Site) : Site :=
  { y with near := z.near, nearMarks := z.nearMarks, terr := z.terr, terrMarks := z.terrMarks }

/-- Nothing has changed but near memories, terraces, far memory with its caches, and counters. -/
structure OnlyMemories (s t : State) : Prop where
  state : t = { s with sites := t.sites, far := t.far, regs := t.regs }
  site : ∀ n, getSite t n = memSite (getSite s n) (getSite t n)

theorem OnlyMemories.refl (s : State) : OnlyMemories s s := ⟨rfl, fun _ => rfl⟩

theorem OnlyMemories.trans {s t u : State} (h : OnlyMemories s t) (h' : OnlyMemories t u) : OnlyMemories s u := by
  refine ⟨?_, fun n => ?_⟩
  · rw [h'.state, h.state]
  · rw [h'.site n, h.site n]; rfl

/-- Far memory, its caches and counters are not of a site. -/
theorem onlyMemories_of {s t : State} (h : t = { s with far := t.far, regs := t.regs }) : OnlyMemories s t :=
  ⟨by rw [h], fun n => by rw [h]; rfl⟩

theorem onlyMemories_modSite (s : State) (n : Nat) {f : Site → Site} (hf : ∀ x, f x = memSite x (f x)) :
    OnlyMemories s (modSite s n f) := by
  refine ⟨rfl, fun m => ?_⟩
  rw [getSite_modSite]
  by_cases hm : m = n
  · rw [if_pos hm, hm]; exact hf _
  · rw [if_neg hm]; rfl

theorem onlyMemories_foldl {α : Type} {f : State → α → State} (hf : ∀ s x, OnlyMemories s (f s x)) (l : List α) (s : State) :
    OnlyMemories s (l.foldl f s) := by
  induction l generalizing s with
  | nil => exact .refl s
  | cons x l ih => exact (hf s x).trans (ih _)

theorem onlyMemories_useEntry (s : State) (f : Nat) : OnlyMemories s (useEntry s f) := by
  refine onlyMemories_of ?_
  unfold useEntry
  dsimp only
  split <;> rfl

theorem onlyMemories_useLine (wr : Bool) (s : State) (l : Nat) : OnlyMemories s (useLine wr s l) :=
  (onlyMemories_useEntry s _).trans (onlyMemories_of rfl)

theorem onlyMemories_farUse (s : State) (fa n : Nat) (wr : Bool) : OnlyMemories s (farUse s fa n wr) :=
  onlyMemories_foldl (onlyMemories_useLine wr) _ s

theorem onlyMemories_farPut (s : State) (fa : Nat) (bs : List Byte) : OnlyMemories s (farPut s fa bs) := by
  unfold farPut
  exact .trans (onlyMemories_of rfl) (onlyMemories_foldl (fun _ _ => onlyMemories_of rfl) _ _)

theorem onlyMemories_farWrite {s t : State} {p fa : Nat} {bs : List Byte} (h : farWrite s p fa bs = .ok t) : OnlyMemories s t := by
  unfold farWrite at h
  split at h
  · cases h
  · split at h
    · cases h
    · split at h
      · cases h
      · split at h
        · cases h
        · cases h
          exact (onlyMemories_farPut ..).trans (onlyMemories_farUse ..)

theorem onlyMemories_engSeen (s : State) (c : Nat) (a : W64) (n : Nat) : OnlyMemories s (engSeen s c a n) := by
  unfold engSeen
  split
  · exact onlyMemories_farUse ..
  · exact .refl s

theorem onlyMemories_copySeen (s : State) (c : Nat) (r : CopyRun) : OnlyMemories s (copySeen s c r) := by
  unfold copySeen
  dsimp only
  split
  · exact onlyMemories_foldl (fun _ _ => onlyMemories_engSeen ..) _ s
  · exact onlyMemories_engSeen ..

theorem onlyMemories_spotWrite {s t : State} {c : Nat} {x : Spot} {bs : List Byte} (h : spotWrite s c x bs = .ok t) :
    OnlyMemories s t := by
  have hterr (site off : Nat) : OnlyMemories s (terrWrite s site off bs) := by
    unfold terrWrite; exact onlyMemories_modSite s site fun _ => rfl
  cases x with
  | near off => cases h; exact onlyMemories_modSite s _ fun _ => rfl
  | terr sp site off =>
    unfold spotWrite at h
    dsimp only at h
    split at h
    · cases h; exact hterr ..
    · split at h
      · cases h
      · split at h
        · cases h
        · cases h; exact hterr ..
  | far fa =>
    unfold spotWrite at h
    dsimp only at h
    split at h
    · cases h
    · exact onlyMemories_farWrite h

theorem onlyMemories_engPut {s t : State} {c : Nat} {sp : Spaces} {a : W64} {bs : List Byte} (h : engPut s c sp a bs = .ok t) :
    OnlyMemories s t := by
  unfold engPut at h
  split at h
  · cases h
  · exact onlyMemories_spotWrite h

theorem onlyMemories_putAll {c : Nat} {sp : Spaces} {ws : List Wr} {s t : State} (h : putAll s c sp ws = .ok t) :
    OnlyMemories s t := by
  induction ws generalizing s with
  | nil => cases h; exact .refl _
  | cons w ws ih =>
    rw [putAll] at h
    cases hw : engPut s c sp w.1 w.2 with
    | error err => rw [hw] at h; cases h
    | ok u =>
      rw [hw] at h
      exact (onlyMemories_engPut hw).trans (ih h)

section
variable {s t : State} (h : OnlyMemories s t)
include h

theorem OnlyMemories.csite (c : Nat) : Machine.csite t c = Machine.csite s c := by rw [h.state]; rfl
theorem OnlyMemories.coreParcelNum (c : Nat) : Machine.coreParcelNum t c = Machine.coreParcelNum s c := by rw [h.state]; rfl
theorem OnlyMemories.coreParcel (c : Nat) : Machine.coreParcel t c = Machine.coreParcel s c := by rw [h.state]; rfl
theorem OnlyMemories.spotOf (c : Nat) (sp : Spaces) (a : W64) (n : Nat) : Machine.spotOf t c sp a n = Machine.spotOf s c sp a n := by
  rw [h.state]; rfl

theorem OnlyMemories.getCore (c : Nat) : Machine.getCore t c = memSite (Machine.getCore s c) (Machine.getCore t c) := by
  rw [Machine.getCore, h.csite, h.site]; rfl

theorem OnlyMemories.getCtx (c k : Nat) : Machine.getCtx t c k = Machine.getCtx s c k := by
  rw [Machine.getCtx, h.getCore]; rfl

theorem OnlyMemories.getChan (c ch : Nat) : Machine.getChan t c ch = Machine.getChan s c ch := by
  rw [Machine.getChan, h.getCore]; rfl

theorem OnlyMemories.digestOf (c : Nat) : Machine.digestOf t c = Machine.digestOf s c := by
  rw [Machine.digestOf, h.getCore]; rfl

theorem OnlyMemories.engEnds (c : Nat) (ws : List Wr) : Machine.engEnds t c ws = Machine.engEnds s c ws := by
  rw [h.state]; rfl

end

/-! ### Digests (R276) -/

/-- Nothing has changed but the digest words of core c. -/
structure Counted (c : Nat) (s t : State) : Prop where
  memory : SameMemory s t
  state : t = { s with sites := t.sites }
  core : getCore t c = { getCore s c with
    cd0 := (getCore t c).cd0, cd1 := (getCore t c).cd1, cd2 := (getCore t c).cd2, cd3 := (getCore t c).cd3 }

theorem Counted.refl (c : Nat) (s : State) : Counted c s s := ⟨sameMemory_refl s, rfl, rfl⟩

theorem Counted.trans {c : Nat} {s t u : State} (h : Counted c s t) (h' : Counted c t u) : Counted c s u :=
  ⟨h.memory.trans h'.memory, by rw [h'.state, h.state], by rw [h'.core, h.core]⟩

theorem counted_digestWrite (s : State) (c unit : Nat) (a : W64) (bs : List Byte) : Counted c s (digestWrite s c unit a bs) := by
  refine ⟨sameMemory_digestWrite .., rfl, ?_⟩
  rw [digestWrite_eq, getCore_modCore_same]
  rfl

theorem counted_foldl {α : Type} (c unit : Nat) (f : α → W64) (g : α → List Byte) (l : List α) (s : State) :
    Counted c s (l.foldl (fun s x => digestWrite s c unit (f x) (g x)) s) := by
  induction l generalizing s with
  | nil => exact .refl c s
  | cons x l ih => exact (counted_digestWrite ..).trans (ih _)

theorem Counted.getCtx {c : Nat} {s t : State} (h : Counted c s t) (k : Nat) : Machine.getCtx t c k = Machine.getCtx s c k := by
  rw [Machine.getCtx, h.core]; rfl

theorem Counted.getChan {c : Nat} {s t : State} (h : Counted c s t) (ch : Nat) : Machine.getChan t c ch = Machine.getChan s c ch := by
  rw [Machine.getChan, h.core]; rfl

theorem digestOf_digestWrite (s : State) (c unit : Nat) (a : W64) (bs : List Byte) : digestOf (digestWrite s c unit a bs) c =
    (digestOf s c).plus (writeDigest (srcWord (coreParcelNum s c) unit c) (bs.length / 64 + 2) a bs) := by
  rw [digestOf, digestWrite_eq, getCore_modCore_same]
  rfl

theorem digestOf_foldl (c unit : Nat) (ws : List Wr) (s : State) :
    digestOf (ws.foldl (fun s w => digestWrite s c unit w.1 w.2) s) c =
      ws.foldl (fun d w => d.plus (writeDigest (srcWord (coreParcelNum s c) unit c) (w.2.length / 64 + 2) w.1 w.2)) (digestOf s c) := by
  induction ws generalizing s with
  | nil => rfl
  | cons w ws ih =>
    rw [List.foldl_cons, ih, digestOf_digestWrite]
    rfl

/-! ### A step of a copy (R206, R207, R276) -/

/-- What a step counts is in the core's digest words; the pieces of a transpose's rows are kept with the run. -/
theorem counted_countTile (s : State) (c : Nat) (b : List Byte) (t : Nat) (parts : SMap (List Byte)) (ws : List Wr) :
    Counted c s (countTile s c b t parts ws).2 := by
  unfold countTile
  dsimp only
  split
  · exact counted_foldl ..
  · exact .refl c s

/-- What copyCount leaves: the digest counts the step, and the run goes on. -/
theorem copyCount_eq (s : State) (c ch : Nat) (r : CopyRun) (ws : List Wr) (hmc : r.mc = none) : ∃ t parts, Counted c s t ∧
    copyCount s c ch r ws = modChan t c ch (fun x => { x with
      run := some { r with pos := r.pos + 1, parts := parts, ends := (engEnds s c ws).foldl nins r.ends } }) ∧
    (cdMode r.bytes ≠ 2 → parts = r.parts ∧ t = ws.foldl (fun s w => digestWrite s c 2 w.1 w.2) s) := by
  unfold copyCount
  rw [hmc]
  by_cases hm : cdMode r.bytes = 2
  · exact ⟨_, _, counted_countTile s c r.bytes r.pos r.parts ws, by rw [if_pos hm]; rfl, fun h => absurd hm h⟩
  · exact ⟨_, _, counted_foldl c 2 _ _ ws s, by rw [if_neg hm]; rfl, fun _ => ⟨rfl, rfl⟩⟩

theorem exec_copyRow {c ch : Nat} {s u : State} {r : CopyRun} {ws : List Wr} {fl : W32} (hcr : coreRuns s c = true)
    (hrun : (getChan s c ch).run = some r) (hst : (getChan s c ch).st = .busy) (hpos : r.pos < cdSteps r.bytes) (hmc : r.mc = none)
    (hstep : copyStep s c r = .ok (ws, fl)) (hput : putAll (copySeen s c r) c spAll ws = .ok u) :
    exec (.copyRow c ch) s = .next (copyCount (raiseFlags u c r.req.ctx fl) c ch r ws) := by
  show execCopyRow c ch s = _
  rw [execCopyRow]
  dsimp only
  rw [hrun]
  dsimp only
  rw [hcr, hst, if_neg (by simpa using hpos), hstep]
  dsimp only
  rw [hmc]
  dsimp only
  rw [hput]
  rfl

/-- Raising a context's flags changes no memory, no channel and no digest. -/
theorem raiseFlags_keeps (s : State) (c k : Nat) (fl : W32) : SameMemory s (raiseFlags s c k fl) ∧
    (∀ ch, getChan (raiseFlags s c k fl) c ch = getChan s c ch) ∧ digestOf (raiseFlags s c k fl) c = digestOf s c ∧
    getCtx (raiseFlags s c k fl) c k = { getCtx s c k with nflags := (getCtx s c k).nflags ||| fl } := by
  refine ⟨sameMemory_modCtx .., fun ch => ?_, ?_, getCtx_modCtx_same ..⟩
  · rw [getChan, raiseFlags, modCtx, getCore_modCore_same]; rfl
  · rw [digestOf, raiseFlags, modCtx, getCore_modCore_same]; rfl

/-- A change of a channel changes no memory, no context and no digest. -/
theorem modChan_keeps (s : State) (c ch : Nat) (f : Chan → Chan) : SameMemory s (modChan s c ch f) ∧
    (∀ k, getCtx (modChan s c ch f) c k = getCtx s c k) ∧ digestOf (modChan s c ch f) c = digestOf s c := by
  refine ⟨sameMemory_modCore s c fun _ => ⟨rfl, rfl⟩, fun k => ?_, ?_⟩
  · rw [getCtx, modChan, getCore_modCore_same]; rfl
  · rw [digestOf, modChan, getCore_modCore_same]; rfl

theorem copyRow_step {c ch : Nat} {s u : State} {r : CopyRun} {ws : List Wr} {fl : W32} (hcr : coreRuns s c = true)
    (hrun : (getChan s c ch).run = some r) (hst : (getChan s c ch).st = .busy) (hpos : r.pos < cdSteps r.bytes) (hmc : r.mc = none)
    (hstep : copyStep s c r = .ok (ws, fl)) (hput : putAll (copySeen s c r) c spAll ws = .ok u) :
    ∃ t parts, exec (.copyRow c ch) s = .next t ∧ SameMemory u t ∧
      getChan t c ch = { getChan s c ch with
        run := some { r with pos := r.pos + 1, parts := parts, ends := (engEnds s c ws).foldl nins r.ends } } ∧
      (cdMode r.bytes ≠ 2 → parts = r.parts ∧ digestOf t c =
        ws.foldl (fun d w => d.plus (writeDigest (srcWord (coreParcelNum s c) 2 c) (w.2.length / 64 + 2) w.1 w.2)) (digestOf s c)) ∧
      getCtx t c r.req.ctx = { getCtx s c r.req.ctx with nflags := (getCtx s c r.req.ctx).nflags ||| fl } := by
  have hu : OnlyMemories s u := (onlyMemories_copySeen s c r).trans (onlyMemories_putAll hput)
  obtain ⟨hfmem, hfchan, hfdig, hfctx⟩ := raiseFlags_keeps u c r.req.ctx fl
  obtain ⟨t, parts, hcount, heq, hrow⟩ := copyCount_eq (raiseFlags u c r.req.ctx fl) c ch r ws hmc
  have hends : engEnds (raiseFlags u c r.req.ctx fl) c ws = engEnds s c ws := hu.engEnds c ws
  obtain ⟨hcmem, hcctx, hcdig⟩ := modChan_keeps t c ch fun x =>
    { x with run := some { r with pos := r.pos + 1, parts := parts, ends := (engEnds s c ws).foldl nins r.ends } }
  rw [hends] at heq
  refine ⟨_, parts, (exec_copyRow hcr hrun hst hpos hmc hstep hput).trans (congrArg _ heq), ?_, ?_, fun hm => ?_, ?_⟩
  · exact (hfmem.trans hcount.memory).trans hcmem
  · rw [getChan_modChan_same, hcount.getChan, hfchan, hu.getChan]
  · obtain ⟨hparts, ht⟩ := hrow hm
    have hnum : coreParcelNum (raiseFlags u c r.req.ctx fl) c = coreParcelNum s c := hu.coreParcelNum c
    exact ⟨hparts, by rw [hcdig, ht, digestOf_foldl, hnum, hfdig, hu.digestOf]⟩
  · rw [hcctx, hcount.getCtx, hfctx, hu.getCtx]

theorem copyStep_plain {c : Nat} {s : State} {r : CopyRun} {bs : List Byte} (hm : cdMode r.bytes = 0)
    (hread : engRead s c spAll (addOff (cdSrc r.bytes) (cdSStride r.bytes * r.pos)) (cdRowBytes r.bytes) = .ok bs) :
    copyStep s c r = .ok ([(addOff (cdDst r.bytes) (cdDStride r.bytes * r.pos), bs)], 0) := by
  have hrow : cdRow s c r.bytes r.req.mseed r.pos = .ok (bs, [], 0) := by
    unfold cdRow
    rw [hread, hm]
    rfl
  rw [copyStep, if_neg (by rw [hm]; decide), hrow]
  rfl

theorem writeAll_near {c unit : Nat} {s : State} {sp : Spaces} {a : W64} {off : Nat} {bs : List Byte}
    (hspot : spotOf s c sp a bs.length = some (.near off)) :
    writeAll s c unit sp [(a, bs)] = .ok (localWrite s c unit a (.near off) bs) := by
  rw [writeAll, engWrite_local hspot rfl]
  rfl

/-! ### A descriptor starts (R79, R81, R82) -/

/-- A change of the core's site that keeps near memory as it is and as valid as it is does not change what is read of it. -/
theorem nearRead_modCore (s : State) (c : Nat) {f : Site → Site} (hf : ∀ x, (f x).near = x.near ∧ (f x).nearMarks = x.nearMarks)
    (site off n : Nat) : nearRead (modCore s c f) site off n = nearRead s site off n := by
  have hsite : (getSite (modCore s c f) site).near = (getSite s site).near ∧
      (getSite (modCore s c f) site).nearMarks = (getSite s site).nearMarks := by
    rw [getSite_modCore]
    by_cases hn : site = csite s c
    · rw [if_pos hn, hn]; exact hf _
    · rw [if_neg hn]; exact ⟨rfl, rfl⟩
  obtain ⟨hnear, hmarks⟩ := hsite
  unfold nearRead
  dsimp only
  rw [hnear, hmarks]
  rfl

theorem engRead_modChan {s : State} {c ch : Nat} {f : Chan → Chan} {a : W64} {n : Nat} :
    engRead (modChan s c ch f) c spNear a n = engRead s c spNear a n := by
  have hspot : spotOf (modChan s c ch f) c spNear a n = spotOf s c spNear a n := rfl
  rw [engRead, engRead, hspot, spotOf_spNear]
  by_cases hfit : a.toNat / 2 ^ 60 = 0 ∧ a.toNat % 2 ^ 60 + n ≤ nearSize
  · rw [if_pos hfit]
    exact nearRead_modCore s c (f := fun x => { x with chans := smod {} x.chans ch f }) (fun _ => ⟨rfl, rfl⟩) ..
  · rw [if_neg hfit]

/-- The multicast entries do not depend on the channels. -/
theorem mcFor_modChan (s : State) (c ch : Nat) (f : Chan → Chan) (n : Nat) (b : List Byte) :
    mcFor (getCore (modChan s c ch f) c) n b = mcFor (getCore s c) n b := by
  rw [modChan, getCore_modCore_same]; rfl

/-- The channel has taken its oldest descriptor. -/
def taken (s : State) (c ch : Nat) (r : CopyReq) (q : List CopyReq) : State :=
  modChan s c ch fun x => { x with queue := q, descaddr := r.desc }

theorem mcOk_iff {m : Option McEntry} : (m.map McEntry.ok).getD true = true ↔ ∀ y, m = some y → y.ok = true := by
  cases m <;> simp

theorem exec_copyDescriptorStart {c ch : Nat} {s : State} {r : CopyReq} {q : List CopyReq} {b : List Byte}
    (hcr : coreRuns s c = true) (hch : ch < 8) (hst : (getChan s c ch).st = .busy) (hrun : (getChan s c ch).run = none)
    (ht : (getChan s c ch).tcopy = false) (hq : (getChan s c ch).queue = r :: q) (hfly : storeFlying s c r.ctx = false)
    (hheld : (getCtx s c r.ctx).heldSt = []) (hread : engRead s c spNear r.desc 64 = .ok b) :
    exec (.copyDescriptorStart c ch) s = .next (
      if cdOk s c b ∧ (∀ y, mcFor (getCore s c) ch b = some y → y.ok = true)
      then wake (modChan (taken s c ch r q) c ch fun x => { x with run := some { req := r, bytes := b, mc := mcFor (getCore s c) ch b } }) c
      else haltChan (taken s c ch r q) c ch) := by
  have hread' : engRead (taken s c ch r q) c spNear r.desc 64 = .ok b := engRead_modChan.trans hread
  have hmc : mcFor (getCore (taken s c ch r q) c) ch b = mcFor (getCore s c) ch b := mcFor_modChan ..
  have hok : cdOk (taken s c ch r q) c b = cdOk s c b := rfl
  show execCopyDescriptorStart c ch s = _
  rw [execCopyDescriptorStart]
  dsimp only
  rw [hcr, hst, hrun, ht, if_neg (by simpa using hch), hq]
  dsimp only
  rw [hfly, hheld, if_neg (by decide), ← taken, hread']
  dsimp only
  rw [hmc, hok]
  by_cases hgood : cdOk s c b = true ∧ (∀ y, mcFor (getCore s c) ch b = some y → y.ok = true)
  · rw [if_pos hgood, hgood.1, mcOk_iff.mpr hgood.2]; rfl
  · rw [if_neg hgood, if_pos]
    · rfl
    · rw [← mcOk_iff] at hgood
      simpa [imp_iff_not_or] using hgood

theorem copyStart {c ch : Nat} {s : State} {r : CopyReq} {q : List CopyReq} {b : List Byte}
    (hcr : coreRuns s c = true) (hch : ch < 8) (hst : (getChan s c ch).st = .busy) (hrun : (getChan s c ch).run = none)
    (ht : (getChan s c ch).tcopy = false) (hq : (getChan s c ch).queue = r :: q) (hfly : storeFlying s c r.ctx = false)
    (hheld : (getCtx s c r.ctx).heldSt = []) (hread : engRead s c spNear r.desc 64 = .ok b) :
    ∃ t, exec (.copyDescriptorStart c ch) s = .next (wake t c) ∧ SameMemory s t ∧
      if cdOk s c b ∧ (∀ y, mcFor (getCore s c) ch b = some y → y.ok = true) then
        getChan t c ch = { getChan s c ch with
          queue := q, descaddr := r.desc, run := some { req := r, bytes := b, mc := mcFor (getCore s c) ch b } }
      else getChan t c ch = { getChan s c ch with queue := q, descaddr := r.desc, st := .haltedDesc } := by
  have hx := exec_copyDescriptorStart hcr hch hst hrun ht hq hfly hheld hread
  obtain ⟨htaken, -, -⟩ := modChan_keeps s c ch fun x => { x with queue := q, descaddr := r.desc }
  have hchan : getChan (taken s c ch r q) c ch = { getChan s c ch with queue := q, descaddr := r.desc } :=
    getChan_modChan_same ..
  by_cases hgood : cdOk s c b ∧ (∀ y, mcFor (getCore s c) ch b = some y → y.ok = true)
  · rw [if_pos hgood] at hx
    obtain ⟨hmem, -, -⟩ := modChan_keeps (taken s c ch r q) c ch fun x =>
      { x with run := some { req := r, bytes := b, mc := mcFor (getCore s c) ch b } }
    exact ⟨_, hx, htaken.trans hmem, by rw [if_pos hgood, getChan_modChan_same, hchan]⟩
  · rw [if_neg hgood] at hx
    obtain ⟨hmem, -, -⟩ := modChan_keeps (taken s c ch r q) c ch fun x => { x with st := .haltedDesc, run := none }
    exact ⟨_, hx, htaken.trans hmem, by rw [if_neg hgood, getChan_modChan_same, hchan, ← hrun]⟩

/-! ### A descriptor completes (R81, R254, R258) -/

/-- The channel goes on to its next descriptor or is idle. -/
def Chan.next (x : Chan) : Chan :=
  { x with run := none, st := if x.queue = [] then .idle else .busy, descaddr := (x.queue.head?.map (·.desc)).getD x.descaddr }

/-- Where the tail of a copy goes: its beacon, or the one remote endpoint of all its writes. -/
theorem tailTo_eq (s : State) (c b : Nat) (ends : List Nat) : tailTo s c ends b = { s with mesh :=
    match (ends.filter fun _ => ends.length = 1 && ends ≠ [csite s c]) with
    | [] => { s.mesh with msgs := s.mesh.msgs ++ [{ core := c, site := csite s c, ctx := 0, beacon := b, op := .add 1 }] }
    | d :: _ => { s.mesh with born := s.mesh.born + 1, net := s.mesh.net ++
        [{ src := csite s c, dst := d, vc := 0, kind := .tail, parcel := coreParcelNum s c, pv := true,
           addr := BitVec.ofNat 42 b, pos := csite s c, what := .tail 1, born := s.mesh.born }] } } := by
  match ends with
  | [] => rfl
  | [d] =>
    unfold tailTo
    by_cases hd : d = csite s c
    · have hf : ([d].filter fun _ => [d].length = 1 && [d] ≠ [csite s c]) = [] := by simp [hd]
      rw [hf]
      exact if_pos hd
    · have hf : ([d].filter fun _ => [d].length = 1 && [d] ≠ [csite s c]) = [d] := by simp [hd]
      rw [hf]
      exact if_neg hd
  | d :: f :: l =>
    have hf : ((d :: f :: l).filter fun _ => (d :: f :: l).length = 1 && d :: f :: l ≠ [csite s c]) = [] := by simp
    rw [hf]
    rfl

theorem exec_copyDescriptorComplete {c ch : Nat} {s : State} {r : CopyRun} (hcr : coreRuns s c = true)
    (hrun : (getChan s c ch).run = some r) (hst : (getChan s c ch).st = .busy) (hpos : cdSteps r.bytes ≤ r.pos) (hmc : r.mc = none)
    (hinj : injBlocked s c = false) : exec (.copyDescriptorComplete c ch) s =
      .next (wake (modChan (((cdTail r.bytes).map (tailTo s c r.ends)).getD s) c ch Chan.next) c) := by
  show execCopyDescriptorComplete c ch s = _
  rw [execCopyDescriptorComplete]
  dsimp only
  rw [hrun]
  dsimp only
  rw [hcr, hst, hinj, if_neg (by simpa using hpos), hmc]
  cases cdTail r.bytes <;> rfl

theorem mesh_modChan (s : State) (c ch : Nat) (f : Chan → Chan) : (modChan s c ch f).mesh = s.mesh := rfl

theorem exec_multicastCountComplete {c ch : Nat} {s : State} {r : CopyRun} {m : McEntry} (hrun : (getChan s c ch).run = some r)
    (hst : (getChan s c ch).st = .busy) (hpos : cdSteps r.bytes ≤ r.pos) (hmc : r.mc = some m)
    (hset : mcSet s (coreParcelNum s c) m ≠ [])
    (hsum : ((s.mesh.net.filter (isCount c ch)).map fun f => leNat (f.payload.take 4)).sum = (mcSet s (coreParcelNum s c) m).length) :
    exec (.multicastCountComplete c ch) s = .next (wake (modChan
      { s with mesh := { s.mesh with net := s.mesh.net.filter fun f => !isCount c ch f } } c ch Chan.next) c) := by
  show execMulticastCountComplete c ch s = _
  rw [execMulticastCountComplete]
  dsimp only
  rw [hrun]
  dsimp only
  rw [hmc]
  dsimp only
  rw [if_pos ⟨hsum, mt List.eq_nil_of_length_eq_zero hset, hpos, hst⟩]
  rfl

/-- Settles O17: `copyStart`, `tailTo_eq` for the completion, `copyRow_step` for a step. -/
theorem copiesRun : Obligations.CopiesRun := by
  refine ⟨⟨fun c ch s r q b => ?_, fun c ch s r => ?_⟩, fun c ch s u r ws fl hcr hrun hst hpos hmc hstep hput =>
    copyRow_step hcr hrun hst hpos hmc hstep hput, fun c s r bs hm hread => copyStep_plain hm hread,
    fun c unit s sp a off bs hspot => ⟨_, writeAll_near hspot, localWrite_stored rfl, digestOf_localWrite ..⟩⟩
  · intro x m hcr hch hst hrun ht hq hfly hheld hread
    exact copyStart hcr hch hst hrun ht hq hfly hheld hread
  · intro x next hrun hst hpos
    refine ⟨fun hcr hmc hinj => ?_, fun m hmc hset hsum => ?_⟩
    · have hx := exec_copyDescriptorComplete hcr hrun hst hpos hmc hinj
      cases htail : cdTail r.bytes with
      | none =>
        rw [htail] at hx
        exact ⟨_, hx, getChan_modChan_same .., sameMemory_modCore s c fun _ => ⟨rfl, rfl⟩, fun _ => rfl, fun _ h => nomatch h⟩
      | some b =>
        rw [htail] at hx
        refine ⟨_, hx, ?_, ?_, fun h => (nomatch h), fun b' hb => ?_⟩
        · refine (getChan_modChan_same ..).trans ?_
          have hsame : getChan (((some b).map (tailTo s c r.ends)).getD s) c ch = getChan s c ch := by
            show getChan (tailTo s c r.ends b) c ch = _
            rw [tailTo_eq]; rfl
          rw [hsame]; rfl
        · refine SameMemory.trans ?_ (sameMemory_modCore _ c fun _ => ⟨rfl, rfl⟩)
          show SameMemory s (tailTo s c r.ends b)
          rw [tailTo_eq]
          exact sameMemory_of rfl rfl
        · cases hb
          rw [mesh_modChan]
          exact congrArg State.mesh (tailTo_eq s c b r.ends)
    · exact ⟨_, exec_multicastCountComplete hrun hst hpos hmc hset hsum, getChan_modChan_same ..,
        (sameMemory_of rfl rfl).trans (sameMemory_modCore _ c fun _ => ⟨rfl, rfl⟩), rfl⟩

end Sys2Proof.Machine
end

section
/-!
PROOFS. The vector class: lane-wise operations, reductions, moves, and the registers that a context does not own
(R83 to R85).
-/

namespace Sys2Proof.Machine

/-! ### Bits of FP32 words -/

theorem fabs_eq (v : W32) : fabs v = 0#1 ++ v.extractLsb' 0 31 := by
  have hmask : (0x7FFFFFFF : W32) = ~~~BitVec.twoPow 32 31 := by decide
  rw [fabs, hmask]
  refine BitVec.eq_of_getLsbD_eq fun i hi => ?_
  rw [BitVec.getLsbD_append]
  by_cases h : i < 31
  · simp [h, Nat.ne_of_lt h, hi]
  · obtain rfl : i = 31 := by omega
    simp

theorem fneg_eq (v : W32) : fneg v = (~~~v.extractLsb' 31 1) ++ v.extractLsb' 0 31 := by
  have hmask : (0x80000000 : W32) = BitVec.twoPow 32 31 := by decide
  rw [fneg, hmask]
  refine BitVec.eq_of_getLsbD_eq fun i hi => ?_
  rw [BitVec.getLsbD_append]
  by_cases h : i < 31
  · simp [h, Nat.ne_of_lt h, hi]
  · obtain rfl : i = 31 := by omega
    simp

/-- An FP32 value is zero where all bits but the sign's are. -/
theorem fnz_eq (v : W32) : fnz v = true ↔ ¬ v &&& 0x7FFFFFFF = 0 := by
  have hmod : (v &&& 0x7FFFFFFF = 0) ↔ v.toNat % 2 ^ 31 = 0 := by
    rw [← BitVec.toNat_inj, BitVec.toNat_and, ← Nat.and_two_pow_sub_one_eq_mod]
    rfl
  have hzero : (ofF32 v).isZero = decide (v.toNat % 2 ^ 31 = 0) := by
    have hcode : fmtFP32.maxCode = 2139095039 := by decide
    show (fmtFP32.decode v.toNat).isZero = _
    unfold Fmt.decode
    dsimp only
    rw [hcode, show 2 ^ (fmtFP32.eb + fmtFP32.mb) = 2 ^ 31 from rfl]
    generalize hc : v.toNat % 2 ^ 31 = c
    by_cases hle : c ≤ 2139095039
    · rw [if_pos hle]
      unfold Fmt.ofCode
      dsimp only
      rw [show 2 ^ fmtFP32.mb = 8388608 from rfl]
      by_cases he : c / 8388608 = 0
      · rw [if_pos he, FV.isZero]
        exact decide_eq_decide.mpr (by omega)
      · rw [if_neg he, FV.isZero]
        exact decide_eq_decide.mpr (by omega)
    · rw [if_neg hle]
      have hne : c ≠ 0 := by omega
      rw [decide_eq_false hne]
      show (if c = 2139095039 + 1 then _ else _ : FV).isZero = false
      split <;> rfl
  rw [fnz, hzero, hmod]
  simp

/-! ### Operands (R84) -/

/-- Lane j of operand RB. -/
def laneB (e : Enc) (s : State) (j : Nat) : W32 :=
  if e.md.getLsbD 5 then ((e.x s).s e.rb).extractLsb' 0 32 else (getCore s e.core).lane e.rb.toNat j

section
variable {h : Shape} {e : Enc} {s : State} (hi : Issues h e s)
include hi

theorem vA_issued : vA (issued e s) e = (List.range 64).map ((getCore s e.core).lane e.ra.toNat) := by
  rw [vA, vreg_issued hi]; rfl

theorem vB_issued : vB (issued e s) e = (List.range 64).map (laneB e s) := by
  rw [vB, vreg_issued hi, s_issued hi]
  unfold laneB Enc.bcast
  cases e.md.getLsbD 5 with
  | true => rw [if_pos rfl]; simp
  | false => rfl

end

/-! ### Lane-wise operations (R84) -/

section
variable {i : Instr} {e : Enc} {s : State} {op : Nat}

theorem lane1_results {f : W32 → W32} (hx : exec i s = lane1 op f e s)
    (hi : Issues { cls := 4, op := op, rd := true, ra := true } e s) (ho : Owns e s [e.rd.toNat, e.ra.toNat]) :
    WritesRD i e s fun j => f ((getCore s e.core).lane e.ra.toNat j) := by
  refine writesRD_of hi (hx.trans ?_)
  rw [lane1, issue_next hi, owning_issued hi ho, vA_issued hi, List.map_map]
  rfl

theorem lane2_results {f : W32 → W32 → W32} (hx : exec i s = lane2 op f e s)
    (hi : Issues { cls := 4, op := op, rd := true, ra := true, rb := true, md := 0x20 } e s)
    (ho : Owns e s (e.rd.toNat :: e.ra.toNat :: vbNames e)) :
    WritesRD i e s fun j => f ((getCore s e.core).lane e.ra.toNat j) (laneB e s j) := by
  refine writesRD_of hi (hx.trans ?_)
  rw [lane2, issue_next hi, owning_issued hi ho, vA_issued hi, vB_issued hi, List.zipWith_map, List.zipWith_self]

theorem lane3_results {f : W32 → W32 → W32 → W32} (hx : exec i s = lane3 op f e s)
    (hi : Issues { cls := 4, op := op, rd := true, ra := true, rb := true, md := 0x3F } e s)
    (ho : Owns e s (e.rd.toNat :: e.ra.toNat :: Enc.rc e :: vbNames e)) :
    WritesRD i e s fun j => f ((getCore s e.core).lane e.ra.toNat j) (laneB e s j) ((getCore s e.core).lane (Enc.rc e) j) := by
  refine writesRD_of hi (hx.trans ?_)
  rw [lane3, issue_next hi, owning_issued hi ho, vA_issued hi, vB_issued hi, vreg_issued hi, Site.vreg, List.zip, List.zipWith_map,
    List.zipWith_self, List.zipWith_map, List.zipWith_self]

/-! ### Reductions (R85) -/

/-- One level of a reduction: neighbouring pairs combined. -/
def level (f : W32 → W32 → W32) (g : Nat → W32) (j : Nat) : W32 := f (g (2 * j)) (g (2 * j + 1))

theorem pairUp_range (f : W32 → W32 → W32) (g : Nat → W32) (n : Nat) :
    pairUp f ((List.range (2 * n)).map g) = (List.range n).map (level f g) := by
  induction n generalizing g with
  | zero => rfl
  | succ n ih =>
    rw [Nat.mul_succ, List.range_succ_eq_map, List.range_succ_eq_map, List.range_succ_eq_map]
    simp only [List.map_cons, List.map_map, pairUp]
    exact congrArg _ (ih fun j => g (j + 2))

theorem tree_range (f : W32 → W32 → W32) (n : Nat) (g : Nat → W32) :
    tree f n ((List.range (2 ^ n)).map g) = (level f)^[n] g 0 := by
  induction n generalizing g with
  | zero => rfl
  | succ n ih => rw [tree, pow_succ', pairUp_range, ih]; rfl

theorem reduce_results {f : W32 → W32 → W32} (hx : exec i s = reduce op f e s)
    (hi : Issues { cls := 4, op := op, rd := true, ra := true } e s) (ho : Owns e s [e.rd.toNat, e.ra.toNat]) :
    WritesRD i e s fun j => if j = 0 then
      level f (level f (level f (level f (level f (level f ((getCore s e.core).lane e.ra.toNat)))))) 0 else 0 := by
  have htree : tree f 6 ((List.range 64).map ((getCore s e.core).lane e.ra.toNat)) = _ := tree_range f 6 _
  refine writesRD_of hi (hx.trans ?_)
  rw [reduce, issue_next hi, owning_issued hi ho, vA_issued hi, htree]
  rfl

end

/-! ### Moves (R84) -/

section
variable {e : Enc} {s : State}

theorem exec_vbcast (hi : Issues { cls := 4, op := 0x14, rd := true, ra := true } e s) (ho : Owns e s [e.rd.toNat]) :
    exec (.vbcast e) s = .next (wrV e (issued e s) ((List.range 64).map fun _ => ((e.x s).s e.ra).extractLsb' 0 32)) := by
  show execVbcast e s = _
  rw [execVbcast, issue_next hi, owning_issued hi ho, s_issued hi, List.map_const', List.length_range]

theorem exec_vmovs (hi : Issues { cls := 4, op := 0x15, rd := true, ra := true, imm := 0x3F } e s) (ho : Owns e s [e.ra.toNat]) :
    exec (.vmovs e) s =
      .next (wrS e (issued e s) (((getCore s e.core).lane e.ra.toNat e.imm.toNat).zeroExtend 64)) := by
  show execVmovs e s = _
  rw [execVmovs, issue_next hi, owning_issued hi ho, (acted_issued hi).site]
  rfl

end

/-! ### Registers that are not owned (R83) -/

/-- The bits of a mask gathered from a list of bit numbers. -/
theorem getLsbD_foldl_or (p : Nat → Prop) [DecidablePred p] (l : List Nat) (m : W32) {k : Nat} (hk : k < 32) :
    (l.foldl (fun m r => if p r then m ||| ((1 <<< r : Nat) : W32) else m) m).getLsbD k =
      (m.getLsbD k || decide (k ∈ l ∧ p k)) := by
  induction l generalizing m with
  | nil => simp
  | cons r l ih =>
    have hbit : ((1 <<< r : Nat) : W32).getLsbD k = decide (r = k) := by
      rw [Nat.one_shiftLeft]
      show (BitVec.ofNat 32 (2 ^ r)).getLsbD k = _
      rw [BitVec.getLsbD_ofNat, Nat.testBit_two_pow]
      simp [hk]
    rw [List.foldl_cons, ih]
    by_cases hp : p r
    · rw [if_pos hp, BitVec.getLsbD_or, hbit]
      by_cases hkr : r = k
      · subst hkr; simp [hp]
      · simp [hkr, Ne.symm hkr]
    · rw [if_neg hp]
      by_cases hkr : r = k
      · subst hkr; simp [hp]
      · simp [Ne.symm hkr]

/-- The registers of a list that the context does not own, as a mask over all registers (R83). -/
def lacking (x : Ctx) (rs : List Nat) : W32 :=
  (List.range 32).foldl (fun m r => if r ∈ rs ∧ x.valloc.getLsbD r = false then m ||| (1 <<< r) else m) 0

theorem notOwned_eq (x : Ctx) {rs : List Nat} (hrs : ∀ r ∈ rs, r < 32) : notOwned x rs = lacking x rs := by
  have hform : notOwned x rs =
      rs.foldl (fun m r => if x.valloc.getLsbD r = false then m ||| ((1 <<< r : Nat) : W32) else m) 0 := by
    refine List.foldl_ext _ _ _ fun m r hr => ?_
    have h32 := hrs r hr
    have hbit : BitVec.ofNat 32 (2 ^ (r % 32)) = ((1 <<< r : Nat) : W32) := by
      rw [Nat.mod_eq_of_lt h32, Nat.one_shiftLeft]; rfl
    rw [hbit]
    cases x.valloc.getLsbD r <;> simp [h32]
  refine BitVec.eq_of_getLsbD_eq fun k hk => ?_
  rw [hform, lacking, getLsbD_foldl_or (fun r => x.valloc.getLsbD r = false) _ _ hk,
    getLsbD_foldl_or (fun r => r ∈ rs ∧ x.valloc.getLsbD r = false) _ _ hk]
  simp [hk]

/-- Naming a register that the context does not own traps with those registers (R83). -/
theorem owning_traps {i : Instr} {h : Shape} {e : Enc} {s : State} {rs : List Nat} {f : State → State} (hi : Issues h e s)
    (hx : exec i s = issue h e s fun s => owning e rs s f) (hrs : ∀ r ∈ rs, r < 32) (hbad : lacking (e.x s) rs ≠ 0) :
    Traps i e s 0x05 ((lacking (e.x s) rs).zeroExtend 64) := by
  have hv : lacking (e.x (issued e s)) rs = lacking (e.x s) rs := by rw [lacking, lacking, valloc_issued hi]
  refine traps_of hi ((hx.trans (issue_next hi _)).trans ?_)
  unfold owning
  dsimp only
  rw [notOwned_eq _ hrs, hv, if_pos hbad]

theorem lt32_of_vbNames {e : Enc} {r : Nat} (h : r ∈ vbNames e) : r < 32 := by
  unfold vbNames at h
  split at h
  · cases h
  · rw [List.mem_singleton.mp h]; exact BitVec.isLt _

/-- Settles O18: the lane-wise shapes `lane1_results` to `lane3_results`, the reductions' tree (`tree_range`) and `owning_traps`. -/
theorem vectorResults : Obligations.VectorResults := by
  refine ⟨fun e s => ?_, fun e s => ?_, fun e s => ?_, fun e s => ?_⟩
  · intro y a bc b rc c rb two three
    refine ⟨lane2_results rfl, lane2_results rfl, lane2_results rfl, lane2_results rfl, lane2_results rfl,
      lane2_results (i := .vcmplt e) (f := fun a b => if flt a b then f32one else 0) rfl,
      lane2_results (i := .viadd e) (f := fun a b => a + b) rfl, lane3_results rfl, fun hi ho => ?_⟩
    have h := lane3_results (i := .vsel e) (f := fun a b c => if fnz c then a else b) rfl hi ho
    simp only [fnz_eq, ite_not] at h
    exact h
  · intro a one
    refine ⟨fun hi ho => ?_, fun hi ho => ?_, lane1_results rfl, lane1_results rfl, lane1_results rfl, lane1_results rfl,
      lane1_results rfl⟩
    · have h := lane1_results (i := .vabs e) (f := fabs) rfl hi ho
      simp only [fabs_eq] at h
      exact h
    · have h := lane1_results (i := .vneg e) (f := fneg) rfl hi ho
      simp only [fneg_eq] at h
      exact h
  · exact ⟨reduce_results (i := .vrsum e) (f := fadd) rfl, reduce_results (i := .vrmax e) (f := fmax) rfl,
      fun hi ho => writesRD_of hi (exec_vbcast hi ho), fun hi ho => writesS_of hi (exec_vmovs hi ho)⟩
  · intro bad rb l2 l3
    have h2 (r : Nat) (hr : r ∈ l2) : r < 32 := by
      rcases List.mem_cons.mp hr with rfl | hr
      · exact BitVec.isLt _
      rcases List.mem_cons.mp hr with rfl | hr
      · exact BitVec.isLt _
      exact lt32_of_vbNames hr
    have h3 (r : Nat) (hr : r ∈ l3) : r < 32 := by
      rcases List.mem_cons.mp hr with rfl | hr
      · exact BitVec.isLt _
      rcases List.mem_cons.mp hr with rfl | hr
      · exact BitVec.isLt _
      rcases List.mem_cons.mp hr with rfl | hr
      · exact BitVec.isLt _
      exact lt32_of_vbNames hr
    have h1 (r : Nat) (hr : r ∈ [e.rd.toNat, e.ra.toNat]) : r < 32 := by
      rcases List.mem_pair.mp hr with rfl | rfl <;> exact BitVec.isLt _
    refine ⟨fun hi hbad => ?_, fun hi hbad => ?_, fun hi hbad => ?_, fun hi hbad => ?_⟩
    · exact owning_traps hi rfl h2 hbad
    · exact owning_traps hi rfl h1 hbad
    · exact owning_traps hi rfl h3 hbad
    · exact owning_traps hi rfl (fun _ => lt32_of_vbNames) hbad

end Sys2Proof.Machine
end

section
/-!
PROOFS. The vector unit's memory accesses, the sum of triples and the conversions (R44, R50, R52, R84, R86, R87).
-/

namespace Sys2Proof.Machine

/-! ### Elements as bytes (R12, R39) -/

theorem leNat_of_leBytes (n v : Nat) : leNat (leBytes n v) = v % 256 ^ n := by
  induction n generalizing v with
  | zero => rw [pow_zero, Nat.mod_one]; rfl
  | succ n ih => rw [leBytes, leNat, ih, pow_succ', Nat.mod_mul, BitVec.toNat_ofNat]

theorem leNat_append (a b : List Byte) : leNat (a ++ b) = leNat a + 256 ^ a.length * leNat b := by
  induction a with
  | nil => rw [List.nil_append, leNat, List.length_nil]; omega
  | cons x a ih => rw [List.cons_append, leNat, leNat, ih, List.length_cons, pow_succ]; ring

theorem chunks_eq (w n : Nat) (l : List Byte) : chunks w n l = (List.range n).map fun j => leNat ((l.drop (w * j)).take w) := by
  induction n generalizing l with
  | zero => rfl
  | succ n ih =>
    rw [chunks, ih, List.range_succ_eq_map, List.map_cons, List.map_map, Nat.mul_zero, List.drop_zero]
    refine congrArg _ (List.map_congr_left fun j _ => ?_)
    rw [Function.comp_apply, List.drop_drop, Nat.mul_succ, Nat.add_comm]

theorem lanesOf_eq {bs : List Byte} (h : bs.length = 256) :
    lanesOf bs = (List.range 64).map fun j => BitVec.ofNat 32 (leNat ((bs.drop (4 * j)).take 4)) := by
  rw [lanesOf, h, chunks_eq, List.map_map]; rfl

theorem length_flatMap_leBytes {α : Type} (n : Nat) (l : List α) (f : α → Nat) :
    (l.flatMap fun x => leBytes n (f x)).length = n * l.length := by
  induction l with
  | nil => rfl
  | cons x l ih => rw [List.flatMap_cons, List.length_append, ih, leBytes_length, List.length_cons]; ring

/-- Piece j of elements of n bytes each is element j's. -/
theorem piece_flatMap_leBytes (n : Nat) (l : List Nat) (j : Nat) :
    ((l.flatMap fun v => leBytes n v).drop (n * j)).take n = leBytes n (l.getD j 0) ∨ l.length ≤ j := by
  induction l generalizing j with
  | nil => exact .inr (Nat.zero_le _)
  | cons v l ih =>
    cases j with
    | zero =>
      left
      rw [List.flatMap_cons, Nat.mul_zero, List.drop_zero, List.take_left' (leBytes_length ..)]
      rfl
    | succ j =>
      rw [List.flatMap_cons, Nat.mul_succ, Nat.add_comm, ← List.drop_drop, List.drop_left' (leBytes_length ..)]
      rcases ih j with h | h
      · exact .inl h
      · exact .inr (by simpa using h)

theorem chunks_flatMap_leBytes (n : Nat) (l : List Nat) :
    chunks n l.length (l.flatMap fun v => leBytes n v) = l.map (· % 256 ^ n) := by
  induction l with
  | nil => rfl
  | cons v l ih =>
    rw [List.length_cons, chunks, List.flatMap_cons, List.take_left' (leBytes_length ..), List.drop_left' (leBytes_length ..), ih,
      leNat_of_leBytes, List.map_cons]

/-! ### Triples (R86) -/

theorem spares_setTriple (v : Nat) (es : List W96) (d : Datum) : SparesContexts fun x => x.setTriple v es d :=
  ⟨fun _ _ => rfl, fun _ => ⟨rfl, rfl⟩⟩

theorem lane_setTriple (x : Site) (v : Nat) (f : Nat → W96) (d : Datum) (r : Nat) {j : Nat} (hj : j < 64) :
    (x.setTriple v ((List.range 64).map f) d).lane r j =
      if v ≤ r ∧ r < v + 3 then (f j).extractLsb' (32 * (r - v)) 32 else x.lane r j := by
  have hl : (x.setTriple v ((List.range 64).map f) d).lane r j =
      (((x.setVreg v (((List.range 64).map f).map (·.extractLsb' 0 32))).setVreg (v + 1)
        (((List.range 64).map f).map (·.extractLsb' 32 32))).setVreg (v + 2)
        (((List.range 64).map f).map (·.extractLsb' 64 32))).lane r j := rfl
  rw [hl, List.map_map, List.map_map, List.map_map, lane_setVreg_range _ _ _ _ hj, lane_setVreg_range _ _ _ _ hj,
    lane_setVreg_range _ _ _ _ hj]
  by_cases h2 : r = v + 2
  · rw [if_pos h2, if_pos (by omega), h2, show 32 * (v + 2 - v) = 64 by omega]; rfl
  by_cases h1 : r = v + 1
  · rw [if_neg h2, if_pos h1, if_pos (by omega), h1, show 32 * (v + 1 - v) = 32 by omega]; rfl
  by_cases h0 : r = v
  · rw [if_neg h2, if_neg h1, if_pos h0, if_pos (by omega), h0, show 32 * (v - v) = 0 by omega]; rfl
  · rw [if_neg h2, if_neg h1, if_neg h0, if_neg (by omega)]

theorem vtag_setTriple (x : Site) (v : Nat) (es : List W96) (d : Datum) (r : Nat) :
    (x.setTriple v es d).vtag r = if r = v then d else x.vtag r :=
  sget_sset ..

/-- A site of which only vector registers have changed. -/
def vecSite (x y : Site) : Site := { x with ctxs := y.ctxs, vlanes := y.vlanes, vtags := y.vtags }

theorem vecSite_of {x y z : Site} {l : SMap Ctx} (hy : y = { z with ctxs := l })
    (hz : z = { x with vlanes := z.vlanes, vtags := z.vtags }) : y = vecSite x y := by
  rw [hy, hz]; rfl

/-- The instruction's context with flags set besides those set before. -/
def Ctx.flagged (x : Ctx) (fl : W32) : Ctx := { x with nflags := x.nflags ||| fl }

theorem flagged_zero (x : Ctx) : x.flagged 0 = x :=
  congrArg (fun f => { x with nflags := f }) (BitVec.or_zero : x.nflags ||| 0#32 = x.nflags)

section
variable {i : Instr} {h : Shape} {e : Enc} {s : State} (hi : Issues h e s)
include hi

theorem acted_raiseFlags (fl : W32) :
    Acted e s (raiseFlags (issued e s) e.core e.ctx fl) ((e.x s).flagged fl) (getCore s e.core) :=
  (acted_issued hi).modCtx (f := fun x => x.flagged fl) fun _ _ _ => rfl

theorem acted_unflagged : Acted e s (issued e s) ((e.x s).flagged 0) (getCore s e.core) := by
  have h := acted_issued hi
  rwa [flagged_zero]

/-- An instruction that writes a triple and its tag and is finished (R86). -/
theorem writesV_of_triple {u : State} {es : List W96} {w : Nat → Nat → W32} {d : Datum} {fl : W32}
    (hu : Acted e s u ((e.x s).flagged fl) (getCore s e.core)) (hx : exec i s = .next (wrT e u es d))
    (hw : ∀ r j, j < 64 → ((getCore s e.core).setTriple e.rd.toNat es d).lane r j = w r j) :
    WritesV i e s w (fun r => if r = e.rd.toNat then d else (getCore s e.core).vtag r) fl := by
  have ht := (hu.modCore (spares_setTriple e.rd.toNat es d)).retire (issues_st hi) (issues_wait hi)
  have hset := vtag_setTriple (getCore s e.core) e.rd.toNat es d
  have hvec : (getCore s e.core).setTriple e.rd.toNat es d = { getCore s e.core with
    vlanes := ((getCore s e.core).setTriple e.rd.toNat es d).vlanes
    vtags := ((getCore s e.core).setTriple e.rd.toNat es d).vtags } := rfl
  rw [wrT] at hx
  generalize retire (modCore u e.core fun x => x.setTriple e.rd.toNat es d) e.core e.ctx = t at hx ht
  generalize (getCore s e.core).setTriple e.rd.toNat es d = z at hw ht hset hvec
  obtain ⟨honly, hmem, hctx, hothers, hsite⟩ := ht
  refine ⟨t, hx, honly, hmem, hctx, hothers, vecSite_of hsite hvec, fun r => ?_, fun r j _ hj => ?_⟩
  · rw [hsite]; exact hset r
  · rw [hsite]; exact hw r j hj

theorem writesTriple_of {u : State} {f : Nat → W96} {d : Datum} {fl : W32}
    (hu : Acted e s u ((e.x s).flagged fl) (getCore s e.core))
    (hx : exec i s = .next (wrT e u ((List.range 64).map f) d)) : WritesTriple i e s f d fl :=
  writesV_of_triple hi hu hx fun r _ hj => lane_setTriple _ _ f d r hj

/-- As `writesRD_of`, where flags are raised first. -/
theorem writesRD_flagged {f : Nat → W32} (hx : exec i s =
    .next (wrV e (raiseFlags (issued e s) e.core e.ctx 0) ((List.range 64).map f))) : WritesRD i e s f := by
  have hu := acted_raiseFlags hi 0
  rw [flagged_zero] at hu
  exact writesV_of_acted hi hx (hu.modCore (spares_setVreg ..)) rfl fun r _ _ hj => lane_setVreg_range _ _ f r hj

end

/-! ### Loads (R60, R84 to R86, R185) -/

section
variable {e : Enc} {s : State}

theorem addrV_issued {h : Shape} (hi : Issues h e s) :
    vldAddr false e (issued e s) = (e.x s).a e.ra + e.imm.signExtend 64 := addrAI_issued hi

theorem addrD_issued {h : Shape} (hi : Issues h e s) :
    vldAddr true e (issued e s) = (e.x s).a e.ra + (e.imm.extractLsb' 10 22).signExtend 64 := by
  show addrD (e.x (issued e s)) e = _
  rw [addrD, a_issued hi]

theorem exec_vld (hi : Issues { cls := 4, op := 0x12, rd := true, ra := true, aA := true, imm := ~~~0 } e s)
    (ho : Owns e s [e.rd.toNat]) (hal : ((e.x s).a e.ra + e.imm.signExtend 64).toNat % 64 = 0) :
    exec (.vld e) s = .next (orWait (attVld false e) true .vld e (issued e s)) := by
  show execVld e s = _
  rw [execVld, issue_next hi, owning_issued hi ho, vload, addrV_issued hi, if_neg (not_not.mpr hal)]
  rfl

theorem exec_vldd (hi : Issues { cls := 4, op := 0x19, rd := true, ra := true, aA := true, imm := ~~~0 } e s)
    (h29 : e.rd.toNat ≤ 29) (ho : Owns e s (tripleRegs e.rd))
    (hal : ((e.x s).a e.ra + (e.imm.extractLsb' 10 22).signExtend 64).toNat % 64 = 0) :
    exec (.vldd e) s = .next (orWait (attVld true e) true .vldd e (issued e s)) := by
  show execVldd e s = _
  rw [execVldd, issue_next hi, tripleOk, decide_eq_true h29, owning_issued hi ho, vload, addrD_issued hi, if_neg (not_not.mpr hal)]
  rfl

/-- A vector load inside the site. -/
theorem attVld_local {h : Shape} (hi : Issues h e s) {d : Bool} {a : W64} {x : Spot} {bs : List Byte}
    (ha : vldAddr d e (issued e s) = a) (hspot : spotOf s e.core spLocal a (vldLen d) = some x) (hloc : isLocal s e.core x = true)
    (hread : spotRead s e.core x (vldLen d) = .ok bs) : attVld d e (issued e s) =
      some (retire (modCore (issued e s) e.core fun x => x.putLoaded e.rd (vldTag d e) bs) e.core e.ctx) := by
  unfold attVld
  dsimp only
  rw [ha, spotOf_issued hi, hspot]
  dsimp only
  rw [if_pos ((isLocal_issued hi ..).trans hloc), spotRead_issued hi, hread]

theorem attVld_sends {h : Shape} (hi : Issues h e s) {d : Bool} {a : W64} {x : Spot}
    (ha : vldAddr d e (issued e s) = a) (hspot : spotOf s e.core spLocal a (vldLen d) = some x) (hloc : isLocal s e.core x = false)
    (hinj : canInject s e.core 0 = true) : attVld d e (issued e s) =
      some (block (inject (issued e s) (coreFlit s e.core x a false [] (.load e.core e.ctx (vldLen d)))) e.core e.ctx true
        (.vload e.rd (vldTag d e) a)) := by
  unfold attVld
  dsimp only
  rw [ha, spotOf_issued hi, hspot]
  dsimp only
  rw [if_neg (by rw [isLocal_issued hi, hloc]; decide), canInject_issued hi, hinj, coreFlit_issued hi]
  rfl

/-! ### Stores (R84, R86, R185, R188) -/

theorem exec_vst (hi : Issues { cls := 4, op := 0x13, ra := true, rb := true, aA := true, md := 0x20, imm := ~~~0 } e s)
    (ho : Owns e s (vbNames e)) (hal : ((e.x s).a e.ra + e.imm.signExtend 64).toNat % 64 = 0) :
    exec (.vst e) s = .next (orWait (attVst false e) true .vst e (issued e s)) := by
  show execVst e s = _
  rw [execVst, issue_next hi, owning_issued hi ho, vstore, addrV_issued hi, if_neg (not_not.mpr hal)]
  rfl

theorem exec_vstd (hi : Issues { cls := 4, op := 0x1A, ra := true, rb := true, aA := true, imm := 0xFFFFFC00 } e s)
    (h29 : e.rb.toNat ≤ 29) (ho : Owns e s (tripleRegs e.rb))
    (hal : ((e.x s).a e.ra + (e.imm.extractLsb' 10 22).signExtend 64).toNat % 64 = 0) :
    exec (.vstd e) s = .next (orWait (attVst true e) true .vstd e (issued e s)) := by
  show execVstd e s = _
  rw [execVstd, issue_next hi, tripleOk, decide_eq_true h29, owning_issued hi ho, vstore, addrD_issued hi, if_neg (not_not.mpr hal)]
  rfl

/-- A vector store inside the site. -/
theorem attVst_local {h : Shape} (hi : Issues h e s) {d : Bool} {a : W64} {x : Spot} {bs : List Byte}
    (ha : vldAddr d e (issued e s) = a) (hbs : vstBytes d e (issued e s) = bs)
    (hspot : spotOf s e.core spLocal a bs.length = some x) (hloc : isLocal s e.core x = true) :
    attVst d e (issued e s) = some (retire (localWrite (issued e s) e.core 1 a x bs) e.core e.ctx) := by
  have hspot' := (spotOf_issued hi e.core spLocal a bs.length).trans hspot
  have hloc' := (isLocal_issued hi e.core x).trans hloc
  unfold attVst
  dsimp only
  rw [ha, hbs, hspot']
  dsimp only
  rw [if_pos hloc', engWrite_local hspot' hloc']

theorem attVst_sends {h : Shape} (hi : Issues h e s) {d : Bool} {a : W64} {x : Spot} {bs : List Byte}
    (ha : vldAddr d e (issued e s) = a) (hbs : vstBytes d e (issued e s) = bs)
    (hspot : spotOf s e.core spLocal a bs.length = some x) (hloc : isLocal s e.core x = false) (hinj : canInject s e.core 0 = true) :
    attVst d e (issued e s) = some (retire (inject (issued e s) (coreFlit s e.core x a true bs
      (.store e.core e.ctx (e.x s).pc a))) e.core e.ctx) := by
  unfold attVst
  dsimp only
  rw [ha, hbs, (spotOf_issued hi ..).trans hspot]
  dsimp only
  rw [if_neg (by rw [isLocal_issued hi, hloc]; decide), canInject_issued hi, hinj, coreFlit_issued hi, pc_issued hi]
  rfl

theorem vstBytes_vst {h : Shape} (hi : Issues h e s) :
    vstBytes false e (issued e s) = (List.range 64).flatMap fun j => leBytes 4 (laneB e s j).toNat := by
  show lanesBytes (vB (issued e s) e) = _
  rw [lanesBytes, vB_issued hi, List.flatMap_map]

theorem vstBytes_vstd {h : Shape} (hi : Issues h e s) :
    vstBytes true e (issued e s) = (List.range 64).flatMap fun j => leBytes 12 ((getCore s e.core).lane (e.rb.toNat + 2) j ++
      (getCore s e.core).lane (e.rb.toNat + 1) j ++ (getCore s e.core).lane e.rb.toNat j).toNat := by
  show ((getCore (issued e s) e.core).triple e.rb.toNat).flatMap dafBytes = _
  rw [(acted_issued hi).site, Site.triple, List.flatMap_map]
  rfl

end

/-- Settles O19. -/
theorem vectorMemoryResults : Obligations.VectorMemoryResults := by
  intro e s bs x y a d
  refine ⟨fun hi ho hal hspot => ⟨fun hloc hinj => ?_, fun hloc hread => ?_⟩, fun hi h29 ho hal hspot hloc hread => ?_,
    fun hi ho hal hspot => ?_, fun hi h29 ho hal hspot hloc => ?_⟩
  · have hx := exec_vld hi ho hal
    rw [orWait, attVld_sends hi (d := false) (addrV_issued hi) hspot hloc hinj] at hx
    exact waits_of_switch (hx := hx) ((acted_issued hi).memory.trans (sameMemory_inject _ _)) (ctxIs_inject (issued_ctx hi) _)
  · have hx := exec_vld hi ho hal
    rw [orWait, attVld_local hi (d := false) (addrV_issued hi) hspot hloc hread] at hx
    refine writesRD_of hi (hx.trans ?_)
    rw [← lanesOf_eq (length_of_spotRead hloc hread)]
    rfl
  · have hx := exec_vldd hi h29 ho hal
    rw [orWait, attVld_local hi (d := true) (addrD_issued hi) hspot hloc hread] at hx
    refine writesTriple_of hi (acted_unflagged hi) (hx.trans ?_)
    have hes := congrArg (List.map (BitVec.ofNat 96)) (chunks_eq 12 64 bs)
    rw [List.map_map] at hes
    exact congrArg (fun es => Host.Outcome.next (wrT e (issued e s) es _)) hes
  · intro v vs
    have hvs : vs.length = 256 := (length_flatMap_leBytes 4 (List.range 64) fun j => (v j).toNat).trans (by rw [List.length_range])
    have hown : Owns e s (vbNames e) := by
      unfold vbNames Enc.bcast
      cases hb : e.md.getLsbD 5 with
      | true => exact fun _ h => nomatch h
      | false => exact ho hb
    have hx := exec_vst hi hown hal
    refine ⟨fun hloc => ?_, fun hloc hinj => ?_⟩
    · rw [orWait, attVst_local hi (addrV_issued hi) (vstBytes_vst hi) (hvs ▸ hspot) hloc] at hx
      exact stores_of hi hloc hx
    · rw [orWait, attVst_sends hi (addrV_issued hi) (vstBytes_vst hi) (hvs ▸ hspot) hloc hinj] at hx
      obtain ⟨hmem, hctx⟩ := retire_after hi ((acted_issued hi).memory.trans (sameMemory_inject _ (coreFlit s e.core x a true vs
        (.store e.core e.ctx (e.x s).pc a)))) (ctxIs_inject (issued_ctx hi) _)
      refine ⟨_, hx, hmem, hctx, ?_⟩
      rw [mesh_retire, mesh_inject, leaves, mesh_issued hi]
      rfl
  · have hx := exec_vstd hi h29 ho hal
    have hvs := vstBytes_vstd hi
    rw [orWait, attVst_local hi (addrD_issued hi) hvs (by rw [length_flatMap_leBytes]; exact hspot) hloc] at hx
    exact stores_of hi hloc hx

end Sys2Proof.Machine
end

section
/-!
PROOFS. The sum of triples and the conversions of the vector unit (R44, R50, R52, R86, R87).
-/

namespace Sys2Proof.Machine

section
variable {e : Enc} {s : State}

/-! ### VDADD (R52, R86) -/

/-- The shape of VDADD. -/
def vdaddShape : Shape := { cls := 4, op := 0x17, rd := true, ra := true, rb := true }

/-- VDADD of registers that the context owns. -/
def vdaddTo (e : Enc) (s : State) : State :=
  let x := getCore s e.core
  if x.vtag e.ra.toNat ≠ x.vtag e.rb.toNat
  then e.trap s 0x07 (BitVec.ofNat 64 ((x.vtag e.ra.toNat).toNat * 65536 + (x.vtag e.rb.toNat).toNat))
  else wrT e s (List.zipWith (· + ·) (x.triple e.ra.toNat) (x.triple e.rb.toNat)) (x.vtag e.ra.toNat)

theorem exec_vdadd : exec (.vdadd e) s = issue vdaddShape e s fun s =>
    if !(tripleOk e.rd && tripleOk e.ra && tripleOk e.rb) then e.trap s 0x01 (encWord vdaddShape e)
    else owning e (tripleRegs e.rd ++ tripleRegs e.ra ++ tripleRegs e.rb) s (vdaddTo e) := rfl

theorem vtag_issued {h : Shape} (hi : Issues h e s) (r : Nat) : (getCore (issued e s) e.core).vtag r = (getCore s e.core).vtag r := by
  rw [(acted_issued hi).site]; rfl

theorem triple_issued {h : Shape} (hi : Issues h e s) (r : Nat) : (getCore (issued e s) e.core).triple r = (getCore s e.core).triple r := by
  rw [(acted_issued hi).site]; rfl

theorem exec_vdadd_owned (hi : Issues vdaddShape e s) (hd : e.rd.toNat ≤ 29) (ha : e.ra.toNat ≤ 29) (hb : e.rb.toNat ≤ 29)
    (ho : Owns e s (tripleRegs e.rd ++ tripleRegs e.ra ++ tripleRegs e.rb)) : exec (.vdadd e) s = .next (
      if (getCore s e.core).vtag e.ra.toNat ≠ (getCore s e.core).vtag e.rb.toNat
      then e.trap (issued e s) 0x07
        (BitVec.ofNat 64 (((getCore s e.core).vtag e.ra.toNat).toNat * 65536 + ((getCore s e.core).vtag e.rb.toNat).toNat))
      else wrT e (issued e s) (List.zipWith (· + ·) ((getCore s e.core).triple e.ra.toNat) ((getCore s e.core).triple e.rb.toNat))
        ((getCore s e.core).vtag e.ra.toNat)) := by
  rw [exec_vdadd, issue_next hi, tripleOk, tripleOk, tripleOk, decide_eq_true hd, decide_eq_true ha, decide_eq_true hb,
    owning_issued hi ho]
  unfold vdaddTo
  dsimp only
  rw [vtag_issued hi, vtag_issued hi, triple_issued hi, triple_issued hi]
  rfl

/-- Two tags of 10 bits side by side. -/
theorem tags_eq (a b : Datum) : BitVec.ofNat 64 (a.toNat * 65536 + b.toNat) = a.zeroExtend 64 <<< 16 ||| b.zeroExtend 64 := by
  have hb : b.toNat < 2 ^ 16 := lt_trans b.isLt (by decide)
  have ha : a.toNat < 2 ^ 10 := a.isLt
  refine BitVec.eq_of_toNat_eq ?_
  rw [BitVec.toNat_ofNat, BitVec.toNat_or, BitVec.toNat_shiftLeft, BitVec.toNat_setWidth, BitVec.toNat_setWidth, Nat.shiftLeft_eq,
    Nat.mod_eq_of_lt (a := a.toNat) (by omega), Nat.mod_eq_of_lt (a := b.toNat) (by omega), Nat.mod_eq_of_lt (a := _ * _) (by omega),
    Nat.mod_eq_of_lt (by omega), Nat.mul_comm, ← Nat.two_pow_add_eq_or_of_lt hb]

/-! ### VCVT (R44, R50, R87) -/

/-- The shape of VCVT, which has a scale operand for FP8 formats. -/
def vcvtShape (fp8 : Bool) : Shape := { cls := 4, op := 0x16, rd := true, ra := true, rb := fp8, imm := 0xFFFFF }

def vcvtSf (e : Enc) : Nat := (e.imm.extractLsb' 0 5).toNat
def vcvtDf (e : Enc) : Nat := (e.imm.extractLsb' 5 5).toNat
def vcvtDatum (e : Enc) : Datum := e.imm.extractLsb' 10 10

/-- What VCVT does that converts. -/
def vcvtTo (e : Enc) (s : State) : State :=
  let x := getCore s e.core
  let cv : Conv := { sfmt := vcvtSf e, dfmt := vcvtDf e, scale := ((e.x s).s e.rb).extractLsb' 0 32,
                     d1 := (x.vtag e.ra.toNat).toInt, d2 := (vcvtDatum e).toInt }
  let rs := (vcvtSrc x (vcvtSf e) e.ra.toNat).map fun b => cv.elem 0 0 b
  let s := raiseFlags s e.core e.ctx (rs.foldl (fun a r => a ||| r.2) 0)
  if vcvtDf e = 0x10 then wrT e s (rs.map fun r => BitVec.ofNat 96 r.1) (vcvtDatum e)
  else wrV e s (lanesOf (fit 256 (pack (fmtBits (vcvtDf e)) (rs.map (·.1)))))

/-- The vector registers of VCVT. -/
def vcvtRegs (e : Enc) : List Nat :=
  (if vcvtDf e = 0x10 then tripleRegs e.rd else [e.rd.toNat]) ++ if vcvtSf e = 0x10 then tripleRegs e.ra else [e.ra.toNat]

/-- The form of VCVT is not legal (R86, R87). -/
def vcvtBad (e : Enc) : Bool :=
  !vcvtOk (vcvtSf e) (vcvtDf e) || (vcvtDf e ≠ 0x10 && vcvtDatum e ≠ 0) || (vcvtDf e = 0x10 && !tripleOk e.rd) ||
    (vcvtSf e = 0x10 && !tripleOk e.ra)

theorem exec_vcvt : exec (.vcvt e) s = issue (vcvtShape (fmtFp8 (vcvtSf e) || fmtFp8 (vcvtDf e))) e s fun s =>
    if vcvtBad e then e.trap s 0x01 (encWord (vcvtShape (fmtFp8 (vcvtSf e) || fmtFp8 (vcvtDf e))) e)
    else owning e (vcvtRegs e) s (vcvtTo e) := rfl

end

/-- The elements of FP32 lanes. -/
theorem vcvtSrc_fp32 (x : Site) (r : Nat) : vcvtSrc x 0 r = (List.range 64).map fun j => (x.lane r j).toNat := by
  have hbytes : lanesBytes (x.vreg r) = ((List.range 64).map fun j => (x.lane r j).toNat).flatMap fun v => leBytes 4 v := by
    rw [lanesBytes, Site.vreg, List.flatMap_map, List.flatMap_map]
  have hlen : (lanesBytes (x.vreg r)).length / 4 = ((List.range 64).map fun j => (x.lane r j).toNat).length := by
    rw [hbytes, length_flatMap_leBytes, Nat.mul_div_cancel_left _ (by decide)]
  have hun : unpack 32 (lanesBytes (x.vreg r)) = chunks 4 ((lanesBytes (x.vreg r)).length / 4) (lanesBytes (x.vreg r)) := rfl
  show (unpack 32 (lanesBytes (x.vreg r))).take 64 = _
  rw [hun, hlen, hbytes, chunks_flatMap_leBytes, List.map_map, List.take_of_length_le (by simp)]
  refine List.map_congr_left fun j _ => ?_
  exact Nat.mod_eq_of_lt (x.lane r j).isLt

theorem elemVal_fp32 (w : W32) : elemVal 0 w.toNat = ofF32 w := by
  show fmtFP32.decode (w.toNat % 2 ^ 32) = fmtFP32.decode w.toNat
  rw [Nat.mod_eq_of_lt w.isLt]

/-- An FP32 element rounded once to BF16 or FP16, without flags (R44). -/
theorem elem_half {df : Nat} {f : Fmt} (hf : (df, f) = (1, fmtBF16) ∨ (df, f) = (2, fmtFP16)) (sc : W32) (d1 d2 : Int) (w : W32) :
    Conv.elem { sfmt := 0, dfmt := df, scale := sc, d1 := d1, d2 := d2 } 0 0 w.toNat = (f.round (ofF32 w), 0) := by
  rw [← elemVal_fp32]
  rcases hf with h | h <;> cases h <;> exact Prod.ext rfl BitVec.or_zero

theorem elem_daf (sc : W32) (d1 d2 : Int) (w : W32) :
    Conv.elem { sfmt := 0, dfmt := 0x10, scale := sc, d1 := d1, d2 := d2 } 0 0 w.toNat =
      ((toDaf d2 (ofF32 w)).1.toNat, (toDaf d2 (ofF32 w)).2) := by
  rw [← elemVal_fp32]
  refine Prod.ext rfl ?_
  exact BitVec.or_zero

theorem round_half_lt {f : Fmt} (hf : f = fmtBF16 ∨ f = fmtFP16) (v : FV) : f.round v < 65536 := by
  have hbound (g : Fmt) (h15 : 2 ^ (g.eb + g.mb) = 32768) (hnan : g.nanBits < 65536) (hinf : ∀ n, g.infBits n < 65536)
      (hmax : g.maxCode < 32768) : g.round v < 65536 := by
    cases v with
    | nan => exact hnan
    | inf n => exact hinf n
    | fin n m e st =>
      unfold Fmt.round
      dsimp only
      split
      · rw [Fmt.pack, h15]
        split <;> omega
      · exact hinf n
  rcases hf with rfl | rfl
  · exact hbound fmtBF16 rfl (by decide) (by decide) (by decide)
  · exact hbound fmtFP16 rfl (by decide) (by decide) (by decide)

/-! ### Half words packed from byte 0 (R87) -/

theorem leNat_zeros (n : Nat) : leNat (zeros n) = 0 := by
  induction n with
  | zero => rfl
  | succ n ih => 
    have h : zeros (n + 1) = 0 :: zeros n := rfl
    rw [h, leNat, ih]; rfl

theorem fit_of_le {n : Nat} {l : List Byte} (h : l.length ≤ n) : fit n l = l ++ zeros (n - l.length) := by
  rw [fit, List.take_append, List.take_of_length_le h, zeros, List.take_replicate, Nat.min_eq_left (Nat.sub_le ..)]
  rfl

/-- Two half words as a lane. -/
theorem pair_lane {a b : Nat} (ha : a < 65536) :
    BitVec.ofNat 32 (leNat (leBytes 2 a ++ leBytes 2 b)) = BitVec.ofNat 32 (a + 65536 * b) := by
  refine BitVec.eq_of_toNat_eq ?_
  rw [leNat_append, leNat_of_leBytes, leNat_of_leBytes, leBytes_length, BitVec.toNat_ofNat, BitVec.toNat_ofNat]
  omega

theorem lanesOf_halves {g : Nat → Nat} (hg : ∀ k, g k < 65536) :
    lanesOf (fit 256 (((List.range 64).map g).flatMap fun v => leBytes 2 v)) =
      (List.range 64).map fun j => if j < 32 then BitVec.ofNat 32 (g (2 * j) + 65536 * g (2 * j + 1)) else 0 := by
  have hlen : (((List.range 64).map g).flatMap fun v => leBytes 2 v).length = 128 := by
    rw [length_flatMap_leBytes, List.length_map, List.length_range]
  have hpiece (k : Nat) (hk : k < 64) :
      ((((List.range 64).map g).flatMap fun v => leBytes 2 v).drop (2 * k)).take 2 = leBytes 2 (g k) := by
    rcases piece_flatMap_leBytes 2 ((List.range 64).map g) k with h | h
    · rw [h]; simp [List.getD_eq_getElem?_getD, hk]
    · simp at h; omega
  generalize ((List.range 64).map g).flatMap (fun v => leBytes 2 v) = l at hlen hpiece
  have hfit : fit 256 l = l ++ zeros 128 := by rw [fit_of_le (by omega), hlen]
  rw [hfit, lanesOf_eq (by rw [List.length_append, hlen, zeros, List.length_replicate])]
  refine List.map_congr_left fun j hj => ?_
  have hj64 := List.mem_range.mp hj
  by_cases h : j < 32
  · rw [if_pos h, ← pair_lane (hg _), ← hpiece (2 * j) (by omega), ← hpiece (2 * j + 1) (by omega)]
    rw [List.drop_append_of_le_length (by omega), List.take_append_of_le_length (by rw [List.length_drop]; omega),
      show (4 : Nat) = 2 + 2 from rfl, List.take_add, List.drop_drop]
    congr 5 <;> omega
  · rw [if_neg h, List.drop_append, List.drop_eq_nil_of_le (by omega), List.nil_append, zeros, List.drop_replicate,
      List.take_replicate]
    exact congrArg _ (leNat_zeros _)

/-! ### The statement -/

theorem foldl_or_zero {α : Type} (l : List α) : l.foldl (fun (a : W32) _ => a ||| 0) 0 = 0 := by
  induction l with
  | nil => rfl
  | cons x l ih => rw [List.foldl_cons, show (0 : W32) ||| 0 = 0 from BitVec.or_zero]; exact ih

section
variable {e : Enc} {s : State}

/-- Lane j of v[RA] in the destination format, with its flags. -/
def vcvtLane (e : Enc) (s : State) (j : Nat) : Nat × W32 :=
  Conv.elem { sfmt := 0, dfmt := vcvtDf e, scale := ((e.x s).s e.rb).extractLsb' 0 32,
              d1 := ((getCore s e.core).vtag e.ra.toNat).toInt, d2 := (vcvtDatum e).toInt }
    0 0 ((getCore s e.core).lane e.ra.toNat j).toNat

theorem vcvtLane_half {f : Fmt} (hf : vcvtDf e = 1 ∧ f = fmtBF16 ∨ vcvtDf e = 2 ∧ f = fmtFP16) (j : Nat) :
    vcvtLane e s j = (f.round (ofF32 ((getCore s e.core).lane e.ra.toNat j)), 0) := by
  refine elem_half ?_ ..
  rcases hf with ⟨h, rfl⟩ | ⟨h, rfl⟩
  · exact .inl (by rw [h])
  · exact .inr (by rw [h])

theorem vcvtLane_daf (hdf : vcvtDf e = 0x10) (j : Nat) :
    vcvtLane e s j = ((toDaf (vcvtDatum e).toInt (ofF32 ((getCore s e.core).lane e.ra.toNat j))).1.toNat,
      (toDaf (vcvtDatum e).toInt (ofF32 ((getCore s e.core).lane e.ra.toNat j))).2) := by
  rw [vcvtLane, hdf]
  exact elem_daf ..

theorem vcvtTo_issued {h : Shape} (hi : Issues h e s) (hsf : vcvtSf e = 0) : vcvtTo e (issued e s) =
    if vcvtDf e = 0x10
    then wrT e (raiseFlags (issued e s) e.core e.ctx ((List.range 64).foldl (fun a j => a ||| (vcvtLane e s j).2) 0))
      ((List.range 64).map fun j => BitVec.ofNat 96 (vcvtLane e s j).1) (vcvtDatum e)
    else wrV e (raiseFlags (issued e s) e.core e.ctx ((List.range 64).foldl (fun a j => a ||| (vcvtLane e s j).2) 0))
      (lanesOf (fit 256 (pack (fmtBits (vcvtDf e)) ((List.range 64).map fun j => (vcvtLane e s j).1)))) := by
  have hsrc : vcvtSrc (getCore (issued e s) e.core) 0 e.ra.toNat =
      (List.range 64).map fun j => ((getCore s e.core).lane e.ra.toNat j).toNat := by
    rw [vcvtSrc_fp32, (acted_issued hi).site]; rfl
  unfold vcvtTo vcvtLane
  dsimp only
  rw [hsf, s_issued hi, vtag_issued hi, hsrc, List.map_map, List.map_map, List.map_map, List.foldl_map]
  rfl

/-- VCVT of a legal form whose registers the context owns. -/
theorem exec_vcvt_owned (hi : Issues (vcvtShape false) e s) (hbad : vcvtBad e = false)
    (hfp8 : (fmtFp8 (vcvtSf e) || fmtFp8 (vcvtDf e)) = false) (ho : Owns e s (vcvtRegs e)) :
    exec (.vcvt e) s = .next (vcvtTo e (issued e s)) := by
  rw [exec_vcvt, hfp8, issue_next hi, hbad, if_neg (by decide), owning_issued hi ho]

/-- VCVT to BF16 or FP16. -/
theorem vcvt_half {f : Fmt} (hf : vcvtDf e = 1 ∧ f = fmtBF16 ∨ vcvtDf e = 2 ∧ f = fmtFP16)
    (hi : Issues (vcvtShape false) e s) (hsf : vcvtSf e = 0) (hd : vcvtDatum e = 0) (ho : Owns e s [e.rd.toNat, e.ra.toNat]) :
    WritesRD (.vcvt e) e s fun j => if j < 32 then
      BitVec.ofNat 32 (f.round (ofF32 ((getCore s e.core).lane e.ra.toNat (2 * j))) +
        65536 * f.round (ofF32 ((getCore s e.core).lane e.ra.toNat (2 * j + 1)))) else 0 := by
  have hform : fmtBits (vcvtDf e) = 16 ∧ vcvtBad e = false ∧ vcvtDf e ≠ 0x10 ∧ (fmtFp8 (vcvtSf e) || fmtFp8 (vcvtDf e)) = false ∧
      vcvtRegs e = [e.rd.toNat, e.ra.toNat] := by
    unfold vcvtBad vcvtRegs
    rcases hf with ⟨h, -⟩ | ⟨h, -⟩ <;> rw [h, hsf, hd] <;> exact ⟨rfl, rfl, by decide, rfl, rfl⟩
  obtain ⟨hb, hbad, hne, hfp8, hregs⟩ := hform
  have hround (v : FV) : f.round v < 65536 := round_half_lt (hf.imp And.right And.right) v
  have hx := exec_vcvt_owned hi hbad hfp8 (hregs ▸ ho)
  rw [vcvtTo_issued hi hsf, if_neg hne, hb] at hx
  simp only [vcvtLane_half hf, foldl_or_zero] at hx
  have hlanes := lanesOf_halves (g := fun k => f.round (ofF32 ((getCore s e.core).lane e.ra.toNat k))) fun _ => hround _
  have hpack (l : List Nat) : pack 16 l = l.flatMap fun v => leBytes 2 v := rfl
  rw [hpack, hlanes] at hx
  exact writesRD_flagged hi hx

/-- VCVT to DAF96. -/
theorem vcvt_daf (hi : Issues (vcvtShape false) e s) (hsf : vcvtSf e = 0) (hdf : vcvtDf e = 0x10) (h29 : e.rd.toNat ≤ 29)
    (ho : Owns e s [e.rd.toNat, e.rd.toNat + 1, e.rd.toNat + 2, e.ra.toNat]) :
    WritesTriple (.vcvt e) e s (fun j => (toDaf (vcvtDatum e).toInt (ofF32 ((getCore s e.core).lane e.ra.toNat j))).1) (vcvtDatum e)
      ((List.range 64).foldl
        (fun f j => f ||| (toDaf (vcvtDatum e).toInt (ofF32 ((getCore s e.core).lane e.ra.toNat j))).2) 0) := by
  have hok : tripleOk e.rd = true := decide_eq_true h29
  have hform : vcvtBad e = false ∧ (fmtFp8 (vcvtSf e) || fmtFp8 (vcvtDf e)) = false ∧ vcvtRegs e = tripleRegs e.rd ++ [e.ra.toNat] := by
    unfold vcvtBad vcvtRegs
    rw [hdf, hsf, hok]
    exact ⟨rfl, rfl, rfl⟩
  obtain ⟨hbad, hfp8, hregs⟩ := hform
  have hx := exec_vcvt_owned hi hbad hfp8 (hregs ▸ ho)
  rw [vcvtTo_issued hi hsf, if_pos hdf] at hx
  simp only [vcvtLane_daf hdf, BitVec.ofNat_toNat, BitVec.setWidth_eq] at hx
  exact writesTriple_of hi (acted_raiseFlags hi _) hx

end

/-- Settles O20: VDADD's outcomes, the conversions `vcvt_half` and `vcvt_daf`, and the illegal forms. -/
theorem vectorDatumAndConversions : Obligations.VectorDatumAndConversions := by
  refine ⟨fun e s => ?_, fun e s => ?_⟩
  · intro y el t3 hi
    refine ⟨fun hd ha hb ho => ⟨fun htag => ?_, fun htag => ?_⟩, fun hbad => ?_⟩
    · have hx := exec_vdadd_owned hi hd ha hb ho
      rw [if_neg (not_not.mpr htag), Site.triple, Site.triple, List.zipWith_map, List.zipWith_self] at hx
      exact writesTriple_of hi (acted_unflagged hi) hx
    · have hx := exec_vdadd_owned hi hd ha hb ho
      rw [if_pos htag, tags_eq] at hx
      exact traps_of hi hx
    · have hnot : (!(tripleOk e.rd && tripleOk e.ra && tripleOk e.rb)) = true := by
        simp only [tripleOk, Bool.not_eq_true', Bool.and_eq_false_iff, decide_eq_false_iff_not]
        omega
      have h := traps_of hi ((exec_vdadd.trans (issue_next hi _)).trans (congrArg _ (if_pos hnot)))
      simpa only [encWord, vdaddShape] using h
  · intro y sf df d v h half
    refine ⟨fun hi hsf hdf hd ho => ?_, fun hi hsf hdf hd ho => ?_, fun hi hsf hdf h29 ho => ?_, fun hi hbad => ?_⟩
    · exact vcvt_half (.inl ⟨hdf, rfl⟩) hi hsf hd ho
    · exact vcvt_half (.inr ⟨hdf, rfl⟩) hi hsf hd ho
    · exact vcvt_daf hi hsf hdf h29 ho
    · have hb : vcvtBad e = true := by
        rcases hbad with hno | ⟨hne, hne'⟩
        · rw [vcvtBad, show vcvtOk (vcvtSf e) (vcvtDf e) = false from hno]; rfl
        · rw [vcvtBad, decide_eq_true (show vcvtDf e ≠ 0x10 from hne), decide_eq_true (show vcvtDatum e ≠ 0 from hne')]
          simp
      have h := traps_of hi ((exec_vcvt.trans (issue_next hi _)).trans (congrArg _ (if_pos hb)))
      simpa only [encWord, vcvtShape] using h

end Sys2Proof.Machine
end

section
/-!
PROOFS. The tile class: ownership of arrays, tiles emptied and read, sequences and drains that join their queues (R94 to
R97, R102 to R104, R109 to R113).
-/

namespace Sys2Proof.Machine

/-! ### Tiles of a core -/

theorem spares_tiles (f : Tiles → Tiles) : SparesContexts fun x => { x with tiles := f x.tiles } :=
  ⟨fun _ _ => rfl, fun _ => ⟨rfl, rfl⟩⟩

theorem getTiles_modTiles (s : State) (c : Nat) (f : Tiles → Tiles) : getTiles (modTiles s c f) c = f (getTiles s c) := by
  rw [getTiles, modTiles, getCore_modCore_same]; rfl

theorem getTiles_modCtx (s : State) (c k : Nat) (f : Ctx → Ctx) : getTiles (modCtx s c k f) c = getTiles s c := by
  rw [getTiles, modCtx, getCore_modCore_same]; rfl

theorem getTiles_retire (s : State) (c k : Nat) : getTiles (retire s c k) c = getTiles s c := getTiles_modCtx ..

section
variable {h : Shape} {e : Enc} {s : State} (hi : Issues h e s)
include hi

theorem getTiles_issued : getTiles (issued e s) e.core = getTiles s e.core := tiles_issued hi

theorem town_issued : (e.x (issued e s)).town = (e.x s).town := (issued_ctx hi).view (·.town) fun _ _ _ => rfl

theorem tstart_issued : (e.x (issued e s)).tstart = (e.x s).tstart := (issued_ctx hi).view (·.tstart) fun _ _ _ => rfl

theorem othersArrs_issued : othersArrs (getCore (issued e s) e.core) e.ctx = othersArrs (getCore s e.core) e.ctx := by
  unfold othersArrs
  congr 1
  funext a j
  by_cases hj : j = e.ctx
  · rw [if_pos hj, if_pos hj]
  · rw [if_neg hj, if_neg hj, ctx_issued_ne hi hj]

/-- The instruction goes on where its context owns every array that it names (R96). -/
theorem owningArrs_issued {m : BitVec 4} (ho : m &&& ~~~(e.x s).town = 0) (f : State → State) :
    owningArrs e m (issued e s) f = f (issued e s) := by
  unfold owningArrs
  dsimp only
  rw [town_issued hi, if_neg (not_not.mpr ho)]

theorem owningArrs_bad {m : BitVec 4} (ho : m &&& ~~~(e.x s).town ≠ 0) (f : State → State) :
    owningArrs e m (issued e s) f = e.trap (issued e s) 0x11 ((m &&& ~~~(e.x s).town).zeroExtend 64) := by
  unfold owningArrs
  dsimp only
  rw [town_issued hi, if_pos ho]

end

/-! ### Tiles EMPTY (R109) -/

theorem getLsbD_one_bit {i k : Nat} (hk : k < 32) : (BitVec.ofNat 32 (2 ^ i)).getLsbD k = decide (i = k) := by
  rw [BitVec.getLsbD_ofNat, Nat.testBit_two_pow]; simp [hk]

theorem holds_empty (x : Tiles) {m k a b : Nat} (hk : k < 8) (ha : a < 4) (hb : b < 8) :
    (x.empty m k).holds a b = (x.holds a b && !(decide (a = m) && decide (b = k))) := by
  have h32 : 8 * a + b < 32 := by omega
  have hiff : (8 * m + k = 8 * a + b) ↔ (a = m ∧ b = k) := by omega
  unfold Tiles.empty Tiles.holds
  dsimp only
  rw [BitVec.getLsbD_and, BitVec.getLsbD_not, getLsbD_one_bit h32]
  simp [h32, hiff]

theorem holds_foldl_empty (ms : List Nat) (x : Tiles) {k a b : Nat} (hk : k < 8) (ha : a < 4) (hb : b < 8) :
    (ms.foldl (fun y m => y.empty m k) x).holds a b = (x.holds a b && !(decide (a ∈ ms) && decide (b = k))) := by
  induction ms generalizing x with
  | nil => simp
  | cons m ms ih =>
    have hmem : decide (a ∈ m :: ms) = (decide (a = m) || decide (a ∈ ms)) := by simp
    rw [List.foldl_cons, ih, holds_empty x hk ha hb, hmem]
    rw [Bool.and_assoc, ← Bool.not_or, ← Bool.and_or_distrib_right]

theorem getLsbD_arrMask (m : BitVec 4) {a b : Nat} (ha : a < 4) (hb : b < 8) : (arrMask m).getLsbD (8 * a + b) = m.getLsbD a := by
  have hall : ∀ m : BitVec 4, ∀ (a : Fin 4) (b : Fin 8), (arrMask m).getLsbD (8 * a + b) = m.getLsbD a := by decide
  exact hall m ⟨a, ha⟩ ⟨b, hb⟩

theorem holds_emptyArrs (x : Tiles) (m : BitVec 4) {a b : Nat} (ha : a < 4) (hb : b < 8) :
    (x.emptyArrs m).holds a b = (x.holds a b && !m.getLsbD a) := by
  have h32 : 8 * a + b < 32 := by omega
  unfold Tiles.emptyArrs Tiles.holds
  dsimp only
  rw [BitVec.getLsbD_and, BitVec.getLsbD_not, getLsbD_arrMask m ha hb]
  simp [h32]

theorem mem_arrs {m : BitVec 4} {a : Nat} (ha : a < 4) : decide (a ∈ arrs m) = m.getLsbD a := by
  simp [arrs, ha]

/-! ### TCFG and TSYNC (R95, R97) -/

section
variable {e : Enc} {s : State}

/-- The arrays that TCFG asks for. -/
def tcfgArrs (e : Enc) (s : State) : BitVec 4 := ((e.x s).s e.ra).extractLsb' 0 4

theorem exec_tcfg (hi : Issues { cls := 6, op := 1, ra := true } e s) : exec (.tcfg e) s = .next (
    if tcfgArrs e s &&& othersArrs (getCore s e.core) e.ctx ≠ 0
    then e.trap (issued e s) 0x10 ((tcfgArrs e s &&& othersArrs (getCore s e.core) e.ctx).zeroExtend 64)
    else if tileBusy (getCore s e.core) e.ctx then block (issued e s) e.core e.ctx false (.op .tcfg e)
    else retire (modCtx (modTiles (issued e s) e.core fun t => t.emptyArrs ((e.x s).town &&& ~~~tcfgArrs e s)) e.core e.ctx
      fun y => { y with town := tcfgArrs e s }) e.core e.ctx) := by
  have htown : ((getCore (issued e s) e.core).ctx e.ctx).town = (e.x s).town := town_issued hi
  show execTcfg e s = _
  rw [execTcfg, issue_next hi, orWait, attTcfg]
  dsimp only
  rw [s_issued hi, othersArrs_issued hi, tileBusy_issued hi, htown, ← tcfgArrs]
  by_cases hc : tcfgArrs e s &&& othersArrs (getCore s e.core) e.ctx ≠ 0
  · rw [if_pos hc, if_pos hc]
  · rw [if_neg hc, if_neg hc, if_neg hc]
    by_cases hb : tileBusy (getCore s e.core) e.ctx = true
    · rw [if_pos hb, if_pos hb]
    · rw [if_neg hb, if_neg hb]

theorem exec_tsync (hi : Issues { cls := 6, op := 3 } e s) : exec (.tsync e) s = .next (
    if tileBusy (getCore s e.core) e.ctx then block (issued e s) e.core e.ctx true (.op .tsync e)
    else retire (issued e s) e.core e.ctx) := by
  show execTsync e s = _
  rw [execTsync, issue_next hi, orWait, attTsync, tileBusy_issued hi]
  by_cases hb : tileBusy (getCore s e.core) e.ctx = true
  · rw [if_pos hb, if_pos hb]
  · rw [if_neg hb, if_neg hb]

/-! ### ACCREL and TDRV (R96, R109, Table 4-2) -/

/-- An ACCREL that no tile work comes before empties its tiles at once. -/
theorem runRels_one {x : Tiles} {r : RelJob} (hrels : x.rels = []) (hjobs : ∀ j ∈ x.jobs, j.ctx ≠ r.ctx)
    (hdrains : ∀ d ∈ x.drains, d.ctx ≠ r.ctx) (n : Nat) :
    ({ x with nextSn := n, rels := x.rels ++ [r] } : Tiles).runRels =
      { (arrs r.arr).foldl (fun y m => y.empty m r.tile) { x with nextSn := n, rels := [r] } with rels := [] } := by
  have hj : (x.jobs.any fun j => j.ctx = r.ctx && decide (j.sn < r.sn)) = false := by
    rw [List.any_eq_false]; intro j hj; simp [hjobs j hj]
  have hd : (x.drains.any fun d => d.ctx = r.ctx && decide (d.sn < r.sn)) = false := by
    rw [List.any_eq_false]; intro d hd; simp [hdrains d hd]
  unfold Tiles.runRels
  dsimp only
  rw [hrels]
  simp only [List.nil_append, List.filter_cons, List.filter_nil, hj, hd]
  rfl

/-- The state that ACCREL leaves. -/
def accrelTo (e : Enc) (s : State) : State :=
  retire (modTiles s e.core fun t =>
    ({ t with nextSn := t.nextSn + 1, rels := t.rels ++ [{ sn := t.nextSn, ctx := e.ctx, arr := Enc.arr e, tile := Enc.tile e }] } :
      Tiles).runRels) e.core e.ctx

theorem exec_accrel (hi : Issues { cls := 7, op := 3, imm := 0x7F } e s) (ha : Enc.arr e ≠ 0)
    (ho : Enc.arr e &&& ~~~(e.x s).town = 0) : exec (.accrel e) s = .next (accrelTo e (issued e s)) := by
  show execAccrel e s = _
  rw [execAccrel, issue_next hi, if_neg ha, owningArrs_issued hi ho]
  rfl

/-- The arrays, the tile and the row that TDRV names. -/
def tdrvPair (e : Enc) : Nat := if e.imm.getLsbD 0 then 2 else 0
def tdrvArrs (e : Enc) : BitVec 4 := if e.imm.getLsbD 0 then 0xC else 0x3
def tdrvTile (e : Enc) : Nat := (e.imm.extractLsb' 1 3).toNat
def tdrvRow (e : Enc) : Nat := (e.imm.extractLsb' 4 6).toNat

/-- Lane j of what TDRV reads. -/
def tdrvLane (e : Enc) (u : Tiles) (j : Nat) : W32 :=
  u.word (if j < 32 then tdrvPair e else tdrvPair e + 1) (tdrvTile e) (tdrvRow e) (j % 32)

theorem tdrv_lanes (e : Enc) (u : Tiles) :
    ((List.range 32).map fun j => u.word (tdrvPair e) (tdrvTile e) (tdrvRow e) j) ++
      ((List.range 32).map fun j => u.word (tdrvPair e + 1) (tdrvTile e) (tdrvRow e) j) = (List.range 64).map (tdrvLane e u) := by
  rw [show (64 : Nat) = 32 + 32 from rfl, List.range_add, List.map_append, List.map_map]
  refine congrArg₂ (· ++ ·) ?_ ?_
  · refine List.map_congr_left fun j hj => ?_
    have h := List.mem_range.mp hj
    rw [tdrvLane, if_pos h, Nat.mod_eq_of_lt h]
  · refine List.map_congr_left fun j hj => ?_
    have h := List.mem_range.mp hj
    rw [Function.comp_apply, tdrvLane, if_neg (by omega), Nat.add_mod_left, Nat.mod_eq_of_lt h]

theorem exec_tdrv : exec (.tdrv e) s = issue { cls := 7, op := 2, rd := true, imm := 0x3FF } e s fun s =>
    owningArrs e (tdrvArrs e) s fun s => owning e [e.rd.toNat] s fun s => orWait (attTdrv e) false .tdrv e s := rfl

/-- TDRV whose arrays and register the context owns. -/
theorem exec_tdrv_owned (hi : Issues { cls := 7, op := 2, rd := true, imm := 0x3FF } e s) (ha : tdrvArrs e &&& ~~~(e.x s).town = 0)
    (ho : Owns e s [e.rd.toNat]) : exec (.tdrv e) s = .next (
      if rowPending (getTiles s e.core) (getTiles s e.core).nextSn (tdrvArrs e) (tdrvTile e) (tdrvRow e)
      then block (issued e s) e.core e.ctx false (.op .tdrv e)
      else wrV e (issued e s) ((List.range 64).map (tdrvLane e (getTiles s e.core)))) := by
  have hpair : (if tdrvPair e = 0 then 0x3 else 0xC : BitVec 4) = tdrvArrs e := by
    unfold tdrvPair tdrvArrs; cases e.imm.getLsbD 0 <;> rfl
  have hatt : attTdrv e (issued e s) = if rowPending (getTiles s e.core) (getTiles s e.core).nextSn (tdrvArrs e) (tdrvTile e) (tdrvRow e)
      then none else some (wrV e (issued e s) ((List.range 64).map (tdrvLane e (getTiles s e.core)))) := by
    have htiles : (getCore (issued e s) e.core).tiles = getTiles s e.core := tiles_issued hi
    rw [← tdrv_lanes, ← hpair, ← htiles]
    exact rfl
  rw [exec_tdrv, issue_next hi, owningArrs_issued hi ha, owning_issued hi ho, orWait, hatt]
  by_cases hp : rowPending (getTiles s e.core) (getTiles s e.core).nextSn (tdrvArrs e) (tdrvTile e) (tdrvRow e) = true
  · rw [if_pos hp, if_pos hp]
  · rw [if_neg hp, if_neg hp]

theorem exec_tdrv_bad (hi : Issues { cls := 7, op := 2, rd := true, imm := 0x3FF } e s) (ha : tdrvArrs e &&& ~~~(e.x s).town ≠ 0) :
    exec (.tdrv e) s = .next (e.trap (issued e s) 0x11 ((tdrvArrs e &&& ~~~(e.x s).town).zeroExtend 64)) :=
  exec_tdrv.trans ((issue_next hi _).trans (congrArg _ (owningArrs_bad hi ha _)))

end

section
variable {e : Enc} {s : State}

theorem tcfg_takes (hi : Issues { cls := 6, op := 1, ra := true } e s)
    (hc : tcfgArrs e s &&& othersArrs (getCore s e.core) e.ctx = 0) (hb : tileBusy (getCore s e.core) e.ctx = false) :
    ∃ t, exec (.tcfg e) s = .next t ∧ OnlySite e.core s t ∧ SameMemory s t ∧
      CtxIs e t { e.x s with pc := (e.x s).pc + 8, town := tcfgArrs e s } ∧
      (∀ j, j ≠ e.ctx → getCtx t e.core j = getCtx s e.core j) ∧
      ∀ a k, a < 4 → k < 8 → (getTiles t e.core).holds a k =
        ((getTiles s e.core).holds a k && !((e.x s).town.getLsbD a && !(tcfgArrs e s).getLsbD a)) := by
  have hx := exec_tcfg hi
  rw [if_neg (not_not.mpr hc), if_neg (Bool.eq_false_iff.mp hb)] at hx
  have ht := (((acted_issued hi).modCore (spares_tiles fun t => t.emptyArrs ((e.x s).town &&& ~~~tcfgArrs e s))).modCtx
    (f := fun y => { y with town := tcfgArrs e s }) fun _ _ _ => rfl).retire (issues_st hi) (issues_wait hi)
  refine ⟨_, hx, ht.only, ht.memory, ht.ctx, ht.others, fun a k ha hk => ?_⟩
  rw [getTiles_retire, getTiles_modCtx, getTiles_modTiles, getTiles_issued hi, holds_emptyArrs _ _ ha hk, BitVec.getLsbD_and,
    BitVec.getLsbD_not]
  simp [ha]

theorem accrel_takes (hi : Issues { cls := 7, op := 3, imm := 0x7F } e s) (ha : Enc.arr e ≠ 0)
    (ho : Enc.arr e &&& ~~~(e.x s).town = 0) (hjobs : ∀ j ∈ (getTiles s e.core).jobs, j.ctx ≠ e.ctx)
    (hdrains : ∀ d ∈ (getTiles s e.core).drains, d.ctx ≠ e.ctx) (hrels : (getTiles s e.core).rels = []) :
    ∃ t, exec (.accrel e) s = .next t ∧ OnlySite e.core s t ∧ SameMemory s t ∧ CtxIs e t { e.x s with pc := (e.x s).pc + 8 } ∧
      ∀ m n, m < 4 → n < 8 → (getTiles t e.core).holds m n =
        ((getTiles s e.core).holds m n && !((Enc.arr e).getLsbD m && decide (n = Enc.tile e))) := by
  have ht := ((acted_issued hi).modCore (spares_tiles fun t => ({ t with
    nextSn := t.nextSn + 1, rels := t.rels ++ [{ sn := t.nextSn, ctx := e.ctx, arr := Enc.arr e, tile := Enc.tile e }] } :
    Tiles).runRels)).retire (issues_st hi) (issues_wait hi)
  refine ⟨_, exec_accrel hi ha ho, ht.only, ht.memory, ht.ctx, fun m n hm hn => ?_⟩
  rw [accrelTo, getTiles_retire, getTiles_modTiles, getTiles_issued hi,
    runRels_one (r := { sn := (getTiles s e.core).nextSn, ctx := e.ctx, arr := Enc.arr e, tile := Enc.tile e }) hrels hjobs hdrains]
  refine (holds_foldl_empty _ _ (BitVec.isLt (e.imm.extractLsb' 4 3)) hm hn).trans ?_
  rw [mem_arrs hm]
  rfl

end

/-- Settles O22. -/
theorem tileOwnershipAndReads : Obligations.TileOwnershipAndReads := by
  refine ⟨fun e s => ⟨fun hi => ⟨fun hc => ?_, fun hc hb => ?_, fun hc hb => tcfg_takes hi hc hb⟩, fun hi => ⟨fun hb => ?_, fun hb => ?_⟩⟩,
    fun e s => ⟨fun hi ha ho hjobs hdrains hrels => accrel_takes hi ha ho hjobs hdrains hrels,
      fun hi ha ho => ⟨fun hp => ?_, fun hp => ?_⟩, fun hi ha => traps_of hi (exec_tdrv_bad hi ha)⟩⟩
  · exact traps_of hi ((exec_tcfg hi).trans (congrArg _ (if_pos hc)))
  · exact waits_of_block hi ((exec_tcfg hi).trans (congrArg _ ((if_neg (not_not.mpr hc)).trans (if_pos hb))))
  · exact waits_of_issued hi ((exec_tsync hi).trans (congrArg _ (if_pos hb)))
  · exact goesOn_of hi ((exec_tsync hi).trans (congrArg _ (if_neg (Bool.eq_false_iff.mp hb))))
  · exact writesRD_of hi ((exec_tdrv_owned hi ha ho).trans (congrArg _ (if_neg (Bool.eq_false_iff.mp hp))))
  · exact waits_of_block hi ((exec_tdrv_owned hi ha ho).trans (congrArg _ (if_pos hp)))

end Sys2Proof.Machine
end

section
/-!
PROOFS. Tile sequences and drains that join their queues (R96, R102 to R104, R109 to R113).
-/

namespace Sys2Proof.Machine

/-! ### TSEQ (R96, R102 to R104) -/

/-- The shape of TSEQ. -/
def tseqShape : Shape := { cls := 6, op := 2, ra := true, aA := true, imm := 0x7F }

section
variable {e : Enc} {s : State}

/-- TSEQ with a descriptor that has been read. -/
def tseqRead (e : Enc) (b : List Byte) (s : State) : State :=
  if !tdFmtOk b then e.trap s 0x01 (encWord tseqShape e)
  else if !tdOk b (e.x s).tstart then e.trap s 0x12 ((e.x s).a e.ra)
  else if (arrs (Enc.arr e)).any fun m => (getTiles s e.core).after m (Enc.tile e) = some (!tdInt b)
    then e.trap s 0x12 ((e.x s).a e.ra)
  else startTseq e b s

/-- TSEQ whose arrays the context owns. -/
def tseqOwned (e : Enc) (s : State) : State :=
  if ((e.x s).a e.ra).toNat % 64 ≠ 0 then e.trap s 0x12 ((e.x s).a e.ra)
  else match engRead s e.core spNear ((e.x s).a e.ra) 64 with
    | .error (.unc cls kd num) => uncArith s e.core cls kd num ((e.x s).a e.ra) false
    | .error _ => e.trap s 0x03 ((e.x s).a e.ra)
    | .ok b => tseqRead e b s

theorem exec_tseq_none (hi : Issues tseqShape e s) (h0 : Enc.arr e = 0) :
    exec (.tseq e) s = .next (e.trap (issued e s) 0x01 (encWord tseqShape e)) := by
  show execTseq e s = _
  rw [execTseq]
  refine (issue_next (h := tseqShape) hi _).trans ?_
  rw [if_pos h0]
  rfl

theorem exec_tseq_bad (hi : Issues tseqShape e s) (h0 : Enc.arr e ≠ 0) (ho : Enc.arr e &&& ~~~(e.x s).town ≠ 0) :
    exec (.tseq e) s = .next (e.trap (issued e s) 0x11 ((Enc.arr e &&& ~~~(e.x s).town).zeroExtend 64)) := by
  show execTseq e s = _
  rw [execTseq]
  refine (issue_next (h := tseqShape) hi _).trans ?_
  rw [if_neg h0, owningArrs_bad hi ho]

theorem exec_tseq_owned (hi : Issues tseqShape e s) (h0 : Enc.arr e ≠ 0) (ho : Enc.arr e &&& ~~~(e.x s).town = 0) :
    exec (.tseq e) s = .next (tseqOwned e (issued e s)) := by
  show execTseq e s = _
  rw [execTseq]
  refine (issue_next (h := tseqShape) hi _).trans ?_
  rw [if_neg h0, owningArrs_issued hi ho, tseqOwned]
  by_cases hal : ((e.x (issued e s)).a e.ra).toNat % 64 ≠ 0
  · rw [if_pos hal, if_pos hal]
  · rw [if_neg hal, if_neg hal]
    cases engRead (issued e s) e.core spNear ((e.x (issued e s)).a e.ra) 64 with
    | error err => cases err <;> rfl
    | ok b => rfl

theorem exec_tseq_read (hi : Issues tseqShape e s) (h0 : Enc.arr e ≠ 0) (ho : Enc.arr e &&& ~~~(e.x s).town = 0)
    {b : List Byte} (hal : ((e.x s).a e.ra).toNat % 64 = 0) (hread : engRead s e.core spNear ((e.x s).a e.ra) 64 = .ok b) :
    exec (.tseq e) s = .next (tseqRead e b (issued e s)) := by
  rw [exec_tseq_owned hi h0 ho, tseqOwned, a_issued hi, engRead_issued_eq hi, hread, if_neg (not_not.mpr hal)]

/-- The chunk and the row of TSTART (Table 4-5). -/
theorem tsChunk_eq (v : W64) : tsChunk v = (v.extractLsb' 6 24).toNat := by
  rw [BitVec.extractLsb'_toNat, Nat.shiftRight_eq_div_pow]; rfl

theorem tsRow_eq (v : W64) : tsRow v = (v.extractLsb' 0 6).toNat := by
  rw [BitVec.extractLsb'_toNat, Nat.shiftRight_eq_div_pow]; rfl

/-- The sequence that TSEQ queues. -/
def tseqJob (e : Enc) (s : State) (b : List Byte) : TseqJob :=
  { sn := (getTiles s e.core).nextSn, ctx := e.ctx, arr := Enc.arr e, tile := Enc.tile e, desc := b, descAddr := (e.x s).a e.ra,
    chunk := ((e.x s).tstart.extractLsb' 6 24).toNat, row := ((e.x s).tstart.extractLsb' 0 6).toNat }

/-- A context that stalls and gives up the slot changes its core's site only. -/
theorem OnlySite.block {c : Nat} {s t : State} (h : OnlySite c s t) (k : Nat) (w : Wait) :
    OnlySite c s (Machine.block t c k true w) := by
  rw [Machine.block, if_pos rfl, giveUp, modCtx]
  exact (h.modCore _).modCore _

theorem getTiles_block (s : State) (c k : Nat) (w : Wait) : getTiles (block s c k true w) c = getTiles s c := by
  rw [block, if_pos rfl, getTiles_modCtx, getTiles, giveUp, getCore_modCore_same]
  split <;> rfl

theorem CtxIs.block {t : State} {x : Ctx} (h : CtxIs e t x) (w : Wait) :
    CtxIs e (Machine.block t e.core e.ctx true w) { x with st := .waiting, wait := w } := by
  obtain ⟨-, -, hb⟩ := block_switch t e.core e.ctx w
  have hc : getCtx t e.core e.ctx = _ := h
  unfold CtxIs Enc.x
  rw [hb, hc]

/-- What TSEQ adds to its core's tiles. -/
def addJob (e : Enc) (y : Ctx) (b : List Byte) (t : Tiles) : Tiles :=
  { t with
    nextSn := t.nextSn + 1
    jobs := t.jobs ++ [{ sn := t.nextSn, ctx := e.ctx, arr := Enc.arr e, tile := Enc.tile e, desc := b, descAddr := y.a e.ra,
                         chunk := tsChunk y.tstart, row := tsRow y.tstart }] }

theorem tseq_starts (hi : Issues tseqShape e s) {b : List Byte} (hx : exec (.tseq e) s = .next (startTseq e b (issued e s))) :
    ∃ t, exec (.tseq e) s = .next t ∧ OnlySite e.core s t ∧ SameMemory s t ∧
      CtxIs e t { e.x s with st := .waiting, wait := .streaming, tdesc := (e.x s).a e.ra } ∧
      getTiles t e.core = { getTiles s e.core with
        nextSn := (getTiles s e.core).nextSn + 1, jobs := (getTiles s e.core).jobs ++ [tseqJob e s b] } := by
  have hadd : addJob e (e.x (issued e s)) b = addJob e (e.x s) b := by
    funext t
    rw [addJob, a_issued hi, tstart_issued hi]; rfl
  have hstart : startTseq e b (issued e s) = block (modCtx (modTiles (issued e s) e.core (addJob e (e.x s) b)) e.core e.ctx
      fun y => { y with tdesc := (e.x s).a e.ra }) e.core e.ctx true .streaming := by
    rw [← hadd, ← a_issued hi]; rfl
  have ha := ((acted_issued hi).modCore (spares_tiles (addJob e (e.x s) b))).modCtx
    (f := fun y => { y with tdesc := (e.x s).a e.ra }) fun _ _ _ => rfl
  obtain ⟨hbm, -, -⟩ := block_switch (modCtx (modTiles (issued e s) e.core (addJob e (e.x s) b)) e.core e.ctx
    fun y => { y with tdesc := (e.x s).a e.ra }) e.core e.ctx .streaming
  refine ⟨_, hx.trans (congrArg _ hstart), ha.only.block .., ha.memory.trans hbm, ha.ctx.block _, ?_⟩
  rw [getTiles_block, getTiles_modCtx, getTiles_modTiles, getTiles_issued hi, addJob, tsChunk_eq, tsRow_eq]
  rfl

theorem any_arrs {m : BitVec 4} {f : Nat → Bool} (h : ∀ a, a < 4 → m.getLsbD a = true → f a = false) : (arrs m).any f = false := by
  rw [List.any_eq_false]
  intro a ha
  have ha' : a < 4 ∧ m.getLsbD a = true := by simpa [arrs] using ha
  rw [h a ha'.1 ha'.2]; decide

/-! ### TDRN (R96, R110 to R113) -/

/-- The shape of TDRN. -/
def tdrnShape : Shape := { cls := 7, op := 1, ra := true, rb := true, aA := true, aB := true, imm := 0x7FFF }

def tdrnRows (e : Enc) : Nat := (e.imm.extractLsb' 7 7).toNat

/-- The number of arrays that TDRN names. -/
def tdrnArrs (e : Enc) : Nat := (arrs (Enc.arr e)).length

/-- TDRN with a descriptor that has been read. -/
def tdrnRead (e : Enc) (b : List Byte) (s : State) : State :=
  if !edFmtOk b then e.trap s 0x01 (encWord tdrnShape e)
  else if !edOk s e.core b (tdrnArrs e) then e.trap s 0x12 ((e.x s).a e.ra)
  else match drainCairnTrap s e b (tdrnArrs e) (tdrnRows e) with
    | some t => e.trap s t.1 t.2
    | none =>
      match drainTrap s e.core b ((e.x s).a e.rb) (tdrnArrs e) (tdrnRows e) with
      | some t => e.trap s t.1 t.2
      | none => orWaitDesc (attTdrn b e) (decide (4 ≤ (getTiles s e.core).drains.length)) .tdrn e b s

/-- TDRN whose arrays the context owns. -/
def tdrnOwned (e : Enc) (s : State) : State :=
  if ((e.x s).a e.ra).toNat % 64 ≠ 0 then e.trap s 0x12 ((e.x s).a e.ra)
  else match engRead s e.core spNear ((e.x s).a e.ra) 64 with
    | .error (.unc cls kd num) => uncArith s e.core cls kd num ((e.x s).a e.ra) false
    | .error _ => e.trap s 0x03 ((e.x s).a e.ra)
    | .ok b => tdrnRead e b s

theorem exec_tdrn_illegal (hi : Issues tdrnShape e s) (h0 : Enc.arr e = 0 ∨ tdrnRows e = 0 ∨ 64 < tdrnRows e) :
    exec (.tdrn e) s = .next (e.trap (issued e s) 0x01 (encWord tdrnShape e)) := by
  show execTdrn e s = _
  rw [execTdrn]
  exact (issue_next (h := tdrnShape) hi _).trans (congrArg Host.Outcome.next (if_pos h0))

theorem exec_tdrn_bad (hi : Issues tdrnShape e s) (h0 : ¬(Enc.arr e = 0 ∨ tdrnRows e = 0 ∨ 64 < tdrnRows e))
    (ho : Enc.arr e &&& ~~~(e.x s).town ≠ 0) :
    exec (.tdrn e) s = .next (e.trap (issued e s) 0x11 ((Enc.arr e &&& ~~~(e.x s).town).zeroExtend 64)) := by
  show execTdrn e s = _
  rw [execTdrn]
  exact (issue_next (h := tdrnShape) hi _).trans (congrArg Host.Outcome.next ((if_neg h0).trans (owningArrs_bad hi ho _)))

theorem exec_tdrn_owned (hi : Issues tdrnShape e s) (h0 : ¬(Enc.arr e = 0 ∨ tdrnRows e = 0 ∨ 64 < tdrnRows e))
    (ho : Enc.arr e &&& ~~~(e.x s).town = 0) : exec (.tdrn e) s = .next (tdrnOwned e (issued e s)) := by
  show execTdrn e s = _
  rw [execTdrn]
  refine (issue_next (h := tdrnShape) hi _).trans (congrArg Host.Outcome.next ((if_neg h0).trans
    ((owningArrs_issued hi ho _).trans ?_)))
  rw [tdrnOwned]
  by_cases hal : ((e.x (issued e s)).a e.ra).toNat % 64 ≠ 0
  · rw [if_pos hal, if_pos hal]
  · rw [if_neg hal, if_neg hal]
    cases engRead (issued e s) e.core spNear ((e.x (issued e s)).a e.ra) 64 with
    | error err => cases err <;> rfl
    | ok b => rfl

theorem exec_tdrn_read (hi : Issues tdrnShape e s) (h0 : ¬(Enc.arr e = 0 ∨ tdrnRows e = 0 ∨ 64 < tdrnRows e))
    (ho : Enc.arr e &&& ~~~(e.x s).town = 0) {b : List Byte} (hal : ((e.x s).a e.ra).toNat % 64 = 0)
    (hread : engRead s e.core spNear ((e.x s).a e.ra) 64 = .ok b) :
    exec (.tdrn e) s = .next (tdrnRead e b (issued e s)) := by
  rw [exec_tdrn_owned hi h0 ho, tdrnOwned, a_issued hi, engRead_issued_eq hi, hread, if_neg (not_not.mpr hal)]

theorem edOk_issued {h : Shape} (hi : Issues h e s) (b : List Byte) (n : Nat) : edOk (issued e s) e.core b n = edOk s e.core b n := by
  rw [issued_with hi]; rfl

theorem drainTrap_issued {h : Shape} (hi : Issues h e s) (b : List Byte) (base : W64) (n rows : Nat) :
    drainTrap (issued e s) e.core b base n rows = drainTrap s e.core b base n rows := by
  have hmem : memDrainTrap (issued e s) e.core b base n rows = memDrainTrap s e.core b base n rows := by
    rw [issued_with hi]; rfl
  have hsum : sumDrainTrap (issued e s) e.core b base n rows = sumDrainTrap s e.core b base n rows := by
    rw [issued_with hi]; rfl
  have hwga : wgaDrainTrap (issued e s) e.core b base n rows = wgaDrainTrap s e.core b base n rows := by
    have hw : getWga (issued e s) e.core = getWga s e.core := wga_issued hi
    rw [wgaDrainTrap, hw]; rfl
  unfold drainTrap
  rw [hmem, hsum, hwga]

/-- What TDRN with an accepted descriptor does: its drain joins the queue or it waits. -/
theorem tdrnRead_accepted {h : Shape} (hi : Issues h e s) {b : List Byte} (hf : edFmtOk b = true)
    (hok : edOk s e.core b (tdrnArrs e) = true) (hc : edCairn b = false)
    (ht : drainTrap s e.core b ((e.x s).a e.rb) (tdrnArrs e) (tdrnRows e) = none) :
    tdrnRead e b (issued e s) =
      orWaitDesc (attTdrn b e) (decide (4 ≤ (getTiles s e.core).drains.length)) .tdrn e b (issued e s) := by
  unfold tdrnRead
  rw [hf, edOk_issued hi, hok, drainCairnTrap, hc, a_issued hi e.rb, drainTrap_issued hi, ht, getTiles_issued hi]
  rfl

theorem tdrnRead_traps {h : Shape} (hi : Issues h e s) {b : List Byte} (hf : edFmtOk b = true)
    (hok : edOk s e.core b (tdrnArrs e) = true) (hc : edCairn b = false) {t : Nat × W64}
    (ht : drainTrap s e.core b ((e.x s).a e.rb) (tdrnArrs e) (tdrnRows e) = some t) :
    tdrnRead e b (issued e s) = e.trap (issued e s) t.1 t.2 := by
  unfold tdrnRead
  rw [hf, edOk_issued hi, hok, drainCairnTrap, hc, a_issued hi e.rb, drainTrap_issued hi, ht]
  rfl

/-- The drain that TDRN queues. -/
def tdrnJob (e : Enc) (s : State) (b : List Byte) : DrainJob :=
  { sn := (getTiles s e.core).nextSn, ctx := e.ctx, arr := Enc.arr e, tile := Enc.tile e, rows := tdrnRows e,
    rel := e.imm.getLsbD 14, ep := b, base := (e.x s).a e.rb, mseed := (e.x s).mseed }

theorem attTdrn_issued {h : Shape} (hi : Issues h e s) (b : List Byte) : attTdrn b e (issued e s) =
    if 4 ≤ (getTiles s e.core).drains.length ∨ (edTable b ∧ tldWaits (getCore s e.core)) then none
    else some (retire (modTiles (issued e s) e.core fun t => { t with nextSn := t.nextSn + 1, drains := t.drains ++ [tdrnJob e s b] })
      e.core e.ctx) := by
  unfold attTdrn
  dsimp only
  rw [getTiles_issued hi, tldWaits_issued hi, a_issued hi, mseed_issued hi]
  rfl

theorem tdrn_joins (hi : Issues tdrnShape e s) {b : List Byte} (hx : exec (.tdrn e) s = .next (retire (modTiles (issued e s) e.core
      fun t => { t with nextSn := t.nextSn + 1, drains := t.drains ++ [tdrnJob e s b] }) e.core e.ctx)) :
    ∃ t, exec (.tdrn e) s = .next t ∧ OnlySite e.core s t ∧ SameMemory s t ∧ CtxIs e t { e.x s with pc := (e.x s).pc + 8 } ∧
      getTiles t e.core = { getTiles s e.core with
        nextSn := (getTiles s e.core).nextSn + 1, drains := (getTiles s e.core).drains ++ [tdrnJob e s b] } := by
  have ha := ((acted_issued hi).modCore (spares_tiles fun t => { t with
    nextSn := t.nextSn + 1, drains := t.drains ++ [tdrnJob e s b] })).retire (issues_st hi) (issues_wait hi)
  refine ⟨_, hx, ha.only, ha.memory, ha.ctx, ?_⟩
  rw [getTiles_retire, getTiles_modTiles, getTiles_issued hi]

end

/-- Settles O23. -/
theorem tileWorkIssues : Obligations.TileWorkIssues := by
  refine ⟨fun e s b => ?_, fun e s b => ?_⟩
  · intro x a arr tile u word hi
    refine ⟨fun h0 => ?_, fun h0 ho => traps_of hi (exec_tseq_bad hi h0 ho), fun h0 ho => ⟨fun hal => ?_, fun hal hread =>
      ⟨fun hf => ?_, fun hf hok => ?_, fun hf hok hafter => ?_⟩⟩⟩
    · have h := traps_of hi (exec_tseq_none hi h0)
      simpa only [encWord, tseqShape] using h
    · refine traps_of hi ((exec_tseq_owned hi h0 ho).trans (congrArg _ ?_))
      rw [tseqOwned, a_issued hi, if_pos hal]
    · have hx := exec_tseq_read hi h0 ho hal hread
      rw [tseqRead, hf] at hx
      have h := traps_of hi hx
      simpa only [encWord, tseqShape] using h
    · have hx := exec_tseq_read hi h0 ho hal hread
      have hok' : tdOk b (e.x s).tstart = false := hok
      rw [tseqRead, hf, tstart_issued hi, hok', a_issued hi] at hx
      exact traps_of hi hx
    · have hx := exec_tseq_read hi h0 ho hal hread
      have hok' : tdOk b (e.x s).tstart = true := hok
      have hany : ((arrs (Enc.arr e)).any fun m => (getTiles s e.core).after m (Enc.tile e) = some (!tdInt b)) = false :=
        any_arrs fun m hm hb => decide_eq_false (hafter m hm hb)
      rw [tseqRead, hf, tstart_issued hi, hok', getTiles_issued hi, hany] at hx
      exact tseq_starts hi hx
  · intro x a arr rows u n hi
    refine ⟨fun h0 => ?_, fun ha h1 h64 => ?_⟩
    · have h := traps_of hi (exec_tdrn_illegal hi h0)
      simpa only [encWord, tdrnShape] using h
    · have h0 : ¬(Enc.arr e = 0 ∨ tdrnRows e = 0 ∨ 64 < tdrnRows e) :=
        not_or.mpr ⟨ha, not_or.mpr ⟨Nat.one_le_iff_ne_zero.mp h1, Nat.not_lt.mpr h64⟩⟩
      refine ⟨fun ho => traps_of hi (exec_tdrn_bad hi h0 ho), fun ho hal => ?_, fun ho hal hread hf => ⟨fun hok => ?_, fun hok hc =>
        ⟨fun t ht => ?_, fun ht => ?_⟩⟩⟩
      · refine traps_of hi ((exec_tdrn_owned hi h0 ho).trans (congrArg _ ?_))
        rw [tdrnOwned, a_issued hi, if_pos hal]
      · have hx := exec_tdrn_read hi h0 ho hal hread
        have hok' : edOk s e.core b (tdrnArrs e) = false := hok
        rw [tdrnRead, hf, edOk_issued hi, hok', a_issued hi] at hx
        exact traps_of hi hx
      · exact traps_of hi ((exec_tdrn_read hi h0 ho hal hread).trans (congrArg _ (tdrnRead_traps hi hf hok hc ht)))
      · have hx := (exec_tdrn_read hi h0 ho hal hread).trans (congrArg _ (tdrnRead_accepted hi hf hok hc ht))
        rw [orWaitDesc, attTdrn_issued hi] at hx
        refine ⟨fun h4 => ?_, fun h4 htab htld => ?_, fun h4 hgo => ?_⟩
        · rw [if_pos (.inl h4), decide_eq_true h4] at hx
          exact waits_of_issued hi hx
        · rw [if_pos (.inr ⟨htab, htld⟩), decide_eq_false (Nat.not_le.mpr h4)] at hx
          exact waits_of_block hi hx
        · rw [if_neg] at hx
          · exact tdrn_joins hi hx
          · rintro (h | ⟨htab, htld⟩)
            · exact absurd h (Nat.not_le.mpr h4)
            · rcases hgo with h | h
              · rw [h] at htab; cases htab
              · rw [h] at htld; cases htld

end Sys2Proof.Machine
end

section
/-!
PROOFS. The stream at work: panels are loaded, rows enter, sequences end (R93, R100 to R106).
-/

namespace Sys2Proof.Machine

/-! ### What an engine's reads leave (R191) -/

/-- The state with other ring caches and counters. -/
def withCaches (s : State) (ports : SMap FarPort) (ctrs : SMap W64) : State :=
  { s with far := { s.far with ports := ports }, regs := { s.regs with ctrs := ctrs } }

/-- Only the ring caches of far memory and counters have changed. -/
def OnlyCaches (s t : State) : Prop := ∃ ports ctrs, t = withCaches s ports ctrs

theorem OnlyCaches.refl (s : State) : OnlyCaches s s := ⟨_, _, rfl⟩

theorem OnlyCaches.trans {s t u : State} (h : OnlyCaches s t) (h' : OnlyCaches t u) : OnlyCaches s u := by
  obtain ⟨p, q, rfl⟩ := h
  obtain ⟨p', q', rfl⟩ := h'
  exact ⟨p', q', rfl⟩

theorem onlyCaches_bump (s : State) (b i n : Nat) : OnlyCaches s (bump s b i n) :=
  ⟨s.far.ports, (bump s b i n).regs.ctrs, rfl⟩

theorem onlyCaches_modPortF (s : State) (p : Nat) (f : FarPort → FarPort) : OnlyCaches s (modPortF s p f) :=
  ⟨(modPortF s p f).far.ports, s.regs.ctrs, rfl⟩

theorem onlyCaches_useEntry (s : State) (fpn : Nat) : OnlyCaches s (useEntry s fpn) := by
  unfold useEntry
  dsimp only
  split
  · exact onlyCaches_modPortF ..
  · exact ((onlyCaches_bump ..).trans (onlyCaches_bump ..)).trans (onlyCaches_modPortF ..)

theorem onlyCaches_useLine (wr : Bool) (s : State) (l : Nat) : OnlyCaches s (useLine wr s l) := by
  unfold useLine
  exact (((onlyCaches_useEntry ..).trans (onlyCaches_bump ..)).trans (onlyCaches_bump ..)).trans (onlyCaches_modPortF ..)

theorem onlyCaches_foldl (wr : Bool) (ls : List Nat) (s : State) : OnlyCaches s (ls.foldl (useLine wr) s) := by
  induction ls generalizing s with
  | nil => exact .refl s
  | cons l ls ih => exact (onlyCaches_useLine wr s l).trans (ih _)

theorem onlyCaches_engSeen (s : State) (c : Nat) (a : W64) (n : Nat) : OnlyCaches s (engSeen s c a n) := by
  unfold engSeen
  split
  · exact onlyCaches_foldl ..
  · exact .refl s

theorem OnlyCaches.memory {s t : State} (h : OnlyCaches s t) : SameMemory s t := by
  obtain ⟨p, q, rfl⟩ := h
  exact ⟨fun _ _ => rfl, fun _ _ => rfl, fun _ => rfl⟩

theorem OnlyCaches.getCore {s t : State} (h : OnlyCaches s t) (c : Nat) : Machine.getCore t c = Machine.getCore s c := by
  obtain ⟨p, q, rfl⟩ := h
  rfl

theorem OnlyCaches.getTiles {s t : State} (h : OnlyCaches s t) (c : Nat) : Machine.getTiles t c = Machine.getTiles s c :=
  congrArg Site.tiles (h.getCore c)

/-- A read that delivers has the length asked for. -/
theorem length_of_spotRead_ok {s : State} {c : Nat} {x : Spot} {n : Nat} {bs : List Byte} (h : spotRead s c x n = .ok bs) :
    bs.length = n := by
  cases x with
  | near off => exact length_of_nearRead h
  | terr sp site off =>
    unfold spotRead at h
    dsimp only at h
    split at h
    · exact length_of_terrRead h
    · split at h
      · cases h
      · split at h
        · cases h
        · exact length_of_terrRead h
  | far fa =>
    unfold spotRead at h
    dsimp only at h
    split at h
    · cases h
    · unfold farRead at h
      split at h
      · cases h
      · split at h
        · cases h
        · split at h
          · cases h
          · split at h
            · cases h; simp
            · cases h

theorem length_of_engRead {s : State} {c : Nat} {sp : Spaces} {a : W64} {n : Nat} {bs : List Byte}
    (h : engRead s c sp a n = .ok bs) : bs.length = n := by
  unfold engRead at h
  split at h
  · cases h
  · exact length_of_spotRead_ok h

theorem sameMemory_modTiles (s : State) (c : Nat) (f : Tiles → Tiles) : SameMemory s (modTiles s c f) :=
  sameMemory_modCore s c fun _ => ⟨rfl, rfl⟩

theorem getCtx_modTiles (s : State) (c k : Nat) (f : Tiles → Tiles) : getCtx (modTiles s c f) c k = getCtx s c k := by
  rw [getCtx, modTiles, getCore_modCore_same]; rfl

/-! ### A panel is loaded (R100, R101, R106) -/

/-- The panel bs takes its slot. -/
def putPanel (sn m n : Nat) (bs : List Byte) (t : Tiles) : Tiles :=
  { t with slots := sset { sn := 0, chunk := 0, bytes := [] } t.slots (slotKey m n) { sn := sn, chunk := n, bytes := bs } }

theorem panel_putPanel (t : Tiles) (sn m n : Nat) {bs : List Byte} (hbs : bs ≠ []) :
    (putPanel sn m n bs t).panel sn m n = some bs := by
  unfold Tiles.panel putPanel
  dsimp only
  rw [sget_sset_same]
  exact if_pos ⟨hbs, rfl, rfl⟩

theorem exec_panelLoad {c m n : Nat} {s : State} {j : TseqJob} {bs : List Byte}
    (hj : (getTiles s c).jobs.find? (fun j => j.active && j.arr.getLsbD m) = some j) (hcr : coreRuns s c = true)
    (hn : n = if ((getTiles s c).panel j.sn m j.chunk).isNone then j.chunk else j.chunk + 1) (hlt : n < tdChunks j.desc)
    (hnone : (getTiles s c).panel j.sn m n = none) (hread : engRead s c spAll (tdPanel j.desc m n) 2176 = .ok bs) :
    exec (.panelLoad c m) s =
      .next (modTiles (engSeen s c (tdPanel j.desc m n) 2176) c (putPanel j.sn m n bs)) := by
  show execPanelLoad c m s = _
  rw [execPanelLoad]
  dsimp only
  rw [hj]
  dsimp only
  rw [← hn, hcr, hnone, if_neg (by simpa using hlt), hread]
  rfl

theorem panelLoaded {c m n : Nat} {s : State} {j : TseqJob} {bs : List Byte} (hbs : bs.length = 2176)
    (hx : exec (.panelLoad c m) s = .next (modTiles (engSeen s c (tdPanel j.desc m n) 2176) c (putPanel j.sn m n bs))) :
    ∃ t, exec (.panelLoad c m) s = .next t ∧ SameMemory s t ∧
      t = { s with sites := t.sites, far := { s.far with ports := t.far.ports }, regs := { s.regs with ctrs := t.regs.ctrs } } ∧
      (getTiles t c).panel j.sn m n = some bs ∧ getTiles t c = { getTiles s c with slots := (getTiles t c).slots } := by
  have hseen := onlyCaches_engSeen s c (tdPanel j.desc m n) 2176
  have hne : bs ≠ [] := by rintro rfl; cases hbs
  generalize engSeen s c (tdPanel j.desc m n) 2176 = u at hx hseen
  have htiles : getTiles (modTiles u c (putPanel j.sn m n bs)) c = putPanel j.sn m n bs (getTiles s c) := by
    rw [getTiles_modTiles, hseen.getTiles]
  refine ⟨_, hx, hseen.memory.trans (sameMemory_modTiles ..), ?_, ?_, ?_⟩
  · obtain ⟨p, q, rfl⟩ := hseen
    rfl
  · rw [htiles]; exact panel_putPanel _ _ _ _ hne
  · rw [htiles]; rfl

/-! ### A row enters (R104, R105) -/

/-- The row of the sequence j that enters next. -/
def rowOf (j : TseqJob) (act : List Byte) (ps : List (Nat × List Byte)) : PipeRow :=
  { sn := j.sn, chunk := j.chunk, row := j.row, act := act, scales := [], panels := ps,
    last := decide (j.chunk + 1 = tdChunks j.desc) && decide (j.row + 1 = tdM j.desc) }

theorem exec_streamRowEntry {c : Nat} {s : State} {j : TseqJob} {ps : List (Nat × List Byte)} {act : List Byte}
    (hj : (getTiles s c).head = some j) (hps : rowPanels (getTiles s c) j = some ps) (hcr : coreRuns s c = true)
    (hmx : fmtMx (tdAfmt j.desc) = false) (hread : engRead s c spAll (tdRow j.desc j.chunk j.row) 64 = .ok act) :
    exec (.streamRowEntry c) s = .next (tileWake (modTiles (engSeen s c (tdRow j.desc j.chunk j.row) 64) c
      fun t => ({ t with pipe := t.pipe ++ [rowOf j act ps] } : Tiles).modJob j.sn TseqJob.advance) c) := by
  show execStreamRowEntry c s = _
  rw [execStreamRowEntry]
  dsimp only
  rw [hj]
  dsimp only
  rw [hps]
  dsimp only
  rw [hcr, hread, hmx]
  rfl

/-! ### A sequence ends (R104) -/

theorem exec_tseqLastRowEntered {c : Nat} {s : State} {j : TseqJob}
    (hj : (getTiles s c).jobs.find? (fun j => !j.entered && decide (tdChunks j.desc ≤ j.chunk)) = some j) :
    exec (.tseqLastRowEntered c) s = .next (tileWake (lastRowIn s c j) c) := by
  show execTseqLastRowEntered c s = _
  rw [execTseqLastRowEntered, hj]
  rfl

theorem lastRowIn_results (s : State) (c : Nat) (j : TseqJob) : SameMemory s (lastRowIn s c j) ∧
    getTiles (lastRowIn s c j) c = (getTiles s c).modJob j.sn (fun x => { x with entered := true, waited := false }) ∧
    (j.waited = true → (getCtx s c j.ctx).st = .waiting → getCtx (lastRowIn s c j) c j.ctx =
      { getCtx s c j.ctx with tstart := 0, pc := (getCtx s c j.ctx).pc + 8, wait := .none, st := .ready }) := by
  unfold lastRowIn
  dsimp only
  by_cases hw : j.waited = true
  · rw [if_pos hw]
    refine ⟨((sameMemory_modTiles ..).trans (sameMemory_modCtx ..)).trans (sameMemory_modCtx ..), ?_, fun _ hst => ?_⟩
    · rw [getTiles_retire, getTiles_modCtx, getTiles_modTiles]
    · rw [retire, getCtx_modCtx_same, getCtx_modCtx_same, getCtx_modTiles, hst]
      rfl
  · rw [if_neg hw]
    exact ⟨sameMemory_modTiles .., getTiles_modTiles .., fun h => absurd h hw⟩

/-- The stream's part of O24. -/
theorem streamRuns (c : Nat) (s : State) (j : TseqJob) :
    let u := getTiles s c
    (∀ m n bs, u.jobs.find? (fun j => j.active && j.arr.getLsbD m) = some j → coreRuns s c = true →
      n = (if (u.panel j.sn m j.chunk).isNone then j.chunk else j.chunk + 1) → n < tdChunks j.desc → u.panel j.sn m n = none →
      engRead s c spAll (tdPanel j.desc m n) 2176 = .ok bs →
      ∃ t, exec (.panelLoad c m) s = .next t ∧ SameMemory s t ∧
        t = { s with sites := t.sites, far := { s.far with ports := t.far.ports }, regs := { s.regs with ctrs := t.regs.ctrs } } ∧
        (getTiles t c).panel j.sn m n = some bs ∧ getTiles t c = { u with slots := (getTiles t c).slots }) ∧
    (∀ ps act, u.head = some j → rowPanels u j = some ps → coreRuns s c = true → fmtMx (tdAfmt j.desc) = false →
      engRead s c spAll (tdRow j.desc j.chunk j.row) 64 = .ok act →
      ∃ t, exec (.streamRowEntry c) s = .next (tileWake t c) ∧ SameMemory s t ∧
        getTiles t c = ({ u with pipe := u.pipe ++ [rowOf j act ps] } : Tiles).modJob j.sn TseqJob.advance) ∧
    (u.jobs.find? (fun j => !j.entered && decide (tdChunks j.desc ≤ j.chunk)) = some j →
      ∃ t, exec (.tseqLastRowEntered c) s = .next (tileWake t c) ∧ SameMemory s t ∧
        getTiles t c = u.modJob j.sn (fun x => { x with entered := true, waited := false }) ∧
        (j.waited = true → (getCtx s c j.ctx).st = .waiting →
          getCtx t c j.ctx = { getCtx s c j.ctx with
            tstart := 0, pc := (getCtx s c j.ctx).pc + 8, wait := .none, st := .ready })) := by
  refine ⟨fun m n bs hj hcr hn hlt hnone hread => panelLoaded (length_of_engRead hread) (exec_panelLoad hj hcr hn hlt hnone hread),
    fun ps act hj hps hcr hmx hread => ?_, fun hj => ?_⟩
  · have hseen := onlyCaches_engSeen s c (tdRow j.desc j.chunk j.row) 64
    refine ⟨_, exec_streamRowEntry hj hps hcr hmx hread, hseen.memory.trans (sameMemory_modTiles ..), ?_⟩
    rw [getTiles_modTiles, hseen.getTiles]
  · obtain ⟨hmem, htiles, hctx⟩ := lastRowIn_results s c j
    exact ⟨_, exec_tseqLastRowEntered hj, hmem, htiles, hctx⟩

end Sys2Proof.Machine
end

section
/-!
PROOFS. A row commits: its sums are rounded once into the words of its tiles (R40 to R43, R107, R109), or its plumb check
fails (R121).
-/

namespace Sys2Proof.Machine

/-! ### Words of a tile (R109) -/

theorem tileKey_inj {m k r i m' k' r' i' : Nat} (hk : k < 8) (hr : r < 64) (hi : i < 32) (hk' : k' < 8) (hr' : r' < 64) (hi' : i' < 32)
    (h : tileKey m k r i = tileKey m' k' r' i') : m = m' ∧ k = k' ∧ r = r' ∧ i = i' := by
  unfold tileKey at h
  omega

/-- A map filtered by its keys. -/
theorem sget_filter {α : Type} (d : α) (q : Nat → Bool) (l : SMap α) (n : Nat) :
    sget d (l.filter fun w => q w.1) n = if q n then sget d l n else d := by
  induction l with
  | nil => split <;> rfl
  | cons x l ih =>
    obtain ⟨j, v⟩ := x
    by_cases hnj : n = j
    · subst hnj
      cases hq : q n with
      | true => simp [hq, sget]
      | false =>
        rw [List.filter_cons, if_neg (by simp [hq]), ih, hq, if_neg (by decide), if_neg (by decide)]
    · rw [List.filter_cons]
      cases hq : q j with
      | true => rw [if_pos rfl, sget, if_neg hnj, ih, sget, if_neg hnj]
      | false => rw [if_neg (by decide), ih, sget, if_neg hnj]

theorem holds_open (x : Tiles) (m k : Nat) (int : Bool) {a b : Nat} (hk : k < 8) (ha : a < 4) (hb : b < 8) :
    (x.open m k int).holds a b = (x.holds a b || (decide (a = m) && decide (b = k))) := by
  have h32 : 8 * a + b < 32 := by omega
  have hiff : (8 * m + k = 8 * a + b) ↔ (a = m ∧ b = k) := by omega
  unfold Tiles.open Tiles.holds
  dsimp only
  rw [BitVec.getLsbD_or, getLsbD_one_bit h32]
  simp [hiff]

/-- Opening an EMPTY tile changes no word: the tile reads +0 before and after. -/
theorem word_open (x : Tiles) {m k : Nat} (int : Bool) (hempty : x.holds m k = false) (hk : k < 8) {a b r i : Nat}
    (ha : a < 4) (hb : b < 8) (hr : r < 64) (hi : i < 32) : (x.open m k int).word a b r i = x.word a b r i := by
  have hkey : tileKey a b r i / 2048 = a * 8 + b := by unfold tileKey; omega
  have hiff : (a * 8 + b = m * 8 + k) ↔ (a = m ∧ b = k) := by omega
  have hwords : sget 0 (x.open m k int).words (tileKey a b r i) = if a = m ∧ b = k then 0 else sget 0 x.words (tileKey a b r i) := by
    refine (sget_filter 0 (fun n => decide (n / 2048 ≠ m * 8 + k)) x.words _).trans ?_
    rw [hkey]
    by_cases h : a = m ∧ b = k
    · rw [if_pos h, if_neg (by simp [h])]
    · rw [if_neg h, if_pos (decide_eq_true (mt hiff.mp h))]
  unfold Tiles.word
  rw [holds_open x m k int hk ha hb, hwords]
  by_cases h : a = m ∧ b = k
  · rw [if_pos h, ite_self, h.1, h.2, hempty]; rfl
  · have hf : (decide (a = m) && decide (b = k)) = false := by simpa using h
    rw [if_neg h, hf, Bool.or_false]

/-! ### A row of one array (R40, R43) -/

/-- The word of lane i that a row leaves, from the word before. -/
def committed (j : TseqJob) (p : PipeRow) (fl : List LaneFlip) (x : Nat × List Byte) (i : Nat) (w : W32) : W32 :=
  if tdInt j.desc then BitVec.ofInt 32 (w.toInt + laneOutInt p fl x.1 x.2 i)
  else toF32 ((ofF32 w).add (laneOut j.desc p fl x.1 x.2 i))

/-- One lane of a row. -/
def commitLane (j : TseqJob) (p : PipeRow) (fl : List LaneFlip) (x : Nat × List Byte) (r : Tiles × W32) (i : Nat) : Tiles × W32 :=
  let k := tileKey x.1 j.tile p.row i
  let acc := r.1.word x.1 j.tile p.row i
  if tdInt j.desc then
    let o := laneAccInt acc (laneOutInt p fl x.1 x.2 i)
    ({ r.1 with words := sset 0 r.1.words k o.1 }, if o.2 then r.2 ||| fINTOV else r.2)
  else ({ r.1 with words := sset 0 r.1.words k (laneAcc acc (laneOut j.desc p fl x.1 x.2 i)) }, r.2)

theorem commitLane_tiles (j : TseqJob) (p : PipeRow) (fl : List LaneFlip) (x : Nat × List Byte) (r : Tiles × W32) (i : Nat) :
    (commitLane j p fl x r i).1 = { r.1 with
      words := sset 0 r.1.words (tileKey x.1 j.tile p.row i) (committed j p fl x i (r.1.word x.1 j.tile p.row i)) } := by
  unfold commitLane committed
  dsimp only
  by_cases h : tdInt j.desc = true
  · rw [if_pos h, if_pos h]; rfl
  · rw [if_neg h, if_neg h]; rfl

section
variable {j : TseqJob} {p : PipeRow} {fl : List LaneFlip} {x : Nat × List Byte} (ht : j.tile < 8) (hp : p.row < 64)
include ht hp

/-- The lanes below n of a row, in a tile that is HOLDING. -/
theorem commitLanes_tiles {t : Tiles} (hold : t.holds x.1 j.tile = true) (f : W32) (n : Nat) (hn : n ≤ 32) :
    let o := ((List.range n).foldl (commitLane j p fl x) (t, f)).1
    o.pipe = t.pipe ∧ o.hold = t.hold ∧ ∀ m k r i, k < 8 → r < 64 → i < 32 → sget 0 o.words (tileKey m k r i) =
      if (m = x.1 ∧ k = j.tile ∧ r = p.row) ∧ i < n then committed j p fl x i (sget 0 t.words (tileKey m k r i))
      else sget 0 t.words (tileKey m k r i) := by
  induction n with
  | zero => exact ⟨rfl, rfl, fun m k r i _ _ _ => (if_neg (by omega)).symm⟩
  | succ n ih =>
    obtain ⟨hpipe, hhold, hwords⟩ := ih (by omega)
    rw [List.range_succ, List.foldl_append, List.foldl_cons, List.foldl_nil, commitLane_tiles]
    refine ⟨hpipe, hhold, fun m k r i hk hr hi => ?_⟩
    have hword : (((List.range n).foldl (commitLane j p fl x) (t, f)).1).word x.1 j.tile p.row n =
        sget 0 t.words (tileKey x.1 j.tile p.row n) := by
      have hlane := hwords x.1 j.tile p.row n ht hp (by omega)
      rw [if_neg (by omega)] at hlane
      unfold Tiles.word Tiles.holds
      rw [hhold, hlane]
      exact if_pos hold
    show sget 0 (sset 0 _ _ _) _ = _
    rw [sget_sset, hword, hwords m k r i hk hr hi]
    by_cases hkey : tileKey m k r i = tileKey x.1 j.tile p.row n
    · obtain ⟨rfl, rfl, rfl, rfl⟩ := tileKey_inj hk hr hi ht hp (by omega) hkey
      rw [if_pos rfl, if_pos ⟨⟨rfl, rfl, rfl⟩, by omega⟩]
    · have hne : ¬((m = x.1 ∧ k = j.tile ∧ r = p.row) ∧ i = n) := by
        rintro ⟨⟨rfl, rfl, rfl⟩, rfl⟩; exact hkey rfl
      rw [if_neg hkey]
      exact if_congr (by omega) rfl rfl

/-- A row of one array: its tile is HOLDING, and exactly the row's words are those committed. -/
theorem commitArr_tiles (hx : x.1 < 4) (t : Tiles) :
    (commitArr j p fl t x).1.pipe = t.pipe ∧
    (∀ a b, a < 4 → b < 8 → (commitArr j p fl t x).1.holds a b = (t.holds a b || (decide (a = x.1) && decide (b = j.tile)))) ∧
    ∀ m k r i, m < 4 → k < 8 → r < 64 → i < 32 → (commitArr j p fl t x).1.word m k r i =
      if m = x.1 ∧ k = j.tile ∧ r = p.row then committed j p fl x i (t.word m k r i) else t.word m k r i := by
  obtain ⟨y, hy, hpipe, hhold, hholds, hword⟩ : ∃ y, y = (if t.holds x.1 j.tile then t else t.open x.1 j.tile (tdInt j.desc)) ∧
      y.pipe = t.pipe ∧ y.holds x.1 j.tile = true ∧
      (∀ a b, a < 4 → b < 8 → y.holds a b = (t.holds a b || (decide (a = x.1) && decide (b = j.tile)))) ∧
      ∀ m k r i, m < 4 → k < 8 → r < 64 → i < 32 → y.word m k r i = t.word m k r i := by
    by_cases hold : t.holds x.1 j.tile = true
    · refine ⟨t, (if_pos hold).symm, rfl, hold, fun a b _ _ => ?_, fun _ _ _ _ _ _ _ _ => rfl⟩
      by_cases hab : a = x.1 ∧ b = j.tile
      · rw [hab.1, hab.2, hold]; rfl
      · rw [← Bool.decide_and, decide_eq_false hab, Bool.or_false]
    · refine ⟨_, (if_neg hold).symm, rfl, ?_, fun a b ha hb => holds_open t _ _ _ ht ha hb,
        fun m k r i hm hk hr hi => word_open t _ (Bool.eq_false_iff.mpr hold) ht hm hk hr hi⟩
      rw [holds_open t _ _ _ ht hx ht]; simp
  have hfold : (commitArr j p fl t x).1 = ((List.range 32).foldl (commitLane j p fl x) (y, 0)).1 := by rw [hy]; rfl
  obtain ⟨hpipe', hhold', hwords⟩ := commitLanes_tiles ht hp hhold 0 32 le_rfl (fl := fl)
  rw [hfold]
  have hsame (a b : Nat) : (((List.range 32).foldl (commitLane j p fl x) (y, 0)).1).holds a b = y.holds a b := by
    unfold Tiles.holds; rw [hhold']
  refine ⟨hpipe'.trans hpipe, fun a b ha hb => (hsame a b).trans (hholds a b ha hb), fun m k r i hm hk hr hi => ?_⟩
  rw [← hword m k r i hm hk hr hi, Tiles.word, hsame, hwords m k r i hk hr hi, Tiles.word]
  by_cases hrow : m = x.1 ∧ k = j.tile ∧ r = p.row
  · obtain ⟨rfl, rfl, rfl⟩ := hrow
    rw [hhold, if_pos rfl, if_pos ⟨⟨rfl, rfl, rfl⟩, hi⟩, if_pos ⟨rfl, rfl, rfl⟩]
    rfl
  · rw [if_neg (show ¬((m = x.1 ∧ k = j.tile ∧ r = p.row) ∧ i < 32) from fun h => hrow h.1), if_neg hrow]

end

/-! ### A row of every array of its sequence (R104, R107) -/

/-- The row accumulated in the arrays of a list, with the flags. -/
def commitArrs (j : TseqJob) (p : PipeRow) (fl : List LaneFlip) (r : Tiles × W32) (xs : List (Nat × List Byte)) : Tiles × W32 :=
  xs.foldl (fun r x =>
    let o := commitArr j p fl r.1 x
    (o.1, r.2 ||| o.2)) r

theorem commitArrs_tiles {j : TseqJob} {p : PipeRow} {fl : List LaneFlip} (ht : j.tile < 8) (hp : p.row < 64)
    (xs : List (Nat × List Byte)) (hxs : ∀ x ∈ xs, x.1 < 4) (hnd : (xs.map fun x => x.1).Nodup) (r : Tiles × W32) :
    (commitArrs j p fl r xs).1.pipe = r.1.pipe ∧
    (∀ a b, a < 4 → b < 8 → r.1.holds a b = true → (commitArrs j p fl r xs).1.holds a b = true) ∧
    (∀ x ∈ xs, (commitArrs j p fl r xs).1.holds x.1 j.tile = true ∧ ∀ i, i < 32 →
      (commitArrs j p fl r xs).1.word x.1 j.tile p.row i = committed j p fl x i (r.1.word x.1 j.tile p.row i)) ∧
    ∀ m k q i, m < 4 → k < 8 → q < 64 → i < 32 → ¬(k = j.tile ∧ q = p.row ∧ ∃ x ∈ xs, x.1 = m) →
      (commitArrs j p fl r xs).1.word m k q i = r.1.word m k q i := by
  induction xs generalizing r with
  | nil => exact ⟨rfl, fun _ _ _ _ h => h, fun _ h => (nomatch h), fun _ _ _ _ _ _ _ _ _ => rfl⟩
  | cons x xs ih =>
    rw [List.map_cons, List.nodup_cons] at hnd
    obtain ⟨hnot, hnd⟩ := hnd
    have hx := hxs x (List.mem_cons_self ..)
    obtain ⟨hpipe, hholds, hword⟩ := commitArr_tiles ht hp hx r.1 (fl := fl)
    obtain ⟨ipipe, iholds, irow, iword⟩ := ih (fun y hy => hxs y (List.mem_cons_of_mem _ hy)) hnd
      ((commitArr j p fl r.1 x).1, r.2 ||| (commitArr j p fl r.1 x).2)
    have hcons : commitArrs j p fl r (x :: xs) =
        commitArrs j p fl ((commitArr j p fl r.1 x).1, r.2 ||| (commitArr j p fl r.1 x).2) xs := rfl
    have hne (y : Nat × List Byte) (hy : y ∈ xs) : y.1 ≠ x.1 := fun h => hnot (h ▸ List.mem_map_of_mem (f := fun x => x.1) hy)
    rw [hcons]
    refine ⟨ipipe.trans hpipe, fun a b ha hb h => iholds a b ha hb (by rw [hholds a b ha hb, h]; rfl), fun y hy => ?_,
      fun m k q i hm hk hq hi hno => ?_⟩
    · rcases List.mem_cons.mp hy with rfl | hy'
      · refine ⟨iholds _ _ hx ht (by rw [hholds _ _ hx ht]; simp), fun i hi => ?_⟩
        rw [iword _ _ _ _ hx ht hp hi, hword _ _ _ _ hx ht hp hi, if_pos ⟨rfl, rfl, rfl⟩]
        rintro ⟨-, -, z, hz, hzx⟩
        exact hne z hz hzx
      · obtain ⟨hold, hrow⟩ := irow y hy'
        refine ⟨hold, fun i hi => ?_⟩
        rw [hrow i hi, hword _ _ _ _ (hxs y hy) ht hp hi, if_neg fun h => hne y hy' h.1]
    · rw [iword m k q i hm hk hq hi fun h => hno ⟨h.1, h.2.1, h.2.2.imp fun z hz => ⟨List.mem_cons_of_mem _ hz.1, hz.2⟩⟩,
        hword m k q i hm hk hq hi, if_neg fun h => hno ⟨h.2.1, h.2.2, x, List.mem_cons_self .., h.1.symm⟩]

/-- The state that a committed row leaves, before its core goes on. -/
def rowDone (s : State) (c : Nat) (j : TseqJob) (p : PipeRow) (fl : List LaneFlip) (skips : Nat) : State :=
  let r := commitArrs j p fl (getTiles s c, 0) p.panels
  let s := modTiles s c fun _ => { r.1 with pipe := r.1.pipe.drop 1 }
  let s := raiseFlags s c j.ctx r.2
  let s := modCtx s c j.ctx fun y => { y with tskips := satAdd y.tskips skips }
  bump (bump s (siteBlock (csite s c)) 6 skips) (siteBlock (csite s c)) 1 p.panels.length

theorem exec_tileRowCommit {c : Nat} {s : State} {fl : List LaneFlip} {j : TseqJob} {p : PipeRow} {q : List PipeRow}
    (hcr : coreRuns s c = true) (hpipe : (getTiles s c).pipe = p :: q) (hj : (getTiles s c).jobs.find? (fun j => j.sn = p.sn) = some j)
    (hw : commitWaits (getTiles s c) j p = false) : exec (.tileRowCommit c fl) s = .next (
      if (p.panels.map (plumbOf j.desc p fl)).any (fun x => x = .fail) then plumbFails s c j
      else tileWake (rowDone s c j p fl ((p.panels.map (plumbOf j.desc p fl)).countP fun x => x = .skip)) c) := by
  show execTileRowCommit c fl s = _
  rw [execTileRowCommit]
  dsimp only
  rw [hpipe]
  dsimp only
  rw [hj]
  dsimp only
  rw [hcr, hw, if_neg (by decide)]
  split <;> rfl

theorem rowDone_results (s : State) (c : Nat) (j : TseqJob) (p : PipeRow) (fl : List LaneFlip) (skips : Nat) :
    SameMemory s (rowDone s c j p fl skips) ∧ getTiles (rowDone s c j p fl skips) c =
      { (commitArrs j p fl (getTiles s c, 0) p.panels).1 with
        pipe := (commitArrs j p fl (getTiles s c, 0) p.panels).1.pipe.drop 1 } := by
  unfold rowDone
  dsimp only
  generalize commitArrs j p fl (getTiles s c, 0) p.panels = r
  have hraised : SameMemory s (modCtx (raiseFlags (modTiles s c fun _ => { r.1 with pipe := r.1.pipe.drop 1 }) c j.ctx r.2) c j.ctx
      fun y => { y with tskips := satAdd y.tskips skips }) ∧
      getTiles (modCtx (raiseFlags (modTiles s c fun _ => { r.1 with pipe := r.1.pipe.drop 1 }) c j.ctx r.2) c j.ctx
        fun y => { y with tskips := satAdd y.tskips skips }) c = { r.1 with pipe := r.1.pipe.drop 1 } := by
    refine ⟨((sameMemory_modTiles ..).trans (sameMemory_modCtx ..)).trans (sameMemory_modCtx ..), ?_⟩
    rw [getTiles_modCtx, raiseFlags, getTiles_modCtx, getTiles_modTiles]
  revert hraised
  generalize modCtx (raiseFlags (modTiles s c fun _ => { r.1 with pipe := r.1.pipe.drop 1 }) c j.ctx r.2) c j.ctx _ = u
  rintro ⟨hmem, htiles⟩
  exact ⟨(hmem.trans (onlyCaches_bump ..).memory).trans (onlyCaches_bump ..).memory, htiles⟩

/-! ### What lanes present (R40 to R43, R100) -/

theorem laneOut_plain (b : List Byte) (p : PipeRow) (m : Nat) (panel : List Byte) (i : Nat) :
    (badTileScale b = true → laneOut b p [] m panel i = .nan) ∧
    (badTileScale b = false → laneOut b p [] m panel i = laneDot b p panel i) := by
  unfold laneOut
  exact ⟨fun h => if_pos h, fun h => (if_neg (Bool.eq_false_iff.mp h)).trans (if_pos rfl)⟩

theorem laneDot_eq (b : List Byte) (p : PipeRow) (panel : List Byte) (i : Nat) :
    let v := laneSum (List.zipWith FV.mul (sideVals (tdAfmt b) p.act p.scales (tdAsc b))
      (sideVals (tdWfmt b) (laneRow panel i) (laneScales panel i) (tdWsc b)))
    laneDot b p panel i = if v.isZero = true ∧ (∀ x ∈ laneRow panel i, x = 0) then .fin false 0 0 false else v := by
  intro v
  have hzero : allZero (laneRow panel i) = true ↔ ∀ x ∈ laneRow panel i, x = 0 := by
    rw [allZero, List.all_eq_true]; simp only [decide_eq_true_eq]
  exact if_congr ((Bool.and_eq_true ..).to_iff.trans (and_congr Iff.rfl hzero)) rfl rfl

/-- A byte as a signed number. -/
theorem sint_toNat (b : Byte) : sint 8 b.toNat = b.toInt := by
  have hb := b.isLt
  unfold sint
  rw [BitVec.toInt_eq_toNat_cond, Nat.mod_eq_of_lt hb]
  exact if_congr (by omega) rfl rfl

theorem chunks_one (l : List Byte) : chunks 1 l.length l = l.map BitVec.toNat := by
  induction l with
  | nil => rfl
  | cons b l ih =>
    rw [List.length_cons, chunks, List.map_cons]
    exact congrArg₂ List.cons (by simp [leNat]) ih

theorem unpack_bytes (l : List Byte) : unpack 8 l = l.map BitVec.toNat := by
  rw [← chunks_one]
  show chunks 1 (l.length / 1) l = _
  rw [Nat.div_one]

theorem laneDotInt_eq (p : PipeRow) {panel : List Byte} {i : Nat} (hact : p.act.length = 64) (hpanel : 64 * i + 64 ≤ panel.length) :
    laneDotInt p panel i = ((List.range 64).map fun k => (p.act.getD k 0).toInt * (panel.getD (64 * i + k) 0).toInt).sum := by
  have hrow : (laneRow panel i).length = 64 := by rw [laneRow, List.length_take, List.length_drop]; omega
  unfold laneDotInt
  rw [unpack_bytes, unpack_bytes, List.zipWith_map]
  refine congrArg List.sum (List.ext_getElem (by simp [hact, hrow]) fun k hk _ => ?_)
  have hk64 : k < 64 := by simpa [hact, hrow] using hk
  have hw : (laneRow panel i)[k]'(by omega) = panel[64 * i + k]'(by omega) := by
    simp only [laneRow, List.getElem_take, List.getElem_drop]
  rw [List.getElem_zipWith, sint_toNat, sint_toNat, List.getElem_map, List.getElem_range, hw, List.getD_eq_getElem _ _ (by omega),
    List.getD_eq_getElem _ _ (by omega)]

/-- Settles O24: `streamRuns` for the stream, `commitArrs_tiles` for the words of a row, and what its lanes present. -/
theorem streamMoves : Obligations.StreamMoves := by
  refine ⟨fun c s j => streamRuns c s j, fun c s fl j p q => ?_, fun b p m panel i => ⟨(laneOut_plain b p m panel i).1, ?_, ?_⟩⟩
  · intro u hcr hpipe hj hw hpass hnd h4 ht hp
    have hnofail : ¬((p.panels.map (plumbOf j.desc p fl)).any fun x => x = .fail) = true := by
      simp only [List.any_map, List.any_eq_true, Function.comp_apply, decide_eq_true_eq, not_exists, not_and]
      exact hpass
    have hx := exec_tileRowCommit (fl := fl) hcr hpipe hj hw
    rw [if_neg hnofail] at hx
    obtain ⟨hmem, htiles⟩ := rowDone_results s c j p fl ((p.panels.map (plumbOf j.desc p fl)).countP fun x => x = .skip)
    obtain ⟨cpipe, -, crow, cword⟩ := commitArrs_tiles ht hp p.panels h4 hnd (getTiles s c, 0) (fl := fl)
    refine ⟨_, hx, hmem, ?_, fun x hx => ?_, fun m k r i hm hk hr hi hno => ?_⟩
    · rw [htiles]
      show List.drop 1 _ = q
      rw [cpipe, hpipe]; rfl
    · rw [htiles]
      exact crow x hx
    · rw [htiles]
      exact cword m k r i hm hk hr hi hno
  · intro v hbad
    rw [(laneOut_plain b p m panel i).2 hbad]
    exact laneDot_eq ..
  · intro hact hpanel
    rw [← laneDotInt_eq p hact hpanel]
    unfold laneOutInt
    exact if_pos rfl

end Sys2Proof.Machine
end

section
/-!
PROOFS. What the operations that log, report and stop the module leave unchanged, and the failed plumb check (R121).
-/

namespace Sys2Proof.Machine

/-! ### Events, incidents, alerts and the fail-stop -/

theorem noteEvent_eq (s : State) (e : Event) (v : List Byte) : noteEvent s e v = { s with dict := (noteEvent s e v).dict } := by
  unfold noteEvent
  split <;> rfl

theorem noteEvent_logged (s : State) (r : Repair) (n : Nat) (e : Event) (v : List Byte) :
    ∃ r' f d, noteEvent { s with repair := r, free := n } e v = { s with repair := r', free := f, dict := d } := by
  rw [noteEvent_eq]
  exact ⟨_, _, _, rfl⟩

theorem logInc_eq (s : State) (i : Inc) : ∃ r f d, logInc s i = { s with repair := r, free := f, dict := d } := by
  unfold logInc
  dsimp only [takeFree]
  split
  · exact ⟨_, s.free, s.dict, rfl⟩
  · split
    · split
      · exact noteEvent_logged s _ _ _ _
      · exact ⟨_, s.free, s.dict, rfl⟩
    · split
      · exact noteEvent_logged s _ _ _ _
      · exact ⟨_, s.free, s.dict, rfl⟩

theorem raiseAlert_eq (s : State) (b : Nat) : raiseAlert s b =
    { s with pwr := { s.pwr with alert := s.pwr.alert ||| BitVec.ofNat 32 (2 ^ b) }, dict := (raiseAlert s b).dict } := by
  unfold raiseAlert
  dsimp only
  split
  · rw [noteEvent_eq]
  · rfl

theorem setTwin_eq (s : State) (t : TwinSt) :
    setTwin s t = { s with twin := { s.twin with st := t }, dict := (setTwin s t).dict } := by
  unfold setTwin
  split
  next h => subst h; rfl
  · rw [noteEvent_eq]

theorem failStop_eq (s : State) (cls cause : Nat) : failStop s cls cause =
    { s with pwr := (failStop s cls cause).pwr, twin := (failStop s cls cause).twin, dict := (failStop s cls cause).dict } := by
  unfold failStop
  dsimp only
  split
  · rw [setTwin_eq, raiseAlert_eq]
  · rw [raiseAlert_eq]

theorem failStop_twinned (s : State) (cls cause : Nat) (h : twinned s = true) :
    (failStop s cls cause).pwr.failStopped = true ∧ (failStop s cls cause).twin.st = .failStopped := by
  unfold failStop
  dsimp only
  rw [if_pos h, setTwin_eq, raiseAlert_eq]
  exact ⟨rfl, rfl⟩

theorem failStop_stops (s : State) (cls cause : Nat) : (failStop s cls cause).pwr.failStopped = true := by
  unfold failStop
  dsimp only
  split
  · rw [setTwin_eq, raiseAlert_eq]
  · rw [raiseAlert_eq]

/-! ### Parcel states, steps that stop and cores to be fenced -/

theorem mem_nins (l : List Nat) (k j : Nat) : j ∈ nins l k ↔ j = k ∨ j ∈ l := by
  induction l with
  | nil => simp [nins]
  | cons x xs ih =>
    rw [nins]
    split
    next h => subst h; simp
    · split
      · simp
      · simp only [List.mem_cons, ih]
        tauto

theorem setPcl_eq (s : State) (p : Nat) (t : PclSt) :
    setPcl s p t = { s with gate := (modPcl s p fun x => { x with st := t }).gate, dict := (setPcl s p t).dict } ∨
    ((getPcl s p).st = t ∧ setPcl s p t = s) := by
  unfold setPcl
  split
  next h => exact .inr ⟨h, rfl⟩
  · rw [noteEvent_eq]
    exact .inl rfl

/-! ### A failed plumb check (R121) -/

theorem satAdd_one (v : BitVec 16) : satAdd v 1 = if v = 0xFFFF then 0xFFFF else v + 1 := by
  unfold satAdd
  split
  next h => subst h; rfl
  next h => bv_omega

/-- The tiles after a failed check: the pipeline and the slots are empty, the jobs back at their first discarded row. -/
def Tiles.repeated (x : Tiles) (sn : Nat) : Tiles :=
  Tiles.modJob { x with jobs := x.jobs.map fun j => j.back x.pipe, pipe := [], slots := [] } sn fun j =>
    { j with fails := j.fails + 1 }

theorem repeatTseq_results (s : State) (c : Nat) (j : TseqJob) :
    SameMemory s (repeatTseq s c j) ∧ getTiles (repeatTseq s c j) c = (getTiles s c).repeated j.sn ∧
    (getCtx (repeatTseq s c j) c j.ctx).trepeats = satAdd (getCtx s c j.ctx).trepeats 1 ∧
    (j.fails ≠ 0 → (coreParcel s c).isSome = true → c ∈ (repeatTseq s c j).place.fencing) := by
  unfold repeatTseq
  dsimp only
  generalize hv : modCtx (bump s (siteBlock (csite s c)) 5 1) c j.ctx (fun y => { y with trepeats := satAdd y.trepeats 1 }) = v
  have htiles : getTiles v c = getTiles s c := by rw [← hv, getTiles_modCtx]; rfl
  have hctx : (getCtx v c j.ctx).trepeats = satAdd (getCtx s c j.ctx).trepeats 1 := by rw [← hv, getCtx_modCtx_same]; rfl
  have hmem : SameMemory s v := by rw [← hv]; exact sameMemory_modCtx ..
  have hp : coreParcel v c = coreParcel s c := by rw [← hv]; rfl
  have back : SameMemory s (modTiles v c fun t => t.repeated j.sn) ∧
      getTiles (modTiles v c fun t => t.repeated j.sn) c = (getTiles s c).repeated j.sn ∧
      (getCtx (modTiles v c fun t => t.repeated j.sn) c j.ctx).trepeats = satAdd (getCtx s c j.ctx).trepeats 1 := by
    refine ⟨hmem.trans (sameMemory_modTiles ..), ?_, ?_⟩
    · rw [getTiles_modTiles, htiles]
    · rw [getCtx_modTiles, hctx]
  obtain ⟨bmem, btiles, bctx⟩ := back
  have hpb : coreParcel (modTiles v c fun t => t.repeated j.sn) c = coreParcel s c := hp
  change (fun w : State => SameMemory s w ∧ getTiles w c = (getTiles s c).repeated j.sn ∧
    (getCtx w c j.ctx).trepeats = satAdd (getCtx s c j.ctx).trepeats 1 ∧
    (j.fails ≠ 0 → (coreParcel s c).isSome = true → c ∈ w.place.fencing))
    (if j.fails = 0 then modTiles v c fun t => t.repeated j.sn
      else match coreParcel (modTiles v c fun t => t.repeated j.sn) c with
        | none => modTiles v c fun t => t.repeated j.sn
        | some p => stopStep (fenceCore (modTiles v c fun t => t.repeated j.sn) c) p .replay)
  generalize modTiles v c (fun t => t.repeated j.sn) = w at *
  split
  next h => exact ⟨bmem, btiles, bctx, fun hf => absurd h hf⟩
  next h =>
    split
    next hn => exact ⟨bmem, btiles, bctx, fun _ hs => by rw [← hpb, hn] at hs; cases hs⟩
    next p _ => exact ⟨bmem, btiles, bctx, fun _ _ => (mem_nins _ _ _).2 (.inl rfl)⟩

theorem repeated_fields (x : Tiles) (sn : Nat) : (x.repeated sn).words = x.words ∧ (x.repeated sn).pipe = [] ∧
    (x.repeated sn).slots = [] ∧ (x.repeated sn).jobs.length = x.jobs.length := by
  refine ⟨rfl, rfl, rfl, ?_⟩
  simp only [Tiles.repeated, Tiles.modJob, List.length_map]

/-- Settles O25: the failure is logged, which changes nothing of the core; the module then fail-stops or repeats. -/
theorem plumbFailures : Obligations.PlumbFailures := by
  intro c s fl j p q x
  dsimp only
  intro hcr hpipe hj hw hx hfail
  have hany : (p.panels.map (plumbOf j.desc p fl)).any (fun x => x = .fail) = true := by
    rw [List.any_map, List.any_eq_true]
    exact ⟨x, hx, by simpa using hfail⟩
  have hex := exec_tileRowCommit (fl := fl) hcr hpipe hj hw
  rw [if_pos hany, plumbFails] at hex
  obtain ⟨r, f, d, hlog⟩ := logInc_eq s
    { cls := 0x20, action := if twinned s then 5 else if j.fails = 0 then 0 else 8, parcel := coreParcel s c, locKind := 0,
      locNum := csite s c, domain := siteBed (csite s c), addr := j.descAddr }
  rw [hlog] at hex
  cases htw : twinned s with
  | true =>
    have ht1 : twinned { s with repair := r, free := f, dict := d } = true := htw
    rw [if_pos ht1] at hex
    obtain ⟨hstop, hst⟩ := failStop_twinned _ 0x20 0 ht1
    refine ⟨_, hex, ?_, ?_, (fun _ => ⟨hstop, hst⟩), fun h => by cases h⟩
    · rw [failStop_eq]; exact sameMemory_of rfl rfl
    · rw [failStop_eq]; rfl
  | false =>
    have ht1 : twinned { s with repair := r, free := f, dict := d } = false := htw
    rw [ht1, if_neg (by decide)] at hex
    obtain ⟨hmem, htiles, hctx, hfence⟩ := repeatTseq_results { s with repair := r, free := f, dict := d } c j
    obtain ⟨hwords, hnopipe, hnoslots, hjobs⟩ := repeated_fields (getTiles s c) j.sn
    refine ⟨_, hex, hmem, ?_, (fun h => by cases h), fun _ => ⟨?_, ?_, ?_, ?_, hfence⟩⟩
    · rw [htiles]; exact hwords
    · rw [htiles]; exact hnopipe
    · rw [htiles]; exact hnoslots
    · rw [htiles]; exact hjobs
    · rw [hctx, satAdd_one]; rfl

end Sys2Proof.Machine
end

section
/-!
PROOFS. The drain engine: a row goes through the epilogue, a drain completes (R110 to R114).
-/

namespace Sys2Proof.Machine

/-! ### The row of a drain whose CTL is all zero (Table 4-12) -/

section
variable {d : DrainJob} (hctl : field d.ep 4 4 = 0)
include hctl

theorem edDest_of_zero : edDest d.ep = 0 := by rw [edDest, edCtl, hctl]; rfl
theorem edScale_of_zero : edScale d.ep = false := by rw [edScale, edCtl, hctl]; rfl
theorem edBias_of_zero : edBias d.ep = false := by rw [edBias, edCtl, hctl]; rfl
theorem edCairn_of_zero : edCairn d.ep = false := by rw [edCairn, edCtl, hctl]; rfl
theorem edTable_of_zero : edTable d.ep = false := by rw [edTable, edCtl, hctl]; rfl
theorem edSr_of_zero : edSr d.ep = false := by rw [edSr, edCtl, hctl]; rfl
theorem edDfmt_of_zero : edDfmt d.ep = 0 := by rw [edDfmt, edCtl, hctl]; rfl

theorem epiWord_of_zero (img : List Byte) (int : Bool) (bias w : W32) : epiWord d.ep img int bias w = (w, int, w) := by
  simp [epiWord, edScale_of_zero hctl, edBias_of_zero hctl, edCairn_of_zero hctl, edTable_of_zero hctl]

/-- A part of floats is converted word by word to FP32. -/
theorem epiPart_of_zero (i : Nat) (ws : List W32) : ∃ fl, epiPart d i (ws.map fun w => (w, false)) =
    ([], ws.map fun w => fmtFP32.round (ofF32 w), fl) := by
  have hint : (ws.map fun w => (w, false)).any (fun v => v.2) = false := by simp
  unfold epiPart
  dsimp only
  rw [edSr_of_zero hctl, edDfmt_of_zero hctl, hint]
  refine ⟨_, Prod.ext rfl (Prod.ext ?_ rfl)⟩
  show List.map _ (List.map _ (List.zipIdx (List.map _ (List.map _ ws)))) = _
  rw [List.map_map, List.map_map, List.zipIdx_map, List.map_map]
  refine List.ext_getElem (by simp) fun k hk _ => ?_
  rw [List.getElem_map, List.getElem_map, List.getElem_zipIdx]
  show fmtFP32.round (elemVal 0 (ws[k]'_).toNat) = _
  rw [elemVal_fp32]

theorem epiParts_of_zero (n i : Nat) (ws : List W32) (hlen : ws.length = 32 * n) : ∃ fl,
    epiParts d n i (ws.map fun w => (w, false)) = ([], ws.map fun w => fmtFP32.round (ofF32 w), fl) := by
  induction n generalizing i ws with
  | zero =>
    obtain rfl := List.eq_nil_of_length_eq_zero hlen
    exact ⟨0, rfl⟩
  | succ n ih =>
    obtain ⟨f, hpart⟩ := epiPart_of_zero hctl i (ws.take 32)
    obtain ⟨g, hrest⟩ := ih (i + 32) (ws.drop 32) (by rw [List.length_drop, hlen]; omega)
    refine ⟨f ||| g, ?_⟩
    rw [epiParts, ← List.map_take, ← List.map_drop, hpart, hrest]
    dsimp only
    rw [← List.map_append, List.take_append_drop]
    rfl

end

/-- The words of a row of the drain's block, in the order of its columns. -/
def rowWords (u : Tiles) (d : DrainJob) : List W32 :=
  (arrs d.arr).flatMap fun a => (List.range 32).map fun j => u.word a d.tile d.row j

theorem length_rowWords (u : Tiles) (d : DrainJob) : (rowWords u d).length = 32 * (arrs d.arr).length := by
  unfold rowWords
  induction arrs d.arr with
  | nil => rfl
  | cons a as ih => simp only [List.flatMap_cons, List.length_append, List.length_map, List.length_range, ih, List.length_cons]; omega

theorem blockRow_floats {u : Tiles} {d : DrainJob} (hfl : ∀ m, m < 4 → d.arr.getLsbD m = true → u.isInt m d.tile = false) :
    blockRow u d.arr d.tile d.row = (rowWords u d).map fun w => (w, false) := by
  unfold blockRow rowWords
  rw [List.map_flatMap]
  refine List.flatMap_congr fun a ha => ?_
  obtain ⟨ha4, hbit⟩ : a < 4 ∧ d.arr.getLsbD a = true := by simpa [arrs] using ha
  rw [hfl a ha4 hbit, List.map_map]
  exact List.map_congr_left fun j _ => Prod.ext rfl (Bool.and_false _)

theorem leBytes_mod (n v : Nat) : leBytes n (v % 256 ^ n) = leBytes n v := by
  induction n generalizing v with
  | zero => rfl
  | succ n ih =>
    rw [leBytes, leBytes, pow_succ']
    refine congrArg₂ List.cons ?_ ?_
    · apply BitVec.eq_of_toNat_eq
      rw [BitVec.toNat_ofNat, BitVec.toNat_ofNat]
      exact Nat.mod_mul_right_mod v 256 (256 ^ n)
    · rw [Nat.mod_mul_right_div_self, ih]

theorem leBytes_toF32 (v : FV) : leBytes 4 (toF32 v).toNat = leBytes 4 (fmtFP32.round v) := by
  rw [toF32, BitVec.toNat_ofNat]
  exact leBytes_mod 4 _

/-- The bytes that the row leaves as: its words as FP32. -/
def rowBytes (u : Tiles) (d : DrainJob) : List Byte :=
  (arrs d.arr).flatMap fun m => (List.range 32).flatMap fun i => leBytes 4 (toF32 (ofF32 (u.word m d.tile d.row i))).toNat

theorem rowBytes_eq (u : Tiles) (d : DrainJob) :
    pack 32 ((rowWords u d).map fun w => fmtFP32.round (ofF32 w)) = rowBytes u d := by
  show ((rowWords u d).map fun w => fmtFP32.round (ofF32 w)).flatMap (fun x => leBytes 4 x) = _
  unfold rowBytes rowWords
  rw [List.flatMap_map, List.flatMap_assoc]
  refine List.flatMap_congr fun a _ => ?_
  rw [List.flatMap_map]
  exact List.flatMap_congr fun i _ => (leBytes_toF32 _).symm

theorem length_rowBytes (u : Tiles) (d : DrainJob) : (rowBytes u d).length = 128 * (arrs d.arr).length := by
  rw [← rowBytes_eq]
  show (List.flatMap (fun x => leBytes 4 x) _).length = _
  rw [length_flatMap_leBytes, List.length_map, length_rowWords]
  omega

/-- A row of floats under an all-zero CTL is stored as FP32 at its destination. -/
theorem drainRowWork_plain {s : State} {c : Nat} {d : DrainJob} {off : Nat} (hctl : field d.ep 4 4 = 0)
    (hfl : ∀ m, m < 4 → d.arr.getLsbD m = true → (getTiles s c).isInt m d.tile = false)
    (hspot : spotOf s c spNoFar (edRow d.ep d.base d.row) (128 * (arrs d.arr).length) = some (.near off)) :
    ∃ v, drainRowWork s c d = some (.ok v) ∧ StoredAt c s v (.near off) (rowBytes (getTiles s c) d) := by
  have hbias : biasWords s c d.ep (arrs d.arr).length = .ok (List.replicate (32 * (arrs d.arr).length) 0) := by
    rw [biasWords, edBias_of_zero hctl]; rfl
  have hrow : List.zipWith (fun (v : W32 × Bool) (w : W32) => epiWord d.ep ((getCore s c).table 0) v.2 w v.1)
      (blockRow (getCore s c).tiles d.arr d.tile d.row) (List.replicate (32 * (arrs d.arr).length) 0) =
      (rowWords (getTiles s c) d).map fun w => (w, false, w) := by
    rw [show (getCore s c).tiles = getTiles s c from rfl, blockRow_floats hfl]
    refine List.ext_getElem (by simp [length_rowWords]) fun k hk _ => ?_
    rw [List.getElem_zipWith, epiWord_of_zero hctl, List.getElem_map, List.getElem_map]
  obtain ⟨fl, hparts⟩ := epiParts_of_zero hctl (arrs d.arr).length (field d.ep 32 4 + d.row * edRowElems d.ep)
    (rowWords (getTiles s c) d) (length_rowWords _ _)
  have hconv : epiConv d ((rowWords (getTiles s c) d).map fun w => (w, false)) =
      ([], (rowWords (getTiles s c) d).map fun w => fmtFP32.round (ofF32 w), fl) := hparts
  have hwrite : ∀ f, epiDest (raiseFlags s c d.ctx f) c d
      ([], (rowWords (getTiles s c) d).map fun w => fmtFP32.round (ofF32 w), fl) =
      .ok (localWrite (raiseFlags s c d.ctx f) c 3 (edRow d.ep d.base d.row) (.near off) (rowBytes (getTiles s c) d)) := by
    intro f
    unfold epiDest
    dsimp only
    rw [edDest_of_zero hctl, edDfmt_of_zero hctl]
    show writeAll _ c 3 spNoFar [(_, pack 32 _)] = _
    rw [rowBytes_eq]
    exact writeAll_near (by rw [length_rowBytes]; exact hspot)
  refine ⟨bump (localWrite (raiseFlags s c d.ctx fl) c 3 (edRow d.ep d.base d.row) (.near off) (rowBytes (getTiles s c) d))
    (siteBlock (csite s c)) 2 (arrs d.arr).length, ?_, ?_⟩
  · have hes : List.map (fun v : W32 × Bool × W32 => (v.1, v.2.1)) ((rowWords (getTiles s c) d).map fun w => (w, false, w)) =
        (rowWords (getTiles s c) d).map fun w => (w, false) := by rw [List.map_map]; rfl
    unfold drainRowWork
    dsimp only
    rw [hbias]
    dsimp only
    rw [hrow, hes, hconv, edCairn_of_zero hctl]
    simp only [Bool.false_and, Bool.false_eq_true, if_false]
    rw [show fl ||| 0 = fl from BitVec.or_zero, hwrite]
    rfl
  · have hput := localWrite_stored (s := raiseFlags s c d.ctx fl) (c := c) (unit := 3) (a := edRow d.ep d.base d.row)
      (x := .near off) (bs := rowBytes (getTiles s c) d) rfl
    exact ((sameMemory_modCtx s c d.ctx _).then_stored rfl hput).trans_same (onlyCaches_bump ..).memory

/-! ### DRAIN_ROW and DRAIN_COMPLETE -/

theorem exec_drainRow {c : Nat} {s v : State} {d : DrainJob} {q : List DrainJob} (hcr : coreRuns s c = true)
    (hd : (getTiles s c).drains = d :: q) (hrow : d.row < d.rows) (hp : rowPending (getTiles s c) d.sn d.arr d.tile d.row = false)
    (hinj : edDest d.ep = 2 → canInject s c 2 = true) (hv : drainRowWork s c d = some (.ok v)) :
    ∃ ends, exec (.drainRow c) s =
      .next (tileWake (modTiles v c fun t => { t with drains := { d with row := d.row + 1, ends := ends } :: q }) c) := by
  have hsum : (decide (edDest d.ep = 2) && !canInject s c 2) = false := by
    by_cases h : edDest d.ep = 2
    · rw [hinj h]; simp
    · simp [h]
  refine ⟨(engEnds v c ((edRow d.ep d.base d.row, [0]) ::
    (if fmtMx (edDfmt d.ep) then [(edScaleAddr d.ep d.base d.row, [0])] else []))).foldl nins d.ends, ?_⟩
  show execDrainRow c s = _
  rw [execDrainRow]
  dsimp only
  rw [hd]
  dsimp only
  rw [hcr, hp, hsum, if_neg (by simpa using hrow), hv]
  rfl

/-- The tiles after the drain at the front of the queue has completed. -/
def Tiles.drained (x : Tiles) (d : DrainJob) (q : List DrainJob) : Tiles :=
  if d.rel then (arrs d.arr).foldl (fun t m => t.empty m d.tile) { x with drains := q } else { x with drains := q }

theorem drained_drains (x : Tiles) (d : DrainJob) (q : List DrainJob) : (x.drained d q).drains = q := by
  unfold Tiles.drained
  have hfold : ∀ (ms : List Nat) (y : Tiles), (ms.foldl (fun t m => t.empty m d.tile) y).drains = y.drains := by
    intro ms
    induction ms with
    | nil => exact fun _ => rfl
    | cons m ms ih => exact fun y => ih _
  split
  · rw [hfold]
  · rfl

theorem foldl_empty_mask (ms : List Nat) (k : Nat) : ∃ b, ∀ x : Tiles,
    ms.foldl (fun y m => y.empty m k) x = { x with hold := x.hold &&& b, int := x.int &&& b } := by
  induction ms with
  | nil => exact ⟨BitVec.allOnes 32, fun x => by rw [BitVec.and_allOnes, BitVec.and_allOnes]; rfl⟩
  | cons m ms ih =>
    obtain ⟨b, hb⟩ := ih
    refine ⟨~~~(BitVec.ofNat 32 (2 ^ (8 * m + k))) &&& b, fun x => ?_⟩
    rw [List.foldl_cons, hb, ← BitVec.and_assoc, ← BitVec.and_assoc]
    rfl

theorem foldl_rels_mask (rs : List RelJob) : ∃ b, ∀ x : Tiles,
    rs.foldl (fun y r => (arrs r.arr).foldl (fun y m => y.empty m r.tile) y) x =
      { x with hold := x.hold &&& b, int := x.int &&& b } := by
  induction rs with
  | nil => exact ⟨BitVec.allOnes 32, fun x => by rw [BitVec.and_allOnes, BitVec.and_allOnes]; rfl⟩
  | cons r rs ih =>
    obtain ⟨b, hb⟩ := ih
    obtain ⟨a, ha⟩ := foldl_empty_mask (arrs r.arr) r.tile
    refine ⟨a &&& b, fun x => ?_⟩
    rw [List.foldl_cons, ha, hb, ← BitVec.and_assoc, ← BitVec.and_assoc]

/-- The drain is over, and its release left to an ACCREL that no tile work precedes. -/
def Tiles.drainedLater (x : Tiles) (d : DrainJob) (q : List DrainJob) : Tiles :=
  { x with drains := q, rels := { sn := 0, ctx := d.ctx, arr := d.arr, tile := d.tile } :: x.rels }

/-- The ACCREL releases what the drain would have. -/
theorem drainedLater_wakes (x : Tiles) {d : DrainJob} (q : List DrainJob) (hrel : d.rel = true) :
    (x.drainedLater d q).finish.runRels = (x.drained d q).finish.runRels := by
  obtain ⟨a, ha⟩ := foldl_empty_mask (arrs d.arr) d.tile
  unfold Tiles.drained
  rw [if_pos hrel, ha]
  unfold Tiles.runRels Tiles.finish Tiles.drainedLater
  dsimp only
  rw [List.filter_cons_of_pos (by simp), List.filter_cons_of_neg (by simp), List.foldl_cons, ha]
  dsimp only
  generalize List.filter (fun r : RelJob => !(List.any _ _) && !(List.any _ _)) x.rels = rs
  obtain ⟨b, hb⟩ := foldl_rels_mask rs
  rw [hb, hb]

/-- The tiles that the end of a drain leaves, given that waits go on only after it. A drain of a TDRN names one of eight
tiles; a state that has one beyond, whose release would meet the tiles of other arrays, is met through `drainedLater`. -/
def Tiles.afterDrain (x : Tiles) (d : DrainJob) (q : List DrainJob) : Tiles :=
  if d.rel = true ∧ 8 ≤ d.tile then x.drainedLater d q else x.drained d q

theorem afterDrain_drains (x : Tiles) (d : DrainJob) (q : List DrainJob) : (x.afterDrain d q).drains = q := by
  unfold Tiles.afterDrain
  split
  · rfl
  · exact drained_drains ..

theorem afterDrain_wakes (x : Tiles) (d : DrainJob) (q : List DrainJob) :
    (x.afterDrain d q).finish.runRels = (x.drained d q).finish.runRels := by
  unfold Tiles.afterDrain
  split
  next h => exact drainedLater_wakes x q h.1
  · rfl

theorem afterDrain_holds (x : Tiles) (d : DrainJob) (q : List DrainJob) {m k : Nat} (hm : m < 4) (hk : k < 8) :
    (x.afterDrain d q).holds m k = (x.holds m k && !(d.rel && d.arr.getLsbD m && decide (k = d.tile))) := by
  unfold Tiles.afterDrain
  split
  next h =>
    rw [show decide (k = d.tile) = false by simp; omega, Bool.and_false, Bool.not_false, Bool.and_true]
    rfl
  next h =>
    unfold Tiles.drained
    cases hrel : d.rel with
    | false => simp; rfl
    | true =>
      have ht : d.tile < 8 := by by_contra hn; exact h ⟨hrel, by omega⟩
      rw [if_pos rfl, holds_foldl_empty _ _ ht hm hk, mem_arrs hm]
      rfl

/-- A key written twice: the second value stays, and only it if the first did not take the key out for it. -/
theorem sset_sset {α : Type} [DecidableEq α] (d : α) (m : SMap α) (k : Nat) {a b : α} (h : a = d → b = d) :
    sset d (sset d m k a) k b = sset d m k b := by
  have hput : ∀ m : SMap α, sput (sput m k a) k b = sput m k b := by
    intro m
    induction m with
    | nil => simp [sput]
    | cons e t ih =>
      obtain ⟨j, x⟩ := e
      simp only [sput]
      split
      · simp [sput]
      · split
        · simp [sput]
        next h1 h2 => simp [sput, h1, h2, ih]
  have hdel : ∀ m : SMap α, sdel (sput m k a) k = sdel m k := by
    intro m
    induction m with
    | nil => simp [sput, sdel]
    | cons e t ih =>
      obtain ⟨j, x⟩ := e
      simp only [sput]
      split
      next h1 => subst h1; simp [sdel]
      · split
        · simp [sdel]
        next h1 h2 =>
          unfold sdel at ih ⊢
          rw [List.filter_cons, List.filter_cons, ih]
  unfold sset
  by_cases hb : b = d
  · rw [if_pos hb, if_pos hb]
    split
    · simp [sdel]
    · exact hdel m
  · rw [if_neg hb, if_neg hb, if_neg (fun ha => hb (h ha)), hput]

theorem modTiles_modTiles (s : State) (c : Nat) {f g : Tiles → Tiles} (hg : g {} = {}) :
    modTiles (modTiles s c f) c g = modTiles s c fun x => g (f x) := by
  have hsites : (modTiles (modTiles s c f) c g).sites = (modTiles s c fun x => g (f x)).sites := by
    show sset {} (sset {} s.sites (csite s c) _) (csite s c) { getCore (modTiles s c f) c with
      tiles := g (getCore (modTiles s c f) c).tiles } = _
    have hcore : getCore (modTiles s c f) c = { getCore s c with tiles := f (getTiles s c) } := getCore_modCore_same ..
    rw [hcore, sset_sset]
    · rfl
    · intro h
      have htiles : f (getTiles s c) = {} := congrArg Site.tiles h
      have hsite : { getCore s c with tiles := f (getTiles s c) } = ({} : Site) := h
      rw [htiles] at hsite ⊢
      rw [hg]
      exact hsite
  exact congrArg (fun m => { s with sites := m }) hsites

/-- The tail of a drain that has completed (R114, R257). -/
def drainTail (s : State) (c : Nat) (d : DrainJob) : State :=
  match edTail d.ep with
  | none => s
  | some b => if edDest d.ep = 2 then inject s (tailFlit s c (bits d.base.toNat 32 10) b) else tailTo s c d.ends b

theorem drainTail_eq (s : State) (c : Nat) (d : DrainJob) : drainTail s c d = { s with mesh := (drainTail s c d).mesh } := by
  unfold drainTail
  split
  · rfl
  · split
    · rfl
    · rw [tailTo_eq]

theorem getTiles_drainTail (s : State) (c : Nat) (d : DrainJob) : getTiles (drainTail s c d) c = getTiles s c := by
  rw [drainTail_eq]; rfl

theorem sameMemory_drainTail (s : State) (c : Nat) (d : DrainJob) : SameMemory s (drainTail s c d) := by
  rw [drainTail_eq]; exact sameMemory_of rfl rfl

theorem drainTail_modTiles (s : State) (c : Nat) (d : DrainJob) (f : Tiles → Tiles) :
    drainTail (modTiles s c f) c d = modTiles (drainTail s c d) c f := by
  unfold drainTail
  split
  · rfl
  · split
    · rfl
    · rw [tailTo_eq, tailTo_eq]
      rfl

theorem exec_drainComplete {c : Nat} {s : State} {d : DrainJob} {q : List DrainJob} (hcr : coreRuns s c = true)
    (hd : (getTiles s c).drains = d :: q) (hrow : d.rows ≤ d.row) (hinj : edTail d.ep ≠ none → injBlocked s c = false) :
    exec (.drainComplete c) s = .next (tileWake (drainTail (modTiles s c fun x => x.drained d q) c d) c) := by
  have hblk : ((edTail d.ep).isSome && injBlocked s c) = false := by
    cases h : edTail d.ep with
    | none => rfl
    | some b => rw [hinj (by rw [h]; simp)]; rfl
  show execDrainComplete c s = _
  rw [execDrainComplete, hd]
  dsimp only
  rw [hcr, hblk, if_neg (by simpa using hrow)]
  unfold drainTail
  cases edTail d.ep <;> rfl

/-- Waits go on after the tiles of `afterDrain` as they do after those that the drain leaves. -/
theorem wakes_afterDrain (s : State) (c : Nat) (d : DrainJob) (q : List DrainJob) :
    tileWake (drainTail (modTiles s c fun x => x.drained d q) c d) c =
      tileWake (drainTail (modTiles s c fun x => x.afterDrain d q) c d) c := by
  have hwake : ∀ f : Tiles → Tiles, tileWake (drainTail (modTiles s c f) c d) c =
      wake (modTiles (drainTail s c d) c fun x => (f x).finish.runRels) c := fun f => by
    rw [drainTail_modTiles, tileWake, modTiles_modTiles _ _ (g := fun t => t.finish.runRels) rfl]
  rw [hwake, hwake]
  exact congrArg (fun f => wake (modTiles (drainTail s c d) c f) c) (funext fun x => (afterDrain_wakes x d q).symm)

theorem drainTail_sends {s : State} {c b : Nat} {d : DrainJob} (hb : edTail d.ep = some b) (h2 : edDest d.ep ≠ 2)
    (hends : d.ends.length ≠ 1 ∨ d.ends = [csite s c]) : (drainTail s c d).mesh =
      { s.mesh with msgs := s.mesh.msgs ++ [{ core := c, site := csite s c, ctx := 0, beacon := b, op := .add 1 }] } := by
  unfold drainTail
  rw [hb]
  dsimp only
  rw [if_neg h2, tailTo_eq]
  have hno : (d.ends.filter fun _ => d.ends.length = 1 && d.ends ≠ [csite s c]) = [] :=
    List.filter_eq_nil_iff.2 fun _ _ => by rcases hends with h | h <;> simp [h]
  rw [hno]

/-- Settles O26: `exec_drainRow`, `drainRowWork_plain` and `exec_drainComplete`. -/
theorem drainMoves : Obligations.DrainMoves := by
  intro c s d q
  dsimp only
  intro hcr hd
  refine ⟨fun v hrow hp hinj hv => ?_, fun off hctl hfl hspot => drainRowWork_plain hctl hfl hspot, fun hrow hinj => ?_⟩
  · obtain ⟨ends, hx⟩ := exec_drainRow hcr hd hrow hp hinj hv
    exact ⟨_, ends, hx, sameMemory_modTiles .., getTiles_modTiles ..⟩
  · have hx := exec_drainComplete hcr hd hrow hinj
    rw [wakes_afterDrain] at hx
    have htiles : getTiles (drainTail (modTiles s c fun x => x.afterDrain d q) c d) c = (getTiles s c).afterDrain d q := by
      rw [getTiles_drainTail, getTiles_modTiles]
    refine ⟨_, hx, ?_, ?_, fun m k hm hk => ?_, fun hn => ?_, fun b hb h2 hends => ?_⟩
    · exact (sameMemory_modTiles ..).trans (sameMemory_drainTail ..)
    · rw [htiles, afterDrain_drains]
    · rw [htiles, afterDrain_holds _ _ _ hm hk]
    · unfold drainTail; rw [hn]; rfl
    · exact drainTail_sends (s := modTiles s c _) hb h2 hends

end Sys2Proof.Machine
end

section
/-!
PROOFS. The Cairn: its ownership and registers, pushes and pops (R128 to R136).
-/

namespace Sys2Proof.Machine

theorem spares_cairn (f : Cairn → Cairn) : SparesContexts fun x => { x with cairn := f x.cairn } :=
  ⟨fun _ _ => rfl, fun _ => ⟨rfl, rfl⟩⟩

theorem getCairn_modCairn (s : State) (c : Nat) (f : Cairn → Cairn) : getCairn (modCairn s c f) c = f (getCairn s c) := by
  rw [getCairn, modCairn, getCore_modCore_same]; rfl

theorem getCairn_modCtx (s : State) (c k : Nat) (f : Ctx → Ctx) : getCairn (modCtx s c k f) c = getCairn s c := by
  rw [getCairn, modCtx, getCore_modCore_same]; rfl

theorem getCairn_retire (s : State) (c k : Nat) : getCairn (retire s c k) c = getCairn s c := getCairn_modCtx ..

section
variable {h : Shape} {e : Enc} {s : State} (hi : Issues h e s)
include hi

theorem getCairn_issued : getCairn (issued e s) e.core = getCairn s e.core := cairn_issued hi

section
variable (hf : (getCairn s e.core).fault = none)
include hf

theorem cairnHeld_issued : cairnHeld e (issued e s) = none := by
  rw [cairnHeld, getCairn_issued hi, hf]

theorem cairnClass_issued (f : State → State) : cairnClass e (issued e s) f = f (issued e s) := by
  rw [cairnClass, cairnHeld_issued hi hf]

theorem owningCairn_issued (f : State → State) : owningCairn e (issued e s) f =
    if (getCairn s e.core).owner ≠ some e.ctx then e.trap (issued e s) 0x1D (BitVec.ofNat 64 (getCairn s e.core).ownBits)
    else f (issued e s) := by
  rw [owningCairn, cairnClass_issued hi hf, getCairn_issued hi]

theorem owningCairn_owned (ho : (getCairn s e.core).owner = some e.ctx) (f : State → State) :
    owningCairn e (issued e s) f = f (issued e s) := by
  rw [owningCairn_issued hi hf, if_neg (not_not.2 ho)]

theorem owningCairn_trap (ho : (getCairn s e.core).owner ≠ some e.ctx) (f : State → State) : owningCairn e (issued e s) f =
    e.trap (issued e s) 0x1D (BitVec.ofNat 64 (getCairn s e.core).ownBits) := by
  rw [owningCairn_issued hi hf, if_pos ho]

end

/-- The command is executed, the Cairn is y, the PC goes on, and nothing else of other contexts, sites or memory changes. -/
def CairnIs (i : Instr) (e : Enc) (s : State) (y : Cairn) : Prop :=
  ∃ t, exec i s = .next t ∧ OnlySite e.core s t ∧ SameMemory s t ∧ CtxIs e t { e.x s with pc := (e.x s).pc + 8 } ∧
    (∀ j, j ≠ e.ctx → getCtx t e.core j = getCtx s e.core j) ∧ getCairn t e.core = y

theorem cairnIs_of {i : Instr} {f : Cairn → Cairn} (hx : exec i s = .next (retire (modCairn (issued e s) e.core f) e.core e.ctx)) :
    CairnIs i e s (f (getCairn s e.core)) := by
  have ha := ((acted_issued hi).modCore (spares_cairn f)).retire (issues_st hi) (issues_wait hi)
  refine ⟨_, hx, ha.only, ha.memory, ha.ctx, ha.others, ?_⟩
  rw [getCairn_retire, getCairn_modCairn, getCairn_issued hi]

end

/-! ### COWN (R129) -/

section
variable {e : Enc} {s : State} (hi : Issues { cls := 8, op := 1, imm := 1 } e s) (hf : (getCairn s e.core).fault = none)
include hi hf

theorem exec_cown_claim (himm : e.imm = 1) : exec (.cown e) s = .next (
    if (getCairn s e.core).owner ≠ none ∧ (getCairn s e.core).owner ≠ some e.ctx then
      e.trap (issued e s) 0x1D (BitVec.ofNat 64 (getCairn s e.core).ownBits)
    else retire (modCairn (issued e s) e.core fun x => { x with owner := some e.ctx }) e.core e.ctx) := by
  show execCown e s = _
  rw [execCown, issue_next hi, cairnClass_issued hi hf]
  dsimp only
  rw [getCairn_issued hi, himm, if_pos (by decide)]

theorem exec_cown_release (himm : e.imm = 0) : exec (.cown e) s = .next (
    retire (modCairn (issued e s) e.core fun x => { x with owner := if x.owner = some e.ctx then none else x.owner }) e.core e.ctx) := by
  show execCown e s = _
  rw [execCown, issue_next hi, cairnClass_issued hi hf]
  dsimp only
  rw [himm, if_neg (by decide)]

end

/-! ### Instructions of a context that does not own the Cairn -/

theorem cairnFmt_some {e : Enc} (h : e.imm ≤ 2) : (cairnFmt e.imm.toNat).isNone = false := by
  have hle : e.imm.toNat ≤ 2 := h
  obtain h0 | h1 | h2 : e.imm.toNat = 0 ∨ e.imm.toNat = 1 ∨ e.imm.toNat = 2 := by omega
  · rw [h0]; rfl
  · rw [h1]; rfl
  · rw [h2]; rfl

theorem toNat_ne_zero {n : Nat} {v : BitVec n} (h : v ≠ 0) : ¬v.toNat = 0 := fun h0 => h (BitVec.eq_of_toNat_eq h0)

section
variable {e : Enc} {s : State} (hf : (getCairn s e.core).fault = none) (ho : (getCairn s e.core).owner ≠ some e.ctx)
include hf ho

theorem cpush_unowned (hi : Issues { cls := 8, op := 2, ra := true, imm := 0x1F } e s) (hfmt : e.imm ≤ 2) :
    Traps (.cpush e) e s 0x1D (BitVec.ofNat 64 (getCairn s e.core).ownBits) := by
  refine traps_of hi ?_
  show execCpush e s = _
  rw [execCpush, issue_next hi, if_neg (by rw [cairnFmt_some hfmt]; decide), owningCairn_trap hi hf ho]

theorem cpopv_unowned (hi : Issues { cls := 8, op := 3, rd := true, imm := 0x1F } e s) (hfmt : e.imm ≤ 2) :
    Traps (.cpopv e) e s 0x1D (BitVec.ofNat 64 (getCairn s e.core).ownBits) := by
  refine traps_of hi ?_
  show execCpopv e s = _
  rw [execCpopv, issue_next hi, if_neg (by rw [cairnFmt_some hfmt]; decide), owningCairn_trap hi hf ho]

theorem cpop_unowned (hi : Issues { cls := 8, op := 4, ra := true, rb := true, aA := true } e s) (hn : (e.x s).s e.rb ≠ 0) :
    Traps (.cpop e) e s 0x1D (BitVec.ofNat 64 (getCairn s e.core).ownBits) := by
  refine traps_of hi ?_
  show execCpop e s = _
  rw [execCpop, issue_next hi]
  dsimp only
  rw [s_issued hi, if_neg (toNat_ne_zero hn), owningCairn_trap hi hf ho]

theorem crsv_unowned (hi : Issues { cls := 8, op := 5, ra := true } e s) (hn : (e.x s).s e.ra ≠ 0) :
    Traps (.crsv e) e s 0x1D (BitVec.ofNat 64 (getCairn s e.core).ownBits) := by
  refine traps_of hi ?_
  show execCrsv e s = _
  rw [execCrsv, issue_next hi]
  dsimp only
  rw [s_issued hi, if_neg (toNat_ne_zero hn), owningCairn_trap hi hf ho]

theorem creset_unowned (hi : Issues { cls := 8, op := 6 } e s) :
    Traps (.creset e) e s 0x1D (BitVec.ofNat 64 (getCairn s e.core).ownBits) := by
  refine traps_of hi ?_
  show execCreset e s = _
  rw [execCreset, issue_next hi, owningCairn_trap hi hf ho]

end

/-! ### Writes of the Cairn's registers (Tables 5-7, 5-11) -/

theorem writeCr_cairn {s : State} {e : Enc} {word v : W64} {i : Nat} (h : 0x20 ≤ i) (h' : i ≤ 0x26) :
    writeCr s e word i v = writeCairnCr s e i v := by
  interval_cases i <;> rfl

section
variable {e : Enc} {s : State} (hi : Issues { cls := 1, op := 9, ra := true, imm := 0xFF } e s)
  (hlo : 0x20 ≤ e.imm.toNat) (hhi : e.imm.toNat ≤ 0x26)
include hi hlo hhi

theorem exec_wrcr_cairn : exec (.wrcr e) s = .next (writeCairnCr (issued e s) e e.imm.toNat ((e.x s).s e.ra)) :=
  (exec_wrcr hi).trans (congrArg _ (writeCr_cairn hlo hhi))

theorem wrcr_unowned (ho : (getCairn s e.core).owner ≠ some e.ctx) :
    Traps (.wrcr e) e s 0x1D (BitVec.ofNat 64 (getCairn s e.core).ownBits) := by
  refine traps_of hi ((exec_wrcr_cairn hi hlo hhi).trans ?_)
  rw [writeCairnCr, cairn_issued hi]
  exact congrArg _ (if_pos ho)

theorem exec_wrcr_owned (ho : (getCairn s e.core).owner = some e.ctx) (hrw : ¬(e.imm.toNat = 0x24 ∨ e.imm.toNat = 0x25)) :
    exec (.wrcr e) s = .next (
      if (getCairn s e.core).depth ≠ 0 ∨ (getCairn s e.core).moving ∨ !cairnValOk e.imm.toNat ((e.x s).s e.ra) then
        e.trap (issued e s) 0x1E (BitVec.ofNat 64 e.imm.toNat)
      else retire (modCairn (issued e s) e.core fun y => y.put e.imm.toNat ((e.x s).s e.ra)) e.core e.ctx) := by
  rw [exec_wrcr_cairn hi hlo hhi, writeCairnCr, cairn_issued hi]
  exact congrArg _ ((if_neg (not_not.2 ho)).trans (if_neg hrw))

end

/-- Settles O27: the owner's and the other contexts' case of `owningCairn` and of `writeCairnCr`. -/
theorem cairnOwnership : Obligations.CairnOwnership := by
  intro e s x v changed own hf
  refine ⟨fun hi himm => ⟨fun ho => ?_, fun hsome hne => ?_⟩, fun hi himm => ⟨fun ho => ?_, fun ho => ?_⟩,
    fun ho => ⟨cpush_unowned hf ho, cpopv_unowned hf ho, cpop_unowned hf ho, crsv_unowned hf ho, creset_unowned hf ho,
      fun hi hlo hhi => wrcr_unowned hi hlo hhi ho⟩, fun hi ho r hr himm => ?_⟩
  · exact cairnIs_of hi (f := fun x => { x with owner := some e.ctx }) ((exec_cown_claim hi hf himm).trans
      (congrArg _ (if_neg fun h => ho.elim h.1 h.2)))
  · exact traps_of hi ((exec_cown_claim hi hf himm).trans (congrArg _ (if_pos ⟨hsome, hne⟩)))
  · have hx := cairnIs_of hi (exec_cown_release hi hf himm)
    rw [if_pos ho] at hx
    exact hx
  · have hx := cairnIs_of hi (exec_cown_release hi hf himm)
    rw [if_neg ho] at hx
    exact hx
  · have hrow : 0x20 ≤ r.1 ∧ r.1 ≤ 0x26 ∧ ¬(r.1 = 0x24 ∨ r.1 = 0x25) ∧ x.put r.1 v = r.2 := by
      simp only [List.mem_cons, List.not_mem_nil, or_false] at hr
      rcases hr with rfl | rfl | rfl | rfl | rfl <;> exact ⟨by norm_num, by norm_num, by norm_num, rfl⟩
    obtain ⟨hlo, hhi, hrw, hput⟩ := hrow
    have hx := exec_wrcr_owned hi (himm ▸ hlo) (himm ▸ hhi) ho (himm ▸ hrw)
    rw [himm] at hx
    refine ⟨fun hd hm hv => ?_, fun hbad => ?_⟩
    · rw [← hput]
      refine cairnIs_of hi (f := fun y => y.put r.1 v) (hx.trans (congrArg _ (if_neg ?_)))
      rintro (h | h | h)
      · exact h hd
      · exact absurd (hm.symm.trans h) (by decide)
      · exact absurd ((congrArg (fun b => !b) hv).symm.trans h) (by decide)
    · refine traps_of hi (hx.trans (congrArg _ (if_pos ?_)))
      rcases hbad with h | h | h
      · exact .inl h
      · exact .inr (.inl h)
      · exact .inr (.inr (congrArg (fun b => !b) h))

end Sys2Proof.Machine
end

section
/-!
PROOFS. Pushes to the Cairn and pops from it (R130 to R134).
-/

namespace Sys2Proof.Machine

/-! ### What is read of a terrace and written to it -/

section
variable {h : Shape} {e : Enc} {s : State} (hi : Issues h e s)
include hi

theorem tsite_issued (c : Nat) : tsite (issued e s) c = tsite s c := by rw [issued_with hi]; rfl

theorem terrRead_issued (site off n : Nat) : terrRead (issued e s) site off n = terrRead s site off n := by
  rw [terrRead, getSite_issued hi, far_issued hi]; rfl

theorem cairnTop_issued (n : Nat) : cairnTop (issued e s) e.core n = cairnTop s e.core n := by
  unfold cairnTop
  rw [getCairn_issued hi]
  simp only [terrRead_issued hi, tsite_issued hi]

end

theorem terrWrite_stored (s : State) (c site off sp : Nat) (bs : List Byte) :
    StoredAt c s (terrWrite s site off bs) (.terr sp site off) bs := by
  have hsite (n : Nat) : getSite (terrWrite s site off bs) n = if n = site then _ else getSite s n := getSite_modSite ..
  refine ⟨fun n a => ?_, fun n a => ?_, fun _ => rfl⟩
  · rw [hsite]
    split
    next hn => rw [hn]
    · rfl
  · rw [hsite]
    by_cases hn : n = site
    · subst hn
      rw [if_pos rfl]
      simp only [true_and]
      exact mrd_mwrN ..
    · simp only [hn, if_false, false_and]

theorem getCore_terrWrite (s : State) (c site off : Nat) (bs : List Byte) : getCore (terrWrite s site off bs) c =
    { getCore s c with terr := (getCore (terrWrite s site off bs) c).terr
                       terrMarks := (getCore (terrWrite s site off bs) c).terrMarks } := by
  have hsite : getCore (terrWrite s site off bs) c = if csite s c = site then _ else getCore s c := getSite_modSite ..
  by_cases hn : csite s c = site
  · rw [if_pos hn] at hsite
    rw [hsite, ← hn]
    rfl
  · rw [if_neg hn] at hsite
    rw [hsite]

theorem getCtx_terrWrite (s : State) (c k site off : Nat) (bs : List Byte) :
    getCtx (terrWrite s site off bs) c k = getCtx s c k := by rw [getCtx, getCore_terrWrite]; rfl

theorem getCairn_terrWrite (s : State) (c site off : Nat) (bs : List Byte) :
    getCairn (terrWrite s site off bs) c = getCairn s c := by rw [getCairn, getCore_terrWrite]; rfl

/-! ### Content in pieces of one block each -/

theorem blockPieces_one (f : Nat) {p n : Nat} (hn : 0 < n) (h : p % 65536 + n ≤ 65536) : blockPieces (f + 1) p n = [(p, n)] := by
  have hk : min n (cblk - p % cblk) = n := Nat.min_eq_left (by unfold cblk; omega)
  rw [blockPieces, if_neg (by omega)]
  dsimp only
  rw [hk, Nat.sub_self]
  cases f with
  | zero => rfl
  | succ f => rw [blockPieces, if_pos rfl]

theorem sum_blockPieces (f p n : Nat) (h : n + p % 65536 ≤ f * 65536) : ((blockPieces f p n).map (·.2)).sum = n := by
  induction f generalizing p n with
  | zero =>
    obtain rfl : n = 0 := by omega
    rfl
  | succ f ih =>
    rw [blockPieces]
    split
    next hn => exact hn.symm
    next hn =>
      dsimp only
      have hlt : p % 65536 < 65536 := Nat.mod_lt _ (by norm_num)
      have hrest : n - min n (cblk - p % cblk) + (p + min n (cblk - p % cblk)) % 65536 ≤ f * 65536 ∨
          n - min n (cblk - p % cblk) = 0 := by
        unfold cblk
        rcases Nat.le_total n (65536 - p % 65536) with hle | hle
        · rw [Nat.min_eq_left hle]; exact .inr (Nat.sub_self n)
        · rw [Nat.min_eq_right hle]; left; omega
      rw [List.map_cons, List.sum_cons]
      rcases hrest with hr | hr
      · rw [ih _ _ hr]; omega
      · rw [hr]
        cases f with
        | zero => simp only [blockPieces, List.map_nil, List.sum_nil]; omega
        | succ f => rw [blockPieces, if_pos rfl]; simp only [List.map_nil, List.sum_nil]; omega

/-- One piece of a pop is read behind those before it (R131). -/
def popPiece (s : State) (c : Nat) (acc : Except PopStop (List Byte)) (p : Nat × Nat) : Except PopStop (List Byte) :=
  match acc, terrRead s (tsite s c) ((getCairn s c).addr p.1) p.2 with
  | .ok l, .ok bs => .ok (l ++ bs)
  | .ok _, .error (.unc a b d) => .error (.unc a b d)
  | .ok _, .error _ => .error .wait
  | e, _ => e

theorem cairnTop_pieces {s : State} {c n : Nat} {bs : List Byte} (h : cairnTop s c n = .ok bs) :
    (blockPieces (n / cblk + 2) ((getCairn s c).depth - n) n).foldl (popPiece s c) (.ok []) = .ok bs := by
  unfold cairnTop at h
  dsimp only at h
  split at h
  · cases h
  · exact h

theorem popPiece_ok {s : State} {c : Nat} {acc : Except PopStop (List Byte)} {p : Nat × Nat} {bs : List Byte}
    (h : popPiece s c acc p = .ok bs) : ∃ l b, acc = .ok l ∧
      terrRead s (tsite s c) ((getCairn s c).addr p.1) p.2 = .ok b ∧ bs = l ++ b := by
  unfold popPiece at h
  cases acc with
  | error x => cases h
  | ok l =>
    cases hr : terrRead s (tsite s c) ((getCairn s c).addr p.1) p.2 with
    | ok b =>
      rw [hr] at h
      cases h
      exact ⟨l, b, rfl, rfl, rfl⟩
    | error x =>
      rw [hr] at h
      cases x <;> cases h

theorem length_popPieces {s : State} {c : Nat} (ps : List (Nat × Nat)) {acc : Except PopStop (List Byte)} {bs : List Byte}
    (h : ps.foldl (popPiece s c) acc = .ok bs) : ∃ l, acc = .ok l ∧ bs.length = l.length + (ps.map (·.2)).sum := by
  induction ps generalizing acc with
  | nil => exact ⟨bs, h, rfl⟩
  | cons p ps ih =>
    obtain ⟨l', hl', hlen⟩ := ih h
    obtain ⟨l, b, hacc, hr, rfl⟩ := popPiece_ok hl'
    refine ⟨l, hacc, ?_⟩
    rw [hlen, List.length_append, length_of_terrRead hr, List.map_cons, List.sum_cons, Nat.add_assoc]

/-- A pop that delivers delivers all its bytes. -/
theorem length_of_cairnTop {s : State} {c n : Nat} {bs : List Byte} (h : cairnTop s c n = .ok bs) : bs.length = n := by
  obtain ⟨l, hl, hlen⟩ := length_popPieces _ (cairnTop_pieces h)
  cases hl
  rw [hlen, sum_blockPieces]
  · exact Nat.zero_add n
  · have hlt : ((getCairn s c).depth - n) % 65536 < 65536 := Nat.mod_lt _ (by norm_num)
    have hdiv := Nat.div_add_mod n 65536
    have hmod : n % 65536 < 65536 := Nat.mod_lt _ (by norm_num)
    unfold cblk
    omega

/-- A pop that lies in one resident block reads it at the block's place in the region (R131). -/
theorem terrRead_of_cairnTop {s : State} {c m r : Nat} {bs : List Byte} (hm : 0 < m)
    (hfit : ((getCairn s c).depth - m) % 65536 + m ≤ 65536)
    (hr : (getCairn s c).region (((getCairn s c).depth - m) / 65536) = some r) (h : cairnTop s c m = .ok bs) :
    terrRead s (tsite s c) ((getCairn s c).base.toNat + r * 65536 + ((getCairn s c).depth - m) % 65536) m = .ok bs := by
  have hp := cairnTop_pieces h
  rw [blockPieces_one _ hm hfit] at hp
  obtain ⟨l, b, hl, hread, rfl⟩ := popPiece_ok hp
  cases hl
  have haddr : (getCairn s c).addr ((getCairn s c).depth - m) =
      (getCairn s c).base.toNat + r * 65536 + ((getCairn s c).depth - m) % 65536 := by
    unfold Cairn.addr cblk
    rw [hr]
    rfl
  rw [← haddr]
  exact hread

/-! ### CPUSH (R130) -/

/-- Bytes of 64 lanes in the form of a push (Table 5-5). -/
def pushedBytes (f : Nat) (lane : Nat → W32) : List Byte :=
  if f = 0 then (List.range 64).flatMap fun j => leBytes 4 (lane j).toNat
  else (List.range 64).flatMap fun j => leBytes 2 ((if f = 1 then fmtBF16 else fmtFP16).round (ofF32 (lane j)))

/-- Lanes are pushed in their format, without flags. -/
theorem pushBytes_eq {e : Enc} (s : State) (hf : e.imm.toNat ≤ 2) :
    pushBytes s e = (pushedBytes e.imm.toNat fun j => (getCore s e.core).lane e.ra.toNat j, 0) := by
  unfold pushBytes pushedBytes
  dsimp only
  by_cases h0 : e.imm.toNat = 0
  · rw [if_pos h0, if_pos h0, lanesBytes, Site.vreg, List.flatMap_map]
  · have hfmt : (e.imm.toNat, if e.imm.toNat = 1 then fmtBF16 else fmtFP16) = (1, fmtBF16) ∨
        (e.imm.toNat, if e.imm.toNat = 1 then fmtBF16 else fmtFP16) = (2, fmtFP16) := by
      by_cases h1 : e.imm.toNat = 1
      · left; rw [h1]; rfl
      · have h2 : e.imm.toNat = 2 := by omega
        right; rw [h2]; rfl
    rw [if_neg h0, if_neg h0]
    simp only [elem_half hfmt 0 0 0, List.map_map, List.foldl_map, foldl_or_zero]
    refine Prod.ext ?_ rfl
    show List.flatMap (fun x => leBytes 2 x) _ = _
    rw [List.flatMap_map, Site.vreg, List.flatMap_map]
    rfl

theorem length_pushedBytes (f : Nat) (lane : Nat → W32) : (pushedBytes f lane).length = if f = 0 then 256 else 128 := by
  unfold pushedBytes
  split
  · rw [length_flatMap_leBytes, List.length_range]
  · rw [length_flatMap_leBytes, List.length_range]

section
variable {x : Cairn} {n r : Nat} (hn : 0 < n) (hr : x.region (x.depth / 65536) = some r) (hfit : x.depth % 65536 + n ≤ 65536)
include hn hr hfit

/-- A push into the resident block of the top needs no new block. -/
theorem newBlocks_top : x.newBlocks n = [] := by
  have hone : (x.depth + n - 1) / 65536 - x.depth / 65536 + 1 = 1 := by omega
  unfold Cairn.newBlocks unitsOf cblk
  rw [if_neg (by omega), hone]
  simp [hr]

theorem room_top : x.room n = true := by
  rw [Cairn.room, newBlocks_top hn hr hfit]
  simp

end

theorem cairnPush_top {s : State} {c r : Nat} {bs : List Byte} (hn : 0 < bs.length)
    (hr : (getCairn s c).region ((getCairn s c).depth / 65536) = some r)
    (hfit : (getCairn s c).depth % 65536 + bs.length ≤ 65536) :
    cairnPush s c bs = terrWrite (modCairn s c fun _ => { getCairn s c with depth := (getCairn s c).depth + bs.length })
      (tsite s c) ((getCairn s c).base.toNat + r * 65536 + (getCairn s c).depth % 65536) bs := by
  have haddr : (getCairn s c).addr (getCairn s c).depth =
      (getCairn s c).base.toNat + r * 65536 + (getCairn s c).depth % 65536 := by
    unfold Cairn.addr cblk
    rw [hr]
    rfl
  unfold cairnPush
  dsimp only
  rw [newBlocks_top hn hr hfit]
  show (blockPieces (bs.length / cblk + 1 + 1) (getCairn s c).depth bs.length).foldl _ _ = _
  rw [blockPieces_one _ hn hfit, List.foldl_cons, List.foldl_nil, show (getCairn s c).grow [] = getCairn s c from rfl]
  dsimp only
  rw [Nat.sub_self, List.drop_zero, List.take_length]
  exact congrArg (fun o => terrWrite _ (tsite s c) o bs) haddr

section
variable {e : Enc} {s : State} (hi : Issues { cls := 8, op := 2, ra := true, imm := 0x1F } e s) (hf : e.imm.toNat ≤ 2)
  (ho : (getCairn s e.core).owner = some e.ctx) (hfault : (getCairn s e.core).fault = none) (hown : Owns e s [e.ra.toNat])
  (hreg : (getCairn s e.core).regionOk = true) (hdr : cairnDrains (getCore s e.core) e.ctx = false)
  {bs : List Byte} (hbs : bs = pushedBytes e.imm.toNat fun j => (getCore s e.core).lane e.ra.toNat j)
include hi hf ho hfault hown hreg hdr hbs

theorem exec_cpush : exec (.cpush e) s = .next (
    if (getCairn s e.core).spillLim.toNat < (getCairn s e.core).depth + bs.length then
      e.trap (issued e s) 0x1A (BitVec.ofNat 64 ((getCairn s e.core).depth + bs.length))
    else if (getCairn s e.core).room bs.length then
      retire (raiseFlags (cairnPush (issued e s) e.core bs) e.core e.ctx 0) e.core e.ctx
    else block (issued e s) e.core e.ctx true (.op .cpush e)) := by
  have hb : pushBytes (issued e s) e = (bs, 0) := by
    rw [pushBytes_eq _ hf, hbs]
    have hlane : (fun j => (getCore (issued e s) e.core).lane e.ra.toNat j) = fun j => (getCore s e.core).lane e.ra.toNat j := by
      rw [(acted_issued hi).site]; rfl
    rw [hlane]
  have hdr' : cairnDrains (getCore (issued e s) e.core) e.ctx = false := by
    rw [(acted_issued hi).site]; exact hdr
  show execCpush e s = _
  rw [execCpush, issue_next hi, if_neg (by rw [cairnFmt_some hf]; decide), owningCairn_owned hi hfault ho, owning_issued hi hown]
  rw [getCairn_issued hi, hreg, if_neg (by decide), hdr', orWait, attCpush, cairnHeld_issued hi hfault]
  dsimp only
  rw [hdr', if_neg (by decide), getCairn_issued hi, hb]
  by_cases hlim : (getCairn s e.core).spillLim.toNat < (getCairn s e.core).depth + bs.length
  · rw [if_pos hlim, if_pos hlim]
  · rw [if_neg hlim, if_neg hlim]
    by_cases hroom : (getCairn s e.core).room bs.length = true
    · rw [if_pos hroom, if_pos hroom]
    · rw [if_neg hroom, if_neg hroom]
      rfl

/-- A push on top of a resident block: the bytes are stored at its place, and the depth rises. -/
theorem cpush_stores {r : Nat} (hlim : (getCairn s e.core).depth + bs.length ≤ (getCairn s e.core).spillLim.toNat)
    (hr : (getCairn s e.core).region ((getCairn s e.core).depth / 65536) = some r)
    (hfit : (getCairn s e.core).depth % 65536 + bs.length ≤ 65536) :
    ∃ t, exec (.cpush e) s = .next t ∧ StoredAt e.core s t
        (.terr 1 (tsite s e.core) ((getCairn s e.core).base.toNat + r * 65536 + (getCairn s e.core).depth % 65536)) bs ∧
      CtxIs e t { e.x s with pc := (e.x s).pc + 8 } ∧
      getCairn t e.core = { getCairn s e.core with depth := (getCairn s e.core).depth + bs.length } := by
  have hpos : 0 < bs.length := by rw [hbs, length_pushedBytes]; split <;> decide
  have hx := exec_cpush hi hf ho hfault hown hreg hdr hbs
  have hpush := cairnPush_top (s := issued e s) (c := e.core) (r := r) (bs := bs) hpos (by rwa [getCairn_issued hi])
    (by rwa [getCairn_issued hi])
  rw [getCairn_issued hi, tsite_issued hi] at hpush
  rw [if_neg (Nat.not_lt.2 hlim), if_pos (room_top hpos hr hfit), hpush] at hx
  have ha := (acted_issued hi).modCore
    (spares_cairn fun _ => { getCairn s e.core with depth := (getCairn s e.core).depth + bs.length })
  have hmem : SameMemory s (modCairn (issued e s) e.core fun _ =>
    { getCairn s e.core with depth := (getCairn s e.core).depth + bs.length }) := ha.memory
  have hctx : CtxIs e (modCairn (issued e s) e.core fun _ =>
    { getCairn s e.core with depth := (getCairn s e.core).depth + bs.length }) (e.x s) := ha.ctx
  have hcs : csite (modCairn (issued e s) e.core fun _ =>
    { getCairn s e.core with depth := (getCairn s e.core).depth + bs.length }) e.core = csite s e.core := csite_issued hi _
  have hcairn := getCairn_modCairn (issued e s) e.core fun _ =>
    { getCairn s e.core with depth := (getCairn s e.core).depth + bs.length }
  revert hx hmem hctx hcs hcairn
  generalize (modCairn (issued e s) e.core fun _ => _) = u
  intro hx hmem hctx hcs hcairn
  refine ⟨_, hx, ?_, ?_, ?_⟩
  · exact ((hmem.then_stored hcs (terrWrite_stored ..)).trans_same (sameMemory_modCtx ..)).trans_same (sameMemory_modCtx ..)
  · have hst : (e.x u).st = .issuing := (hctx.view (·.st) fun _ _ _ => rfl).trans (issues_st hi)
    have hw : (e.x u).wait = .none := (hctx.view (·.wait) fun _ _ _ => rfl).trans (issues_wait hi)
    have hraise : e.x (raiseFlags (terrWrite u (tsite s e.core) ((getCairn s e.core).base.toNat + r * 65536 +
        (getCairn s e.core).depth % 65536) bs) e.core e.ctx 0) = e.x u := by
      rw [Enc.x, raiseFlags, getCtx_modCtx_same, getCtx_terrWrite]
      exact congrArg (fun f => { getCtx u e.core e.ctx with nflags := f }) BitVec.or_zero
    unfold CtxIs at hctx ⊢
    rw [retire_ctx (hraise ▸ hst) (hraise ▸ hw), hraise, hctx]
  · rw [getCairn_retire, raiseFlags, getCairn_modCtx, getCairn_terrWrite, hcairn]

end

/-! ### Pops (R131, R133) -/

section
variable {h : Shape} {e : Enc} {s : State} (hi : Issues h e s) {n : Nat} (f : List Byte → State → State)
include hi

theorem popThen_underflow (hn : (getCairn s e.core).depth < n) :
    popThen e n (issued e s) f = some (e.trap (issued e s) 0x1B (BitVec.ofNat 64 n)) := by
  rw [popThen, getCairn_issued hi]
  exact if_pos hn

variable (hn : n ≤ (getCairn s e.core).depth)
include hn

theorem popThen_notReserved {b : Nat} (ht : cairnTop s e.core n = .error (.notReserved b)) :
    popThen e n (issued e s) f = some (e.trap (issued e s) 0x1C (BitVec.ofNat 64 b)) := by
  rw [popThen, getCairn_issued hi, cairnTop_issued hi, ht]
  exact if_neg (Nat.not_lt.2 hn)

theorem popThen_wait (ht : cairnTop s e.core n = .error .wait) : popThen e n (issued e s) f = none := by
  rw [popThen, getCairn_issued hi, cairnTop_issued hi, ht]
  exact if_neg (Nat.not_lt.2 hn)

theorem popThen_ok {bs : List Byte} (ht : cairnTop s e.core n = .ok bs) :
    popThen e n (issued e s) f = some (f bs (modCairn (issued e s) e.core fun x => x.drop n)) := by
  rw [popThen, getCairn_issued hi, cairnTop_issued hi, ht]
  exact if_neg (Nat.not_lt.2 hn)

end

theorem startRefill_depth (x : Cairn) : x.startRefill.depth = x.depth := by
  unfold Cairn.startRefill
  split <;> rfl

theorem drop_depth (x : Cairn) (n : Nat) : (x.drop n).depth = x.depth - n := startRefill_depth _

/-- The lane of popped bytes, widened exactly to FP32 (R47). -/
def poppedLane (f : Nat) (bs : List Byte) (j : Nat) : W32 :=
  if f = 0 then BitVec.ofNat 32 (leNat ((bs.drop (4 * j)).take 4))
  else toF32 ((if f = 1 then fmtBF16 else fmtFP16).decode (leNat ((bs.drop (2 * j)).take 2)))

theorem elem_widen {sf : Nat} {f : Fmt} (hf : (sf, f) = (1, fmtBF16) ∨ (sf, f) = (2, fmtFP16)) {b : Nat} (hb : b < 65536) :
    BitVec.ofNat 32 (Conv.elem { sfmt := sf, dfmt := 0 } 0 0 b).1 = toF32 (f.decode b) := by
  have hmod : b % 2 ^ 16 = b := Nat.mod_eq_of_lt hb
  rcases hf with h | h <;> cases h
  · show toF32 (fmtBF16.decode (b % 2 ^ 16)) = _
    rw [hmod]
  · show toF32 (fmtFP16.decode (b % 2 ^ 16)) = _
    rw [hmod]

theorem poppedLanes_eq {f : Nat} {bs : List Byte} (hf : f ≤ 2) (hlen : bs.length = if f = 0 then 256 else 128) :
    poppedLanes f bs = (List.range 64).map (poppedLane f bs) := by
  unfold poppedLanes poppedLane
  by_cases h0 : f = 0
  · rw [if_pos h0] at hlen
    simp only [if_pos h0]
    exact lanesOf_eq hlen
  · rw [if_neg h0] at hlen
    simp only [if_neg h0]
    have hfmt : (f, if f = 1 then fmtBF16 else fmtFP16) = (1, fmtBF16) ∨ (f, if f = 1 then fmtBF16 else fmtFP16) = (2, fmtFP16) := by
      by_cases h1 : f = 1
      · left; rw [h1]; rfl
      · have h2 : f = 2 := by omega
        right; rw [h2]; rfl
    show List.map _ (chunks 2 (bs.length / 2) bs) = _
    rw [hlen, chunks_eq, List.map_map]
    refine List.map_congr_left fun j _ => elem_widen hfmt ?_
    have hlen2 : ((bs.drop (2 * j)).take 2).length ≤ 2 := List.length_take_le ..
    exact lt_of_lt_of_le (leNat_lt _) (Nat.pow_le_pow_right (n := 2) (i := _) (j := 16) (by norm_num) (by omega))

theorem Acted.modCairn {e : Enc} {s t : State} {x : Ctx} {y : Site} (ha : Acted e s t x y) (f : Cairn → Cairn) :
    Acted e s (Machine.modCairn t e.core f) x { y with cairn := f y.cairn } := ha.modCore (spares_cairn f)

theorem acted_wrV {h : Shape} {e : Enc} {s u : State} {y : Site} (hi : Issues h e s) (ls : List W32) (ha : Acted e s u (e.x s) y) :
    Acted e s (wrV e u ls) { e.x s with pc := (e.x s).pc + 8 } (y.setVreg e.rd.toNat ls) :=
  (ha.modCore (spares_setVreg e.rd.toNat ls)).retire (issues_st hi) (issues_wait hi)

/-- The Cairn changes and a register's lanes are written. -/
theorem wrV_after_cairn {h : Shape} {e : Enc} {s : State} (hi : Issues h e s) (f : Cairn → Cairn) (ls : List W32) :
    OnlySite e.core s (wrV e (modCairn (issued e s) e.core f) ls) ∧
    SameMemory s (wrV e (modCairn (issued e s) e.core f) ls) ∧
    CtxIs e (wrV e (modCairn (issued e s) e.core f) ls) { e.x s with pc := (e.x s).pc + 8 } ∧
    (getCairn (wrV e (modCairn (issued e s) e.core f) ls) e.core).depth = (f (getCairn s e.core)).depth ∧
    ∀ r j, (getCore (wrV e (modCairn (issued e s) e.core f) ls) e.core).lane r j =
      ((getCore s e.core).setVreg e.rd.toNat ls).lane r j := by
  obtain ⟨honly, hmem, hctx, -, hsite⟩ := acted_wrV hi ls ((acted_issued hi).modCairn f)
  generalize wrV e (modCairn (issued e s) e.core f) ls = t at *
  refine ⟨honly, hmem, hctx, ?_, fun r j => ?_⟩
  · exact congrArg (fun y => y.cairn.depth) hsite
  · exact congrArg (fun y => y.lane r j) hsite

section
variable {e : Enc} {s : State} (hi : Issues { cls := 8, op := 3, rd := true, imm := 0x1F } e s) (hf : e.imm.toNat ≤ 2)
  (ho : (getCairn s e.core).owner = some e.ctx) (hfault : (getCairn s e.core).fault = none) (hown : Owns e s [e.rd.toNat])
  (hreg : (getCairn s e.core).regionOk = true)
include hi hf ho hfault hown hreg

theorem exec_cpopv : exec (.cpopv e) s = .next (((popThen e (if e.imm.toNat = 0 then 256 else 128) (issued e s)
    fun bs s => wrV e s (poppedLanes e.imm.toNat bs))).getD (block (issued e s) e.core e.ctx true (.op .cpopv e))) := by
  have hfmt : (cairnFmt e.imm.toNat).getD 0 = if e.imm.toNat = 0 then 256 else 128 := by
    unfold cairnFmt
    by_cases h0 : e.imm.toNat = 0
    · rw [if_pos h0, if_pos h0]; rfl
    · rw [if_neg h0, if_neg h0, if_pos (by omega)]; rfl
  show execCpopv e s = _
  rw [execCpopv, issue_next hi, if_neg (by rw [cairnFmt_some hf]; decide), owningCairn_owned hi hfault ho, owning_issued hi hown,
    getCairn_issued hi, hreg, if_neg (by decide), orWait, attCpopv, cairnHeld_issued hi hfault]
  dsimp only
  rw [hfmt]
  cases popThen e (if e.imm.toNat = 0 then 256 else 128) (issued e s) _ <;> rfl

theorem cpopv_takes {bs : List Byte} (hn : (if e.imm.toNat = 0 then 256 else 128) ≤ (getCairn s e.core).depth)
    (ht : cairnTop s e.core (if e.imm.toNat = 0 then 256 else 128) = .ok bs) :
    ∃ t, exec (.cpopv e) s = .next t ∧ OnlySite e.core s t ∧ SameMemory s t ∧ CtxIs e t { e.x s with pc := (e.x s).pc + 8 } ∧
      (getCairn t e.core).depth = (getCairn s e.core).depth - (if e.imm.toNat = 0 then 256 else 128) ∧
      ∀ r j, r < 32 → j < 64 → (getCore t e.core).lane r j =
        if r = e.rd.toNat then poppedLane e.imm.toNat bs j else (getCore s e.core).lane r j := by
  have hx := exec_cpopv hi hf ho hfault hown hreg
  rw [popThen_ok hi _ hn ht, Option.getD_some, poppedLanes_eq hf (length_of_cairnTop ht)] at hx
  obtain ⟨honly, hmem, hctx, hdepth, hlane⟩ := wrV_after_cairn hi (fun x => x.drop (if e.imm.toNat = 0 then 256 else 128))
    ((List.range 64).map (poppedLane e.imm.toNat bs))
  rw [drop_depth] at hdepth
  refine ⟨_, hx, honly, hmem, hctx, hdepth, fun r j _ hj => ?_⟩
  rw [hlane, lane_setVreg_range _ _ _ r hj]

end

theorem getCairn_localWrite (s : State) (c unit : Nat) (a : W64) (x : Spot) (bs : List Byte) :
    getCairn (localWrite s c unit a x bs) c = getCairn s c := by
  rw [getCairn, getCore_localWrite, put_eq]; rfl

/-- A context that goes on after a counted write at its own site. -/
theorem ctxIs_stored_after {h : Shape} {e : Enc} {s u : State} (hi : Issues h e s) (hctx : CtxIs e u (e.x s)) (unit : Nat) (a : W64)
    (x : Spot) (bs : List Byte) :
    CtxIs e (retire (localWrite u e.core unit a x bs) e.core e.ctx) { e.x s with pc := (e.x s).pc + 8 } := by
  have hwrite : CtxIs e (localWrite u e.core unit a x bs) (e.x s) := by
    unfold CtxIs Enc.x at hctx ⊢
    rw [getCtx_localWrite, ← hctx]
  have hst : (e.x (localWrite u e.core unit a x bs)).st = .issuing := (hwrite.view (·.st) fun _ _ _ => rfl).trans (issues_st hi)
  have hw : (e.x (localWrite u e.core unit a x bs)).wait = .none := (hwrite.view (·.wait) fun _ _ _ => rfl).trans (issues_wait hi)
  unfold CtxIs at hwrite ⊢
  rw [retire_ctx hst hw, hwrite]

/-- An address at the bottom of near memory is the offset. -/
theorem spotOf_near_low {s : State} {c : Nat} {a : W64} {n : Nat} (h : a.toNat + n ≤ 2097152) :
    spotOf s c spNear a n = some (.near a.toNat) := by
  have hmod : a.toNat % 2 ^ 60 = a.toNat := Nat.mod_eq_of_lt (by omega)
  rw [spotOf_spNear, hmod, if_pos ⟨Nat.div_eq_of_lt (by omega), h⟩]

section
variable {e : Enc} {s : State} (hi : Issues { cls := 8, op := 4, ra := true, rb := true, aA := true } e s)
  (hk : 64 * ((e.x s).s e.rb).toNat ≠ 0) (ho : (getCairn s e.core).owner = some e.ctx) (hfault : (getCairn s e.core).fault = none)
  (hreg : (getCairn s e.core).regionOk = true) (hd : 64 * ((e.x s).s e.rb).toNat ≤ (getCairn s e.core).depth)
  (hal : ((e.x s).a e.ra).toNat % 64 = 0)
  (hspot : spotOf s e.core spNear ((e.x s).a e.ra) (64 * ((e.x s).s e.rb).toNat) = some (.near ((e.x s).a e.ra).toNat)) {bs : List Byte}
  (ht : cairnTop s e.core (64 * ((e.x s).s e.rb).toNat) = .ok bs)
include hi hk ho hfault hreg hd hal hspot ht

theorem exec_cpop : exec (.cpop e) s = .next (retire (localWrite (modCairn (issued e s) e.core fun x =>
    x.drop (64 * ((e.x s).s e.rb).toNat)) e.core 7 ((e.x s).a e.ra) (.near ((e.x s).a e.ra).toNat) bs) e.core e.ctx) := by
  have hwrite := engWrite_local (s := modCairn (issued e s) e.core fun x => x.drop (64 * ((e.x s).s e.rb).toNat)) (c := e.core)
    (unit := 7) (sp := spNear) (a := (e.x s).a e.ra) (bs := bs) (x := .near ((e.x s).a e.ra).toNat)
    (by rw [length_of_cairnTop ht]; exact (spotOf_issued hi ..).trans hspot) rfl
  show execCpop e s = _
  rw [execCpop, issue_next hi]
  dsimp only
  rw [s_issued hi, a_issued hi, if_neg (by omega), owningCairn_owned hi hfault ho, getCairn_issued hi, hreg, if_neg (by decide),
    if_neg (Nat.not_lt.2 hd), if_neg (not_not.2 hal), spotOf_issued hi, hspot, if_neg (by simp), orWait, attCpop,
    cairnHeld_issued hi hfault]
  dsimp only
  rw [s_issued hi, a_issued hi, popThen_ok hi _ hd ht]
  dsimp only
  rw [hwrite]

theorem cpop_stores : ∃ t, exec (.cpop e) s = .next t ∧ StoredAt e.core s t (.near ((e.x s).a e.ra).toNat) bs ∧
    CtxIs e t { e.x s with pc := (e.x s).pc + 8 } ∧
    (getCairn t e.core).depth = (getCairn s e.core).depth - 64 * ((e.x s).s e.rb).toNat := by
  have hx := exec_cpop hi hk ho hfault hreg hd hal hspot ht
  have ha := (acted_issued hi).modCore (spares_cairn fun x => x.drop (64 * ((e.x s).s e.rb).toNat))
  have hmem : SameMemory s (modCairn (issued e s) e.core fun x => x.drop (64 * ((e.x s).s e.rb).toNat)) := ha.memory
  have hctx : CtxIs e (modCairn (issued e s) e.core fun x => x.drop (64 * ((e.x s).s e.rb).toNat)) (e.x s) := ha.ctx
  have hcs : csite (modCairn (issued e s) e.core fun x => x.drop (64 * ((e.x s).s e.rb).toNat)) e.core = csite s e.core :=
    csite_issued hi _
  have hdepth : (getCairn (modCairn (issued e s) e.core fun x => x.drop (64 * ((e.x s).s e.rb).toNat)) e.core).depth =
      (getCairn s e.core).depth - 64 * ((e.x s).s e.rb).toNat := by
    rw [getCairn_modCairn, drop_depth, getCairn_issued hi]
  revert hx hmem hctx hcs hdepth
  generalize (modCairn (issued e s) e.core fun _ => _) = u
  intro hx hmem hctx hcs hdepth
  refine ⟨_, hx, (hmem.then_stored hcs (localWrite_stored rfl)).trans_same (sameMemory_modCtx ..), ?_, ?_⟩
  · exact ctxIs_stored_after hi hctx ..
  · rw [getCairn_retire, getCairn_localWrite, hdepth]

end

/-- Settles O28: the branches of `exec_cpush` and `exec_cpopv`, `cpop_stores`, and the one piece of a pop within a block. -/
theorem cairnPushesAndPops : Obligations.CairnPushesAndPops := by
  refine ⟨fun e s => ?_, fun e s bs b => ?_⟩
  · intro x lane f bs hi hf ho hfault hown hreg hdr
    have hx := exec_cpush hi hf ho hfault hown hreg hdr (bs := bs) rfl
    refine ⟨fun r hlim hr hfit => cpush_stores hi hf ho hfault hown hreg hdr rfl hlim hr hfit, fun hlim => ?_, fun hlim hroom => ?_⟩
    · rw [if_pos hlim] at hx
      exact traps_of hi hx
    · rw [if_neg (Nat.not_lt.2 hlim), if_neg (by rw [hroom]; decide)] at hx
      exact waits_of_issued hi hx
  · intro x f n a k
    refine ⟨fun hi hf ho hfault hown hreg => ?_, fun hi hk ho hfault hreg hd hal hend ht =>
      cpop_stores hi hk ho hfault hreg hd hal (spotOf_near_low hend) ht,
      fun m r hm hle hfit hr ht => terrRead_of_cairnTop hm hfit hr ht⟩
    have hx := exec_cpopv hi hf ho hfault hown hreg
    refine ⟨fun hlt => ?_, fun hle hbad => ?_, fun hle hwait => ?_, fun hle ht => cpopv_takes hi hf ho hfault hown hreg hle ht⟩
    · rw [popThen_underflow hi _ hlt] at hx
      exact traps_of hi hx
    · rw [popThen_notReserved hi _ hle hbad] at hx
      exact traps_of hi hx
    · rw [popThen_wait hi _ hle hwait] at hx
      exact waits_of_issued hi hx

end Sys2Proof.Machine
end

section
/-!
PROOFS. Blocks of the Cairn: reservations, the reset, spills and refills (R132, R133, R136).
-/

namespace Sys2Proof.Machine

/-! ### CRSV and CRESET -/

theorem startRefill_of_running {x : Cairn} (h : x.refilling.isSome = true) : x.startRefill = x := by
  unfold Cairn.startRefill
  split
  next hn _ _ => rw [hn] at h; cases h
  · rfl

theorem startRefill_starts {x : Cairn} {b r : Nat} (hn : x.refilling = none) (hq : x.refillQ.getLast? = some b)
    (hp : x.pick = some r) :
    x.startRefill = { x with refilling := some (b, r), refillQ := ndel x.refillQ b, spilled := ndel x.spilled b } := by
  unfold Cairn.startRefill
  rw [hn, hq, hp]

section
variable {e : Enc} {s : State} (ho : (getCairn s e.core).owner = some e.ctx) (hfault : (getCairn s e.core).fault = none)
include ho hfault

theorem exec_crsv (hi : Issues { cls := 8, op := 5, ra := true } e s) (hn : ((e.x s).s e.ra).toNat ≠ 0) : exec (.crsv e) s =
    .next (retire (modCairn (issued e s) e.core fun x => x.reserve ((e.x s).s e.ra).toNat) e.core e.ctx) := by
  show execCrsv e s = _
  rw [execCrsv, issue_next hi]
  dsimp only
  rw [s_issued hi, if_neg hn, owningCairn_owned hi hfault ho]

theorem exec_creset (hi : Issues { cls := 8, op := 6 } e s) : exec (.creset e) s = .next (
    if (getCairn s e.core).moving then
      block (modCairn (issued e s) e.core fun x => { x with refillQ := [] }) e.core e.ctx true (.op .creset e)
    else retire (modCairn (modCairn (issued e s) e.core fun x => { x with refillQ := [] }) e.core fun x =>
      { x with depth := 0, resident := [], spilled := [], refillQ := [] }) e.core e.ctx) := by
  have hcairn : getCairn (modCairn (issued e s) e.core fun x => { x with refillQ := [] }) e.core =
      { getCairn s e.core with refillQ := [] } := by rw [getCairn_modCairn, getCairn_issued hi]
  have hheld : cairnHeld e (modCairn (issued e s) e.core fun x => { x with refillQ := [] }) = none := by
    rw [cairnHeld, hcairn, show Cairn.fault { getCairn s e.core with refillQ := [] } = none from hfault]
  have hmoving : (getCairn (modCairn (issued e s) e.core fun x => { x with refillQ := [] }) e.core).moving =
      (getCairn s e.core).moving := by rw [hcairn]; rfl
  show execCreset e s = _
  rw [execCreset, issue_next hi, owningCairn_owned hi hfault ho, orWait, attCreset, hheld]
  dsimp only
  rw [hmoving]
  by_cases hm : (getCairn s e.core).moving = true
  · rw [if_pos hm, if_pos hm]
  · rw [if_neg hm, if_neg hm]

end

theorem getCairn_block (s : State) (c k : Nat) (w : Wait) : getCairn (block s c k true w) c = getCairn s c := by
  rw [block, if_pos rfl, getCairn_modCtx, getCairn, giveUp, getCore_modCore_same]
  split <;> rfl

/-! ### Spills and refills -/

theorem OnlyMemories.getCairn {s t : State} (h : OnlyMemories s t) (c : Nat) : Machine.getCairn t c = Machine.getCairn s c := by
  rw [Machine.getCairn, h.getCore c]; rfl

theorem OnlyMemories.popReaches {s t : State} (h : OnlyMemories s t) (c b : Nat) :
    Machine.popReaches t c b = Machine.popReaches s c b := by
  unfold Machine.popReaches
  rw [h.getCairn c]
  simp only [h.getCtx c]

theorem exec_cairnSpillStart {c : Nat} {s : State} {b r : Nat} (hcr : coreRuns s c = true)
    (hnext : (getCairn s c).nextSpill = some (b, r)) (hidle : (getCairn s c).spilling = none)
    (hfree : (getCairn s c).free < (getCairn s c).ahead.toNat) (hreg : (getCairn s c).regionOk = true) :
    exec (.cairnSpillStart c) s =
      .next (modCairn s c fun x => { x with spilling := some (b, r), resident := sdel x.resident b }) := by
  show execCairnSpillStart c s = _
  rw [execCairnSpillStart, hnext]
  dsimp only
  rw [hcr, hidle, hreg, if_neg (by simpa using hfree)]
  rfl

theorem exec_cairnSpillComplete {c : Nat} {s v : State} {b r : Nat} {bs : List Byte} {sp : Spot} (hcr : coreRuns s c = true)
    (hrun : (getCairn s c).spilling = some (b, r)) (hfault : (getCairn s c).spillFault = none)
    (hread : terrRead s (tsite s c) ((getCairn s c).base.toNat + r * cblk) cblk = .ok bs)
    (hspot : spotOf s c ⟨false, false, false, true⟩ ((getCairn s c).farAddr b) cblk = some sp)
    (hwrite : spotWrite s c sp bs = .ok v) : exec (.cairnSpillComplete c) s = .next (wake (modCairn v c fun x =>
      if Machine.popReaches v c b then { x with spilling := none, resident := sput x.resident b r }
      else ({ x with spilling := none, spilled := nins x.spilled b } : Cairn).startRefill) c) := by
  show execCairnSpillComplete c s = _
  rw [execCairnSpillComplete]
  dsimp only
  rw [hrun]
  dsimp only
  rw [hcr, hfault, if_neg (by decide), hread]
  dsimp only
  rw [hspot]
  dsimp only
  rw [hwrite]
  rfl

theorem exec_cairnRefillComplete {c : Nat} {s : State} {b r : Nat} {bs : List Byte} {sp : Spot} (hcr : coreRuns s c = true)
    (hrun : (getCairn s c).refilling = some (b, r)) (hfault : (getCairn s c).refillFault = none)
    (hspot : spotOf s c ⟨false, false, false, true⟩ ((getCairn s c).farAddr b) cblk = some sp)
    (hread : spotRead s c sp cblk = .ok bs) : exec (.cairnRefillComplete c) s = .next (wake (modCairn
      (terrWrite (engSeen s c ((getCairn s c).farAddr b) cblk) (tsite (engSeen s c ((getCairn s c).farAddr b) cblk) c)
        ((getCairn s c).base.toNat + r * cblk) bs) c fun x =>
      ({ x with refilling := none, resident := sput x.resident b r } : Cairn).startRefill) c) := by
  show execCairnRefillComplete c s = _
  rw [execCairnRefillComplete]
  dsimp only
  rw [hrun]
  dsimp only
  rw [hcr, hfault, if_neg (by decide), hspot]
  dsimp only
  rw [hread]
  rfl

theorem OnlyCaches.placed {s t : State} (h : OnlyCaches s t) (c : Nat) : csite t c = csite s c ∧ tsite t c = tsite s c := by
  obtain ⟨p, q, rfl⟩ := h
  exact ⟨rfl, rfl⟩

/-- The refilled block is stored at its region block. -/
theorem refill_stores {c : Nat} {s : State} {b r : Nat} {bs : List Byte} {sp : Spot} (hcr : coreRuns s c = true)
    (hrun : (getCairn s c).refilling = some (b, r)) (hfault : (getCairn s c).refillFault = none)
    (hspot : spotOf s c ⟨false, false, false, true⟩ ((getCairn s c).farAddr b) cblk = some sp)
    (hread : spotRead s c sp cblk = .ok bs) : ∃ t, exec (.cairnRefillComplete c) s = .next (wake t c) ∧
      StoredAt c s t (.terr 1 (tsite s c) ((getCairn s c).base.toNat + r * cblk)) bs ∧
      getCairn t c = ({ getCairn s c with refilling := none, resident := sput (getCairn s c).resident b r } : Cairn).startRefill := by
  have hx := exec_cairnRefillComplete hcr hrun hfault hspot hread
  have hseen := onlyCaches_engSeen s c ((getCairn s c).farAddr b) cblk
  obtain ⟨hcs, hts⟩ := hseen.placed c
  have hmem := hseen.memory
  have hcairn : getCairn (engSeen s c ((getCairn s c).farAddr b) cblk) c = getCairn s c := congrArg Site.cairn (hseen.getCore c)
  rw [hts] at hx
  generalize engSeen s c ((getCairn s c).farAddr b) cblk = u at *
  refine ⟨_, hx, ?_, ?_⟩
  · exact (hmem.then_stored hcs (terrWrite_stored ..)).trans_same (sameMemory_modCore _ _ fun _ => ⟨rfl, rfl⟩)
  · rw [getCairn_modCairn, getCairn_terrWrite, hcairn]

/-- Settles O29: `exec_crsv`, `exec_creset`, and the three moves of blocks. -/
theorem cairnBlocksMove : Obligations.CairnBlocksMove := by
  refine ⟨fun e s => ?_, fun c s b r bs sp => ?_⟩
  · intro x n q ho hfault
    refine ⟨fun hi hn => ?_, fun hi => ⟨fun hm => ?_, fun hm => ?_⟩⟩
    · obtain ⟨t, hx, honly, hmem, hctx, -, hcairn⟩ := cairnIs_of hi (f := fun x => x.reserve n) (exec_crsv ho hfault hi hn)
      refine ⟨t, hx, honly, hmem, hctx, fun hrun => ?_, fun b r hnone hlast hpick => ?_⟩
      · exact hcairn.trans (startRefill_of_running hrun)
      · exact hcairn.trans (startRefill_starts hnone hlast hpick)
    · have hx := exec_creset ho hfault hi
      rw [if_neg (by rw [hm]; decide)] at hx
      have ha := (((acted_issued hi).modCairn fun x => { x with refillQ := [] }).modCairn fun x =>
        { x with depth := 0, resident := [], spilled := [], refillQ := [] }).retire (issues_st hi) (issues_wait hi)
      exact ⟨_, hx, ha.only, ha.memory, ha.ctx, congrArg Site.cairn ha.site⟩
    · have hx := exec_creset ho hfault hi
      rw [if_pos hm] at hx
      have ha := (acted_issued hi).modCairn fun x => { x with refillQ := [] }
      refine ⟨waits_of_switch ha.memory ha.ctx hx, _, hx, ?_⟩
      rw [getCairn_block]
      exact congrArg Site.cairn ha.site
  · intro x far off hcr
    refine ⟨fun hnext hidle hfree hreg => ?_, fun v hrun hfault hread hspot hwrite => ?_, fun hrun hfault hspot hread =>
      refill_stores hcr hrun hfault hspot hread⟩
    · exact ⟨_, exec_cairnSpillStart hcr hnext hidle hfree hreg, sameMemory_modCore _ _ fun _ => ⟨rfl, rfl⟩, getCairn_modCairn ..⟩
    · have hx := exec_cairnSpillComplete hcr hrun hfault hread hspot hwrite
      have hv := onlyMemories_spotWrite hwrite
      rw [hv.popReaches] at hx
      refine ⟨_, hx, sameMemory_modCore _ _ fun _ => ⟨rfl, rfl⟩, fun hno => ?_, fun hyes => ?_⟩
      · rw [getCairn_modCairn, hv.getCairn, if_neg (by rw [hno]; decide)]
      · rw [getCairn_modCairn, hv.getCairn, if_pos hyes]

end Sys2Proof.Machine
end

section
/-!
PROOFS. The weight-gradient accumulator: additions, reads, zeroing and the flush queue (R137 to R141).
-/

namespace Sys2Proof.Machine

/-! ### Elements -/

theorem el_addAt (es : List W96) (w : Wga) (i n : Nat) :
    (w.addAt i es).el n = w.el n + (if i ≤ n ∧ n < i + es.length then es.getD (n - i) 0 else 0) := by
  induction es generalizing w i with
  | nil => rw [if_neg (by simp)]; exact (BitVec.add_zero _).symm
  | cons v es ih =>
    have hel : Wga.el { w with elems := smod 0 w.elems i (· + v) } n = if n = i then w.el i + v else w.el n :=
      sget_smod 0 w.elems i n (· + v)
    rw [Wga.addAt, ih, hel, List.length_cons]
    by_cases hin : n = i
    · subst hin
      rw [if_pos rfl, if_neg (by omega), if_pos (by omega), Nat.sub_self]
      exact BitVec.add_zero _
    · rw [if_neg hin]
      refine congrArg (w.el n + ·) ?_
      by_cases hlt : i + 1 ≤ n ∧ n < i + 1 + es.length
      · have hsub : n - i = n - (i + 1) + 1 := by omega
        rw [if_pos hlt, if_pos (by omega), hsub]
        rfl
      · rw [if_neg hlt, if_neg (by omega)]

theorem addAt_fields (es : List W96) (w : Wga) (i : Nat) : w.addAt i es = { w with elems := (w.addAt i es).elems } := by
  induction es generalizing w i with
  | nil => rfl
  | cons v es ih => rw [Wga.addAt, ih]

theorem el_clear (w : Wga) (i n k : Nat) : (w.clear i n).el k = if i ≤ k ∧ k < i + n then 0 else w.el k := by
  refine (sget_filter 0 (fun k => decide (k < i) || decide (i + n ≤ k)) w.elems k).trans ?_
  by_cases h : i ≤ k ∧ k < i + n
  · rw [if_pos h, if_neg (by simp; omega)]
  · rw [if_neg h, if_pos (by simp; omega)]; rfl

/-! ### The unit's part of the site -/

theorem spares_wga (f : Wga → Wga) : SparesContexts fun x => { x with wga := f x.wga } :=
  ⟨fun _ _ => rfl, fun _ => ⟨rfl, rfl⟩⟩

theorem Acted.modWga {e : Enc} {s t : State} {x : Ctx} {y : Site} (ha : Acted e s t x y) (f : Wga → Wga) :
    Acted e s (Machine.modWga t e.core f) x { y with wga := f y.wga } := ha.modCore (spares_wga f)

theorem getWga_modWga (s : State) (c : Nat) (f : Wga → Wga) : getWga (modWga s c f) c = f (getWga s c) := by
  rw [getWga, modWga, getCore_modCore_same]; rfl

theorem getWga_modCtx (s : State) (c k : Nat) (f : Ctx → Ctx) : getWga (modCtx s c k f) c = getWga s c := by
  rw [getWga, modCtx, getCore_modCore_same]; rfl

theorem getWga_block (s : State) (c k : Nat) (w : Wait) : getWga (block s c k true w) c = getWga s c := by
  rw [block, if_pos rfl, getWga_modCtx, getWga, giveUp, getCore_modCore_same]
  split <;> rfl

theorem sameMemory_modWga (s : State) (c : Nat) (f : Wga → Wga) : SameMemory s (modWga s c f) :=
  sameMemory_modCore s c fun _ => ⟨rfl, rfl⟩

/-! ### WADDV and WRDV (R138) -/

section
variable {e : Enc} {s : State} (hfault : (getCairn s e.core).fault = none)
include hfault

section
variable (hi : Issues { cls := 8, op := 0x12, ra := true, rb := true } e s) (h29 : e.ra.toNat ≤ 29) (ho : Owns e s (tripleRegs e.ra))
include hi h29 ho

theorem exec_waddv : exec (.waddv e) s = .next (
    if (getCore s e.core).vtag e.ra.toNat ≠ (getWga s e.core).datum then e.trap (issued e s) 0x18
      (BitVec.ofNat 64 (((getCore s e.core).vtag e.ra.toNat).toNat * 65536 + (getWga s e.core).datum.toNat))
    else if wgaSize < ((e.x s).s e.rb).toNat + 64 then e.trap (issued e s) 0x19 (BitVec.ofNat 64 (firstBeyond ((e.x s).s e.rb).toNat))
    else retire (modWga (issued e s) e.core fun w => w.addAt ((e.x s).s e.rb).toNat ((getCore s e.core).triple e.ra.toNat))
      e.core e.ctx) := by
  show execWaddv e s = _
  rw [execWaddv, issue_next hi, cairnClass_issued hi hfault, tripleOk, decide_eq_true h29, if_neg (by decide), owning_issued hi ho]
  dsimp only
  rw [vtag_issued hi, triple_issued hi, wga_issued hi, s_issued hi]
  rfl

theorem waddv_adds (ht : (getCore s e.core).vtag e.ra.toNat = (getWga s e.core).datum)
    (hle : ((e.x s).s e.rb).toNat + 64 ≤ wgaSize) :
    ∃ t, exec (.waddv e) s = .next t ∧ OnlySite e.core s t ∧ SameMemory s t ∧ CtxIs e t { e.x s with pc := (e.x s).pc + 8 } ∧
      getWga t e.core = (getWga s e.core).addAt ((e.x s).s e.rb).toNat ((getCore s e.core).triple e.ra.toNat) := by
  have hx := exec_waddv hfault hi h29 ho
  rw [if_neg (not_not.2 ht), if_neg (Nat.not_lt.2 hle)] at hx
  generalize (getCore s e.core).triple e.ra.toNat = es at hx ⊢
  have ha := ((acted_issued hi).modWga fun w => w.addAt ((e.x s).s e.rb).toNat es).retire (issues_st hi) (issues_wait hi)
  generalize retire (modWga (issued e s) e.core _) e.core e.ctx = t at hx ha
  exact ⟨t, hx, ha.only, ha.memory, ha.ctx, congrArg Site.wga ha.site⟩

end

theorem exec_wrdv (hi : Issues { cls := 8, op := 0x13, rd := true, ra := true } e s) (h29 : e.rd.toNat ≤ 29)
    (ho : Owns e s (tripleRegs e.rd)) : exec (.wrdv e) s = .next (
      if wgaSize < ((e.x s).s e.ra).toNat + 64 then e.trap (issued e s) 0x19 (BitVec.ofNat 64 (firstBeyond ((e.x s).s e.ra).toNat))
      else wrT e (issued e s) ((getWga s e.core).els ((e.x s).s e.ra).toNat 64) (getWga s e.core).datum) := by
  show execWrdv e s = _
  rw [execWrdv, issue_next hi, cairnClass_issued hi hfault, tripleOk, decide_eq_true h29, if_neg (by decide), owning_issued hi ho]
  dsimp only
  rw [getWga, wga_issued hi, s_issued hi]
  rfl

/-! ### WINIT (R140) -/

omit hfault in
theorem wgaLaunch_issued {h : Shape} (hi : Issues h e s) : wgaLaunch (getCore (issued e s) e.core) = wgaLaunch (getCore s e.core) := by
  have hk (k : Nat) : ((getCore (issued e s) e.core).ctx k).uwga = ((getCore s e.core).ctx k).uwga ∧
      ((getCore (issued e s) e.core).ctx k).ustat = ((getCore s e.core).ctx k).ustat := by
    by_cases hk : k = e.ctx
    · rw [hk]
      exact ⟨(issued_ctx hi).view (·.uwga) fun _ _ _ => rfl, (issued_ctx hi).view (·.ustat) fun _ _ _ => rfl⟩
    · rw [ctx_issued_ne hi hk]
      exact ⟨rfl, rfl⟩
  have hl : (getCore (issued e s) e.core).launches = (getCore s e.core).launches := by rw [(acted_issued hi).site]
  unfold wgaLaunch
  rw [hl]
  simp only [hk]

/-- What of the WGA or its users keeps a WINIT waiting. -/
def wgaInUse (y : Site) : Bool :=
  y.tiles.drains.any wgaDrain || decide (y.wga.flushes ≠ []) || y.wga.zeroing.isSome || wgaLaunch y

theorem exec_winit (hi : Issues { cls := 8, op := 0x10, imm := 0x3FF } e s) : exec (.winit e) s = .next (
    if wgaInUse (getCore s e.core) then block (issued e s) e.core e.ctx true (.op .winit e)
    else block (modWga (issued e s) e.core fun w => { w with datum := e.imm.extractLsb' 0 10, zeroing := some e.ctx })
      e.core e.ctx true .zeroing) := by
  show execWinit e s = _
  rw [execWinit, issue_next hi, orWait, attWinit, cairnHeld_issued hi hfault]
  dsimp only
  rw [tiles_issued hi, wga_issued hi, wgaLaunch_issued hi, ← wgaInUse]
  by_cases hu : wgaInUse (getCore s e.core) = true
  · rw [if_pos hu, if_pos hu]
  · rw [if_neg hu, if_neg hu]

/-! ### The flush queue (R141) -/

/-- A job in the queue, with its place among the core's work. -/
def Site.withFlush (y : Site) (j : FlushJob) : Site :=
  { y with
    wga := { y.wga with flushes := y.wga.flushes ++ [{ j with sn := y.tiles.nextSn }] }
    tiles := { y.tiles with nextSn := y.tiles.nextSn + 1 } }

omit hfault in
theorem spares_withFlush (j : FlushJob) : SparesContexts fun y => y.withFlush j := ⟨fun _ _ => rfl, fun _ => ⟨rfl, rfl⟩⟩

omit hfault in
/-- The job joins the queue and the program goes on. -/
theorem queues_of {h : Shape} {i : Instr} (hi : Issues h e s) (j : FlushJob)
    (hx : exec i s = .next (retire (queueFlush (issued e s) e.core j) e.core e.ctx)) :
    ∃ t, exec i s = .next t ∧ OnlySite e.core s t ∧ SameMemory s t ∧ CtxIs e t { e.x s with pc := (e.x s).pc + 8 } ∧
      getWga t e.core = { getWga s e.core with
        flushes := (getWga s e.core).flushes ++ [{ j with sn := (getTiles s e.core).nextSn }] } ∧
      getTiles t e.core = { getTiles s e.core with nextSn := (getTiles s e.core).nextSn + 1 } := by
  have ha := ((acted_issued hi).modCore (spares_withFlush j)).retire (issues_st hi) (issues_wait hi)
  exact ⟨_, hx, ha.only, ha.memory, ha.ctx, congrArg Site.wga ha.site, congrArg Site.tiles ha.site⟩

theorem exec_wzero (hi : Issues { cls := 8, op := 0x11, ra := true, rb := true } e s) (hn : ((e.x s).s e.rb).toNat ≠ 0) :
    exec (.wzero e) s = .next (
      if wgaSize < ((e.x s).s e.ra).toNat + ((e.x s).s e.rb).toNat then
        e.trap (issued e s) 0x19 (BitVec.ofNat 64 (firstBeyond ((e.x s).s e.ra).toNat))
      else if (getWga s e.core).flushes.length < 3 then
        retire (queueFlush (issued e s) e.core
          { ctx := e.ctx, zero := true, desc := [], first := ((e.x s).s e.ra).toNat, count := ((e.x s).s e.rb).toNat }) e.core e.ctx
      else block (issued e s) e.core e.ctx true (.op .wzero e)) := by
  have hroom : (getWga (issued e s) e.core).room = decide ((getWga s e.core).flushes.length < 3) := by
    rw [getWga, wga_issued hi]; rfl
  show execWzero e s = _
  rw [execWzero, issue_next hi]
  dsimp only
  rw [s_issued hi, s_issued hi, if_neg hn, orWait, attWzero, cairnHeld_issued hi hfault]
  dsimp only
  rw [hroom, s_issued hi, s_issued hi]
  by_cases hlim : wgaSize < ((e.x s).s e.ra).toNat + ((e.x s).s e.rb).toNat
  · rw [if_pos hlim, if_pos hlim]
  · rw [if_neg hlim, if_neg hlim]
    by_cases hlen : (getWga s e.core).flushes.length < 3
    · rw [if_pos (decide_eq_true hlen), if_pos hlen]
    · rw [if_neg (by simpa using hlen), if_neg hlen]

omit hfault in
theorem fdOk_issued {h : Shape} (hi : Issues h e s) (c : Nat) (b : List Byte) : fdOk (issued e s) c b = fdOk s c b := by
  rw [issued_with hi]; rfl

theorem exec_wflush {b : List Byte} (hi : Issues { cls := 8, op := 0x14, ra := true, aA := true } e s)
    (hal : ((e.x s).a e.ra).toNat % 64 = 0) (hfit : ((e.x s).a e.ra).toNat + 64 ≤ 2097152)
    (hread : engRead s e.core spNear ((e.x s).a e.ra) 64 = .ok b) : exec (.wflush e) s = .next (
      if fdOk s e.core b then
        if (getWga s e.core).flushes.length < 3 then
          retire (queueFlush (issued e s) e.core
            { ctx := e.ctx, zero := false, desc := b, first := field b 0 4, count := field b 4 4 }) e.core e.ctx
        else block (issued e s) e.core e.ctx true (.desc .wflush e b)
      else e.trap (issued e s) 0x1F ((e.x s).a e.ra)) := by
  have hroom : (getWga (issued e s) e.core).room = decide ((getWga s e.core).flushes.length < 3) := by
    rw [getWga, wga_issued hi]; rfl
  show execWflush e s = _
  rw [execWflush, issue_next hi]
  dsimp only
  rw [a_issued hi, descTrap_none _ hal hfit, if_neg (by decide), engRead_issued_eq hi, hread]
  dsimp only
  rw [fdOk_issued hi, orWaitDesc, attWflush, cairnHeld_issued hi hfault]
  dsimp only
  rw [hroom]
  by_cases hok : fdOk s e.core b = true
  · rw [if_pos hok, if_pos hok]
    by_cases hlen : (getWga s e.core).flushes.length < 3
    · rw [if_pos (decide_eq_true hlen), if_pos hlen]
    · rw [if_neg (by simpa using hlen), if_neg hlen]
  · rw [if_neg hok, if_neg hok]

omit hfault in
theorem wflush_refused (hi : Issues { cls := 8, op := 0x14, ra := true, aA := true } e s)
    (hbad : ((e.x s).a e.ra).toNat % 64 ≠ 0 ∨ 2097152 < ((e.x s).a e.ra).toNat + 64) :
    Traps (.wflush e) e s 0x1F ((e.x s).a e.ra) := by
  have hdesc : (descTrap (issued e s) e.core ((e.x s).a e.ra) 64).isSome = true := by
    unfold descTrap
    by_cases hal : ((e.x s).a e.ra).toNat % 64 ≠ 0
    · rw [if_pos hal]; rfl
    · have hout : spotOf (issued e s) e.core spNear ((e.x s).a e.ra) 64 = none := by
        rw [spotOf_spNear, if_neg]
        rintro ⟨hspace, hfits⟩
        have hmod := Nat.mod_eq_of_lt ((Nat.div_eq_zero_iff_lt (by norm_num)).1 hspace)
        rw [hmod] at hfits
        exact Nat.not_lt.2 hfits (hbad.resolve_left hal)
      rw [if_neg hal, hout]
      rfl
  refine traps_of hi ?_
  show execWflush e s = _
  rw [execWflush, issue_next hi]
  dsimp only
  rw [a_issued hi, if_pos hdesc]

/-- Work of the context that WSYNC waits for. -/
def wgaMine (e : Enc) (y : Site) : Bool :=
  (y.wga.flushes.any fun f => f.ctx = e.ctx) || (y.tiles.drains.any fun d => d.ctx = e.ctx && wgaDrain d)

theorem exec_wsync (hi : Issues { cls := 8, op := 0x15 } e s) : exec (.wsync e) s = .next (
    if wgaMine e (getCore s e.core) then block (issued e s) e.core e.ctx true (.op .wsync e)
    else retire (issued e s) e.core e.ctx) := by
  show execWsync e s = _
  rw [execWsync, issue_next hi, orWait, attWsync, cairnHeld_issued hi hfault]
  dsimp only
  rw [tiles_issued hi, wga_issued hi, ← wgaMine]
  by_cases hm : wgaMine e (getCore s e.core) = true
  · rw [if_pos hm, if_pos hm]
  · rw [if_neg hm, if_neg hm]

end

/-! ### Zeroing and arriving sums (R138, R140) -/

theorem exec_winitZeroingComplete {c k : Nat} {s : State} (hcr : coreRuns s c = true) (hz : (getWga s c).zeroing = some k)
    (hw : (getCtx s c k).wait = .zeroing) : exec (.winitZeroingComplete c) s =
      .next (wake (retire (modWga s c fun w => { w with elems := [], zeroing := none }) c k) c) := by
  have hw' : (getCtx (modWga s c fun w => { w with elems := [], zeroing := none }) c k).wait = .zeroing := by
    rw [getCtx, modWga, getCore_modCore_same]; exact hw
  show execWinitZeroingComplete c s = _
  rw [execWinitZeroingComplete, hz]
  dsimp only
  rw [hcr, if_neg (by decide), if_pos hw']
  rfl

theorem exec_wgaSumArrival {c n : Nat} {s : State} {f : Flit} (hcr : coreRuns s c = true) (hz : (getWga s c).zeroing = none)
    (hn : arrivedFor s c .daf96Sum .wga = some n) (hf : s.mesh.net[n]? = some f) : exec (.wgaSumArrival c) s =
      .next (modWga (dropFlit s n) c fun w =>
        if f.datum = w.datum then w.addAt f.addr.toNat (inWga f.addr.toNat (flitElems f)) else { w with dmis := true }) := by
  show execWgaSumArrival c s = _
  rw [execWgaSumArrival, hn]
  dsimp only
  rw [hf]
  dsimp only
  rw [hcr, hz, if_neg (by decide)]
  rfl

/-- What a sum that has arrived adds to an element. -/
theorem el_sum (w : Wga) (f : Flit) {k : Nat} (hk : k < wgaSize) :
    (w.addAt f.addr.toNat (inWga f.addr.toNat (flitElems f))).el k = w.el k +
      (if f.addr.toNat ≤ k ∧ k < f.addr.toNat + f.count then
        BitVec.ofNat 96 (leNat ((f.payload.drop (12 * (k - f.addr.toNat))).take 12)) else 0) := by
  have hes : flitElems f = (List.range f.count).map fun j => BitVec.ofNat 96 (leNat ((f.payload.drop (12 * j)).take 12)) := by
    rw [flitElems, chunks_eq, List.map_map]; rfl
  rw [el_addAt, hes, inWga, List.length_take, List.length_map, List.length_range]
  by_cases h : f.addr.toNat ≤ k ∧ k < f.addr.toNat + f.count
  · have hlt : k - f.addr.toNat < f.count := by omega
    have htake : k - f.addr.toNat < wgaSize - f.addr.toNat := by omega
    rw [if_pos h, if_pos (by omega), List.getD_eq_getElem?_getD, List.getElem?_take_of_lt htake]
    simp [hlt]
  · rw [if_neg h, if_neg (by omega)]

/-- A triple added from an element on. -/
theorem el_addTriple (w : Wga) (y : Site) (i r n : Nat) : (w.addAt i (y.triple r)).el n = w.el n +
    (if i ≤ n ∧ n < i + 64 then y.lane (r + 2) (n - i) ++ y.lane (r + 1) (n - i) ++ y.lane r (n - i) else 0) := by
  have hlen : (y.triple r).length = 64 := by simp [Site.triple]
  rw [el_addAt, hlen]
  by_cases h : i ≤ n ∧ n < i + 64
  · have hlt : n - i < 64 := by omega
    rw [if_pos h, if_pos h, Site.triple, List.getD_eq_getElem?_getD]
    simp [hlt]
  · rw [if_neg h, if_neg h]

/-- Settles O30: each instruction's branches by its `exec_` lemma, the elements by `el_addAt` and `el_sum`. -/
theorem wgaInstructions : Obligations.WgaInstructions := by
  refine ⟨⟨fun e s => ?_, fun c n s f hcr hz hn hf => ?_⟩, fun e s b => ?_, fun c k s hcr hz hw hst => ?_⟩
  · intro y el i k hfault
    refine ⟨fun hi h29 ho => ?_, fun hi h29 ho => ?_⟩
    · have hx := exec_waddv hfault hi h29 ho
      refine ⟨fun ht => ?_, fun ht hout => ?_, fun ht hin => ?_⟩
      · rw [← tags_eq]
        exact traps_of hi (hx.trans (congrArg _ (if_pos ht)))
      · exact traps_of hi (hx.trans (congrArg _ ((if_neg (not_not.2 ht)).trans (if_pos hout))))
      · obtain ⟨t, hx, honly, hmem, hctx, hwga⟩ := waddv_adds hfault hi h29 ho ht hin
        refine ⟨t, hx, honly, hmem, hctx, ?_, fun n => ?_⟩
        · rw [hwga, addAt_fields]; rfl
        · rw [hwga]
          exact el_addTriple ..
    · have hx := exec_wrdv hfault hi h29 ho
      refine ⟨fun hout => ?_, fun hin => ?_⟩
      · exact traps_of hi (hx.trans (congrArg _ (if_pos hout)))
      · exact writesTriple_of hi (acted_unflagged hi) (hx.trans (congrArg _ (if_neg (Nat.not_lt.2 hin))))
  · have hx := exec_wgaSumArrival hcr hz hn hf
    refine ⟨_, hx, (sameMemory_of rfl rfl : SameMemory s (dropFlit s n)).trans (sameMemory_modWga ..), rfl, ?_⟩
    rw [getWga_modWga, show getWga (dropFlit s n) c = getWga s c from rfl]
    refine ⟨fun hd => if_neg hd, fun hd => ?_⟩
    rw [if_pos hd]
    exact ⟨by rw [addAt_fields], fun k hk => el_sum _ f hk⟩
  · intro y w i n a queued mine inUse hfault
    refine ⟨fun hi => ?_, fun hi hn => ?_, fun hi => ⟨wflush_refused hi, fun hal hfit hread => ?_⟩, fun hi => ?_⟩
    · have hx := exec_winit hfault hi
      refine ⟨fun hu => ?_, fun hu => ?_⟩
      · exact waits_of_issued hi (hx.trans (congrArg _ (if_pos hu)))
      · replace hx := hx.trans (congrArg _ (if_neg (Bool.eq_false_iff.1 hu)))
        have ha := (acted_issued hi).modWga fun w => { w with datum := e.imm.extractLsb' 0 10, zeroing := some e.ctx }
        refine ⟨waits_of_switch ha.memory ha.ctx hx, _, hx, ?_⟩
        rw [getWga_block]
        exact congrArg Site.wga ha.site
    · have hx := exec_wzero hfault hi hn
      refine ⟨fun hout => ?_, fun hin hroom => ?_, fun hin hfull => ?_⟩
      · exact traps_of hi (hx.trans (congrArg _ (if_pos hout)))
      · exact queues_of hi _ (hx.trans (congrArg _ ((if_neg (Nat.not_lt.2 hin)).trans (if_pos hroom))))
      · exact waits_of_issued hi (hx.trans (congrArg _ ((if_neg (Nat.not_lt.2 hin)).trans (if_neg (Nat.not_lt.2 hfull)))))
    · have hx := exec_wflush hfault hi hal hfit hread
      refine ⟨fun hbad => ?_, fun hok hfull => ?_, fun hok hroom => ?_⟩
      · exact traps_of hi (hx.trans (congrArg _ (if_neg (Bool.eq_false_iff.1 hbad))))
      · exact waits_of_issued hi (hx.trans (congrArg _ ((if_pos hok).trans (if_neg (Nat.not_lt.2 hfull)))))
      · exact queues_of hi _ (hx.trans (congrArg _ ((if_pos hok).trans (if_pos hroom))))
    · have hx := exec_wsync hfault hi
      refine ⟨fun hm => goesOn_of hi (hx.trans (congrArg _ (if_neg (Bool.eq_false_iff.1 hm)))), fun hm =>
        waits_of_issued hi (hx.trans (congrArg _ (if_pos hm)))⟩
  · have hx := exec_winitZeroingComplete hcr hz hw
    refine ⟨_, hx, (sameMemory_modWga ..).trans (sameMemory_modCtx ..), ?_, ?_, fun n => ?_, ?_⟩
    · rw [retire, getWga_modCtx, getWga_modWga]
    · rw [retire, getWga_modCtx, getWga_modWga]
    · rw [retire, getWga_modCtx, getWga_modWga]; rfl
    · have hctx : getCtx (modWga s c fun w => { w with elems := [], zeroing := none }) c k = getCtx s c k := by
        rw [getCtx, modWga, getCore_modCore_same]; rfl
      rw [retire, getCtx_modCtx_same, hctx, hst]
      rfl

end Sys2Proof.Machine
end

section
/-!
PROOFS. The flush queue at work: WZERO, flushes to memory and to another core (R54, R141, R257).
-/

namespace Sys2Proof.Machine

theorem exec_flushComplete {c : Nat} {s : State} {j : FlushJob} {q : List FlushJob} (hcr : coreRuns s c = true)
    (hinj : injBlocked s c = false) (hj : (getWga s c).flushes = j :: q)
    (hdr : j.zero = false → ((getTiles s c).drains.any fun d => d.ctx = j.ctx && wgaDrain d && decide (d.sn < j.sn)) = false) :
    exec (.flushComplete c) s = .next (wake (modWga (runFlush s c j) c fun w => { w with flushes := q }) c) := by
  have hwait : (!j.zero && (getCore s c).tiles.drains.any fun d => d.ctx = j.ctx && wgaDrain d && decide (d.sn < j.sn)) = false := by
    cases hz : j.zero with
    | true => rfl
    | false => exact hdr hz
  have hflushes : (getCore s c).wga.flushes = j :: q := hj
  show execFlushComplete c s = _
  rw [execFlushComplete, hflushes]
  dsimp only
  rw [hcr, hinj, hwait, if_neg (by decide)]
  rfl

/-- The flushed elements are cleared under CLEAR. -/
def clearFlushed (s : State) (c : Nat) (j : FlushJob) : State :=
  if fdClear j.desc then modWga s c fun w => w.clear j.first j.count else s

theorem clearFlushed_keeps (s : State) (c : Nat) (j : FlushJob) :
    SameMemory s (clearFlushed s c j) ∧ csite (clearFlushed s c j) c = csite s c ∧ (clearFlushed s c j).mesh = s.mesh ∧
    (∀ sp a n, spotOf (clearFlushed s c j) c sp a n = spotOf s c sp a n) ∧
    coreParcelNum (clearFlushed s c j) c = coreParcelNum s c ∧ (∀ d, csite (clearFlushed s c j) d = csite s d) ∧
    ∀ i, (getWga (clearFlushed s c j) c).el i =
      if fdClear j.desc = true ∧ j.first ≤ i ∧ i < j.first + j.count then 0 else (getWga s c).el i := by
  unfold clearFlushed
  by_cases hc : fdClear j.desc = true
  · rw [if_pos hc]
    refine ⟨sameMemory_modWga .., rfl, rfl, fun _ _ _ => rfl, rfl, fun _ => rfl, fun i => ?_⟩
    rw [getWga_modWga, el_clear]
    simp only [hc, true_and]
  · rw [if_neg hc]
    exact ⟨sameMemory_refl s, rfl, rfl, fun _ _ _ => rfl, rfl, fun _ => rfl, fun i => by simp [hc]⟩

/-! ### Flushes to memory -/

/-- The bytes of flushed elements in MODE 1 and in MODE 2 (Table 5-2). -/
def flushedBytes (mode : Nat) (d : Datum) (es : List W96) : List Byte :=
  if mode = 1 then es.flatMap fun v => leBytes 12 v.toNat
  else es.flatMap fun v => leBytes 4 (fmtFP32.round (intVal v.toInt (d.toInt - 60)))

theorem flushData_bytes (mode : Nat) (d : Datum) (es : List W96) : (flushData mode d es).1 = flushedBytes mode d es := by
  unfold flushData flushedBytes
  by_cases h : mode = 1
  · rw [if_pos h, if_pos h]; rfl
  · rw [if_neg h, if_neg h]
    dsimp only
    rw [List.flatMap_map]
    rfl

theorem getWga_localWrite (s : State) (c unit : Nat) (a : W64) (x : Spot) (bs : List Byte) :
    getWga (localWrite s c unit a x bs) c = getWga s c := by
  rw [getWga, getCore_localWrite, put_eq]; rfl

section
variable {c : Nat} {s : State} {j : FlushJob} (hz : j.zero = false) (ht : fdTail j.desc = none)
include hz ht

theorem runFlush_memory {off : Nat} (hm : fdMode j.desc = 1 ∨ fdMode j.desc = 2)
    (hspot : spotOf s c spLocal (fdDst j.desc)
      (flushedBytes (fdMode j.desc) (getWga s c).datum ((getWga s c).els j.first j.count)).length = some (.near off)) :
    ∃ fl, runFlush s c j = localWrite (raiseFlags (clearFlushed s c j) c j.ctx fl) c 4 (fdDst j.desc) (.near off)
      (flushedBytes (fdMode j.desc) (getWga s c).datum ((getWga s c).els j.first j.count)) := by
  obtain ⟨-, -, -, hspots, -⟩ := clearFlushed_keeps s c j
  refine ⟨(flushData (fdMode j.desc) (getWga s c).datum ((getWga s c).els j.first j.count)).2, ?_⟩
  have hwrite := fun fl => engWrite_local (s := raiseFlags (clearFlushed s c j) c j.ctx fl) (c := c) (unit := 4) (sp := spLocal)
    (x := .near off) (a := fdDst j.desc) (bs := flushedBytes (fdMode j.desc) (getWga s c).datum ((getWga s c).els j.first j.count))
    ((hspots ..).trans hspot) rfl
  have hm0 : ¬fdMode j.desc = 0 := by omega
  unfold runFlush
  rw [hz, if_neg (by decide)]
  dsimp only
  rw [if_neg hm0, ht, flushData_bytes, ← clearFlushed, hwrite]

/-- A flush of the WGA to near memory. -/
theorem flush_stores {off : Nat} (hm : fdMode j.desc = 1 ∨ fdMode j.desc = 2)
    (hspot : spotOf s c spLocal (fdDst j.desc)
      (flushedBytes (fdMode j.desc) (getWga s c).datum ((getWga s c).els j.first j.count)).length = some (.near off)) :
    StoredAt c s (runFlush s c j) (.near off)
      (flushedBytes (fdMode j.desc) (getWga s c).datum ((getWga s c).els j.first j.count)) ∧
    ∀ i, (getWga (runFlush s c j) c).el i =
      if fdClear j.desc = true ∧ j.first ≤ i ∧ i < j.first + j.count then 0 else (getWga s c).el i := by
  obtain ⟨fl, hrun⟩ := runFlush_memory hz ht hm hspot
  obtain ⟨hmem, hcs, -, -, -, -, hel⟩ := clearFlushed_keeps s c j
  rw [hrun]
  generalize clearFlushed s c j = u at *
  refine ⟨?_, fun i => ?_⟩
  · exact (hmem.trans (sameMemory_modCtx ..)).then_stored hcs (localWrite_stored rfl)
  · rw [getWga_localWrite, raiseFlags, getWga_modCtx, hel]

end

/-! ### Flushes to another core -/

theorem sumFlits_congr {s t : State} {c target : Nat} (hcs : ∀ d, csite t d = csite s d) (hp : coreParcelNum t c = coreParcelNum s c)
    (d : Datum) (w : FlitFor) (f i : Nat) (l : List W96) : sumFlits t c target d w f i l = sumFlits s c target d w f i l := by
  induction f generalizing i l with
  | zero => rfl
  | succ f ih => rw [sumFlits, sumFlits, hcs, hcs, hp, ih]

theorem foldl_inject (fs : List Flit) (s : State) : fs.foldl inject s = { s with mesh := { s.mesh with
    born := s.mesh.born + fs.length
    net := s.mesh.net ++ (fs.zipIdx.map fun x => { x.1 with born := s.mesh.born + x.2 }) } } := by
  induction fs generalizing s with
  | nil => simp
  | cons f fs ih =>
    rw [List.foldl_cons, ih, List.zipIdx_cons, List.zipIdx_succ, List.map_cons, List.map_map]
    simp only [inject, List.length_cons, List.append_assoc, List.cons_append, List.nil_append, Nat.add_zero,
      Nat.add_assoc, Nat.add_comm 1]
    rfl

theorem runFlush_sends {c : Nat} {s : State} {j : FlushJob} (hz : j.zero = false) (ht : fdTail j.desc = none)
    (hm : fdMode j.desc = 0) : runFlush s c j = (sumFlits s c (fdTarget j.desc) (getWga s c).datum .wga (j.count / 5 + 1)
      (field j.desc 16 8) ((getWga s c).els j.first j.count)).foldl inject (clearFlushed s c j) := by
  obtain ⟨-, -, -, -, hp, hcs, -⟩ := clearFlushed_keeps s c j
  have hlen : ((getWga s c).els j.first j.count).length = j.count := by simp [Wga.els]
  unfold runFlush
  rw [hz, if_neg (by decide)]
  dsimp only
  rw [if_pos hm, ht, ← clearFlushed, sendSums, hlen, sumFlits_congr hcs hp]

/-- Settles O31: `runFlush` by the job's kind and MODE, then the queue without the job. -/
theorem wgaFlushes : Obligations.WgaFlushes := by
  intro c s j q off w n es bs hcr hinj hj
  refine ⟨fun hz => ?_, fun hz hdr => ?_⟩
  · have hx := exec_flushComplete hcr hinj hj fun h => by rw [hz] at h; cases h
    have hrun : runFlush s c j = modWga s c fun w => w.clear j.first j.count := by rw [runFlush, hz, if_pos rfl]
    rw [hrun] at hx
    refine ⟨_, hx, (sameMemory_modWga ..).trans (sameMemory_modWga ..), ?_, fun i => ?_⟩
    · rw [getWga_modWga]
    · rw [getWga_modWga, getWga_modWga]
      exact el_clear ..
  · have hx := exec_flushComplete hcr hinj hj fun _ => hdr
    refine ⟨fun hm ht hspot => ?_, fun hm ht => ?_⟩
    · obtain ⟨hst, hel⟩ := flush_stores hz ht hm hspot
      refine ⟨_, hx, hst.trans_same (sameMemory_modWga ..), ?_, fun i => ?_⟩
      · rw [getWga_modWga]
      · rw [getWga_modWga]
        exact hel i
    · obtain ⟨hmem, -, hmesh, -⟩ := clearFlushed_keeps s c j
      have hrun := runFlush_sends (s := s) (c := c) hz ht hm
      rw [foldl_inject] at hrun
      refine ⟨_, hx, ?_, ?_, ?_⟩
      · rw [hrun]
        exact (hmem.trans (sameMemory_of rfl rfl)).trans (sameMemory_modWga ..)
      · rw [getWga_modWga]
      · show (runFlush s c j).mesh = _
        rw [hrun, hmesh]
        rfl

end Sys2Proof.Machine
end

section
/-!
PROOFS. ULAUNCH and UGAUGE: an update step begins, a launch joins the engine's queue or traps (R152 to R156, R163, R166).
-/

namespace Sys2Proof.Machine

/-! ### What a change of a Gatehouse leaves to a core -/

/-- Only the Gatehouses have changed, and every bed belongs to the parcel it did. -/
structure OnlyGate (s t : State) : Prop where
  state : t = { s with gate := t.gate }
  beds : ∀ bed, bedParcel t bed = bedParcel s bed

section
variable {s t : State} (h : OnlyGate s t)
include h

theorem OnlyGate.coreParcel (c : Nat) : Machine.coreParcel t c = Machine.coreParcel s c := h.beds _

theorem OnlyGate.sites : t.sites = s.sites := by rw [h.state]

theorem OnlyGate.csite (c : Nat) : Machine.csite t c = Machine.csite s c := by rw [h.state]; rfl

theorem OnlyGate.getCore (c : Nat) : Machine.getCore t c = Machine.getCore s c := by rw [h.state]; rfl

theorem OnlyGate.getCtx (c k : Nat) : Machine.getCtx t c k = Machine.getCtx s c k := congrArg (fun x => Site.ctx x k) (h.getCore c)

theorem OnlyGate.memory : SameMemory s t := by rw [h.state]; exact sameMemory_of rfl rfl

theorem OnlyGate.spotOf (c : Nat) (sp : Spaces) (a : W64) (n : Nat) : Machine.spotOf t c sp a n = Machine.spotOf s c sp a n := by
  have hsite (d : Nat) : tsite t d = tsite s d := by rw [h.state]; rfl
  unfold Machine.spotOf sameParcel
  simp only [h.coreParcel, h.beds, hsite]

theorem OnlyGate.spotRead (c : Nat) (x : Spot) (n : Nat) : Machine.spotRead t c x n = Machine.spotRead s c x n := by
  have hnear : nearRead t = nearRead s := by rw [h.state]; rfl
  have hterr : terrRead t = terrRead s := by rw [h.state]; rfl
  have hfar : farRead t = farRead s := by rw [h.state]; rfl
  have hlost : terrLost t = terrLost s := by rw [h.state]; rfl
  have hinj : injBlocked t c = injBlocked s c := by rw [h.state]; rfl
  unfold Machine.spotRead
  rw [h.csite, hnear, hterr, hfar, hlost, hinj, coreParcelNum, h.coreParcel]
  rfl

theorem OnlyGate.engRead (c : Nat) (sp : Spaces) (a : W64) (n : Nat) : Machine.engRead t c sp a n = Machine.engRead s c sp a n := by
  unfold Machine.engRead
  rw [h.spotOf]
  simp only [h.spotRead]

end

theorem bedParcel_modPcl (s : State) (p : Nat) {f : Parcel → Parcel} (hf : ∀ x, (f x).st = x.st ∧ (f x).beds = x.beds) (bed : Nat) :
    bedParcel (modPcl s p f) bed = bedParcel s bed := by
  have hst (q : Nat) : (getPcl (modPcl s p f) q).st = (getPcl s q).st ∧ (getPcl (modPcl s p f) q).beds = (getPcl s q).beds := by
    rw [getPcl_modPcl]
    split
    next h => rw [h]; exact hf _
    · exact ⟨rfl, rfl⟩
  unfold bedParcel pclThere
  simp only [hst]

theorem onlyGate_modPcl (s : State) (p : Nat) {f : Parcel → Parcel} (hf : ∀ x, (f x).st = x.st ∧ (f x).beds = x.beds) :
    OnlyGate s (modPcl s p f) := ⟨rfl, bedParcel_modPcl s p hf⟩

theorem onlyGate_beginUpdate (s : State) (c : Nat) : OnlyGate s (beginUpdate s c) := by
  unfold beginUpdate
  split
  · exact ⟨rfl, fun _ => rfl⟩
  · exact onlyGate_modPcl _ _ fun _ => ⟨rfl, rfl⟩

theorem beginUpdate_begun {s : State} {c q : Nat} (h : coreParcel s c = some q) : (getPcl (beginUpdate s c) q).updateBegun = true := by
  rw [beginUpdate, h]
  exact congrArg Parcel.updateBegun ((getPcl_modPcl ..).trans (if_pos rfl))

/-! ### The queue of launches (R152) -/

/-- What a refreshed launch is. -/
def refreshed (x : Site) (top : Nat) (y : Launch × Nat) : Launch :=
  if y.1.st = .running then y.1
  else { y.1 with
    since := if launchAble x y.1 then (if y.1.since = 0 then top + 1 + y.2 else y.1.since) else 0
    st := if y.1.gated && !x.gate.isOpen then .gate else .engine }

/-- The states of launches, as USTAT shows them. -/
def showLaunches (ls : List Launch) (x : Site) : Site :=
  ls.foldl (fun x l => x.modCtx l.ctx fun y =>
    { y with ustat := BitVec.ofNat 4 (nb l.gauge 3 + (match l.st with | .engine => 1 | .gate => 2 | .running => 3)) }) x

theorem refreshLaunches_eq (x : Site) : ∃ top, refreshLaunches x =
    showLaunches (x.launches.zipIdx.map (refreshed x top)) { x with launches := x.launches.zipIdx.map (refreshed x top) } :=
  ⟨(x.launches.map (·.since)).foldl max 0, rfl⟩

theorem showLaunches_spares (ls : List Launch) (x : Site) : showLaunches ls x = { x with ctxs := (showLaunches ls x).ctxs } := by
  unfold showLaunches
  induction ls generalizing x with
  | nil => rfl
  | cons l ls ih => rw [List.foldl_cons, ih]; rfl

theorem ctx_showLaunches (ls : List Launch) (x : Site) (k : Nat) : ∃ u, (showLaunches ls x).ctx k = { x.ctx k with ustat := u } := by
  unfold showLaunches
  induction ls generalizing x with
  | nil => exact ⟨_, rfl⟩
  | cons l ls ih =>
    rw [List.foldl_cons]
    obtain ⟨u, hu⟩ := ih (x.modCtx l.ctx fun y =>
      { y with ustat := BitVec.ofNat 4 (nb l.gauge 3 + (match l.st with | .engine => 1 | .gate => 2 | .running => 3)) })
    rw [hu, Site.ctx, Site.modCtx, sget_smod]
    split
    next hk => rw [hk]; exact ⟨u, rfl⟩
    · exact ⟨u, rfl⟩

/-- A launch joins the queue of a site. -/
theorem refresh_joined (x : Site) {l : Launch} (hst : l.st ≠ .running) :
    (∃ z n, (refreshLaunches { x with launches := x.launches ++ [l] }).launches.getLast? =
        some { l with since := n, st := z } ∧ z ≠ .running) ∧
    (refreshLaunches { x with launches := x.launches ++ [l] }).launches.length = x.launches.length + 1 ∧
    (∀ k, ∃ u, (refreshLaunches { x with launches := x.launches ++ [l] }).ctx k = { x.ctx k with ustat := u }) ∧
    (refreshLaunches { x with launches := x.launches ++ [l] }).near = x.near ∧
    (refreshLaunches { x with launches := x.launches ++ [l] }).terr = x.terr := by
  obtain ⟨top, h⟩ := refreshLaunches_eq { x with launches := x.launches ++ [l] }
  rw [h]
  refine ⟨?_, ?_, fun k => ctx_showLaunches _ _ k, ?_, ?_⟩
  · rw [showLaunches_spares]
    dsimp only
    rw [List.zipIdx_append, List.map_append, List.zipIdx_singleton, List.map_singleton, List.getLast?_concat]
    refine ⟨_, _, congrArg some ((if_neg hst).trans rfl), ?_⟩
    split <;> decide
  · rw [showLaunches_spares]
    simp
  · rw [showLaunches_spares]
  · rw [showLaunches_spares]

/-- The launch is queued: its context waits, with its registers as before, and the parcel's update phase has begun. -/
def Queued (i : Instr) (e : Enc) (s : State) (p : Launch → Prop) : Prop :=
  ∃ t l, exec i s = .next t ∧ SameMemory s t ∧
    CtxIs e t { e.x s with st := .waiting, wait := .launch, ustat := (e.x t).ustat } ∧
    (getCore t e.core).launches.getLast? = some l ∧ p l ∧ l.ctx = e.ctx ∧ l.st ≠ .running ∧ l.group = (e.x s).upos.toNat ∧
    (getCore t e.core).launches.length = (getCore s e.core).launches.length + 1 ∧
    ∀ q, coreParcel s e.core = some q → q < 8 → (getPcl t q).updateBegun = true

/-- A property of launches that does not look at when a launch can start. -/
def SparesStart (p : Launch → Prop) : Prop := ∀ l n z, p l → p { l with since := n, st := z }

section
variable {i : Instr} {h : Shape} {e : Enc} {s : State} (hi : Issues h e s)
include hi

/-- The state in which a launch acts: the update phase of the parcel has begun (R281). -/
theorem begun_view : SameMemory s (beginUpdate (issued e s) e.core) ∧ CtxIs e (beginUpdate (issued e s) e.core) (e.x s) ∧
    OnlyGate (issued e s) (beginUpdate (issued e s) e.core) ∧
    (getCore (beginUpdate (issued e s) e.core) e.core).launches = (getCore s e.core).launches ∧
    ∀ q, coreParcel s e.core = some q → (getPcl (beginUpdate (issued e s) e.core) q).updateBegun = true := by
  have hg := onlyGate_beginUpdate (issued e s) e.core
  refine ⟨(acted_issued hi).memory.trans hg.memory, ?_, hg, ?_, fun q hq => beginUpdate_begun ((coreParcel_issued hi _).trans hq)⟩
  · have hc := issued_ctx hi
    unfold CtxIs Enc.x at hc ⊢
    rw [hg.getCtx, ← hc]
  · rw [hg.getCore, (acted_issued hi).site]

end

theorem traps_after {i : Instr} {e : Enc} {s u : State} {cause : Nat} {val : W64} (hmem : SameMemory s u) (hctx : CtxIs e u (e.x s))
    (hx : exec i s = .next (e.trap u cause val)) : Traps i e s cause val := by
  obtain ⟨htm, htc⟩ := trap_cases u e.core e.ctx cause val
  refine ⟨_, hx, hmem.trans htm, ?_⟩
  have hs : getCtx u e.core e.ctx = _ := hctx
  unfold CtxIs Enc.x Enc.trap
  rw [htc, hs]
  rfl

theorem launches_block (s : State) (c k : Nat) (w : Wait) :
    (getCore (block s c k true w) c).launches = (getCore s c).launches := by
  rw [block, if_pos rfl, modCtx, getCore_modCore_same, giveUp]
  show (getCore (modCore s c _) c).launches = _
  rw [getCore_modCore_same]
  split <;> rfl

theorem queued_of {i : Instr} {e : Enc} {s u : State} {l : Launch} {p : Launch → Prop} (hp : SparesStart p)
    (hmem : SameMemory s u) (hctx : CtxIs e u (e.x s)) (hlaunches : (getCore u e.core).launches = (getCore s e.core).launches)
    (hbegun : ∀ q, coreParcel s e.core = some q → (getPcl u q).updateBegun = true) (hl : p l) (hc : l.ctx = e.ctx)
    (hst : l.st ≠ .running) (hgroup : l.group = (e.x s).upos.toNat) (hx : exec i s = .next (queueLaunch e l u)) :
    Queued i e s p := by
  obtain ⟨⟨z, n, hlast, hz⟩, hlen, hctxs, -, -⟩ := refresh_joined (getCore u e.core) hst
  rw [queueLaunch] at hx
  have hmem' : SameMemory u (modCore u e.core fun x => refreshLaunches { x with launches := x.launches ++ [l] }) :=
    sameMemory_modCore _ _ fun x => (refresh_joined x hst).2.2.2
  have hcore : getCore (modCore u e.core fun x => refreshLaunches { x with launches := x.launches ++ [l] }) e.core =
    refreshLaunches { getCore u e.core with launches := (getCore u e.core).launches ++ [l] } := getCore_modCore_same ..
  have hpcl (q : Nat) : getPcl (modCore u e.core fun x => refreshLaunches { x with launches := x.launches ++ [l] }) q =
    getPcl u q := rfl
  rw [← hcore] at hlast hlen hctxs
  obtain ⟨v, hv⟩ := hctxs e.ctx
  generalize modCore u e.core (fun x => refreshLaunches { x with launches := x.launches ++ [l] }) = w at *
  obtain ⟨hbm, -, hbc⟩ := block_switch w e.core e.ctx .launch
  refine ⟨_, _, hx, (hmem.trans hmem').trans hbm, ?_, ?_, hp l n z hl, hc, hz, hgroup, ?_, fun q hq _ => ?_⟩
  · have hu : getCtx u e.core e.ctx = _ := hctx
    have hw : getCtx w e.core e.ctx = { getCtx u e.core e.ctx with ustat := v } := hv
    unfold CtxIs Enc.x
    rw [hbc, hw, hu]
    rfl
  · rw [launches_block, hlast]
  · rw [launches_block, hlen, hlaunches]
  · exact (congrArg Parcel.updateBegun (hpcl q)).trans (hbegun q hq)

/-! ### ULAUNCH (R154 to R156, R163, R165) -/

/-- The groups of a launch: all of a dense one, those of the touched rows of a lazy one. -/
def LaunchSize (s : State) (c : Nat) (b : List Byte) (m : Nat) : Prop :=
  (udLazy b = false ∧ m = udGroups b) ∨
    (udLazy b = true ∧ ∃ bm, readBitmap s c b = .ok bm ∧ m = (touchedRows (udRows b) bm).length * (udRowlen b / 64))

theorem launchSized_of {v : State} {e : Enc} {a : W64} {b : List Byte} {m : Nat} (hm : LaunchSize v e.core b m) :
    launchSized e a b v = launchRange e a b m v := by
  unfold launchSized
  obtain ⟨hl, rfl⟩ | ⟨hl, bm, hbm, rfl⟩ := hm
  · rw [hl]
    rfl
  · rw [hl, hbm]
    rfl

theorem launchAt_misaligned {v : State} {e : Enc} {a : W64} (ha : (e.x v).a e.ra = a) (hal : a.toNat % 64 ≠ 0) :
    launchAt e v = e.trap v 0x20 a := by
  rw [launchAt, ha]
  exact if_pos hal

theorem launchAt_read {v : State} {e : Enc} {a : W64} {b : List Byte} (ha : (e.x v).a e.ra = a) (hal : a.toNat % 64 = 0)
    (hb : engRead v e.core spNear a 128 = .ok b) :
    launchAt e v = if !udOk b (e.x v).upos.toNat then e.trap v 0x20 a else launchSized e a b v := by
  rw [launchAt, ha, if_neg (not_not_intro hal), hb]

theorem launchProg_read {v : State} {e : Enc} {a : W64} {b pb : List Byte}
    (hpb : engRead v e.core spNear (udProg b) (4 * udPlen b) = .ok pb) :
    (∀ k w, progBad (udNslot b) 0 [] [] (lanesOf pb) = some (k, w) →
      launchProg e a b v = e.trap v 0x21 (BitVec.ofNat 32 k ++ w)) ∧
    (progBad (udNslot b) 0 [] [] (lanesOf pb) = none → (e.x v).heldSt = [] →
      launchProg e a b v = queueLaunch e
        { ctx := e.ctx, gauge := false, st := .engine, desc := b, prog := lanesOf pb,
          stepNo := ((e.x v).s e.rb).extractLsb' 0 32, group := (e.x v).upos.toNat, descAddr := a } v) := by
  unfold launchProg
  rw [hpb]
  dsimp only
  refine ⟨fun k w hw => ?_, fun hn hheld => ?_⟩
  · rw [hw]
    refine congrArg (e.trap v 0x21) (BitVec.eq_of_toNat_eq ?_)
    simp only [BitVec.toNat_ofNat, BitVec.toNat_append]
    rw [Nat.shiftLeft_eq, Nat.mul_comm (k % 2 ^ 32), ← Nat.two_pow_add_eq_or_of_lt w.isLt]
    have := w.isLt
    omega
  · rw [hn]
    exact unlessHeld_of_none hheld _

section
variable {e : Enc} {s : State}

theorem exec_ulaunch (hi : Issues { cls := 0xA, op := 1, ra := true, rb := true, aA := true } e s) :
    exec (.ulaunch e) s = .next (launchAt e (beginUpdate (issued e s) e.core)) :=
  issue_next hi fun s => launchAt e (beginUpdate s e.core)

/-- What an update launch reads is what the core read before. -/
theorem launchSize_begun {h : Shape} (hi : Issues h e s) {v : State} (hg : OnlyGate (issued e s) v) {b : List Byte} {m : Nat}
    (hm : LaunchSize s e.core b m) : LaunchSize v e.core b m := by
  refine hm.imp_right fun ⟨hl, bm, hbm, hm⟩ => ⟨hl, bm, ?_, hm⟩
  rw [← hbm]
  unfold readBitmap uRead
  rw [hg.engRead, engRead_issued_eq hi]

/-- ULAUNCH, in the order in which it is checked. -/
theorem ulaunch_results (hi : Issues { cls := 0xA, op := 1, ra := true, rb := true, aA := true } e s) (b pb : List Byte) :
    let a := (e.x s).a e.ra
    (a.toNat % 64 ≠ 0 → Traps (.ulaunch e) e s 0x20 a) ∧
    (a.toNat % 64 = 0 → engRead s e.core spNear a 128 = .ok b →
      (udOk b (e.x s).upos.toNat = false → Traps (.ulaunch e) e s 0x20 a) ∧
      (∀ m, udOk b (e.x s).upos.toNat = true → LaunchSize s e.core b m →
        (m < (e.x s).upos.toNat → Traps (.ulaunch e) e s 0x20 a) ∧
        ((e.x s).upos.toNat ≤ m → udGkind b = 0 → 262144 < udGsrc b + 64 * m →
          Traps (.ulaunch e) e s 0x19 (BitVec.ofNat 64 (max (udGsrc b) 262144))) ∧
        ((e.x s).upos.toNat ≤ m → ¬(udGkind b = 0 ∧ 262144 < udGsrc b + 64 * m) →
          engRead s e.core spNear (udProg b) (4 * udPlen b) = .ok pb →
          (∀ k w, progBad (udNslot b) 0 [] [] (lanesOf pb) = some (k, w) →
            Traps (.ulaunch e) e s 0x21 (BitVec.ofNat 32 k ++ w)) ∧
          (progBad (udNslot b) 0 [] [] (lanesOf pb) = none → (e.x s).heldSt = [] →
            Queued (.ulaunch e) e s fun l => l.gauge = false ∧ l.desc = b ∧ l.descAddr = a ∧ l.prog = lanesOf pb ∧
              l.stepNo = ((e.x s).s e.rb).extractLsb' 0 32)))) := by
  obtain ⟨hmem, hctx, hg, hlaunches, hbegun⟩ := begun_view hi
  have hx := exec_ulaunch hi
  generalize beginUpdate (issued e s) e.core = v at *
  intro a
  have ha : (e.x v).a e.ra = a := hctx.view (·.a e.ra) fun _ _ _ => rfl
  have hupos : (e.x v).upos = (e.x s).upos := hctx.view (·.upos) fun _ _ _ => rfl
  have hread (sp : Spaces) (x : W64) (n : Nat) : engRead v e.core sp x n = engRead s e.core sp x n :=
    (hg.engRead ..).trans (engRead_issued_eq hi ..)
  have traps {cause : Nat} {val : W64} (hl : launchAt e v = e.trap v cause val) : Traps (.ulaunch e) e s cause val :=
    traps_after hmem hctx (hx.trans (congrArg Host.Outcome.next hl))
  refine ⟨fun hal => traps (launchAt_misaligned ha hal), fun hal hb => ?_⟩
  have hl := launchAt_read ha hal ((hread ..).trans hb)
  rw [hupos] at hl
  refine ⟨fun hno => traps (by rw [hl, hno]; rfl), fun m hok hm => ?_⟩
  rw [hok, launchSized_of (launchSize_begun hi hg hm)] at hl
  replace hl : launchAt e v = launchRange e a b m v := hl
  rw [launchRange, hupos] at hl
  refine ⟨fun hlt => traps (hl.trans (if_pos hlt)), fun hle hk hb => ?_, fun hle hk hpb => ?_⟩
  · exact traps ((hl.trans (if_neg (Nat.not_lt.2 hle))).trans (if_pos ⟨hk, hb⟩))
  · obtain ⟨hbad, hgood⟩ := launchProg_read (e := e) (a := a) ((hread ..).trans hpb)
    replace hl := (hl.trans (if_neg (Nat.not_lt.2 hle))).trans (if_neg hk)
    refine ⟨fun k w hw => traps (hl.trans (hbad k w hw)), fun hn hheld => ?_⟩
    replace hl := hl.trans (hgood hn ((hctx.view (·.heldSt) fun _ _ _ => rfl).trans hheld))
    refine queued_of (fun l n z hp => hp) hmem hctx hlaunches hbegun ?_ rfl (fun h => by cases h) ?_ (hx.trans (congrArg Host.Outcome.next hl))
    · exact ⟨rfl, rfl, rfl, rfl, congrArg (·.extractLsb' 0 32) (hctx.view (·.s e.rb) fun _ _ _ => rfl)⟩
    · rw [hupos]

/-! ### UGAUGE (R166, R174) -/

/-- What UGAUGE does once the update phase has begun. -/
def gaugeAt (e : Enc) (s : State) : State :=
  let i := ((e.x s).s e.ra).toNat
  let n := ((e.x s).s e.rb).toNat
  if n = 0 ∨ !(ugClip e.imm || ugTheo e.imm) then
    e.trap s 0x01 (encWord { cls := 0xA, op := 2, ra := true, rb := true, imm := 0xFFFFFF } e)
  else if wgaSize < i + n then e.trap s 0x19 (BitVec.ofNat 64 (firstBeyond i))
  else queueLaunch e
    { ctx := e.ctx, gauge := true, st := .engine, desc := [], prog := [], stepNo := 0, group := (e.x s).upos.toNat,
      first := i, count := n, imm := e.imm } s

theorem exec_ugauge (hi : Issues { cls := 0xA, op := 2, ra := true, rb := true, imm := 0xFFFFFF } e s) :
    exec (.ugauge e) s = .next (gaugeAt e (beginUpdate (issued e s) e.core)) := issue_next hi fun s => gaugeAt e (beginUpdate s e.core)

theorem ugauge_results (hi : Issues { cls := 0xA, op := 2, ra := true, rb := true, imm := 0xFFFFFF } e s) :
    let i := ((e.x s).s e.ra).toNat
    let n := ((e.x s).s e.rb).toNat
    (n = 0 ∨ (e.imm.getLsbD 12 = false ∧ e.imm.getLsbD 13 = false) →
      Traps (.ugauge e) e s 0x01 (0xA#4 ++ 2#6 ++ e.rd ++ e.ra ++ e.rb ++ e.md ++ e.imm)) ∧
    (n ≠ 0 → e.imm.getLsbD 12 = true ∨ e.imm.getLsbD 13 = true →
      (262144 < i + n → Traps (.ugauge e) e s 0x19 (BitVec.ofNat 64 (max i 262144))) ∧
      (i + n ≤ 262144 → Queued (.ugauge e) e s fun l => l.gauge = true ∧ l.first = i ∧ l.count = n ∧ l.imm = e.imm)) := by
  obtain ⟨hmem, hctx, hg, hlaunches, hbegun⟩ := begun_view hi
  have hx := exec_ugauge hi
  generalize beginUpdate (issued e s) e.core = v at *
  intro i n
  rw [gaugeAt, hctx.view (·.s e.ra) fun _ _ _ => rfl, hctx.view (·.s e.rb) fun _ _ _ => rfl,
    hctx.view (·.upos) fun _ _ _ => rfl] at hx
  have hset : (!(ugClip e.imm || ugTheo e.imm)) = true ↔ e.imm.getLsbD 12 = false ∧ e.imm.getLsbD 13 = false := by
    rw [Bool.not_eq_true', Bool.or_eq_false_iff]
    rfl
  refine ⟨fun hno => ?_, fun hn hset' => ⟨fun hgt => ?_, fun hle => ?_⟩⟩
  · exact traps_after hmem hctx (hx.trans (congrArg Host.Outcome.next (if_pos (hno.imp_right hset.2))))
  all_goals
    have hgo : ¬(n = 0 ∨ (!(ugClip e.imm || ugTheo e.imm)) = true) := by
      rintro (h0 | hoff)
      · exact hn h0
      · obtain ⟨h12, h13⟩ := hset.1 hoff
        rw [h12, h13] at hset'
        simp at hset'
    replace hx := hx.trans (congrArg Host.Outcome.next (if_neg hgo))
  · exact traps_after hmem hctx (hx.trans (congrArg Host.Outcome.next (if_pos hgt)))
  · refine queued_of (fun l n z hp => hp) hmem hctx hlaunches hbegun ?_ rfl (fun h => by cases h) rfl
      (hx.trans (congrArg Host.Outcome.next (if_neg (Nat.not_lt.2 hle))))
    exact ⟨rfl, rfl, rfl, rfl⟩

end

/-- Settles O32. -/
theorem updateLaunchesQueue : Obligations.UpdateLaunchesQueue := by
  intro e s b pb
  exact ⟨fun hi => ulaunch_results hi b pb, fun hi => ugauge_results hi⟩

end Sys2Proof.Machine
end

section
/-!
PROOFS. The update engine at work: launches start, commit their groups and complete (R152, R153, R155, R157, R159, R161,
R162, R175).
-/

namespace Sys2Proof.Machine

/-! ### A launch starts (R152) -/

/-- What a site becomes when its only launch is noted as able to start. -/
def ableOne (l : Launch) (z : LaunchSt) (u : BitVec 4) (x : Site) : Site :=
  { x.modCtx l.ctx fun y => { y with ustat := u } with launches := [{ l with since := 1, st := z }] }

theorem refreshLaunches_one {x : Site} {l : Launch} (hl : x.launches = [l]) (hst : l.st ≠ .running)
    (hable : launchAble x l = true) (hsince : l.since = 0) : ∃ z u, z ≠ .running ∧ refreshLaunches x = ableOne l z u x := by
  refine ⟨if l.gated && !x.gate.isOpen then .gate else .engine, ?_⟩
  refine ⟨BitVec.ofNat 4 (nb l.gauge 3 + (match (if l.gated && !x.gate.isOpen then LaunchSt.gate else .engine) with
    | .engine => 1 | .gate => 2 | .running => 3)), ?_, ?_⟩
  · split <;> exact fun h => by cases h
  · unfold refreshLaunches
    simp only [hl, List.zipIdx_cons, List.zipIdx_nil, List.map_cons, List.map_nil, List.foldl_cons, List.foldl_nil, hst,
      if_false, hable, hsince, if_true]
    rfl


theorem refreshLaunches_memory (x : Site) : (refreshLaunches x).near = x.near ∧ (refreshLaunches x).terr = x.terr := by
  obtain ⟨top, h⟩ := refreshLaunches_eq x
  rw [h, showLaunches_spares]
  exact ⟨rfl, rfl⟩

theorem ctx_refreshLaunches (x : Site) (k : Nat) : ∃ u, (refreshLaunches x).ctx k = { x.ctx k with ustat := u } := by
  obtain ⟨top, h⟩ := refreshLaunches_eq x
  obtain ⟨u, hu⟩ := ctx_showLaunches (x.launches.zipIdx.map (refreshed x top))
    { x with launches := x.launches.zipIdx.map (refreshed x top) } k
  exact ⟨u, by rw [h, hu]; rfl⟩

/-- The channel of a T copy is taken (R157). -/
def takeChan (c : Nat) (l : Launch) (s : State) : State :=
  if l.tout then modChan s c (tChan l.ctx) fun x => { x with tcopy := true } else s

theorem getCore_takeChan (c : Nat) (l : Launch) (s : State) : ∃ m, getCore (takeChan c l s) c = { getCore s c with chans := m } := by
  unfold takeChan
  split
  · exact ⟨_, getCore_modCore_same ..⟩
  · exact ⟨_, rfl⟩

theorem takeChan_memory (c : Nat) (l : Launch) (s : State) : SameMemory s (takeChan c l s) := by
  unfold takeChan
  split
  · exact sameMemory_modCore _ _ fun _ => ⟨rfl, rfl⟩
  · exact sameMemory_refl s

theorem exec_updateLaunchStart {c : Nat} {s : State} {l m : Launch} (hcr : coreRuns s c = true)
    (hm : (getCore (modCore s c refreshLaunches) c).launches = [m]) (hk : m.ctx = l.ctx) (hg : m.gauge = l.gauge)
    (hd : m.desc = l.desc) (ha : m.descAddr = l.descAddr) (hst : m.st ≠ .running) (hs : m.since ≠ 0) (hmark : markRuns s c = false) :
    exec (.updateLaunchStart c l.ctx) s = .next (modCtx
      (takeChan c l (modLaunch (modCore s c refreshLaunches) c l.ctx fun l => { l with st := .running })) c l.ctx fun y =>
        { y with ustat := BitVec.ofNat 4 (nb l.gauge 3 + 3), udesc := if l.gauge then y.udesc else l.descAddr }) := by
  have htout : m.tout = l.tout := by rw [Launch.tout, hg, hd]; rfl
  show execUpdateLaunchStart c l.ctx s = _
  rw [execUpdateLaunchStart]
  dsimp only
  rw [runningLaunch, hm, List.find?_cons_of_pos (by simpa using hk)]
  dsimp only
  rw [htout, hg, ha]
  refine if_neg ?_
  simp [hcr, hmark, hst, hs]

theorem launch_starts {c k : Nat} {s : State} {l : Launch} (hcr : coreRuns s c = true) (hl : (getCore s c).launches = [l])
    (hk : l.ctx = k) (hst : l.st ≠ .running) (hable : launchAble (getCore s c) l = true) (hsince : l.since = 0)
    (hmark : markRuns s c = false) :
    ∃ t, exec (.updateLaunchStart c k) s = .next t ∧ SameMemory s t ∧
      (getCore t c).launches = [{ l with st := .running, since := 1 }] ∧ (getCtx t c k).ustat = (if l.gauge then 0xB else 3) ∧
      (getCtx t c k).udesc = (if l.gauge then (getCtx s c k).udesc else l.descAddr) := by
  subst hk
  obtain ⟨z, u, hz, hr⟩ := refreshLaunches_one hl hst hable hsince
  have hm : getCore (modCore s c refreshLaunches) c = ableOne l z u (getCore s c) := by rw [getCore_modCore_same, hr]
  have hmem : SameMemory s (modCore s c refreshLaunches) := sameMemory_modCore s c refreshLaunches_memory
  have hx := exec_updateLaunchStart (l := l) (m := { l with since := 1, st := z }) hcr (by rw [hm]; rfl) rfl rfl rfl rfl hz
    Nat.one_ne_zero hmark
  generalize modCore s c refreshLaunches = s1 at *
  have hm2 : getCore (modLaunch s1 c l.ctx fun l => { l with st := .running }) c =
      { ableOne l z u (getCore s c) with launches := [{ l with st := .running, since := 1 }] } := by
    rw [modLaunch, getCore_modCore_same, hm]
    exact congrArg (fun ls => { ableOne l z u (getCore s c) with launches := ls })
      (congrArg (fun x => [x]) (if_pos rfl))
  have hmem2 : SameMemory s1 (modLaunch s1 c l.ctx fun l => { l with st := .running }) :=
    sameMemory_modCore _ _ fun _ => ⟨rfl, rfl⟩
  generalize modLaunch s1 c l.ctx (fun l => { l with st := .running }) = s2 at *
  obtain ⟨m, hm3⟩ := getCore_takeChan c l s2
  have hmem3 := takeChan_memory c l s2
  generalize takeChan c l s2 = s3 at *
  have hctx : (getCtx s3 c l.ctx).udesc = (getCtx s c l.ctx).udesc := by
    rw [getCtx, hm3, hm2]
    show (sget {} (smod {} (getCore s c).ctxs l.ctx fun y => { y with ustat := u }) l.ctx).udesc = _
    rw [sget_smod, if_pos rfl]
    rfl
  refine ⟨_, hx, ((hmem.trans hmem2).trans hmem3).trans (sameMemory_modCtx ..), ?_, ?_, ?_⟩
  · rw [modCtx, getCore_modCore_same, hm3, hm2]
    rfl
  · rw [getCtx_modCtx_same]
    cases l.gauge <;> rfl
  · rw [getCtx_modCtx_same, hctx]

/-! ### A group commits (R159) -/

theorem exec_updateGroupCommit {c : Nat} {s v : State} {l : Launch} {g : UGroup} (hcr : coreRuns s c = true)
    (hl : runningLaunch (getCore s c) = some l) (hgauge : l.gauge = false) (hg : nextGroup s c l = .ok (some g))
    (hover : lazyWgaOver l g = false) (hv : groupWork s c l g = .ok v) :
    exec (.updateGroupCommit c) s = .next (stepLaunch v c l) := by
  show execUpdateGroupCommit c s = _
  rw [execUpdateGroupCommit, hl]
  dsimp only
  rw [hcr, hgauge, hg]
  dsimp only
  rw [hover, hv]
  rfl

theorem stepLaunch_keeps (v : State) (c : Nat) (l : Launch) : SameMemory v (stepLaunch v c l) ∧
    (getCtx (stepLaunch v c l) c l.ctx).upos = BitVec.ofNat 32 (l.group + 1) ∧
    (getCore (stepLaunch v c l) c).theo = (getCore v c).theo ∧
    (getCore (stepLaunch v c l) c).launches =
      (getCore v c).launches.map fun y => if y.ctx = l.ctx then { y with group := l.group + 1 } else y := by
  have hm : getCore (modLaunch v c l.ctx fun y => { y with group := l.group + 1 }) c = { getCore v c with
      launches := (getCore v c).launches.map fun y => if y.ctx = l.ctx then { y with group := l.group + 1 } else y } :=
    getCore_modCore_same ..
  have hmem : SameMemory v (modLaunch v c l.ctx fun y => { y with group := l.group + 1 }) :=
    sameMemory_modCore _ _ fun _ => ⟨rfl, rfl⟩
  unfold stepLaunch
  generalize modLaunch v c l.ctx (fun y => { y with group := l.group + 1 }) = u at *
  refine ⟨hmem.trans (sameMemory_modCtx ..), by rw [getCtx_modCtx_same], ?_, ?_⟩
  · rw [modCtx, getCore_modCore_same]
    show (getCore u c).theo = _
    rw [hm]
  · rw [modCtx, getCore_modCore_same]
    show (getCore u c).launches = _
    rw [hm]

/-! ### The work of a plain dense group (R155, R161, R162) -/

/-- One instruction of an update program (R161). -/
def progStep (ops src : Nat → W32) (st : List W32 × List (Nat × W32)) (w : W32) : List W32 × List (Nat × W32) :=
  if uiOp w = 0x01 then (st.1.set (uiD w) (src (uiSlot w)), st.2)
  else if uiOp w = 0x02 then (st.1, st.2 ++ [(uiSlot w, selVal ops st.1 (uiA w))])
  else (st.1.set (uiD w) (uiResult (uiOp w) (selVal ops st.1 (uiA w)) (selVal ops st.1 (uiB w)) (selVal ops st.1 (uiC w))), st.2)

theorem runProg_eq (ops src : Nat → W32) (prog : List W32) :
    runProg ops src prog = (prog.foldl (progStep ops src) (List.replicate 16 0, [])).2 := rfl

theorem stores_foldl {ops src : Nat → W32} {prog : List W32} {n : Nat} (h : ∀ w ∈ prog, uiOp w = 2 → uiSlot w = n)
    (st : List W32 × List (Nat × W32)) (hst : ∀ o ∈ st.2, o.1 = n) : ∀ o ∈ (prog.foldl (progStep ops src) st).2, o.1 = n := by
  induction prog generalizing st with
  | nil => exact hst
  | cons w prog ih =>
    rw [List.foldl_cons]
    refine ih (fun w' hw' => h w' (List.mem_cons_of_mem _ hw')) _ ?_
    unfold progStep
    split
    · exact hst
    · split
      next hs =>
        intro o ho
        rcases List.mem_append.1 ho with ho | ho
        · exact hst o ho
        · rw [List.mem_singleton.1 ho]
          exact h w List.mem_cons_self hs
      · exact hst

/-- A program whose stores all go to one slot stores nothing elsewhere. -/
theorem storedIn_other {ops src : Nat → W32} {prog : List W32} {n k : Nat} (h : ∀ w ∈ prog, uiOp w = 2 → uiSlot w = n)
    (hk : k ≠ n) : storedIn (runProg ops src prog) k = none := by
  have hall := stores_foldl (ops := ops) (src := src) h (List.replicate 16 0, []) (by simp)
  rw [storedIn, runProg_eq, List.find?_eq_none.2 fun o ho => by simpa [hall o ho] using Ne.symm hk]
  rfl

theorem OnlyCaches.spotOf {s t : State} (h : OnlyCaches s t) (c : Nat) (sp : Spaces) (a : W64) (n : Nat) :
    Machine.spotOf t c sp a n = Machine.spotOf s c sp a n := by
  obtain ⟨p, q, rfl⟩ := h
  rfl

theorem onlyCaches_groupSeen (s : State) (c : Nat) (b : List Byte) (g : UGroup) : OnlyCaches s (groupSeen s c b g) := by
  have hall (ls : List (W64 × Nat)) (s : State) :
      OnlyCaches s (ls.foldl (fun (s : State) (a : W64 × Nat) => engSeen s c a.1 a.2) s) := by
    induction ls generalizing s with
    | nil => exact .refl s
    | cons a ls ih => exact (onlyCaches_engSeen s c a.1 a.2).trans (ih _)
  exact hall _ s

theorem uRead_ok {s : State} {c : Nat} {a : W64} {n : Nat} {bs : List Byte} (h : engRead s c spAll a n = .ok bs) :
    uRead s c a n = .ok bs := by
  rw [uRead, h]
  rfl

/-- What a program's loads read for element j of a group. -/
def groupSrc (slots : List (List W32)) (gr ws : List W32) (k d : W32) (j sl : Nat) : W32 :=
  if sl < 8 then (slots.getD sl []).getD j 0 else if sl = 8 then gr.getD j 0 else if sl = 9 then ws.getD j 0
  else if sl = 10 then k else d

/-- The factor that a launch's gradients take (R162). -/
def groupFactor (s : State) (c : Nat) (l : Launch) : W32 := if udGated l.desc then (getCore s c).gate.factor else f32one

/-- What the programs of a group store, element by element. -/
def groupOuts (s : State) (c : Nat) (l : Launch) (slots : List (List W32)) (gr ws : List W32) (d : W32) : List (List (Nat × W32)) :=
  (List.range 64).map fun j => runProg (fun i => sget 0 (getCore s c).operands (udOpset l.desc * 16 + i))
    (groupSrc slots gr ws (groupFactor s c l) d j) l.prog

/-- The final masters of a group. -/
def groupFin (outs : List (List (Nat × W32))) (ws : List W32) : List W32 :=
  List.zipWith (fun o w => (storedIn o 9).getD w) outs ws

/-- The writes of a group. -/
def groupWrites (l : Launch) (g : UGroup) (outs : List (List (Nat × W32))) (ws : List W32) (prior : List (List W32)) : List Wr :=
  (if outs.all fun o => (storedIn o 9).isSome then [(g.maddr, lanesBytes (groupFin outs ws))] else []) ++
    (List.range 8).flatMap (slotWrites l.desc g outs) ++
    (if udLazy l.desc && g.last then [(lazyRow l.desc g.row, leBytes 4 l.stepNo.toNat)] else []) ++
    (fCopy l.desc g (groupFin outs ws)).1 ++ (tCopy l.desc g prior (groupFin outs ws)).1

/-- The Theodolite's contributions of a group (R171). -/
def groupTheo (l : Launch) (gr fin ws : List W32) (m : SMap ThSum) : SMap ThSum :=
  let m := if udGmeas l.desc then theoAdd m (udTag l.desc) 1 (udDg l.desc) (gr.map ofF32) else m
  if udTheo l.desc then
    theoAdd (theoAdd m (udTag l.desc) 0 (udDw l.desc) (ws.map ofF32)) (udTag l.desc) 2 (udDu l.desc)
      (List.zipWith (fun w' w => (ofF32 w').add (ofF32 w).negate) fin ws)
  else m

/-- What a group does once its writes are made. -/
def groupAfter (c : Nat) (l : Launch) (g : UGroup) (out : List Wr) (fl : W32) (gr fin ws : List W32) (u : State) : State :=
  let s := raiseFlags (addEnds u c l.ctx (engEnds u c out)) c l.ctx fl
  let s := if udGclr l.desc then modWga s c fun w => w.clear (udGsrc l.desc + g.gidx) 64 else s
  modCore s c fun x => { x with theo := groupTheo l gr fin ws (getCore s c).theo }

/-- A group whose reads are served makes its writes, and then the rest of its effects. -/
theorem groupWork_reads {s : State} {c : Nat} {l : Launch} {g : UGroup} {wbs : List Byte} {slots prior : List (List W32)}
    {gr : List W32 × W32} {d : W32} (hw : uRead s c g.maddr 256 = .ok wbs)
    (hs : readSlots s c l.desc g (List.range (udNslot l.desc)) = .ok slots) (hgr : readGrad s c l.desc g = .ok gr)
    (hd : stepDiff s c l.desc l g = .ok d) (hp : readPrior s c l.desc g (priorRows l.desc g) = .ok prior) :
    let outs := groupOuts s c l slots gr.1 (lanesOf wbs) d
    let fin := groupFin outs (lanesOf wbs)
    let out := groupWrites l g outs (lanesOf wbs) prior
    groupWork s c l g = (uWrites (groupSeen s c l.desc g) c out).map
      (groupAfter c l g out (gr.2 ||| (fCopy l.desc g fin).2 ||| (tCopy l.desc g prior fin).2) gr.1 fin (lanesOf wbs)) := by
  intro outs fin out
  unfold groupWork
  simp only [hw, hs, hgr, hd, hp, bind, Except.bind]
  rfl

theorem groupAfter_memory (c : Nat) (l : Launch) (g : UGroup) (out : List Wr) (fl : W32) (gr fin ws : List W32) (u : State)
    (hclr : udGclr l.desc = false) : SameMemory u (groupAfter c l g out fl gr fin ws u) := by
  have h1 : SameMemory u (addEnds u c l.ctx (engEnds u c out)) := sameMemory_modCore _ _ fun _ => ⟨rfl, rfl⟩
  have h2 := (raiseFlags_keeps (addEnds u c l.ctx (engEnds u c out)) c l.ctx fl).1
  unfold groupAfter
  rw [hclr]
  exact (h1.trans h2).trans (sameMemory_modCore _ _ fun _ => ⟨rfl, rfl⟩)

theorem groupFin_range {outs : Nat → List (Nat × W32)} {v : Nat → W32} {n : Nat} {ws : List W32} (hw : ws.length = n)
    (h : ∀ j, j < n → storedIn (outs j) 9 = some (v j)) : groupFin ((List.range n).map outs) ws = (List.range n).map v := by
  refine List.ext_getElem (by simp [groupFin, hw]) fun j h1 h2 => ?_
  have hj : j < n := by simpa using h2
  simp [groupFin, h j hj]

/-- The writes of a group of a plain dense launch: its masters only. -/
theorem groupWrites_plain {l : Launch} {g : UGroup} {outs : Nat → List (Nat × W32)} {v : Nat → W32} {ws : List W32}
    {prior : List (List W32)} (hlazy : udLazy l.desc = false) (hfout : udFout l.desc = false) (htout : udTout l.desc = false)
    (hother : ∀ j k, k ≠ 9 → storedIn (outs j) k = none) (hw : ws.length = 64)
    (h : ∀ j, j < 64 → storedIn (outs j) 9 = some (v j)) :
    groupWrites l g ((List.range 64).map outs) ws prior = [(g.maddr, lanesBytes ((List.range 64).map v))] := by
  have hall : (((List.range 64).map outs).all fun o => (storedIn o 9).isSome) = true := by
    rw [List.all_map, List.all_eq_true]
    intro j hj
    simp [h j (List.mem_range.1 hj)]
  have hslots : (List.range 8).flatMap (slotWrites l.desc g ((List.range 64).map outs)) = [] := by
    refine List.flatMap_eq_nil_iff.2 fun k hk => ?_
    have hk9 : k ≠ 9 := by have := List.mem_range.1 hk; omega
    have hno : ((List.range 64).map outs).filterMap (fun o => storedIn o k) = [] := by
      rw [List.filterMap_eq_nil_iff]
      intro o ho
      obtain ⟨j, -, rfl⟩ := List.mem_map.1 ho
      exact hother j k hk9
    rw [slotWrites, hno]
    rfl
  rw [groupWrites, hall, hslots, hlazy, fCopy, hfout, tCopy, htout, groupFin_range hw h]
  rfl

theorem groupSrc_plain {gbs wbs : List Byte} (hg : gbs.length = 256) (hw : wbs.length = 256) (k : W32) {j : Nat} (hj : j < 64) :
    groupSrc [] (lanesOf gbs) (lanesOf wbs) k f32one j = fun sl => if sl < 8 then 0
      else if sl = 8 then BitVec.ofNat 32 (leNat ((gbs.drop (4 * j)).take 4))
      else if sl = 9 then BitVec.ofNat 32 (leNat ((wbs.drop (4 * j)).take 4))
      else if sl = 10 then k else 0x3F800000 := by
  funext sl
  have hlane {bs : List Byte} (hb : bs.length = 256) : (lanesOf bs).getD j 0 = BitVec.ofNat 32 (leNat ((bs.drop (4 * j)).take 4)) := by
    rw [lanesOf_eq hb]
    simp [hj]
  rw [groupSrc, hlane hg, hlane hw]
  rfl

theorem group_commits {c off : Nat} {s : State} {l : Launch} {g : UGroup} {wbs gbs : List Byte} {v : Nat → W32}
    (hlazy : udLazy l.desc = false) (hslots : udNslot l.desc = 0) (hkind : udGkind l.desc = 1) (hclr : udGclr l.desc = false)
    (hfout : udFout l.desc = false) (htout : udTout l.desc = false) (hprog : ∀ w ∈ l.prog, uiOp w = 2 → uiSlot w = 9)
    (hwbs : engRead s c spAll g.maddr 256 = .ok wbs)
    (hgbs : engRead s c spAll (BitVec.ofNat 64 (udGsrc l.desc + 4 * g.gidx)) 256 = .ok gbs)
    (hspot : spotOf s c spAll g.maddr 256 = some (.near off))
    (hv : ∀ j, j < 64 → storedIn (runProg (fun i => sget 0 (getCore s c).operands (udOpset l.desc * 16 + i))
        (fun sl => if sl < 8 then 0
          else if sl = 8 then BitVec.ofNat 32 (leNat ((gbs.drop (4 * j)).take 4))
          else if sl = 9 then BitVec.ofNat 32 (leNat ((wbs.drop (4 * j)).take 4))
          else if sl = 10 then (if udGated l.desc then (getCore s c).gate.factor else 0x3F800000) else 0x3F800000) l.prog) 9 =
      some (v j)) :
    ∃ t, groupWork s c l g = .ok t ∧ StoredAt c s t (.near off) ((List.range 64).flatMap fun j => leBytes 4 (v j).toNat) := by
  have hslot : readSlots s c l.desc g (List.range (udNslot l.desc)) = .ok [] := by rw [hslots]; rfl
  have hgrad : readGrad s c l.desc g = .ok (lanesOf gbs, 0) := by
    rw [readGrad, if_neg (by rw [hkind]; decide), if_pos hkind, uRead_ok hgbs]
    rfl
  have hdiff : stepDiff s c l.desc l g = .ok f32one := by
    rw [stepDiff, hlazy]
    rfl
  have hprior : readPrior s c l.desc g (priorRows l.desc g) = .ok [] := by
    rw [priorRows, htout]
    rfl
  have hwork := groupWork_reads (uRead_ok hwbs) hslot hgrad hdiff hprior
  have hw := length_of_engRead hwbs
  have hg := length_of_engRead hgbs
  have hwlen : (lanesOf wbs).length = 64 := by rw [lanesOf_eq hw]; simp
  have hwrites := groupWrites_plain (g := g) (prior := []) hlazy hfout htout
    (fun j k hk => storedIn_other hprog hk) hwlen fun j hj => (by
      rw [groupSrc_plain hg hw _ hj]
      exact hv j hj : storedIn (runProg _ (groupSrc [] (lanesOf gbs) (lanesOf wbs) (groupFactor s c l) f32one j) l.prog) 9 = _)
  rw [groupOuts] at hwork
  dsimp only at hwork
  rw [hwrites] at hwork
  have hbytes : lanesBytes ((List.range 64).map v) = (List.range 64).flatMap fun j => leBytes 4 (v j).toNat := by
    rw [lanesBytes, List.flatMap_map]
  have hlen : ((List.range 64).flatMap fun j => leBytes 4 (v j).toNat).length = 256 := by
    rw [length_flatMap_leBytes, List.length_range]
  rw [hbytes] at hwork
  generalize ((List.range 64).flatMap fun j => leBytes 4 (v j).toNat) = bs at *
  have hseen := onlyCaches_groupSeen s c l.desc g
  generalize groupSeen s c l.desc g = u at *
  have hput : uWrites u c [(g.maddr, bs)] = .ok (localWrite u c 5 g.maddr (.near off) bs) := by
    rw [uWrites, engWrite_local (x := .near off) (by rw [hlen, hseen.spotOf]; exact hspot) rfl]
    rfl
  rw [hput] at hwork
  refine ⟨_, hwork, StoredAt.trans_same ?_ (groupAfter_memory _ _ _ _ _ _ _ _ _ hclr)⟩
  refine hseen.memory.then_stored ?_ (localWrite_stored rfl)
  exact (hseen.placed c).1

/-! ### A launch completes (R152, R153, R175, R258) -/

theorem dropLaunch_keeps (s : State) (c : Nat) (l : Launch) : SameMemory s (dropLaunch s c l) ∧
    (∃ m, getCore (dropLaunch s c l) c = { getCore s c with
      launches := (getCore s c).launches.filter fun y => y.ctx ≠ l.ctx, chans := m }) ∧
    (dropLaunch s c l).mesh = s.mesh ∧ csite (dropLaunch s c l) c = csite s c ∧
    coreParcelNum (dropLaunch s c l) c = coreParcelNum s c := by
  have hm : getCore (modCore s c fun x => { x with launches := x.launches.filter fun y => y.ctx ≠ l.ctx }) c =
      { getCore s c with launches := (getCore s c).launches.filter fun y => y.ctx ≠ l.ctx } := getCore_modCore_same ..
  have hmem : SameMemory s (modCore s c fun x => { x with launches := x.launches.filter fun y => y.ctx ≠ l.ctx }) :=
    sameMemory_modCore _ _ fun _ => ⟨rfl, rfl⟩
  unfold dropLaunch
  dsimp only
  split
  · refine ⟨hmem.trans (sameMemory_modCore _ _ fun _ => ⟨rfl, rfl⟩), ?_, rfl, rfl, rfl⟩
    rw [modChan, getCore_modCore_same, hm]
    exact ⟨_, rfl⟩
  · exact ⟨hmem, ⟨_, hm⟩, rfl, rfl, rfl⟩

/-- The tail of a launch that completes. -/
def launchTail (s : State) (c : Nat) (l : Launch) : State :=
  match (if l.gauge then none else udTail l.desc) with
  | some b => tailTo s c l.ends b
  | none => s

theorem launchTail_eq (s : State) (c : Nat) (l : Launch) : launchTail s c l = { s with mesh := (launchTail s c l).mesh } := by
  unfold launchTail
  split
  · rw [tailTo_eq]
  · rfl

theorem launchTail_arrives {s : State} {c : Nat} {l : Launch}
    (h : l.ends.length ≠ 1 ∨ l.ends = [csite s c] ∨ l.gauge = true) :
    (launchTail s c l).mesh = { s.mesh with msgs := s.mesh.msgs ++
      (match (if l.gauge then none else udTail l.desc) with
       | none => []
       | some b => [{ core := c, site := csite s c, ctx := 0, beacon := b, op := .add 1 }]) } := by
  unfold launchTail
  cases hb : (if l.gauge then none else udTail l.desc) with
  | none =>
    dsimp only
    rw [List.append_nil]
  | some b =>
    have hends : l.ends.length ≠ 1 ∨ l.ends = [csite s c] := by
      rcases h with h | h | h
      · exact .inl h
      · exact .inr h
      · rw [h] at hb; cases hb
    have hno : (l.ends.filter fun _ => l.ends.length = 1 && l.ends ≠ [csite s c]) = [] :=
      List.filter_eq_nil_iff.2 fun _ _ => by rcases hends with h | h <;> simp [h]
    dsimp only
    rw [tailTo_eq, hno]

theorem launchTail_leaves {s : State} {c d b : Nat} {l : Launch} (hd : l.ends = [d]) (hne : d ≠ csite s c) (hg : l.gauge = false)
    (hb : udTail l.desc = some b) :
    (launchTail s c l).mesh = { s.mesh with born := s.mesh.born + 1, net := s.mesh.net ++
      [{ src := csite s c, dst := d, vc := 0, kind := .tail, parcel := coreParcelNum s c, pv := true,
         addr := BitVec.ofNat 42 b, pos := csite s c, what := .tail 1, born := s.mesh.born }] } := by
  unfold launchTail
  rw [hg, hb, hd]
  show (tailTo s c [d] b).mesh = _
  rw [tailTo, if_neg hne]
  rfl

theorem exec_updateLaunchComplete {c : Nat} {s : State} {l : Launch} (hcr : coreRuns s c = true)
    (hl : runningLaunch (getCore s c) = some l) (hover : launchOver s c l = true) (hinj : injBlocked s c = false)
    (hwait : (getCtx (launchTail (dropLaunch s c l) c l) c l.ctx).wait = .launch) :
    exec (.updateLaunchComplete c) s = .next (wake (retire (modCtx (launchTail (dropLaunch s c l) c l) c l.ctx fun y =>
      { y with upos := 0, ustat := 0, uwga := false }) c l.ctx) c) := by
  show execUpdateLaunchComplete c s = _
  rw [execUpdateLaunchComplete, hl]
  dsimp only
  rw [if_neg (by rw [hcr, hover, hinj]; decide)]
  have hw : (getCtx (modCtx (launchTail (dropLaunch s c l) c l) c l.ctx fun y =>
      { y with upos := 0, ustat := 0, uwga := false }) c l.ctx).wait = .launch := by
    rw [getCtx_modCtx_same]
    exact hwait
  exact congrArg (fun t => Host.Outcome.next (wake t c)) (if_pos hw)

theorem launch_completes {c : Nat} {s : State} {l : Launch} (hcr : coreRuns s c = true)
    (hl : runningLaunch (getCore s c) = some l) (hover : launchOver s c l = true) (hinj : injBlocked s c = false)
    (hwait : (getCtx s c l.ctx).wait = .launch) (hst : (getCtx s c l.ctx).st = .waiting) :
    ∃ t, exec (.updateLaunchComplete c) s = .next (wake t c) ∧ SameMemory s t ∧
      (getCore t c).launches = (getCore s c).launches.filter (fun y => y.ctx ≠ l.ctx) ∧
      getCtx t c l.ctx = { getCtx s c l.ctx with
        upos := 0, ustat := 0, uwga := false, pc := (getCtx s c l.ctx).pc + 8, wait := .none, st := .ready } ∧
      t.mesh = (launchTail (dropLaunch s c l) c l).mesh := by
  obtain ⟨hmem, ⟨m, hcore⟩, -, -, -⟩ := dropLaunch_keeps s c l
  have htail := launchTail_eq (dropLaunch s c l) c l
  have hcore' : getCore (launchTail (dropLaunch s c l) c l) c = getCore (dropLaunch s c l) c := by rw [htail]; rfl
  have hmem' : SameMemory (dropLaunch s c l) (launchTail (dropLaunch s c l) c l) := by rw [htail]; exact sameMemory_of rfl rfl
  have hctx : getCtx (launchTail (dropLaunch s c l) c l) c l.ctx = getCtx s c l.ctx := by
    rw [getCtx, hcore', hcore]
    rfl
  have hx := exec_updateLaunchComplete hcr hl hover hinj (by rw [hctx, hwait])
  have hlaunches := hcore'.trans hcore
  generalize launchTail (dropLaunch s c l) c l = u at *
  refine ⟨_, hx, ((hmem.trans hmem').trans (sameMemory_modCtx ..)).trans (sameMemory_modCtx ..), ?_, ?_, rfl⟩
  · rw [retire, modCtx, getCore_modCore_same, modCtx, getCore_modCore_same]
    show (getCore u c).launches = _
    rw [hlaunches]
  · rw [retire, getCtx_modCtx_same, getCtx_modCtx_same, hctx]
    dsimp only
    rw [if_pos (.inl hst)]

/-- Settles O33. -/
theorem updateGroupsCommit : Obligations.UpdateGroupsCommit := by
  refine ⟨fun c k s l hcr hl hk hst hable hsince hmark => launch_starts hcr hl hk hst hable hsince hmark, ?_, ?_, ?_⟩
  · intro c s v l g hcr hl hgauge hg hover hv
    exact ⟨_, exec_updateGroupCommit hcr hl hgauge hg hover hv, stepLaunch_keeps v c l⟩
  · intro c s l g wbs gbs v off b hlazy hslots hkind hclr _ _ hfout htout hprog hwbs hgbs hspot hv
    exact group_commits hlazy hslots hkind hclr hfout htout hprog hwbs hgbs hspot hv
  · intro c s l hcr hl hover hinj hwait hst
    obtain ⟨t, hx, hmem, hlaunches, hctx, hmesh⟩ := launch_completes hcr hl hover hinj hwait hst
    obtain ⟨-, -, hm, hsite, hpar⟩ := dropLaunch_keeps s c l
    refine ⟨t, hx, hmem, hlaunches, hctx, fun h => ?_, fun d b hd hne hg hb => ?_⟩
    · rw [hmesh, launchTail_arrives (by rwa [hsite]), hm, hsite] <;> rfl
    · rw [hmesh, launchTail_leaves hd (by rwa [hsite]) hg hb, hm, hsite, hpar]

end Sys2Proof.Machine
end

section
/-!
PROOFS. The clip norm and the norm gate (R166 to R169).
-/

namespace Sys2Proof.Machine

theorem CtxIs.of_gate {e : Enc} {u t : State} {x : Ctx} {g : NormGate} (h : CtxIs e u x)
    (hc : getCore t e.core = { getCore u e.core with gate := g }) : CtxIs e t x := by
  have hx : e.x t = e.x u := by
    rw [Enc.x, getCtx, hc]
    rfl
  rw [CtxIs, hx]
  exact h

section
variable {e : Enc} {s : State}

/-! ### NGSEND (R167) -/

/-- The clip sum that leaves. -/
def clipFlit (s : State) (c target : Nat) : Flit :=
  { src := csite s c, dst := csite s target, vc := 2, kind := .daf96Sum, parcel := coreParcelNum s c, pv := true, addr := 0,
    datum := (getCore s c).gate.cfg.extractLsb' 0 10, count := 1, payload := leBytes 12 (getCore s c).gate.clipss.toNat,
    pos := csite s c, what := .ngacc }

/-- CLIPSS has left with its tail. -/
def clipSent (s : State) (c target b : Nat) : State :=
  modCore ([clipFlit s c target, tailFlit s c target b].foldl inject s) c fun x =>
    { x with gate := { x.gate with clipss := 0 } }

theorem sendSums_one (s : State) (c target : Nat) :
    sendSums s c target ((getCore s c).gate.cfg.extractLsb' 0 10) .ngacc 0 [(getCore s c).gate.clipss] =
      inject s (clipFlit s c target) := by
  have hone : sumFlits s c target ((getCore s c).gate.cfg.extractLsb' 0 10) .ngacc 1 0 [(getCore s c).gate.clipss] =
      [clipFlit s c target] := by
    simp [sumFlits, clipFlit, dafBytes]
  rw [sendSums, List.length_singleton, hone]
  rfl

theorem mesh_two (u : State) (f g : Flit) (c : Nat) (y : Site → Site) : (modCore ([f, g].foldl inject u) c y).mesh =
    { u.mesh with born := u.mesh.born + 2, net := u.mesh.net ++
      [{ f with born := u.mesh.born }, { g with born := u.mesh.born + 1 }] } := by
  show ([f, g].foldl inject u).mesh = _
  rw [foldl_inject]
  rfl

theorem attNgsend_eq (e : Enc) (u : State) : attNgsend e u =
    if 768 ≤ ((e.x u).s e.ra).toNat then some (e.trap u 0x03 ((e.x u).s e.ra))
    else if !canInject u e.core 2 then none
    else some (retire (clipSent u e.core ((e.x u).s e.ra).toNat (e.imm.extractLsb' 0 13).toNat) e.core e.ctx) := by
  rw [attNgsend]
  dsimp only
  rw [sendSums_one]
  rfl

theorem exec_ngsend (hi : Issues { cls := 0xA, op := 3, ra := true, imm := 0x1FFF } e s) :
    exec (.ngsend e) s = .next (orWait (attNgsend e) true .ngsend e (issued e s)) := issue_next hi _

theorem clipFlit_issued {h : Shape} (hi : Issues h e s) (target : Nat) :
    clipFlit (issued e s) e.core target = clipFlit s e.core target := by
  unfold clipFlit
  rw [gate_issued hi, csite_issued hi, csite_issued hi, coreParcelNum_issued hi]

theorem tailFlit_issued {h : Shape} (hi : Issues h e s) (target b : Nat) :
    tailFlit (issued e s) e.core target b = tailFlit s e.core target b := by
  unfold tailFlit
  rw [csite_issued hi, csite_issued hi, coreParcelNum_issued hi]

theorem ngsend_sends (hi : Issues { cls := 0xA, op := 3, ra := true, imm := 0x1FFF } e s)
    (hlt : ((e.x s).s e.ra).toNat < 768) (hinj : canInject s e.core 2 = true) :
    ∃ t, exec (.ngsend e) s = .next t ∧ SameMemory s t ∧ CtxIs e t { e.x s with pc := (e.x s).pc + 8 } ∧
      (getCore t e.core).gate = { (getCore s e.core).gate with clipss := 0 } ∧
      t.mesh = { s.mesh with born := s.mesh.born + 2, net := s.mesh.net ++
        [{ clipFlit s e.core ((e.x s).s e.ra).toNat with born := s.mesh.born },
         { tailFlit s e.core ((e.x s).s e.ra).toNat (e.imm.extractLsb' 0 13).toNat with born := s.mesh.born + 1 }] } := by
  have hx := exec_ngsend hi
  rw [orWait, attNgsend_eq, s_issued hi, canInject_issued hi, hinj, if_neg (Nat.not_le.2 hlt)] at hx
  have hcore : getCore (clipSent (issued e s) e.core ((e.x s).s e.ra).toNat (e.imm.extractLsb' 0 13).toNat) e.core =
      { getCore (issued e s) e.core with gate := { (getCore (issued e s) e.core).gate with clipss := 0 } } := getCore_modCore_same ..
  have hmem : SameMemory (issued e s) (clipSent (issued e s) e.core ((e.x s).s e.ra).toNat (e.imm.extractLsb' 0 13).toNat) :=
    SameMemory.trans (by rw [foldl_inject]; exact sameMemory_of rfl rfl) (sameMemory_modCore _ _ fun _ => ⟨rfl, rfl⟩)
  have hmesh : (clipSent (issued e s) e.core ((e.x s).s e.ra).toNat (e.imm.extractLsb' 0 13).toNat).mesh =
      { (issued e s).mesh with born := (issued e s).mesh.born + 2, net := (issued e s).mesh.net ++
        [{ clipFlit (issued e s) e.core ((e.x s).s e.ra).toNat with born := (issued e s).mesh.born },
         { tailFlit (issued e s) e.core ((e.x s).s e.ra).toNat (e.imm.extractLsb' 0 13).toNat with
            born := (issued e s).mesh.born + 1 }] } := mesh_two ..
  rw [clipFlit_issued hi, tailFlit_issued hi, mesh_issued hi] at hmesh
  rw [gate_issued hi] at hcore
  generalize clipSent (issued e s) e.core ((e.x s).s e.ra).toNat (e.imm.extractLsb' 0 13).toNat = u at *
  have hctx : CtxIs e u (e.x s) := (issued_ctx hi).of_gate hcore
  obtain ⟨hm, hc⟩ := retire_after hi ((acted_issued hi).memory.trans hmem) hctx
  refine ⟨retire u e.core e.ctx, hx, hm, hc, ?_, hmesh⟩
  rw [retire, modCtx, getCore_modCore_same, hcore]
  rfl

/-! ### NGCAST (R168) -/

/-- The flits of a cast. -/
def castFlits (s : State) (c : Nat) : List Flit :=
  (mcLegs (csite s c) (castEntry s (coreParcelNum s c))).map (castFlit s c (getCore s c).gate)

theorem castFlits_issued {h : Shape} (hi : Issues h e s) : castFlits (issued e s) e.core = castFlits s e.core := by
  have hpcl (p : Nat) : castEntry (issued e s) p = castEntry s p := by rw [issued_with hi]; rfl
  have hflit (g : NormGate) : castFlit (issued e s) e.core g = castFlit s e.core g := by
    funext l
    unfold castFlit
    rw [csite_issued hi, coreParcelNum_issued hi, hpcl]
  unfold castFlits
  rw [gate_issued hi, csite_issued hi, coreParcelNum_issued hi, hpcl, hflit]

theorem attNgcast_eq (e : Enc) (u : State) : attNgcast e u =
    if !canInject u e.core 3 then none else some (retire ((castFlits u e.core).foldl inject u) e.core e.ctx) := by
  rw [castFlits, List.foldl_map]
  rfl

theorem ngcast_sends (hi : Issues { cls := 0xA, op := 4 } e s) (hinj : canInject s e.core 3 = true) :
    ∃ t, exec (.ngcast e) s = .next t ∧ SameMemory s t ∧ CtxIs e t { e.x s with pc := (e.x s).pc + 8 } ∧
      t.mesh = { s.mesh with born := s.mesh.born + (castFlits s e.core).length, net := s.mesh.net ++
        (castFlits s e.core).zipIdx.map fun x => { x.1 with born := s.mesh.born + x.2 } } := by
  have hx : exec (.ngcast e) s = .next (orWait (attNgcast e) true .ngcast e (issued e s)) := issue_next hi _
  rw [orWait, attNgcast_eq, canInject_issued hi, hinj, castFlits_issued hi] at hx
  generalize castFlits s e.core = fs at *
  have hall := foldl_inject fs (issued e s)
  rw [mesh_issued hi] at hall
  have hmesh := congrArg State.mesh hall
  have hmem : SameMemory (issued e s) (fs.foldl inject (issued e s)) := by rw [hall]; exact sameMemory_of rfl rfl
  have hcore : getCore (fs.foldl inject (issued e s)) e.core = { getCore (issued e s) e.core with } := by rw [hall]; rfl
  generalize fs.foldl inject (issued e s) = u at *
  have hctx : CtxIs e u (e.x s) := (issued_ctx hi).of_gate (g := (getCore (issued e s) e.core).gate) hcore
  obtain ⟨hm, hc⟩ := retire_after hi ((acted_issued hi).memory.trans hmem) hctx
  exact ⟨retire u e.core e.ctx, hx, hm, hc, hmesh⟩

/-! ### NGWAIT (R169) -/

theorem ngwait_results (hi : Issues { cls := 0xA, op := 5, rd := true } e s) :
    ((getCore s e.core).gate.isOpen = true → WritesS (.ngwait e) e s ((getCore s e.core).gate.factor.zeroExtend 64)) ∧
    ((getCore s e.core).gate.isOpen = false → Waits (.ngwait e) e s true (.op .ngwait e)) := by
  have hx : exec (.ngwait e) s = .next (orWait (attNgwait e) true .ngwait e (issued e s)) := issue_next hi _
  rw [orWait, attNgwait, gate_issued hi] at hx
  refine ⟨fun hopen => writesS_of hi ?_, fun hclosed => waits_of_issued hi ?_⟩
  · rw [hx, hopen]
    rfl
  · rw [hx, hclosed]
    rfl

end

/-! ### Arrivals at the gate (R167, R168) -/

/-- A clip sum is added, or discarded on a differing datum with DMIS (R167). -/
def NormGate.addSum (g : NormGate) (d : Datum) (v : W96) : NormGate :=
  if d = g.cfg.extractLsb' 0 10 then { g with ngacc := g.ngacc + v } else { g with dmis := true }

theorem gate_modGate (s : State) (c : Nat) (g : NormGate → NormGate) :
    (getCore (modCore s c fun x => { x with gate := g x.gate }) c).gate = g (getCore s c).gate := by
  rw [getCore_modCore_same]

section
variable {c n : Nat} {s : State} {f : Flit} (hcr : coreRuns s c = true) (hf : s.mesh.net[n]? = some f)
include hcr hf

theorem exec_ngaccArrival (hn : arrivedFor s c .daf96Sum .ngacc = some n) : exec (.ngaccArrival c) s =
    .next (modCore (dropFlit s n) c fun x =>
      { x with gate := x.gate.addSum f.datum (BitVec.ofNat 96 (leNat (f.payload.take 12))) }) := by
  show execNgaccArrival c s = _
  rw [execNgaccArrival, hn]
  dsimp only
  rw [hf]
  exact if_neg (by rw [hcr]; decide)

theorem exec_gateValueArrival (hn : arrivedFor s c .mcastWrite .gate = some n) : exec (.gateValueArrival c) s =
    .next (wake (modCore (dropFlit s n) c fun x =>
      { x with gate := x.gate.receive f.datum (BitVec.ofNat 96 (leNat (f.payload.take 12))) }) c) := by
  show execGateValueArrival c s = _
  rw [execGateValueArrival, hn]
  dsimp only
  rw [hf]
  exact if_neg (by rw [hcr]; decide)

end

theorem receive_open {g : NormGate} (h : g.isOpen = true) (d : Datum) (v : W96) : g.receive d v = { g with dup := true } := if_pos h

theorem receive_closed {g : NormGate} (h : g.isOpen = false) (d : Datum) (v : W96) :
    let sum := fmtFP32.round (intVal v.toInt (d.toInt - 60))
    let norm := fsqrt (BitVec.ofNat 32 sum)
    let cmax : W32 := g.cfg.extractLsb' 32 32
    g.receive d v = { g with
      isOpen := true, norm := norm, ovf := g.ovf || decide (sum % 2147483648 = 0x7F800000),
      factor := if fnan norm = false ∧ fnan cmax = false ∧ flt cmax norm = false then 0x3F800000 else fdiv cmax norm } := by
  intro sum norm cmax
  have hovf : decide ((ofDaf fmtFP32 d.toInt v).2 ≠ 0) = decide (sum % 2147483648 = 0x7F800000) := by
    rw [ofDaf]
    dsimp only
    refine decide_eq_decide.2 ?_
    show (if sum % 2147483648 = 0x7F800000 then fOF else 0) ≠ (0 : W32) ↔ _
    split
    next h => exact ⟨fun _ => h, fun _ => by decide⟩
    next h => exact ⟨fun hn => absurd rfl hn, fun hn => absurd hn h⟩
  have hfac : (!fnan norm && !fnan cmax && !flt cmax norm) = true ↔ fnan norm = false ∧ fnan cmax = false ∧ flt cmax norm = false := by
    simp [and_assoc]
  rw [NormGate.receive, if_neg (by rw [h]; decide)]
  dsimp only
  rw [hovf]
  simp only [← hfac]
  rfl

/-! ### Gauges (R166) -/

/-- The square of an element under the gate's datum, as a gauge adds it. -/
def gaugeSquare (x : Site) (v : W96) : W96 :=
  let z := ofF32 (BitVec.ofNat 32 (fmtFP32.round (intVal v.toInt (x.wga.datum.toInt - 60))))
  (toDaf (x.gate.cfg.extractLsb' 0 10 : Datum).toInt (z.mul z)).1

/-- The squares that a gauge's next elements add, each with its flags. -/
def gaugeSquares (x : Site) (l : Launch) : List (W96 × W32) :=
  if ugClip l.imm then
    (((x.wga.els (l.first + 64 * l.group) (min 64 (l.count - 64 * l.group))).map fun v =>
      ofDaf fmtFP32 x.wga.datum.toInt v).map fun r => ofF32 (BitVec.ofNat 32 r.1)).map fun v =>
        toDaf (x.gate.cfg.extractLsb' 0 10 : Datum).toInt (v.mul v)
  else []

theorem gaugeSquares_foldl (x : Site) (l : Launch) (z : W96) (h : l.imm.getLsbD 12 = true) :
    (gaugeSquares x l).foldl (fun a q => a + q.1) z = (List.range (min 64 (l.count - 64 * l.group))).foldl (fun z j =>
      z + gaugeSquare x (x.wga.el (l.first + 64 * l.group + j))) z := by
  rw [gaugeSquares, if_pos (show ugClip l.imm = true from h), List.foldl_map, List.foldl_map, List.foldl_map, Wga.els, List.foldl_map]
  rfl

theorem gaugeWork_eq (s : State) (c : Nat) (l : Launch) : ∃ (fl : W32) (theo : Site → SMap ThSum), gaugeWork s c l =
    modCore (raiseFlags s c l.ctx fl) c fun x =>
      { x with gate := { x.gate with clipss := (gaugeSquares (getCore s c) l).foldl (fun a q => a + q.1) x.gate.clipss },
               theo := theo x } :=
  ⟨_, fun x => if ugTheo l.imm then theoAdd x.theo (ugTag l.imm) 1 (ugDg l.imm) _ else x.theo, rfl⟩

theorem gaugeWork_keeps (s : State) (c : Nat) (l : Launch) : SameMemory s (gaugeWork s c l) ∧
    (getCore (gaugeWork s c l) c).wga = (getCore s c).wga ∧
    (getCore (gaugeWork s c l) c).gate = { (getCore s c).gate with
      clipss := (gaugeSquares (getCore s c) l).foldl (fun a q => a + q.1) (getCore s c).gate.clipss } := by
  obtain ⟨fl, theo, h⟩ := gaugeWork_eq s c l
  have hcore : getCore (raiseFlags s c l.ctx fl) c = (getCore s c).modCtx l.ctx fun y => { y with nflags := y.nflags ||| fl } :=
    getCore_modCore_same ..
  have hmem := (raiseFlags_keeps s c l.ctx fl).1
  rw [h]
  generalize raiseFlags s c l.ctx fl = u at *
  refine ⟨hmem.trans (sameMemory_modCore _ _ fun _ => ⟨rfl, rfl⟩), ?_, ?_⟩ <;> rw [getCore_modCore_same, hcore] <;> rfl

theorem gauge_commits {c : Nat} {s : State} {l : Launch} (hcr : coreRuns s c = true) (hl : runningLaunch (getCore s c) = some l)
    (hg : l.gauge = true) (hlt : l.group < (l.count + 63) / 64) :
    exec (.updateGroupCommit c) s = .next (stepLaunch (gaugeWork s c l) c l) := by
  show execUpdateGroupCommit c s = _
  rw [execUpdateGroupCommit, hl]
  dsimp only
  rw [hcr, hg]
  exact if_pos hlt

theorem stepLaunch_core (v : State) (c : Nat) (l : Launch) : (getCore (stepLaunch v c l) c).wga = (getCore v c).wga ∧
    (getCore (stepLaunch v c l) c).gate = (getCore v c).gate := by
  have hm : getCore (modLaunch v c l.ctx fun y => { y with group := l.group + 1 }) c = { getCore v c with
      launches := (getCore v c).launches.map fun y => if y.ctx = l.ctx then { y with group := l.group + 1 } else y } :=
    getCore_modCore_same ..
  unfold stepLaunch
  generalize modLaunch v c l.ctx (fun y => { y with group := l.group + 1 }) = u at *
  rw [modCtx, getCore_modCore_same, hm]
  exact ⟨rfl, rfl⟩

/-- Settles O34. -/
theorem normGateRules : Obligations.NormGateRules := by
  refine ⟨fun e s => ?_, fun c n s f hcr hf => ?_, fun c s l hcr hl hg hlt => ?_⟩
  · intro v g d p q all legs cast sum tail
    refine ⟨fun hi => ⟨fun hv => ?_, fun hlt hno => ?_, fun hlt hinj => ?_⟩, fun hi hinj => ?_, ngwait_results⟩
    · refine traps_of hi ?_
      rw [exec_ngsend hi, orWait, attNgsend_eq, s_issued hi, if_pos hv]
    · refine waits_of_issued hi ?_
      rw [exec_ngsend hi, orWait, attNgsend_eq, s_issued hi, if_neg (Nat.not_le.2 hlt), canInject_issued hi, hno]
      rfl
    · obtain ⟨t, hx, hm, hc, hgate, hmesh⟩ := ngsend_sends hi hlt hinj
      have htail : tailFlit s e.core v.toNat (e.imm.extractLsb' 0 13).toNat = tail := by
        rw [tailFlit, BitVec.ofNat_toNat]
      rw [htail] at hmesh
      exact ⟨t, hx, hm, hc, hgate, hmesh⟩
    · obtain ⟨t, hx, hm, hc, hmesh⟩ := ngcast_sends hi hinj
      refine ⟨t, hx, hm, hc, hmesh.trans ?_⟩
      rw [castFlits, List.length_map, List.zipIdx_map, List.map_map]
      rfl
  · intro g v net
    refine ⟨fun hn => ⟨_, exec_ngaccArrival hcr hf hn, sameMemory_modCore _ _ fun _ => ⟨rfl, rfl⟩, rfl, ?_⟩,
      fun hn => ⟨_, exec_gateValueArrival hcr hf hn, sameMemory_modCore _ _ fun _ => ⟨rfl, rfl⟩, rfl, ?_⟩⟩
    · exact gate_modGate (dropFlit s n) c fun g => g.addSum f.datum v
    · intro sm norm cmax
      have hg := gate_modGate (dropFlit s n) c fun g => g.receive f.datum v
      exact ⟨fun ho => hg.trans (receive_open ho ..), fun hc => hg.trans (receive_closed hc ..)⟩
  · obtain ⟨hmem, hwga, hgate⟩ := gaugeWork_keeps s c l
    obtain ⟨hsm, hupos, -, -⟩ := stepLaunch_keeps (gaugeWork s c l) c l
    obtain ⟨hw, hg'⟩ := stepLaunch_core (gaugeWork s c l) c l
    refine ⟨_, gauge_commits hcr hl hg hlt, hmem.trans hsm, hupos, hw.trans hwga, fun hoff => ?_, fun hon => ?_⟩
    · rw [hg', hgate, gaugeSquares, if_neg (by rw [ugClip, hoff]; decide)]
      rfl
    · rw [hg', hgate]
      exact gaugeSquares_foldl _ _ _ hon

end Sys2Proof.Machine
end

section
/-!
PROOFS. Routes of flits: dimension order, detours, the next hop, and the parcel check at a terrace (R240 to R261).
-/

namespace Sys2Proof.Machine

/-! ### Sites as columns and rows -/

theorem siteRow_eq (n : Nat) : siteRow n = n / 20 := by unfold siteRow siteDie siteY; omega

theorem siteAt_eq (x r : Nat) : siteAt x r = 20 * r + x := by unfold siteAt; omega

theorem siteX_siteAt {x : Nat} (h : x < 20) (r : Nat) : siteX (siteAt x r) = x := by rw [siteAt_eq, siteX]; omega

theorem siteRow_siteAt {x : Nat} (h : x < 20) (r : Nat) : siteRow (siteAt x r) = r := by rw [siteAt_eq, siteRow_eq]; omega

theorem siteX_lt (n : Nat) : siteX n < 20 := Nat.mod_lt _ (by decide)

theorem siteRow_lt {n : Nat} (h : n < 800) : siteRow n < 40 := by rw [siteRow_eq]; omega

theorem siteAt_self (n : Nat) : siteAt (siteX n) (siteRow n) = n := by rw [siteAt_eq, siteRow_eq, siteX]; omega

theorem siteAt_lt {x r : Nat} (hx : x < 20) (hr : r < 40) : siteAt x r < 800 := by rw [siteAt_eq]; omega

theorem siteAt_inj {x r x' r' : Nat} (hx : x < 20) (hx' : x' < 20) : siteAt x r = siteAt x' r' ↔ x = x' ∧ r = r' := by
  rw [siteAt_eq, siteAt_eq]; omega

/-- How far two numbers are apart. -/
def dist (x y : Nat) : Nat := max x y - min x y

/-- The hops between two sites. -/
def hops (a b : Nat) : Nat := dist (siteX a) (siteX b) + dist (siteRow a) (siteRow b)

theorem hops_siteAt {x x' : Nat} (hx : x < 20) (hx' : x' < 20) (r r' : Nat) :
    hops (siteAt x r) (siteAt x' r') = dist x x' + dist r r' := by
  rw [hops, siteX_siteAt hx, siteX_siteAt hx', siteRow_siteAt hx, siteRow_siteAt hx']

/-! ### Dimension order (R240) -/

theorem nextRouter_row {x y x' : Nat} (hx : x < 20) (hx' : x' < 20) (y' : Nat) (h : x ≠ x') :
    nextRouter (siteAt x y) (siteAt x' y') = siteAt (stepTo x x') y := by
  rw [nextRouter, siteX_siteAt hx, siteX_siteAt hx', siteRow_siteAt hx, if_pos h]

theorem nextRouter_col {x : Nat} (hx : x < 20) (y y' : Nat) :
    nextRouter (siteAt x y) (siteAt x y') = siteAt x (stepTo y y') := by
  rw [nextRouter, siteX_siteAt hx, siteX_siteAt hx, siteRow_siteAt hx, siteRow_siteAt hx, if_neg (not_not_intro rfl)]

theorem stepTo_nearer {a b : Nat} (h : a ≠ b) :
    dist a (stepTo a b) = 1 ∧ dist (stepTo a b) b + 1 = dist a b ∧ stepTo a b ≠ a ∧ stepTo a b ≤ max a b := by
  unfold stepTo dist
  split <;> [skip; split] <;> omega

theorem stepTo_self (a : Nat) : stepTo a a = a := by unfold stepTo; simp

theorem inward_next (n : Nat) : dist n (inward n) = 1 ∧ inward n ≠ n ∧ inward n / 20 = n / 20 := by
  unfold inward dist
  split <;> omega


theorem nextRouter_nearer {x y x' y' : Nat} (hx : x < 20) (hx' : x' < 20) (hy : y < 40) (hy' : y' < 40)
    (hne : siteAt x y ≠ siteAt x' y') :
    nextRouter (siteAt x y) (siteAt x' y') < 800 ∧ hops (siteAt x y) (nextRouter (siteAt x y) (siteAt x' y')) = 1 ∧
    hops (nextRouter (siteAt x y) (siteAt x' y')) (siteAt x' y') + 1 = hops (siteAt x y) (siteAt x' y') ∧
    (x ≠ x' → siteRow (nextRouter (siteAt x y) (siteAt x' y')) = y) := by
  by_cases h : x = x'
  · subst h
    have hyy : y ≠ y' := fun h => hne (by rw [h])
    obtain ⟨h1, h2, -, h4⟩ := stepTo_nearer hyy
    rw [nextRouter_col hx, hops_siteAt hx hx, hops_siteAt hx hx, hops_siteAt hx hx]
    exact ⟨siteAt_lt hx (by omega), by unfold dist at *; omega, by omega, fun hn => absurd rfl hn⟩
  · obtain ⟨h1, h2, -, h4⟩ := stepTo_nearer h
    have hs : stepTo x x' < 20 := by omega
    rw [nextRouter_row hx hx' _ h, hops_siteAt hx hs, hops_siteAt hs hx', hops_siteAt hx hx', siteRow_siteAt hs]
    exact ⟨siteAt_lt hs hy, by unfold dist at *; omega, by omega, fun _ => rfl⟩

/-! ### Detours (R261) -/

/-- What a detour from a around the failed site n towards b is: adjacent sites that avoid both, of which the first is a side
step and the last lies beyond n, or in its column where the route turns there. -/
structure Detours (a b n v : Nat) (rest : List Nat) : Prop where
  inside : v < 800
  near : hops a v = 1
  sideRow : siteRow n = siteRow a → siteX v = siteX a
  sideCol : siteRow n ≠ siteRow a → siteRow v = siteRow a
  avoids : ∀ u ∈ v :: rest, u < 800 ∧ u ≠ n ∧ u ≠ a
  adjacent : ∀ p q, (p, q) ∈ (v :: rest).zip rest → hops p q = 1
  ends : if siteRow n = siteRow a ∧ siteX b = siteX n then rest.length = 1 ∧ siteX (rest.getLastD v) = siteX n
    else rest.length = 3 ∧ rest.getLastD v = nextRouter n b

/-- A route that turns at the failed site turns in the adjacent row. -/
theorem detour_turn {x y n r : Nat} (b : Nat) (hx : x < 20) (hn : n < 20) (hr : r < 40) (hxn : dist x n = 1)
    (hyr : dist y r = 1) (hb : siteX b = n) : Detours (siteAt x y) b (siteAt n y) (siteAt x r) [siteAt n r] := by
  have hne : x ≠ n := by rintro rfl; simp [dist] at hxn
  have hne' : r ≠ y := by rintro rfl; simp [dist] at hyr
  constructor
  case inside => exact siteAt_lt hx hr
  case near => rw [hops_siteAt hx hx, hyr]; simp [dist]
  case sideRow => rw [siteX_siteAt hx, siteX_siteAt hx]; exact fun _ => rfl
  case sideCol => rw [siteRow_siteAt hn, siteRow_siteAt hx]; exact fun h => absurd rfl h
  case avoids =>
    intro u hu
    rcases List.mem_cons.1 hu with rfl | hu
    · exact ⟨siteAt_lt hx hr, by simp [siteAt_inj hx hn, hne], by simp [siteAt_inj hx hx, hne']⟩
    · rw [List.mem_singleton.1 hu]
      exact ⟨siteAt_lt hn hr, by simp [siteAt_inj hn hn, hne'], by simp [siteAt_inj hn hx, hne']⟩
  case adjacent =>
    intro p q h
    obtain ⟨rfl, rfl⟩ : p = siteAt x r ∧ q = siteAt n r := by simpa using h
    rw [hops_siteAt hx hn, hxn]; simp [dist]
  case ends =>
    rw [siteRow_siteAt hn, siteRow_siteAt hx, siteX_siteAt hn, if_pos ⟨rfl, hb⟩]
    exact ⟨rfl, siteX_siteAt hn r⟩

/-- A route that goes on in its row passes the failed site in the adjacent one. -/
theorem detour_row {x y n z r b : Nat} (hx : x < 20) (hn : n < 20) (hz : z < 20) (hy : y < 40) (hr : r < 40) (hxn : dist x n = 1)
    (hnz : dist n z = 1) (hxz : x ≠ z) (hyr : dist y r = 1) (hb : siteX b ≠ n) (hlast : nextRouter (siteAt n y) b = siteAt z y) :
    Detours (siteAt x y) b (siteAt n y) (siteAt x r) [siteAt n r, siteAt z r, siteAt z y] := by
  have hne : x ≠ n := by rintro rfl; simp [dist] at hxn
  have hne2 : n ≠ z := by rintro rfl; simp [dist] at hnz
  have hne' : r ≠ y := by rintro rfl; simp [dist] at hyr
  constructor
  case inside => exact siteAt_lt hx hr
  case near => rw [hops_siteAt hx hx, hyr]; simp [dist]
  case sideRow => rw [siteX_siteAt hx, siteX_siteAt hx]; exact fun _ => rfl
  case sideCol => rw [siteRow_siteAt hn, siteRow_siteAt hx]; exact fun h => absurd rfl h
  case avoids =>
    intro u hu
    simp only [List.mem_cons, List.not_mem_nil, or_false] at hu
    rcases hu with rfl | rfl | rfl | rfl
    · exact ⟨siteAt_lt hx hr, by simp [siteAt_inj hx hn, hne], by simp [siteAt_inj hx hx, hne']⟩
    · exact ⟨siteAt_lt hn hr, by simp [siteAt_inj hn hn, hne'], by simp [siteAt_inj hn hx, hne']⟩
    · exact ⟨siteAt_lt hz hr, by simp [siteAt_inj hz hn, hne'], by simp [siteAt_inj hz hx, hne']⟩
    · exact ⟨siteAt_lt hz hy, by simp [siteAt_inj hz hn, hne2.symm], by simp [siteAt_inj hz hx, hxz.symm]⟩
  case adjacent =>
    intro p q h
    simp only [List.zip_cons_cons, List.zip_nil_right, List.mem_cons, Prod.mk.injEq, List.not_mem_nil, or_false] at h
    rcases h with ⟨rfl, rfl⟩ | ⟨rfl, rfl⟩ | ⟨rfl, rfl⟩
    · rw [hops_siteAt hx hn, hxn]; simp [dist]
    · rw [hops_siteAt hn hz, hnz]; simp [dist]
    · rw [hops_siteAt hz hz]; unfold dist at *; omega
  case ends =>
    rw [siteX_siteAt hn, if_neg fun h => hb h.2]
    exact ⟨rfl, hlast.symm⟩

/-- A route along a column passes the failed site in the adjacent one. -/
theorem detour_col {x y n z c b : Nat} (hx : x < 20) (hc : c < 20) (hy : y < 40) (hn : n < 40) (hz : z < 40) (hyn : dist y n = 1)
    (hnz : dist n z = 1) (hyz : y ≠ z) (hxc : dist x c = 1) (hlast : nextRouter (siteAt x n) b = siteAt x z) :
    Detours (siteAt x y) b (siteAt x n) (siteAt c y) [siteAt c n, siteAt c z, siteAt x z] := by
  have hne : y ≠ n := by rintro rfl; simp [dist] at hyn
  have hne2 : n ≠ z := by rintro rfl; simp [dist] at hnz
  have hne' : c ≠ x := by rintro rfl; simp [dist] at hxc
  constructor
  case inside => exact siteAt_lt hc hy
  case near => rw [hops_siteAt hx hc, hxc]; simp [dist]
  case sideRow => rw [siteRow_siteAt hx, siteRow_siteAt hx]; exact fun h => absurd h.symm hne
  case sideCol => rw [siteRow_siteAt hc, siteRow_siteAt hx, siteRow_siteAt hx]; exact fun _ => rfl
  case avoids =>
    intro u hu
    simp only [List.mem_cons, List.not_mem_nil, or_false] at hu
    rcases hu with rfl | rfl | rfl | rfl
    · exact ⟨siteAt_lt hc hy, by simp [siteAt_inj hc hx, hne'], by simp [siteAt_inj hc hx, hne']⟩
    · exact ⟨siteAt_lt hc hn, by simp [siteAt_inj hc hx, hne'], by simp [siteAt_inj hc hx, hne']⟩
    · exact ⟨siteAt_lt hc hz, by simp [siteAt_inj hc hx, hne'], by simp [siteAt_inj hc hx, hne']⟩
    · exact ⟨siteAt_lt hx hz, by simp [siteAt_inj hx hx, hne2.symm], by simp [siteAt_inj hx hx, hyz.symm]⟩
  case adjacent =>
    intro p q h
    simp only [List.zip_cons_cons, List.zip_nil_right, List.mem_cons, Prod.mk.injEq, List.not_mem_nil, or_false] at h
    rcases h with ⟨rfl, rfl⟩ | ⟨rfl, rfl⟩ | ⟨rfl, rfl⟩
    · rw [hops_siteAt hc hc, hyn]; simp [dist]
    · rw [hops_siteAt hc hc, hnz]; simp [dist]
    · rw [hops_siteAt hc hx]; unfold dist at *; omega
  case ends =>
    rw [siteRow_siteAt hx, siteRow_siteAt hx, if_neg fun h => hne h.1.symm]
    exact ⟨rfl, hlast.symm⟩

/-- Past the next step towards a number lies the step after it. -/
theorem stepTo_twice {a b : Nat} (h' : stepTo a b ≠ b) :
    2 * stepTo a b - a = stepTo (stepTo a b) b ∧ a ≠ stepTo (stepTo a b) b := by
  unfold stepTo at *
  split_ifs at h' ⊢ <;> omega

theorem detours {x y x' y' : Nat} (hx : x < 20) (hx' : x' < 20) (hy : y < 40) (hy' : y' < 40)
    (hne : siteAt x y ≠ siteAt x' y') (hnext : nextRouter (siteAt x y) (siteAt x' y') ≠ siteAt x' y') :
    ∃ v rest, detourOf (siteAt x y) (siteAt x' y') (nextRouter (siteAt x y) (siteAt x' y')) = v :: rest ∧
      Detours (siteAt x y) (siteAt x' y') (nextRouter (siteAt x y) (siteAt x' y')) v rest := by
  obtain ⟨hr1, -, hr2⟩ := inward_next y
  obtain ⟨hc1, -, hc2⟩ := inward_next x
  by_cases h : x = x'
  · subst h
    have hyy : y ≠ y' := fun h => hne (by rw [h])
    rw [nextRouter_col hx] at hnext ⊢
    have hn' : stepTo y y' ≠ y' := fun h => hnext (by rw [h])
    obtain ⟨h1, -, h3, h4⟩ := stepTo_nearer hyy
    obtain ⟨g1, -, -, g4⟩ := stepTo_nearer hn'
    obtain ⟨k1, k2⟩ := stepTo_twice hn'
    refine ⟨_, _, ?_, detour_col (c := inward x) (z := stepTo (stepTo y y') y') hx (by omega) hy (by omega) (by omega) h1 g1 k2 hc1
      (nextRouter_col hx _ _)⟩
    rw [detourOf, siteX_siteAt hx, siteRow_siteAt hx, siteRow_siteAt hx]
    dsimp only
    rw [if_neg h3, k1]
  · rw [nextRouter_row hx hx' _ h] at hnext ⊢
    obtain ⟨h1, -, h3, h4⟩ := stepTo_nearer h
    have hs : stepTo x x' < 20 := by omega
    have hdet : detourOf (siteAt x y) (siteAt x' y') (siteAt (stepTo x x') y) =
        if x' = stepTo x x' then [siteAt x (inward y), siteAt (stepTo x x') (inward y)]
        else [siteAt x (inward y), siteAt (stepTo x x') (inward y)] ++
          [siteAt (2 * stepTo x x' - x) (inward y), siteAt (2 * stepTo x x' - x) y] := by
      rw [detourOf, siteX_siteAt hx, siteX_siteAt hx', siteX_siteAt hs, siteRow_siteAt hx, siteRow_siteAt hs]
      exact if_pos rfl
    rw [hdet]
    by_cases hn' : x' = stepTo x x'
    · rw [if_pos hn']
      exact ⟨_, _, rfl, detour_turn _ hx hs (by omega) h1 hr1 (by rw [siteX_siteAt hx']; exact hn')⟩
    · obtain ⟨g1, -, -, g4⟩ := stepTo_nearer (Ne.symm hn')
      obtain ⟨k1, k2⟩ := stepTo_twice (Ne.symm hn')
      rw [if_neg hn', k1]
      refine ⟨_, _, rfl, detour_row hx hs (by omega) hy (by omega) h1 g1 k2 hr1 (by rwa [siteX_siteAt hx']) ?_⟩
      exact nextRouter_row hs hx' _ (Ne.symm hn')

/-! ### A flit leaves its router (R241, R242, R243, R248) -/

/-- Flit n of the net is a unicast one at a working router, the first of its path and the oldest far request there. -/
structure FlitReady (n : Nat) (s : State) (f : Flit) : Prop where
  here : s.mesh.net[n]? = some f
  waiting : f.arrived = false
  unicast : f.mc = none
  works : routerFailed s f.pos = false
  first : firstOfPath s.mesh.net n f = true
  oldest : oldestFar s f = true

/-- The flit as it goes on to v with the rest of its way. -/
def Flit.onTo (f : Flit) (v : Nat) (rest : List Nat) : Flit := { f with pos := v, via := rest, prev := some f.pos, fresh := false }

/-- The state after flit n has gone on. -/
def goneOn (s : State) (n : Nat) (f : Flit) (v : Nat) (rest : List Nat) : State :=
  moveTo (countFwd (dropFlit s n) f) { f with via := rest } v

section
variable {n : Nat} {s : State} {f : Flit} (h : FlitReady n s f)
include h

theorem exec_flitAtRouter {t : State} (hgo : flitGoes s n f = some t) : exec (.flitAtRouter n true true) s = .next (wakeSource t f) := by
  show execFlitAtRouter n true true s = _
  rw [execFlitAtRouter, h.here]
  dsimp only
  rw [h.waiting, h.works, if_pos rfl, hgo]
  rfl

theorem flitGoes_on {v : Nat} {rest : List Nat} (hne : f.pos ≠ endpointSite f.dst) (hhop : nextHop s f (endpointSite f.dst) = (v, rest))
    (hv : canEnter s v = true) (hway : f.via ≠ [] ∨ canEnter s (nextRouter f.pos (endpointSite f.dst)) = true)
    (hroom : hopRoom s f v rest = true) : flitGoes s n f = some (goneOn s n f v rest) := by
  have hway' : (f.via ≠ [] || canEnter s (nextRouter f.pos (endpointSite f.dst))) = true := by simpa using hway
  unfold flitGoes
  rw [h.first, h.oldest]
  dsimp only
  rw [if_neg (by decide)]
  split
  next m hm => rw [h.unicast] at hm; cases hm
  next => rw [if_neg hne, hhop, hv, hway', hroom]; rfl

theorem flitGoes_end (he : f.pos = endpointSite f.dst) (hroom : endRoom s f = true) :
    flitGoes s n f = some (deliver (dropFlit s n) { f with via := [] }) := by
  unfold flitGoes
  rw [h.first, h.oldest]
  dsimp only
  rw [if_neg (by decide)]
  split
  next m hm => rw [h.unicast] at hm; cases hm
  next => rw [if_pos he, hroom]; rfl

end

theorem countFwd_eq (s : State) (f : Flit) : countFwd s f = { s with regs := (countFwd s f).regs } := by
  unfold countFwd
  split <;> rfl

theorem goneOn_eq (s : State) (n : Nat) (f : Flit) (v : Nat) (rest : List Nat) : goneOn s n f v rest = { s with
    regs := (countFwd (dropFlit s n) f).regs
    mesh := if siteDie v = siteDie f.pos then { s.mesh with net := s.mesh.net.eraseIdx n ++ [f.onTo v rest] }
      else { s.mesh with
        net := s.mesh.net.eraseIdx n
        bridge := smod {} s.mesh.bridge (linkKey s f.pos) fun l => l.add (f.onTo v rest) } } := by
  rw [goneOn, countFwd_eq, moveTo]
  split <;> rfl

theorem goneOn_memory (s : State) (n : Nat) (f : Flit) (v : Nat) (rest : List Nat) : SameMemory s (goneOn s n f v rest) := by
  rw [goneOn_eq]
  exact sameMemory_of rfl rfl

theorem goneOn_within {s : State} {n v : Nat} {f : Flit} {rest : List Nat} (hd : siteDie v = siteDie f.pos) :
    (goneOn s n f v rest).mesh = { s.mesh with net := s.mesh.net.eraseIdx n ++ [f.onTo v rest] } := by
  rw [goneOn_eq]
  exact if_pos hd

theorem goneOn_across {s : State} {n v : Nat} {f : Flit} {rest : List Nat} (hd : siteDie v ≠ siteDie f.pos) :
    (goneOn s n f v rest).mesh.net = s.mesh.net.eraseIdx n ∧
    getLink (goneOn s n f v rest) (siteDie f.pos) (bridgeCol s (siteDie f.pos) (siteX f.pos)) =
      (getLink s (siteDie f.pos) (bridgeCol s (siteDie f.pos) (siteX f.pos))).add (f.onTo v rest) := by
  rw [goneOn_eq, if_neg hd]
  refine ⟨rfl, ?_⟩
  show sget {} (smod {} s.mesh.bridge (linkKey s f.pos) fun l => l.add (f.onTo v rest)) (linkKey s f.pos) = _
  rw [sget_smod, if_pos rfl]
  rfl

theorem add_eq (l : BridgeLink) (g : Flit) : l.add g = { l with
    frames := if l.openFrame then l.frames.dropLast ++ [l.frames.getLastD [] ++ [g]] else l.frames ++ [[g]] } := by
  unfold BridgeLink.add
  split <;> rfl

theorem canEnter_works {s : State} {v : Nat} (h : routerFailed s v = false) : canEnter s v = true := by rw [canEnter, h]; rfl

/-! ### The next hop (R240, R261) -/

section
variable {s : State} {f : Flit} {goal : Nat}

theorem nextHop_via {v : Nat} {rest : List Nat} (h : f.via = v :: rest) : nextHop s f goal = (v, rest) := by
  rw [nextHop, h]

theorem nextHop_route (hvia : f.via = []) (hnx : routerFailed s (nextRouter f.pos goal) = false)
    (hlink : siteDie (nextRouter f.pos goal) = siteDie f.pos ∨ linkDown s (siteX f.pos) = false) :
    nextHop s f goal = (nextRouter f.pos goal, []) := by
  rw [nextHop, hvia]
  dsimp only
  rw [hnx, if_neg (by simp), if_neg (by rcases hlink with h | h <;> simp [h])]

theorem nextHop_detour {v : Nat} {rest : List Nat} (hvia : f.via = []) (hne : nextRouter f.pos goal ≠ goal)
    (hnx : routerFailed s (nextRouter f.pos goal) = true) (hd : detourOf f.pos goal (nextRouter f.pos goal) = v :: rest) :
    nextHop s f goal = (v, rest) := by
  rw [nextHop, hvia]
  dsimp only
  rw [hnx, if_pos (by simpa using hne), hd]
  rfl

theorem nextHop_bridge (hvia : f.via = []) (hnx : routerFailed s (nextRouter f.pos goal) = false)
    (hdie : siteDie (nextRouter f.pos goal) ≠ siteDie f.pos) (hdown : linkDown s (siteX f.pos) = true) :
    nextHop s f goal = (siteAt (inward (siteX f.pos)) (siteRow f.pos),
      [siteAt (inward (siteX f.pos)) (siteRow (nextRouter f.pos goal)), nextRouter f.pos goal]) := by
  rw [nextHop, hvia]
  dsimp only
  rw [hnx, if_neg (by simp), if_pos (by simp [hdie, hdown])]

end

/-! ### At the terrace (R248, R251) -/

theorem tagDrop_load {s : State} {f : Flit} (hk : f.kind = .readReq) : ∃ u, u.mesh = s.mesh ∧ SameMemory s u ∧
    tagDrop s f = inject u (answer f .readResp true (onesData f.what.size)) := by
  unfold tagDrop
  rw [hk]
  dsimp only
  obtain ⟨r, g, d, hl⟩ := logInc_eq (bump s (siteBlock f.pos) 16 1)
    { cls := 0x32, parcel := some f.parcel, locKind := 0, locNum := f.pos, domain := meshDomain f.pos, addr := f.addr.zeroExtend 64 }
  refine ⟨_, ?_, ?_, rfl⟩ <;> rw [hl]
  · rfl
  · exact sameMemory_of rfl rfl

theorem deliver_read {s : State} {f : Flit} (hk : f.kind = .readReq) (hlt : f.dst < 800) :
    deliver s f = if tagOk s f then handOver s f else tagDrop s f := by
  rw [deliver, if_neg (by omega), if_neg (by omega), hk]

theorem read_delivered {n : Nat} {s : State} {f : Flit} (h : FlitReady n s f) (hlt : f.dst < 800) (hpos : f.pos = f.dst)
    (hk : f.kind = .readReq) (hroom : endRoom s f = true) :
    ∃ t, exec (.flitAtRouter n true true) s = .next (wakeSource t f) ∧ SameMemory s t ∧
      if f.pv ∧ bedParcel s (siteBed f.pos) = some f.parcel then
        t.mesh = { s.mesh with net := s.mesh.net.eraseIdx n ++ [{ f with arrived := true, via := [], fresh := false }] }
      else t.mesh = { s.mesh with born := s.mesh.born + 1, net := s.mesh.net.eraseIdx n ++
        [{ f with src := f.dst, dst := f.src, vc := 1, kind := .readResp, refused := true, pos := f.pos, via := [], fresh := true,
                  prev := none, last := true, born := s.mesh.born, payload := List.replicate f.what.size 0xFF }] } := by
  have hend : endpointSite f.dst = f.pos := by rw [endpointSite, if_pos hlt, hpos]
  have hx := exec_flitAtRouter h (flitGoes_end h hend.symm hroom)
  rw [deliver_read (f := { f with via := [] }) hk hlt] at hx
  have htag : tagOk (dropFlit s n) { f with via := [] } = true ↔ f.pv ∧ bedParcel s (siteBed f.pos) = some f.parcel := by
    rw [tagOk, Bool.and_eq_true, decide_eq_true_iff]
    exact Iff.rfl
  by_cases hok : f.pv ∧ bedParcel s (siteBed f.pos) = some f.parcel
  · rw [if_pos (htag.2 hok)] at hx
    exact ⟨_, hx, sameMemory_of rfl rfl, by rw [if_pos hok]; rfl⟩
  · rw [if_neg fun h => hok (htag.1 h)] at hx
    obtain ⟨u, hu, hmem, hd⟩ := tagDrop_load (s := dropFlit s n) (f := { f with via := [] }) hk
    rw [hd] at hx
    refine ⟨_, hx, (sameMemory_of (s := s) (t := dropFlit s n) rfl rfl).trans (hmem.trans (sameMemory_inject ..)), ?_⟩
    rw [if_neg hok, mesh_inject, leaves, hu, answer]
    dsimp only
    rw [hend, h.waiting]
    rfl

/-- Settles O35. -/
theorem flitsAreRouted : Obligations.FlitsAreRouted := by
  unfold Obligations.FlitsAreRouted
  intro dist' hops'
  refine ⟨fun a b ha hb hne => ?_, fun a b ha hb hne hnext => ?_, fun n s f hf harr hmc hrf hfirst hold => ?_⟩
  · have key := nextRouter_nearer (siteX_lt a) (siteX_lt b) (siteRow_lt ha) (siteRow_lt hb)
    rw [siteAt_self, siteAt_self] at key
    exact key hne
  · have key := detours (siteX_lt a) (siteX_lt b) (siteRow_lt ha) (siteRow_lt hb)
    rw [siteAt_self, siteAt_self] at key
    obtain ⟨v, rest, hd, h⟩ := key hne hnext
    exact ⟨v, rest, hd, h.inside, h.near, h.sideRow, h.sideCol, h.avoids, h.adjacent, h.ends⟩
  · have h : FlitReady n s f := ⟨hf, harr, hmc, hrf, hfirst, hold⟩
    intro goal nx goes
    have on {v : Nat} {rest : List Nat} (hne : f.pos ≠ goal) (hhop : nextHop s f goal = (v, rest)) (hv : canEnter s v = true)
        (hway : f.via ≠ [] ∨ canEnter s nx = true) : goes v rest := by
      intro hroom
      refine ⟨_, exec_flitAtRouter h (flitGoes_on h hne hhop hv hway hroom), goneOn_memory .., goneOn_within, fun hd => ?_⟩
      obtain ⟨hnet, hlink⟩ := goneOn_across (s := s) (n := n) (rest := rest) hd
      exact ⟨hnet, hlink.trans (add_eq _ _)⟩
    refine ⟨fun hne hvia hnx hlink => ?_, fun hne hvia hnxg hnx hdet v rest hd hv => ?_, fun hne hvia hnx hdie hdown => ?_,
      fun v rest hne hvia hv => ?_, fun hlt hpos hk hroom => read_delivered h hlt hpos hk hroom⟩
    · exact on hne (nextHop_route hvia hnx hlink) (canEnter_works hnx) (.inr (canEnter_works hnx))
    · exact on hne (nextHop_detour hvia hnxg hnx hd) (canEnter_works hv) (.inr (by rw [canEnter, hdet, Bool.or_true]))
    · exact fun hv => on hne (nextHop_bridge hvia hnx hdie hdown) (canEnter_works hv) (.inr (canEnter_works hnx))
    · exact on hne (nextHop_via hvia) (canEnter_works hv) (.inl (by rw [hvia]; exact List.cons_ne_nil _ _))

end Sys2Proof.Machine
end

section
/-!
PROOFS. Terrace requests, tails, Bridge frames and failed routers (R188, R248, R258, R260).
-/

namespace Sys2Proof.Machine

/-! ### What the report of an error leaves -/

/-- The mesh, the memories and the routers are as they were. -/
structure Reported (s t : State) : Prop where
  mesh : t.mesh = s.mesh
  memory : SameMemory s t
  rfail : ∀ n, (getSite t n).rfail = (getSite s n).rfail

theorem Reported.refl (s : State) : Reported s s := ⟨rfl, sameMemory_refl s, fun _ => rfl⟩

theorem Reported.trans {s t u : State} (h : Reported s t) (k : Reported t u) : Reported s u :=
  ⟨k.mesh.trans h.mesh, h.memory.trans k.memory, fun n => (k.rfail n).trans (h.rfail n)⟩

/-- What changes neither the mesh, the sites nor far memory. -/
theorem reported_of {s t : State} (hm : t.mesh = s.mesh) (hs : t.sites = s.sites) (hf : t.far.mem = s.far.mem) : Reported s t :=
  ⟨hm, sameMemory_of hs hf, fun n => by rw [getSite, getSite, hs]⟩

theorem reported_foldl {α : Type} {f : State → α → State} (h : ∀ s x, Reported s (f s x)) (l : List α) (s : State) :
    Reported s (l.foldl f s) := by
  induction l generalizing s with
  | nil => exact .refl s
  | cons x l ih => exact (h s x).trans (ih _)

theorem reported_ite {c : Prop} [Decidable c] {s t u : State} (h : Reported s t) (k : Reported s u) :
    Reported s (if c then t else u) := by
  split
  · exact h
  · exact k

theorem reported_bump (s : State) (b i n : Nat) : Reported s (bump s b i n) := reported_of rfl rfl rfl

theorem reported_logInc (s : State) (i : Inc) : Reported s (logInc s i) := by
  obtain ⟨r, f, d, h⟩ := logInc_eq s i
  rw [h]
  exact reported_of rfl rfl rfl

theorem reported_failStop (s : State) (cls cause : Nat) : Reported s (failStop s cls cause) := by
  rw [failStop_eq]
  exact reported_of rfl rfl rfl

theorem reported_stopStep (s : State) (p : Nat) (st : StepStop) : Reported s (stopStep s p st) := reported_of rfl rfl rfl

theorem reported_fenceCore (s : State) (c : Nat) : Reported s (fenceCore s c) := reported_of rfl rfl rfl

theorem reported_modSite (s : State) (n : Nat) {f : Site → Site} (hf : ∀ x, (f x).near = x.near ∧ (f x).terr = x.terr ∧ (f x).rfail = x.rfail) :
    Reported s (modSite s n f) := by
  refine ⟨rfl, sameMemory_modSite s n _ (hf _).1 (hf _).2.1, fun k => ?_⟩
  rw [getSite_modSite]
  split
  next h => rw [h]; exact (hf _).2.2
  · rfl

theorem reported_terrTally (s : State) (site row n : Nat) : Reported s (terrTally s site row n) := by
  unfold terrTally
  dsimp only
  have h := reported_modSite s site (f := fun x => { x with tally := (tallyAdd 16 n (getSite s site).tally row).1 })
    fun x => ⟨rfl, rfl, rfl⟩
  split
  · exact h.trans (reported_bump ..)
  · exact h

theorem reported_farTally (s : State) (p row n : Nat) : Reported s (farTally s p row n) := by
  unfold farTally
  dsimp only
  split <;> exact reported_of rfl rfl rfl

theorem reported_countUnc (s : State) (cls kind num : Nat) (a : W64) : Reported s (countUnc s cls kind num a) := by
  unfold countUnc
  split
  · exact reported_of rfl rfl rfl
  · split
    · exact (reported_bump ..).trans (reported_terrTally ..)
    · split
      · exact (reported_bump ..).trans (reported_farTally ..)
      · split
        · exact reported_bump ..
        · exact .refl s

theorem reported_countOwn (s : State) (own : Option Nat) : Reported s (countOwn s own) := by
  cases own with
  | none => exact .refl s
  | some c => exact reported_modSite s (csite s c) (f := fun y => { y with stepErrs := y.stepErrs + 1 }) fun _ => ⟨rfl, rfl, rfl⟩

theorem reported_fenceSecond (s : State) (own : Option Nat) : Reported s (fenceSecond s own) := by
  cases own with
  | none => exact .refl s
  | some c =>
    unfold fenceSecond
    dsimp only
    split
    · exact reported_fenceCore s c
    · exact (reported_fenceCore s c).trans (reported_stopStep ..)

theorem reported_uncData (s : State) (p cls kind num : Nat) (a : W64) (upd : Bool) (own : Option Nat) (detail : W32) :
    Reported s (uncData s p cls kind num a upd own detail) := by
  unfold uncData
  dsimp only
  have hlog (i : Inc) (r : Repair) :
      Reported s (countOwn { logInc (countUnc s cls kind num (incAddr kind a)) i with repair := r } own) := by
    refine Reported.trans ?_ (reported_countOwn _ own)
    exact ((reported_countUnc ..).trans (reported_logInc _ i)).trans (reported_of rfl rfl rfl)
  refine reported_ite ((hlog _ _).trans (reported_failStop ..)) (Reported.trans ?_ (reported_stopStep ..))
  exact reported_ite ((hlog _ _).trans (reported_fenceSecond ..)) (hlog _ _)

theorem reported_loseFlit (s : State) (f : Flit) : Reported s (loseFlit s f) := by
  unfold loseFlit
  split
  · exact reported_uncData ..
  · exact reported_logInc ..

/-! ### A terrace serves a request (R188) -/

theorem reported_readFixed (s : State) (site off : Nat) : Reported s (readFixed s site off) := by
  have hfree : Reported s (takeFree s).2 := reported_of rfl rfl rfl
  unfold readFixed
  dsimp only
  split
  · exact (hfree.trans (reported_bump ..)).trans (reported_terrTally ..)
  · exact hfree

/-- A bond error that is retried counts (R215). -/
def bondRetried (s : State) (site err : Nat) : State := if err = 1 then bump s (siteBlock site) 21 1 else s

theorem reported_bondRetried (s : State) (site err : Nat) : Reported s (bondRetried s site err) := by
  unfold bondRetried
  split
  · exact reported_bump ..
  · exact .refl s

theorem bondRetried_eq (s : State) (site err : Nat) : bondRetried s site err = { s with regs := (bondRetried s site err).regs } := by
  unfold bondRetried
  split <;> rfl

theorem mesh_storeDone (s : State) (w : FlitFor) (bs : List Byte) : (storeDone s w bs).mesh = s.mesh ∧ SameMemory s (storeDone s w bs) := by
  cases w
  case store => exact ⟨rfl, sameMemory_digestWrite ..⟩
  all_goals exact ⟨rfl, sameMemory_refl s⟩

section
variable {site n err : Nat} {s : State} {f : Flit} (hn : s.mesh.net.findIdx? (terrReq site) = some n) (hf : s.mesh.net[n]? = some f)
  (hstop : sget false s.mesh.injStopped (siteDie site) = false) (hroom : injRoom s site 1 = true) (herr : err < 2)
include hn hf hstop hroom herr

theorem exec_terraceRead {bs : List Byte} (hk : f.kind = .readReq)
    (hread : terrRead s site (f.addr.toNat % 67108864) f.what.size = .ok bs) : exec (.terraceRemoteAccess site err) s =
      .next (inject (readFixed (bondRetried (dropFlit s n) site err) site (f.addr.toNat % 67108864)) (answer f .readResp false bs)) := by
  show execTerraceRemoteAccess site err s = _
  have hread' : terrRead (bondRetried (dropFlit s n) site err) site (f.addr.toNat % 67108864) f.what.size = .ok bs := by
    rw [bondRetried_eq]
    exact hread
  rw [execTerraceRemoteAccess, hn]
  dsimp only
  rw [hf]
  dsimp only
  rw [dieStopped, hstop, hroom, if_neg (by decide), if_pos hk, if_neg (Nat.not_le.2 herr)]
  unfold bondRetried at hread' ⊢
  rw [show (2 : Nat) ^ 26 = 67108864 from rfl, hread']
  rfl

theorem exec_terraceWrite (hk : f.kind = .write) : exec (.terraceRemoteAccess site err) s =
      .next (inject (storeDone (terrWrite (bondRetried (dropFlit s n) site err) site (f.addr.toNat % 67108864) f.payload) f.what f.payload)
        (answer f .writeAck false [])) := by
  show execTerraceRemoteAccess site err s = _
  rw [execTerraceRemoteAccess, hn]
  dsimp only
  rw [hf]
  dsimp only
  rw [dieStopped, hstop, hroom, if_neg (by decide), if_neg (by rw [hk]; decide), if_neg (Nat.not_le.2 herr)]
  rfl

theorem terrace_reads {bs : List Byte} (hk : f.kind = .readReq)
    (hread : terrRead s site (f.addr.toNat % 67108864) f.what.size = .ok bs) :
    ∃ t, exec (.terraceRemoteAccess site err) s = .next t ∧ SameMemory s t ∧ t.mesh = { s.mesh with
      born := s.mesh.born + 1, net := s.mesh.net.eraseIdx n ++ [{ answer f .readResp false bs with born := s.mesh.born }] } := by
  have hx := exec_terraceRead hn hf hstop hroom herr hk hread
  have h := (reported_bondRetried (dropFlit s n) site err).trans (reported_readFixed _ site (f.addr.toNat % 67108864))
  generalize readFixed (bondRetried (dropFlit s n) site err) site (f.addr.toNat % 67108864) = u at *
  refine ⟨_, hx, (h.memory.trans (sameMemory_inject ..)), ?_⟩
  rw [mesh_inject, leaves, h.mesh]
  rfl

theorem terrace_writes (hk : f.kind = .write) :
    ∃ t, exec (.terraceRemoteAccess site err) s = .next t ∧ StoredAt 0 s t (.terr 2 site (f.addr.toNat % 67108864)) f.payload ∧
      t.mesh = { s.mesh with
        born := s.mesh.born + 1, net := s.mesh.net.eraseIdx n ++ [{ answer f .writeAck false [] with born := s.mesh.born }] } := by
  have hx := exec_terraceWrite hn hf hstop hroom herr hk
  have h := reported_bondRetried (dropFlit s n) site err
  have hcs : csite (bondRetried (dropFlit s n) site err) 0 = csite s 0 := by rw [bondRetried_eq]; rfl
  generalize bondRetried (dropFlit s n) site err = u at *
  have hst := h.memory.then_stored hcs (terrWrite_stored u 0 site (f.addr.toNat % 67108864) 2 f.payload)
  have hm : (terrWrite u site (f.addr.toNat % 67108864) f.payload).mesh = _ := h.mesh
  generalize terrWrite u site (f.addr.toNat % 67108864) f.payload = v at *
  obtain ⟨hm', hd⟩ := mesh_storeDone v f.what f.payload
  generalize storeDone v f.what f.payload = w at *
  refine ⟨_, hx, (hst.trans_same (hd.trans (sameMemory_inject ..))), ?_⟩
  rw [mesh_inject, leaves, hm', hm]
  rfl

end

/-! ### Failed links of the Bridge (R248) -/

theorem getLink_modLink (s : State) (die col : Nat) (f : BridgeLink → BridgeLink) :
    getLink (modLink s die col f) die col = f (getLink s die col) := (sget_smod ..).trans (if_pos rfl)

theorem linkFails_down (s : State) (die col : Nat) : getLink (linkFails s die col) die col = { down := true } := by
  have h : Reported (modLink (logInc s { cls := 0x31, locKind := 4, locNum := die * 20 + col, domain := 52 + die }) die col
      fun _ => { down := true }) (linkFails s die col) := by
    unfold linkFails
    dsimp only
    have hlose := reported_foldl reported_loseFlit (getLink s die col).frames.flatten
    exact reported_ite (((hlose _).trans (reported_logInc ..)).trans (reported_failStop ..)) (hlose _)
  rw [getLink, h.mesh]
  exact getLink_modLink _ die col _

section
variable {die col : Nat} {s : State} {fs : List Flit} {q : List (List Flit)} (hd : die < 2) (hc : col < 20)
  (hl : (getLink s die col).frames = fs :: q) (hdown : (getLink s die col).down = false) (href : (getLink s die col).refused = false)
include hd hc hl hdown href

theorem exec_bridgeFrameReceived (ok : Bool) : exec (.bridgeFrameReceived die col ok) s =
    if ok then
      if !(fs.all fun f => portRoom s.mesh.net (f.prev.getD f.pos) f.pos f.vc (f.via ≠ [])) then .next (bump s (brgBlock (1 - die)) 0 1) else
        let u := modLink (bump s (brgBlock (1 - die)) 0 1) die col fun l => { l with frames := q, refusals := 0, seqNo := l.seqNo + 1 }
        .next { u with mesh := { u.mesh with net := u.mesh.net ++ fs } }
    else
      let u := bump (bump s (brgBlock (1 - die)) 0 1) (brgBlock (1 - die)) 1 1
      if 8 ≤ (getLink s die col).refusals + 1 then .next (linkFails u die col)
      else .next (modLink u die col fun l => { l with refusals := l.refusals + 1, refused := true }) := by
  show execBridgeFrameReceived die col ok s = _
  unfold execBridgeFrameReceived
  dsimp only
  rw [hl]
  dsimp only
  rw [href, hdown, if_neg (by simp; omega)]
  rfl

end

/-! ### A router fails (R260) -/

/-- The state in which a failed router has stopped its die and lost its flits. -/
def routerLost (s : State) (i : Inc) (site : Nat) : State :=
  let s := logInc s i
  let s := { s with mesh := { s.mesh with failedRouter := sset 0 s.mesh.failedRouter (siteDie site) (site + 1),
                                          injStopped := sset false s.mesh.injStopped (siteDie site) true } }
  let s := modSite s site fun x => { x with rfail := true }
  { s with mesh := { s.mesh with net := s.mesh.net.filter fun f => !(f.pos = site && !f.arrived) } }

theorem routerFails_first {s : State} {site : Nat} (h : sget 0 s.mesh.failedRouter (siteDie site) = 0)
    (hb : anyBridgeDown s = false) : Reported (routerLost s
      { cls := 0x30, parcel := bedParcel s (siteBed site), locKind := 0, locNum := site, domain := meshDomain site } site)
      (routerFails s site) := by
  unfold routerFails
  dsimp only
  rw [if_neg (by rw [h, hb]; decide)]
  have hlose (u : State) (l : List Flit) : Reported u (l.foldl loseFlit u) := reported_foldl reported_loseFlit l u
  have hfence (u : State) (l : List Nat) : Reported u (l.foldl fenceCore u) := reported_foldl reported_fenceCore l u
  unfold loseAt
  dsimp only
  refine reported_ite ((hlose _ _).trans (reported_failStop ..)) ?_
  split
  · exact (hlose _ _).trans (hfence _ _)
  · exact ((hlose _ _).trans (hfence _ _)).trans (reported_stopStep ..)

theorem routerLost_keeps (s : State) (i : Inc) (site : Nat) : SameMemory s (routerLost s i site) ∧
    sget 0 (routerLost s i site).mesh.failedRouter (siteDie site) = site + 1 ∧
    sget false (routerLost s i site).mesh.injStopped (siteDie site) = true ∧ (getSite (routerLost s i site) site).rfail = true ∧
    ∀ f ∈ (routerLost s i site).mesh.net, f.pos = site → f.arrived = true := by
  have hlog := (reported_logInc s i).memory
  unfold routerLost
  generalize logInc s i = u at *
  refine ⟨hlog.trans ((sameMemory_modSite u site (fun x => { x with rfail := true }) rfl rfl).trans (sameMemory_of rfl rfl)),
    ?_, ?_, ?_, fun f hf hpos => ?_⟩
  · show sget 0 (sset 0 u.mesh.failedRouter (siteDie site) (site + 1)) (siteDie site) = site + 1
    rw [sget_sset_same]
  · show sget false (sset false u.mesh.injStopped (siteDie site) true) (siteDie site) = true
    rw [sget_sset_same]
  · show (getSite (modSite u site fun x => { x with rfail := true }) site).rfail = true
    rw [getSite_modSite, if_pos rfl]
  · have := (List.mem_filter.1 hf).2
    simpa [hpos] using this

theorem routerFails_again {s : State} {site : Nat} (h : sget 0 s.mesh.failedRouter (siteDie site) ≠ 0) :
    SameMemory s (routerFails s site) ∧ (routerFails s site).pwr.failStopped = true := by
  unfold routerFails
  dsimp only
  rw [if_pos (by simp [h])]
  exact ⟨((reported_logInc ..).trans (reported_failStop ..)).memory, failStop_stops ..⟩

theorem exec_routerFailure {s : State} {site : Nat} (hs : site < 800) (h : sget 0 s.mesh.failedRouter (siteDie site) ≠ site + 1) :
    exec (.routerFailure site) s = .next (routerFails s site) := if_pos ⟨hs, h⟩

theorem exec_routerCreditTimeout {s : State} {site : Nat} (hs : site < 800)
    (h : sget 0 s.mesh.failedRouter (siteDie site) ≠ site + 1) (hf : ∃ f ∈ s.mesh.net, f.pos = site ∧ f.arrived = false) :
    exec (.routerCreditTimeout site) s = .next (routerFails s site) := by
  obtain ⟨f, hmem, hpos, harr⟩ := hf
  exact if_pos ⟨hs, h, List.any_eq_true.2 ⟨f, hmem, by simp [hpos, harr]⟩⟩

/-! ### The detour entries are loaded (R260) -/

theorem exec_detourLoad {s : State} {die : Nat} (h : sget false s.mesh.injStopped die = true) :
    exec (.detourLoad die) s = .next (wakeAll { s with mesh := { s.mesh with
      detour := sset false s.mesh.detour die true, injStopped := sset false s.mesh.injStopped die false } }
      ((List.range 768).filter fun c => siteDie (csite s c) = die)) := if_pos h

/-! ### Tails (R258) -/

theorem exec_tailArrival {n v : Nat} {s : State} {f : Flit} (hf : s.mesh.net[n]? = some f) (harr : f.arrived = true)
    (hk : f.kind = .tail) (hw : f.what = .tail v)
    (hfirst : ∀ g ∈ s.mesh.net.take n, ¬(g.dst = f.dst ∧ g.vc = f.vc ∧ g.arrived = true ∧ g.kind ≠ .tail)) :
    exec (.tailArrival n) s = .next { s with mesh := { s.mesh with net := s.mesh.net.eraseIdx n, msgs := s.mesh.msgs ++ [
      { core := 0, site := f.pos, ctx := 0, beacon := f.addr.toNat % 8192, op := .add (BitVec.ofNat 32 (v * f.count)) }] } } := by
  have hbefore : ((s.mesh.net.take n).any fun g => g.dst = f.dst && g.vc = f.vc && g.arrived && g.kind ≠ .tail) = false := by
    rw [List.any_eq_false]
    intro g hg
    simpa [and_assoc] using hfirst g hg
  show execTailArrival n s = _
  rw [execTailArrival, hf]
  dsimp only
  rw [hbefore, harr, hk, hw]
  rfl

/-- Settles O36. -/
theorem meshEndpointsAndFailures : Obligations.MeshEndpointsAndFailures := by
  refine ⟨fun site n err s f hn hf hstop hroom herr => ?_, fun n v s f hf harr hk hw hfirst => ?_,
    fun die col s fs q hd hc => ?_, fun site s hs htw hnone hbr => ?_, fun site s hs hsome hother => ?_, fun die s hst => ?_⟩
  · intro off back
    exact ⟨fun bs hk hread => terrace_reads hn hf hstop hroom herr hk hread, fun hk => terrace_writes hn hf hstop hroom herr hk⟩
  · exact ⟨_, exec_tailArrival hf harr hk hw hfirst, rfl, rfl⟩
  · intro l hl hdown
    refine ⟨fun href hroom => ?_, fun href hlt => ?_, fun href heq => ?_, fun href => ?_⟩
    · have hx := exec_bridgeFrameReceived hd hc hl hdown href true
      rw [if_pos rfl, List.all_eq_true.2 hroom, if_neg (by decide)] at hx
      exact ⟨_, hx, sameMemory_of rfl rfl, rfl, getLink_modLink (bump s (brgBlock (1 - die)) 0 1) die col
        fun l => { l with frames := q, refusals := 0, seqNo := l.seqNo + 1 }⟩
    · have hx := exec_bridgeFrameReceived hd hc hl hdown href false
      rw [if_neg (by decide)] at hx
      dsimp only at hx
      rw [if_neg (show ¬8 ≤ l.refusals + 1 by omega)] at hx
      exact ⟨_, hx, sameMemory_of rfl rfl, rfl, getLink_modLink ..⟩
    · have hx := exec_bridgeFrameReceived hd hc hl hdown href false
      rw [if_neg (by decide)] at hx
      dsimp only at hx
      rw [if_pos (show 8 ≤ l.refusals + 1 by omega)] at hx
      refine ⟨_, hx, ?_⟩
      rw [linkFails_down]
      exact ⟨rfl, rfl⟩
    · exact ⟨_, if_pos href, sameMemory_of rfl rfl, rfl, getLink_modLink ..⟩
  · have hne : sget 0 s.mesh.failedRouter (siteDie site) ≠ site + 1 := by rw [hnone]; omega
    have h := routerFails_first hnone hbr
    obtain ⟨hmem, hfr, hinj, hrf, hnet⟩ := routerLost_keeps s _ site
    refine ⟨_, exec_routerFailure hs hne, hmem.trans h.memory, ?_, ?_, ?_, ?_, exec_routerCreditTimeout hs hne⟩
    · rw [h.mesh, hfr]
    · rw [h.mesh, hinj]
    · rw [h.rfail, hrf]
    · rw [h.mesh]
      exact hnet
  · exact ⟨_, exec_routerFailure hs hother, routerFails_again hsome⟩
  · exact ⟨_, _, exec_detourLoad hst, sameMemory_of rfl rfl, sget_sset_same false s.mesh.detour die true,
      sget_sset_same false s.mesh.injStopped die false, rfl⟩

end Sys2Proof.Machine
end

section
/-!
PROOFS. Requests at a far-memory port: the Cadastre cache, the ring cache and its fills, page faults (R191 to R202).
-/

namespace Sys2Proof.Machine

/-! ### What the service of a request leaves -/

/-- Only far-memory ports, registers and the free values have changed. -/
def OnlyPorts (s t : State) : Prop := ∃ p r n, t = { s with far := { s.far with ports := p }, regs := r, free := n }

theorem OnlyPorts.trans {s t u : State} (h : OnlyPorts s t) (k : OnlyPorts t u) : OnlyPorts s u := by
  obtain ⟨p, r, n, rfl⟩ := h
  obtain ⟨p', r', n', rfl⟩ := k
  exact ⟨p', r', n', rfl⟩

theorem OnlyPorts.memory {s t : State} (h : OnlyPorts s t) : SameMemory s t := by
  obtain ⟨p, r, n, rfl⟩ := h
  exact sameMemory_of rfl rfl

theorem OnlyPorts.mesh {s t : State} (h : OnlyPorts s t) : t.mesh = s.mesh := by
  obtain ⟨p, r, n, rfl⟩ := h
  rfl

theorem OnlyPorts.getCtx {s t : State} (h : OnlyPorts s t) (c k : Nat) : Machine.getCtx t c k = Machine.getCtx s c k := by
  obtain ⟨p, r, n, rfl⟩ := h
  rfl

theorem OnlyPorts.coreParcelNum {s t : State} (h : OnlyPorts s t) (c : Nat) : Machine.coreParcelNum t c = Machine.coreParcelNum s c := by
  obtain ⟨p, r, n, rfl⟩ := h
  rfl

theorem OnlyPorts.farByte {s t : State} (h : OnlyPorts s t) : Machine.farByte t = Machine.farByte s := by
  obtain ⟨p, r, n, rfl⟩ := h
  rfl

theorem onlyPorts_modPortF (s : State) (p : Nat) (f : FarPort → FarPort) : OnlyPorts s (modPortF s p f) := ⟨_, s.regs, s.free, rfl⟩

theorem onlyPorts_bump (s : State) (b i n : Nat) : OnlyPorts s (bump s b i n) := ⟨s.far.ports, (bump s b i n).regs, s.free, rfl⟩

theorem getPortF_same (s : State) (p : Nat) (f : FarPort → FarPort) : getPortF (modPortF s p f) p = f (getPortF s p) :=
  (getPortF_modPortF ..).trans (if_pos rfl)

/-- The bytes of a far range. -/
def farBytes (s : State) (fa n : Nat) : List Byte := (List.range n).map fun i => mrd s.far.mem (farByte s (fa + i))

/-- Every line of a far range is valid. -/
def farValid (s : State) (fa n : Nat) : Bool := (unitsOf 64 fa n).all fun l => unitValid s.far.swInit s.far.marks (farLine s (l * 64))

theorem OnlyPorts.farBytes {s t : State} (h : OnlyPorts s t) (fa n : Nat) : Machine.farBytes t fa n = Machine.farBytes s fa n := by
  obtain ⟨p, r, n, rfl⟩ := h
  rfl

theorem OnlyPorts.farValid {s t : State} (h : OnlyPorts s t) (fa n : Nat) : Machine.farValid t fa n = Machine.farValid s fa n := by
  obtain ⟨p, r, n, rfl⟩ := h
  rfl

theorem OnlyPorts.farPartInvalid {s t : State} (h : OnlyPorts s t) (fa n : Nat) :
    Machine.farPartInvalid t fa n = Machine.farPartInvalid s fa n := by
  obtain ⟨p, r, n, rfl⟩ := h
  rfl

/-- The largest request age seen takes in a request's (R195). -/
theorem noteAge_keeps (s : State) (p : Nat) : OnlyPorts s (noteAge s p) ∧
    ∃ a, getPortF (noteAge s p) p = { getPortF s p with ageMax := a } :=
  ⟨⟨_, s.regs, _, rfl⟩, _, getPortF_same ..⟩

/-! ### Reads (R191, R192) -/

theorem serveFar_read {s : State} {p : Nat} {f : Flit} (hpay : f.payload = []) (hv : farValid s f.addr.toNat f.what.size = true) :
    ∃ u, serveFar s p f = inject u (answer f .farResp false (farBytes s f.addr.toNat f.what.size)) ∧ OnlyPorts s u ∧
      ∃ a, getPortF u p = { getPortF s p with ageMax := a } := by
  obtain ⟨ho, ha⟩ := noteAge_keeps s p
  have hwr : f.isWr = false := by rw [Flit.isWr, hpay]; rfl
  have hlen : f.len = f.what.size := by rw [Flit.len, hpay]; rfl
  unfold serveFar
  dsimp only
  rw [hwr, hlen]
  generalize noteAge s p = u at *
  have hv' : farValid u f.fa f.what.size = true := (ho.farValid ..).trans hv
  unfold farValid at hv'
  rw [hv']
  refine ⟨_, ?_, ho.trans (onlyPorts_bump u (fmpBlock p) 0 1), ha⟩
  rw [← ho.farBytes]
  rfl

/-! ### Writes (R192, R193) -/

theorem mrd_foldl_other {g : Nat → Nat} (bs : List Byte) (j : Nat) (m : List Host.Cell) {a : Nat}
    (h : ∀ i, i < bs.length → a ≠ g (j + i)) :
    mrd ((bs.zipIdx j).foldl (fun m (x : Byte × Nat) => mwr m (g x.2) x.1) m) a = mrd m a := by
  induction bs generalizing j m with
  | nil => rfl
  | cons b bs ih =>
    have h0 : a ≠ g j := h 0 (by simp)
    rw [List.zipIdx_cons, List.foldl_cons, ih, mrd_mwr, if_neg h0]
    intro i hi
    have := h (i + 1) (by simpa using hi)
    rwa [Nat.add_assoc, Nat.add_comm 1 i]

theorem mrd_foldl_at {g : Nat → Nat} (bs : List Byte) (j : Nat) (m : List Host.Cell) {k : Nat} (hk : k < bs.length)
    (hinj : ∀ i k, i < k → k < bs.length → g (j + i) ≠ g (j + k)) :
    mrd ((bs.zipIdx j).foldl (fun m (x : Byte × Nat) => mwr m (g x.2) x.1) m) (g (j + k)) = bs.getD k 0 := by
  induction bs generalizing j m k with
  | nil => simp at hk
  | cons b bs ih =>
    rw [List.zipIdx_cons, List.foldl_cons]
    cases k with
    | zero =>
      rw [mrd_foldl_other, mrd_mwr]
      · simp
      · intro i hi
        have := hinj 0 (i + 1) (by omega) (by simpa using hi)
        rwa [show j + 1 + i = j + (i + 1) by omega]
    | succ k =>
      rw [show j + (k + 1) = j + 1 + k by omega, ih _ _ (by simpa using hk)]
      · simp
      · intro i l hil hl
        have := hinj (i + 1) (l + 1) (by omega) (by simpa using hl)
        rwa [show j + 1 + i = j + (i + 1) by omega, show j + 1 + l = j + (l + 1) by omega]

theorem modEnts_eq (us : List Nat) (s : State) (f : CadEntry → CadEntry) : us.foldl (fun s u => modEnt s u f) s =
    { s with far := { s.far with entries := (us.foldl (fun s u => modEnt s u f) s).far.entries } } := by
  induction us generalizing s with
  | nil => rfl
  | cons u us ih => rw [List.foldl_cons, ih]; rfl

theorem modEnts_dirty (us : List Nat) (s : State) (k : Nat) (h : k ∈ us ∨ (getEnt s k).dirty = true) :
    (getEnt (us.foldl (fun s u => modEnt s u fun e => { e with dirty := true }) s) k).dirty = true := by
  induction us generalizing s with
  | nil => simpa using h
  | cons u us ih =>
    rw [List.foldl_cons]
    refine ih _ ?_
    rw [getEnt_modEnt]
    by_cases hk : k = u
    · exact .inr (by rw [if_pos hk])
    · rw [if_neg hk]
      exact h.imp_left fun h => (List.mem_cons.1 h).resolve_left hk

theorem first_unit {z a n : Nat} (hn : 0 < n) : a / z ∈ unitsOf z a n := by
  rw [unitsOf, if_neg (by omega), List.mem_map]
  exact ⟨0, by simp, rfl⟩

/-- What a store into far memory leaves: its bytes, its page DIRTY, the ports and the mesh as they were. -/
theorem farPut_results (s : State) (fa : Nat) (bs : List Byte) : (farPut s fa bs).mesh = s.mesh ∧
    (∀ p, getPortF (farPut s fa bs) p = getPortF s p) ∧
    (farPut s fa bs).far.mem = bs.zipIdx.foldl (fun m x => mwr m (farByte s (fa + x.2)) x.1) s.far.mem ∧
    (bs ≠ [] → (getEnt (farPut s fa bs) (fa / 16777216)).dirty = true) := by
  have hdirty : bs ≠ [] → (getEnt (farPut s fa bs) (fa / 16777216)).dirty = true := fun hbs =>
    modEnts_dirty _ _ _ (.inl (first_unit (List.length_pos_iff.2 hbs)))
  refine ⟨?_, fun p => ?_, ?_, hdirty⟩ <;> unfold farPut <;> dsimp only <;> rw [modEnts_eq]
  rfl

theorem storeDone_eq (s : State) (w : FlitFor) (bs : List Byte) : storeDone s w bs = { s with sites := (storeDone s w bs).sites } := by
  cases w <;> rfl

theorem releaseStore_eq (s : State) (w : FlitFor) : releaseStore s w = { s with sites := (releaseStore s w).sites } := by
  cases w
  case store c k pc a =>
    show releaseCtx s c k = { s with sites := (releaseCtx s c k).sites }
    unfold releaseCtx
    split <;> rfl
  all_goals rfl

/-- What a store leaves of a state. -/
structure FarStored (s : State) (p fa : Nat) (bs : List Byte) (u : State) : Prop where
  mesh : u.mesh = s.mesh
  port : ∃ a, getPortF u p = { getPortF s p with ageMax := a }
  mem : u.far.mem = bs.zipIdx.foldl (fun m x => mwr m (farByte s (fa + x.2)) x.1) s.far.mem
  dirty : bs ≠ [] → (getEnt u (fa / 16777216)).dirty = true

theorem FarStored.sited {s u v : State} {p fa : Nat} {bs : List Byte} (h : FarStored s p fa bs u) (hv : v = { u with sites := v.sites }) :
    FarStored s p fa bs v := by
  obtain ⟨hm, hp, hf, hd⟩ := h
  constructor
  case mesh => rw [hv]; exact hm
  case port => rw [hv]; exact hp
  case mem => rw [hv]; exact hf
  case dirty => rw [hv]; exact hd

theorem serveFar_write {s : State} {p : Nat} {f : Flit} (hpay : f.payload ≠ [])
    (hpart : farPartInvalid s f.addr.toNat f.payload.length = false) :
    ∃ u, serveFar s p f = inject u (answer f .farResp false []) ∧ FarStored s p f.addr.toNat f.payload u := by
  obtain ⟨ho, a, ha⟩ := noteAge_keeps s p
  have hwr : f.isWr = true := by simpa [Flit.isWr] using hpay
  have hlen : f.len = f.payload.length := by rw [Flit.len, if_neg hpay]
  unfold serveFar
  dsimp only
  rw [hwr, hlen, if_pos rfl]
  generalize noteAge s p = v at *
  have hp : farPartInvalid v f.fa f.payload.length = false := (ho.farPartInvalid ..).trans hpart
  rw [hp, if_neg (by decide)]
  have hw := ho.trans (onlyPorts_bump v (fmpBlock p) 1 1)
  have hwp : getPortF (bump v (fmpBlock p) 1 1) p = _ := ha
  generalize bump v (fmpBlock p) 1 1 = w at *
  obtain ⟨hm, hport, hmem, hd⟩ := farPut_results w f.fa f.payload
  have hstored : FarStored s p f.addr.toNat f.payload (farPut w f.fa f.payload) := by
    refine ⟨hm.trans hw.mesh, ⟨a, (hport p).trans hwp⟩, ?_, hd⟩
    rw [hmem, hw.farByte]
    obtain ⟨p, r, n, rfl⟩ := hw
    rfl
  exact ⟨_, rfl, (hstored.sited (storeDone_eq ..)).sited (releaseStore_eq ..)⟩

/-! ### A request at its port (R194, R195, R198) -/

/-- The request has left the queue, and its page's entry is the last used (R194). -/
def FarPort.took (y : FarPort) (f : Flit) (x : FarPort) : FarPort :=
  { x with ingress := y.ingress.erase f, cadCache := f.fa / 2 ^ 24 :: x.cadCache.filter fun c => c ≠ f.fa / 2 ^ 24 }

/-- Request f is the next of port p, and its page's entry is cached. -/
structure AtPort (s : State) (p : Nat) (f : Flit) : Prop where
  port : p < 48
  next : nextReq s p = some f
  answers : portAnswers s p = true
  access : f.kind ≠ .tail
  cached : f.addr.toNat / 16777216 ∈ (getPortF s p).cadCache

section
variable {s : State} {p : Nat} {f : Flit} (h : AtPort s p f)
include h

theorem exec_far_faults {k : Nat} (hk : pageRefusal (getEnt s (f.addr.toNat / 16777216)) f.parcel false (!f.isWr) f.isWr = some k) :
    exec (.farRequestAtPort p) s = .next (faultReq (modPortF s p ((getPortF s p).took f)) f k) := by
  show execFarRequestAtPort p s = _
  rw [execFarRequestAtPort, h.next]
  dsimp only
  have hcached : f.fa / 2 ^ 24 ∈ (getPortF s p).cadCache := h.cached
  rw [if_neg (by rw [h.answers]; have := h.port; simp; omega), if_neg h.access, if_neg (not_not_intro hcached)]
  have hk' : pageRefusal (getEnt s (f.fa / 2 ^ 24)) f.parcel false (!f.isWr) f.isWr = some k := hk
  rw [hk']
  rfl

variable (hk : pageRefusal (getEnt s (f.addr.toNat / 16777216)) f.parcel false (!f.isWr) f.isWr = none)
  (hsn : farReqSnoop s f = none)
include hk hsn

theorem exec_far_served : exec (.farRequestAtPort p) s =
    if farLine s f.addr.toNat ∈ (getPortF s p).lines ∧ ((getPortF s p).missSlots.all fun g => reqLine s g ≠ farLine s f.addr.toNat) then
      .next (serveFar (bump (modPortF (modPortF s p ((getPortF s p).took f)) p fun x => x.touch (farLine s f.addr.toNat) f.isWr)
        (fmpBlock p) 2 1) p f)
    else if 256 ≤ (getPortF s p).missSlots.length then .next s
    else .next (bump (modPortF (modPortF s p ((getPortF s p).took f)) p fun x => { x with missSlots := x.missSlots ++ [f] })
      (fmpBlock p) 3 1) := by
  show execFarRequestAtPort p s = _
  rw [execFarRequestAtPort, h.next]
  dsimp only
  have hcached : f.fa / 2 ^ 24 ∈ (getPortF s p).cadCache := h.cached
  rw [if_neg (by rw [h.answers]; have := h.port; simp; omega), if_neg h.access, if_neg (not_not_intro hcached)]
  have hk' : pageRefusal (getEnt s (f.fa / 2 ^ 24)) f.parcel false (!f.isWr) f.isWr = none := hk
  rw [hk', hsn]
  rfl

/-- The line is present: the request is served. -/
theorem exec_far_hit (hl : farLine s f.addr.toNat ∈ (getPortF s p).lines)
    (hno : ∀ g ∈ (getPortF s p).missSlots, reqLine s g ≠ farLine s f.addr.toNat) :
    ∃ v, exec (.farRequestAtPort p) s = .next (serveFar v p f) ∧ OnlyPorts s v ∧
      (getPortF v p).ingress = (getPortF s p).ingress.erase f := by
  refine ⟨_, (exec_far_served h hk hsn).trans (if_pos ⟨hl, List.all_eq_true.2 fun g hg => decide_eq_true (hno g hg)⟩), ?_, ?_⟩
  · exact ((onlyPorts_modPortF ..).trans (onlyPorts_modPortF ..)).trans (onlyPorts_bump ..)
  · rw [getPortF_bump, getPortF_same, getPortF_same]
    rfl

/-- The line is not present: the request takes a miss slot. -/
theorem far_misses (hl : farLine s f.addr.toNat ∉ (getPortF s p).lines) (hroom : (getPortF s p).missSlots.length < 256) :
    ∃ t, exec (.farRequestAtPort p) s = .next t ∧ SameMemory s t ∧ (getPortF t p).ingress = (getPortF s p).ingress.erase f ∧
      (getPortF t p).missSlots = (getPortF s p).missSlots ++ [f] ∧ t.mesh = s.mesh := by
  have ho : OnlyPorts s (bump (modPortF (modPortF s p ((getPortF s p).took f)) p fun x => { x with missSlots := x.missSlots ++ [f] })
      (fmpBlock p) 3 1) := ((onlyPorts_modPortF ..).trans (onlyPorts_modPortF ..)).trans (onlyPorts_bump ..)
  refine ⟨_, ((exec_far_served h hk hsn).trans (if_neg fun hc => hl hc.1)).trans (if_neg (Nat.not_le.2 hroom)), ho.memory, ?_, ?_,
    ho.mesh⟩ <;> rw [getPortF_bump, getPortF_same, getPortF_same] <;> rfl

theorem far_reads (hl : farLine s f.addr.toNat ∈ (getPortF s p).lines)
    (hno : ∀ g ∈ (getPortF s p).missSlots, reqLine s g ≠ farLine s f.addr.toNat) (hpay : f.payload = [])
    (hv : farValid s f.addr.toNat f.what.size = true) :
    ∃ t, exec (.farRequestAtPort p) s = .next t ∧ SameMemory s t ∧ (getPortF t p).ingress = (getPortF s p).ingress.erase f ∧
      t.mesh = { s.mesh with born := s.mesh.born + 1, net := s.mesh.net ++
        [{ answer f .farResp false (farBytes s f.addr.toNat f.what.size) with born := s.mesh.born }] } := by
  obtain ⟨v, hx, ho, hi⟩ := exec_far_hit h hk hsn hl hno
  obtain ⟨u, hu, hou, a, ha⟩ := serveFar_read (p := p) hpay ((ho.farValid ..).trans hv)
  rw [hu, ho.farBytes] at hx
  have hm := (ho.trans hou).mesh
  refine ⟨_, hx, (ho.trans hou).memory.trans (sameMemory_inject ..), ?_, ?_⟩
  · show (getPortF u p).ingress = _
    rw [ha]
    exact hi
  · rw [mesh_inject, leaves, hm]

theorem far_writes (hl : farLine s f.addr.toNat ∈ (getPortF s p).lines)
    (hno : ∀ g ∈ (getPortF s p).missSlots, reqLine s g ≠ farLine s f.addr.toNat) (hpay : f.payload ≠ [])
    (hpart : farPartInvalid s f.addr.toNat f.payload.length = false) :
    ∃ t, exec (.farRequestAtPort p) s = .next t ∧ (getPortF t p).ingress = (getPortF s p).ingress.erase f ∧
      t.far.mem = f.payload.zipIdx.foldl (fun m x => mwr m (farByte s (f.addr.toNat + x.2)) x.1) s.far.mem ∧
      (getEnt t (f.addr.toNat / 16777216)).dirty = true ∧ t.mesh = { s.mesh with born := s.mesh.born + 1, net := s.mesh.net ++
        [{ answer f .farResp false [] with born := s.mesh.born }] } := by
  obtain ⟨v, hx, ho, hi⟩ := exec_far_hit h hk hsn hl hno
  obtain ⟨u, hu, hst⟩ := serveFar_write (s := v) (p := p) hpay ((ho.farPartInvalid ..).trans hpart)
  rw [hu] at hx
  obtain ⟨a, ha⟩ := hst.port
  refine ⟨_, hx, ?_, ?_, hst.dirty hpay, ?_⟩
  · show (getPortF u p).ingress = _
    rw [ha]
    exact hi
  · show u.far.mem = _
    rw [hst.mem, ho.farByte]
    obtain ⟨q, r, n, rfl⟩ := ho
    rfl
  · rw [mesh_inject, leaves, hst.mesh, ho.mesh]

end

/-! ### Page faults (R202, R203) -/

/-- A requester joins the held set of its page, old or new. -/
theorem addFault_holds (s : State) (p fpn kind : Nat) (r : FaultReq) :
    ∃ g ∈ (addFault s p fpn kind r).far.faults, g.parcel = p ∧ g.fpn = fpn ∧ r ∈ g.held := by
  unfold addFault
  split
  next h =>
    obtain ⟨g, hg, he⟩ := List.any_eq_true.1 h
    have hpf : g.parcel = p ∧ g.fpn = fpn := by simpa using he
    exact ⟨{ g with held := g.held ++ [r] }, List.mem_map.2 ⟨g, hg, if_pos he⟩, hpf.1, hpf.2,
      List.mem_append_right _ (List.mem_singleton_self r)⟩
  · dsimp only
    split
    · rw [writeFaultRec, pclRec_eq]
      exact ⟨_, List.mem_append_right _ (List.mem_singleton_self _), rfl, rfl, List.mem_singleton_self r⟩
    · exact ⟨_, List.mem_append_right _ (List.mem_singleton_self _), rfl, rfl, List.mem_singleton_self r⟩

theorem addFault_keeps (s : State) (p fpn kind : Nat) (r : FaultReq) :
    SameMemory s (addFault s p fpn kind r) ∧ ∀ c k, getCtx (addFault s p fpn kind r) c k = getCtx s c k := by
  unfold addFault
  split
  · exact ⟨sameMemory_of rfl rfl, fun _ _ => rfl⟩
  · dsimp only
    split
    · rw [writeFaultRec]
      refine ⟨SameMemory.trans ?_ (sameMemory_pclRec ..), fun c k => ?_⟩
      · exact sameMemory_of rfl rfl
      · rw [getCtx_pclRec]
        rfl
    · exact ⟨sameMemory_of rfl rfl, fun _ _ => rfl⟩

theorem hold_results (s : State) (c k kind fpn : Nat) (a : W64) :
    SameMemory s (hold s c k kind fpn a false) ∧
    getCtx (hold s c k kind fpn a false) c k = { getCtx s c k with st := .held, wait := .fault a } ∧
    ∃ g ∈ (hold s c k kind fpn a false).far.faults, g.parcel = coreParcelNum s c ∧ g.fpn = fpn ∧
      { requester := 0, index := k, core := c, addr := a, write := false } ∈ g.held := by
  have hpar : coreParcelNum (modCtx (giveUp s c k) c k fun y => { y with st := .held, wait := .fault a }) c = coreParcelNum s c := rfl
  have hmem : SameMemory s (modCtx (giveUp s c k) c k fun y => { y with st := .held, wait := .fault a }) :=
    (sameMemory_giveUp s c k).trans (sameMemory_modCtx ..)
  have hctx : getCtx (modCtx (giveUp s c k) c k fun y => { y with st := .held, wait := .fault a }) c k =
      { getCtx s c k with st := .held, wait := .fault a } := by rw [getCtx_modCtx_same, getCtx_giveUp]
  unfold hold
  dsimp only
  rw [hpar]
  generalize modCtx (giveUp s c k) c k (fun y => { y with st := .held, wait := .fault a }) = u at *
  obtain ⟨hm, hc⟩ := addFault_keeps u (coreParcelNum s c) fpn kind { requester := 0, index := k, core := c, addr := a, write := false }
  exact ⟨hmem.trans hm, (hc c k).trans hctx, addFault_holds ..⟩

theorem far_faults {s : State} {p kind c k n : Nat} {f : Flit} {rd : BitVec 5} {z : Nat} {sx : Bool} {a : W64} (h : AtPort s p f)
    (hk : pageRefusal (getEnt s (f.addr.toNat / 16777216)) f.parcel false (!f.isWr) f.isWr = some kind) (hpay : f.payload = [])
    (hw : f.what = .load c k n) (hwait : (getCtx s c k).wait = .load rd z sx a) :
    ∃ t, exec (.farRequestAtPort p) s = .next (wake t c) ∧ SameMemory s t ∧
      getCtx t c k = { getCtx s c k with st := .held, wait := .fault a } ∧
      ∃ g ∈ t.far.faults, g.parcel = coreParcelNum s c ∧ g.fpn = f.addr.toNat / 16777216 ∧
        { requester := 0, index := k, core := c, addr := a, write := false } ∈ g.held := by
  have hwr : f.isWr = false := by rw [Flit.isWr, hpay]; rfl
  have ho := onlyPorts_modPortF s p ((getPortF s p).took f)
  have hx := exec_far_faults h hk
  generalize modPortF s p ((getPortF s p).took f) = u at *
  have hload : faultReq u f kind = wake (hold u c k kind (f.addr.toNat / 16777216) a false) c := by
    rw [faultReq, hwr, if_neg (by decide), holdLoad, hw]
    dsimp only
    rw [ho.getCtx, hwait]
    rfl
  rw [hload] at hx
  obtain ⟨hm, hc, g, hg, hp⟩ := hold_results u c k kind (f.addr.toNat / 16777216) a
  exact ⟨_, hx, ho.memory.trans hm, hc.trans (by rw [ho.getCtx]), g, hg, by rwa [ho.coreParcelNum] at hp⟩

/-! ### Fills (R191, R216 to R219) -/

/-- A corrected line holds what it held. -/
theorem correctedLine_keeps {s : State} {l : Nat} {d : List Byte} (hlen : d.length = 64)
    (hd : ∀ i, i < 64 → d.getD i 0 = mrd s.far.mem (l * 64 + i)) (a : Nat) :
    mrd (mwrN s.far.mem (l * 64) d) a = mrd s.far.mem a := by
  rw [mrd_mwrN, hlen]
  split
  next h =>
    rw [hd _ (by omega)]
    congr 1
    omega
  · rfl

/-- A line as it came from the device is put right or left alone: a state in which only ports have changed but for memory m. -/
theorem fixedLine {s : State} {p l : Nat} {d : List Byte} (fixed : Bool) (hlen : d.length = 64)
    (hd : ∀ i, i < 64 → d.getD i 0 = mrd s.far.mem (l * 64 + i)) :
    ∃ m, (∀ a, mrd m a = mrd s.far.mem a) ∧
      OnlyPorts { s with far := { s.far with mem := m } } (if fixed then correctedLine s p l d else s) ∧
      ∃ q, getPortF (if fixed then correctedLine s p l d else s) p = { getPortF s p with tally := q } := by
  cases fixed with
  | false => exact ⟨s.far.mem, fun _ => rfl, ⟨s.far.ports, s.regs, s.free, rfl⟩, _, rfl⟩
  | true =>
    refine ⟨_, correctedLine_keeps hlen hd, ?_⟩
    rw [if_pos rfl, correctedLine]
    dsimp only
    generalize hu : ({ bump s (fmpBlock p) 4 1 with far := { (bump s (fmpBlock p) 4 1).far with
      mem := mwrN (bump s (fmpBlock p) 4 1).far.mem (l * 64) d } } : State) = u
    have hou : OnlyPorts { s with far := { s.far with mem := mwrN s.far.mem (l * 64) d } } u := by
      rw [← hu]
      exact ⟨s.far.ports, (bump s (fmpBlock p) 4 1).regs, s.free, rfl⟩
    have hpu : getPortF u p = getPortF s p := by
      rw [← hu]
      rfl
    unfold farTally
    dsimp only
    have hp : getPortF (modPortF u p fun x => { x with tally := (tallyAdd 64 0 (getPortF u p).tally (farRow (l * 64))).1 }) p =
        { getPortF s p with tally := (tallyAdd 64 0 (getPortF u p).tally (farRow (l * 64))).1 } := by
      rw [getPortF_same, hpu]
    have ho := hou.trans (onlyPorts_modPortF u p fun x => { x with tally := (tallyAdd 64 0 (getPortF u p).tally (farRow (l * 64))).1 })
    split
    · exact ⟨ho.trans (onlyPorts_bump ..), _, hp⟩
    · exact ⟨ho, _, hp⟩

/-- The port whose one waiting request has its line. -/
def FarPort.filled (f : Flit) (l : Nat) (x : FarPort) : FarPort :=
  (({ x with missSlots := x.missSlots.filter fun g => decide (g ∉ [f]) } : FarPort).insert l).touch l ([f].any Flit.isWr)

theorem exec_ringCacheFill {s : State} {p : Nat} {f : Flit} {errs : List SymErr} {d : List Byte} {fixed : Bool}
    (hslots : (getPortF s p).missSlots = [f]) (hans : portAnswers s p = true)
    (hpause : (getPortF s p).paused (f.addr.toNat / 16777216) = false)
    (hvalid : unitValid s.far.swInit s.far.marks (farLine s f.addr.toNat) = true)
    (hdec : rsDecode (rsMode s) (readWord s (farLine s f.addr.toNat) errs) = some (d, fixed)) :
    ∃ v, exec (.ringCacheFill p errs) s = .next (serveFar v p f) ∧
      OnlyPorts (if fixed then correctedLine s p (farLine s f.addr.toNat) d else s) v ∧
      getPortF v p = (getPortF (if fixed then correctedLine s p (farLine s f.addr.toNat) d else s) p).filled f (farLine s f.addr.toNat) := by
  have hmine : [f].filter (fun g => decide (reqLine s g = reqLine s f)) = [f] := by simp
  refine ⟨_, ?_, (onlyPorts_modPortF _ p fun x => { x with missSlots := x.missSlots.filter fun g => decide (g ∉ [f]) }).trans
    (onlyPorts_modPortF _ p fun x => (x.insert (farLine s f.addr.toNat)).touch (farLine s f.addr.toNat) ([f].any Flit.isWr)), ?_⟩
  · show execRingCacheFill p errs s = _
    have hp : (getPortF s p).paused (f.fa / 2 ^ 24) = false := hpause
    have hv : unitValid s.far.swInit s.far.marks (reqLine s f) = true := hvalid
    have hd : rsDecode (rsMode s) (readWord s (reqLine s f) errs) = some (d, fixed) := hdec
    rw [execRingCacheFill, hslots]
    dsimp only
    rw [hmine, hp, hans, if_neg (by decide), hv, hd]
    rfl
  · rw [getPortF_same, getPortF_same]
    rfl

theorem line_fills {s : State} {p : Nat} {f : Flit} {errs : List SymErr} {d : List Byte} {fixed : Bool}
    (hslots : (getPortF s p).missSlots = [f]) (hans : portAnswers s p = true)
    (hpause : (getPortF s p).paused (f.addr.toNat / 16777216) = false)
    (hvalid : unitValid s.far.swInit s.far.marks (farLine s f.addr.toNat) = true)
    (hdec : rsDecode (rsMode s) (readWord s (farLine s f.addr.toNat) errs) = some (d, fixed)) (hpay : f.payload = [])
    (hv : farValid s f.addr.toNat f.what.size = true)
    (hd : ∀ i, i < 64 → d.getD i 0 = mrd s.far.mem (farLine s f.addr.toNat * 64 + i)) (hlen : d.length = 64) :
    ∃ t, exec (.ringCacheFill p errs) s = .next t ∧ SameMemory s t ∧ (getPortF t p).missSlots = [] ∧
      (getPortF t p).lines.head? = some (farLine s f.addr.toNat) ∧
      t.mesh = { s.mesh with born := s.mesh.born + 1, net := s.mesh.net ++
        [{ answer f .farResp false (farBytes s f.addr.toNat f.what.size) with born := s.mesh.born }] } := by
  obtain ⟨v, hx, hov, hpv⟩ := exec_ringCacheFill hslots hans hpause hvalid hdec
  obtain ⟨m, hm, hof, q, hq⟩ := fixedLine (p := p) fixed hlen hd
  generalize (if fixed then correctedLine s p (farLine s f.addr.toNat) d else s) = w at *
  have ho := hof.trans hov
  have hbytes : farBytes v f.addr.toNat f.what.size = farBytes s f.addr.toNat f.what.size := by
    rw [ho.farBytes]
    exact List.map_congr_left fun i _ => hm _
  have hsame : SameMemory s { s with far := { s.far with mem := m } } := ⟨fun _ _ => rfl, fun _ _ => rfl, hm⟩
  obtain ⟨u, hu, hou, a, ha⟩ := serveFar_read (s := v) (p := p) hpay ((ho.farValid ..).trans hv)
  rw [hu, hbytes] at hx
  have hmesh := (ho.trans hou).mesh
  refine ⟨_, hx, (hsame.trans (ho.trans hou).memory).trans (sameMemory_inject ..), ?_, ?_, ?_⟩
  · show (getPortF u p).missSlots = _
    rw [ha, hpv, hq]
    show ((getPortF s p).missSlots.filter fun g => decide (g ∉ [f])) = _
    rw [hslots]
    simp
  · show (getPortF u p).lines.head? = _
    rw [ha, hpv]
    rfl
  · rw [mesh_inject, leaves, hmesh]

/-! ### The order of requests (R194, R195) -/

theorem olderOf_some (o : Option Flit) (f : Flit) : ∃ g, olderOf o f = some g ∧ (g = f ∨ o = some g) ∧ g.born ≤ f.born ∧
    ∀ x, o = some x → g.born ≤ x.born := by
  cases o with
  | none => exact ⟨f, rfl, .inl rfl, le_refl _, fun _ h => by cases h⟩
  | some x =>
    rw [olderOf]
    by_cases h : f.born < x.born
    · exact ⟨f, if_pos h, .inl rfl, le_refl _, fun y hy => by cases hy; omega⟩
    · exact ⟨x, if_neg h, .inr rfl, by omega, fun y hy => by cases hy; exact le_refl _⟩

theorem foldl_olderOf (l : List Flit) (o : Option Flit) (f : Flit) (h : l.foldl olderOf o = some f) :
    (f ∈ l ∨ o = some f) ∧ (∀ g ∈ l, f.born ≤ g.born) ∧ ∀ x, o = some x → f.born ≤ x.born := by
  induction l generalizing o with
  | nil => exact ⟨.inr h, by simp, fun x hx => by rw [List.foldl_nil, hx] at h; cases h; exact le_refl _⟩
  | cons g l ih =>
    rw [List.foldl_cons] at h
    obtain ⟨y, hy, hor, hle, hall⟩ := olderOf_some o g
    rw [hy] at h
    obtain ⟨hf, hl, hx⟩ := ih _ h
    have hfy := hx y rfl
    refine ⟨?_, fun z hz => ?_, fun x hx => hfy.trans (hall x hx)⟩
    · rcases hf with hf | hf
      · exact .inl (List.mem_cons_of_mem _ hf)
      · cases hf
        exact hor.imp_left fun h => by rw [h]; exact List.mem_cons_self
    · rcases List.mem_cons.1 hz with rfl | hz
      · exact hfy.trans hle
      · exact hl z hz

theorem nextReq_oldest {s : State} {p : Nat} {f : Flit} (h : nextReq s p = some f) : f ∈ (getPortF s p).ingress ∧
    (getPortF s p).admits s f = true ∧ ∀ g ∈ (getPortF s p).ingress, (getPortF s p).admits s g = true → f.born ≤ g.born := by
  obtain ⟨hf, hall, -⟩ := foldl_olderOf _ _ _ h
  obtain ⟨hmem, hadm⟩ := List.mem_filter.1 (hf.resolve_right fun h => by cases h)
  exact ⟨hmem, hadm, fun g hg ha => hall g (List.mem_filter.2 ⟨hg, ha⟩)⟩

theorem exec_cadastreCacheMiss {s : State} {p : Nat} {f : Flit} (hp : p < 48) (hreq : nextReq s p = some f) (hk : f.kind ≠ .tail)
    (hc : f.addr.toNat / 16777216 ∉ (getPortF s p).cadCache) :
    ∃ t, exec (.cadastreCacheMiss p) s = .next t ∧ SameMemory s t ∧
      getPortF t p = { getPortF s p with cadCache := (f.addr.toNat / 16777216 :: (getPortF s p).cadCache).take 512 } := by
  have hno : ¬(f.fa / 2 ^ 24 ∈ (getPortF s p).cadCache ∨ 48 ≤ p ∨ f.kind = .tail) := by
    rintro (h | h | h)
    · exact hc h
    · omega
    · exact hk h
  refine ⟨bump (bump (modPortF s p fun x => { x with cadCache := (f.fa / 2 ^ 24 :: x.cadCache).take 512 }) (fmpBlock p) 10 1)
    (cadBlock (portDie p)) 0 1, ?_, sameMemory_of rfl rfl, ?_⟩
  · show execCadastreCacheMiss p s = _
    rw [execCadastreCacheMiss, hreq]
    exact if_neg hno
  · exact getPortF_same s p _

/-- Settles O37. -/
theorem farRequestsServed : Obligations.FarRequestsServed := by
  intro p s f hp x fpn line ok back q
  refine ⟨fun hreq hk hc => exec_cadastreCacheMiss hp hreq hk hc, fun hreq hans hk hc hok hsn => ?_,
    fun kind c k n rd z sx a hreq hans hk hc hok hpay hw hwait => far_faults ⟨hp, hreq, hans, hk, hc⟩ hok hpay hw hwait,
    fun errs d fixed hslots hans hpause hvalid hdec hpay hv hd hlen =>
      line_fills hslots hans hpause hvalid hdec hpay (List.all_eq_true.2 hv) hd hlen, nextReq_oldest⟩
  have h : AtPort s p f := ⟨hp, hreq, hans, hk, hc⟩
  refine ⟨fun hl hno => ⟨fun hpay hv => far_reads h hok hsn hl hno hpay (List.all_eq_true.2 hv), fun hpay hpart hinj => ?_⟩,
    fun hl hroom => far_misses h hok hsn hl hroom⟩
  obtain ⟨t, hx, hi, hmem, hdirty, hmesh⟩ := far_writes h hok hsn hl hno hpay hpart
  refine ⟨t, hx, hi, fun i hlt => ?_, fun a ha => ?_, hdirty, hmesh⟩
  · rw [hmem]
    have := mrd_foldl_at (g := fun i => farByte s (f.addr.toNat + i)) f.payload 0 s.far.mem hlt
      fun i k hik hk => by simpa using hinj i k hik hk
    simpa using this
  · rw [hmem]
    exact mrd_foldl_other (g := fun i => farByte s (f.addr.toNat + i)) f.payload 0 s.far.mem fun i hi => by simpa using ha i hi

end Sys2Proof.Machine
end

section
/-!
PROOFS. Retirement of rows and pages, zero-fills, scrub reads and laps (R199, R200, R219 to R224, R230 to R232).
-/

namespace Sys2Proof.Machine

/-! ### What the log of an incident leaves of the repair state -/

/-- Only what the log of incidents writes has changed. -/
def Logged (r r' : Repair) : Prop := r' = { r with
  log := r'.log, next := r'.next, logFull := r'.logFull, ovf := r'.ovf, handling := r'.handling, waitStep := r'.waitStep,
  waitFence := r'.waitFence, history := r'.history }

theorem Logged.trans {r r' r'' : Repair} (h : Logged r r') (h' : Logged r' r'') : Logged r r'' := by
  unfold Logged at *
  rw [h', h]

theorem logged_ite {c : Prop} [Decidable c] {r a b : Repair} (h : Logged r a) (h' : Logged r b) : Logged r (if c then a else b) := by
  split
  · exact h
  · exact h'

theorem noteEvent_repair (s : State) (e : Event) (v : List Byte) : (noteEvent s e v).repair = s.repair := by rw [noteEvent_eq]

theorem logInc_logged (s : State) (i : Inc) : Logged s.repair (logInc s i).repair := by
  unfold logInc
  extract_lets r slot old free r1 r2 r3
  have h1 : Logged s.repair r1 := logged_ite rfl rfl
  have h2 : Logged s.repair r2 := by
    refine h1.trans ?_
    show Logged r1 (match i.parcel with | some p => _ | none => r1)
    split
    · exact logged_ite rfl rfl
    · rfl
  have h3 : Logged s.repair r3 := h2.trans (logged_ite rfl rfl)
  split
  · rfl
  · split
    · rw [noteEvent_repair]
      exact h3.trans rfl
    · exact h3.trans rfl

/-! ### Rows of a terrace (R220, R221, R223) -/

/-- Sites, far memory and the mesh are as they were. -/
structure Untouched (s t : State) : Prop where
  sites : t.sites = s.sites
  far : t.far = s.far

theorem Untouched.trans {s t u : State} (h : Untouched s t) (k : Untouched t u) : Untouched s u :=
  ⟨k.sites.trans h.sites, k.far.trans h.far⟩

theorem Untouched.getSite {s t : State} (h : Untouched s t) (n : Nat) : Machine.getSite t n = Machine.getSite s n := by
  rw [Machine.getSite, Machine.getSite, h.sites]

theorem Untouched.memory {s t : State} (h : Untouched s t) : SameMemory s t := sameMemory_of h.sites (by rw [h.far])

theorem untouched_logInc (s : State) (i : Inc) : Untouched s (logInc s i) := by
  obtain ⟨r, f, d, h⟩ := logInc_eq s i
  rw [h]
  exact ⟨rfl, rfl⟩

theorem untouched_useSpare (s : State) (r : Nat × Nat) : Untouched s (useSpare s r) := by
  unfold useSpare
  split <;> exact ⟨rfl, rfl⟩

theorem untouched_recordSoft (s : State) (r : Nat × Nat) (i : Inc) : Untouched s (recordSoft s r i) := by
  unfold recordSoft
  dsimp only
  split
  · exact (untouched_useSpare s r).trans ⟨rfl, rfl⟩
  · exact (untouched_useSpare s r).trans (untouched_logInc ..)

/-- The words of a row that a copy loses. -/
def lostWords (sw : Bool) (row : Nat) (v : W64) (x : Site) : List Nat :=
  ((List.range 8).map fun i => row * 8 + i).filter fun u => !unitValid sw x.terrMarks u || Config.copyLoses v u

/-- A site whose row has been copied. -/
def copiedRow (sw : Bool) (row : Nat) (v : W64) (x : Site) : Site :=
  { x with terr := (lostWords sw row v x).foldl (fun m u => mwrN m (u * 8) (zeros 8)) x.terr
           terrMarks := markInvalid sw x.terrMarks (lostWords sw row v x) }

theorem copyRow_eq (s : State) (site row : Nat) (v : W64) : copyRow s site row v = modSite s site (copiedRow s.far.swInit row v) := rfl

theorem row_of_lostWords {sw : Bool} {row : Nat} {v : W64} {x : Site} {u : Nat} (h : u ∈ lostWords sw row v x) : u / 8 = row := by
  obtain ⟨hu, -⟩ := List.mem_filter.1 h
  obtain ⟨i, hi, rfl⟩ := List.mem_map.1 hu
  have := List.mem_range.1 hi
  omega

theorem mrd_foldl_zeros (us : List Nat) (m : List Host.Cell) {a : Nat} (h : a / 8 ∉ us) :
    mrd (us.foldl (fun m u => mwrN m (u * 8) (zeros 8)) m) a = mrd m a := by
  induction us generalizing m with
  | nil => rfl
  | cons u us ih =>
    rw [List.mem_cons, not_or] at h
    have hlen : (zeros 8).length = 8 := by simp [zeros]
    rw [List.foldl_cons, ih _ h.2, mrd_mwrN, hlen, if_neg (by omega)]

theorem mem_foldl_ndel (us l : List Nat) (u : Nat) : u ∈ us.foldl ndel l ↔ u ∈ l ∧ u ∉ us := by
  induction us generalizing l with
  | nil => simp
  | cons x us ih =>
    rw [List.foldl_cons, ih, ndel, List.mem_filter, List.mem_cons]
    simp [not_or, and_assoc]

theorem mem_foldl_nins (us l : List Nat) (u : Nat) : u ∈ us.foldl nins l ↔ u ∈ l ∨ u ∈ us := by
  induction us generalizing l with
  | nil => simp
  | cons x us ih =>
    rw [List.foldl_cons, ih, mem_nins, List.mem_cons]
    tauto

theorem unitValid_markInvalid {sw : Bool} {us marks : List Nat} {u : Nat} (h : u ∈ us) :
    unitValid sw (markInvalid sw marks us) u = false := by
  unfold unitValid markInvalid
  cases sw with
  | true => simp [mem_foldl_ndel, h]
  | false => simp [mem_foldl_nins, h]

/-- A byte of a copied row's terrace: as it was unless its word is lost. -/
theorem mrd_copiedRow {sw : Bool} {row : Nat} {v : W64} {x : Site} {a : Nat}
    (h : a / 64 ≠ row ∨ unitValid sw (copiedRow sw row v x).terrMarks (a / 8) = true) :
    mrd (copiedRow sw row v x).terr a = mrd x.terr a := by
  refine mrd_foldl_zeros _ _ fun hmem => ?_
  rcases h with h | h
  · have := row_of_lostWords hmem
    omega
  · rw [copiedRow, unitValid_markInvalid hmem] at h
    cases h

/-- The row has left the queue of rows to retire. -/
def Site.dequeued (row : Nat) (x : Site) : Site := { x with retireQ := x.retireQ.filter fun r => r ≠ row }

/-- A site with another tally. -/
def Site.tallied (f : List TallyRow → List TallyRow) (x : Site) : Site := { x with tally := f x.tally }

/-- The incident of a row's retirement. -/
def rowInc (site row : Nat) : Inc :=
  { cls := 0x10, action := 6, locKind := 0, locNum := site, domain := meshDomain site, addr := BitVec.ofNat 64 row }

theorem exec_row_copied {s : State} {site row : Nat} (h : row ∈ (getSite s site).retireQ) (hsp : spareRow s (site, row) = true) :
    ∃ v w, Untouched (modSite s site (Site.dequeued row)) w ∧ exec (.terraceRowRetire site row) s = .next (recordSoft (bump
      (modSite (copyRow w site row v) site (Site.tallied fun l => tallyDrop l row)) (siteBlock site) 23 1) (site, row)
      (rowInc site row)) := by
  refine ⟨(takeFree (modSite s site (Site.dequeued row))).1,
    endHandling (logInc (takeFree (modSite s site (Site.dequeued row))).2 (rowInc site row)) 0x10, ?_, ?_⟩
  · have hfree : Untouched (modSite s site (Site.dequeued row)) (takeFree (modSite s site (Site.dequeued row))).2 := ⟨rfl, rfl⟩
    exact (hfree.trans (untouched_logInc _ (rowInc site row))).trans ⟨rfl, rfl⟩
  · have hsp' : spareRow (modSite s site (Site.dequeued row)) (site, row) = true := hsp
    exact (if_neg (not_not_intro h)).trans (if_pos hsp')

theorem exec_row_refused {s : State} {site row : Nat} (h : row ∈ (getSite s site).retireQ) (hsp : spareRow s (site, row) = false) :
    exec (.terraceRowRetire site row) s = .next (modSite (logInc (modSite s site (Site.dequeued row))
      { rowInc site row with cls := 0x12, action := 7 }) site (Site.tallied fun l => tallyFreeze l row)) := by
  have hsp' : ¬spareRow (modSite s site (Site.dequeued row)) (site, row) = true := by
    rw [show spareRow (modSite s site (Site.dequeued row)) (site, row) = false from hsp]
    decide
  exact (if_neg (not_not_intro h)).trans (if_neg hsp')

theorem row_copied {s : State} {site row : Nat} (h : row ∈ (getSite s site).retireQ) (hsp : spareRow s (site, row) = true) :
    ∃ t v, exec (.terraceRowRetire site row) s = .next t ∧ t.far = s.far ∧
      ∀ n, getSite t n = if n = site then
        (copiedRow s.far.swInit row v ((getSite s site).dequeued row)).tallied fun l => tallyDrop l row
        else getSite s n := by
  obtain ⟨v, w, hu, hx⟩ := exec_row_copied h hsp
  have hr := untouched_recordSoft (bump (modSite (copyRow w site row v) site (Site.tallied fun l => tallyDrop l row))
    (siteBlock site) 23 1) (site, row) (rowInc site row)
  refine ⟨_, v, hx, hr.far.trans hu.far, fun n => (hr.getSite n).trans ?_⟩
  have hsw : w.far.swInit = s.far.swInit := by rw [hu.far]; rfl
  show getSite (modSite (copyRow w site row v) site (Site.tallied fun l => tallyDrop l row)) n = _
  rw [getSite_modSite, copyRow_eq, getSite_modSite, getSite_modSite, hu.getSite, hu.getSite, getSite_modSite, getSite_modSite, hsw]
  by_cases hn : n = site
  · simp only [if_pos hn, if_pos]
  · simp only [if_neg hn]

theorem row_refused {s : State} {site row : Nat} (h : row ∈ (getSite s site).retireQ) (hsp : spareRow s (site, row) = false) :
    ∃ t, exec (.terraceRowRetire site row) s = .next t ∧ SameMemory s t ∧
      getSite t site = ((getSite s site).dequeued row).tallied fun l => tallyFreeze l row := by
  have hu := untouched_logInc (modSite s site (Site.dequeued row)) { rowInc site row with cls := 0x12, action := 7 }
  have hx := exec_row_refused h hsp
  have hm : SameMemory s (modSite s site (Site.dequeued row)) := sameMemory_modSite _ _ _ rfl rfl
  generalize logInc (modSite s site (Site.dequeued row)) { rowInc site row with cls := 0x12, action := 7 } = w at *
  refine ⟨_, hx, (hm.trans hu.memory).trans (sameMemory_modSite _ site _ rfl rfl), ?_⟩
  rw [getSite_modSite, if_pos rfl, hu.getSite, getSite_modSite, if_pos rfl]

theorem frozen_of_tallyFreeze {l : List TallyRow} {row : Nat} {x : TallyRow} (h : x ∈ tallyFreeze l row) (hr : x.row = row) :
    x.frozen = true := by
  obtain ⟨y, -, rfl⟩ := List.mem_map.1 h
  split at hr
  next hy => rw [if_pos hy]
  next hy => exact absurd hr hy

/-- A row that is due is redirected to a spare, or stays with its tally frozen. -/
theorem row_retires {s : State} {site row : Nat} (h : row ∈ (getSite s site).retireQ) :
    ∃ t, exec (.terraceRowRetire site row) s = .next t ∧ row ∉ (getSite t site).retireQ ∧
      (spareRow s (site, row) = true → (∀ x ∈ (getSite t site).tally, x.row ≠ row) ∧
        (∀ n a, mrd (getSite t n).near a = mrd (getSite s n).near a) ∧ (∀ a, mrd t.far.mem a = mrd s.far.mem a) ∧
        (∀ n a, (n ≠ site ∨ a / 64 ≠ row ∨ unitValid t.far.swInit (getSite t site).terrMarks (a / 8) = true) →
          mrd (getSite t n).terr a = mrd (getSite s n).terr a)) ∧
      (spareRow s (site, row) = false → SameMemory s t ∧ ∀ x ∈ (getSite t site).tally, x.row = row → x.frozen = true) := by
  have hq : row ∉ (getSite s site).retireQ.filter fun r => r ≠ row := fun hm => by simpa using (List.mem_filter.1 hm).2
  cases hsp : spareRow s (site, row) with
  | true =>
    obtain ⟨t, v, hx, hfar, hsite⟩ := row_copied h hsp
    have hown : getSite t site = _ := (hsite site).trans (if_pos rfl)
    refine ⟨t, hx, by rw [hown]; exact hq, fun _ => ⟨fun x hx => ?_, fun n a => ?_, fun a => by rw [hfar], fun n a hor => ?_⟩,
      fun h => by cases h⟩
    · rw [hown] at hx
      simpa using (List.mem_filter.1 hx).2
    · rw [hsite]
      split
      next hn => rw [hn]; rfl
      · rfl
    · rw [hsite]
      split
      next hn =>
        rw [hn]
        rw [hfar, hown] at hor
        exact mrd_copiedRow (x := (getSite s site).dequeued row) (hor.resolve_left (not_not_intro hn))
      · rfl
  | false =>
    obtain ⟨t, hx, hm, hown⟩ := row_refused h hsp
    refine ⟨t, hx, by rw [hown]; exact hq, (fun h => by cases h), fun _ => ⟨hm, fun x hx hr => ?_⟩⟩
    rw [hown] at hx
    exact frozen_of_tallyFreeze hx hr

/-! ### A page's retirement starts (R199, R222) -/

theorem dueRetire_keeps (s : State) (p a : Nat) : Untouched s (dueRetire s p a) := by
  unfold dueRetire
  split
  · exact untouched_logInc ..
  · exact (untouched_logInc s (incRetire p a)).trans ⟨rfl, rfl⟩

theorem reservePages_congr {s t : State} (hf : t.far.entries = s.far.entries) (ht : t.twin = s.twin) (p a : Nat) :
    reservePages t p a = reservePages s p a := by
  unfold reservePages twinReserve getEnt twinned
  rw [hf, ht]

theorem pickPage_mem {s : State} {p a : Nat} (v : W64) (h : reservePages s p a ≠ []) :
    ∃ b ∈ reservePages s p a, pickPage s p a v = some b := by
  have hlt := Nat.mod_lt v.toNat (List.length_pos_iff.2 h)
  exact ⟨_, List.getElem_mem hlt, List.getElem?_eq_getElem hlt⟩

/-- A port that holds a retirement back has noted its row. -/
def FarPort.due (row a : Nat) (x : FarPort) : FarPort := { x with tally := tallyFreeze x.tally row, retireQ := x.retireQ ++ [a] }

theorem exec_far_due {p row a : Nat} {s : State} (hdue : tallyDue (getPortF s p).tally row (farThresh s) = true)
    (ha : entOfPpn s (row / 16384) = some a) (hr : (getPortF s p).retiring = none) (hq : (getPortF s p).retireQ = []) :
    exec (.rowRetirement (.far p) row) s = .next (startRetire (modPortF s p fun x =>
      { x with tally := tallyFreeze x.tally row, retireQ := if false then x.retireQ else x.retireQ ++ [a] }) p false 1) := by
  have hagain : (decide (a ∈ (getPortF s p).retireQ) || (getPortF s p).paused a) = false := by
    rw [hq, FarPort.paused, hr]
    simp
  show execRowRetirement (.far p) row s = _
  rw [execRowRetirement]
  dsimp only
  rw [if_pos hdue, ha]
  dsimp only
  rw [hagain, hr]
  rfl

theorem retireOne_picks {s : State} {p a b : Nat} (h : pickPage s p a (takeFree s).1 = some b) : retireOne s p a false =
    (modPortF (dueRetire (takeFree s).2 p a) p fun x => { x with retiring := some { a := a, b := b } }, false) := by
  unfold retireOne
  split
  next hn => rw [h] at hn; cases hn
  next hn => rw [h] at hn; cases hn; rfl

theorem startRetire_one {s t : State} {p a : Nat} {q : List Nat} (hr : (getPortF s p).retiring = none)
    (hq : (getPortF s p).retireQ = a :: q) (n : Nat)
    (h : retireOne (modPortF s p fun x => { x with retireQ := q }) p a false = (t, false)) : startRetire s p false (n + 1) = t := by
  rw [startRetire]
  dsimp only
  rw [hr, hq]
  dsimp only
  rw [h]
  rfl

theorem startRetire_first {p a : Nat} {s : State} (hr : (getPortF s p).retiring = none) (hq : (getPortF s p).retireQ = [a])
    (hres : reservePages s p a ≠ []) : ∃ b ∈ reservePages s p a, SameMemory s (startRetire s p false 1) ∧
      (getPortF (startRetire s p false 1) p).retiring = some { a := a, b := b } := by
  have hres' : reservePages (modPortF s p fun x => { x with retireQ := [] }) p a = reservePages s p a :=
    reservePages_congr rfl rfl p a
  obtain ⟨b, hb, hpick⟩ := pickPage_mem (s := modPortF s p fun x => { x with retireQ := [] }) (p := p) (a := a)
    (takeFree (modPortF s p fun x => { x with retireQ := [] })).1 (fun h => hres (hres'.symm.trans h))
  have hone := startRetire_one hr hq 0 (retireOne_picks hpick)
  have hu := dueRetire_keeps (takeFree (modPortF s p fun x => { x with retireQ := [] })).2 p a
  refine ⟨b, (congrArg (b ∈ ·) hres').mp hb, ?_, ?_⟩
  · rw [hone]
    exact ((sameMemory_of (s := s) (t := (takeFree (modPortF s p fun x => { x with retireQ := [] })).2) rfl rfl).trans
      hu.memory).trans (sameMemory_of rfl rfl)
  · rw [hone, getPortF_same]

theorem page_starts {p row a : Nat} {s : State} (hdue : tallyDue (getPortF s p).tally row (farThresh s) = true)
    (ha : entOfPpn s (row / 16384) = some a) (hr : (getPortF s p).retiring = none) (hq : (getPortF s p).retireQ = [])
    (hres : reservePages s p a ≠ []) :
    ∃ t b, exec (.rowRetirement (.far p) row) s = .next t ∧ SameMemory s t ∧ b ∈ reservePages s p a ∧
      (getPortF t p).retiring = some { a := a, b := b } := by
  have hx := exec_far_due hdue ha hr hq
  have hp := getPortF_same s p fun x => { x with tally := tallyFreeze x.tally row, retireQ := if false then x.retireQ else x.retireQ ++ [a] }
  have hm : SameMemory s (modPortF s p fun x =>
    { x with tally := tallyFreeze x.tally row, retireQ := if false then x.retireQ else x.retireQ ++ [a] }) := sameMemory_of rfl rfl
  have hres' : reservePages (modPortF s p fun x =>
    { x with tally := tallyFreeze x.tally row, retireQ := if false then x.retireQ else x.retireQ ++ [a] }) p a = reservePages s p a :=
    reservePages_congr rfl rfl p a
  generalize modPortF s p (fun x =>
    { x with tally := tallyFreeze x.tally row, retireQ := if false then x.retireQ else x.retireQ ++ [a] }) = u at *
  have hqu : (getPortF u p).retireQ = [a] := by rw [hp, hq]; rfl
  obtain ⟨b, hb, hmem, hret⟩ := startRetire_first (by rw [hp, hr]) hqu fun h => hres (hres'.symm.trans h)
  exact ⟨_, b, hx, hm.trans hmem, (congrArg (b ∈ ·) hres').mp hb, hret⟩

/-! ### A page's retirement completes (R199, R222) -/

theorem keys_nodup {m : List Host.Cell} (h : Memory.wf m = true) : (m.map (·.1)).Nodup := by
  unfold Memory.wf at h
  induction m with
  | nil => exact List.nodup_nil
  | cons e m ih =>
    obtain ⟨j, v⟩ := e
    simp only [swf, Bool.and_eq_true, decide_eq_true_eq] at h
    obtain ⟨⟨ha, -⟩, ht⟩ := h
    rw [List.map_cons, List.nodup_cons]
    refine ⟨fun hm => ?_, ih ht⟩
    obtain ⟨c, hc, he⟩ := List.mem_map.1 hm
    have := sabove_all ha ht c hc
    dsimp only at he
    omega

theorem sget_not_key {m : List Host.Cell} {k : Nat} (h : k ∉ m.map (·.1)) : sget 0 m k = 0 := by
  induction m with
  | nil => rfl
  | cons e m ih =>
    obtain ⟨j, v⟩ := e
    rw [List.map_cons, List.mem_cons, not_or] at h
    rw [sget, if_neg h.1, ih h.2]

theorem page_offset {j pa o : Nat} (hj : j / 16777216 = pa) : pa * 16777216 + o = j ↔ o = j % 16777216 := by
  omega

/-- Cells of one page put into another: a byte there is that of the first page if it has a cell, else as it was. -/
theorem mrd_moved {pa pb o : Nat} (l acc : List Host.Cell) (hl : ∀ c ∈ l, c.1 / 16777216 = pa)
    (hn : (l.map (·.1)).Nodup) :
    mrd (l.foldl (fun acc c => mwr acc (pb * 16777216 + c.1 % 16777216) c.2) acc) (pb * 16777216 + o) =
      if pa * 16777216 + o ∈ l.map (·.1) then sget 0 l (pa * 16777216 + o) else mrd acc (pb * 16777216 + o) := by
  induction l generalizing acc with
  | nil => rfl
  | cons c l ih =>
    obtain ⟨j, v⟩ := c
    have hj : j / 16777216 = pa := hl (j, v) List.mem_cons_self
    rw [List.map_cons, List.nodup_cons] at hn
    rw [List.foldl_cons, ih _ (fun c hc => hl c (List.mem_cons_of_mem _ hc)) hn.2, List.map_cons, mrd_mwr, sget]
    by_cases he : pa * 16777216 + o = j
    · have hno : pa * 16777216 + o ∉ l.map (·.1) := by rw [he]; exact hn.1
      have hmod : pb * 16777216 + o = pb * 16777216 + j % 16777216 := by rw [← (page_offset hj).1 he]
      have hkey : pa * 16777216 + o ∈ (j, v).1 :: l.map (·.1) := by rw [he]; exact List.mem_cons_self
      rw [if_neg hno, if_pos hmod, if_pos hkey, if_pos he]
    · have hmod : ¬pb * 16777216 + o = pb * 16777216 + j % 16777216 := fun h => he ((page_offset hj).2 (Nat.add_left_cancel h))
      rw [if_neg hmod, if_neg he]
      simp only [List.mem_cons, he, false_or]

theorem mrd_moved_other {pb y : Nat} (hy : y / 16777216 ≠ pb) (l acc : List Host.Cell) :
    mrd (l.foldl (fun acc c => mwr acc (pb * 16777216 + c.1 % 16777216) c.2) acc) y = mrd acc y := by
  induction l generalizing acc with
  | nil => rfl
  | cons c l ih =>
    rw [List.foldl_cons, ih, mrd_mwr, if_neg (by omega)]

theorem mrd_movePage {m : List Host.Cell} (h : Memory.wf m = true) (pa pb : Nat) :
    (∀ o, o < 16777216 → mrd (movePage m pa pb) (pb * 16777216 + o) = mrd m (pa * 16777216 + o)) ∧
    ∀ y, y / 16777216 ≠ pb → mrd (movePage m pa pb) y = mrd m y := by
  have hfilter (q : Nat → Bool) (y : Nat) : mrd (m.filter fun c => q c.1) y = if q y then mrd m y else 0 := sget_filter 0 q m y
  refine ⟨fun o ho => ?_, fun y hy => ?_⟩
  · have hl : ∀ c ∈ m.filter (fun c => decide (c.1 / 16777216 = pa)), c.1 / 16777216 = pa := fun c hc => by
      simpa using (List.mem_filter.1 hc).2
    have hn : ((m.filter fun c => decide (c.1 / 16777216 = pa)).map (·.1)).Nodup :=
      (keys_nodup h).sublist ((List.filter_sublist ..).map _)
    have hmv := mrd_moved (pb := pb) (o := o) _ (m.filter fun c => decide (c.1 / 16777216 ≠ pb)) hl hn
    have ha := hfilter (fun k => decide (k / 16777216 = pa)) (pa * 16777216 + o)
    have hb := hfilter (fun k => decide (k / 16777216 ≠ pb)) (pb * 16777216 + o)
    rw [if_pos (by simp; omega)] at ha
    rw [if_neg (by simp; omega)] at hb
    refine hmv.trans ?_
    rw [hb, ← ha]
    split
    · rfl
    next hk => exact (sget_not_key hk).symm
  · refine (mrd_moved_other hy _ _).trans ?_
    have := hfilter (fun k => decide (k / 16777216 ≠ pb)) y
    rwa [if_pos (by simpa using hy)] at this

/-- What is left of far memory's entries and ports by what is logged and counted. -/
theorem untouched_endRetire (s : State) (p a : Nat) : Untouched s (endRetire s p a) := by
  unfold endRetire
  split <;> exact ⟨rfl, rfl⟩

theorem toNat_entPpn (s : State) (n : Nat) : (BitVec.ofNat 18 (entPpn s n)).toNat = entPpn s n := by
  rw [BitVec.toNat_ofNat, entPpn]
  exact Nat.mod_eq_of_lt (BitVec.isLt _)

theorem ofNat_entPpn (s : State) (n : Nat) :
    BitVec.ofNat 18 (entPpn s n) = (if s.far.ppnSet then BitVec.ofNat 18 n else 0) ^^^ (getEnt s n).ppnDiff := by
  rw [entPpn, BitVec.ofNat_toNat, BitVec.setWidth_eq]

theorem xor_exchange (base diff a b : BitVec 18) (h : a = base ^^^ diff) : base ^^^ (diff ^^^ (a ^^^ b)) = b := by
  rw [← BitVec.xor_assoc, ← h, ← BitVec.xor_assoc, BitVec.xor_self, BitVec.zero_xor]

theorem entPpn_exchange {s : State} {a b : Nat} (hab : a ≠ b) : entPpn (exchangePpn s a b) a = entPpn s b ∧
    entPpn (exchangePpn s a b) b = entPpn s a ∧ (getEnt (exchangePpn s a b) b).ret = true := by
  have hent (n : Nat) : getEnt (exchangePpn s a b) n = if n = b then
      { getEnt s b with ppnDiff := (getEnt s b).ppnDiff ^^^ (BitVec.ofNat 18 (entPpn s a) ^^^ BitVec.ofNat 18 (entPpn s b)), ret := true }
      else if n = a then { getEnt s a with
        ppnDiff := (getEnt s a).ppnDiff ^^^ (BitVec.ofNat 18 (entPpn s a) ^^^ BitVec.ofNat 18 (entPpn s b)) }
      else getEnt s n := by
    rw [exchangePpn, getEnt_modEnt, getEnt_modEnt, getEnt_modEnt, if_neg (Ne.symm hab)]
  have hset : (exchangePpn s a b).far.ppnSet = s.far.ppnSet := rfl
  refine ⟨?_, ?_, ?_⟩
  · rw [entPpn, hent, if_neg hab, if_pos rfl, hset]
    dsimp only
    rw [xor_exchange _ _ _ _ (ofNat_entPpn s a), toNat_entPpn]
  · rw [entPpn, hent, if_pos rfl, hset]
    dsimp only
    rw [BitVec.xor_comm (BitVec.ofNat 18 (entPpn s a)), xor_exchange _ _ _ _ (ofNat_entPpn s b), toNat_entPpn]
  · rw [hent, if_pos rfl]

/-- A page's copy is in its new place. -/
def pageMoved (s : State) (p a b : Nat) : State :=
  let pa := entPpn s a
  let pb := entPpn s b
  let t := (takeFree s).2
  let u := dropCad (dropCad (exchangePpn { t with far := { t.far with
    mem := movePage t.far.mem pa pb
    marks := markInvalid t.far.swInit (moveMarks t.far.marks pa pb) (lostLines pb (takeFree s).1) } } a b) a) b
  modPortF u p fun x =>
    { x with retiring := none, lines := x.lines.filter fun l => l / 2 ^ 18 ≠ pa && l / 2 ^ 18 ≠ pb,
             dirtyLines := x.dirtyLines.filter fun l => l / 2 ^ 18 ≠ pa && l / 2 ^ 18 ≠ pb,
             tally := x.tally.filter fun t => t.row / 16384 ≠ pa,
             snoops := x.snoops.map fun z => { z with line := if z.line / 2 ^ 18 = pa then pb * 2 ^ 18 + z.line % 2 ^ 18 else z.line } }

theorem portMoved (s : State) (p a b : Nat) :
    (getPortF (pageMoved s p a b) p).retiring = none ∧ (getPortF (pageMoved s p a b) p).retireQ = (getPortF s p).retireQ := by
  have hdrop (u : State) (n : Nat) : (getPortF (dropCad u n) p).retireQ = (getPortF u p).retireQ := by
    rw [dropCad, getPortF_modPortF]
    split
    next h => rw [h]
    · rfl
  have hport (u : State) : (getPortF (dropCad (dropCad u a) b) p).retireQ = (getPortF u p).retireQ := (hdrop ..).trans (hdrop ..)
  unfold pageMoved
  dsimp only
  rw [getPortF_same]
  exact ⟨rfl, hport _⟩

/-- A retirement is noted in the Repair Plat, if it has room (R223, R224). -/
def noteRetired (s : State) (p a b : Nat) : State :=
  if s.repair.retired.length < 1024 then { s with repair := { s.repair with retired := s.repair.retired ++ [(a, b)] } }
  else logInc s { cls := 0x16, locKind := 1, locNum := p, domain := locDomain 1 p, addr := BitVec.ofNat 64 (a * 2 ^ 24) }

theorem untouched_noteRetired (s : State) (p a b : Nat) : Untouched s (noteRetired s p a b) := by
  unfold noteRetired
  split
  · exact ⟨rfl, rfl⟩
  · exact untouched_logInc ..

/-- A page's retirement is over, before the next of its port starts. -/
def pageEnd (s : State) (p a b : Nat) : State :=
  noteRetired (endRetire (bump (pageMoved s p a b) (cadBlock (portDie p)) 2 1) p a) p a b

theorem untouched_pageEnd (s : State) (p a b : Nat) : Untouched (pageMoved s p a b) (pageEnd s p a b) :=
  (Untouched.trans (s := pageMoved s p a b) (t := bump (pageMoved s p a b) (cadBlock (portDie p)) 2 1) ⟨rfl, rfl⟩
    (untouched_endRetire _ p a)).trans (untouched_noteRetired _ p a b)

theorem pageRetired_eq {s : State} {p a b : Nat} (h : (getPortF s p).retiring = some { a := a, b := b }) :
    pageRetired s p = startRetire (pageEnd s p a b) p true (getPortF (pageEnd s p a b) p).retireQ.length := by
  unfold pageRetired
  split
  next hn => rw [h] at hn; cases hn
  next hr => rw [h] at hr; cases hr; rfl

theorem Untouched.ofPort {s t : State} (h : Untouched s t) (p : Nat) : getPortF t p = getPortF s p := by
  rw [getPortF, getPortF, h.far]

theorem Untouched.ent {s t : State} (h : Untouched s t) (n : Nat) : getEnt t n = getEnt s n := by rw [getEnt, getEnt, h.far]

theorem Untouched.ppn {s t : State} (h : Untouched s t) (n : Nat) : entPpn t n = entPpn s n := by
  rw [entPpn, entPpn, h.ent, h.far]

theorem pageRetired_alone {s : State} {p a b : Nat} (h : (getPortF s p).retiring = some { a := a, b := b })
    (hq : (getPortF s p).retireQ = []) : pageRetired s p = pageEnd s p a b := by
  rw [pageRetired_eq h, (untouched_pageEnd s p a b).ofPort, (portMoved s p a b).2, hq]
  rfl

/-- A retirement's completion: the page's entry names the reserve's physical page, which holds its bytes. -/
theorem page_retires {p a b : Nat} {s : State} (h : (getPortF s p).retiring = some { a := a, b := b })
    (hq : (getPortF s p).retireQ = []) (hwf : Memory.wf s.far.mem = true) (hab : a ≠ b) :
    ∃ t, exec (.pageRetirementComplete p) s = .next (pumpHosts t) ∧ entPpn t a = entPpn s b ∧ entPpn t b = entPpn s a ∧
      (getEnt t b).ret = true ∧ (getPortF t p).retiring = none ∧
      (∀ o, o < 16777216 → mrd t.far.mem (entPpn t a * 16777216 + o) = mrd s.far.mem (entPpn s a * 16777216 + o)) ∧
      (∀ y, y / 16777216 ≠ entPpn s b → mrd t.far.mem y = mrd s.far.mem y) := by
  have hu := untouched_pageEnd s p a b
  have hx : exec (.pageRetirementComplete p) s = .next (pumpHosts (pageEnd s p a b)) := by
    have hne : (getPortF s p).retiring ≠ none := by rw [h]; exact Option.some_ne_none _
    rw [← pageRetired_alone h hq]
    exact if_neg hne
  obtain ⟨ha, hb, hret⟩ := entPpn_exchange (s := s) hab
  obtain ⟨hin, hout⟩ := mrd_movePage hwf (entPpn s a) (entPpn s b)
  have hmem : (pageMoved s p a b).far.mem = movePage s.far.mem (entPpn s a) (entPpn s b) := rfl
  have hppn : entPpn (pageEnd s p a b) a = entPpn s b := (hu.ppn a).trans ha
  refine ⟨_, hx, hppn, (hu.ppn b).trans hb, ?_, ?_, fun o ho => ?_, fun y hy => ?_⟩
  · rw [hu.ent]
    exact hret
  · rw [hu.ofPort]
    exact (portMoved s p a b).1
  · rw [hppn, hu.far, hmem, hin o ho]
  · rw [hu.far, hmem, hout y hy]

/-! ### Zero-fills (R200) -/

theorem fill_completes {fpn : Nat} {s : State} {x : ZeroFill} (h : s.far.fills.find? (fun x => x.fpn = fpn) = some x) :
    ∃ u, exec (.zeroFillComplete fpn) s = .next (fillDone u x) ∧ (getEnt u fpn).zpend = false ∧ (getEnt u fpn).zneed = false ∧
      ∀ o, o < 16777216 → mrd u.far.mem (entPpn s fpn * 16777216 + o) = 0 := by
  have hx : exec (.zeroFillComplete fpn) s = .next (fillDone (modEnt { zeroPage s (entPpn s fpn) with far :=
      { (zeroPage s (entPpn s fpn)).far with fills := (zeroPage s (entPpn s fpn)).far.fills.erase x } } fpn fun e =>
        { e with zpend := false, zneed := false }) x) := by
    show execZeroFillComplete fpn s = _
    unfold execZeroFillComplete
    split
    next hn => rw [h] at hn; cases hn
    next hy => rw [h] at hy; cases hy; rfl
  refine ⟨_, hx, ?_, ?_, fun o ho => ?_⟩
  · rw [getEnt_modEnt, if_pos rfl]
  · rw [getEnt_modEnt, if_pos rfl]
  · have := sget_filter 0 (fun k => decide (k / 16777216 ≠ entPpn s fpn)) s.far.mem (entPpn s fpn * 16777216 + o)
    rw [if_neg (by simp; omega)] at this
    exact this

/-! ### Scrub reads and laps (R214, R230 to R232) -/

theorem reported_scrubTo (s : State) (die : Nat) (far : Bool) (n : Nat) : Reported s (scrubTo s die far n) := reported_of rfl rfl rfl

theorem scrubbed_scrubTo (s : State) (die : Nat) (far : Bool) (n : Nat) :
    sget 0 (scrubTo s die far n).repair.scrubbed (die * 2 + if far then 1 else 0) = n := by
  show sget 0 (sset ..) _ = n
  rw [sget_sset, if_pos rfl]

theorem scrubbed_word (s : State) (die n : Nat) : sget 0 (scrubTo s die false n).repair.scrubbed (die * 2) = n :=
  scrubbed_scrubTo s die false n

theorem repair_scrubTo {s u : State} (h : u.repair = s.repair) (die n : Nat) :
    (scrubTo u die false n).repair = { s.repair with scrubbed := (scrubTo u die false n).repair.scrubbed } := by
  rw [← h]
  rfl

theorem getSite_scrubTo (s : State) (die : Nat) (far : Bool) (n m : Nat) : getSite (scrubTo s die far n) m = getSite s m := rfl

theorem terrTally_keeps (s : State) (site row : Nat) : (terrTally s site row 0).repair = s.repair ∧
    (getSite (terrTally s site row 0) site).tally = (tallyAdd 16 0 (getSite s site).tally row).1 := by
  unfold terrTally
  dsimp only
  split
  · exact ⟨rfl, by rw [getSite_bump, getSite_modSite, if_pos rfl]⟩
  · exact ⟨rfl, by rw [getSite_modSite, if_pos rfl]⟩

theorem passedOver_word {s : State} {die site idx : Nat} (hd : siteDie site = die) (hidx : idx < 6291456)
    (hr : (getSite s site).rfail = false) : passedOver s die false (site % 400 * terrWords + idx) = false := by
  have hw : terrWords = 6291456 := rfl
  have hdie : site / 400 = die := hd
  have hsite : die * 400 + (site % 400 * terrWords + idx) / terrWords = site := by
    rw [hw]
    omega
  show (getSite s (die * 400 + _)).rfail = false
  rw [hsite, hr]

theorem exec_scrub_word {die site idx bad : Nat} {s : State} (hgk : gkOn s die = true) (hs : site < 800) (hd : siteDie site = die)
    (hidx : idx < 6291456) (hr : (getSite s site).rfail = false)
    (hat : scrubAt s die false (site % 400 * 6291456 + idx) = true) :
    exec (.scrubRead die (.word site idx bad)) s =
      .next (scrubTo (scrubWord s die site idx bad) die false (site % 400 * 6291456 + idx + 1)) := by
  have hc : site < 800 ∧ siteDie site = die ∧ idx < terrWords ∧ passedOver s die false (site % 400 * terrWords + idx) = false ∧
      scrubAt s die false (site % 400 * terrWords + idx) = true := ⟨hs, hd, hidx, passedOver_word hd hidx hr, hat⟩
  have hon : ¬(!gkOn s die) = true := by simp [hgk]
  exact (if_neg hon).trans (if_pos hc)

/-- The Groundskeeper has counted a word that it corrected. -/
def wordCounted (s : State) (die site : Nat) : State :=
  bump (bump (bump s (gkBlock die) 0 1) (siteBlock site) 19 1) (gkBlock die) 2 1

/-- The Groundskeeper has reported a word that it could not correct. -/
def wordLost (s : State) (die site idx : Nat) : State :=
  logInc (bump (countUnc (bump s (gkBlock die) 0 1) 0x05 0 site (BitVec.ofNat 64 (3 * 2 ^ 60 + site * 2 ^ 32 + idx * 8)))
      (gkBlock die) 4 1)
    { cls := 0x05, source := 1,
      parcel := bedParcel (bump (countUnc (bump s (gkBlock die) 0 1) 0x05 0 site
        (BitVec.ofNat 64 (3 * 2 ^ 60 + site * 2 ^ 32 + idx * 8))) (gkBlock die) 4 1) (siteBed site),
      locKind := 0, locNum := site, domain := meshDomain site,
      addr := BitVec.ofNat 64 (3 * 2 ^ 60 + site * 2 ^ 32 + idx * 8) }

theorem reported_wordLost (s : State) (die site idx : Nat) : Reported s (wordLost s die site idx) :=
  (((reported_bump ..).trans (reported_countUnc ..)).trans (reported_bump ..)).trans (reported_logInc ..)

theorem scrubWord_valid {s : State} {site idx : Nat} (die bad : Nat)
    (hv : unitValid s.far.swInit (getSite s site).terrMarks idx = true) : scrubWord s die site idx bad =
      if bad = 0 then bump s (gkBlock die) 0 1
      else if bad = 1 then terrTally (wordCounted s die site) site (terrRow (idx * 8)) 0
      else wordLost s die site idx := by
  have hvalid : ¬(!unitValid s.far.swInit (getSite s site).terrMarks idx) = true := by simp [hv]
  exact if_neg hvalid

/-- A word with its one wrong bit is counted to its row; with more it is reported. -/
theorem scrubWord_results {s : State} {site idx : Nat} (die bad : Nat)
    (hv : unitValid s.far.swInit (getSite s site).terrMarks idx = true) :
    Reported s (scrubWord s die site idx bad) ∧
    (bad = 0 → (getSite (scrubWord s die site idx bad) site).tally = (getSite s site).tally) ∧
    (bad = 1 → (getSite (scrubWord s die site idx bad) site).tally = (tallyAdd 16 0 (getSite s site).tally (idx / 8)).1 ∧
      (scrubWord s die site idx bad).repair = s.repair) := by
  have hrow : terrRow (idx * 8) = idx / 8 := by
    show idx * 8 / 64 = idx / 8
    omega
  rw [scrubWord_valid die bad hv]
  by_cases h0 : bad = 0
  · rw [if_pos h0]
    exact ⟨reported_bump .., fun _ => rfl, fun h => by omega⟩
  rw [if_neg h0]
  by_cases h1 : bad = 1
  · rw [if_pos h1, hrow]
    have hb : Reported s (wordCounted s die site) := ((reported_bump ..).trans (reported_bump ..)).trans (reported_bump ..)
    have hrep : (wordCounted s die site).repair = s.repair := by simp [wordCounted]
    have htal : getSite (wordCounted s die site) site = getSite s site := by simp [wordCounted]
    generalize wordCounted s die site = u at *
    obtain ⟨hr, htally⟩ := terrTally_keeps u site (idx / 8)
    rw [htal] at htally
    exact ⟨hb.trans (reported_terrTally ..), fun h => absurd h h0, fun _ => ⟨htally, hr.trans hrep⟩⟩
  · rw [if_neg h1]
    exact ⟨reported_wordLost .., fun h => absurd h h0, fun h => absurd h h1⟩

theorem scrub_reads {die site idx bad : Nat} {s : State} (hgk : gkOn s die = true) (hs : site < 800) (hd : siteDie site = die)
    (hidx : idx < 6291456) (hr : (getSite s site).rfail = false)
    (hv : unitValid s.far.swInit (getSite s site).terrMarks idx = true)
    (hat : scrubAt s die false (site % 400 * 6291456 + idx) = true) :
    ∃ t, exec (.scrubRead die (.word site idx bad)) s = .next t ∧ SameMemory s t ∧
      sget 0 t.repair.scrubbed (die * 2) = site % 400 * 6291456 + idx + 1 ∧
      (bad = 0 → (getSite t site).tally = (getSite s site).tally) ∧
      (bad = 1 → (getSite t site).tally = (tallyAdd 16 0 (getSite s site).tally (idx / 8)).1 ∧
        t.repair = { s.repair with scrubbed := t.repair.scrubbed }) := by
  obtain ⟨hrep, h0, h1⟩ := scrubWord_results die bad hv
  have hx := exec_scrub_word (bad := bad) hgk hs hd hidx hr hat
  generalize scrubWord s die site idx bad = u at *
  refine ⟨_, hx, hrep.memory.trans (reported_scrubTo ..).memory, scrubbed_word .., ?_,
    fun hb => ⟨?_, repair_scrubTo (h1 hb).2 ..⟩⟩
  · rw [getSite_scrubTo]
    exact h0
  · rw [getSite_scrubTo]
    exact (h1 hb).1

/-- The length of a lap is in the Groundskeeper's state. -/
def lapKept (s : State) (die : Nat) (far : Bool) (v : W32) : State :=
  { s with repair := if far then { s.repair with lapFar := sset 0 s.repair.lapFar die v }
                     else { s.repair with lapTer := sset 0 s.repair.lapTer die v } }

/-- A lap is over and the next starts. -/
def lapTurned (s : State) (die len : Nat) (far : Bool) : State :=
  startLap (bump (lapKept (scrubTo s die far 0) die far (BitVec.ofNat 32 len)) (gkBlock die) (if far then 6 else 5) 1) die far

theorem lapTurned_results (s : State) (die len : Nat) (far : Bool) :
    Reported s (lapTurned s die len far) ∧
      sget 0 (if far then (lapTurned s die len far).repair.lapFar else (lapTurned s die len far).repair.lapTer) die =
        BitVec.ofNat 32 len ∧
      sget 0 (lapTurned s die len far).repair.scrubbed (die * 2 + (if far then 1 else 0)) = 0 ∧
      (lapTurned s die len far).repair.log = s.repair.log ∧ (lapTurned s die len far).repair.logFull = s.repair.logFull := by
  refine ⟨reported_of rfl rfl rfl, ?_, ?_, ?_, ?_⟩
  · cases far <;> exact (sget_sset ..).trans (if_pos rfl)
  · have hs : (lapTurned s die len far).repair.scrubbed = (scrubTo s die far 0).repair.scrubbed := by cases far <;> rfl
    rw [hs, scrubbed_scrubTo]
  · cases far <;> rfl
  · cases far <;> rfl

theorem exec_lapEnd {die len : Nat} {far : Bool} {s : State} (hgk : gkOn s die = true) (hlen : lapTarget s die far ≤ len)
    (hat : scrubAt s die far (lapUnits far) = true) : exec (.lapEnd die far len) s =
      if lapBound s die far < len then .next (logInc (bump (lapTurned s die len far) (gkBlock die) 7 1)
        { cls := 0x13, source := 1, locKind := 2, locNum := die, domain := 56 + die, detail := BitVec.ofNat 32 len })
      else .next (lapTurned s die len far) := by
  have hc : ¬(!gkOn s die || decide (len < lapTarget s die far) || !scrubAt s die far (lapUnits far)) = true := by
    simp [hgk, hat, hlen]
  have hb : lapBound (bump (lapKept (scrubTo s die far 0) die far (BitVec.ofNat 32 len)) (gkBlock die) (if far then 6 else 5) 1)
      die far = lapBound s die far := by cases far <;> rfl
  rw [← hb]
  exact if_neg hc

theorem lap_ends {die len : Nat} {far : Bool} {s : State} (hgk : gkOn s die = true) (hlen : lapTarget s die far ≤ len)
    (hat : scrubAt s die far (lapUnits far) = true) :
    ∃ t, exec (.lapEnd die far len) s = .next t ∧ SameMemory s t ∧
      sget 0 (if far then t.repair.lapFar else t.repair.lapTer) die = BitVec.ofNat 32 len ∧
      sget 0 t.repair.scrubbed (die * 2 + (if far then 1 else 0)) = 0 ∧
      (len ≤ lapBound s die far → t.repair.log = s.repair.log ∧ t.repair.logFull = s.repair.logFull) := by
  obtain ⟨hrep, hkept, hback, hlog, hfull⟩ := lapTurned_results s die len far
  have hx := exec_lapEnd hgk hlen hat
  generalize lapTurned s die len far = u at *
  by_cases hover : lapBound s die far < len
  · rw [if_pos hover] at hx
    have hl := logInc_logged (bump u (gkBlock die) 7 1)
      { cls := 0x13, source := 1, locKind := 2, locNum := die, domain := 56 + die, detail := BitVec.ofNat 32 len }
    have hm := (reported_bump u (gkBlock die) 7 1).trans (reported_logInc (bump u (gkBlock die) 7 1)
      { cls := 0x13, source := 1, locKind := 2, locNum := die, domain := 56 + die, detail := BitVec.ofNat 32 len })
    generalize logInc (bump u (gkBlock die) 7 1)
      { cls := 0x13, source := 1, locKind := 2, locNum := die, domain := 56 + die, detail := BitVec.ofNat 32 len } = w at *
    refine ⟨w, hx, (hrep.trans hm).memory, ?_, ?_, fun h => by omega⟩
    · rw [hl]
      exact hkept
    · rw [hl]
      exact hback
  · rw [if_neg hover] at hx
    exact ⟨u, hx, hrep.memory, hkept, hback, fun _ => ⟨hlog, hfull⟩⟩

theorem row_queued {site row : Nat} {s : State} (hdue : tallyDue (getSite s site).tally row (terThresh s) = true)
    (hq : row ∉ (getSite s site).retireQ) : ∃ t, exec (.rowRetirement (.terrace site) row) s = .next t ∧ SameMemory s t ∧
      getSite t site = { getSite s site with retireQ := (getSite s site).retireQ ++ [row] } := by
  have hc : (tallyDue (getSite s site).tally row (terThresh s) && decide (row ∉ (getSite s site).retireQ)) = true := by
    simp [hdue, hq]
  have hx : exec (.rowRetirement (.terrace site) row) s =
      .next (modSite s site fun x => { x with retireQ := x.retireQ ++ [row] }) := if_pos hc
  exact ⟨_, hx, sameMemory_modSite _ _ _ rfl rfl, by rw [getSite_modSite, if_pos rfl]⟩

/-- Settles O38. -/
theorem farRepairWork : Obligations.FarRepairWork :=
  ⟨fun _ _ _ => row_queued, fun _ _ _ => row_retires, fun _ _ _ _ => page_starts,
    fun _ _ _ _ h hq hwf hab _ => page_retires h hq hwf hab, fun _ _ _ => fill_completes,
    fun _ _ _ _ _ hgk hs hd hidx hr hv hat => scrub_reads hgk hs hd hidx hr hv hat, fun _ _ _ _ => lap_ends⟩

end Sys2Proof.Machine
end

section
/-!
PROOFS. Records that windows take, their completions and the segments they stand in (R324 to R333, R341, R342).
-/

namespace Sys2Proof.Machine

/-! ### What taking and completing a record leaves -/

/-- Only the Gatehouse's windows, parcels and writes, and counters, have changed; of a parcel only its records. -/
structure Booked (s t : State) : Prop where
  state : t = { s with gate := { s.gate with windows := t.gate.windows, parcels := t.gate.parcels, writes := t.gate.writes },
                       regs := { s.regs with ctrs := t.regs.ctrs } }
  pcl : ∀ p, getPcl t p = { getPcl s p with csd := (getPcl t p).csd, recCount := (getPcl t p).recCount, stepRecs := (getPcl t p).stepRecs }

theorem Booked.refl (s : State) : Booked s s := ⟨rfl, fun _ => rfl⟩

theorem Booked.trans {s t u : State} (h : Booked s t) (k : Booked t u) : Booked s u :=
  ⟨by rw [k.state, h.state], fun p => by rw [k.pcl, h.pcl]⟩

theorem booked_bump (s : State) (b i n : Nat) : Booked s (bump s b i n) := ⟨rfl, fun _ => rfl⟩

theorem booked_modWin (s : State) (w : Nat) (f : Window → Window) : Booked s (modWin s w f) := ⟨rfl, fun _ => rfl⟩

theorem booked_modPcl (s : State) (p : Nat) {f : Parcel → Parcel}
    (hf : ∀ x, f x = { x with csd := (f x).csd, recCount := (f x).recCount, stepRecs := (f x).stepRecs }) : Booked s (modPcl s p f) := by
  refine ⟨rfl, fun q => ?_⟩
  rw [getPcl_modPcl]
  split
  next h => rw [h]; exact hf _
  · rfl

theorem Booked.sites {s t : State} (h : Booked s t) : t.sites = s.sites := by rw [h.state]

theorem Booked.far {s t : State} (h : Booked s t) : t.far = s.far := by rw [h.state]

theorem Booked.memory {s t : State} (h : Booked s t) : SameMemory s t := sameMemory_of h.sites (by rw [h.far])

theorem Booked.getSite {s t : State} (h : Booked s t) (n : Nat) : Machine.getSite t n = Machine.getSite s n := by
  rw [Machine.getSite, Machine.getSite, h.sites]

theorem booked_countRec (s : State) (p : Nat) (r : Rec) : Booked s (countRec s p r) := booked_modPcl s p fun _ => rfl

theorem booked_takeRec (s : State) (w : Nat) (r : Rec) : Booked s (takeRec s w r) := by
  unfold takeRec
  dsimp only
  split
  · exact .refl s
  · split
    · exact booked_modWin ..
    · split
      · exact (booked_bump ..).trans (booked_modWin ..)
      · exact ((booked_bump ..).trans (booked_modWin ..)).trans (booked_countRec ..)

theorem booked_startRec (s : State) (w : Nat) (b : List Byte) (irq : Bool) : Booked s (startRec s w b irq) := ⟨rfl, fun _ => rfl⟩

theorem booked_emitRec (s : State) (w : Nat) (b : List Byte) (irq : Bool) : Booked s (emitRec s w b irq) := by
  unfold emitRec
  split
  · exact .refl s
  · split
    · exact booked_startRec ..
    · exact booked_modWin ..

theorem booked_writeCompletion (s : State) (w : Nat) (r : Rec) (st : Nat) (body : List Byte) :
    Booked s (writeCompletion s w r st body) := by
  unfold writeCompletion
  split
  · dsimp only
    split
    · exact booked_emitRec ..
    · exact (booked_emitRec ..).trans (booked_modPcl _ _ fun _ => rfl)
  · exact .refl s

theorem booked_finRec (s : State) (w : Nat) (r : Rec) (st : Nat) (body : List Byte) : Booked s (finRec s w r st body) :=
  (booked_modWin s w fun x => { x with waitRec := none, pagesDone := 0 }).trans (booked_writeCompletion ..)

theorem getWin_modWin_same (s : State) (w : Nat) (f : Window → Window) : getWin (modWin s w f) w = f (getWin s w) :=
  (getWin_modWin ..).trans (if_pos rfl)

theorem getPcl_modPcl_same (s : State) (p : Nat) (f : Parcel → Parcel) : getPcl (modPcl s p f) p = f (getPcl s p) :=
  (getPcl_modPcl ..).trans (if_pos rfl)

/-- Of a window only the tail of its ring and the records that wait for room have changed. -/
theorem getWin_emitRec (s : State) (w : Nat) (b : List Byte) (irq : Bool) (v : Nat) : getWin (emitRec s w b irq) v =
    { getWin s v with crTail := (getWin (emitRec s w b irq) v).crTail, backlog := (getWin (emitRec s w b irq) v).backlog } := by
  have hmod (f : Window → Window) (hf : ∀ x, f x = { x with crTail := (f x).crTail, backlog := (f x).backlog }) :
      getWin (modWin s w f) v =
        { getWin s v with crTail := (getWin (modWin s w f) v).crTail, backlog := (getWin (modWin s w f) v).backlog } := by
    rw [getWin_modWin]
    split
    next h => rw [h]; exact hf _
    · rfl
  unfold emitRec
  split
  · rfl
  · split
    · exact hmod (fun x => { x with crTail := x.crTail + 1 }) fun _ => rfl
    · exact hmod (fun x => { x with backlog := x.backlog ++ [(b, irq)] }) fun _ => rfl

theorem getWin_writeCompletion (s : State) (w : Nat) (r : Rec) (st : Nat) (body : List Byte) (v : Nat) :
    getWin (writeCompletion s w r st body) v = { getWin s v with
      crTail := (getWin (writeCompletion s w r st body) v).crTail, backlog := (getWin (writeCompletion s w r st body) v).backlog } := by
  unfold writeCompletion
  split
  · dsimp only
    split
    · exact getWin_emitRec ..
    · exact getWin_emitRec ..
  · rfl

theorem getWin_finRec (s : State) (w : Nat) (r : Rec) (st : Nat) (body : List Byte) : getWin (finRec s w r st body) w =
    { getWin s w with waitRec := none, pagesDone := 0, crTail := (getWin (finRec s w r st body) w).crTail,
                      backlog := (getWin (finRec s w r st body) w).backlog } := by
  have h := getWin_writeCompletion (endRec s w) w r st body w
  rw [endRec, getWin_modWin_same] at h
  exact h

/-! ### A record is taken (R325, R328, R331 to R333) -/

theorem curRec_waits {s : State} {w : Nat} {r r' : Rec} (h : curRec s w = some r) (hw : (getWin s w).waitRec = some r') : r' = r := by
  unfold curRec at h
  dsimp only at h
  split at h
  · cases h
  · rw [hw] at h
    exact Option.some.inj ((Option.filter_eq_some_iff.1 h).1)

/-- The window's registers are as they were, and the record is the one that executes. -/
theorem getWin_takeRec {s : State} {w : Nat} {r : Rec} (h : curRec s w = some r) :
    (getWin (takeRec s w r) w).waitRec = some r ∧ (getWin (takeRec s w r) w).ctl = (getWin s w).ctl ∧
      (getWin (takeRec s w r) w).pagesDone = (getWin s w).pagesDone ∧ (getWin (takeRec s w r) w).groups = (getWin s w).groups := by
  unfold takeRec
  dsimp only
  split
  next hs =>
    obtain ⟨r', hr⟩ := Option.isSome_iff_exists.1 hs
    exact ⟨hr.trans (congrArg _ (curRec_waits h hr)), rfl, rfl, rfl⟩
  · split
    · rw [getWin_modWin_same]
      exact ⟨rfl, rfl, rfl, rfl⟩
    · split
      · rw [getWin_modWin_same, getWin_bump]
        exact ⟨rfl, rfl, rfl, rfl⟩
      · rw [countRec, getWin_modPcl, getWin_modWin_same, getWin_bump]
        exact ⟨rfl, rfl, rfl, rfl⟩

theorem getWin_takeRec_ne (s : State) (r : Rec) {w v : Nat} (h : v ≠ w) : getWin (takeRec s w r) v = getWin s v := by
  have hmod (u : State) (f : Window → Window) : getWin (modWin u w f) v = getWin u v := (getWin_modWin ..).trans (if_neg h)
  unfold takeRec
  dsimp only
  split
  · rfl
  · split
    · exact hmod ..
    · split
      · exact (hmod ..).trans (getWin_bump ..)
      · rw [countRec, getWin_modPcl, hmod, getWin_bump]

section
variable {op : Nat} {k : Kinds} {lay : List OpField} {w : Nat} {s : State} {r : Rec} (h : RecordRuns op k lay w s r)
  {f : Nat → Rec → State → RecRes}
include h

theorem record_runs : record op k lay w s f = match f (getWin s w).parcel r (takeRec s w r) with
    | .fin status body s => .next (finRec s w r status body)
    | .own s => .next (endRec s w)
    | .wait s => .next s := by
  obtain ⟨hc, hop, hhead, hkind, hops⟩ := h
  obtain ⟨-, hctl, -⟩ := getWin_takeRec hc
  have hsvc : (getWin (takeRec s w r) w).service = (getWin s w).service := by rw [Window.service, hctl, ← Window.service]
  have hpcl : (getWin (takeRec s w r) w).parcel = (getWin s w).parcel := by rw [Window.parcel, hctl, ← Window.parcel]
  have h1 : ¬(!headOk r) = true := by simp [hhead]
  have h2 : ¬(!k.ok (getWin s w).service) = true := by simp [hkind]
  have h3 : ¬(!operandsOk lay r) = true := by simp [hops]
  unfold record
  rw [hc]
  dsimp only
  rw [if_neg (not_not_intro hop), if_neg h1, hsvc, if_neg h2, if_neg h3, hpcl]
  rfl

theorem record_fin {t : State} {st : Nat} {body : List Byte} (hf : f (getWin s w).parcel r (takeRec s w r) = .fin st body t) :
    record op k lay w s f = .next (finRec t w r st body) := by
  rw [record_runs h, hf]

theorem record_own {t : State} (hf : f (getWin s w).parcel r (takeRec s w r) = .own t) :
    record op k lay w s f = .next (endRec t w) := by
  rw [record_runs h, hf]

theorem record_wait {t : State} (hf : f (getWin s w).parcel r (takeRec s w r) = .wait t) : record op k lay w s f = .next t := by
  rw [record_runs h, hf]

end

theorem nop_finishes {w : Nat} {s : State} {r : Rec} (h : RecordRuns 0x01 .both [] w s r) :
    exec (.nop w) s = .next (finRec (takeRec s w r) w r 0 []) := by
  have hc := h.1
  have hlisted : recListed (recOp r) = true := by rw [h.2.1]; decide
  show execNop w s = _
  unfold execNop
  rw [hc]
  dsimp only
  rw [if_pos hlisted]
  exact record_fin (f := fun _ _ s => .fin stDone [] s) h rfl

theorem segseal_finishes {w : Nat} {s : State} {r : Rec} (h : RecordRuns 0x02 .both [⟨16, 4, ones 4⟩, ⟨20, 4, ones 4⟩] w s r) :
    exec (.segseal w) s = .next (finRec (takeRec s w r) w r 0 []) :=
  record_fin (f := fun _ _ s => .fin stDone [] s) h rfl

theorem unlisted_finishes {w : Nat} {s : State} {r : Rec} (hc : curRec s w = some r) (hl : recListed (recOp r) = false) :
    exec (.nop w) s = .next (finRec (takeRec s w r) w r 2 []) := by
  show execNop w s = _
  unfold execNop
  rw [hc]
  dsimp only
  rw [hl]
  rfl

theorem takeRec_counts {w : Nat} {s : State} (r : Rec) (hw : (getWin s w).waitRec = none) (hq : (getWin s w).replayQ = []) :
    (getWin (takeRec s w r) w).waitRec = some r ∧ (getWin (takeRec s w r) w).next = (getWin s w).next + 1 ∧
    ((getWin s w).service = false →
      (getPcl (takeRec s w r) (getWin s w).parcel).recCount = (getPcl s (getWin s w).parcel).recCount + 1) := by
  unfold takeRec
  dsimp only
  rw [hw, hq]
  cases hs : (getWin s w).service with
  | true =>
    rw [if_neg (by decide), if_pos rfl, getWin_modWin_same, getWin_bump]
    exact ⟨rfl, rfl, fun h => by cases h⟩
  | false =>
    rw [if_neg (by decide), if_neg (by decide), countRec, getPcl_modPcl_same, getWin_modPcl, getWin_modWin_same, getWin_bump]
    exact ⟨rfl, rfl, fun _ => rfl⟩

/-! ### Completions (R333, R341, R342) -/

/-- The bytes of a record to the host in its ring. -/
def ringBytes (x : Window) (w : Nat) (b : List Byte) : List Byte :=
  patch (fit 64 b) 1 [((fit 64 b).getD 1 0 &&& 0xFE) ||| BitVec.ofNat 8 (1 - x.crTail.toNat / 2 ^ x.crLog.toNat % 2),
    BitVec.ofNat 8 (w % 16)]

/-- The write of a record to host memory. -/
def ringWrite (x : Window) (w : Nat) (b : List Byte) (irq : Bool) : HostWrite :=
  { port := w / 16, addr := x.crBase + BitVec.ofNat 64 (64 * (x.crTail.toNat % 2 ^ x.crLog.toNat)), bytes := ringBytes x w b,
    vector := if irq then some x.vector else none }

theorem emitRec_writes {s : State} {w : Nat} {b : List Byte} (irq : Bool) (hstop : s.pwr.stopping = false) (hhalt : s.pwr.halt = false)
    (hb : (getWin s w).backlog = []) (hroom : ringRoom (getWin s w) = true) (htype : field b 0 1 ≠ 5) :
    (getWin (emitRec s w b irq) w).crTail = (getWin s w).crTail + 1 ∧
      (emitRec s w b irq).gate.writes = s.gate.writes ++ [ringWrite (getWin s w) w b irq] := by
  have hrun : ¬(s.pwr.stopping || s.pwr.halt) = true := by simp [hstop, hhalt]
  have hstamp : stampRefused s b = b := if_pos htype
  unfold emitRec
  rw [if_neg hrun, if_pos ⟨hb, hroom⟩]
  refine ⟨?_, ?_⟩
  · exact congrArg Window.crTail (getWin_modWin_same s w fun x => { x with crTail := x.crTail + 1 })
  · unfold startRec
    rw [hstamp]
    rfl

/-- A field of the first bytes of a list is that of their list. -/
theorem field_append {l m : List Byte} {i n : Nat} (h : i + n ≤ l.length) : field (l ++ m) i n = field l i n := by
  unfold field
  rw [List.drop_append_of_le_length (by omega), List.take_append_of_le_length (by rw [List.length_drop]; omega)]

theorem fit_append {l : List Byte} (n : Nat) (h : l.length ≤ n) (m : List Byte) : ∃ k, fit n (l ++ m) = l ++ k := by
  refine ⟨(m ++ zeros n).take (n - l.length), ?_⟩
  unfold fit
  rw [List.append_assoc, List.take_append, List.take_of_length_le h]

theorem length_fit (n : Nat) (l : List Byte) : (fit n l).length = n := by
  have : (zeros n).length = n := List.length_replicate
  rw [fit, List.length_take, List.length_append, this]
  omega

theorem length_recHead (type p st : Nat) (q h : W32) : (recHead type p st q h).length = 12 := by
  unfold recHead
  rw [List.length_append, List.length_append, leBytes_length, leBytes_length]
  rfl

/-- The ring's own fields are bytes 1 and 2: the rest of a record's first bytes stand as they were. -/
theorem ringBytes_append (x : Window) (w : Nat) (a0 a1 a2 : Byte) {l : List Byte} (hl : l.length ≤ 61) (m : List Byte) :
    ∃ b c k, ringBytes x w (a0 :: a1 :: a2 :: l ++ m) = a0 :: b :: c :: l ++ k := by
  obtain ⟨k, hk⟩ := fit_append 64 (l := a0 :: a1 :: a2 :: l) (by simp only [List.length_cons]; omega) m
  exact ⟨_, _, k, by unfold ringBytes; rw [hk]; rfl⟩

theorem length_ringBytes (x : Window) (w : Nat) (b : List Byte) : (ringBytes x w b).length = 64 := by
  have h := length_fit 64 b
  unfold ringBytes patch
  simp only [List.length_append, List.length_take, List.length_drop, List.length_cons, List.length_nil, h]
  decide

/-- The fields of Table 11-9's header, and those that follow it. -/
theorem field_headed (a0 a1 a2 a3 : Byte) (q h : W32) (l k : List Byte) :
    let b := a0 :: a1 :: a2 :: a3 :: (leBytes 4 q.toNat ++ (leBytes 4 h.toNat ++ (l ++ k)))
    field b 0 1 = a0.toNat ∧ field b 3 1 = a3.toNat ∧ field b 4 4 = q.toNat ∧
      ∀ i n, i + n ≤ l.length → field b (12 + i) n = field l i n := by
  intro b
  refine ⟨rfl, rfl, ?_, fun i n hin => ?_⟩
  · have ht : (leBytes 4 q.toNat ++ (leBytes 4 h.toNat ++ (l ++ k))).take 4 = leBytes 4 q.toNat := List.take_left' (leBytes_length ..)
    show leNat ((leBytes 4 q.toNat ++ (leBytes 4 h.toNat ++ (l ++ k))).take 4) = _
    rw [ht, leNat_of_leBytes]
    exact Nat.mod_eq_of_lt q.isLt
  · have hd : b.drop 12 = l ++ k := by
      show (leBytes 4 q.toNat ++ (leBytes 4 h.toNat ++ (l ++ k))).drop (4 + 4) = _
      rw [← List.drop_drop, List.drop_left' (leBytes_length ..), List.drop_left' (leBytes_length ..)]
    rw [field, ← List.drop_drop, hd, ← field, field_append hin]

theorem field_ringBytes (x : Window) (w type p st : Nat) (q h : W32) {l : List Byte} (hl : l.length ≤ 52) (m : List Byte) :
    let b := ringBytes x w (recHead type p st q h ++ (l ++ m))
    field b 0 1 = type % 256 ∧ field b 3 1 = st % 256 ∧ field b 4 4 = q.toNat ∧
      ∀ i n, i + n ≤ l.length → field b (12 + i) n = field l i n := by
  intro b
  obtain ⟨c, d, k, hb⟩ := ringBytes_append x w (BitVec.ofNat 8 type) (BitVec.ofNat 8 (p * 2)) 0
    (l := BitVec.ofNat 8 st :: (leBytes 4 q.toNat ++ (leBytes 4 h.toNat ++ l)))
    (by simp only [List.length_cons, List.length_append, leBytes_length]; omega) m
  have hin : recHead type p st q h ++ (l ++ m) =
      BitVec.ofNat 8 type :: BitVec.ofNat 8 (p * 2) :: 0 :: (BitVec.ofNat 8 st :: (leBytes 4 q.toNat ++ (leBytes 4 h.toNat ++ l))) ++ m := by
    simp [recHead]
  have hb' : b = BitVec.ofNat 8 type :: c :: d :: BitVec.ofNat 8 st :: (leBytes 4 q.toNat ++ (leBytes 4 h.toNat ++ (l ++ k))) := by
    show ringBytes x w (recHead type p st q h ++ (l ++ m)) = _
    rw [hin, hb]
    simp
  rw [hb']
  obtain ⟨h0, h3, h4, hf⟩ := field_headed (BitVec.ofNat 8 type) c d (BitVec.ofNat 8 st) q h l k
  exact ⟨h0.trans (BitVec.toNat_ofNat ..), h3.trans (BitVec.toNat_ofNat ..), h4, hf⟩

theorem field_recHead_type (type p st : Nat) (q h : W32) (m : List Byte) : field (recHead type p st q h ++ m) 0 1 = type % 256 :=
  BitVec.toNat_ofNat ..

theorem writeCompletion_quiet {s : State} {w : Nat} {r : Rec} (body : List Byte) (hcr : recCr r = false) :
    writeCompletion s w r 0 body = s := by
  unfold writeCompletion
  rw [hcr]
  rfl

theorem writeCompletion_writes {s : State} {w : Nat} {r : Rec} {st : Nat} (body : List Byte) (h : recCr r = true ∨ st ≠ 0) :
    (writeCompletion s w r st body).gate.writes =
        (emitRec s w (recHead 1 (getWin s w).parcel st (recSeq r) (recHtag r) ++ body) (recIrq r)).gate.writes ∧
      getWin (writeCompletion s w r st body) w =
        getWin (emitRec s w (recHead 1 (getWin s w).parcel st (recSeq r) (recHtag r) ++ body) (recIrq r)) w := by
  have hc : (recCr r || decide (st ≠ stDone)) = true := by
    rcases h with h | h
    · rw [h]; rfl
    · have : st ≠ stDone := h
      simp [this]
  unfold writeCompletion
  rw [if_pos hc]
  dsimp only
  split
  · exact ⟨rfl, rfl⟩
  · exact ⟨rfl, rfl⟩

/-- A completion is written to the window's ring if CR is set or the status is not DONE. -/
theorem record_completes (w : Nat) (s : State) (r : Rec) (st : Nat) (body : List Byte) :
    let x := getWin s w
    let t := finRec s w r st body
    s.pwr.stopping = false → s.pwr.halt = false → x.backlog = [] → ringRoom x = true → st < 256 →
    SameMemory s t ∧ (getWin t w).waitRec = none ∧
    (recCr r = false → st = 0 → t.gate.writes = s.gate.writes) ∧
    (recCr r = true ∨ st ≠ 0 → (getWin t w).crTail = x.crTail + 1 ∧
      ∃ h, t.gate.writes = s.gate.writes ++ [h] ∧ h.port = w / 16 ∧
        h.addr = x.crBase + BitVec.ofNat 64 (64 * (x.crTail.toNat % 2 ^ x.crLog.toNat)) ∧ h.bytes.length = 64 ∧
        field h.bytes 0 1 = 1 ∧ field h.bytes 3 1 = st ∧ field h.bytes 4 4 = (recSeq r).toNat ∧
        h.vector = if recIrq r then some x.vector else none) := by
  intro x t hstop hhalt hback hroom hst
  have hwin : getWin (endRec s w) w = { x with waitRec := none, pagesDone := 0 } := getWin_modWin_same ..
  refine ⟨(booked_finRec ..).memory, by rw [getWin_finRec], fun hcr h0 => ?_, fun hor => ?_⟩
  · show (writeCompletion (endRec s w) w r st body).gate.writes = _
    rw [h0, writeCompletion_quiet _ hcr]
    rfl
  · obtain ⟨hws, hwn⟩ := writeCompletion_writes (s := endRec s w) (w := w) body hor
    have htype : field (recHead 1 (getWin (endRec s w) w).parcel st (recSeq r) (recHtag r) ++ body) 0 1 ≠ 5 := by
      rw [field_recHead_type]
      decide
    obtain ⟨htail, hem⟩ := emitRec_writes (s := endRec s w) (w := w) (recIrq r) hstop hhalt (by rw [hwin]; exact hback)
      (by rw [hwin]; exact hroom) htype
    obtain ⟨h0, h3, h4, -⟩ := field_ringBytes (getWin (endRec s w) w) w 1 (getWin (endRec s w) w).parcel st (recSeq r) (recHtag r)
      (l := []) (Nat.zero_le _) body
    refine ⟨?_, _, hws.trans hem, rfl, ?_, length_ringBytes .., h0, h3.trans (Nat.mod_eq_of_lt hst), h4, ?_⟩
    · show (getWin (writeCompletion (endRec s w) w r st body) w).crTail = _
      rw [hwn, htail, hwin]
    · rw [ringWrite, hwin]
    · rw [ringWrite, hwin]
      rfl

/-! ### Segments (R327) -/

/-- The window with the records of a bad segment thrown away. -/
def Window.discarded (r : Rec) (x : Window) : Window :=
  { x with buf := x.buf.filter fun e => decide (e.1 ∉ (List.range ((recSeq r - x.next).toNat + 1)).map fun i =>
             (x.next + BitVec.ofNat 32 i).toNat),
           next := recSeq r + 1, badseg := true }

theorem mem_discarded {x : Window} {r : Rec} {e : Nat × Rec} (h : e ∈ (x.discarded r).buf) :
    e ∈ x.buf ∧ ∀ i, i ≤ (recSeq r - x.next).toNat → e.1 ≠ (x.next + BitVec.ofNat 32 i).toNat := by
  obtain ⟨hm, hn⟩ := List.mem_filter.1 h
  refine ⟨hm, fun i hi he => of_decide_eq_true hn ?_⟩
  exact List.mem_map.2 ⟨i, List.mem_range.2 (by omega), he.symm⟩

theorem exec_segment {w : Nat} {s : State} {r : Rec} (ha : alive s = true) (hw : w < 64) (hact : (getWin s w).active = true)
    (hseg : (getWin s w).seg = none) (hwait : (getWin s w).waitRec = none) (hq : (getWin s w).replayQ = [])
    (hb : (getWin s w).backlog = []) (hstep : stepStands s (getWin s w) = false)
    (hr : segOf (getWin s w) 1024 (getWin s w).next = some r) : exec (.segmentExecute w) s =
      if sealOk (getWin s w) r = true then .next (modWin s w fun x => { x with seg := some (recSeq r) })
      else .next (writeCompletion (modWin s w fun x => { x with
        buf := x.buf.filter fun e => decide (e.1 ∉ (List.range ((recSeq r - (getWin s w).next).toNat + 1)).map fun i =>
          ((getWin s w).next + BitVec.ofNat 32 i).toNat),
        next := recSeq r + 1, badseg := true }) w r stBadSeg []) := by
  have hc : ¬(!alive s || decide (64 ≤ w) || !(getWin s w).active || (getWin s w).seg.isSome || (getWin s w).waitRec.isSome ||
      decide ((getWin s w).replayQ ≠ []) || decide ((getWin s w).backlog ≠ []) || stepStands s (getWin s w)) = true := by
    simp [ha, hw, hact, hseg, hwait, hq, hb, hstep]
  show execSegmentExecute w s = _
  unfold execSegmentExecute
  dsimp only
  rw [if_neg hc, hr]
  rfl

/-- A segment whose seal fits executes; one whose seal does not is discarded whole. -/
theorem segment_executes (w : Nat) (s : State) (r : Rec) :
    let x := getWin s w
    alive s = true → w < 64 → x.active = true → x.seg = none → x.waitRec = none → x.replayQ = [] → x.backlog = [] →
    stepStands s x = false → segOf x 1024 x.next = some r →
    (sealOk x r = true → ∃ t, exec (.segmentExecute w) s = .next t ∧ t = { s with gate := t.gate } ∧
      getWin t w = { x with seg := some (recSeq r) }) ∧
    (sealOk x r = false → ∃ t, exec (.segmentExecute w) s = .next t ∧ SameMemory s t ∧ (getWin t w).badseg = true ∧
      (getWin t w).seg = none ∧ (getWin t w).next = recSeq r + 1 ∧ ∀ e ∈ (getWin t w).buf, e ∈ x.buf ∧
        ∀ i, i ≤ (recSeq r - x.next).toNat → e.1 ≠ (x.next + BitVec.ofNat 32 i).toNat) := by
  intro x ha hw hact hseg hwait hq hb hstep hr
  have hx := exec_segment ha hw hact hseg hwait hq hb hstep hr
  refine ⟨fun hok => ?_, fun hok => ?_⟩
  · rw [if_pos hok] at hx
    exact ⟨_, hx, rfl, getWin_modWin_same ..⟩
  · rw [if_neg (by rw [hok]; decide)] at hx
    have hown : getWin (modWin s w fun y => { y with
        buf := y.buf.filter fun e => decide (e.1 ∉ (List.range ((recSeq r - (getWin s w).next).toNat + 1)).map fun i =>
          ((getWin s w).next + BitVec.ofNat 32 i).toNat),
        next := recSeq r + 1, badseg := true }) w = x.discarded r := getWin_modWin_same ..
    have hm := booked_modWin s w fun y => { y with
        buf := y.buf.filter fun e => decide (e.1 ∉ (List.range ((recSeq r - (getWin s w).next).toNat + 1)).map fun i =>
          ((getWin s w).next + BitVec.ofNat 32 i).toNat),
        next := recSeq r + 1, badseg := true }
    generalize modWin s w (fun y => { y with
        buf := y.buf.filter fun e => decide (e.1 ∉ (List.range ((recSeq r - (getWin s w).next).toNat + 1)).map fun i =>
          ((getWin s w).next + BitVec.ofNat 32 i).toNat),
        next := recSeq r + 1, badseg := true }) = u at *
    have hwin := getWin_writeCompletion u w r stBadSeg [] w
    rw [hown] at hwin
    refine ⟨_, hx, (hm.trans (booked_writeCompletion ..)).memory, by rw [hwin]; rfl, by rw [hwin]; exact hseg, by rw [hwin]; rfl, ?_⟩
    rw [hwin]
    exact fun e he => mem_discarded he

/-- Settles O39. -/
theorem recordsAreTakenAndCompleted : Obligations.RecordsAreTakenAndCompleted :=
  ⟨fun _ _ _ => nop_finishes, fun _ _ _ => segseal_finishes, fun _ _ _ => unlisted_finishes,
    fun w s r _ hw hq => ⟨(booked_takeRec s w r).memory, takeRec_counts r hw hq⟩, record_completes, segment_executes⟩

end Sys2Proof.Machine
end

section
/-!
PROOFS. FAULTABORT among page records (R204, R205): a context whose waiting instruction names another context.
-/

namespace Sys2Proof.Machine

/-- FAULTABORT of page 0. -/
def abortRec : Rec := zeros 6 ++ [0x25] ++ zeros 57

/-- The load that is held on page 0. -/
def heldReq : FaultReq := { requester := 0, index := 0, core := 0, addr := 0, write := false }

/-- The fault of page 0. -/
def heldFault : FaultPage := { parcel := 0, fpn := 0, held := [heldReq], recorded := false }

/-- A load of core 0 by the registers of context 0, from an address of no space. -/
def strayLoad : Enc := { core := 0, ctx := 0, rd := 0, ra := 1, rb := 0, md := 0, imm := 0 }

/-- Window 0 is to abort the fault of page 0, on which context 0 of core 0 is held; context 1 of the core waits to finish a
load in the name of context 0. -/
def abortState : State :=
  modCtx (modCtx (modWin { pwr := { bringDone := true }, far := { faults := [heldFault] } } 0 fun x =>
      { x with ctl := 0x80010000, waitRec := some abortRec }) 0 0 fun y =>
    { y with st := .held, aregs := [(1, 0xFFFFFFFFFFFFFFF8)] }) 0 1 fun y => { y with st := .waiting, wait := .op .ld strayLoad }

theorem abort_runs : RecordRuns 0x25 .service [⟨16, 4, ones 4⟩] 0 abortState abortRec :=
  ⟨by decide +kernel, by decide +kernel, by decide +kernel, by decide +kernel, by decide +kernel⟩

/-- TRAPVAL of context 0 of core 0 after a row. -/
def trapvalAfter : Out → Option W64
  | .next t => some (getCtx t 0 0).trapval
  | _ => none

/-- The core tries again once the held load has trapped, and the load in context 0's name traps it a second time. -/
theorem abort_traps_twice : trapvalAfter (exec (.faultabort 0) abortState) = some 0xFFFFFFFFFFFFFFF8 := by decide +kernel

/-- Refutes O42: FAULTABORT of a held load does not leave TRAPVAL at the faulting address where another context of the core
waits to finish a load in the held context's name; the statement's states are not restricted to those that can arise. -/
theorem not_pageRecordsDo : ¬ Obligations.PageRecordsDo := by
  intro h
  obtain ⟨-, -, -, -, -, -, hfault, -⟩ := h 0 abortState abortRec
  obtain ⟨t, hx, -, -, hval⟩ :=
    hfault heldFault heldReq abort_runs (by decide +kernel) rfl rfl rfl (by decide +kernel)
  have htwice := abort_traps_twice
  have hctx : getCtx (finRec t 0 abortRec 0 []) 0 0 = getCtx t 0 0 := by
    have hb := booked_finRec t 0 abortRec 0 []
    rw [hb.state]
    rfl
  rw [hx, trapvalAfter, hctx, show (getCtx t 0 0).trapval = 0 from hval] at htwice
  exact absurd htwice (by decide)

end Sys2Proof.Machine
end

section
/-!
PROOFS. The end of a PREEMPT (R90, R337): a context whose waiting instruction names the context that has been saved.
-/

namespace Sys2Proof.Machine

/-- PREEMPT of context 0 of core 0, with its save area at the start of far memory. -/
def preemptRec : Rec := zeros 6 ++ [0x30] ++ zeros 57

/-- A load of core 0 into context 0, from an address of no space. -/
def negativeLoad : Enc := { core := 0, ctx := 0, rd := 0, ra := 0, rb := 0, md := 0, imm := 0xFFFFFFF8 }

/-- Window 0 executes a PREEMPT of context 0 of core 0, whose work is over; context 1 of the core waits to finish a load in
the name of context 0. -/
def preemptState : State :=
  modCtx (modCtx (modPcl (modWin (modEnt { pwr := { bringDone := true } } 0 fun e => { e with v := true, cw := true }) 0 fun x =>
      { x with ctl := 0x80010000, waitRec := some preemptRec }) 0 fun x => { x with st := .active, beds := 1 }) 0 0 fun y =>
    { y with st := .ready, preempting := true }) 0 1 fun y => { y with st := .waiting, wait := .op .ld negativeLoad }

theorem preempt_runs : RecordRuns 0x30 .service saveFields 0 preemptState preemptRec :=
  ⟨by decide +kernel, by decide +kernel, by decide +kernel, by decide +kernel, by decide +kernel⟩

/-- The state of context 0 of core 0 once a save area has been written. -/
def stAfterSave : Except AccErr State → CtxSt
  | .ok v => (getCtx (endPreempt v 0 0 0 0) 0 0).st
  | .error _ => .idle

/-- The core tries again once the context is IDLE, and the load in its name traps it. -/
theorem preempt_traps : stAfterSave (farWrite preemptState 0 0 (saveArea preemptState 0 0)) = .trapped := by decide +kernel

/-- Refutes O43: a PREEMPT does not leave its context IDLE where another context of the core waits to finish a load in the
saved context's name; the statement's states are not restricted to those that can arise. -/
theorem not_contextsAreSavedAndRestored : ¬ Obligations.ContextsAreSavedAndRestored := by
  intro h
  obtain ⟨hsave, -⟩ := h.1 0 preemptState preemptRec
  obtain ⟨-, hend⟩ := hsave preempt_runs (by decide +kernel) (by decide +kernel) (by decide +kernel) (by decide +kernel)
    (by decide +kernel)
  have htrap := preempt_traps
  cases hw : farWrite preemptState 0 0 (saveArea preemptState 0 0) with
  | error e =>
    rw [hw] at htrap
    cases htrap
  | ok v =>
    have hidle : (getCtx (endPreempt v 0 0 0 0) 0 0).st = .idle :=
      (hend v (by decide +kernel) (by decide +kernel) (by decide +kernel) hw).2.1
    rw [hw, stAfterSave, hidle] at htrap
    cases htrap

end Sys2Proof.Machine
end

section
/-!
PROOFS. The end of a context reset (R406): a context whose waiting instruction names the context that is reset.
-/

namespace Sys2Proof.Machine

/-- Context 0 of core 0 is in reset, with no work of its own; context 1 of the core waits to finish a load in the name of
context 0. -/
def strayState : State :=
  modCtx (modCtx { pwr := { bringDone := true } } 0 0 fun y => { y with resetting := true, st := .waiting }) 0 1 fun y =>
    { y with st := .waiting, wait := .op .ld negativeLoad }

/-- The state of context 0 of core 0 after a row. -/
def stAfter : Out → Option CtxSt
  | .next t => some (getCtx t 0 0).st
  | _ => none

/-- The core tries again once the context is IDLE, and the load in its name traps it. -/
theorem reset_traps : stAfter (exec (.contextResetComplete 0 0) strayState) = some .trapped := by decide +kernel

/-- Refutes O44: a context reset does not leave its context IDLE where another context of the core waits to finish a load in
the reset context's name; the statement's states are not restricted to those that can arise. -/
theorem not_resetsDo : ¬ Obligations.ResetsDo := by
  intro h
  obtain ⟨t, hx, hidle, -⟩ := h.2.1 0 0 strayState (by decide) (by decide) (by decide +kernel) (by decide +kernel) (by decide +kernel)
  have htrap := reset_traps
  rw [hx, stAfter, hidle] at htrap
  cases htrap

end Sys2Proof.Machine
end

section
/-!
PROOFS. An uncorrectable error in an instruction fetch (R228, R229): a context whose waiting instruction names the context
that traps.
-/

namespace Sys2Proof.Machine

/-- An instruction fetch of context 0 of core 0 that meets an uncorrectable error at address 0. -/
def fetchErr : UncErr := { use := .fetch 0 0, cls := 2, locKind := 0, locNum := 0, addr := 0, detail := 0 }

/-- Context 0 of core 0 issues; context 1 of the core waits to finish a load in the name of context 0. -/
def fetchState : State :=
  modCtx (modCtx { pwr := { bringDone := true } } 0 0 fun y => { y with st := .issuing }) 0 1 fun y =>
    { y with st := .waiting, wait := .op .ld negativeLoad }

/-- TRAPCAUSE of context 0 of core 0 after a row. -/
def causeAfter : Out → Option W64
  | .next t => some (getCtx t 0 0).trapcause
  | _ => none

/-- The core tries again once the fetch has trapped, and the load in its name traps it a second time. -/
theorem fetch_traps_twice : causeAfter (exec (.uncorrectableError fetchErr) fetchState) = some 0x03 := by decide +kernel

/-- Refutes O45: a fetch that meets an uncorrectable error does not leave cause 0x04 where another context of the core waits to
finish a load in the name of the context that fetches; the statement's states are not restricted to those that can arise. -/
theorem not_errorsAreHandled : ¬ Obligations.ErrorsAreHandled := by
  intro h
  obtain ⟨halone, -⟩ := h.1 fetchErr fetchState (by decide +kernel) (by decide +kernel) (by decide +kernel)
  obtain ⟨t, hx, -, hcause, -⟩ := halone (by decide +kernel)
  have htwice := fetch_traps_twice
  rw [hx, causeAfter, hcause] at htwice
  exact absurd htwice (by decide)

end Sys2Proof.Machine
end

section
/-!
PROOFS. Host reads and writes of far memory through decoder 0 (R192, R199, R210, R211, R313, R330).
-/

namespace Sys2Proof.Machine

/-! ### What a refused access leaves (R211, R314, R343) -/

/-- Every memory and what has been sent are as they were. -/
structure Mute (s t : State) : Prop where
  memory : SameMemory s t
  outbox : t.outbox = s.outbox

theorem Mute.refl (s : State) : Mute s s := ⟨sameMemory_refl s, rfl⟩

theorem Mute.trans {s t u : State} (h : Mute s t) (k : Mute t u) : Mute s u := ⟨h.memory.trans k.memory, k.outbox.trans h.outbox⟩

theorem mute_bump (s : State) (b i n : Nat) : Mute s (bump s b i n) := ⟨sameMemory_of rfl rfl, rfl⟩

theorem mute_modPcl (s : State) (p : Nat) (f : Parcel → Parcel) : Mute s (modPcl s p f) := ⟨sameMemory_of rfl rfl, rfl⟩

theorem mute_pclRec (s : State) (p : Nat) (b : List Byte) : Mute s (pclRec s p b) :=
  ⟨sameMemory_pclRec s p b, by rw [pclRec_eq]⟩

theorem mute_countRefused (s : State) (q fpn : Nat) (byPort : Bool) : Mute s (countRefused s q fpn byPort) := ⟨sameMemory_of rfl rfl, rfl⟩

theorem mute_recordRefused (s : State) (q fpn off reason named : Nat) : Mute s (recordRefused s q fpn off reason named) :=
  Mute.trans (t := { s with far := { s.far with refusals := s.far.refusals.map fun x =>
    if x.parcel = q ∧ x.fpn = fpn ∧ x.byPort = decide (reason = 5) then { x with recorded := true } else x } })
    ⟨sameMemory_of rfl rfl, rfl⟩ (mute_pclRec ..)

theorem mute_refusedPage (s : State) (q fpn off reason : Nat) : Mute s (refusedPage s q fpn off reason) := by
  unfold refusedPage
  dsimp only
  split
  · exact mute_countRefused ..
  · exact (mute_countRefused ..).trans (mute_recordRefused ..)

theorem mute_foldl {α : Type} {f : State → α → State} (h : ∀ s x, Mute s (f s x)) (l : List α) (s : State) : Mute s (l.foldl f s) := by
  induction l generalizing s with
  | nil => exact .refl s
  | cons x l ih => exact (h s x).trans (ih _)

theorem mute_refusedByPort (s : State) (k fpn off named : Nat) : Mute s (refusedByPort s k fpn off named) := by
  have hcount (l : List Nat) : Mute s (l.foldl (fun s p => countRefused s p fpn true) s) :=
    mute_foldl (fun s p => mute_countRefused s p fpn true) l s
  unfold refusedByPort
  dsimp only
  split
  · exact hcount _
  · split
    · exact hcount _
    · exact (hcount _).trans (mute_recordRefused ..)

theorem mute_refuseHost (s : State) (k p fa reason : Nat) (wr : Bool) : Mute s (refuseHost s k p fa reason wr) := by
  have hbumped : Mute s (if fa / 2 ^ 24 < fpnMax then bump s (fmpBlock (fpnPort (fa / 2 ^ 24))) 8 1 else s) := by
    split
    · exact mute_bump ..
    · exact .refl s
  unfold refuseHost
  dsimp only
  split
  · split
    · exact (mute_bump ..).trans (mute_refusedByPort ..)
    · exact mute_bump ..
  · split
    · exact (hbumped.trans (mute_modPcl ..)).trans (mute_refusedPage ..)
    · exact hbumped.trans (mute_modPcl ..)

/-! ### What the ring cache and the snoop filter leave (R191, R194, R315) -/

theorem OnlyPorts.refl (s : State) : OnlyPorts s s := ⟨s.far.ports, s.regs, s.free, rfl⟩

theorem OnlyPorts.outbox {s t : State} (h : OnlyPorts s t) : t.outbox = s.outbox := by
  obtain ⟨p, r, n, rfl⟩ := h
  rfl

theorem OnlyPorts.sites {s t : State} (h : OnlyPorts s t) : t.sites = s.sites := by
  obtain ⟨p, r, n, rfl⟩ := h
  rfl

theorem OnlyPorts.getEnt {s t : State} (h : OnlyPorts s t) (f : Nat) : Machine.getEnt t f = Machine.getEnt s f := by
  obtain ⟨p, r, n, rfl⟩ := h
  rfl

theorem OnlyPorts.farLine {s t : State} (h : OnlyPorts s t) (fa : Nat) : Machine.farLine t fa = Machine.farLine s fa := by
  obtain ⟨p, r, n, rfl⟩ := h
  rfl

theorem OnlyPorts.far {s t : State} (h : OnlyPorts s t) : t.far = { s.far with ports := t.far.ports } := by
  obtain ⟨p, r, n, rfl⟩ := h
  rfl

theorem onlyPorts_cadFetch (s : State) (fpn : Nat) : OnlyPorts s (cadFetch s fpn) := by
  unfold cadFetch
  dsimp only
  split
  · exact .refl s
  · exact ((onlyPorts_modPortF ..).trans (onlyPorts_bump ..)).trans (onlyPorts_bump ..)

theorem onlyPorts_lineFetch (s : State) (fa : Nat) (dirty : Bool) : OnlyPorts s (lineFetch s fa dirty) := by
  unfold lineFetch
  dsimp only
  split
  · exact (onlyPorts_modPortF ..).trans (onlyPorts_bump ..)
  · exact (onlyPorts_modPortF ..).trans (onlyPorts_bump ..)

theorem onlyPorts_trackLine (s : State) (k fa : Nat) : OnlyPorts s (trackLine s k fa) := by
  have hfree : OnlyPorts s (takeFree s).2 := ⟨s.far.ports, s.regs, s.free + 1, rfl⟩
  unfold trackLine
  dsimp only
  split
  · exact (hfree.trans (onlyPorts_modPortF ..)).trans (onlyPorts_modPortF ..)
  · exact hfree.trans (onlyPorts_modPortF ..)

/-! ### A write within one line -/

theorem farByte_in_line (s : State) {fa i : Nat} (h : fa % 64 + i < 64) :
    farByte s (fa + i) = entPpn s (fa / 16777216) * 16777216 + (fa % 16777216 + i) := by
  have hd : (fa + i) / 16777216 = fa / 16777216 := by omega
  have hm : (fa + i) % 16777216 = fa % 16777216 + i := by omega
  show entPpn s ((fa + i) / 16777216) * 16777216 + (fa + i) % 16777216 = _
  rw [hd, hm]

theorem unitsOf_one {z fa n : Nat} (hn : 0 < n) (h : (fa + n - 1) / z = fa / z) : unitsOf z fa n = [fa / z] := by
  unfold unitsOf
  rw [if_neg (by omega), h, Nat.sub_self]
  rfl

/-- A far write as one change of far memory's bytes, marks and entries. -/
theorem farPut_eq (s : State) (fa : Nat) (bs : List Byte) : farPut s fa bs = { s with far := { s.far with
    mem := bs.zipIdx.foldl (fun m x => mwr m (farByte s (fa + x.2)) x.1) s.far.mem, marks := (farPut s fa bs).far.marks,
    entries := (farPut s fa bs).far.entries } } := by
  unfold farPut
  dsimp only
  rw [modEnts_eq]

theorem getEnt_farPut {s : State} {fa : Nat} {bs : List Byte} (hn : 0 < bs.length) (h : fa % 64 + bs.length ≤ 64) :
    getEnt (farPut s fa bs) (fa / 16777216) = { getEnt s (fa / 16777216) with dirty := true } := by
  have hunit : unitsOf (2 ^ 24) fa bs.length = [fa / 16777216] := unitsOf_one hn (by omega)
  unfold farPut
  dsimp only
  rw [hunit, List.foldl_cons, List.foldl_nil, getEnt_modEnt, if_pos rfl]
  rfl

theorem mrd_farPut {s : State} {fa : Nat} {bs : List Byte} (h : fa % 64 + bs.length ≤ 64) :
    (∀ i, i < bs.length → mrd (farPut s fa bs).far.mem (farByte s (fa + i)) = bs.getD i 0) ∧
    ∀ a, (∀ i, i < bs.length → a ≠ farByte s (fa + i)) → mrd (farPut s fa bs).far.mem a = mrd s.far.mem a := by
  have hmem := (farPut_results s fa bs).2.2.1
  refine ⟨fun i hi => ?_, fun a ha => ?_⟩
  · have hat := mrd_foldl_at (g := fun i => farByte s (fa + i)) bs 0 s.far.mem hi fun i k hik hk => by
      rw [Nat.zero_add, Nat.zero_add, farByte_in_line s (by omega), farByte_in_line s (by omega)]
      omega
    rw [hmem]
    rw [Nat.zero_add] at hat
    exact hat
  · rw [hmem]
    exact mrd_foldl_other (g := fun i => farByte s (fa + i)) bs 0 s.far.mem fun i hi => by rw [Nat.zero_add]; exact ha i hi

theorem farLine_farPut {s : State} {fa : Nat} {bs : List Byte} (hn : 0 < bs.length) (h : fa % 64 + bs.length ≤ 64) :
    farLine (farPut s fa bs) fa = farLine s fa := by
  have hset : (farPut s fa bs).far.ppnSet = s.far.ppnSet := by rw [farPut_eq]
  have hppn : entPpn (farPut s fa bs) (fa / 16777216) = entPpn s (fa / 16777216) := by
    rw [entPpn, entPpn, getEnt_farPut hn h, hset]
  show entPpn (farPut s fa bs) (fa / 16777216) * _ + _ = entPpn s (fa / 16777216) * _ + _
  rw [hppn]

/-- A line is marked not valid. -/
def lineLost (s : State) (fa : Nat) : State :=
  { s with far := { s.far with marks := markInvalid s.far.swInit s.far.marks [farLine s fa] } }

theorem applyHostWrite_eq (s : State) (fa : Nat) (data : List Byte) (poisoned : Bool) : ∃ u, OnlyPorts s u ∧
    applyHostWrite s fa data poisoned = if poisoned then lineLost (farPut u fa data) fa else farPut u fa data :=
  ⟨_, ((onlyPorts_cadFetch ..).trans (onlyPorts_lineFetch ..)).trans (onlyPorts_bump ..), rfl⟩

/-- What a far write leaves, seen before the rings and filters that it passes. -/
structure HostWritten (s : State) (fa : Nat) (data : List Byte) (t : State) : Prop where
  outbox : t.outbox = s.outbox
  sites : t.sites = s.sites
  bytes : ∀ i, i < data.length → mrd t.far.mem (farByte s (fa + i)) = data.getD i 0
  others : ∀ a, (∀ i, i < data.length → a ≠ farByte s (fa + i)) → mrd t.far.mem a = mrd s.far.mem a
  dirty : getEnt t (fa / 16777216) = { getEnt s (fa / 16777216) with dirty := true }

theorem hostWritten_farPut {s u : State} {fa : Nat} {data : List Byte} (hu : OnlyPorts s u) (hn : 0 < data.length)
    (h : fa % 64 + data.length ≤ 64) : HostWritten s fa data (farPut u fa data) := by
  obtain ⟨hin, hout⟩ := mrd_farPut (s := u) h
  have hmem : u.far.mem = s.far.mem := by rw [hu.far]
  have hent := getEnt_farPut (s := u) hn h
  rw [hu.farByte] at hin hout
  rw [hu.getEnt] at hent
  constructor
  case outbox => rw [farPut_eq]; exact hu.outbox
  case sites => rw [farPut_eq]; exact hu.sites
  case bytes => exact hin
  case others => exact fun a ha => (hout a ha).trans (by rw [hmem])
  case dirty => exact hent

theorem HostWritten.onlyPorts {s t u : State} {fa : Nat} {data : List Byte} (h : HostWritten s fa data t) (k : OnlyPorts t u) :
    HostWritten s fa data u := by
  have hmem : u.far.mem = t.far.mem := by rw [k.far]
  constructor
  case outbox => exact k.outbox.trans h.outbox
  case sites => exact k.sites.trans h.sites
  case bytes => rw [hmem]; exact h.bytes
  case others => rw [hmem]; exact h.others
  case dirty => rw [k.getEnt]; exact h.dirty

/-! ### Accesses at a port (R330) -/

/-- The access of a write through decoder 0. -/
def writeAcc (off : Nat) (data : List Byte) (poisoned : Bool) : HostAcc :=
  { dec := 0, write := true, off := off, len := data.length, data := data, poisoned := poisoned }

/-- The access of a read through decoder 0. -/
def readAcc (off len : Nat) : HostAcc := { dec := 0, write := false, off := off, len := len }

/-- The row of an access that is performed at once, or waits. -/
def accepted (k : Nat) (a : HostAcc) : Except State State → Out
  | .ok t => .next t
  | .error t => .next (modPort t k fun x => { x with ingress := x.ingress ++ [a] })

theorem acceptAcc_first {s : State} {k : Nat} (a : HostAcc) (h : (getPort s k).ingress = []) :
    acceptAcc s k a = accepted k a (serveAcc (bump s (hpBlock k) (if a.write then 1 else 0) 1) k a) := by
  have hroom : ¬128 ≤ (getPort s k).ingress.length := by rw [h]; decide
  have hnone : ¬(getPort (bump s (hpBlock k) (if a.write then 1 else 0) 1) k).ingress ≠ [] := by
    rw [getPort_bump, h]
    simp
  unfold acceptAcc
  dsimp only
  rw [if_neg hroom, if_neg hnone]
  cases serveAcc (bump s (hpBlock k) (if a.write then 1 else 0) 1) k a <;> rfl

section
variable {k off : Nat} {s : State} (hserve : portServes s k = true) (hdec : decoderOn s k 0 = true) (hin : (getPort s k).ingress = [])
include hserve hdec hin

theorem exec_hostMemWrite {o : Nat} {data : List Byte} {poisoned : Bool} (ho : o % 2 ^ 45 = off) (hp : o.testBit 45 = poisoned)
    (hlt : o < 70368744177664) (hok : hdmOk off data.length = true) : exec (.hostMemWrite k o data) s =
      accepted k (writeAcc off data poisoned) (serveWrite (bump s (hpBlock k) 1 1) k (writeAcc off data poisoned)) := by
  have hc : ¬(!portServes s k || !decoderOn s k 0 || decide (2 ^ 46 ≤ o) || !hdmOk (o % 2 ^ 45) data.length) = true := by
    rw [ho]
    simp [hserve, hdec, hok, hlt]
  have hacc : (⟨0, true, o % 2 ^ 45, data.length, data, o.testBit 45⟩ : HostAcc) = writeAcc off data poisoned := by rw [ho, hp]; rfl
  refine (if_neg hc).trans ?_
  rw [hacc]
  exact acceptAcc_first (writeAcc off data poisoned) hin

theorem exec_hostMemRead {len : Nat} (hok : hdmOk off len = true) : exec (.hostMemRead k off len) s =
    accepted k (readAcc off len) (serveRead (bump s (hpBlock k) 0 1) k (readAcc off len)) := by
  have hc : ¬(!portServes s k || !decoderOn s k 0 || !hdmOk off len) = true := by simp [hserve, hdec, hok]
  exact (if_neg hc).trans (acceptAcc_first (readAcc off len) hin)

end

/-- A write of n bytes lies within one line of far memory, and its parcel offset within the module's. -/
theorem hdm_line {off n : Nat} (h : hdmOk off n = true) : off < 35184372088832 ∧ 0 < n ∧ hdmFa off % 64 + n ≤ 64 := by
  simp only [hdmOk, Bool.and_eq_true, decide_eq_true_eq] at h
  obtain ⟨⟨hoff, hn⟩, hline⟩ := h
  have hfa : hdmFa off % 64 = off % 64 := Nat.mod_mod_of_dvd off (by decide)
  exact ⟨hoff, hn, by rw [hfa]; exact hline⟩

section
variable {k off : Nat} {s : State} {data : List Byte} {poisoned : Bool}

theorem serveWrite_closed (h : portClosed s = true) :
    serveWrite s k (writeAcc off data poisoned) = .ok (send s (.memDone k)) := if_pos h

theorem serveWrite_refused {reason : Nat} (h : portClosed s = false)
    (hr : hostRefusal s k (hdmParcel off) (hdmFa off) data.length true = some reason) :
    serveWrite s k (writeAcc off data poisoned) =
      .ok (refuseHost (send s (.memDone k)) k (hdmParcel off) (hdmFa off) reason true) := by
  have hc : ¬portClosed s = true := by rw [h]; decide
  refine (if_neg hc).trans ?_
  show (match hostRefusal s k (hdmParcel off) (hdmFa off) data.length true with | some _ => _ | none => _) = _
  rw [hr]
  rfl

theorem serveWrite_passes (h : portClosed s = false)
    (hr : hostRefusal s k (hdmParcel off) (hdmFa off) data.length true = none) (hv : filterVictim s (hdmFa off) = none) :
    serveWrite s k (writeAcc off data poisoned) = if pagePaused s (hdmFa off) then .error s
      else .ok (trackLine (applyHostWrite (send s (.memDone k)) (hdmFa off) data poisoned) k (hdmFa off)) := by
  have hc : ¬portClosed s = true := by rw [h]; decide
  refine (if_neg hc).trans ?_
  show (match hostRefusal s k (hdmParcel off) (hdmFa off) data.length true with | some _ => _ | none => _) = _
  rw [hr]
  dsimp only
  show (if pagePaused s (hdmFa off) = true then _ else match filterVictim s (hdmFa off) with | some _ => _ | none => _) = _
  rw [hv]
  rfl

theorem serveWrite_paused (h : portClosed s = false)
    (hr : hostRefusal s k (hdmParcel off) (hdmFa off) data.length true = none) (hp : pagePaused s (hdmFa off) = true) :
    serveWrite s k (writeAcc off data poisoned) = .error s := by
  have hc : ¬portClosed s = true := by rw [h]; decide
  refine (if_neg hc).trans ?_
  show (match hostRefusal s k (hdmParcel off) (hdmFa off) data.length true with | some _ => _ | none => _) = _
  rw [hr]
  exact if_pos hp

end

section
variable {k off len : Nat} {s : State}

theorem serveRead_closed (h : portClosed s = true) : serveRead s k (readAcc off len) = .ok (poisonedRead s k len) := if_pos h

theorem serveRead_refused {reason : Nat} (h : portClosed s = false)
    (hr : hostRefusal s k (hdmParcel off) (hdmFa off) len false = some reason) :
    serveRead s k (readAcc off len) = .ok (poisonedRead (refuseHost s k (hdmParcel off) (hdmFa off) reason false) k len) := by
  have hc : ¬portClosed s = true := by rw [h]; decide
  refine (if_neg hc).trans ?_
  show (match hostRefusal s k (hdmParcel off) (hdmFa off) len false with | some _ => _ | none => _) = _
  rw [hr]
  rfl

/-- A read that is served leaves far memory, and its answer is sent. -/
theorem serveRead_served (h : portClosed s = false) (hr : hostRefusal s k (hdmParcel off) (hdmFa off) len false = none)
    (hp : pagePaused s (hdmFa off) = false) (hv : filterVictim s (hdmFa off) = none) (hval : farValid s (hdmFa off) len = true) :
    ∃ u t, OnlyPorts s u ∧ OnlyPorts (send u (.memData k (farBytes s (hdmFa off) len) false)) t ∧
      serveRead s k (readAcc off len) = .ok t := by
  have hc : ¬portClosed s = true := by rw [h]; decide
  have hu := (onlyPorts_cadFetch s (hdmFa off / 2 ^ 24)).trans (onlyPorts_lineFetch (cadFetch s (hdmFa off / 2 ^ 24)) (hdmFa off) false)
  have hval' : farValid (lineFetch (cadFetch s (hdmFa off / 2 ^ 24)) (hdmFa off) false) (hdmFa off) len = true := by
    rw [hu.farValid, hval]
  have hbytes := hu.farBytes (hdmFa off) len
  refine ⟨bump (lineFetch (cadFetch s (hdmFa off / 2 ^ 24)) (hdmFa off) false) (fmpBlock (fpnPort (hdmFa off / 2 ^ 24))) 0 1, _,
    hu.trans (onlyPorts_bump ..), onlyPorts_trackLine _ k (hdmFa off), (if_neg hc).trans ?_⟩
  show (match hostRefusal s k (hdmParcel off) (hdmFa off) len false with | some _ => _ | none => _) = _
  rw [hr]
  dsimp only
  refine (if_neg (by show ¬pagePaused s (hdmFa off) = true; rw [hp]; decide)).trans ?_
  show (match filterVictim s (hdmFa off) with | some _ => _ | none => _) = _
  rw [hv]
  dsimp only
  refine (if_pos hval').trans ?_
  rw [← hbytes]
  rfl

end

/-- Writes through decoder 0: answered and discarded, refused, held by a page's retirement, or stored. -/
theorem host_writes {k off : Nat} {s : State} {data : List Byte} (hserve : portServes s k = true) (hdec : decoderOn s k 0 = true)
    (hin : (getPort s k).ingress = []) (hok : hdmOk off data.length = true) :
    (portClosed s = true → ∃ t, exec (.hostMemWrite k off data) s = .next t ∧ SameMemory s t ∧ t.outbox = s.outbox ++ [.memDone k]) ∧
    (∀ reason, portClosed s = false → hostRefusal s k (hdmParcel off) (hdmFa off) data.length true = some reason →
      ∃ t, exec (.hostMemWrite k off data) s = .next t ∧ SameMemory s t ∧ t.outbox = s.outbox ++ [.memDone k]) ∧
    (portClosed s = false → hostRefusal s k (hdmParcel off) (hdmFa off) data.length true = none → pagePaused s (hdmFa off) = true →
      ∃ t x, exec (.hostMemWrite k off data) s = .next t ∧ SameMemory s t ∧ t.outbox = s.outbox ∧ (getPort t k).ingress = [x] ∧
        x.write = true ∧ x.off = off ∧ x.data = data) ∧
    (portClosed s = false → hostRefusal s k (hdmParcel off) (hdmFa off) data.length true = none → pagePaused s (hdmFa off) = false →
      filterVictim s (hdmFa off) = none →
      (∃ t, exec (.hostMemWrite k (2 ^ 45 + off) data) s = .next t ∧ t.outbox = s.outbox ++ [.memDone k] ∧
        unitValid t.far.swInit t.far.marks (farLine s (hdmFa off)) = false) ∧
      ∃ t, exec (.hostMemWrite k off data) s = .next t ∧ t.outbox = s.outbox ++ [.memDone k] ∧ t.sites = s.sites ∧
        (∀ i, i < data.length → mrd t.far.mem (farByte s (hdmFa off + i)) = data.getD i 0) ∧
        (∀ a, (∀ i, i < data.length → a ≠ farByte s (hdmFa off + i)) → mrd t.far.mem a = mrd s.far.mem a) ∧
        getEnt t (hdmFa off / 2 ^ 24) = { getEnt s (hdmFa off / 2 ^ 24) with dirty := true }) := by
  obtain ⟨hlt, hn, hline⟩ := hdm_line hok
  have hx := exec_hostMemWrite (o := off) (poisoned := false) hserve hdec hin (Nat.mod_eq_of_lt hlt) (Nat.testBit_lt_two_pow hlt)
    (by omega) hok
  have hpois : (2 ^ 45 + off).testBit 45 = true := by
    rw [Nat.testBit_two_pow_add_eq, Nat.testBit_lt_two_pow hlt]
    rfl
  have hxp := exec_hostMemWrite (o := 2 ^ 45 + off) hserve hdec hin ((Nat.add_mod_left ..).trans (Nat.mod_eq_of_lt hlt)) hpois
    (by omega) hok
  have hb := onlyPorts_bump s (hpBlock k) 1 1
  have hport : getPort (bump s (hpBlock k) 1 1) k = getPort s k := getPort_bump ..
  have hclosed : portClosed (bump s (hpBlock k) 1 1) = portClosed s := rfl
  have href : hostRefusal (bump s (hpBlock k) 1 1) = hostRefusal s := rfl
  have hpause : pagePaused (bump s (hpBlock k) 1 1) = pagePaused s := rfl
  have hvictim : filterVictim (bump s (hpBlock k) 1 1) = filterVictim s := rfl
  generalize bump s (hpBlock k) 1 1 = u at *
  have hsend : (send u (.memDone k)).outbox = s.outbox ++ [.memDone k] := by rw [send, hb.outbox]
  have hsm : SameMemory s (send u (.memDone k)) := hb.memory.trans (sameMemory_of rfl rfl)
  refine ⟨fun hc => ?_, fun reason hc hr => ?_, fun hc hr hp => ?_, fun hc hr hp hv => ⟨?_, ?_⟩⟩
  · rw [serveWrite_closed (by rw [hclosed, hc])] at hx
    exact ⟨_, hx, hsm, hsend⟩
  · rw [serveWrite_refused (by rw [hclosed, hc]) (by rw [href, hr])] at hx
    have hm := mute_refuseHost (send u (.memDone k)) k (hdmParcel off) (hdmFa off) reason true
    exact ⟨_, hx, hsm.trans hm.memory, hm.outbox.trans hsend⟩
  · rw [serveWrite_paused (by rw [hclosed, hc]) (by rw [href, hr]) (by rw [hpause, hp])] at hx
    refine ⟨_, writeAcc off data false, hx, hb.memory.trans (sameMemory_of rfl rfl), hb.outbox, ?_, rfl, rfl, rfl⟩
    rw [getPort_modPort, if_pos rfl, hport, hin]
    rfl
  · rw [serveWrite_passes (by rw [hclosed, hc]) (by rw [href, hr]) (by rw [hvictim, hv]), hpause, hp] at hxp
    obtain ⟨v, hv', he⟩ := applyHostWrite_eq (send u (.memDone k)) (hdmFa off) data true
    have ht := onlyPorts_trackLine (applyHostWrite (send u (.memDone k)) (hdmFa off) data true) k (hdmFa off)
    have hl : farLine (farPut v (hdmFa off) data) (hdmFa off) = farLine s (hdmFa off) := by
      rw [farLine_farPut hn hline, hv'.farLine]
      exact hb.farLine _
    have hw := hostWritten_farPut hv' hn hline
    refine ⟨_, hxp, ?_, ?_⟩
    · rw [ht.outbox, he]
      exact hw.outbox.trans hsend
    · rw [ht.far, he]
      show unitValid (farPut v (hdmFa off) data).far.swInit (markInvalid _ _ [farLine (farPut v (hdmFa off) data) (hdmFa off)]) _ = false
      rw [hl]
      exact unitValid_markInvalid (List.mem_singleton_self _)
  · rw [serveWrite_passes (by rw [hclosed, hc]) (by rw [href, hr]) (by rw [hvictim, hv]), hpause, hp] at hx
    obtain ⟨v, hv', he⟩ := applyHostWrite_eq (send u (.memDone k)) (hdmFa off) data false
    have ht := onlyPorts_trackLine (applyHostWrite (send u (.memDone k)) (hdmFa off) data false) k (hdmFa off)
    have hw : HostWritten (send u (.memDone k)) (hdmFa off) data _ :=
      (hostWritten_farPut hv' hn hline).onlyPorts (by rw [he] at ht; exact ht)
    have hfb : farByte (send u (.memDone k)) = farByte s := hb.farByte
    have hmem : (send u (.memDone k)).far.mem = s.far.mem := by
      show u.far.mem = _
      rw [hb.far]
    have hent : getEnt (send u (.memDone k)) (hdmFa off / 16777216) = getEnt s (hdmFa off / 16777216) := hb.getEnt _
    obtain ⟨hout, hsites, hin, hothers, hdirty⟩ := hw
    rw [hfb] at hin hothers
    rw [hmem] at hothers
    rw [hent] at hdirty
    rw [he] at hx
    exact ⟨_, hx, hout.trans hsend, hsites.trans hb.sites, hin, hothers, hdirty⟩

theorem poisonedRead_results (s : State) (k n : Nat) : SameMemory s (poisonedRead s k n) ∧
    (poisonedRead s k n).outbox = s.outbox ++ [.memData k (List.replicate n 0xFF) true] := ⟨sameMemory_of rfl rfl, rfl⟩

/-- Reads through decoder 0: poisoned before bring-up and where refused, else answered with the bytes. -/
theorem host_reads {k off len : Nat} {s : State} (hserve : portServes s k = true) (hdec : decoderOn s k 0 = true)
    (hin : (getPort s k).ingress = []) (hok : hdmOk off len = true) :
    (portClosed s = true → ∃ t, exec (.hostMemRead k off len) s = .next t ∧ SameMemory s t ∧
      t.outbox = s.outbox ++ [.memData k (List.replicate len 0xFF) true]) ∧
    (∀ reason, portClosed s = false → hostRefusal s k (hdmParcel off) (hdmFa off) len false = some reason →
      ∃ t, exec (.hostMemRead k off len) s = .next t ∧ SameMemory s t ∧
        t.outbox = s.outbox ++ [.memData k (List.replicate len 0xFF) true]) ∧
    (portClosed s = false → hostRefusal s k (hdmParcel off) (hdmFa off) len false = none → pagePaused s (hdmFa off) = false →
      filterVictim s (hdmFa off) = none → farValid s (hdmFa off) len = true →
      ∃ t, exec (.hostMemRead k off len) s = .next t ∧ SameMemory s t ∧
        t.outbox = s.outbox ++ [.memData k (farBytes s (hdmFa off) len) false]) := by
  have hx := exec_hostMemRead hserve hdec hin hok
  have hb := onlyPorts_bump s (hpBlock k) 0 1
  have hclosed : portClosed (bump s (hpBlock k) 0 1) = portClosed s := rfl
  have href : hostRefusal (bump s (hpBlock k) 0 1) = hostRefusal s := rfl
  have hpause : pagePaused (bump s (hpBlock k) 0 1) = pagePaused s := rfl
  have hvictim : filterVictim (bump s (hpBlock k) 0 1) = filterVictim s := rfl
  generalize bump s (hpBlock k) 0 1 = u at *
  refine ⟨fun hc => ?_, fun reason hc hr => ?_, fun hc hr hp hv hval => ?_⟩
  · rw [serveRead_closed (by rw [hclosed, hc])] at hx
    obtain ⟨hm, ho⟩ := poisonedRead_results u k len
    exact ⟨_, hx, hb.memory.trans hm, by rw [ho, hb.outbox]⟩
  · rw [serveRead_refused (by rw [hclosed, hc]) (by rw [href, hr])] at hx
    have hmute := mute_refuseHost u k (hdmParcel off) (hdmFa off) reason false
    obtain ⟨hm, ho⟩ := poisonedRead_results (refuseHost u k (hdmParcel off) (hdmFa off) reason false) k len
    exact ⟨_, hx, (hb.memory.trans hmute.memory).trans hm, by rw [ho, hmute.outbox, hb.outbox]⟩
  · obtain ⟨v, t, hv', ht, he⟩ := serveRead_served (k := k) (off := off) (by rw [hclosed, hc]) (by rw [href, hr]) (by rw [hpause, hp])
      (by rw [hvictim, hv]) (by rw [hb.farValid, hval])
    rw [he] at hx
    refine ⟨t, hx, (hb.memory.trans hv'.memory).trans (SameMemory.trans (sameMemory_of rfl rfl) ht.memory), ?_⟩
    rw [ht.outbox, send, hv'.outbox, hb.outbox, hb.farBytes]

/-- Settles O46. -/
theorem hostAccessesFarMemory : Obligations.HostAccessesFarMemory := by
  intro k off s hserve hdec hin fa p
  exact ⟨fun data hok => host_writes hserve hdec hin hok, fun len hok => host_reads hserve hdec hin hok⟩

end Sys2Proof.Machine
end

section
/-!
PROOFS. Record writes through decoder 1, reads of it, and records observed by the host (R313, R314, R325 to R327, R344).
-/

namespace Sys2Proof.Machine

/-- A write through decoder 1 in its window. -/
def recordAcc (off : Nat) (data : List Byte) : HostAcc := { dec := 1, write := true, off := off, len := data.length, data := data }

section
variable {k off : Nat} {data : List Byte} {s : State}

theorem exec_windowRecordWrite (hserve : portServes s k = true) (hdec : decoderOn s k 1 = true) (hin : (getPort s k).ingress = [])
    (hoff : off < 16777216) (hne : data ≠ []) (hline : off % 64 + data.length ≤ 64) :
    exec (.windowRecordWrite k off data) s = .next (serveRecord (bump s (hpBlock k) 1 1) k (recordAcc off data)) := by
  have hlt : off < 268435456 := by omega
  have hc : ¬(!portServes s k || !decoderOn s k 1 || decide (2 ^ 28 ≤ off) || data.isEmpty || decide (64 < off % 64 + data.length)) = true := by
    simp [hserve, hdec, hlt, hne, hline]
  exact (if_neg hc).trans (acceptAcc_first (recordAcc off data) hin)

/-- A record write fits its window: it is whole, at the place of its SEQ, and within reach. -/
def recordFits (x : Window) (off : Nat) (data : List Byte) : Bool :=
  x.active && data.length = 64 && off % 2 ^ 20 = 64 * ((recSeq data).toNat % 16384) && decide (x.ahead (recSeq data) < 1024)

theorem recordFits_not (x : Window) (off : Nat) (data : List Byte) : recordFits x off data =
    !(!x.active || decide (data.length ≠ 64) || decide (off % 2 ^ 20 ≠ 64 * ((recSeq data).toNat % 16384)) ||
      decide (1024 ≤ x.ahead (recSeq data))) := by
  unfold recordFits
  rw [Bool.eq_iff_iff]
  simp [and_assoc]

theorem serveRecord_window (hc : portClosed s = false) (hoff : off < 16777216) (u : State) (hu : u = send s (.memDone k)) :
    serveRecord s k (recordAcc off data) =
      if recordFits (getWin u (16 * k + off / 2 ^ 20)) off data = true then
        if recGen data ≠ (getWin u (16 * k + off / 2 ^ 20)).gen then
          bump (modWin u (16 * k + off / 2 ^ 20) fun x => { x with genmis := true }) (ghBlock ((16 * k + off / 2 ^ 20) / 32)) 1 1
        else if ((getWin u (16 * k + off / 2 ^ 20)).buf.any fun e => e.1 = (recSeq data).toNat) &&
            (getWin u (16 * k + off / 2 ^ 20)).sealArrived (recSeq data) then dropWrite u (16 * k + off / 2 ^ 20)
        else modWin u (16 * k + off / 2 ^ 20) fun x => { x with buf := sput x.buf (recSeq data).toNat data }
      else dropWrite u (16 * k + off / 2 ^ 20) := by
  have hopen : ¬(portClosed (send s (.memDone k)) = true ∨ 16 ≤ off / 2 ^ 20) := by
    rintro (h | h)
    · rw [show portClosed (send s (.memDone k)) = portClosed s from rfl, hc] at h
      cases h
    · omega
  rw [hu]
  refine (if_neg hopen).trans ?_
  generalize send s (.memDone k) = u
  have hfit := recordFits_not (getWin u (16 * k + off / 2 ^ 20)) off data
  cases hf : recordFits (getWin u (16 * k + off / 2 ^ 20)) off data with
  | true =>
    rw [hf, eq_comm, Bool.not_eq_true'] at hfit
    exact (if_neg (Bool.eq_false_iff.1 hfit)).trans (if_pos rfl).symm
  | false =>
    rw [hf, eq_comm, Bool.not_eq_false'] at hfit
    exact (if_pos hfit).trans (if_neg (by decide)).symm

/-- What a record write leaves besides its window. -/
theorem serveRecord_mute (hc : portClosed s = false) (hoff : off < 16777216) :
    SameMemory s (serveRecord s k (recordAcc off data)) ∧
      (serveRecord s k (recordAcc off data)).outbox = s.outbox ++ [.memDone k] := by
  rw [serveRecord_window hc hoff _ rfl]
  split
  · split
    · exact ⟨sameMemory_of rfl rfl, rfl⟩
    · split
      · exact ⟨sameMemory_of rfl rfl, rfl⟩
      · exact ⟨sameMemory_of rfl rfl, rfl⟩
  · exact ⟨sameMemory_of rfl rfl, rfl⟩

theorem record_arrives (hserve : portServes s k = true) (hdec : decoderOn s k 1 = true) (hc : portClosed s = false)
    (hin : (getPort s k).ingress = []) (hoff : off < 16777216) (hne : data ≠ []) (hline : off % 64 + data.length ≤ 64) :
    let w := 16 * k + off / 2 ^ 20
    let x := getWin s w
    let q := recSeq data
    ∃ t, exec (.windowRecordWrite k off data) s = .next t ∧ SameMemory s t ∧ t.outbox = s.outbox ++ [.memDone k] ∧
      (recordFits x off data = true → recGen data = x.gen → (x.buf.any fun e => e.1 = q.toNat) = false →
        getWin t w = { x with buf := sput x.buf q.toNat data }) ∧
      (recordFits x off data = true → recGen data ≠ x.gen → getWin t w = { x with genmis := true }) ∧
      (recordFits x off data = false → getWin t w = { x with drop := true, drops := x.drops + 1 }) := by
  intro w x q
  have hx := exec_windowRecordWrite hserve hdec hin hoff hne hline
  have hclosed : portClosed (bump s (hpBlock k) 1 1) = false := hc
  obtain ⟨hm, ho⟩ := serveRecord_mute (k := k) (data := data) hclosed hoff
  have hwin : getWin (send (bump s (hpBlock k) 1 1) (.memDone k)) w = x := rfl
  have hserved := serveRecord_window (k := k) (data := data) hclosed hoff _ rfl
  have hm0 : SameMemory s (bump s (hpBlock k) 1 1) := sameMemory_of rfl rfl
  have ho0 : (bump s (hpBlock k) 1 1).outbox = s.outbox := rfl
  generalize bump s (hpBlock k) 1 1 = u at *
  refine ⟨_, hx, hm0.trans hm, ho.trans (by rw [ho0]), fun hf hg hb => ?_, fun hf hg => ?_, fun hf => ?_⟩
  · rw [hserved, hwin, if_pos hf, if_neg (not_not_intro hg), hb, if_neg (by simp), getWin_modWin_same, hwin]
  · rw [hserved, hwin, if_pos hf, if_pos hg, getWin_bump, getWin_modWin_same, hwin]
  · rw [hserved, hwin, if_neg (by rw [hf]; decide), dropWrite, getWin_bump, getWin_modWin_same, hwin]

end

theorem decoder1_reads {k off len : Nat} {s : State} (hserve : portServes s k = true) (hdec : decoderOn s k 1 = true)
    (hc : portClosed s = false) (hoff : off < 268435456) (hlen : len ≠ 0) (hline : off % 64 + len ≤ 64) :
    ∃ t, exec (.decoder1Read k off len) s = .next t ∧ SameMemory s t ∧
      t.outbox = s.outbox ++ [.memData k (List.replicate len 0xFF) false] ∧ t.gate = s.gate := by
  have hcan : ¬(!portServes s k || !decoderOn s k 1 || decide (2 ^ 28 ≤ off) || decide (len = 0) || decide (64 < off % 64 + len)) = true := by
    simp [hserve, hdec, hoff, hlen, hline]
  have hopen : ¬portClosed (bump s (hpBlock k) 0 1) = true := by
    rw [show portClosed (bump s (hpBlock k) 0 1) = portClosed s from rfl, hc]
    decide
  exact ⟨_, (if_neg hcan).trans (if_neg hopen), sameMemory_of rfl rfl, rfl, rfl⟩

theorem segment_starts {w : Nat} {s : State} {r : Rec} (ha : alive s = true) (hw : w < 64) (hact : (getWin s w).active = true)
    (hseg : (getWin s w).seg = none) (hwait : (getWin s w).waitRec = none) (hq : (getWin s w).replayQ = [])
    (hb : (getWin s w).backlog = []) (hstep : stepStands s (getWin s w) = false)
    (hr : segOf (getWin s w) 1024 (getWin s w).next = some r) (hok : sealOk (getWin s w) r = true) :
    ∃ t, exec (.segmentExecute w) s = .next t ∧ SameMemory s t ∧ (getWin t w).seg = some (recSeq r) := by
  have hx := (exec_segment ha hw hact hseg hwait hq hb hstep hr).trans (if_pos hok)
  exact ⟨_, hx, (booked_modWin ..).memory, by rw [getWin_modWin_same]⟩

/-! ### Records in host memory (R344) -/

theorem hostAddr_inj (port : Nat) (a : W64) {i k : Nat} (hik : i < k) (hk : k < 64) :
    port * 2 ^ 64 + (a + BitVec.ofNat 64 i).toNat ≠ port * 2 ^ 64 + (a + BitVec.ofNat 64 k).toNat := by
  intro h
  have ha : a + BitVec.ofNat 64 i = a + BitVec.ofNat 64 k := BitVec.eq_of_toNat_eq (Nat.add_left_cancel h)
  have hn := congrArg BitVec.toNat ((BitVec.add_right_inj a).1 ha)
  rw [BitVec.toNat_ofNat, BitVec.toNat_ofNat] at hn
  omega

theorem sget_putHost (m : SMap Byte) (port : Nat) (a : W64) {bs : List Byte} (hlen : bs.length = 64) {i : Nat} (hi : i < 64) :
    sget 0 (putHost m port a bs) (port * 2 ^ 64 + (a + BitVec.ofNat 64 i).toNat) = bs.getD i 0 := by
  have h := mrd_foldl_at (g := fun i => port * 2 ^ 64 + (a + BitVec.ofNat 64 i).toNat) bs 0 m (k := i) (by omega)
    fun i k hik hk => by rw [Nat.zero_add, Nat.zero_add]; exact hostAddr_inj port a hik (by omega)
  rw [Nat.zero_add] at h
  exact h

theorem record_observed {k : Nat} {s : State} {h : HostWrite} (hserve : portServes s k = true)
    (hf : s.gate.writes.find? (fun x => x.port = k) = some h) (hlen : h.bytes.length = 64) :
    ∃ t, exec (.recordGloballyObserved k) s = .next t ∧ SameMemory s t ∧ t.gate.writes = s.gate.writes.erase h ∧
      t.gate = { s.gate with writes := t.gate.writes, hostMem := t.gate.hostMem } ∧
      (∀ i, i < 64 → sget 0 t.gate.hostMem (k * 2 ^ 64 + (h.addr + BitVec.ofNat 64 i).toNat) = h.bytes.getD i 0) ∧
      t.outbox = s.outbox ++ (match h.vector with
        | none => []
        | some v => [.msix k v]) := by
  have hon : ¬(!portServes s k) = true := by simp [hserve]
  have hx : exec (.recordGloballyObserved k) s = match h.vector with
      | none => .next { s with gate := { s.gate with writes := s.gate.writes.erase h, hostMem := putHost s.gate.hostMem k h.addr h.bytes } }
      | some v => .next (send { s with gate := { s.gate with
          writes := s.gate.writes.erase h, hostMem := putHost s.gate.hostMem k h.addr h.bytes } } (.msix k v)) := by
    show execRecordGloballyObserved k s = _
    unfold execRecordGloballyObserved
    rw [hf]
    dsimp only
    rw [if_neg hon]
    rfl
  have hmem (i : Nat) (hi : i < 64) := sget_putHost s.gate.hostMem k h.addr hlen hi
  cases hv : h.vector with
  | none =>
    rw [hv] at hx
    exact ⟨_, hx, sameMemory_of rfl rfl, rfl, rfl, hmem, (List.append_nil _).symm⟩
  | some v =>
    rw [hv] at hx
    exact ⟨_, hx, sameMemory_of rfl rfl, rfl, rfl, hmem, rfl⟩

/-- Settles O47. -/
theorem hostWritesRecords : Obligations.HostWritesRecords :=
  ⟨fun _ _ _ _ hserve hdec hc hin hoff hne hline => record_arrives hserve hdec hc hin hoff hne hline,
    fun _ _ _ _ hserve hdec hc hoff hlen hline => decoder1_reads hserve hdec hc hoff hlen hline,
    fun _ _ _ ha hw hact hseg hwait hq hb hstep hr hok => segment_starts ha hw hact hseg hwait hq hb hstep hr hok,
    fun _ _ _ hserve hf hlen => record_observed hserve hf hlen⟩

end Sys2Proof.Machine
end

section
/-!
PROOFS. Windows that close and parcels that reset with a port, and the other events of a host port (R311, R313, R315 to R317,
R329, R406, R410, R437).
-/

namespace Sys2Proof.Machine

/-! ### Windows that close (R317, R329, R406) -/

/-- Windows have closed, and parcels have begun a reset. -/
structure Shut (s t : State) : Prop where
  memory : SameMemory s t
  writes : t.gate.writes = s.gate.writes
  ports : t.gate.ports = s.gate.ports
  en : ∀ v, (getWin s v).en = false → (getWin t v).en = false
  port : ∀ p, (getPcl t p).port = (getPcl s p).port
  st : ∀ p, (getPcl t p).st = (getPcl s p).st ∨ (getPcl t p).st = .inReset

theorem Shut.refl (s : State) : Shut s s := ⟨sameMemory_refl s, rfl, rfl, fun _ h => h, fun _ => rfl, fun _ => .inl rfl⟩

theorem Shut.trans {s t u : State} (h : Shut s t) (k : Shut t u) : Shut s u where
  memory := h.memory.trans k.memory
  writes := k.writes.trans h.writes
  ports := k.ports.trans h.ports
  en v hv := k.en v (h.en v hv)
  port p := (k.port p).trans (h.port p)
  st p := by
    rcases k.st p with hk | hk
    · rw [hk]
      exact h.st p
    · exact .inr hk

theorem shut_foldl {α : Type} {f : State → α → State} (h : ∀ s x, Shut s (f s x)) (l : List α) (s : State) : Shut s (l.foldl f s) := by
  induction l generalizing s with
  | nil => exact .refl s
  | cons x l ih => exact (h s x).trans (ih _)

/-- What some step of a fold leaves true stays true. -/
theorem foldl_holds {α : Type} {f : State → α → State} {P : State → Prop} {x : α} (hx : ∀ s, P (f s x))
    (hkeep : ∀ s y, P s → P (f s y)) (l : List α) (hm : x ∈ l) (s : State) : P (l.foldl f s) := by
  have hrest (l : List α) (s : State) (h : P s) : P (l.foldl f s) := by
    induction l generalizing s with
    | nil => exact h
    | cons y l ih => exact ih _ (hkeep s y h)
  induction l generalizing s with
  | nil => cases hm
  | cons y l ih =>
    rcases List.mem_cons.1 hm with rfl | hm
    · exact hrest l _ (hx s)
    · exact ih hm _

theorem shut_modWin (s : State) (w : Nat) {f : Window → Window} (hf : ∀ x, x.en = false → (f x).en = false) : Shut s (modWin s w f) where
  memory := sameMemory_of rfl rfl
  writes := rfl
  ports := rfl
  en v hv := by
    rw [getWin_modWin]
    split
    next h => rw [h] at hv; exact hf _ hv
    · exact hv
  port _ := rfl
  st _ := .inl rfl

theorem shut_modPcl (s : State) (p : Nat) {f : Parcel → Parcel} (hf : ∀ x, (f x).port = x.port ∧ ((f x).st = x.st ∨ (f x).st = .inReset)) :
    Shut s (modPcl s p f) where
  memory := sameMemory_of rfl rfl
  writes := rfl
  ports := rfl
  en _ h := h
  port q := by
    rw [getPcl_modPcl]
    split
    next h => rw [h]; exact (hf _).1
    · rfl
  st q := by
    rw [getPcl_modPcl]
    split
    next h => rw [h]; exact (hf _).2
    · exact .inl rfl

/-- A window's ring and records as it closes, with what was not yet written discarded. -/
def Window.shut (x : Window) : Window :=
  { x with ctl := x.ctl &&& 0x7FFFFFFF, binderr := false, buf := [], seg := none, replayQ := [], groups := [], backlog := [] }

theorem en_shut (x : Window) : x.shut.en = false := by
  show (x.ctl &&& 0x7FFFFFFF).getLsbD 31 = false
  rw [BitVec.getLsbD_and]
  simp

theorem closeWin_closes (s : State) (w : Nat) : Shut s (closeWin s w true) ∧ (getWin (closeWin s w true) w).en = false := by
  have hwin : Shut s (modWin s w Window.shut) := shut_modWin s w fun _ _ => en_shut _
  have hen : (getWin (modWin s w Window.shut) w).en = false := by
    rw [getWin_modWin_same]
    exact en_shut _
  have hbl (b : Prop) [Decidable b] (p : Nat) (u : State) : Shut u (if b then modPcl u p fun y => { y with recBacklog := [] } else u) := by
    split
    · exact shut_modPcl _ _ fun _ => ⟨rfl, .inl rfl⟩
    · exact .refl u
  have hmk (b : Prop) [Decidable b] (p : Nat) (u : State) : Shut u (if b then modPcl u p fun y => { y with mark := {} } else u) := by
    split
    · exact shut_modPcl _ _ fun _ => ⟨rfl, .inl rfl⟩
    · exact .refl u
  have hend (u : State) : Shut u (endRec u w) := shut_modWin u w fun _ h => h
  unfold closeWin
  dsimp only
  split
  next h => exact ⟨.refl s, by simpa using h⟩
  · have h1 := hbl ((!(getWin s w).service && (getWin s w).active) = true) (getWin s w).parcel (modWin s w Window.shut)
    split
    · exact ⟨hwin.trans h1, h1.en w hen⟩
    next r hr =>
      split
      · have h2 := (h1.trans (hmk (recOp r = 0x12) (getWin s w).parcel _)).trans (hend _)
        exact ⟨hwin.trans h2, h2.en w hen⟩
      · exact ⟨hwin.trans h1, h1.en w hen⟩

theorem shut_closeWindows (s : State) (p : Nat) : Shut s (closeWindows s p true) := by
  refine shut_foldl (fun s w => ?_) _ s
  split
  · exact (closeWin_closes s w).1
  · exact .refl s

/-! ### Parcels that reset (R406, R407) -/

theorem shut_setPcl (s : State) (p : Nat) : Shut s (setPcl s p .inReset) ∧ (getPcl (setPcl s p .inReset) p).st = .inReset := by
  rcases setPcl_eq s p .inReset with h | ⟨hst, h⟩
  · have hm := shut_modPcl s p (f := fun x => { x with st := .inReset }) fun _ => ⟨rfl, .inr rfl⟩
    have hst : (getPcl (setPcl s p .inReset) p).st = .inReset := by
      rw [h]
      exact congrArg Parcel.st (getPcl_modPcl_same s p fun x => { x with st := .inReset })
    refine ⟨?_, hst⟩
    rw [h]
    exact ⟨sameMemory_of rfl rfl, hm.writes, hm.ports, hm.en, hm.port, hm.st⟩
  · rw [h]
    exact ⟨.refl s, hst⟩

theorem shut_resetting (s : State) (cs : List Nat) : Shut s (cs.foldl (fun s c => modCore s c fun x => { x with resetting := true }) s) :=
  shut_foldl (f := fun s c => modCore s c fun x => { x with resetting := true })
    (fun s c => ⟨sameMemory_modCore s c fun _ => ⟨rfl, rfl⟩, rfl, rfl, fun _ h => h, fun _ => rfl, fun _ => .inl rfl⟩) cs s

theorem beginParcelReset_resets (s : State) (p : Nat) : Shut s (beginParcelReset s p) ∧
    (pclThere s p = true → (getPcl (beginParcelReset s p) p).st = .inReset) := by
  unfold beginParcelReset
  split
  next h =>
    refine ⟨.refl s, fun hthere => ?_⟩
    rw [hthere] at h
    simpa using h
  · have hbump : Shut s (bump s clkBlock 3 1) := ⟨sameMemory_of rfl rfl, rfl, rfl, fun _ h => h, fun _ => rfl, fun _ => .inl rfl⟩
    have hwin := shut_closeWindows (bump s clkBlock 3 1) p
    dsimp only
    generalize closeWindows (bump s clkBlock 3 1) p true = u at *
    have hfar : Shut u { u with far := { u.far with seals := sdel u.far.seals p, faults := u.far.faults.filter fun f => f.parcel ≠ p } } :=
      ⟨sameMemory_of rfl rfl, rfl, rfl, fun _ h => h, fun _ => rfl, fun _ => .inl rfl⟩
    generalize ({ u with far := { u.far with seals := sdel u.far.seals p, faults := u.far.faults.filter fun f => f.parcel ≠ p } } : State) = v at *
    have hcores := shut_resetting v (pclLive v p)
    generalize (pclLive v p).foldl (fun s c => modCore s c fun x => { x with resetting := true }) v = x at *
    have hpcl := shut_modPcl x p (f := fun y => { y with staged := [], recBacklog := [], stop := .none, mark := {}, peerDigests := [] })
      fun _ => ⟨rfl, .inl rfl⟩
    obtain ⟨hset, hst⟩ := shut_setPcl (modPcl x p fun y =>
      { y with staged := [], recBacklog := [], stop := .none, mark := {}, peerDigests := [] }) p
    exact ⟨((((hbump.trans hwin).trans hfar).trans hcores).trans hpcl).trans hset, fun _ => hst⟩

/-! ### Link events and PERST_N (R317, R437) -/

/-- What a port's loss leaves: its windows are closed, its writes and accesses discarded, its parcels in reset. -/
structure PortLost (s : State) (k : Nat) (t : State) : Prop where
  memory : SameMemory s t
  writes : ∀ h ∈ t.gate.writes, h.port ≠ k
  windows : ∀ i, i < 16 → (getWin t (16 * k + i)).en = false
  parcels : ∀ p, p < 8 → (getPcl s p).port = k → (getPcl s p).st = .active → (getPcl t p).st = .inReset
  ingress : (getPort t k).ingress = []

theorem Shut.portOf {s t : State} (h : Shut s t) (k : Nat) : getPort t k = getPort s k := by rw [getPort, getPort, h.ports]

theorem windows_close (s : State) (k : Nat) {i : Nat} (hi : i < 16) :
    (getWin ((List.range 16).foldl (fun s i => closeWin s (16 * k + i) true) s) (16 * k + i)).en = false :=
  foldl_holds (f := fun s i => closeWin s (16 * k + i) true) (P := fun s => (getWin s (16 * k + i)).en = false)
    (fun s => (closeWin_closes s _).2) (fun s _ h => (closeWin_closes s _).1.en _ h) (List.range 16) (List.mem_range.2 hi) s

/-- A parcel of the port resets. -/
def portParcel (k : Nat) (s : State) (p : Nat) : State :=
  if pclThere s p && (getPcl s p).port = k then beginParcelReset s p else s

theorem shut_portParcel (k : Nat) (s : State) (p : Nat) : Shut s (portParcel k s p) := by
  unfold portParcel
  split
  · exact (beginParcelReset_resets s p).1
  · exact .refl s

theorem parcels_reset {s : State} {k p : Nat} (hp : p < 8) (hport : (getPcl s p).port = k) (hst : (getPcl s p).st = .active ∨ (getPcl s p).st = .inReset) :
    (getPcl ((List.range 8).foldl (portParcel k) s) p).st = .inReset := by
  have hkeep : ∀ (l : List Nat) (u : State), Shut s u → (p ∈ l ∨ (getPcl u p).st = .inReset) →
      (getPcl (l.foldl (portParcel k) u) p).st = .inReset := by
    intro l
    induction l with
    | nil => exact fun u _ h => h.resolve_left List.not_mem_nil
    | cons q l ih =>
      intro u hu h
      refine ih _ (hu.trans (shut_portParcel k u q)) ?_
      have hinr (h : (getPcl u p).st = .inReset) : (getPcl (portParcel k u q) p).st = .inReset := by
        rcases (shut_portParcel k u q).st p with hs | hs
        · exact hs.trans h
        · exact hs
      rcases h with h | h
      · rcases List.mem_cons.1 h with rfl | h
        · refine .inr ?_
          have hsu : (getPcl u p).st = .active ∨ (getPcl u p).st = .inReset := by
            rcases hu.st p with hs | hs
            · rw [hs]; exact hst
            · exact .inr hs
          have hthere : pclThere u p = true := by
            unfold pclThere
            rcases hsu with hs | hs <;> rw [hs] <;> simp [hp]
          have hc : (pclThere u p && decide ((getPcl u p).port = k)) = true := by
            rw [hthere, hu.port, hport]
            simp
          unfold portParcel
          rw [if_pos hc]
          exact (beginParcelReset_resets u p).2 hthere
        · exact .inl h
      · exact .inr (hinr h)
  exact hkeep _ s (.refl s) (.inl (List.mem_range.2 hp))

theorem portEvent_loses (s : State) (k : Nat) : PortLost s k (portEvent s k) := by
  have hu : portEvent s k = (List.range 8).foldl (portParcel k) ((List.range 16).foldl (fun s i => closeWin s (16 * k + i) true)
    (modPort { s with gate := { s.gate with writes := s.gate.writes.filter fun x => x.port ≠ k } } k fun x => { x with ingress := [] })) := rfl
  have hin : (getPort (modPort { s with gate := { s.gate with writes := s.gate.writes.filter fun x => x.port ≠ k } } k fun x =>
    { x with ingress := [] }) k).ingress = [] := by rw [getPort_modPort, if_pos rfl]
  have hw : (modPort { s with gate := { s.gate with writes := s.gate.writes.filter fun x => x.port ≠ k } } k fun x =>
    { x with ingress := [] }).gate.writes = s.gate.writes.filter fun x => x.port ≠ k := rfl
  have hm : SameMemory s (modPort { s with gate := { s.gate with writes := s.gate.writes.filter fun x => x.port ≠ k } } k fun x =>
    { x with ingress := [] }) := sameMemory_of rfl rfl
  have hpcl (p : Nat) : getPcl (modPort { s with gate := { s.gate with writes := s.gate.writes.filter fun x => x.port ≠ k } } k fun x =>
    { x with ingress := [] }) p = getPcl s p := rfl
  rw [hu]
  generalize modPort { s with gate := { s.gate with writes := s.gate.writes.filter fun x => x.port ≠ k } } k (fun x =>
    { x with ingress := [] }) = v at *
  have hv : Shut v ((List.range 16).foldl (fun s i => closeWin s (16 * k + i) true) v) :=
    shut_foldl (f := fun s i => closeWin s (16 * k + i) true) (fun s i => (closeWin_closes s _).1) _ v
  have hclosed (i : Nat) (hi : i < 16) := windows_close v k hi
  generalize (List.range 16).foldl (fun s i => closeWin s (16 * k + i) true) v = x at *
  have hx : Shut x ((List.range 8).foldl (portParcel k) x) := shut_foldl (shut_portParcel k) _ x
  have hall := hv.trans hx
  constructor
  case memory => exact hm.trans hall.memory
  case writes =>
    intro h hmem
    rw [hall.writes, hw] at hmem
    simpa using (List.mem_filter.1 hmem).2
  case windows => exact fun i hi => hx.en _ (hclosed i hi)
  case parcels =>
    intro p hp hport hst
    refine parcels_reset hp (by rw [hv.port, hpcl, hport]) ?_
    rcases hv.st p with hs | hs
    · rw [hs, hpcl]
      exact .inl hst
    · exact .inr hs
  case ingress => rw [hall.portOf, hin]

theorem PortLost.modPort {s t : State} {k : Nat} (h : PortLost s k t) {f : Port → Port} (hf : ∀ x, (f x).ingress = x.ingress) :
    PortLost s k (modPort t k f) where
  memory := h.memory.trans (sameMemory_of rfl rfl)
  writes := h.writes
  windows := h.windows
  parcels := h.parcels
  ingress := by rw [getPort_modPort, if_pos rfl, hf]; exact h.ingress

theorem exec_portLinkEvent {s : State} {k : Nat} (h : portServes s k = true) (ev : LinkEvent) : exec (.portLinkEvent k ev) s = match ev with
    | .linkDown => .next (linkFalls (portEvent s k) k)
    | .d3hot => .next (modPort (portEvent s k) k fun x => { x with d3hot := true })
    | .hotReset => .next (modPort (portEvent s k) k fun x => { x with d3hot := false })
    | .cxlReset => .next (modPort (portEvent s k) k fun x => { x with d3hot := false }) := by
  have hon : ¬(!portServes s k) = true := by simp [h]
  refine (if_neg hon).trans ?_
  cases ev <;> rfl

theorem link_event {s : State} {k : Nat} (h : portServes s k = true) (ev : LinkEvent) :
    ∃ t, exec (.portLinkEvent k ev) s = .next t ∧ SameMemory s t ∧
      (∀ h ∈ t.gate.writes, h.port ≠ k) ∧ (∀ i, i < 16 → (getWin t (16 * k + i)).en = false) ∧
      (∀ p, p < 8 → (getPcl s p).port = k → (getPcl s p).st = .active → (getPcl t p).st = .inReset) ∧
      (getPort t k).ingress = [] ∧ (ev = .linkDown → (getPort t k).linkUp = false) ∧ (ev = .d3hot → (getPort t k).d3hot = true) := by
  have hx := exec_portLinkEvent h ev
  have hl := portEvent_loses s k
  generalize portEvent s k = u at *
  have hfalls : PortLost s k (linkFalls u k) := hl.modPort fun _ => rfl
  cases ev with
  | linkDown =>
    exact ⟨_, hx, hfalls.memory, hfalls.writes, hfalls.windows, hfalls.parcels, hfalls.ingress,
      fun _ => by rw [linkFalls, getPort_modPort, if_pos rfl], fun h => by cases h⟩
  | d3hot =>
    obtain ⟨hm, hw, hwin, hp, hi⟩ := hl.modPort (f := fun x => { x with d3hot := true }) fun _ => rfl
    exact ⟨_, hx, hm, hw, hwin, hp, hi, (fun h => by cases h), fun _ => by rw [getPort_modPort, if_pos rfl]⟩
  | hotReset =>
    obtain ⟨hm, hw, hwin, hp, hi⟩ := hl.modPort (f := fun x => { x with d3hot := false }) fun _ => rfl
    exact ⟨_, hx, hm, hw, hwin, hp, hi, (fun h => by cases h), fun h => by cases h⟩
  | cxlReset =>
    obtain ⟨hm, hw, hwin, hp, hi⟩ := hl.modPort (f := fun x => { x with d3hot := false }) fun _ => rfl
    exact ⟨_, hx, hm, hw, hwin, hp, hi, (fun h => by cases h), fun h => by cases h⟩

theorem perst_asserts {s : State} {k : Nat} (hup : s.pwr.lodgeUp = true) (hk : k < 4) (hlock : Pin.perstN k ∉ s.pwr.lockouts)
    (h : (getPort s k).perst = false) : ∃ t, exec (.perstN k true) s = .next t ∧ SameMemory s t ∧ (getPort t k).perst = true ∧
      (getPort t k).linkUp = false ∧ ∀ i, i < 16 → (getWin t (16 * k + i)).en = false := by
  have hc : ¬(!s.pwr.lodgeUp || decide (4 ≤ k) || (getPort s k).perst == true || decide (Pin.perstN k ∈ s.pwr.lockouts)) = true := by
    simp [hup, hk, h, hlock]
  have hl := (portEvent_loses s k).modPort (f := fun x => { x with linkUp := false, speed := 0, width := 0 }) fun _ => rfl
  have hx : exec (.perstN k true) s =
    .next (modPort (linkFalls (portEvent s k) k) k fun x => { x with perst := true }) := (if_neg hc).trans (if_pos rfl)
  have hdown : (getPort (linkFalls (portEvent s k) k) k).linkUp = false := by rw [linkFalls, getPort_modPort, if_pos rfl]
  have hl' : PortLost s k (linkFalls (portEvent s k) k) := hl
  generalize linkFalls (portEvent s k) k = u at *
  refine ⟨_, hx, hl'.memory.trans (sameMemory_of rfl rfl), ?_, ?_, hl'.windows⟩
  · rw [getPort_modPort, if_pos rfl]
  · rw [getPort_modPort, if_pos rfl]
    exact hdown

theorem perst_releases {s : State} {k : Nat} (hup : s.pwr.lodgeUp = true) (hk : k < 4) (hlock : Pin.perstN k ∉ s.pwr.lockouts)
    (h : (getPort s k).perst = true) :
    ∃ t, exec (.perstN k false) s = .next t ∧ SameMemory s t ∧ getPort t k = { getPort s k with perst := false } := by
  have hc : ¬(!s.pwr.lodgeUp || decide (4 ≤ k) || (getPort s k).perst == false || decide (Pin.perstN k ∈ s.pwr.lockouts)) = true := by
    simp [hup, hk, h, hlock]
  have hx : exec (.perstN k false) s = .next (modPort s k fun x => { x with perst := false }) := (if_neg hc).trans (if_neg (by decide))
  exact ⟨_, hx, sameMemory_of rfl rfl, by rw [getPort_modPort, if_pos rfl]⟩

/-! ### Snoops (R315, R316) -/

theorem snoopOf_some {s : State} {k line : Nat} {lapsed : Bool} {x : SnoopLine} (h : snoopOf s k line lapsed = some x) :
    x ∈ (getPortF s (line / 2 ^ 18 / 3840)).snoops ∧ x.line = line ∧ x.lapsed = lapsed ∧ (x.snooped || lapsed) = true := by
  have hp := List.find?_some h
  simp only [Bool.and_eq_true, decide_eq_true_eq, beq_iff_eq] at hp
  obtain ⟨⟨⟨hl, -⟩, hlap⟩, hsn⟩ := hp
  exact ⟨List.mem_of_find?_eq_some h, hl, hlap, hsn⟩

theorem dropSnoop_drops (s : State) (x : SnoopLine) :
    OnlyPorts s (dropSnoop s x) ∧ x ∉ (getPortF (dropSnoop s x) (x.line / 2 ^ 18 / 3840)).snoops := by
  refine ⟨onlyPorts_modPortF .., ?_⟩
  rw [dropSnoop, getPortF_same]
  exact fun h => by simpa using (List.mem_filter.1 h).2

theorem snoop_answered {s : State} {k line : Nat} {x : SnoopLine} (h : snoopOf s k line false = some x) :
    x ∉ (getPortF (answered s x) (line / 2 ^ 18 / 3840)).snoops := by
  obtain ⟨-, hl, -, hsn⟩ := snoopOf_some h
  rw [Bool.or_false] at hsn
  rw [← hl]
  unfold answered
  dsimp only
  split
  · exact (dropSnoop_drops s x).2
  · split
    · rw [getPortF_same]
      intro hm
      obtain ⟨z, -, hz⟩ := List.mem_map.1 hm
      split at hz
      next he =>
        rw [← hz] at hsn
        cases hsn
      next he => exact he hz
    · exact (dropSnoop_drops (takeFree s).2 x).2

/-- An unanswered snoop has lapsed. -/
def snoopLapsed (s : State) (line : Nat) (x : SnoopLine) : State :=
  modPortF s (line / 2 ^ 18 / 3840) fun y =>
    { y with snoops := y.snoops.map fun z => if z = x then { z with snooped := false, lapsed := true } else z }

theorem snoop_lapses {s : State} {k line : Nat} {x : SnoopLine} (h : snoopOf s k line false = some x) (hh : s.pwr.halt = false) :
    ∃ t, exec (.snoopTimeout k line) s = .next (pumpHosts t) ∧ SameMemory s t ∧ t.gate = s.gate ∧
      { x with snooped := false, lapsed := true } ∈ (getPortF t (line / 2 ^ 18 / 3840)).snoops := by
  have hx : ∃ i, exec (.snoopTimeout k line) s = .next (pumpHosts (logInc (snoopLapsed s line x) i)) := by
    refine ⟨{ cls := 0x18, source := 2, locKind := 1, locNum := line / 2 ^ 18 / 3840, domain := locDomain 1 (line / 2 ^ 18 / 3840),
              addr := BitVec.ofNat 64 (lineFa (snoopLapsed s line x) line) }, ?_⟩
    show execSnoopTimeout k line s = _
    unfold execSnoopTimeout
    rw [h]
    dsimp only
    rw [hh]
    rfl
  obtain ⟨i, hx⟩ := hx
  obtain ⟨r, f, d, hlog⟩ := logInc_eq (snoopLapsed s line x) i
  have hmem : { x with snooped := false, lapsed := true } ∈ (getPortF (snoopLapsed s line x) (line / 2 ^ 18 / 3840)).snoops := by
    rw [snoopLapsed, getPortF_same]
    exact List.mem_map.2 ⟨x, (snoopOf_some h).1, if_pos rfl⟩
  refine ⟨_, hx, ?_, ?_, ?_⟩
  · rw [hlog]
    exact sameMemory_of rfl rfl
  · rw [hlog]
    rfl
  · rw [hlog]
    exact hmem

theorem snoop_answer {s : State} {k line : Nat} {data : List Byte} (hserve : portServes s k = true) (hlen : data.length = 0 ∨ data.length = 64) :
    exec (.bisnpResponse k line data) s = match snoopOf s k line false with
      | some x => .next (pumpHosts (writeBack (answered s x) k (lineFa s line) data))
      | none => match snoopOf s k line true with
        | none => cannot s
        | some x => .next (lateWriteBack (dropSnoop s x) k (lineFa s line) data) := by
  have hc : ¬(!portServes s k || decide (data.length ≠ 0 ∧ data.length ≠ 64)) = true := by
    rcases hlen with h | h <;> simp [hserve, h]
  exact if_neg hc

theorem lateWriteBack_memory (s : State) (k fa : Nat) (data : List Byte) : SameMemory s (lateWriteBack s k fa data) := by
  unfold lateWriteBack
  split
  · exact sameMemory_refl s
  · exact SameMemory.trans (t := send (bump s (hpBlock k) 1 1) (.memDone k)) (sameMemory_of rfl rfl) (mute_refuseHost ..).memory

theorem snoop_events {s : State} {k line : Nat} {data : List Byte} {x : SnoopLine} (hserve : portServes s k = true)
    (hlen : data.length = 0 ∨ data.length = 64) :
    (snoopOf s k line false = some x →
      exec (.bisnpResponse k line data) s = .next (pumpHosts (writeBack (answered s x) k (lineFa s line) data)) ∧
      x ∉ (getPortF (answered s x) (line / 2 ^ 18 / 3840)).snoops ∧
      (s.pwr.halt = false → ∃ t, exec (.snoopTimeout k line) s = .next (pumpHosts t) ∧ SameMemory s t ∧ t.gate = s.gate ∧
        { x with snooped := false, lapsed := true } ∈ (getPortF t (line / 2 ^ 18 / 3840)).snoops)) ∧
    (snoopOf s k line false = none → snoopOf s k line true = some x →
      ∃ t, exec (.bisnpResponse k line data) s = .next t ∧ SameMemory s t) := by
  have hx := snoop_answer (line := line) hserve hlen
  refine ⟨fun h => ⟨?_, snoop_answered h, snoop_lapses h⟩, fun h hlate => ?_⟩
  · rw [h] at hx
    exact hx
  · rw [h, hlate] at hx
    exact ⟨_, hx, (dropSnoop_drops s x).1.memory.trans (lateWriteBack_memory ..)⟩

/-! ### Configuration requests, decoders and training (R311, R313, R410) -/

theorem getPort_modPort_ne (s : State) {k j : Nat} (h : j ≠ k) (f : Port → Port) : getPort (modPort s k f) j = getPort s j :=
  (getPort_modPort ..).trans (if_neg h)

theorem config_request_d3 {s : State} {k : Nat} (hserve : portServes s k = true) (hdone : s.pwr.bringDone = true)
    (hd : (getPort s k).d3hot = true) : ∃ t, exec (.hostConfigRequest k) s = .next t ∧ SameMemory s t ∧
      t.outbox = s.outbox ∧ ∀ j, j ≠ k → getPort t j = getPort s j := by
  have hon : ¬(!portServes s k) = true := by simp [hserve]
  have hup : ¬(!s.pwr.bringDone) = true := by simp [hdone]
  have hx : exec (.hostConfigRequest k) s = .next (if (takeFree s).1.getLsbD 0 then modPort (takeFree s).2 k fun x => { x with d3hot := false }
      else (takeFree s).2) := ((if_neg hon).trans (if_neg hup)).trans (if_pos hd)
  refine ⟨_, hx, ?_, ?_, fun j hj => ?_⟩
  · split <;> exact sameMemory_of rfl rfl
  · split <;> rfl
  · split
    · exact getPort_modPort_ne (takeFree s).2 hj _
    · rfl

theorem config_request_early {s : State} {k : Nat} (hserve : portServes s k = true) (hdone : s.pwr.bringDone = false) :
    exec (.hostConfigRequest k) s = .next (send s (.configRetry k)) := by
  have hon : ¬(!portServes s k) = true := by simp [hserve]
  have hup : (!s.pwr.bringDone) = true := by simp [hdone]
  exact (if_neg hon).trans (if_pos hup)

theorem decoder_commits {s : State} {k d : Nat} (base : Nat) (hserve : portServes s k = true) (hdone : s.pwr.bringDone = true) (hd : d < 2) :
    ∃ t, exec (.hdmDecoderCommit k d base) s = .next t ∧ SameMemory s t ∧
      decoderOn t k d = true ∧ sget 0 (getPort t k).hdm d = base + 1 ∧ ∀ j, j ≠ k → getPort t j = getPort s j := by
  have hc : (portServes s k && s.pwr.bringDone && decide (d < 2)) = true := by simp [hserve, hdone, hd]
  have hx : exec (.hdmDecoderCommit k d base) s = .next (modPort s k fun x => { x with hdm := sset 0 x.hdm d (base + 1) }) := if_pos hc
  have hset : sget 0 (getPort (modPort s k fun x => { x with hdm := sset 0 x.hdm d (base + 1) }) k).hdm d = base + 1 := by
    rw [getPort_modPort, if_pos rfl]
    show sget 0 (sset 0 (getPort s k).hdm d (base + 1)) d = base + 1
    rw [sget_sset, if_pos rfl]
  refine ⟨_, hx, sameMemory_of rfl rfl, ?_, hset, fun j hj => getPort_modPort_ne s hj _⟩
  unfold decoderOn
  rw [hset]
  simp

theorem link_trains {s : State} {k speed width : Nat} (hup : s.pwr.lodgeUp = true) (hh : s.pwr.halt = false) (hk : k < 4)
    (hp : (getPort s k).perst = false) (hb : 6 ≤ s.pwr.bringStep.toNat) (hs : speed ∈ [16, 32, 64]) (hw : width = 8) :
    ∃ t, exec (.cxlLinkUp k speed width) s = .next t ∧ SameMemory s t ∧ portServes t k = true ∧
      getPort t k = { getPort s k with linkUp := true, d3hot := false, speed := BitVec.ofNat 8 speed, width := 8 } := by
  have hc : ¬(!s.pwr.lodgeUp || s.pwr.halt || decide (4 ≤ k) || (getPort s k).perst || decide (s.pwr.bringStep.toNat < 6) ||
      decide (speed ∉ [16, 32, 64]) || decide (width ≠ 8)) = true := by
    simp only [hup, hh, hp, hw, hs, Bool.not_true, Bool.or_false, Bool.false_or, Bool.or_eq_true, decide_eq_true_eq]
    simp
    omega
  have hx : exec (.cxlLinkUp k speed width) s = .next (modPort s k fun x =>
    { x with linkUp := true, d3hot := false, speed := BitVec.ofNat 8 speed, width := width }) := if_neg hc
  have hport : getPort (modPort s k fun x => { x with linkUp := true, d3hot := false, speed := BitVec.ofNat 8 speed, width := width }) k =
      { getPort s k with linkUp := true, d3hot := false, speed := BitVec.ofNat 8 speed, width := width } := by
    rw [getPort_modPort, if_pos rfl]
  refine ⟨_, hx, sameMemory_of rfl rfl, ?_, by rw [hport, hw]⟩
  unfold portServes
  rw [hport]
  show (decide (k < 4) && true && !(getPort s k).perst && !s.pwr.halt && s.pwr.lodgeUp) = true
  simp [hk, hp, hh, hup]

/-- Settles O48. -/
theorem hostPortEvents : Obligations.HostPortEvents := by
  refine ⟨fun k line data s x hserve hlen => snoop_events hserve hlen, fun k s hserve => ⟨if_pos hserve, config_request_early hserve,
    config_request_d3 hserve, fun d base hdone hd => decoder_commits base hserve hdone hd, link_event hserve⟩,
    fun k s hup hk hlock => ⟨perst_asserts hup hk hlock, perst_releases hup hk hlock⟩,
    fun k speed width s hup hh hk hp hb hs hw => link_trains hup hh hk hp hb hs hw⟩

end Sys2Proof.Machine
end

section
/-!
PROOFS. Writes of the register space: alignment, filters, guards and UNLOCK (R366, R367, R370, R372, R373).
-/

namespace Sys2Proof.Machine

/-! ### What a register write leaves -/

/-- Every memory and every lock is as it was. -/
structure Steady (s t : State) : Prop where
  memory : SameMemory s t
  unlocked : t.regs.unlocked = s.regs.unlocked

theorem Steady.refl (s : State) : Steady s s := ⟨sameMemory_refl s, rfl⟩

theorem Steady.trans {s t u : State} (h : Steady s t) (k : Steady t u) : Steady s u :=
  ⟨h.memory.trans k.memory, k.unlocked.trans h.unlocked⟩

theorem steady_ite {c : Prop} [Decidable c] {s t u : State} (h : Steady s t) (k : Steady s u) : Steady s (if c then t else u) := by
  split
  · exact h
  · exact k

theorem Booked.steady {s t : State} (h : Booked s t) : Steady s t := ⟨h.memory, by rw [h.state]⟩

theorem steady_modWin (s : State) (w : Nat) (f : Window → Window) : Steady s (modWin s w f) := ⟨sameMemory_of rfl rfl, rfl⟩

theorem steady_modPcl (s : State) (p : Nat) (f : Parcel → Parcel) : Steady s (modPcl s p f) := ⟨sameMemory_of rfl rfl, rfl⟩

theorem steady_logInc (s : State) (i : Inc) : Steady s (logInc s i) := by
  obtain ⟨r, f, d, h⟩ := logInc_eq s i
  rw [h]
  exact ⟨sameMemory_of rfl rfl, rfl⟩

theorem steady_failStop (s : State) (cls cause : Nat) : Steady s (failStop s cls cause) := by
  rw [failStop_eq]
  exact ⟨sameMemory_of rfl rfl, rfl⟩

theorem steady_takeFree (s : State) : Steady s (takeFree s).2 := ⟨sameMemory_of rfl rfl, rfl⟩

theorem steady_closeWin (s : State) (w : Nat) (drop : Bool) : Steady s (closeWin s w drop) := by
  have hpcl (b : Prop) [Decidable b] (p : Nat) (f : Parcel → Parcel) (u : State) : Steady u (if b then modPcl u p f else u) :=
    steady_ite (steady_modPcl ..) (.refl u)
  unfold closeWin
  dsimp only
  split
  · exact .refl s
  · have h1 := (steady_modWin s w fun x => { x with ctl := x.ctl &&& 0x7FFFFFFF, binderr := false, buf := [], seg := none, replayQ := [], groups := if drop then [] else x.groups, backlog := if drop then [] else x.backlog }).trans (hpcl ((!(getWin s w).service && (getWin s w).active) = true) (getWin s w).parcel
      (fun y => { y with recBacklog := [] }) _)
    split
    · exact h1
    next r hr =>
      split
      · have h2 := h1.trans (hpcl (recOp r = 0x12) (getWin s w).parcel (fun y => { y with mark := {} }) _)
        exact steady_ite (h2.trans (steady_modWin ..)) (h2.trans (booked_finRec ..).steady)
      · exact h1

theorem booked_drainBacklog (w n : Nat) (s : State) : Booked s (drainBacklog s w n) := by
  induction n generalizing s with
  | zero => exact .refl s
  | succ n ih =>
    rw [drainBacklog]
    split
    · exact .refl s
    · split
      · exact ((booked_modWin ..).trans (booked_startRec ..)).trans (ih _)
      · exact .refl s

theorem steady_takeBacklog (s : State) (w : Nat) : Steady s (takeBacklog s w) := by
  have hrecs (l : List (List Byte)) (u : State) : Steady u (l.foldl (fun s r => emitRec s w r true) u) := by
    induction l generalizing u with
    | nil => exact .refl u
    | cons r l ih => exact (booked_emitRec ..).steady.trans (ih _)
  unfold takeBacklog
  dsimp only
  exact steady_ite ((steady_modPcl ..).trans (hrecs _ _)) (.refl s)

theorem steady_checkFail (s : State) (b : Nat) (k : Blk) : Steady s (checkFail s b k) := by
  have hreg : Steady s { s with regs := { s.regs with cfgerr := sset false s.regs.cfgerr b true } } := ⟨sameMemory_of rfl rfl, rfl⟩
  unfold checkFail
  dsimp only
  refine steady_ite (hreg.trans ((steady_logInc ..).trans (steady_failStop ..))) ?_
  split
  · exact hreg.trans ((steady_logInc ..).trans (steady_closeWin ..))
  · exact hreg.trans (steady_logInc ..)

theorem steady_runCheck (s : State) (b : Nat) (k : Blk) : Steady s (runCheck s b k) := by
  unfold runCheck
  split
  · exact steady_ite (steady_checkFail ..) (.refl s)
  · exact .refl s

theorem steady_openWin (s : State) (w : Nat) : Steady s (openWin s w) :=
  (((steady_modWin ..).trans (booked_drainBacklog ..).steady).trans (steady_runCheck ..)).trans (steady_takeBacklog ..)

theorem steady_setWign (s : State) (b : Nat) : Steady s (setWign s b) := ⟨sameMemory_of rfl rfl, rfl⟩

theorem steady_writeWinCtl (s : State) (w al : Nat) (v : W32) : Steady s (writeWinCtl s w al v) := by
  have hign (c : Prop) [Decidable c] : Steady s (if c then setWign s (winBlock w) else s) := steady_ite (steady_setWign ..) (.refl s)
  unfold writeWinCtl
  dsimp only
  exact steady_ite (steady_ite (hign _) ((hign _).trans (steady_closeWin ..)))
    (steady_ite ((steady_modWin ..).trans (steady_openWin ..)) (steady_modWin ..))

theorem steady_writeRwe (s : State) (w al : Nat) (v : W32) (f : Window → Window) : Steady s (writeRwe s w al v f) :=
  steady_ite (steady_ite (steady_setWign ..) (.refl s)) (steady_modWin ..)

theorem steady_writeWin (s : State) (w off al : Nat) (v : W32) : Steady s (writeWin s w off al v) := by
  unfold writeWin
  refine steady_ite (steady_writeWinCtl ..) (steady_ite (steady_writeRwe ..) (steady_ite (steady_writeRwe ..)
    (steady_ite (steady_modWin ..) (steady_ite (steady_writeRwe ..) (steady_ite (steady_writeRwe ..)
    (steady_ite (steady_writeRwe ..) (steady_ite ?_ (.refl s))))))))
  exact (steady_modWin ..).trans (booked_drainBacklog ..).steady

theorem setMcReg_memory (x : Site) (off : Nat) (v : W32) : (setMcReg x off v).near = x.near ∧ (setMcReg x off v).terr = x.terr := by
  unfold setMcReg
  split
  · exact ⟨rfl, rfl⟩
  · exact ⟨rfl, rfl⟩

theorem steady_mapWrite (s : State) (src : Src) (k : Blk) (off al : Nat) (v : W32) : Steady s (mapWrite s src k off al v) := by
  unfold mapWrite
  split
  · exact steady_writeWin ..
  · exact steady_ite ⟨sameMemory_of rfl rfl, rfl⟩ (.refl s)
  · exact steady_ite ⟨sameMemory_of rfl rfl, rfl⟩ (.refl s)
  · refine steady_ite ⟨sameMemory_modSite _ _ _ ?_ ?_, rfl⟩ (.refl s)
    · exact (setMcReg_memory ..).1
    · exact (setMcReg_memory ..).2
  · exact .refl s

theorem steady_clearCtrs (s : State) (b : Nat) (k : Blk) : Steady s (clearCtrs s b k) := by
  unfold clearCtrs
  dsimp only
  split <;> exact ⟨sameMemory_of rfl rfl, rfl⟩

theorem steady_ctrVal (s : State) (b : Nat) (k : Blk) (i : Nat) : Steady s (ctrVal s b k i).2 := by
  unfold ctrVal
  split
  · exact .refl s
  · split
    · exact steady_takeFree s
    · exact .refl s

/-- A block's i-th holding register takes its counter. -/
def captured (b : Nat) (k : Blk) (i : Nat) (s : State) : State :=
  { (ctrVal s b k i).2 with regs := { (ctrVal s b k i).2.regs with
    hold := sset 0 (ctrVal s b k i).2.regs.hold (b * 64 + i) (ctrVal s b k i).1 } }

theorem captureCtrs_succ (b : Nat) (k : Blk) (n i : Nat) (s : State) :
    captureCtrs b k (n + 1) i s = captureCtrs b k n (i + 1) (captured b k i s) := rfl

theorem steady_captured (b : Nat) (k : Blk) (i : Nat) (s : State) : Steady s (captured b k i s) :=
  (steady_ctrVal s b k i).trans ⟨sameMemory_of rfl rfl, rfl⟩

theorem steady_captureCtrs (b : Nat) (k : Blk) (n i : Nat) (s : State) : Steady s (captureCtrs b k n i s) := by
  induction n generalizing i s with
  | zero => exact .refl s
  | succ n ih =>
    rw [captureCtrs_succ]
    exact (steady_captured b k i s).trans (ih _ _)

theorem steady_observeCycles (s : State) (d : Nat) : Steady s (observeCycles s d).2 := by
  unfold observeCycles
  split <;> exact ⟨sameMemory_of rfl rfl, rfl⟩

theorem steady_capture (s : State) (b : Nat) (k : Blk) (ident : W32) : Steady s (capture s b k ident) := by
  have hreg (u : State) (r : Regs) (h : r.unlocked = u.regs.unlocked) : Steady u { u with regs := r } := ⟨sameMemory_of rfl rfl, h⟩
  have h := ((steady_captureCtrs b k (blkCtrs k).length 0 s).trans (steady_observeCycles ..)).trans (hreg _ { (observeCycles (captureCtrs b k (blkCtrs k).length 0 s) (blockDomain b)).2.regs with
    snapCyc := sset 0 (observeCycles (captureCtrs b k (blkCtrs k).length 0 s) (blockDomain b)).2.regs.snapCyc b
      (observeCycles (captureCtrs b k (blkCtrs k).length 0 s) (blockDomain b)).1,
    snapId := sset 0 (observeCycles (captureCtrs b k (blkCtrs k).length 0 s) (blockDomain b)).2.regs.snapId b ident } rfl)
  unfold capture
  dsimp only
  split
  · exact (h.trans (steady_observeCycles ..)).trans (hreg _ _ rfl)
  · exact h

theorem steady_commonWrite (s : State) (b : Nat) (k : Blk) (off al : Nat) (v : W32) : Steady s (commonWrite s b k off al v) := by
  have hreg (r : Regs) (h : r.unlocked = s.regs.unlocked) : Steady s { s with regs := r } := ⟨sameMemory_of rfl rfl, h⟩
  unfold commonWrite
  dsimp only
  refine steady_ite (steady_ite (Steady.trans ?_ (steady_clearCtrs ..)) (hreg _ rfl)) (steady_ite (hreg _ rfl) (steady_ite (hreg _ rfl)
    (steady_ite (steady_ite (steady_capture ..) (.refl s)) (steady_ite (hreg _ rfl) (.refl s)))))
  exact hreg _ rfl

/-! ### Locks and guards (R366, R367, R372, R373) -/

theorem unlockedFor_lockFor (s : State) (b : Nat) (src : Src) : unlockedFor (lockFor s b src) b src = false := by
  refine decide_eq_false fun h => ?_
  simpa using (List.mem_filter.1 h).2

theorem Steady.unlockedFor {s t : State} (h : Steady s t) (b : Nat) (src : Src) : Machine.unlockedFor t b src = Machine.unlockedFor s b src := by
  rw [Machine.unlockedFor, Machine.unlockedFor, h.unlocked]

section
variable {src : Src} {s : State} {addr : Nat} {v : W32} {k : Blk}

theorem exec_registerWrite (hsrc : srcOk s src = true) (hlt : addr < 33554432) :
    exec (.registerWrite src addr v) s = .next (regWrite s src addr v) := (if_pos hlt).trans (if_pos hsrc)

theorem regWrite_misaligned (h : addr % 4 ≠ 0) : regWrite s src addr v = s := if_pos h

theorem regWrite_filtered (h : addr % 4 = 0) (hf : filtered s src (addr / 0x4000) true = true) :
    regWrite s src addr v = countFilt s src := (if_neg (not_not_intro h)).trans (if_pos hf)

variable (ha : addr % 4 = 0) (hf : filtered s src (addr / 0x4000) true = false) (hk : blkOf (addr / 0x4000) = some k)
include ha hf hk

theorem regWrite_block : regWrite s src addr v =
    if !hasReg k (addr % 0x1000) then s
    else if addr % 0x1000 = 0xF0C then
      (if addr / 0x1000 % 4 = 0 ∧ v = 0x5AFE then unlockFor (lockFor s (addr / 0x4000) src) (addr / 0x4000) src
       else lockFor s (addr / 0x4000) src)
    else if guardedReg k (addr % 0x1000) && !unlockedFor s (addr / 0x4000) src then
      { lockFor s (addr / 0x4000) src with regs := { (lockFor s (addr / 0x4000) src).regs with
        lockv := sset false s.regs.lockv (addr / 0x4000) true } }
    else if addr % 0x1000 < 0xC00 then
      mapWrite (lockFor s (addr / 0x4000) src) src k (addr % 0x1000) (addr / 0x1000 % 4) v
    else commonWrite (lockFor s (addr / 0x4000) src) (addr / 0x4000) k (addr % 0x1000) (addr / 0x1000 % 4) v := by
  have hvis : ¬filtered s src (addr / 0x4000) true = true := by rw [hf]; decide
  refine ((if_neg (not_not_intro ha)).trans (if_neg hvis)).trans ?_
  rw [hk]
  rfl

theorem regWrite_reserved (h : hasReg k (addr % 0x1000) = false) : regWrite s src addr v = s := by
  rw [regWrite_block ha hf hk, h]
  rfl

theorem regWrite_locked (h : hasReg k (addr % 0x1000) = true) (hg : guardedReg k (addr % 0x1000) = true)
    (hl : unlockedFor s (addr / 0x4000) src = false) : regWrite s src addr v = { s with regs := { s.regs with
      unlocked := s.regs.unlocked.filter fun e => e ≠ (addr / 0x4000, src), lockv := sset false s.regs.lockv (addr / 0x4000) true } } := by
  have hne : addr % 0x1000 ≠ 0xF0C := by
    intro he
    rw [he] at hg
    cases k <;> simp [guardedReg] at hg
  have hc : (guardedReg k (addr % 0x1000) && !unlockedFor s (addr / 0x4000) src) = true := by rw [hg, hl]; rfl
  have hr : ¬(!hasReg k (addr % 0x1000)) = true := by simp [h]
  rw [regWrite_block ha hf hk, if_neg hr, if_neg hne, if_pos hc]
  rfl

theorem regWrite_permitted (h : hasReg k (addr % 0x1000) = true) (hne : addr % 0x1000 ≠ 0xF0C)
    (hg : guardedReg k (addr % 0x1000) = true → unlockedFor s (addr / 0x4000) src = true) : regWrite s src addr v =
      if addr % 0x1000 < 0xC00 then mapWrite (lockFor s (addr / 0x4000) src) src k (addr % 0x1000) (addr / 0x1000 % 4) v
      else commonWrite (lockFor s (addr / 0x4000) src) (addr / 0x4000) k (addr % 0x1000) (addr / 0x1000 % 4) v := by
  have hc : ¬(guardedReg k (addr % 0x1000) && !unlockedFor s (addr / 0x4000) src) = true := by
    rw [Bool.and_eq_true, not_and]
    intro hgd
    rw [hg hgd]
    decide
  have hr : ¬(!hasReg k (addr % 0x1000)) = true := by simp [h]
  rw [regWrite_block ha hf hk, if_neg hr, if_neg hne, if_neg hc]

theorem regWrite_locks (h : hasReg k (addr % 0x1000) = true) (hne : addr % 0x1000 ≠ 0xF0C)
    (hg : guardedReg k (addr % 0x1000) = true → unlockedFor s (addr / 0x4000) src = true) :
    SameMemory s (regWrite s src addr v) ∧ unlockedFor (regWrite s src addr v) (addr / 0x4000) src = false := by
  have hlock : SameMemory s (lockFor s (addr / 0x4000) src) := sameMemory_of rfl rfl
  have hst : Steady (lockFor s (addr / 0x4000) src) (regWrite s src addr v) := by
    rw [regWrite_permitted ha hf hk h hne hg]
    exact steady_ite (steady_mapWrite ..) (steady_commonWrite ..)
  exact ⟨hlock.trans hst.memory, by rw [hst.unlockedFor, unlockedFor_lockFor]⟩

end

/-! ### UNLOCK (R372) -/

theorem regAddr_parts (b : Nat) {off : Nat} (h : off < 4096) : regAddr b 0 off / 0x4000 = b ∧ regAddr b 0 off % 0x1000 = off ∧
    regAddr b 0 off / 0x1000 % 4 = 0 := by
  unfold regAddr
  omega

theorem hasReg_unlock (k : Blk) : hasReg k 0xF0C = true := by cases k <;> rfl

theorem regWrite_unlock {src : Src} {s : State} {b : Nat} {v : W32} (hk : (blkOf b).isSome = true)
    (hf : filtered s src b true = false) : regWrite s src (regAddr b 0 0xF0C) v =
      if v = 0x5AFE then unlockFor (lockFor s b src) b src else lockFor s b src := by
  obtain ⟨k, hk⟩ := Option.isSome_iff_exists.1 hk
  obtain ⟨hb, hoff, hal⟩ := regAddr_parts b (off := 0xF0C) (by decide)
  have ha : regAddr b 0 0xF0C % 4 = 0 := by unfold regAddr; omega
  have hr : ¬(!hasReg k 0xF0C) = true := by rw [hasReg_unlock]; decide
  rw [regWrite_block (k := k) ha (by rw [hb, hf]) (by rw [hb, hk]), hb, hoff, hal, if_neg hr, if_pos rfl]
  simp only [true_and]

theorem unlockedFor_unlockFor (s : State) (b : Nat) (src : Src) : unlockedFor (unlockFor s b src) b src = true :=
  decide_eq_true (List.mem_append_right _ (List.mem_singleton_self _))

theorem unlockedFor_lockFor_ne (s : State) {b c : Nat} {src q : Src} (h : (c, q) ≠ (b, src)) :
    unlockedFor (lockFor s b src) c q = unlockedFor s c q := by
  refine decide_eq_decide.2 ⟨fun hm => (List.mem_filter.1 hm).1, fun hm => List.mem_filter.2 ⟨hm, decide_eq_true h⟩⟩

theorem unlockedFor_unlockFor_ne (s : State) {b c : Nat} {src q : Src} (h : (c, q) ≠ (b, src)) :
    unlockedFor (unlockFor s b src) c q = unlockedFor s c q := by
  rw [← unlockedFor_lockFor_ne s h]
  refine decide_eq_decide.2 ⟨fun hm => ?_, fun hm => List.mem_append_left _ hm⟩
  exact (List.mem_append.1 hm).resolve_right fun hm => h (List.mem_singleton.1 hm)

theorem unlock_opens {src : Src} {s : State} {b : Nat} (hsrc : srcOk s src = true) (hk : (blkOf b).isSome = true)
    (hf : filtered s src b true = false) :
    ∃ t, exec (.unlock src b 0x5AFE) s = .next t ∧ unlockedFor t b src = true ∧ t = { s with regs := t.regs } ∧
      ∀ c q, (c, q) ≠ (b, src) → unlockedFor t c q = unlockedFor s c q := by
  have hx : exec (.unlock src b 0x5AFE) s = .next (regWrite s src (regAddr b 0 0xF0C) 0x5AFE) := (if_pos hk).trans (if_pos hsrc)
  rw [regWrite_unlock hk hf, if_pos rfl] at hx
  exact ⟨_, hx, unlockedFor_unlockFor .., rfl, fun c q h => (unlockedFor_unlockFor_ne _ h).trans (unlockedFor_lockFor_ne s h)⟩

theorem unlock_closes {src : Src} {s : State} {b : Nat} {v : W32} (hsrc : srcOk s src = true) (hk : (blkOf b).isSome = true)
    (hf : filtered s src b true = false) (hv : v ≠ 0x5AFE) : ∃ t, exec (.unlock src b v) s = .next t ∧ unlockedFor t b src = false := by
  have hx : exec (.unlock src b v) s = .next (regWrite s src (regAddr b 0 0xF0C) v) := (if_pos hk).trans (if_pos hsrc)
  rw [regWrite_unlock hk hf, if_neg hv] at hx
  exact ⟨_, hx, unlockedFor_lockFor ..⟩

/-- Settles O49. -/
theorem registerWritesAreChecked : Obligations.RegisterWritesAreChecked := by
  intro src s hsrc
  refine ⟨fun addr v hlt ha => ?_, fun addr v hlt ha hf => ?_, fun addr v k hlt ha hf hk => ⟨fun hr => ?_, fun hr hg hl => ?_,
    fun hr hne hg => ?_⟩, fun b v hk hf => ⟨unlock_opens hsrc hk hf, unlock_closes hsrc hk hf⟩⟩
  · rw [exec_registerWrite hsrc hlt, regWrite_misaligned ha]
  · rw [exec_registerWrite hsrc hlt, regWrite_filtered ha hf]
  · rw [exec_registerWrite hsrc hlt, regWrite_reserved ha hf hk hr]
  · exact ⟨_, (exec_registerWrite hsrc hlt).trans (congrArg _ (regWrite_locked ha hf hk hr hg hl)), rfl⟩
  · obtain ⟨hm, hu⟩ := regWrite_locks (v := v) ha hf hk hr hne hg
    exact ⟨_, exec_registerWrite hsrc hlt, hm, hu⟩

end Sys2Proof.Machine
end

section
/-!
PROOFS. Registers with rows of their own: windows, captures, counters, Cadastre and Groundskeeper blocks (R323, R329, R341,
R376 to R380, R385, R386).
-/

namespace Sys2Proof.Machine

/-! ### A direct write of a register that takes it (R366, R370, R372) -/

theorem regWrite_direct {s : State} {src : Src} {b off : Nat} {k : Blk} {v : W32} (hoff : off < 4096) (ha : off % 4 = 0)
    (hk : blkOf b = some k) (hf : filtered s src b true = false) (hreg : hasReg k off = true) (hne : off ≠ 0xF0C)
    (hg : guardedReg k off = true → unlockedFor s b src = true) : regWrite s src (regAddr b 0 off) v =
      if off < 0xC00 then mapWrite (lockFor s b src) src k off 0 v else commonWrite (lockFor s b src) b k off 0 v := by
  obtain ⟨hb, ho, hal⟩ := regAddr_parts b hoff
  have hal4 : regAddr b 0 off % 4 = 0 := by unfold regAddr; omega
  rw [regWrite_permitted (k := k) hal4 (by rw [hb, hf]) (by rw [hb, hk]) (by rw [ho, hreg]) (by rwa [ho]) (by rwa [ho, hb]), hb, ho, hal]

theorem regRow_done {s : State} {src : Src} {addr : Nat} {v : W32} (h : srcOk s src = true) :
    regRow src addr v s = .next (regWrite s src addr v) := if_pos h

theorem memory_lockFor (s : State) (b : Nat) (src : Src) : SameMemory s (lockFor s b src) := sameMemory_of rfl rfl

/-! ### Windows (R323, R329, R341, R376) -/

theorem blkOf_winBlock {w : Nat} (h : w < 64) : blkOf (winBlock w) = some (.win w) := by
  have h4 : 0x100 ≤ winBlock w ∧ winBlock w < 0x140 := by unfold winBlock; omega
  have hw : winBlock w - 0x100 = w := by unfold winBlock; omega
  unfold blkOf
  rw [if_neg (by omega), if_neg (by omega), if_neg (by omega), if_neg (by omega), if_neg (by omega), if_neg (by omega),
    if_neg (by omega), if_neg (by omega), if_neg (by omega), if_neg (by omega), if_pos h4, hw]

theorem hasReg_win {w off : Nat} (h : off < 0x24) : hasReg (.win w) off = true := by
  have h' : off < 0xC00 := by omega
  unfold hasReg
  dsimp only
  rw [if_pos h', mapHas, decide_eq_true h, Bool.true_or]

theorem guardedReg_win {w off : Nat} (h : off < 0x24) : guardedReg (.win w) off = false := by
  unfold guardedReg
  simp
  omega

/-- Only the window's ring tail and the records that wait for room in its ring have changed, of all windows. -/
structure Ringed (w : Nat) (s t : State) : Prop where
  own : getWin t w = { getWin s w with crTail := (getWin t w).crTail, backlog := (getWin t w).backlog }
  others : ∀ v, v ≠ w → getWin t v = getWin s v

section
variable {w : Nat}

theorem Ringed.refl (s : State) : Ringed w s s := ⟨rfl, fun _ _ => rfl⟩

theorem Ringed.trans {s t u : State} (h : Ringed w s t) (k : Ringed w t u) : Ringed w s u :=
  ⟨by rw [k.own, h.own], fun v hv => (k.others v hv).trans (h.others v hv)⟩

theorem ringed_same {s t : State} (h : ∀ v, getWin t v = getWin s v) : Ringed w s t := ⟨by rw [h w], fun v _ => h v⟩

theorem ringed_modWin (s : State) {f : Window → Window} (hf : ∀ x, f x = { x with crTail := (f x).crTail, backlog := (f x).backlog }) :
    Ringed w s (modWin s w f) := by
  refine ⟨?_, fun v hv => (getWin_modWin ..).trans (if_neg hv)⟩
  rw [getWin_modWin_same]
  exact hf _

theorem ringed_startRec (s : State) (b : List Byte) (irq : Bool) : Ringed w s (startRec s w b irq) :=
  have hmod := ringed_modWin (w := w) s (f := fun x => { x with crTail := x.crTail + 1 }) fun _ => rfl
  have hrest : Ringed w (modWin s w fun x => { x with crTail := x.crTail + 1 }) (startRec s w b irq) := ringed_same fun _ => rfl
  hmod.trans hrest

theorem ringed_emitRec (s : State) (b : List Byte) (irq : Bool) : Ringed w s (emitRec s w b irq) := by
  unfold emitRec
  split
  · exact .refl s
  · split
    · exact ringed_startRec ..
    · exact ringed_modWin s fun _ => rfl

theorem ringed_drainBacklog (n : Nat) (s : State) : Ringed w s (drainBacklog s w n) := by
  induction n generalizing s with
  | zero => exact .refl s
  | succ n ih =>
    rw [drainBacklog]
    split
    · exact .refl s
    · split
      · exact ((ringed_modWin s fun _ => rfl).trans (ringed_startRec ..)).trans (ih _)
      · exact .refl s

theorem ringed_takeBacklog (s : State) : Ringed w s (takeBacklog s w) := by
  have hrecs (l : List (List Byte)) (u : State) : Ringed w u (l.foldl (fun s r => emitRec s w r true) u) := by
    induction l generalizing u with
    | nil => exact .refl u
    | cons r l ih => exact (ringed_emitRec ..).trans (ih _)
  unfold takeBacklog
  dsimp only
  split
  · have hpcl : Ringed w s (modPcl s (getWin s w).parcel fun y => { y with recBacklog := [] }) := ringed_same fun _ => rfl
    exact hpcl.trans (hrecs _ _)
  · exact .refl s

theorem ringed_finRec (s : State) (r : Rec) (st : Nat) (body : List Byte) : Ringed w (endRec s w) (finRec s w r st body) := by
  unfold finRec writeCompletion
  dsimp only
  split
  · split
    · exact ringed_emitRec ..
    · exact (ringed_emitRec ..).trans (ringed_same fun _ => rfl)
  · exact .refl _

end

/-- EN set, with BINDERR as judged. -/
def Window.opened (bad : Bool) (x : Window) : Window := { x with ctl := x.ctl ||| 0x80000000, binderr := bad }

theorem runCheck_off {s : State} {w : Nat} (h : sget false s.regs.chk (winBlock w) = false) : runCheck s (winBlock w) (.win w) = s := by
  have hc : ¬(sget false s.regs.chk (winBlock w) && (getWin s w).en &&
      cfgCrc s (.win w) ≠ sget 0 s.regs.cfgref (winBlock w)) = true := by rw [h]; exact Bool.false_ne_true
  exact if_neg hc

theorem ringed_openWin {s : State} {w : Nat} (h : sget false s.regs.chk (winBlock w) = false) :
    Ringed w (modWin s w (Window.opened (bindErr s w))) (openWin s w) := by
  unfold openWin
  have hd := ringed_drainBacklog (w := w) (getWin (modWin s w (Window.opened (bindErr s w))) w).backlog.length
    (modWin s w (Window.opened (bindErr s w)))
  have hb := booked_drainBacklog w (getWin (modWin s w (Window.opened (bindErr s w))) w).backlog.length
    (modWin s w (Window.opened (bindErr s w)))
  have hchk : sget false (drainBacklog (modWin s w (Window.opened (bindErr s w))) w
      (getWin (modWin s w (Window.opened (bindErr s w))) w).backlog.length).regs.chk (winBlock w) = false := by
    rw [hb.state]
    exact h
  refine hd.trans ?_
  dsimp only
  unfold Window.opened at hchk
  rw [runCheck_off hchk]
  exact ringed_takeBacklog _

theorem bindErr_unbound {s : State} {w : Nat} (h : (getPcl s (getWin s w).parcel).port ≠ w / 16) : bindErr s w = true := by
  have hb : decide ((getPcl s (getWin s w).parcel).port = w / 16) = false := decide_eq_false h
  simp [bindErr, hb]

/-- The fields of WIN_CTL that a write takes while the window is closed. -/
def Window.control (v : W32) (x : Window) : Window := { x with ctl := maskNew 0 0x000F001F x.ctl v }

theorem parcel_control (x : Window) (v : W32) (b : Bool) : ((x.control v).opened b).parcel = (v.extractLsb' 17 3).toNat ∧
    (x.control v).parcel = (v.extractLsb' 17 3).toNat := by
  have h (c : W32) : ((c &&& ~~~(0x000F001F#32)) ||| (v &&& 0x000F001F#32)).extractLsb' 17 3 = v.extractLsb' 17 3 := by
    ext i hi
    simp
    interval_cases i <;> simp
  have h' (c : W32) : ((c &&& ~~~(0x000F001F#32)) ||| (v &&& 0x000F001F#32) ||| 0x80000000#32).extractLsb' 17 3 = v.extractLsb' 17 3 := by
    ext i hi
    simp
    interval_cases i <;> simp
  exact ⟨congrArg BitVec.toNat (h' x.ctl), congrArg BitVec.toNat (h x.ctl)⟩

theorem en_opened (x : Window) (b : Bool) : (x.opened b).en = true := by
  unfold Window.en Window.opened
  rw [BitVec.getLsbD_or]
  simp

/-- The window is closed, its segment buffer empty. -/
def Emptied (w : Nat) (s : State) : Prop := (getWin s w).en = false ∧ (getWin s w).buf = [] ∧ (getWin s w).seg = none

theorem Ringed.emptied {w : Nat} {s t : State} (h : Ringed w s t) (he : Emptied w s) : Emptied w t := by
  unfold Emptied
  rw [h.own]
  exact he

theorem emptied_ite {c : Prop} [Decidable c] {w : Nat} {s t : State} (h : Emptied w s) (k : Emptied w t) :
    Emptied w (if c then s else t) := by
  split
  · exact h
  · exact k

/-- What closing a window leaves of it. -/
def Window.closed (drop : Bool) (x : Window) : Window :=
  { x with ctl := x.ctl &&& 0x7FFFFFFF, binderr := false, buf := [], seg := none, replayQ := [],
           groups := if drop then [] else x.groups, backlog := if drop then [] else x.backlog }

theorem en_closed (x : Window) (drop : Bool) : (x.closed drop).en = false := by
  unfold Window.en Window.closed
  rw [BitVec.getLsbD_and]
  simp

theorem closeWin_clears {s : State} {w : Nat} {drop : Bool} (hen : (getWin s w).en = true) : Emptied w (closeWin s w drop) := by
  have hpcl (b : Prop) [Decidable b] (p : Nat) (f : Parcel → Parcel) (u : State) (h : Emptied w u) :
      Emptied w (if b then modPcl u p f else u) := by
    split
    · exact h
    · exact h
  have hend (u : State) (h : Emptied w u) : Emptied w (endRec u w) := by
    unfold Emptied endRec
    rw [getWin_modWin_same]
    exact h
  have hmod : Emptied w (modWin s w (Window.closed drop)) := by
    unfold Emptied
    rw [getWin_modWin_same]
    exact ⟨en_closed .., rfl, rfl⟩
  have hnot : ¬(!(getWin s w).en) = true := by rw [hen]; decide
  unfold closeWin
  dsimp only
  rw [if_neg hnot]
  have h1 := hpcl ((!(getWin s w).service && (getWin s w).active) = true) (getWin s w).parcel (fun y => { y with recBacklog := [] }) _ hmod
  split
  · exact h1
  next r hr =>
    split
    · have h2 := hend _ (hpcl (recOp r = 0x12) (getWin s w).parcel (fun y => { y with mark := {} }) _ h1)
      exact emptied_ite h2 ((ringed_finRec ..).emptied h2)
    · exact h1

section
variable {src : Src} {w : Nat} {v : W32} {s : State} (hsrc : srcOk s src = true) (hw : w < 64)
  (hf : filtered s src (winBlock w) true = false)
include hw hf

theorem regWrite_win {off : Nat} (h : off < 0x24) (ha : off % 4 = 0) :
    regWrite s src (regAddr (winBlock w) 0 off) v = writeWin (lockFor s (winBlock w) src) w off 0 v := by
  rw [regWrite_direct (by omega) ha (blkOf_winBlock hw) hf (hasReg_win h) (by omega) (by rw [guardedReg_win h]; nofun), if_pos (by omega)]
  rfl

omit hw hf in
theorem memory_writeWin {off : Nat} : SameMemory s (writeWin (lockFor s (winBlock w) src) w off 0 v) :=
  (memory_lockFor ..).trans (steady_writeWin ..).memory

include hsrc

theorem windowEnable_opens (hen : (getWin s w).en = false) (hv : v.getLsbD 31 = true) (hchk : sget false s.regs.chk (winBlock w) = false) :
    ∃ t, exec (.windowEnable src w 0 v) s = .next t ∧ SameMemory s t ∧ (getWin t w).en = true ∧
      (getWin t w).parcel = (v.extractLsb' 17 3).toNat ∧
      ((getPcl s (v.extractLsb' 17 3).toNat).port ≠ w / 16 → (getWin t w).binderr = true) ∧
      ∀ x, x ≠ w → getWin t x = getWin s x := by
  have hx : exec (.windowEnable src w 0 v) s = .next (writeWin (lockFor s (winBlock w) src) w 0 0 v) :=
    (if_pos ⟨hw, by decide, hen, hv⟩).trans ((regRow_done hsrc).trans (congrArg _ (regWrite_win hw hf (by decide) rfl)))
  have hopen : writeWin (lockFor s (winBlock w) src) w 0 0 v = openWin (modWin (lockFor s (winBlock w) src) w (Window.control v)) w := by
    have hen' : ¬(getWin (lockFor s (winBlock w) src) w).en = true := fun h => Bool.false_ne_true (hen.symm.trans h)
    exact (if_neg hen').trans (if_pos hv)
  have hr := ringed_openWin (s := modWin (lockFor s (winBlock w) src) w (Window.control v)) (w := w) hchk
  have hbad := bindErr_unbound (s := modWin (lockFor s (winBlock w) src) w (Window.control v)) (w := w)
  rw [getWin_modWin_same, (parcel_control _ v false).2] at hbad
  generalize bindErr (modWin (lockFor s (winBlock w) src) w (Window.control v)) w = bad at hr hbad
  rw [hopen] at hx
  refine ⟨_, hx, hopen ▸ memory_writeWin, ?_⟩
  have hown := hr.own
  rw [getWin_modWin_same, getWin_modWin_same] at hown
  refine ⟨?_, ?_, fun h => ?_, fun x hne => ?_⟩
  · rw [hown]
    exact en_opened ((getWin s w).control v) bad
  · rw [hown]
    exact (parcel_control (getWin s w) v bad).1
  · rw [hown]
    exact hbad h
  · rw [hr.others x hne, getWin_modWin, if_neg hne, getWin_modWin, if_neg hne]
    rfl

theorem windowDisable_closes (hen : (getWin s w).en = true) (hv : v.getLsbD 31 = false) :
    ∃ t, exec (.windowDisable src w 0 v) s = .next t ∧ SameMemory s t ∧ (getWin t w).en = false ∧ (getWin t w).buf = [] ∧
      (getWin t w).seg = none := by
  have hv' : v.getLsbD 31 ≠ true := fun h => Bool.false_ne_true (hv.symm.trans h)
  have hx : exec (.windowDisable src w 0 v) s = .next (writeWin (lockFor s (winBlock w) src) w 0 0 v) :=
    (if_pos ⟨hw, by decide, hen, hv⟩).trans ((regRow_done hsrc).trans (congrArg _ (regWrite_win hw hf (by decide) rfl)))
  have hclose (u : State) (h : (getWin u w).en = true) :
      writeWin u w 0 0 v = closeWin (if reaches 0 0x000F001F v then setWign u (winBlock w) else u) w false :=
    (if_pos h).trans (if_neg hv')
  refine ⟨_, hx, memory_writeWin, ?_⟩
  rw [hclose (lockFor s (winBlock w) src) hen]
  refine closeWin_clears ?_
  split
  · exact hen
  · exact hen

theorem crHeadWrite_takes (hback : (getWin s w).backlog = []) : ∃ t, exec (.crHeadWrite src w 0 v) s = .next t ∧ SameMemory s t ∧
    getWin t w = { getWin s w with crHead := v } := by
  have hx : exec (.crHeadWrite src w 0 v) s = .next (writeWin (lockFor s (winBlock w) src) w 0x1C 0 v) :=
    (if_pos ⟨hw, by decide⟩).trans ((regRow_done hsrc).trans (congrArg _ (regWrite_win hw hf (by decide) rfl)))
  refine ⟨_, hx, memory_writeWin, ?_⟩
  have hwin : getWin (modWin (lockFor s (winBlock w) src) w fun x => { x with crHead := aliasNew 0 x.crHead v }) w =
      { getWin s w with crHead := v } := getWin_modWin_same ..
  have hwrite : writeWin (lockFor s (winBlock w) src) w 0x1C 0 v =
      drainBacklog (modWin (lockFor s (winBlock w) src) w fun x => { x with crHead := aliasNew 0 x.crHead v }) w
        (getWin (modWin (lockFor s (winBlock w) src) w fun x => { x with crHead := aliasNew 0 x.crHead v }) w).backlog.length := rfl
  rw [hwrite, hwin, hback]
  exact hwin

end

/-! ### Captures, clears and checks (R376 to R380) -/

theorem guardedReg_common {k : Blk} {off : Nat} (h : 0xF00 ≤ off) (h4 : off ≠ 0xF04) (h10 : off ≠ 0xF10) : guardedReg k off = false := by
  have h0 : off ≠ 0 := by omega
  cases k <;> simp [guardedReg, h4, h10, h0]

theorem hasReg_common {k : Blk} {off : Nat} (h : 0xF00 ≤ off ∧ off < 0xF30 ∨ 0xF40 ≤ off ∧ off < 0xF48) : hasReg k off = true := by
  have h1 : ¬off < 0xC00 := by omega
  have h2 : ¬off < 0xE00 := by omega
  have h3 : 0xF00 ≤ off ∧ off < 0xF48 := by omega
  have h4 : ¬(0xF30 ≤ off ∧ off < 0xF40) := by omega
  unfold hasReg
  dsimp only
  rw [if_neg h1, if_neg h2, decide_eq_true h3.1, decide_eq_true h3.2]
  simp
  omega

/-- Of the registers that a capture writes, those of other counters, and every running counter of a block with none but its
own, are as they were. -/
theorem hold_captured {b i j : Nat} (k : Blk) (s : State) (h : j ≠ i) :
    sget 0 (captured b k i s).regs.hold (b * 64 + j) = sget 0 s.regs.hold (b * 64 + j) := by
  have hctr : (ctrVal s b k i).2.regs.hold = s.regs.hold := by
    unfold ctrVal
    split
    · rfl
    · split <;> rfl
  refine (sget_sset_ne _ _ _ (by omega)).trans ?_
  rw [hctr]

theorem ctrVal_captured {b i : Nat} {k : Blk} (hk : k.isCs = false) (s : State) (j : Nat) :
    (ctrVal (captured b k i s) b k j).1 = (ctrVal s b k j).1 := by
  cases k with
  | cs n => exact absurd (show true = false from hk) (by decide)
  | _ => rfl

theorem hold_captureCtrs_before {b j : Nat} (k : Blk) (n i : Nat) (s : State) (h : j < i) :
    sget 0 (captureCtrs b k n i s).regs.hold (b * 64 + j) = sget 0 s.regs.hold (b * 64 + j) := by
  induction n generalizing i s with
  | zero => rfl
  | succ n ih => rw [captureCtrs_succ, ih _ _ (by omega), hold_captured k s (by omega)]

theorem hold_captureCtrs {b j : Nat} {k : Blk} (hk : k.isCs = false) (n i : Nat) (s : State) (h : i ≤ j) (hn : j < i + n) :
    sget 0 (captureCtrs b k n i s).regs.hold (b * 64 + j) = (ctrVal s b k j).1 := by
  induction n generalizing i s with
  | zero => omega
  | succ n ih =>
    rw [captureCtrs_succ]
    by_cases hij : j = i
    · rw [hold_captureCtrs_before k n (i + 1) _ (by omega), hij]
      exact sget_sset_same ..
    · rw [ih (i + 1) _ (by omega) (by omega), ctrVal_captured hk]

theorem hold_observeCycles (s : State) (d : Nat) : (observeCycles s d).2.regs.hold = s.regs.hold := by
  unfold observeCycles
  split <;> rfl

theorem capture_holds {b : Nat} {k : Blk} (hk : k.isCs = false) (s : State) (v : W32) : sget 0 (capture s b k v).regs.snapId b = v ∧
    ∀ i, i < (blkCtrs k).length → sget 0 (capture s b k v).regs.hold (b * 64 + i) = (ctrVal s b k i).1 := by
  have hid : (capture s b k v).regs.snapId = sset 0 (observeCycles (captureCtrs b k (blkCtrs k).length 0 s) (blockDomain b)).2.regs.snapId b v := by
    cases k with
    | cs n => exact absurd (show true = false from hk) (by decide)
    | _ => rfl
  have hhold : (capture s b k v).regs.hold = (observeCycles (captureCtrs b k (blkCtrs k).length 0 s) (blockDomain b)).2.regs.hold := by
    cases k with
    | cs n => exact absurd (show true = false from hk) (by decide)
    | _ => rfl
  rw [hid, hhold, hold_observeCycles]
  exact ⟨sget_sset_same .., fun i hi => hold_captureCtrs hk _ 0 s (by omega) (by omega)⟩

theorem ctrs_clearCtrs (s : State) (b : Nat) (k : Blk) : (clearCtrs s b k).regs.ctrs = s.regs.ctrs.filter fun e => e.1 / 64 ≠ b := by
  unfold clearCtrs
  dsimp only
  split <;> rfl

theorem ctrs_cleared (s : State) (b : Nat) (k : Blk) (i : Nat) :
    sget 0 (clearCtrs s b k).regs.ctrs i = if i / 64 = b then 0 else sget 0 s.regs.ctrs i := by
  rw [ctrs_clearCtrs]
  refine (sget_filter 0 (fun n => decide (n / 64 ≠ b)) s.regs.ctrs i).trans ?_
  by_cases h : i / 64 = b
  · rw [if_pos h, if_neg (by simpa using h)]
  · rw [if_neg h, if_pos (by simpa using h)]

section
variable {src : Src} {b : Nat} {k : Blk} {v : W32} {s : State} (hsrc : srcOk s src = true) (hk : blkOf b = some k)
  (hf : filtered s src b true = false)
include hk hf

theorem regWrite_common {off : Nat} (h : 0xF00 ≤ off ∧ off < 0xF30 ∨ 0xF40 ≤ off ∧ off < 0xF48) (ha : off % 4 = 0) (hne : off ≠ 0xF0C)
    (hg : guardedReg k off = true → unlockedFor s b src = true) :
    regWrite s src (regAddr b 0 off) v = commonWrite (lockFor s b src) b k off 0 v := by
  rw [regWrite_direct (by omega) ha hk hf (hasReg_common h) hne hg, if_neg (by omega)]

include hsrc

theorem exec_commonRow {off : Nat} (h : 0xF00 ≤ off ∧ off < 0xF30 ∨ 0xF40 ≤ off ∧ off < 0xF48) (ha : off % 4 = 0) (hne : off ≠ 0xF0C)
    (hg : guardedReg k off = true → unlockedFor s b src = true) :
    commonRow src b off v s = .next (commonWrite (lockFor s b src) b k off 0 v) := by
  have hb : (blkOf b).isSome = true := by rw [hk]; rfl
  exact (if_pos hb).trans ((regRow_done hsrc).trans (congrArg _ (regWrite_common hk hf h ha hne hg)))

theorem snap_captures (hv : v ≠ 0) (hv31 : v.getLsbD 31 = false) (hrun : blkRuns s b k = true) (hcs : k.isCs = false) :
    ∃ t, exec (.snap src b v) s = .next t ∧ SameMemory s t ∧ sget 0 t.regs.snapId b = v ∧
      ∀ i, i < (blkCtrs k).length → sget 0 t.regs.hold (b * 64 + i) = (ctrVal s b k i).1 := by
  have hx : exec (.snap src b v) s = .next (commonWrite (lockFor s b src) b k 0xF18 0 v) :=
    exec_commonRow hsrc hk hf (by omega) rfl (by decide) (by rw [guardedReg_common (by omega) (by omega) (by omega)]; nofun)
  have hcap : commonWrite (lockFor s b src) b k 0xF18 0 v = capture (lockFor s b src) b k v := if_pos ⟨rfl, hv, hv31, hrun⟩
  obtain ⟨hid, hhold⟩ := capture_holds hcs (lockFor s b src) v (b := b)
  have hctr (i : Nat) : (ctrVal (lockFor s b src) b k i).1 = (ctrVal s b k i).1 := by
    cases k with
    | cs n => exact absurd (show true = false from hcs) (by decide)
    | _ => rfl
  rw [hcap] at hx
  exact ⟨_, hx, (memory_lockFor ..).trans (steady_capture ..).memory, hid, fun i hi => (hhold i hi).trans (hctr i)⟩

theorem cclr_clears (hv : v.getLsbD 1 = true) (hl : unlockedFor s b src = true) :
    ∃ t, exec (.cclr src b v) s = .next t ∧ SameMemory s t ∧ (∀ i, i < 64 → sget 0 t.regs.ctrs (b * 64 + i) = 0) ∧
      ∀ i, i / 64 ≠ b → sget 0 t.regs.ctrs i = sget 0 s.regs.ctrs i := by
  have hx : exec (.cclr src b v) s = .next (commonWrite (lockFor s b src) b k 0xF04 0 v) :=
    (if_pos hv).trans (exec_commonRow hsrc hk hf (by omega) rfl (by decide) fun _ => hl)
  have hm : SameMemory s (commonWrite (lockFor s b src) b k 0xF04 0 v) :=
    (memory_lockFor ..).trans (steady_commonWrite ..).memory
  have hclr : commonWrite (lockFor s b src) b k 0xF04 0 v = clearCtrs { lockFor s b src with regs := { (lockFor s b src).regs with
      chk := sset false s.regs.chk b (v.getLsbD 0) } } b k := if_pos ⟨rfl, hv⟩
  refine ⟨_, hx, hm, ?_⟩
  rw [hclr]
  refine ⟨fun i hi => ?_, fun i hi => ?_⟩
  · rw [ctrs_cleared, if_pos (by omega)]
  · rw [ctrs_cleared, if_neg hi]
    rfl

theorem scancel_leaves (hv : v.getLsbD 9 = true) : ∃ t, exec (.scancel src b v) s = .next t ∧ t = { s with regs := t.regs } ∧
    t.regs.ctrs = s.regs.ctrs ∧ unlockedFor t b src = false := by
  have hx : exec (.scancel src b v) s = .next (commonWrite (lockFor s b src) b k 0xF44 0 v) :=
    (if_pos hv).trans (exec_commonRow hsrc hk hf (by omega) rfl (by decide)
      (by rw [guardedReg_common (by omega) (by omega) (by omega)]; nofun))
  exact ⟨_, hx, rfl, rfl, unlockedFor_lockFor ..⟩

end

theorem configCheck_passes {s : State} {b : Nat} {k : Blk} (hk : blkOf b = some k) (hrun : domainRuns s (blockDomain b) = true)
    (hcrc : cfgCrc s k = sget 0 s.regs.cfgref b) : exec (.configCheck b) s = .next s := by
  have hcheck : runCheck s b k = s := by
    unfold runCheck
    split
    next w =>
      have hc : ¬(sget false s.regs.chk b && (getWin s w).en && cfgCrc s (.win w) ≠ sget 0 s.regs.cfgref b) = true := by simp [hcrc]
      exact if_neg hc
    · rfl
  have hx : exec (.configCheck b) s = if domainRuns s (blockDomain b) then done (runCheck s b k) else cannot s := by
    show execConfigCheck b s = _
    unfold execConfigCheck
    rw [hk]
  rw [hx, if_pos hrun, hcheck]
  rfl

/-! ### Counters read (R379) -/

theorem latchOf_append (l : List Latch) (src : Src) (b i : Nat) (h : W32) (s : State)
    (hl : s.regs.latches = (l.filter fun x => !(x.src = src && x.block = b)) ++ [{ src := src, block := b, ctr := i, high := h }]) :
    latchOf s src b i = some h := by
  have hnone : (l.filter fun x => !(x.src = src && x.block = b)).find? (fun x => x.src = src && x.block = b && x.ctr = i) = none := by
    refine List.find?_eq_none.2 fun x hx => ?_
    have hx' := (List.mem_filter.1 hx).2
    simp only [Bool.not_eq_true'] at hx'
    rw [hx']
    exact Bool.false_ne_true
  unfold latchOf
  rw [hl, List.find?_append, hnone]
  simp

theorem counterLowRead_latches {src : Src} {addr i : Nat} {k : Blk} {s : State} (hsrc : srcOk s src = true) (hlt : addr < 33554432)
    (ha : addr % 8 = 0) (hk : blkOf (addr / 0x4000) = some k) (hc : ctrAt k (addr % 0x1000) = some (i, false))
    (hph : isPhCat k i = false) (hf : filtered s src (addr / 0x4000) false = false) :
    ∃ t, exec (.counterLowRead src addr) s = .next t ∧ SameMemory s t ∧
      t.outbox = s.outbox ++ [.regRead src ((ctrVal s (addr / 0x4000) k i).1.extractLsb' 0 32)] ∧
      latchOf t src (addr / 0x4000) i = some ((ctrVal s (addr / 0x4000) k i).1.extractLsb' 32 32) := by
  have hstate : (ctrVal s (addr / 0x4000) k i).2 = s := by
    unfold ctrVal
    split
    · rfl
    · rw [hph]
      rfl
  have hread : regRead s src addr = ctrRead s src (addr / 0x4000) k i false := by
    have h4 : ¬addr % 4 ≠ 0 := by omega
    have hvis : ¬filtered s src (addr / 0x4000) false = true := by rw [hf]; decide
    refine ((if_neg h4).trans (if_neg hvis)).trans ?_
    rw [hk]
    show (match ctrAt k (addr % 0x1000) with | some (i, hi) => _ | none => _) = _
    rw [hc]
  have hx : exec (.counterLowRead src addr) s = .next (send (regRead s src addr).2 (.regRead src (regRead s src addr).1)) := by
    show execCounterLowRead src addr s = _
    unfold execCounterLowRead
    rw [hk]
    dsimp only
    rw [hc, hsrc, decide_eq_false (by omega)]
    rfl
  rw [hread] at hx
  have hsites : (ctrVal s (addr / 0x4000) k i).2.sites = s.sites := by rw [hstate]
  have hmem : (ctrVal s (addr / 0x4000) k i).2.far.mem = s.far.mem := by rw [hstate]
  have hout : (ctrVal s (addr / 0x4000) k i).2.outbox = s.outbox := by rw [hstate]
  refine ⟨_, hx, sameMemory_of hsites hmem, ?_, ?_⟩
  · exact congrArg (· ++ [OutMsg.regRead src ((ctrVal s (addr / 0x4000) k i).1.extractLsb' 0 32)]) hout
  · exact latchOf_append (ctrVal s (addr / 0x4000) k i).2.regs.latches src _ i _ _ rfl

/-! ### Cadastre and Groundskeeper blocks (R385, R386) -/

theorem cadLatch_append (s : State) (src : Src) (die : Nat) (l : List (Src × Nat × W32 × W64)) (e : W32 × W64)
    (h : s.regs.cadSel = (l.filter fun x => !(x.1 = src && x.2.1 = die)) ++ [(src, die, e)]) : cadLatch s src die = e := by
  have hnone : (l.filter fun x => !(x.1 = src && x.2.1 = die)).find? (fun x => x.1 = src && x.2.1 = die) = none := by
    refine List.find?_eq_none.2 fun x hx => ?_
    have hx' := (List.mem_filter.1 hx).2
    simp only [Bool.not_eq_true'] at hx'
    rw [hx']
    exact Bool.false_ne_true
  have hfind : s.regs.cadSel.find? (fun x => x.1 = src && x.2.1 = die) = some (src, die, e) := by
    rw [h, List.find?_append, hnone]
    simp
  unfold cadLatch
  rw [hfind]

theorem maskNew_zero {mask old v : W32} (h : old &&& ~~~mask = 0) : maskNew 0 mask old v = v &&& mask := by
  unfold maskNew
  rw [h]
  exact BitVec.zero_or

section
variable {src : Src} {die : Nat} {v : W32} {s : State} (hsrc : srcOk s src = true) (hd : die < 2)
include hsrc hd

theorem cadSel_latches (hf : filtered s src (cadBlock die) true = false) (hsel : (cadLatch s src die).1 &&& ~~~0x3FFFF = 0) :
    ∃ t, exec (.cadSel src die v) s = .next t ∧ t = { s with regs := t.regs } ∧ (cadLatch t src die).1 = v &&& 0x3FFFF ∧
      (cadLatch t src die).2 = if (v &&& 0x3FFFF).toNat / 92160 = die then entWord s (v &&& 0x3FFFF).toNat else 0 := by
  have hk : blkOf (cadBlock die) = some (.cad die) := by interval_cases die <;> rfl
  have hx : exec (.cadSel src die v) s = .next (writeCadSel (lockFor s (cadBlock die) src) src die 0 v) :=
    (if_pos hd).trans ((regRow_done hsrc).trans (congrArg _
      ((regWrite_direct (by decide) rfl hk hf rfl (by decide) (by nofun)).trans (if_pos (by decide)))))
  have hsel' : maskNew 0 0x3FFFF (cadLatch s src die).1 v = v &&& 0x3FFFF := maskNew_zero hsel
  have hl : cadLatch (writeCadSel (lockFor s (cadBlock die) src) src die 0 v) src die =
      (maskNew 0 0x3FFFF (cadLatch s src die).1 v, if (maskNew 0 0x3FFFF (cadLatch s src die).1 v).toNat / 92160 = die then
        entWord s (maskNew 0 0x3FFFF (cadLatch s src die).1 v).toNat else 0) := cadLatch_append _ _ _ s.regs.cadSel _ rfl
  rw [hsel'] at hl
  exact ⟨_, hx, rfl, by rw [hl], by rw [hl]⟩

theorem groundskeeperEnable_sets (hf : filtered s src (gkBlock die) true = false) (hl : unlockedFor s (gkBlock die) src = true) :
    ∃ t, exec (.groundskeeperEnable src die 0 v) s = .next t ∧ t = { s with regs := t.regs } ∧
      sget false t.regs.gkOff die = !v.getLsbD 0 := by
  have hk : blkOf (gkBlock die) = some (.gk die) := by interval_cases die <;> rfl
  have hx : exec (.groundskeeperEnable src die 0 v) s = .next (writeGkCtl (lockFor s (gkBlock die) src) die 0 v) :=
    (if_pos ⟨hd, by decide⟩).trans ((regRow_done hsrc).trans (congrArg _
      ((regWrite_direct (by decide) rfl hk hf rfl (by decide) (fun _ => hl)).trans (if_pos (by decide)))))
  exact ⟨_, hx, rfl, sget_sset_same ..⟩

end

/-- Settles O50. -/
theorem registerRowsDo : Obligations.RegisterRowsDo := by
  refine ⟨fun src w v s hsrc hw hf => ⟨?_, ?_, ?_⟩, fun src b k v s hsrc hk hf => ⟨?_, ?_, ?_, ?_⟩, ?_,
    fun src die v s hsrc hd => ⟨cadSel_latches hsrc hd, groundskeeperEnable_sets hsrc hd⟩⟩
  · exact windowEnable_opens hsrc hw hf
  · exact windowDisable_closes hsrc hw hf
  · exact crHeadWrite_takes hsrc hw hf
  · exact snap_captures hsrc hk hf
  · exact cclr_clears hsrc hk hf
  · exact scancel_leaves hsrc hk hf
  · exact configCheck_passes hk
  · intro src addr i k s hsrc hlt ha hk hc hph hf
    exact counterLowRead_latches hsrc hlt ha hk hc hph hf

end Sys2Proof.Machine
end

section
/-!
PROOFS. Requests of the dictionary and their ACKs, NOTIFY, what expires, and the management segment (R346, R348 to R355,
R359, R360).
-/

namespace Sys2Proof.Machine

/-! ### Messages (R349) -/

theorem field_skip {l m : List Byte} {i n : Nat} (h : l.length ≤ i) : field (l ++ m) i n = field m (i - l.length) n := by
  unfold field
  rw [List.drop_append, List.drop_eq_nil_of_le h, List.nil_append]

theorem field_leBytes (n v : Nat) (m : List Byte) : field (leBytes n v ++ m) 0 n = v % 256 ^ n := by
  have htake : (leBytes n v ++ m).take n = leBytes n v := List.take_left' (leBytes_length n v)
  unfold field
  rw [List.drop_zero, htake, leNat_of_leBytes]

theorem field_lt (l : List Byte) (i n : Nat) : field l i n < 256 ^ n := by
  unfold field
  calc leNat ((l.drop i).take n) < 2 ^ (8 * ((l.drop i).take n).length) := leNat_lt _
    _ ≤ 2 ^ (8 * n) := Nat.pow_le_pow_right (by decide) (by rw [List.length_take]; omega)
    _ = 256 ^ n := pow_mul 2 8 n

/-- What a message says in its TYPE, TXID, INDEX and OFFSET. -/
theorem field_cixaMsg (type txid idx sub flags off status : Nat) (data : List Byte) :
    field (cixaMsg type txid idx sub flags off status data) 1 1 = type % 256 ∧
    field (cixaMsg type txid idx sub flags off status data) 2 2 = txid % 256 ^ 2 ∧
    field (cixaMsg type txid idx sub flags off status data) 4 2 = idx % 256 ^ 2 ∧
    field (cixaMsg type txid idx sub flags off status data) 8 4 = off % 256 ^ 4 := by
  have h : cixaMsg type txid idx sub flags off status data = [1, BitVec.ofNat 8 type] ++ (leBytes 2 txid ++ (leBytes 2 idx ++
      ([BitVec.ofNat 8 sub, BitVec.ofNat 8 flags] ++ (leBytes 4 off ++ (leBytes 2 data.length ++ ([BitVec.ofNat 8 status, 0] ++ data)))))) := by
    simp only [cixaMsg, List.append_assoc]
  rw [h]
  refine ⟨?_, ?_, ?_, ?_⟩
  · rw [field_append (by simp)]
    simp [field, leNat]
  · rw [field_skip (by simp)]
    exact field_leBytes ..
  · rw [field_skip (by simp), field_skip (by simp [leBytes_length]), leBytes_length]
    exact field_leBytes ..
  · rw [field_skip (by simp), field_skip (by simp [leBytes_length]), leBytes_length,
      field_skip (by simp [leBytes_length]), leBytes_length, field_skip (by simp)]
    exact field_leBytes ..

theorem field_ack (a : Reply) (m : List Byte) : field (a.ack m) 1 1 = 6 ∧ field (a.ack m) 2 2 = mTxid m ∧
    field (a.ack m) 4 2 = mIdx m ∧ field (a.ack m) 8 4 = mOff m := by
  obtain ⟨ht, hx, hi, ho⟩ := field_cixaMsg 6 (mTxid m) (mIdx m) (mSub m) a.flags (mOff m) a.status a.data
  exact ⟨ht, hx.trans (Nat.mod_eq_of_lt (field_lt ..)), hi.trans (Nat.mod_eq_of_lt (field_lt ..)), ho.trans (Nat.mod_eq_of_lt (field_lt ..))⟩

/-! ### Requests of the management segment (R350, R351) -/

/-- The row of each TYPE of request does one and the same. -/
def RequestRow (src : Nat) (m : List Byte) (s t : State) : Prop :=
  (mType m = 1 → exec (.cixaRead (.mgmt src) m) s = .next t) ∧ (mType m = 2 → exec (.cixaWrite (.mgmt src) m) s = .next t) ∧
    (mType m = 3 → exec (.cixaReadSeg (.mgmt src) m) s = .next t) ∧ (mType m = 4 → exec (.cixaWriteSeg (.mgmt src) m) s = .next t)

section
variable {src : Nat} {m : List Byte} {s : State} (hl : s.pwr.lodgeUp = true) (hmin : 16 ≤ m.length) (hmax : m.length ≤ 1040)
include hl hmin hmax

theorem cixaRow_open (type : Nat) (h : mType m = type) :
    (!s.pwr.lodgeUp || mType m ≠ type || decide (m.length < 16) || decide (1040 < m.length)) = false := by
  rw [hl, decide_eq_false (by omega : ¬m.length < 16), decide_eq_false (by omega : ¬1040 < m.length)]
  simp [h]

omit hl hmin hmax in
theorem requestRow_of {t : State} (h : ∀ type, mType m = type → cixaRow type (.mgmt src) m s = .next t) : RequestRow src m s t :=
  ⟨h 1, h 2, h 3, h 4⟩

theorem requestRow_served (hq : s.dict.queue = []) : RequestRow src m s (serveMgmt (countCixa s 0) (.mgmt src) m) := by
  refine requestRow_of fun type h => ?_
  unfold cixaRow
  rw [cixaRow_open hl hmin hmax type h, hq]
  rfl

theorem requestRow_queued {e : Requester × List Byte} {q : List (Requester × List Byte)} (hq : s.dict.queue = e :: q)
    (hne : ¬(e.1 = .mgmt src ∧ e.2 = m)) : RequestRow src m s (enqueue s (.mgmt src) m) := by
  refine requestRow_of fun type h => ?_
  unfold cixaRow
  rw [cixaRow_open hl hmin hmax type h, hq]
  exact if_neg hne

end

theorem serveMgmt_kept {s : State} {src : Requester} {m : List Byte} {x : KeptAck}
    (h : s.dict.kept.find? (fun x => x.src = src && x.txid = mTxid m) = some x) :
    serveMgmt s src m = send (countCixa s 1) (.cixa src (patch x.ack 7 [x.ack.getD 7 0 ||| 8])) := by
  unfold serveMgmt
  rw [h]

/-- The request is executed, its ACK sent and kept. -/
def answerTo (s : State) (src : Requester) (m : List Byte) : State :=
  let a := execMsg s src m
  let k := a.ack m
  send (modDict a.state fun d => { d with kept := keepAck d.kept { src := src, txid := mTxid m, ack := k } }) (.cixa src k)

theorem serveMgmt_executes {s : State} {src : Requester} {m : List Byte}
    (h : s.dict.kept.find? (fun x => x.src = src && x.txid = mTxid m) = none) : serveMgmt s src m = answerTo s src m := by
  unfold serveMgmt
  rw [h]
  rfl

theorem mem_keepAck (l : List KeptAck) (x : KeptAck) : x ∈ keepAck l x := List.mem_append_right _ (List.mem_singleton_self x)

theorem answerTo_keeps (s : State) (src : Requester) (m : List Byte) :
    { src := src, txid := mTxid m, ack := (execMsg s src m).ack m } ∈ (answerTo s src m).dict.kept ∧
    (answerTo s src m).outbox = (execMsg s src m).state.outbox ++ [.cixa src ((execMsg s src m).ack m)] ∧
    ∀ a, a = execMsg s src m → answerTo s src m =
      { a.state with outbox := (answerTo s src m).outbox, dict := { a.state.dict with kept := (answerTo s src m).dict.kept } } := by
  unfold answerTo
  generalize execMsg s src m = a
  refine ⟨mem_keepAck .., rfl, fun b hb => ?_⟩
  rw [hb]
  rfl

section
variable {s : State} {src : Requester} {m : List Byte} (hin : (s.dict.queue.any fun e => e.1 = src && mTxid e.2 = mTxid m) = false)
include hin

theorem enqueue_joins (h : s.dict.queue.length < 32) :
    enqueue s src m = modDict (countCixa s 0) fun d => { d with queue := d.queue ++ [(src, m)] } := by
  have h1 : ¬((countCixa s 0).dict.queue.any fun e => e.1 = src && mTxid e.2 = mTxid m) = true := fun h => Bool.false_ne_true (hin.symm.trans h)
  have h2 : ¬32 ≤ (countCixa s 0).dict.queue.length := not_le.2 h
  exact (if_neg h1).trans (if_neg h2)

theorem enqueue_discards (h : 32 ≤ s.dict.queue.length) : enqueue s src m = countCixa (countCixa s 0) 2 := by
  have h1 : ¬((countCixa s 0).dict.queue.any fun e => e.1 = src && mTxid e.2 = mTxid m) = true := fun h => Bool.false_ne_true (hin.symm.trans h)
  exact (if_neg h1).trans (if_pos h)

theorem queueFullDiscard_discards (hl : s.pwr.lodgeUp = true) (hmin : 16 ≤ m.length) (hmax : m.length ≤ 1040) (h : 32 ≤ s.dict.queue.length)
    (h1 : 1 ≤ mType m) (h4 : mType m ≤ 4) : exec (.queueFullDiscard src m) s = .next (countCixa (countCixa s 0) 2) := by
  refine if_pos ?_
  rw [hl, hin, decide_eq_true h, decide_eq_true hmin, decide_eq_true hmax, decide_eq_true h1, decide_eq_true h4]
  rfl

end

theorem countCixa_eq (s : State) (i : Nat) : ∃ l, countCixa s i = { s with dict := { s.dict with stats := l } } := ⟨_, rfl⟩

theorem stats_countCixa (s : State) (i j : Nat) :
    sget 0 (countCixa s i).dict.stats j = if j = i then sget 0 s.dict.stats i + 1 else sget 0 s.dict.stats j :=
  sget_smod 0 s.dict.stats i j (· + 1)

/-! ### The host window (R359, R360) -/

theorem memory_modPort (s : State) (k : Nat) (f : Port → Port) : SameMemory s (modPort s k f) := sameMemory_of rfl rfl

theorem getPort_modPort_same (s : State) (k : Nat) (f : Port → Port) : getPort (modPort s k f) k = f (getPort s k) :=
  (getPort_modPort ..).trans (if_pos rfl)

theorem hwIrq_sends (s : State) (k : Nat) : hwIrq s k = { s with outbox := s.outbox ++
    (if (getPort s k).hwCtl.getLsbD 5 then [.msix k ((getPort s k).hwCtl.toNat % 32)] else []) } := by
  unfold hwIrq
  dsimp only
  split
  · rfl
  · rw [List.append_nil]

/-- The port has copied the host's request. -/
def Port.going (req : List Byte) (stat v : W32) (x : Port) : Port := { hwPut x req stat v with hwBusy := true, hwAck := none }

/-- The request is in the Lodge's queue. -/
def Dict.join (src : Requester) (m : List Byte) (d : Dict) : Dict := { d with queue := d.queue ++ [(src, m)] }

theorem execHwGo_enters {k : Nat} {s : State} (req : List Byte) (stat : W32) {v : W32} (hsrc : srcOk s (.host k) = true)
    (hbusy : (getPort s k).hwBusy = false) (hv : v.getLsbD 31 = true) (hq : s.dict.queue.length < 32) :
    ∀ u, u = countCixa (modPort (modPort s k fun x => hwPut x req stat v) k fun x => { x with hwBusy := true, hwAck := none }) 0 →
    exec (.hwGo k req stat v) s = if mType (hwMsg (getPort u k).hwReq) = 0 ∨ 4 < mType (hwMsg (getPort u k).hwReq) then .next u
      else .next (modDict u (Dict.join (.hostWin k) (hwMsg (getPort u k).hwReq))) := by
  intro u hu
  have h1 : ¬(!srcOk s (.host k)) = true := by rw [hsrc]; decide
  have h2 : ¬((getPort s k).hwBusy || !v.getLsbD 31) = true := by rw [hbusy, hv]; decide
  have h3 : ¬32 ≤ u.dict.queue.length := by rw [hu]; exact not_le.2 hq
  subst hu
  exact ((if_neg h1).trans (if_neg h2)).trans (if_neg h3)

theorem hwGo_enters {k : Nat} {s : State} (req : List Byte) (stat : W32) {v : W32} (hsrc : srcOk s (.host k) = true)
    (hbusy : (getPort s k).hwBusy = false) (hv : v.getLsbD 31 = true) (hq : s.dict.queue.length < 32) :
    ∃ t, exec (.hwGo k req stat v) s = .next t ∧ SameMemory s t ∧ (getPort t k).hwBusy = true ∧ (getPort t k).hwReq = fit 1040 req ∧
      t.dict.queue = if 1 ≤ mType (hwMsg (fit 1040 req)) ∧ mType (hwMsg (fit 1040 req)) ≤ 4 then
        s.dict.queue ++ [(.hostWin k, hwMsg (fit 1040 req))] else s.dict.queue := by
  have hx := execHwGo_enters req stat hsrc hbusy hv hq _ rfl
  have hreq : (hwPut (getPort s k) req stat v).hwReq = fit 1040 req := by
    unfold hwPut
    rw [hbusy]
    rfl
  have hport : getPort (countCixa (modPort (modPort s k fun x => hwPut x req stat v) k fun x => { x with hwBusy := true, hwAck := none }) 0) k =
      Port.going req stat v (getPort s k) := by
    show getPort (modPort (modPort s k fun x => hwPut x req stat v) k _) k = _
    rw [getPort_modPort_same, getPort_modPort_same]
    rfl
  have hmem : SameMemory s (countCixa (modPort (modPort s k fun x => hwPut x req stat v) k fun x => { x with hwBusy := true, hwAck := none }) 0) :=
    sameMemory_of rfl rfl
  have hqueue : (countCixa (modPort (modPort s k fun x => hwPut x req stat v) k fun x => { x with hwBusy := true, hwAck := none }) 0).dict.queue =
      s.dict.queue := rfl
  revert hx hport hmem hqueue
  generalize countCixa _ 0 = u
  intro hx hport hmem hqueue
  have hreq' : (getPort u k).hwReq = fit 1040 req := by rw [hport]; exact hreq
  have hb : (getPort u k).hwBusy = true := by rw [hport]; rfl
  rw [hreq'] at hx
  by_cases ht : mType (hwMsg (fit 1040 req)) = 0 ∨ 4 < mType (hwMsg (fit 1040 req))
  · rw [if_pos ht] at hx
    rw [if_neg (by omega)]
    exact ⟨u, hx, hmem, hb, hreq', hqueue⟩
  · rw [if_neg ht] at hx
    rw [if_pos (by omega), ← hqueue]
    exact ⟨_, hx, hmem.trans (sameMemory_of rfl rfl), hb, hreq', rfl⟩

/-- The request has run out of its time. -/
def Port.timedOut (late : Nat) (x : Port) : Port := { x with hwTimeout := true, hwBusy := false, hwStale := late }

/-- The ACK is in HW_RSP. -/
def Port.responded (a : List Byte) (x : Port) : Port := { x with hwRsp := fit 1040 a, hwAck := none, hwBusy := false, hwDone := true }

theorem hostWindowTimeout_ends {k : Nat} {s : State} (hbusy : (getPort s k).hwBusy = true) (hack : (getPort s k).hwAck = none) :
    ∃ t, exec (.hostWindowTimeout k) s = .next t ∧ SameMemory s t ∧ (getPort t k).hwTimeout = true ∧ (getPort t k).hwBusy = false := by
  have hc : ¬(!(getPort s k).hwBusy || (getPort s k).hwAck.isSome) = true := by rw [hbusy, hack]; decide
  have hx : exec (.hostWindowTimeout k) s =
      .next (hwIrq (modPort s k (Port.timedOut (s.dict.queue.countP fun e => e.1 = .hostWin k))) k) := if_neg hc
  have hport := getPort_modPort_same s k (Port.timedOut (s.dict.queue.countP fun e => e.1 = .hostWin k))
  rw [hwIrq_sends] at hx
  exact ⟨_, hx, sameMemory_of rfl rfl, congrArg Port.hwTimeout hport, congrArg Port.hwBusy hport⟩

theorem hostWindowResponse_arrives {k : Nat} {s : State} {a : List Byte} (hack : (getPort s k).hwAck = some a) :
    ∃ t, exec (.hostWindowResponse k) s = .next t ∧ SameMemory s t ∧ (getPort t k).hwRsp = fit 1040 a ∧
      (getPort t k).hwBusy = false ∧ (getPort t k).hwDone = true ∧
      t.outbox = s.outbox ++ (if (getPort s k).hwCtl.getLsbD 5 then [.msix k ((getPort s k).hwCtl.toNat % 32)] else []) := by
  have hport := getPort_modPort_same s k (Port.responded a)
  have hx : exec (.hostWindowResponse k) s = .next (hwIrq (modPort s k (Port.responded a)) k) := by
    show execHostWindowResponse k s = _
    unfold execHostWindowResponse
    rw [hack]
    rfl
  rw [hwIrq_sends] at hx
  exact ⟨_, hx, sameMemory_of rfl rfl, congrArg Port.hwRsp hport, congrArg Port.hwBusy hport, congrArg Port.hwDone hport,
    by rw [hport]; rfl⟩

/-- Settles O51. -/
theorem requestsAreAnswered : Obligations.RequestsAreAnswered := by
  refine ⟨fun src m s hl hmin hmax => ⟨fun hq x hx => ?_, fun hq hx => ?_, fun e q hq hne hin => ⟨fun h => ?_, fun h h1 h4 => ?_⟩⟩,
    fun k req stat v s hsrc hbusy hv hq => hwGo_enters req stat hsrc hbusy hv hq, fun k s hb ha => hostWindowTimeout_ends hb ha,
    fun k s a ha => hostWindowResponse_arrives ha⟩
  · have hrow := requestRow_served (src := src) hl hmin hmax hq
    rw [serveMgmt_kept (s := countCixa s 0) hx] at hrow
    unfold RequestRow at hrow
    obtain ⟨l, hl⟩ := countCixa_eq s 0
    obtain ⟨k, hk⟩ := countCixa_eq (countCixa s 0) 1
    rw [hk, hl] at hrow
    exact ⟨_, hrow, sameMemory_of rfl rfl, rfl, rfl⟩
  · have hrow := requestRow_served (src := src) hl hmin hmax hq
    rw [serveMgmt_executes (s := countCixa s 0) hx] at hrow
    unfold RequestRow at hrow
    obtain ⟨hkept, hout, hstate⟩ := answerTo_keeps (countCixa s 0) (.mgmt src) m
    obtain ⟨h1, h2, h4, h8⟩ := field_ack (execMsg (countCixa s 0) (.mgmt src) m) m
    exact ⟨_, hrow, hout, h1, h2, h4, h8, hkept, hstate _ rfl⟩
  · have hrow := requestRow_queued (src := src) hl hmin hmax hq hne
    rw [enqueue_joins hin h] at hrow
    unfold RequestRow at hrow
    exact ⟨_, hrow, rfl, rfl⟩
  · have hrow := requestRow_queued (src := src) hl hmin hmax hq hne
    rw [enqueue_discards hin h] at hrow
    unfold RequestRow at hrow
    refine ⟨_, hrow, queueFullDiscard_discards hin hl hmin hmax h h1 h4, rfl, ?_⟩
    rw [stats_countCixa, if_pos rfl, stats_countCixa, if_neg (by decide)]

/-! ### NOTIFY (R355) -/

/-- The oldest event is reported. -/
def notified (s : State) (e : Event) (b : List Byte) (q : List (Event × List Byte)) : State :=
  let m := cixaMsg 5 s.dict.nextTxid (eventObj e).1 (eventObj e).2 0 0 0 b
  { s with outbox := s.outbox ++ [.notify (notifyDest s) m],
           dict := { s.dict with events := q, notices := s.dict.notices ++ [{ txid := s.dict.nextTxid, msg := m, resends := 0 }],
                                 nextTxid := (s.dict.nextTxid + 1) % 65536 } }

theorem cixaNotify_reports {e : Event} {b : List Byte} {q : List (Event × List Byte)} {s : State} (he : s.dict.events = (e, b) :: q)
    (hl : s.pwr.lodgeUp = true) (hn : s.dict.notices.length < 16) : exec (.cixaNotify e) s = .next (notified s e b q) := by
  have h16 : ¬16 ≤ (modDict s fun d => { d with events := q }).dict.notices.length := not_le.2 hn
  have hc : ¬(decide (e ≠ e) || !s.pwr.lodgeUp) = true := by rw [hl]; simp
  show execCixaNotify e s = _
  unfold execCixaNotify
  rw [he]
  exact (if_neg hc).trans (if_neg h16)

section
variable {txid : Nat} {s : State}

theorem notifyResend_resends {x : Notice} (hx : s.dict.notices.find? (fun x => x.txid = txid) = some x) (hl : s.pwr.lodgeUp = true)
    (hr : x.resends < 3) : ∃ t, exec (.notifyResend txid) s = .next t ∧ t.outbox = s.outbox ++ [.notify (notifyDest s) x.msg] ∧
      { x with resends := x.resends + 1 } ∈ t.dict.notices := by
  have hlodge : ¬(!s.pwr.lodgeUp) = true := by rw [hl]; decide
  have hstep : exec (.notifyResend txid) s = .next (send (modDict s fun d => { d with notices := d.notices.map fun y =>
      if y.txid = txid then { y with resends := y.resends + 1 } else y }) (.notify (notifyDest s) x.msg)) := by
    show execNotifyResend txid s = _
    unfold execNotifyResend
    rw [hx]
    exact (if_neg hlodge).trans (if_neg (not_le.2 hr))
  have hid : x.txid = txid := by simpa using List.find?_some hx
  refine ⟨_, hstep, rfl, List.mem_map.2 ⟨x, List.mem_of_find?_eq_some hx, ?_⟩⟩
  rw [if_pos hid]

theorem notifyResend_gives_up {x : Notice} (hx : s.dict.notices.find? (fun x => x.txid = txid) = some x) (hl : s.pwr.lodgeUp = true)
    (hr : 3 ≤ x.resends) : ∃ t, exec (.notifyResend txid) s = .next t ∧ t.outbox = s.outbox ∧ (∀ y ∈ t.dict.notices, y.txid ≠ txid) ∧
      sget 0 t.dict.stats 3 = sget 0 s.dict.stats 3 + 1 := by
  have hlodge : ¬(!s.pwr.lodgeUp) = true := by rw [hl]; decide
  have hstep : exec (.notifyResend txid) s =
      .next (countCixa (modDict s fun d => { d with notices := d.notices.filter fun y => y.txid ≠ txid }) 3) := by
    show execNotifyResend txid s = _
    unfold execNotifyResend
    rw [hx]
    exact (if_neg hlodge).trans (if_pos hr)
  refine ⟨_, hstep, rfl, fun y hy => of_decide_eq_true (List.mem_filter.1 hy).2, ?_⟩
  rw [stats_countCixa, if_pos rfl]
  rfl

theorem cixaAck_ends (hl : s.pwr.lodgeUp = true) (a : Nat) {m : List Byte} (ht : mType m = 6) (hv : field m 0 1 = 1)
    (hlen : 16 ≤ m.length) (hid : mTxid m = txid) : ∃ t, exec (.cixaAck (.mgmt a) m) s = .next t ∧
      (∀ y ∈ t.dict.notices, y.txid ≠ txid) ∧ t = { s with dict := { s.dict with notices := t.dict.notices } } := by
  have hc : ¬(!s.pwr.lodgeUp || !true || decide (mType m ≠ 6) || decide (field m 0 1 ≠ 1) || decide (m.length < 16)) = true := by
    rw [hl, ht, hv, decide_eq_false (by omega : ¬m.length < 16)]
    decide
  refine ⟨_, if_neg hc, fun y hy => ?_, rfl⟩
  rw [← hid]
  exact of_decide_eq_true (List.mem_filter.1 hy).2

end

/-- Settles O52. -/
theorem notifiesAndExpiries : Obligations.NotifiesAndExpiries := by
  refine ⟨fun e b q s he hl hn => ⟨_, cixaNotify_reports he hl hn, rfl, rfl, rfl, rfl⟩, fun txid x s hx hl => ⟨notifyResend_resends hx hl,
    notifyResend_gives_up hx hl, fun a m ht hv hlen hid => cixaAck_ends hl a ht hv hlen hid⟩, fun src txid idx sub s => ⟨?_, ?_, ?_⟩,
    fun lost src data s hl => ⟨fun hp => ⟨_, if_pos ?_, rfl⟩, if_pos hl⟩⟩
  · refine ⟨_, rfl, fun x hx => ?_, rfl⟩
    have hne := (List.mem_filter.1 hx).2
    simp only [Bool.not_eq_true', decide_eq_false_iff_not, Bool.and_eq_false_iff] at hne
    tauto
  · refine ⟨_, rfl, fun x hx => ?_, rfl⟩
    have hne := (List.mem_filter.1 hx).2
    simp only [Bool.not_eq_true', decide_eq_false_iff_not, Bool.and_eq_false_iff] at hne
    tauto
  · refine ⟨_, rfl, fun x hx => ?_, rfl⟩
    have hne := (List.mem_filter.1 hx).2
    simp only [Bool.not_eq_true', decide_eq_false_iff_not, Bool.and_eq_false_iff] at hne
    tauto
  · rw [hl, decide_eq_true hp]
    rfl

end Sys2Proof.Machine
end

section
/-!
PROOFS. Parcels by the dictionary: creation, removal, reset, beds, beacon blocks and bed clocks (R263, R318 to R321, R340,
R357, R395, R406).
-/

namespace Sys2Proof.Machine

/-! ### A row that writes an object (R354, R356 to R358) -/

section
variable {s : State} {idx sub : Nat} {data : List Byte} {r : ObjRow}

/-- No segmented write of the object is open. -/
def Unopened (s : State) (idx : Nat) : Prop := ∀ x ∈ s.dict.sessions, x.idx ≠ idx

theorem NoWriteOpen.unopened {l : List Nat} (h : NoWriteOpen s l) (hi : idx ∈ l) : Unopened s idx :=
  fun x hx he => h x hx (he ▸ hi)

theorem Unopened.segDrop (h : Unopened s idx) (src : Requester) : Machine.segDrop s.dict.sessions src idx sub = s.dict.sessions := by
  refine List.filter_eq_self.2 fun x hx => ?_
  simp [h x hx]

theorem Unopened.not_busy (h : Unopened s idx) (src : Requester) : sessionBusy s src idx sub = false := by
  refine List.any_eq_false.2 fun x hx => ?_
  simp [h x hx]

theorem objRow_writes {src : Requester} (hready : dictReady s = true) (hopen : reqOpen s src = true) (hfree : Unopened s idx)
    (hfind : findObj idx sub = .ok r) : objRow src idx sub data s = .next (writeObj s src r idx sub data false).2 := by
  have hc : ¬(!dictReady s || !reqOpen s src || sessionBusy s src idx sub) = true := by rw [hready, hopen, hfree.not_busy]; decide
  unfold objRow
  rw [if_neg hc, hfind, hfree.segDrop]
  rfl

/-- The object takes values. -/
def ObjRow.writable (r : ObjRow) : Bool := !(r.acc = .ro || r.acc = .const)

theorem writeObj_mgmt (a : Nat) (hw : r.writable = true) (hsize : sizeOk r.typ data = true)
    (hfs : s.pwr.failStopped = false ∨ nextStart r.idx = true) :
    writeObj s (.mgmt a) r idx sub data false = putObj s (.mgmt a) r.idx (objKey idx).2 sub data := by
  have hro : (decide (r.acc = .ro) || decide (r.acc = .const)) = false := by rw [← Bool.not_eq_true']; exact hw
  have hstop : (s.pwr.failStopped && !nextStart r.idx) = false := by
    rcases hfs with h | h
    · rw [h]; rfl
    · rw [h, Bool.not_true, Bool.and_false]
  unfold writeObj
  dsimp only
  rw [hro, hsize, hstop]
  rfl

theorem mgmtRow_puts (hready : dictReady s = true) (hfs : s.pwr.failStopped = false ∨ nextStart r.idx = true) (hfree : Unopened s idx)
    (hfind : findObj idx sub = .ok r) (hw : r.writable = true) (hsize : sizeOk r.typ data = true) :
    mgmtRow idx sub data s = .next (putObj s (.mgmt 0) r.idx (objKey idx).2 sub data).2 := by
  rw [mgmtRow, objRow_writes hready rfl hfree hfind, writeObj_mgmt 0 hw hsize hfs]

end

theorem objKey_pcl {p off : Nat} (hp : p < 8) (ho : off < 256) : objKey (0x2000 + 0x100 * p + off) = (0x2000 + off, p) := by
  have h : 0x2000 ≤ 0x2000 + 0x100 * p + off ∧ 0x2000 + 0x100 * p + off < 0x2800 := by omega
  unfold objKey
  rw [if_pos h]
  refine Prod.ext ?_ ?_
  · dsimp only
    omega
  · dsimp only
    omega

theorem findObj_pcl {p off : Nat} (hp : p < 8) (ho : off < 256) (sub : Nat) :
    findObj (0x2000 + 0x100 * p + off) sub = findObj (0x2000 + off) sub := by
  have h0 : objKey (0x2000 + off) = (0x2000 + off, 0) := objKey_pcl (p := 0) (by decide) ho
  unfold findObj
  rw [objKey_pcl hp ho, h0]

theorem pclRow_puts {s : State} {p off sub : Nat} {data : List Byte} {r : ObjRow} (hp : p < 8) (ho : off < 256) (hready : dictReady s = true)
    (hfs : s.pwr.failStopped = false) (hfree : Unopened s (0x2000 + 0x100 * p + off)) (hfind : findObj (0x2000 + off) sub = .ok r)
    (hw : r.writable = true) (hsize : sizeOk r.typ data = true) :
    pclRow p off sub data s = .next (putObj s (.mgmt 0) r.idx p sub data).2 := by
  rw [pclRow, if_pos hp, mgmtRow_puts hready (.inl hfs) hfree ((findObj_pcl hp ho sub).trans hfind) hw hsize, objKey_pcl hp ho]

theorem leNat_leBytes_word {n : Nat} (v : BitVec (8 * n)) : leNat (leBytes n v.toNat) = v.toNat := by
  rw [leNat_of_leBytes]
  refine Nat.mod_eq_of_lt ?_
  have h : (256 : Nat) ^ n = 2 ^ (8 * n) := (pow_mul 2 8 n).symm
  rw [h]
  exact v.isLt

theorem stagedVal_stage (s : State) (p : Nat) (k : StageKey) (v : Nat) : stagedVal (stage s p k v) p k = some v := by
  have hnone : ((getPcl s p).staged.filter fun e => e.1 ≠ k).find? (fun e => e.1 = k) = none := by
    refine List.find?_eq_none.2 fun x hx => ?_
    simpa using (List.mem_filter.1 hx).2
  unfold stagedVal
  rw [stage_eq_withStaged, staged_withStaged, restaged, List.find?_append, hnone]
  simp

/-! ### PCL_BEDS, BCN_ALLOC and CLK_BED (R263, R320, R357, R395) -/

section
variable {s : State} {p : Nat} (hp : p < 8) (hready : dictReady s = true) (hfs : s.pwr.failStopped = false)
include hp hready hfs

omit hp hready hfs in
theorem findObj_beds : findObj 0x2002 0 = .ok ⟨0x2002, 0, 0, .fixed 4, .rws, .mgmt, .block⟩ := rfl

theorem pclBeds_puts (hfree : Unopened s (0x2002 + 0x100 * p)) (beds : W32) :
    exec (.pclBeds p beds) s = .next (putPclBeds s p beds.toNat).2 := by
  have hfree' : Unopened s (0x2000 + 0x100 * p + 2) := by
    have h : 0x2000 + 0x100 * p + 2 = 0x2002 + 0x100 * p := by omega
    rw [h]
    exact hfree
  have hx := pclRow_puts (data := leBytes 4 beds.toNat) hp (by decide) hready hfs hfree' findObj_beds rfl
    (by exact decide_eq_true (leBytes_length 4 beds.toNat))
  have hv : leNat (leBytes 4 beds.toNat) = beds.toNat := leNat_leBytes_word (n := 4) beds
  have hput : putObj s (.mgmt 0) 0x2002 p 0 (leBytes 4 beds.toNat) = putPclBeds s p (leNat (leBytes 4 beds.toNat)) := rfl
  exact hx.trans (by rw [hput, hv])

theorem pclBeds_stages (hfree : Unopened s (0x2002 + 0x100 * p)) (beds : W32) (hthere : pclThere s p = true) (hres : beds &&& othersReserved s p = 0)
    (hadd : (beds &&& ~~~(getPcl s p).beds) &&& othersBeds s p = 0) :
    ∃ t, exec (.pclBeds p beds) s = .next t ∧ stagedVal t p .beds = some beds.toNat ∧ (getPcl t p).beds = (getPcl s p).beds := by
  have h1 : ¬BitVec.ofNat 32 beds.toNat &&& othersReserved s p ≠ 0 := by rw [BitVec.ofNat_toNat, BitVec.setWidth_eq]; exact not_not_intro hres
  have h2 : ¬(pclThere s p && decide (BitVec.ofNat 32 beds.toNat &&& ~~~(getPcl s p).beds &&& othersBeds s p ≠ 0)) = true := by
    rw [BitVec.ofNat_toNat, BitVec.setWidth_eq, hadd]
    simp
  have hput : putPclBeds s p beds.toNat = grant (stage s p .beds beds.toNat) :=
    ((if_neg h1).trans (if_neg h2)).trans (if_pos hthere)
  refine ⟨stage s p .beds beds.toNat, (pclBeds_puts hp hready hfs hfree beds).trans (by rw [hput]; rfl), stagedVal_stage .., ?_⟩
  rw [stage_eq_withStaged, beds_withStaged]

theorem pclBeds_applies (hfree : Unopened s (0x2002 + 0x100 * p)) (beds : W32) (hgone : pclThere s p = false) (hres : beds &&& othersReserved s p = 0) :
    ∃ t, exec (.pclBeds p beds) s = .next t ∧ (getPcl t p).beds = beds ∧ SameMemory s t := by
  have hthere : ¬pclThere s p = true := fun h => Bool.false_ne_true (hgone.symm.trans h)
  have h1 : ¬BitVec.ofNat 32 beds.toNat &&& othersReserved s p ≠ 0 := by rw [BitVec.ofNat_toNat, BitVec.setWidth_eq]; exact not_not_intro hres
  have h2 : ¬(pclThere s p && decide (BitVec.ofNat 32 beds.toNat &&& ~~~(getPcl s p).beds &&& othersBeds s p ≠ 0)) = true := by
    rw [hgone]
    exact Bool.false_ne_true
  have hput : putPclBeds s p beds.toNat = grant (modPcl s p fun x => { x with beds := BitVec.ofNat 32 beds.toNat }) :=
    ((if_neg h1).trans (if_neg h2)).trans (if_neg hthere)
  refine ⟨modPcl s p fun x => { x with beds := BitVec.ofNat 32 beds.toNat },
    (pclBeds_puts hp hready hfs hfree beds).trans (by rw [hput]; rfl), ?_, sameMemory_of rfl rfl⟩
  rw [getPcl_modPcl_same]
  simp

theorem pclBeds_refused (hfree : Unopened s (0x2002 + 0x100 * p)) (beds : W32) (hres : beds &&& othersReserved s p ≠ 0) :
    exec (.pclBeds p beds) s = .next s := by
  have h1 : BitVec.ofNat 32 beds.toNat &&& othersReserved s p ≠ 0 := by rw [BitVec.ofNat_toNat, BitVec.setWidth_eq]; exact hres
  have hput : putPclBeds s p beds.toNat = deny s ackValue := if_pos h1
  exact (pclBeds_puts hp hready hfs hfree beds).trans (by rw [hput]; rfl)

theorem bcnAlloc_stages (hfree : Unopened s (0x2040 + 0x100 * p)) {die : Nat} (v : W64) (hd : die < 2) (hthere : pclThere s p = true)
    (hres : v &&& othersBlocks s p die = 0) :
    ∃ t, exec (.bcnAlloc p die v) s = .next t ∧ stagedVal t p (.beacons die) = some v.toNat ∧ t.mesh = s.mesh := by
  have hfree' : Unopened s (0x2000 + 0x100 * p + 0x40) := by
    have h : 0x2000 + 0x100 * p + 0x40 = 0x2040 + 0x100 * p := by omega
    rw [h]
    exact hfree
  have hfind : findObj (0x2000 + 0x40) die = .ok ⟨0x2040, 0, 1, .fixed 8, .rws, .mgmt, .block⟩ := by interval_cases die <;> rfl
  have hx := pclRow_puts (data := leBytes 8 v.toNat) hp (by decide) hready hfs hfree' hfind rfl
    (by exact decide_eq_true (leBytes_length 8 v.toNat))
  have hv : leNat (leBytes 8 v.toNat) = v.toNat := leNat_leBytes_word (n := 8) v
  have h1 : ¬BitVec.ofNat 64 v.toNat &&& othersBlocks s p die ≠ 0 := by rw [BitVec.ofNat_toNat, BitVec.setWidth_eq]; exact not_not_intro hres
  have hput : putObj s (.mgmt 0) 0x2040 p die (leBytes 8 v.toNat) = putBcnAlloc s p die (leNat (leBytes 8 v.toNat)) := rfl
  have hgrant : putBcnAlloc s p die v.toNat = grant (stage s p (.beacons die) v.toNat) := (if_neg h1).trans (if_pos hthere)
  exact ⟨stage s p (.beacons die) v.toNat, hx.trans (by rw [hput, hv, hgrant]; rfl), stagedVal_stage .., rfl⟩

end

theorem bedClk_switchBed (s : State) (bed b : Nat) (v : Nat) (h2 : 2 ≤ v) :
    bedClk (switchBed s bed v) b = if b = bed then v else bedClk s b := by
  have hlog : (logClk s bed (bedClk s bed) v).pwr.clk8 = s.pwr.clk8 := by
    have hobs : (observeCycles s bed).2.pwr.clk8 = s.pwr.clk8 := by
      unfold observeCycles
      split <;> rfl
    unfold logClk
    revert hobs
    obtain ⟨c, u⟩ := observeCycles s bed
    intro h
    dsimp only [bump] at h ⊢
    exact h
  have hclk : (switchBed s bed v).pwr.clk8 = sset 0 s.pwr.clk8 bed (if v = 8 then 0 else v) :=
    congrArg (fun m => sset 0 m bed (if v = 8 then 0 else v)) hlog
  unfold bedClk
  rw [hclk, sget_sset]
  by_cases hb : b = bed
  · rw [if_pos hb, if_pos hb]
    by_cases h8 : v = 8
    · rw [if_pos h8, if_pos rfl, h8]
    · rw [if_neg h8, if_neg (by omega)]
  · rw [if_neg hb, if_neg hb]

theorem clkBed_puts {s : State} {bed : Nat} (hready : dictReady s = true) (hfs : s.pwr.failStopped = false) (hfree : Unopened s 0x4000)
    (hbed : bed < 32) (v : Byte) (h2 : 2 ≤ v.toNat) (h8 : v.toNat ≤ 8) : exec (.clkBed bed v) s = .next (match bedParcel s bed with
      | some p => stage s p (.clkBed bed) v.toNat
      | none => switchBed s bed v.toNat) := by
  have hfind : findObj 0x4000 bed = .ok ⟨0x4000, 0, 31, .fixed 1, .rws, .owner, .bed⟩ := by interval_cases bed <;> rfl
  have hx := mgmtRow_puts (data := [v]) hready (.inl hfs) hfree hfind rfl rfl
  have hv : leNat [v] = v.toNat := by simp [leNat]
  have hput : putObj s (.mgmt 0) 0x4000 (objKey 0x4000).2 bed [v] = putClkBed s bed (leNat [v]) := rfl
  have hc : ¬(v.toNat < 2 ∨ 8 < v.toNat) := by omega
  refine hx.trans ?_
  rw [hput, hv, putClkBed, if_neg hc]
  cases bedParcel s bed with
  | some p => rfl
  | none => rfl

theorem clkBed_acts {p : Nat} {s : State} (hready : dictReady s = true) (hfs : s.pwr.failStopped = false) (hfree : Unopened s 0x4000)
    {bed : Nat} {v : Byte} (hbed : bed < 32) (h2 : 2 ≤ v.toNat) (h8 : v.toNat ≤ 8) :
    (bedParcel s bed = some p → ∃ t, exec (.clkBed bed v) s = .next t ∧ stagedVal t p (.clkBed bed) = some v.toNat ∧
      bedClk t bed = bedClk s bed) ∧
    (bedParcel s bed = none → ∃ t, exec (.clkBed bed v) s = .next t ∧ bedClk t bed = v.toNat ∧
      ∀ b, b ≠ bed → bedClk t b = bedClk s b) := by
  have hx := clkBed_puts hready hfs hfree hbed v h2 h8
  refine ⟨fun h => ?_, fun h => ?_⟩
  · rw [h] at hx
    exact ⟨_, hx, stagedVal_stage .., rfl⟩
  · rw [h] at hx
    refine ⟨_, hx, ?_, fun b hb => ?_⟩
    · exact (bedClk_switchBed s bed bed v.toNat h2).trans (if_pos rfl)
    · exact (bedClk_switchBed s bed b v.toNat h2).trans (if_neg hb)

/-! ### Creation (R319, R340, R410, R437) -/

/-- What some step of a fold brings about, in every state that the fold can reach, stays so. -/
theorem foldl_arrives {α : Type} {f : State → α → State} {Q P : State → Prop} {x : α} (hQ : ∀ s y, Q s → Q (f s y))
    (hx : ∀ s, Q s → P (f s x)) (hP : ∀ s y, Q s → P s → P (f s y)) (l : List α) (hm : x ∈ l) (s : State) (hs : Q s) : P (l.foldl f s) := by
  have hrest (l : List α) (s : State) (hq : Q s) (h : P s) : P (l.foldl f s) := by
    induction l generalizing s with
    | nil => exact h
    | cons y l ih => exact ih _ (hQ s y hq) (hP s y hq h)
  induction l generalizing s with
  | nil => cases hm
  | cons y l ih =>
    rcases List.mem_cons.1 hm with rfl | hm
    · exact hrest l _ (hQ s _ hs) (hx s hs)
    · exact ih hm _ (hQ s y hs)

/-- What every step of a fold keeps, the fold keeps. -/
theorem foldl_keeps {α : Type} {f : State → α → State} {P : State → Prop} (h : ∀ s y, P s → P (f s y)) (l : List α) (s : State)
    (hs : P s) : P (l.foldl f s) := List.foldlRecOn l f hs fun u hu y _ => h u y hu

/-- Only sites have changed, and none of their memories. -/
structure OnlySites (s t : State) : Prop where
  state : t = { s with sites := t.sites }
  memory : SameMemory s t

theorem OnlySites.refl (s : State) : OnlySites s s := ⟨rfl, sameMemory_refl s⟩

theorem OnlySites.trans {s t u : State} (h : OnlySites s t) (k : OnlySites t u) : OnlySites s u :=
  ⟨by rw [k.state, h.state], h.memory.trans k.memory⟩

theorem onlySites_modSite (s : State) (n : Nat) {f : Site → Site} (hf : ∀ x, (f x).near = x.near ∧ (f x).terr = x.terr) :
    OnlySites s (modSite s n f) := ⟨rfl, sameMemory_modSite s n f (hf _).1 (hf _).2⟩

theorem onlySites_foldl {α : Type} {f : State → α → State} (h : ∀ s x, OnlySites s (f s x)) (l : List α) (s : State) :
    OnlySites s (l.foldl f s) := foldl_keeps (fun u y hu => hu.trans (h u y)) l s (.refl s)

/-- Only the error counts of the parcel's sites, and the addresses kept with them, have changed. -/
theorem forgetErrs_only (s : State) (p : Nat) :
    OnlySites { s with repair := { s.repair with stepAddrs := s.repair.stepAddrs.filter fun e => e.1 ≠ p } } (forgetErrs s p) := by
  refine onlySites_foldl (fun u b => onlySites_foldl (fun u i => ?_) _ u) _ _
  dsimp only
  split
  · exact .refl u
  · exact onlySites_modSite u _ fun _ => ⟨rfl, rfl⟩

theorem clearStep_eq (x : Site) : ∃ l, x.clearStep =
    { x with ctxs := l, wga := { x.wga with dmis := false }, gate := x.gate.close, theo := [], cd0 := 0, cd1 := 0, cd2 := 0, cd3 := 0 } := by
  have hctx : ∃ l, (List.range 4).foldl (fun (x : Site) k => x.modCtx k fun y => { y with nflags := 0 }) x = { x with ctxs := l } := by
    refine List.foldlRecOn (motive := fun y : Site => ∃ l, y = { x with ctxs := l }) _ _ ⟨x.ctxs, rfl⟩ fun y hy k _ => ?_
    obtain ⟨l, hl⟩ := hy
    rw [hl]
    exact ⟨_, rfl⟩
  obtain ⟨l, hl⟩ := hctx
  unfold Site.clearStep
  dsimp only
  rw [hl]
  exact ⟨l, rfl⟩

theorem clearStep_memory (x : Site) : x.clearStep.near = x.near ∧ x.clearStep.terr = x.terr := by
  obtain ⟨l, hl⟩ := clearStep_eq x
  rw [hl]
  exact ⟨rfl, rfl⟩

theorem clearCores_only (s : State) (l : List Nat) : OnlySites s (l.foldl (fun s c => modCore s c Site.clearStep) s) :=
  onlySites_foldl (fun u _ => onlySites_modSite u _ clearStep_memory) l s

/-- The site's digest is zero. -/
def Site.digestZero (x : Site) : Prop := (x.cd0, x.cd1, x.cd2, x.cd3) = ((0, 0, 0, 0) : Dig)

theorem clearStep_digest (x : Site) : x.clearStep.digestZero := by
  obtain ⟨l, hl⟩ := clearStep_eq x
  unfold Site.digestZero
  rw [hl]

theorem clearCores_zero (s : State) (l : List Nat) {c : Nat} (hc : c ∈ l) :
    (getSite (l.foldl (fun s c => modCore s c Site.clearStep) s) (csite s c)).digestZero := by
  refine foldl_arrives (f := fun s c => modCore s c Site.clearStep) (Q := fun u => u.place = s.place) (P := fun u => (getSite u (csite s c)).digestZero)
    (fun u y h => (place_modCore u y _).trans h) (fun u h => ?_) (fun u y h hz => ?_) l hc s rfl
  · have hsite : csite u c = csite s c := by unfold csite tsite coreBed factoryIdle; rw [h]
    rw [getSite_modCore, hsite, if_pos rfl]
    exact clearStep_digest _
  · rw [getSite_modCore]
    split
    · exact clearStep_digest _
    · exact hz

theorem forgetErrs_digest (s : State) (p n : Nat) (h : (getSite s n).digestZero) : (getSite (forgetErrs s p) n).digestZero := by
  unfold forgetErrs
  refine foldl_keeps (P := fun u => (getSite u n).digestZero) (fun u b hu => ?_) _ _ h
  refine foldl_keeps (P := fun u => (getSite u n).digestZero) (fun u i hu => ?_) _ _ hu
  dsimp only
  split
  · exact hu
  · rw [getSite_modSite]
    split
    next hn => rw [← hn]; exact hu
    · exact hu

/-- What the initial mark leaves. -/
structure Marked (s : State) (p : Nat) (t : State) : Prop where
  memory : SameMemory s t
  pcl : getPcl t p = (getPcl s p).newStep
  others : ∀ q, q ≠ p → getPcl t q = getPcl s q
  digest : ∀ c ∈ pclLive s p, digestOf t c = (0, 0, 0, 0)

theorem initialMark_marks (s : State) (p : Nat) : Marked s p (initialMark s p) := by
  have hlive : pclLive (shadowBeacons s p) p = pclLive s p := rfl
  have hclear := clearCores_only (shadowBeacons s p) (pclLive s p)
  have hzero (c : Nat) (hc : c ∈ pclLive s p) := clearCores_zero (shadowBeacons s p) (pclLive s p) hc
  have heq : initialMark s p = modPcl (forgetErrs ((pclLive s p).foldl (fun s c => modCore s c Site.clearStep) (shadowBeacons s p)) p) p
    Parcel.newStep := rfl
  rw [heq]
  generalize (pclLive s p).foldl (fun s c => modCore s c Site.clearStep) (shadowBeacons s p) = u at hclear hzero
  have hforget := forgetErrs_only u p
  have hdig (c : Nat) (hc : c ∈ pclLive s p) := forgetErrs_digest u p _ (hzero c hc)
  generalize forgetErrs u p = v at hforget hdig
  have hplace : v.place = s.place := by rw [hforget.state, hclear.state]; rfl
  have hpcl (q : Nat) : getPcl v q = getPcl s q := by
    unfold getPcl
    rw [hforget.state, hclear.state]
    rfl
  have h0 : SameMemory s (shadowBeacons s p) := sameMemory_of rfl rfl
  have h1 : SameMemory u { u with repair := { u.repair with stepAddrs := u.repair.stepAddrs.filter fun e => e.1 ≠ p } } := sameMemory_of rfl rfl
  have h2 : SameMemory v (modPcl v p Parcel.newStep) := sameMemory_of rfl rfl
  refine ⟨((h0.trans hclear.memory).trans (h1.trans hforget.memory)).trans h2, ?_, fun q hq => ?_, fun c hc => ?_⟩
  · rw [getPcl_modPcl_same, hpcl]
  · rw [getPcl_modPcl, if_neg hq, hpcl]
  · have hsite : csite (modPcl v p Parcel.newStep) c = csite (shadowBeacons s p) c := by
      unfold csite tsite coreBed factoryIdle
      rw [show (modPcl v p Parcel.newStep).place = (shadowBeacons s p).place from hplace]
    unfold digestOf getCore
    rw [hsite]
    exact hdig c hc

theorem getPcl_setPcl (s : State) (p : Nat) (st : PclSt) (q : Nat) :
    getPcl (setPcl s p st) q = if q = p then { getPcl s p with st := st } else getPcl s q := by
  unfold setPcl
  split
  next h =>
    split
    next hq => rw [hq, ← h]
    · rfl
  · rw [noteEvent_eq]
    exact getPcl_modPcl s p q fun x => { x with st := st }

theorem setPcl_leaves (s : State) (p : Nat) (st : PclSt) : SameMemory s (setPcl s p st) ∧ (setPcl s p st).place = s.place ∧
    (setPcl s p st).far = s.far ∧ (setPcl s p st).gate.windows = s.gate.windows := by
  rcases setPcl_eq s p st with h | ⟨-, h⟩
  · rw [h]
    exact ⟨sameMemory_of rfl rfl, rfl, rfl, rfl⟩
  · rw [h]
    exact ⟨sameMemory_refl s, rfl, rfl, rfl⟩

theorem next_grant {a : Ack} {t : State} (h : a = grant t) : (.next a.2 : Out) = .next t := by rw [h]; rfl

section
variable {s : State} {p : Nat} (hp : p < 8) (hready : dictReady s = true) (hfs : s.pwr.failStopped = false)
  (hfree : Unopened s (0x2003 + 0x100 * p))
include hp hready hfs hfree

omit hp hready hfs hfree in
theorem findObj_ctl : findObj 0x2003 0 = .ok ⟨0x2003, 0, 0, .fixed 1, .wo, .mgmt, .block⟩ := rfl

theorem pclCtl_puts (v : Byte) : pclRow p 3 0 [v] s = .next (putPclCtl s p v.toNat).2 := by
  have hfree' : Unopened s (0x2000 + 0x100 * p + 3) := by
    have h : 0x2000 + 0x100 * p + 3 = 0x2003 + 0x100 * p := by omega
    rw [h]
    exact hfree
  have hx := pclRow_puts (data := [v]) hp (by decide) hready hfs hfree' findObj_ctl rfl rfl
  have hv : leNat [v] = v.toNat := by simp [leNat]
  have hput : putObj s (.mgmt 0) 0x2003 p 0 [v] = putPclCtl s p (leNat [v]) := rfl
  exact hx.trans (by rw [hput, hv])

theorem pclCtlReset_begins (hthere : pclThere s p = true) : exec (.pclCtlReset p) s = .next (beginParcelReset s p) := by
  have hput : putPclCtl s p 3 = grant (beginParcelReset s p) := if_pos hthere
  exact (pclCtl_puts hp hready hfs hfree 3).trans (next_grant hput)

theorem parcelCreate_creates (hdone : s.pwr.bringDone = true) (hst : (getPcl s p).st = .absent) (hbeds : (getPcl s p).beds ≠ 0)
    (hothers : (getPcl s p).beds &&& othersBeds s p = 0) (hbusy : bedsBusy s (getPcl s p).beds = false) :
    ∃ t, exec (.parcelCreate p) s = .next t ∧ SameMemory s t ∧
      (getPcl t p).st = (if (getPort s (getPcl s p).port).perst then .inReset else .active) ∧ (getPcl t p).beds = (getPcl s p).beds ∧
      (getPcl t p).bmarks = 0 ∧ (getPcl t p).refused = 0 ∧ (getPcl t p).thgen = 0 ∧
      (∀ q, q ≠ p → getPcl t q = getPcl s q) ∧ ∀ c ∈ pclLive s p, digestOf t c = (0, 0, 0, 0) := by
  have h1 : ¬(!s.pwr.bringDone || decide ((getPcl s p).st ≠ .absent)) = true := by rw [hdone, hst]; decide
  have h2 : ¬((getPcl s p).beds = 0 ∨ (getPcl s p).beds &&& othersBeds s p ≠ 0) := by
    rintro (h | h)
    · exact hbeds h
    · exact h hothers
  have h3 : ¬bedsBusy s (getPcl s p).beds = true := by rw [hbusy]; decide
  have hput : putPclCtl s p 1 = grant (initialMark (setPcl (modPcl s p Parcel.fresh) p
      (if (getPort s (getPcl s p).port).perst then .inReset else .active)) p) := ((if_neg h1).trans (if_neg h2)).trans (if_neg h3)
  have hx : exec (.parcelCreate p) s = .next _ := (pclCtl_puts hp hready hfs hfree 1).trans (next_grant hput)
  refine ⟨_, hx, ?_⟩
  generalize (if (getPort s (getPcl s p).port).perst then PclSt.inReset else .active) = st
  obtain ⟨hm, hplace, -, -⟩ := setPcl_leaves (modPcl s p Parcel.fresh) p st
  have hpcl : getPcl (setPcl (modPcl s p Parcel.fresh) p st) p = { (getPcl s p).fresh with st := st } := by
    rw [getPcl_setPcl, if_pos rfl, getPcl_modPcl_same]
  have hother (q : Nat) (hq : q ≠ p) : getPcl (setPcl (modPcl s p Parcel.fresh) p st) q = getPcl s q := by
    rw [getPcl_setPcl, if_neg hq, getPcl_modPcl, if_neg hq]
  have hlive : pclLive (setPcl (modPcl s p Parcel.fresh) p st) p = pclLive s p := by
    unfold pclLive pclCores pclBeds coreAbsent
    rw [hpcl, hplace]
    rfl
  have hmark := initialMark_marks (setPcl (modPcl s p Parcel.fresh) p st) p
  generalize setPcl (modPcl s p Parcel.fresh) p st = u at hm hpcl hother hlive hmark
  obtain ⟨hmem, hp', hrest, hdig⟩ := hmark
  have h0 : SameMemory s (modPcl s p Parcel.fresh) := sameMemory_of rfl rfl
  show SameMemory s (initialMark u p) ∧ _
  rw [hp', hpcl]
  exact ⟨(h0.trans hm).trans hmem, rfl, rfl, rfl, rfl, rfl, fun q hq => (hrest q hq).trans (hother q hq), fun c hc => hdig c (hlive ▸ hc)⟩

end

/-! ### Removal (R321) -/

/-- No memory has changed, and no window has opened. -/
structure Razed (s t : State) : Prop where
  memory : SameMemory s t
  en : ∀ v, (getWin s v).en = false → (getWin t v).en = false

theorem Razed.refl (s : State) : Razed s s := ⟨sameMemory_refl s, fun _ h => h⟩

theorem Razed.trans {s t u : State} (h : Razed s t) (k : Razed t u) : Razed s u := ⟨h.memory.trans k.memory, fun v hv => k.en v (h.en v hv)⟩

theorem razed_of {s t : State} (hm : SameMemory s t) (hw : t.gate.windows = s.gate.windows) : Razed s t :=
  ⟨hm, fun v h => by rw [getWin, hw]; exact h⟩

theorem Shut.razed {s t : State} (h : Shut s t) : Razed s t := ⟨h.memory, h.en⟩

theorem razed_foldl {α : Type} {f : State → α → State} (h : ∀ s x, Razed s (f s x)) (l : List α) (s : State) : Razed s (l.foldl f s) :=
  foldl_keeps (fun u y hu => hu.trans (h u y)) l s (.refl s)

theorem Ringed.en {w : Nat} {s t : State} (h : Ringed w s t) (v : Nat) : (getWin t v).en = (getWin s v).en := by
  by_cases hv : v = w
  · rw [hv, h.own]
    rfl
  · rw [h.others v hv]

theorem razed_emitRec (s : State) (w : Nat) (b : List Byte) (irq : Bool) : Razed s (emitRec s w b irq) :=
  ⟨(booked_emitRec ..).memory, fun v h => ((ringed_emitRec (w := w) s b irq).en v).trans h⟩

theorem razed_finRec (s : State) (w : Nat) (r : Rec) (st : Nat) (body : List Byte) : Razed s (finRec s w r st body) := by
  refine ⟨(booked_finRec ..).memory, fun v h => ((ringed_finRec (w := w) s r st body).en v).trans ?_⟩
  rw [endRec, getWin_modWin]
  split
  next hv => rw [← hv]; exact h
  · exact h

theorem razed_pclRec (s : State) (p : Nat) (b : List Byte) : Razed s (pclRec s p b) := by
  unfold pclRec
  split
  · exact razed_emitRec ..
  · exact razed_of (sameMemory_of rfl rfl) rfl

theorem razed_bump (s : State) (b i n : Nat) : Razed s (bump s b i n) := razed_of (sameMemory_of rfl rfl) rfl

theorem razed_mesh (s : State) (m : Mesh) : Razed s { s with mesh := m } := razed_of (sameMemory_of rfl rfl) rfl

theorem razed_faults (s : State) (l : List FaultPage) : Razed s { s with far := { s.far with faults := l } } :=
  razed_of (sameMemory_of rfl rfl) rfl

theorem razed_writeFaultRec (s : State) (p fpn kind held : Nat) (r : FaultReq) : Razed s (writeFaultRec s p fpn kind held r) :=
  (razed_bump ..).trans (razed_pclRec ..)

theorem razed_nextFaultRec (s : State) (p : Nat) : Razed s (nextFaultRec s p) := by
  unfold nextFaultRec
  split
  · exact .refl s
  · split
    · exact .refl s
    · split
      · exact .refl s
      · dsimp only
        refine Razed.trans ?_ (razed_writeFaultRec ..)
        exact razed_faults s _

theorem razed_dropFault (s : State) (f : FaultReq → Bool) : Razed s (dropFault s f) := by
  unfold dropFault
  dsimp only
  refine (razed_faults s _).trans (razed_foldl (fun u p => ?_) _ _)
  exact razed_foldl (fun u _ => razed_nextFaultRec u p) _ u

theorem razed_modPortF (s : State) (q : Nat) (f : FarPort → FarPort) : Razed s (modPortF s q f) := razed_of (sameMemory_of rfl rfl) rfl

theorem razed_dropFlits (s : State) (p : FlitFor → Bool) : Razed s (dropFlits s p) := by
  unfold dropFlits
  dsimp only
  refine (razed_mesh s _).trans (razed_foldl (fun u q => ?_) _ _)
  exact razed_modPortF u q _

theorem razed_dropCore (s : State) (c : Nat) : Razed s (dropCore s c) := by
  unfold dropCore
  refine ((razed_dropFault s _).trans (razed_dropFlits _ _)).trans (razed_foldl (fun u k => ?_) _ _)
  exact razed_mesh u _

theorem razed_resetSite (s : State) (n : Nat) : Razed s (resetSite s n) :=
  (razed_of (sameMemory_modSite s n Site.coreReset rfl rfl) rfl : Razed s (modSite s n Site.coreReset)).trans
    (razed_of (sameMemory_of rfl rfl) rfl)

theorem razed_endRemoved (s : State) (w : Nat) : Razed s (endRemoved s w) := by
  unfold endRemoved
  dsimp only
  split
  · exact .refl s
  · split
    · exact razed_finRec ..
    · split
      · exact razed_finRec ..
      · exact razed_finRec ..

/-! ### Pages of a removed parcel (R200, R321) -/

/-- The parcel owns the page (R198). -/
def OwnsPage (p f : Nat) (s : State) : Prop := (getEnt s f).v = true ∧ (getEnt s f).owner.toNat = p

/-- One page's turn as a parcel's pages are unmapped. -/
def unmapPage (p : Nat) (s : State) (fpn : Nat) : State :=
  let e := getEnt s fpn
  let s := if e.v ∧ e.owner.toNat = p then
      dropCad (modEnt (snoopPage s fpn) fpn fun e => { e with v := false, cr := false, cw := false, hr := false, hw := false }) fpn
    else s
  if e.lov ∧ e.lastown.toNat = p then modEnt s fpn fun e => { e with zneed := true } else s

theorem unmapAll_pages (s : State) (p : Nat) : unmapAll s p = (skeys s.far.entries).foldl (unmapPage p) s := rfl

/-- No memory, window or page's entry has changed. -/
structure Snooped (s t : State) : Prop where
  razed : Razed s t
  entries : t.far.entries = s.far.entries

theorem Snooped.refl (s : State) : Snooped s s := ⟨.refl s, rfl⟩

theorem Snooped.trans {s t u : State} (h : Snooped s t) (k : Snooped t u) : Snooped s u := ⟨h.razed.trans k.razed, k.entries.trans h.entries⟩

theorem snooped_snoopPage (s : State) (fpn : Nat) : Snooped s (snoopPage s fpn) := by
  refine foldl_keeps (P := Snooped s) (fun u l hu => hu.trans ?_) _ _ (.refl s)
  refine foldl_keeps (P := Snooped u) (fun v x hv => ?_) _ _ (.refl u)
  split
  · exact hv.trans ⟨razed_of (sameMemory_of rfl rfl) rfl, rfl⟩
  · exact hv

theorem razed_modEnt (s : State) (fpn : Nat) (f : CadEntry → CadEntry) : Razed s (modEnt s fpn f) := razed_of (sameMemory_of rfl rfl) rfl

theorem razed_unmapPage (p : Nat) (s : State) (fpn : Nat) : Razed s (unmapPage p s fpn) := by
  have hlov (u : State) (c : Prop) [Decidable c] : Razed u (if c then modEnt u fpn fun e => { e with zneed := true } else u) := by
    split
    · exact razed_modEnt ..
    · exact .refl u
  unfold unmapPage
  refine Razed.trans ?_ (hlov _ _)
  split
  · exact ((snooped_snoopPage s fpn).razed.trans (razed_modEnt ..)).trans (razed_modPortF ..)
  · exact .refl s

theorem ownsPage_zneed (p f fpn : Nat) (s : State) (c : Prop) [Decidable c] :
    OwnsPage p f (if c then modEnt s fpn fun e => { e with zneed := true } else s) ↔ OwnsPage p f s := by
  split
  · unfold OwnsPage
    rw [getEnt_modEnt]
    split
    next h => rw [h]
    · rfl
  · rfl

theorem ownsPage_unmapPage (p f : Nat) (s : State) (fpn : Nat) : OwnsPage p f (unmapPage p s fpn) ↔ f ≠ fpn ∧ OwnsPage p f s := by
  unfold unmapPage
  dsimp only
  rw [ownsPage_zneed]
  split
  next h =>
    have hent : getEnt (dropCad (modEnt (snoopPage s fpn) fpn fun e =>
        { e with v := false, cr := false, cw := false, hr := false, hw := false }) fpn) f =
        if f = fpn then { getEnt s fpn with v := false, cr := false, cw := false, hr := false, hw := false } else getEnt s f := by
      have hs (q : Nat) : getEnt (snoopPage s fpn) q = getEnt s q := by rw [getEnt, (snooped_snoopPage s fpn).entries, getEnt]
      rw [dropCad, getEnt_modPortF, getEnt_modEnt, hs, hs]
    unfold OwnsPage
    rw [hent]
    by_cases hf : f = fpn
    · rw [if_pos hf]
      simp [hf]
    · rw [if_neg hf]
      simp [hf]
  next h =>
    refine ⟨fun ho => ⟨?_, ho⟩, fun ho => ho.2⟩
    rintro rfl
    exact h ho

theorem getEnt_unlisted {s : State} {f : Nat} (h : f ∉ skeys s.far.entries) : getEnt s f = {} := by
  have hget {α : Type} (d : α) (m : SMap α) (h : f ∉ skeys m) : sget d m f = d := by
    induction m with
    | nil => rfl
    | cons x m ih =>
      obtain ⟨k, v⟩ := x
      have hk : f ≠ k := fun he => h (he ▸ List.mem_cons_self ..)
      rw [sget, if_neg hk]
      exact ih fun hm => h (List.mem_cons_of_mem _ hm)
  exact hget _ _ h

theorem unmapAll_frees (s : State) (p f : Nat) : Razed s (unmapAll s p) ∧ ¬OwnsPage p f (unmapAll s p) := by
  rw [unmapAll_pages]
  refine ⟨razed_foldl (razed_unmapPage p) _ s, ?_⟩
  by_cases hf : f ∈ skeys s.far.entries
  · refine foldl_arrives (f := unmapPage p) (Q := fun _ => True) (P := fun u => ¬OwnsPage p f u) (fun _ _ _ => trivial)
      (fun u _ => ?_) (fun u y _ hu => ?_) _ hf s trivial
    · rw [ownsPage_unmapPage]
      exact fun h => h.1 rfl
    · rw [ownsPage_unmapPage]
      exact fun h => hu h.2
  · refine foldl_keeps (f := unmapPage p) (P := fun u => ¬OwnsPage p f u) (fun u y hu => ?_) _ s ?_
    · rw [ownsPage_unmapPage]
      exact fun h => hu h.2
    · rintro ⟨hv, -⟩
      rw [getEnt_unlisted hf] at hv
      cases hv

/-! ### The end of a removed parcel (R321) -/

/-- Of memories, pages and windows nothing has changed. -/
structure Ended (s t : State) : Prop where
  razed : Razed s t
  far : t.far = s.far

theorem Ended.refl (s : State) : Ended s s := ⟨.refl s, rfl⟩

theorem Ended.trans {s t u : State} (h : Ended s t) (k : Ended t u) : Ended s u := ⟨h.razed.trans k.razed, k.far.trans h.far⟩

theorem ended_foldl {α : Type} {f : State → α → State} (h : ∀ s x, Ended s (f s x)) (l : List α) (s : State) : Ended s (l.foldl f s) :=
  foldl_keeps (fun u y hu => hu.trans (h u y)) l s (.refl s)

theorem ended_mesh (s : State) (m : Mesh) : Ended s { s with mesh := m } := ⟨razed_mesh s m, rfl⟩

theorem ended_setBeacon (s : State) (b : Nat) (v : W32) : Ended s (setBeacon s b v) := by
  rw [setBeacon_eq]
  exact (ended_mesh s _).trans ⟨razed_bump .., rfl⟩

theorem ended_applyBeacon (s : State) (m : BeaconMsg) : Ended s (applyBeacon s m) := by
  unfold applyBeacon
  split
  · exact ended_setBeacon ..
  · exact ended_setBeacon ..
  · unfold waitAtRoot
    split
    · exact ended_mesh s _
    · exact (ended_mesh s _).trans ⟨razed_bump .., rfl⟩

theorem ended_logInc (s : State) (i : Inc) : Ended s (logInc s i) := by
  obtain ⟨r, f, d, h⟩ := logInc_eq s i
  rw [h]
  exact ⟨razed_of (sameMemory_of rfl rfl) rfl, rfl⟩

theorem ended_modPcl (s : State) (p : Nat) (f : Parcel → Parcel) : Ended s (modPcl s p f) := ⟨razed_of (sameMemory_of rfl rfl) rfl, rfl⟩

theorem ended_loseBlocks (s : State) (p : Nat) (a0 a1 : W64) : Ended s (loseBlocks s p a0 a1) := by
  unfold loseBlocks
  dsimp only
  split
  · exact .refl s
  · refine Ended.trans ?_ (ended_modPcl ..)
    refine Ended.trans ?_ (ended_logInc ..)
    refine Ended.trans ?_ (ended_foldl (fun u x => ended_mesh u _) _ _)
    refine Ended.trans ?_ (ended_mesh _ _)
    exact (ended_mesh s _).trans (ended_foldl ended_applyBeacon _ _)

theorem OnlySites.ended {s t : State} (h : OnlySites s t) : Ended s t := ⟨razed_of h.memory (by rw [h.state]), by rw [h.state]⟩

theorem ended_repair (s : State) (r : Repair) : Ended s { s with repair := r } := ⟨razed_of (sameMemory_of rfl rfl) rfl, rfl⟩

theorem ended_forgetErrs (s : State) (p : Nat) : Ended s (forgetErrs s p) := (ended_repair s _).trans (forgetErrs_only s p).ended

theorem ended_endStepHandling (s : State) (p : Nat) : Ended s (endStepHandling s p) := by
  unfold endStepHandling
  dsimp only
  exact (ended_repair s _).trans (ended_foldl (fun u e => ended_repair u _) _ _)

theorem ended_setPcl (s : State) (p : Nat) (st : PclSt) : Ended s (setPcl s p st) := by
  obtain ⟨hm, -, hfar, hw⟩ := setPcl_leaves s p st
  exact ⟨razed_of hm hw, hfar⟩

/-! ### The windows of a removed parcel (R321, R324, R329) -/

theorem closeWin_others (s : State) {v w : Nat} (h : v ≠ w) : getWin (closeWin s w true) v = getWin s v := by
  have hpcl (c : Prop) [Decidable c] (p : Nat) (f : Parcel → Parcel) (u : State) : getWin (if c then modPcl u p f else u) v = getWin u v := by
    split <;> rfl
  have hmod (f : Window → Window) (u : State) : getWin (modWin u w f) v = getWin u v := (getWin_modWin ..).trans (if_neg h)
  unfold closeWin
  dsimp only
  split
  · rfl
  · split
    · rw [hpcl, hmod]
    · split
      · rw [if_pos rfl, endRec, hmod, hpcl, hpcl, hmod]
      · rw [hpcl, hmod]

theorem closeWindows_closes {s : State} {p w : Nat} (hw : w < 64) (hp : (getWin s w).parcel = p) (ha : (getWin s w).active = true) :
    (getWin (closeWindows s p true) w).en = false := by
  unfold closeWindows
  refine foldl_arrives (f := fun s w => if (getWin s w).parcel = p ∧ (getWin s w).active = true then closeWin s w true else s)
    (Q := fun u => (getWin u w).en = false ∨ getWin u w = getWin s w) (P := fun u => (getWin u w).en = false)
    (fun u y hu => ?_) (fun u hu => ?_) (fun u y _ hu => ?_) _ (List.mem_range.2 hw) s (.inr rfl)
  · split
    · by_cases hy : w = y
      · exact .inl (hy ▸ (closeWin_closes u y).2)
      · rw [closeWin_others u hy]
        exact hu
    · exact hu
  · split
    · exact (closeWin_closes u w).2
    next h =>
      rcases hu with hu | hu
      · exact hu
      · rw [hu] at h
        exact absurd ⟨hp, ha⟩ h
  · split
    · exact (closeWin_closes u y).1.en w hu
    · exact hu

/-- The windows, cores and pages of a removed parcel are given up. -/
def evicted (s : State) (p : Nat) : State :=
  let s := closeWindows (bump s clkBlock 3 1) p true
  let s := (List.range 64).foldl (fun s w => if (getWin s w).parcel = p ∧ (getPcl s p).port = w / 16 then endRemoved s w else s) s
  let s := (pclLive s p).foldl (fun s c => resetSite (dropCore s c) (csite s c)) s
  unmapAll s p

/-- Its seals, faults and refusals are dropped. -/
def unsealed (s : State) (p : Nat) : State :=
  { s with far := { s.far with
                               seals := sdel s.far.seals p,
                               faults := s.far.faults.filter fun f => f.parcel ≠ p,
                               refusals := s.far.refusals.filter fun x => x.parcel ≠ p } }

/-- Its beacon blocks and what was kept of its step are dropped, and the parcel is absent. -/
def dissolved (s : State) (p : Nat) : State :=
  let s := loseBlocks s p (getPcl s p).alloc0 (getPcl s p).alloc1
  let s := endStepHandling (forgetErrs s p) p
  setPcl (modPcl s p Parcel.removed) p .absent

theorem removeParcel_stages {s : State} {p : Nat} (h : pclThere s p = true) :
    removeParcel s p = grant (dissolved (unsealed (evicted s p) p) p) := by
  have hc : ¬(!pclThere s p) = true := by rw [h]; decide
  exact if_neg hc

theorem evicted_leaves (s : State) (p : Nat) : SameMemory s (evicted s p) ∧ (∀ f, ¬OwnsPage p f (evicted s p)) ∧
    ∀ w, w < 64 → (getWin s w).parcel = p → (getWin s w).active = true → (getWin (evicted s p) w).en = false := by
  have hclosed (w : Nat) (hw : w < 64) (hp : (getWin s w).parcel = p) (ha : (getWin s w).active = true) :
      (getWin (closeWindows (bump s clkBlock 3 1) p true) w).en = false := closeWindows_closes hw hp ha
  have hclose : Razed s (closeWindows (bump s clkBlock 3 1) p true) := (razed_bump ..).trans (shut_closeWindows ..).razed
  unfold evicted
  dsimp only
  generalize closeWindows (bump s clkBlock 3 1) p true = u at hclosed hclose
  have hrecs : Razed u ((List.range 64).foldl (fun s w => if (getWin s w).parcel = p ∧ (getPcl s p).port = w / 16 then endRemoved s w else s) u) := by
    refine razed_foldl (fun v w => ?_) _ u
    split
    · exact razed_endRemoved ..
    · exact .refl v
  generalize (List.range 64).foldl (fun s w => if (getWin s w).parcel = p ∧ (getPcl s p).port = w / 16 then endRemoved s w else s) u = v at hrecs
  have hcores : Razed v ((pclLive v p).foldl (fun s c => resetSite (dropCore s c) (csite s c)) v) :=
    razed_foldl (fun x c => (razed_dropCore x c).trans (razed_resetSite ..)) _ v
  generalize (pclLive v p).foldl (fun s c => resetSite (dropCore s c) (csite s c)) v = x at hcores
  have hall := ((hclose.trans hrecs).trans hcores).trans (unmapAll_frees x p 0).1
  exact ⟨hall.memory, fun f => (unmapAll_frees x p f).2, fun w hw hp ha =>
    ((hrecs.trans hcores).trans (unmapAll_frees x p 0).1).en w (hclosed w hw hp ha)⟩

theorem dissolved_leaves (s : State) (p : Nat) : Ended s (dissolved s p) ∧ ∃ x : Parcel, getPcl (dissolved s p) p = { x.removed with st := .absent } := by
  have h1 := ended_loseBlocks s p (getPcl s p).alloc0 (getPcl s p).alloc1
  unfold dissolved
  dsimp only
  generalize loseBlocks s p (getPcl s p).alloc0 (getPcl s p).alloc1 = u at h1
  have h2 := (ended_forgetErrs u p).trans (ended_endStepHandling (forgetErrs u p) p)
  generalize endStepHandling (forgetErrs u p) p = v at h2
  refine ⟨((h1.trans h2).trans (ended_modPcl ..)).trans (ended_setPcl ..), getPcl v p, ?_⟩
  rw [getPcl_setPcl, if_pos rfl, getPcl_modPcl_same]

theorem parcelRemove_removes {s : State} {p : Nat} (hp : p < 8) (hready : dictReady s = true) (hfs : s.pwr.failStopped = false)
    (hfree : Unopened s (0x2003 + 0x100 * p)) (hthere : pclThere s p = true) :
    ∃ t, exec (.parcelRemove p) s = .next t ∧ SameMemory s t ∧ (getPcl t p).st = .absent ∧
      (getPcl t p).beds = 0 ∧ (getPcl t p).alloc0 = 0 ∧ (getPcl t p).alloc1 = 0 ∧ sealsOf t p = [] ∧
      (∀ w, w < 64 → (getWin s w).parcel = p → (getWin s w).active = true → (getWin t w).en = false) ∧
      ∀ f, (getEnt t f).v = true → (getEnt t f).owner.toNat ≠ p := by
  have hx : exec (.parcelRemove p) s = .next (dissolved (unsealed (evicted s p) p) p) :=
    (pclCtl_puts hp hready hfs hfree 2).trans (next_grant (removeParcel_stages hthere))
  obtain ⟨hmem, hpages, hwins⟩ := evicted_leaves s p
  obtain ⟨hend, x, hpcl⟩ := dissolved_leaves (unsealed (evicted s p) p) p
  have hseal : SameMemory (evicted s p) (unsealed (evicted s p) p) := sameMemory_of rfl rfl
  refine ⟨_, hx, (hmem.trans hseal).trans hend.razed.memory, by rw [hpcl], by rw [hpcl]; rfl, by rw [hpcl]; rfl, by rw [hpcl]; rfl, ?_,
    fun w hw hpw ha => hend.razed.en w (hwins w hw hpw ha), fun f hv ho => hpages f ?_⟩
  · unfold sealsOf
    rw [hend.far]
    exact sget_sdel_same ..
  · unfold getEnt at hv ho
    rw [hend.far] at hv ho
    exact ⟨hv, ho⟩

/-- Settles O53. -/
theorem parcelObjectsDo : Obligations.ParcelObjectsDo := by
  intro p s hp hready hfs hno
  have hbeds : Unopened s (0x2002 + 0x100 * p) := hno.unopened (by simp)
  have hctl : Unopened s (0x2003 + 0x100 * p) := hno.unopened (by simp)
  have halloc : Unopened s (0x2040 + 0x100 * p) := hno.unopened (by simp)
  have hclk : Unopened s 0x4000 := hno.unopened (by simp)
  refine ⟨?_, ?_, ?_, ?_, ?_, ?_, ?_, ?_⟩
  · exact parcelCreate_creates hp hready hfs hctl
  · exact parcelRemove_removes hp hready hfs hctl
  · exact pclCtlReset_begins hp hready hfs hctl
  · exact pclBeds_stages hp hready hfs hbeds
  · exact pclBeds_applies hp hready hfs hbeds
  · exact pclBeds_refused hp hready hfs hbeds
  · exact fun die v => bcnAlloc_stages hp hready hfs halloc v
  · exact fun bed v hbed h2 h8 => clkBed_acts hready hfs hclk hbed h2 h8

end Sys2Proof.Machine
end

section
/-!
PROOFS. The objects that rows of their own write, snapshots, register transfers and the warm reset (R224, R233, R238, R347,
R354, R357, R363, R381, R389, R396, R407, R413).
-/

namespace Sys2Proof.Machine

/-! ### Acknowledgements and clears (R224, R233, R238, R413) -/

section
variable {s : State} (hready : dictReady s = true) (hfs : s.pwr.failStopped = false)
include hready hfs

theorem incAck_acks (hfree : Unopened s 0x6002) (v : W32) : exec (.incAck v) s = .next { s with repair := { s.repair with ack := v } } := by
  have hfind : findObj 0x6002 0 = .ok ⟨0x6002, 0, 0, .fixed 4, .rw, .mgmt, .none⟩ := rfl
  have hx := mgmtRow_puts (data := leBytes 4 v.toNat) hready (.inl hfs) hfree hfind rfl (by exact decide_eq_true (leBytes_length 4 v.toNat))
  have hv : leNat (leBytes 4 v.toNat) = v.toNat := leNat_leBytes_word (n := 4) v
  have hput : putObj s (.mgmt 0) 0x6002 (objKey 0x6002).2 0 (leBytes 4 v.toNat) = putIncAck s (leNat (leBytes 4 v.toNat)) := rfl
  have hword : BitVec.ofNat 32 v.toNat = v := by rw [BitVec.ofNat_toNat, BitVec.setWidth_eq]
  refine hx.trans (next_grant ?_)
  rw [hput, hv, putIncAck, hword]

theorem incOvf_clears (hfree : Unopened s 0x6100) {cls : Nat} (h1 : 1 ≤ cls) (h2 : cls ≤ 0x7F) :
    exec (.incOvf cls 0) s = .next { s with repair := { s.repair with ovf := sdel s.repair.ovf cls } } := by
  have hfind : findObj 0x6100 cls = .ok ⟨0x6100, 1, 0x7F, .fixed 4, .rw, .mgmt, .none⟩ := if_pos (c := 1 ≤ cls ∧ cls ≤ 0x7F) ⟨h1, h2⟩
  have hx := mgmtRow_puts (data := leBytes 4 (0 : W32).toNat) hready (.inl hfs) hfree hfind rfl rfl
  exact hx.trans (next_grant rfl)

theorem softClear_sets (hfree : Unopened s 0x9022) : exec (.softClear 0xC1EA) s = .next { s with repair := { s.repair with softClear := true } } := by
  have hfind : findObj 0x9022 0 = .ok ⟨0x9022, 0, 0, .fixed 2, .wo, .mgmt, .none⟩ := rfl
  have hx := mgmtRow_puts (data := leBytes 2 (0xC1EA : BitVec 16).toNat) hready (.inl hfs) hfree hfind rfl rfl
  exact hx.trans (next_grant rfl)

theorem alertClr_puts (hfree : Unopened s 0x4024) (v : W32) : exec (.alertClr v) s = .next (putAlertClr s v.toNat).2 := by
  have hfind : findObj 0x4024 0 = .ok ⟨0x4024, 0, 0, .fixed 4, .wo, .mgmt, .none⟩ := rfl
  have hx := mgmtRow_puts (data := leBytes 4 v.toNat) hready (.inl hfs) hfree hfind rfl (by exact decide_eq_true (leBytes_length 4 v.toNat))
  have hv : leNat (leBytes 4 v.toNat) = v.toNat := leNat_leBytes_word (n := 4) v
  have hput : putObj s (.mgmt 0) 0x4024 (objKey 0x4024).2 0 (leBytes 4 v.toNat) = putAlertClr s (leNat (leBytes 4 v.toNat)) := rfl
  exact hx.trans (by rw [hput, hv])

theorem clkHalf_puts (hfree : Unopened s 0x4001) {h : Nat} {v : Byte} (hh : h < 4) (h4 : 4 ≤ v.toNat) (h8 : v.toNat ≤ 8) :
    exec (.clkHalf h v) s = .next (switchHalf s h v.toNat) := by
  have hfind : findObj 0x4001 h = .ok ⟨0x4001, 0, 3, .fixed 1, .rw, .mgmt, .none⟩ := by interval_cases h <;> rfl
  have hx := mgmtRow_puts (data := [v]) hready (.inl hfs) hfree hfind rfl rfl
  have hv : leNat [v] = v.toNat := by simp [leNat]
  have hput : putObj s (.mgmt 0) 0x4001 (objKey 0x4001).2 h [v] = putClkHalf s h (leNat [v]) := rfl
  refine hx.trans (next_grant ?_)
  rw [hput, hv]
  exact if_neg (by omega)

theorem plcaNode_puts (hfree : Unopened s 0x1012) {v : Byte} (hv : (1 ≤ v.toNat ∧ v.toNat ≤ 8) ∨ v = 0xFF) :
    exec (.plcaNode v) s = .next { s with dict := { s.dict with
      objs := sset [] s.dict.objs (0x1012 * 256) (if [v] = [0xFF] then [] else [v]), plcaNode := v } } := by
  have hfind : findObj 0x1012 0 = .ok ⟨0x1012, 0, 0, .fixed 1, .rw, .mgmt, .none⟩ := rfl
  have hx := mgmtRow_puts (data := [v]) hready (.inl hfs) hfree hfind rfl rfl
  have hn : leNat [v] = v.toNat := by simp [leNat]
  have hput : putObj s (.mgmt 0) 0x1012 (objKey 0x1012).2 0 [v] = putPlain s 0x1012 [v] := rfl
  have hok : plainOk 0x1012 v.toNat = true := by
    show ((decide (1 ≤ v.toNat) && decide (v.toNat ≤ 8)) || decide (v.toNat = 0xFF)) = true
    rcases hv with ⟨h1, h8⟩ | rfl
    · rw [decide_eq_true h1, decide_eq_true h8]
      rfl
    · rfl
  have hbyte : BitVec.ofNat 8 v.toNat = v := by rw [BitVec.ofNat_toNat, BitVec.setWidth_eq]
  refine hx.trans (next_grant ?_)
  rw [hput, putPlain, hn, hok, hbyte]
  rfl

end

/-- The causes that a clear can reach now (Table 14-8). -/
def clearable (s : State) (v : Nat) : Nat :=
  let m := v &&& 0x3C
  let m := if tjWarn s ≤ s.pwr.tj then m &&& 0x38 else m
  if 50000 < s.pwr.vin then m &&& 0x2C else m

theorem clearable_bits (s : State) (v : Nat) : (clearable s v).testBit 0 = false ∧ (clearable s v).testBit 1 = false ∧
    (clearable s v).testBit 3 = v.testBit 3 ∧ (clearable s v).testBit 5 = v.testBit 5 := by
  have h3C : Nat.testBit 0x3C 0 = false ∧ Nat.testBit 0x3C 1 = false ∧ Nat.testBit 0x3C 3 = true ∧ Nat.testBit 0x3C 5 = true := by decide
  have h38 : Nat.testBit 0x38 3 = true ∧ Nat.testBit 0x38 5 = true := by decide
  have h2C : Nat.testBit 0x2C 3 = true ∧ Nat.testBit 0x2C 5 = true := by decide
  unfold clearable
  dsimp only
  split <;> split <;> simp only [Nat.testBit_and, h3C, h38, h2C, Bool.and_true, Bool.and_false, Bool.false_and, and_self]

theorem alertClr_clears {s : State} (hready : dictReady s = true) (hfs : s.pwr.failStopped = false) (hfree : Unopened s 0x4024) {v : W32}
    (hv : v.toNat < 64) : ∃ t, exec (.alertClr v) s = .next t ∧ t = { s with pwr := { s.pwr with alert := t.pwr.alert } } ∧
      t.pwr.alert.getLsbD 0 = s.pwr.alert.getLsbD 0 ∧ t.pwr.alert.getLsbD 1 = s.pwr.alert.getLsbD 1 ∧
      t.pwr.alert.getLsbD 3 = (s.pwr.alert.getLsbD 3 && !v.getLsbD 3) ∧ t.pwr.alert.getLsbD 5 = (s.pwr.alert.getLsbD 5 && !v.getLsbD 5) := by
  have hput : putAlertClr s v.toNat = grant (modPwr s fun x => { x with alert := x.alert &&& ~~~BitVec.ofNat 32 (clearable s v.toNat) }) :=
    if_neg (not_le.2 hv)
  obtain ⟨h0, h1, h3, h5⟩ := clearable_bits s v.toNat
  have hbit (i : Nat) (hi : i < 32) : (s.pwr.alert &&& ~~~BitVec.ofNat 32 (clearable s v.toNat)).getLsbD i =
      (s.pwr.alert.getLsbD i && !(clearable s v.toNat).testBit i) := by
    rw [BitVec.getLsbD_and, BitVec.getLsbD_not, BitVec.getLsbD_ofNat]
    simp [hi]
  refine ⟨_, (alertClr_puts hready hfs hfree v).trans (next_grant hput), rfl, ?_, ?_, ?_, ?_⟩
  · exact (hbit 0 (by decide)).trans (by rw [h0, Bool.not_false, Bool.and_true])
  · exact (hbit 1 (by decide)).trans (by rw [h1, Bool.not_false, Bool.and_true])
  · exact (hbit 3 (by decide)).trans (by rw [h3]; rfl)
  · exact (hbit 5 (by decide)).trans (by rw [h5]; rfl)

theorem plcaNode_sets {s : State} (hready : dictReady s = true) (hfs : s.pwr.failStopped = false) (hfree : Unopened s 0x1012) {v : Byte}
    (hv : (1 ≤ v.toNat ∧ v.toNat ≤ 8) ∨ v = 0xFF) : ∃ t, exec (.plcaNode v) s = .next t ∧ t.dict.plcaNode = v ∧
      plainVal t 0x1012 = [v] ∧ t = { s with dict := t.dict } := by
  refine ⟨_, plcaNode_puts hready hfs hfree hv, rfl, ?_, rfl⟩
  unfold plainVal
  show (match sget [] (sset [] s.dict.objs (0x1012 * 256) (if [v] = [0xFF] then [] else [v])) (0x1012 * 256) with
    | [] => objDefault 0x1012
    | b => b) = [v]
  rw [sget_sset_same]
  by_cases h : [v] = [0xFF]
  · rw [if_pos h, h]
    rfl
  · rw [if_neg h]

/-! ### The clock of a half (R396) -/

theorem logClk_leaves (s : State) (d old new : Nat) : (logClk s d old new).pwr.mesh8 = s.pwr.mesh8 ∧ (logClk s d old new).mesh = s.mesh := by
  have hobs : (observeCycles s d).2.pwr = s.pwr ∧ (observeCycles s d).2.mesh = s.mesh := by
    unfold observeCycles
    split <;> exact ⟨rfl, rfl⟩
  unfold logClk
  revert hobs
  obtain ⟨c, u⟩ := observeCycles s d
  rintro ⟨hp, hm⟩
  dsimp only [bump] at hp hm ⊢
  exact ⟨by rw [hp], hm⟩

theorem switchHalf_switches (s : State) (h v : Nat) (hv : 4 ≤ v) : halfClk (switchHalf s h v) h = v ∧
    (∀ g, g ≠ h → halfClk (switchHalf s h v) g = halfClk s g) ∧ (switchHalf s h v).mesh = s.mesh := by
  have hlog : ((halfDomains h).foldl (fun u d => logClk u d (halfClk s h) v) s).pwr.mesh8 = s.pwr.mesh8 ∧
      ((halfDomains h).foldl (fun u d => logClk u d (halfClk s h) v) s).mesh = s.mesh := by
    refine foldl_keeps (P := fun u : State => u.pwr.mesh8 = s.pwr.mesh8 ∧ u.mesh = s.mesh) (fun u d hu => ?_) _ s ⟨rfl, rfl⟩
    obtain ⟨h8, hm⟩ := logClk_leaves u d (halfClk s h) v
    exact ⟨h8.trans hu.1, hm.trans hu.2⟩
  obtain ⟨h8, hm⟩ := hlog
  have hclk : (switchHalf s h v).pwr.mesh8 = sset 0 s.pwr.mesh8 h (if v = 8 then 0 else v) :=
    congrArg (fun m => sset 0 m h (if v = 8 then 0 else v)) h8
  refine ⟨?_, fun g hg => ?_, hm⟩
  · unfold halfClk
    rw [hclk, sget_sset, if_pos rfl]
    by_cases h8 : v = 8
    · rw [if_pos h8, if_pos rfl, h8]
    · rw [if_neg h8, if_neg (by omega)]
  · unfold halfClk
    rw [hclk, sget_sset, if_neg hg]

/-! ### Snapshots (R381) -/

theorem startSnapshot_starts (s : State) (ident : W32) (p : Option Nat) : SameMemory s (startSnapshot s ident p) ∧
    ∃ r, (startSnapshot s ident p).regs.snapRun = some r ∧ r.ident = ident ||| 0x80000000 ∧ r.parcel = p := by
  have hcap (l : List Nat) : Steady s (l.foldl (fun s b => match blkOf b with
      | some k => capture s b k (ident ||| 0x80000000)
      | none => s) s) := by
    refine foldl_keeps (P := Steady s) (fun u b hu => ?_) l s (.refl s)
    split
    · exact hu.trans (steady_capture ..)
    · exact hu
  unfold startSnapshot
  dsimp only
  exact ⟨(hcap _).memory.trans (sameMemory_of rfl rfl), _, rfl, rfl, rfl⟩

theorem putSnap_starts {s : State} {v : W32} {p : Option Nat} (hv : v ≠ 0) (hlt : v.toNat < 2147483648) (hrun : s.regs.snapRun = none)
    (hp : ∀ q, p = some q → pclThere s q = true) : putSnap s p v.toNat = grant (startSnapshot s v p) := by
  have h1 : ¬(v.toNat = 0 ∨ 2 ^ 31 ≤ v.toNat) := by
    rintro (h | h)
    · exact hv (BitVec.eq_of_toNat_eq h)
    · omega
  have hword : BitVec.ofNat 32 v.toNat = v := by rw [BitVec.ofNat_toNat, BitVec.setWidth_eq]
  cases p with
  | none =>
    have h2 : ¬(s.regs.snapRun.isSome || !true) = true := by rw [hrun]; decide
    exact ((if_neg h1).trans (if_neg h2)).trans (by rw [hword])
  | some q =>
    have h2 : ¬(s.regs.snapRun.isSome || !pclThere s q) = true := by rw [hrun, hp q rfl]; decide
    exact ((if_neg h1).trans (if_neg h2)).trans (by rw [hword])

section
variable {s : State} (hready : dictReady s = true) (hfs : s.pwr.failStopped = false) {v : W32} (hv : v ≠ 0)
  (hlt : v.toNat < 2147483648) (hrun : s.regs.snapRun = none)
include hready hfs hv hlt hrun

theorem snapAll_starts (hfree : Unopened s 0x7000) : ∃ t, exec (.snapAll v) s = .next t ∧ SameMemory s t ∧
    ∃ r, t.regs.snapRun = some r ∧ r.ident = v ||| 0x80000000 ∧ r.parcel = none := by
  have hfind : findObj 0x7000 0 = .ok ⟨0x7000, 0, 0, .fixed 4, .wo, .mgmt, .none⟩ := rfl
  have hx := mgmtRow_puts (data := leBytes 4 v.toNat) hready (.inl hfs) hfree hfind rfl (by exact decide_eq_true (leBytes_length 4 v.toNat))
  have hn : leNat (leBytes 4 v.toNat) = v.toNat := leNat_leBytes_word (n := 4) v
  have hput : putObj s (.mgmt 0) 0x7000 (objKey 0x7000).2 0 (leBytes 4 v.toNat) = putSnap s none (leNat (leBytes 4 v.toNat)) := rfl
  rw [hn, putSnap_starts hv hlt hrun (fun q h => by cases h)] at hput
  exact ⟨_, hx.trans (next_grant hput), startSnapshot_starts ..⟩

theorem snapPcl_starts (hfree : Unopened s 0x7001) {p : Nat} (hp : pclThere s p = true) : ∃ t, exec (.snapPcl p v) s = .next t ∧ SameMemory s t ∧
    ∃ r, t.regs.snapRun = some r ∧ r.ident = v ||| 0x80000000 ∧ r.parcel = some p := by
  have hp8 : p ≤ 7 := by
    have h := (Bool.and_eq_true_iff.1 hp).1
    have := of_decide_eq_true h
    omega
  have hfind : findObj 0x7001 p = .ok ⟨0x7001, 0, 7, .fixed 4, .wo, .owner, .sub⟩ := if_pos (c := 0 ≤ p ∧ p ≤ 7) ⟨Nat.zero_le p, hp8⟩
  have hx := mgmtRow_puts (data := leBytes 4 v.toNat) hready (.inl hfs) hfree hfind rfl (by exact decide_eq_true (leBytes_length 4 v.toNat))
  have hn : leNat (leBytes 4 v.toNat) = v.toNat := leNat_leBytes_word (n := 4) v
  have hput : putObj s (.mgmt 0) 0x7001 (objKey 0x7001).2 p (leBytes 4 v.toNat) = putSnap s (some p) (leNat (leBytes 4 v.toNat)) := rfl
  rw [hn, putSnap_starts hv hlt hrun (fun q hq => Option.some.inj hq ▸ hp)] at hput
  exact ⟨_, hx.trans (next_grant hput), startSnapshot_starts ..⟩

end

/-- The incidents of a snapshot's missed blocks are logged. -/
def logMissed (s : State) (l : List Nat) : State :=
  l.foldl (fun s b => logInc s { cls := 0x62, locKind := 6, locNum := b, domain := blockDomain b }) s

theorem logMissed_leaves (s : State) (l : List Nat) : SameMemory s (logMissed s l) ∧ (logMissed s l).regs = s.regs := by
  refine foldl_keeps (P := fun u => SameMemory s u ∧ u.regs = s.regs) (fun u b hu => ?_) l s ⟨sameMemory_refl s, rfl⟩
  obtain ⟨r, f, d, h⟩ := logInc_eq u { cls := 0x62, locKind := 6, locNum := b, domain := blockDomain b }
  rw [h]
  exact ⟨hu.1.trans (sameMemory_of rfl rfl), hu.2⟩

theorem snapshotComplete_completes {l : List Nat} {r : SnapRun} {s : State} (hrun : s.regs.snapRun = some r) (hl : r.missed = l)
    (hup : s.pwr.lodgeUp = true) : ∃ t, exec (.snapshotComplete l) s = .next t ∧ SameMemory s t ∧ t.regs.snapRun = none ∧
      t.regs.snapLast = r.ident ∧ t.regs.snapMissed = BitVec.ofNat 32 l.length ∧ (r.parcel = none → t.regs.snapSkew.toNat ≤ 300) := by
  have hc : ¬(decide (r.missed ≠ l) || !s.pwr.lodgeUp) = true := by rw [hl, hup]; simp
  obtain ⟨hm, hregs⟩ := logMissed_leaves
    { s with regs := { s.regs with snapRun := none, snapLast := r.ident, snapMissed := BitVec.ofNat 32 l.length } } l
  have hx : exec (.snapshotComplete l) s = if r.parcel.isSome then .next (logMissed
      { s with regs := { s.regs with snapRun := none, snapLast := r.ident, snapMissed := BitVec.ofNat 32 l.length } } l)
      else .next { (takeFree (logMissed
        { s with regs := { s.regs with snapRun := none, snapLast := r.ident, snapMissed := BitVec.ofNat 32 l.length } } l)).2 with
        regs := { (logMissed { s with regs := { s.regs with
            snapRun := none, snapLast := r.ident, snapMissed := BitVec.ofNat 32 l.length } } l).regs with
          snapSkew := BitVec.ofNat 32 ((takeFree (logMissed { s with regs := { s.regs with
            snapRun := none, snapLast := r.ident, snapMissed := BitVec.ofNat 32 l.length } } l)).1.toNat % 301) } } := by
    show execSnapshotComplete l s = _
    unfold execSnapshotComplete
    rw [hrun]
    exact if_neg hc
  have h0 : SameMemory s { s with regs := { s.regs with snapRun := none, snapLast := r.ident, snapMissed := BitVec.ofNat 32 l.length } } :=
    sameMemory_of rfl rfl
  generalize logMissed { s with regs := { s.regs with snapRun := none, snapLast := r.ident, snapMissed := BitVec.ofNat 32 l.length } } l = u
    at hx hm hregs
  cases hp : r.parcel with
  | none =>
    rw [hp] at hx
    refine ⟨_, hx, (h0.trans hm).trans (sameMemory_of rfl rfl), ?_, ?_, ?_, fun _ => ?_⟩
    · show u.regs.snapRun = none
      rw [hregs]
    · show u.regs.snapLast = r.ident
      rw [hregs]
    · show u.regs.snapMissed = _
      rw [hregs]
    · show (BitVec.ofNat 32 ((takeFree u).1.toNat % 301)).toNat ≤ 300
      rw [BitVec.toNat_ofNat]
      omega
  | some q =>
    rw [hp] at hx
    exact ⟨u, hx, h0.trans hm, by rw [hregs], by rw [hregs], by rw [hregs], nofun⟩

/-! ### Register transfers (R389) -/

section
variable {s : State} (hready : dictReady s = true) (hfs : s.pwr.failStopped = false) (hfree : Unopened s 0x7010)
include hready hfs hfree

theorem regXfer_puts (a : Nat) (w v : W32) : objRow (.mgmt a) 0x7010 0 (leBytes 4 w.toNat ++ leBytes 4 v.toNat) s =
    .next (putXfer s (.mgmt a) (leBytes 4 w.toNat ++ leBytes 4 v.toNat)).2 := by
  have hfind : findObj 0x7010 0 = .ok ⟨0x7010, 0, 0, .fixed 8, .rw, .host, .none⟩ := rfl
  have hlen : (leBytes 4 w.toNat ++ leBytes 4 v.toNat).length = 8 := by rw [List.length_append, leBytes_length, leBytes_length]
  have hput := writeObj_mgmt (s := s) (idx := 0x7010) (sub := 0) (data := leBytes 4 w.toNat ++ leBytes 4 v.toNat)
    (r := ⟨0x7010, 0, 0, .fixed 8, .rw, .host, .none⟩) a rfl (decide_eq_true hlen) (.inl hfs)
  rw [objRow_writes (src := .mgmt a) hready rfl hfree hfind, hput]
  rfl

omit hready hfs hfree in
/-- The words of a transfer. -/
theorem xfer_fields (w v : W32) : field (leBytes 4 w.toNat ++ leBytes 4 v.toNat) 0 4 = w.toNat ∧
    BitVec.ofNat 32 (field (leBytes 4 w.toNat ++ leBytes 4 v.toNat) 4 4) = v := by
  have hw : w.toNat % 256 ^ 4 = w.toNat := Nat.mod_eq_of_lt w.isLt
  have hv : v.toNat % 256 ^ 4 = v.toNat := Nat.mod_eq_of_lt v.isLt
  refine ⟨(field_leBytes 4 _ _).trans hw, ?_⟩
  have hskip := field_skip (l := leBytes 4 w.toNat) (m := leBytes 4 v.toNat) (i := 4) (n := 4) (by rw [leBytes_length])
  rw [leBytes_length] at hskip
  have hfield : field (leBytes 4 v.toNat) 0 4 = v.toNat := by
    have h := field_leBytes 4 v.toNat []
    rw [List.append_nil] at h
    exact h.trans hv
  rw [hskip, hfield, BitVec.ofNat_toNat, BitVec.setWidth_eq]

omit hready hfs hfree in
theorem bit_toNat (w : W32) (i : Nat) : bit w.toNat i = w.getLsbD i := by
  unfold bit bits BitVec.getLsbD
  rw [Nat.testBit_eq_decide_div_mod_eq, pow_one]

theorem regXferWrite_writes (a : Nat) (w v : W32) (hal : w.toNat % 33554432 % 4 = 0) (hres : bits w.toNat 25 5 = 0)
    (hwr : w.getLsbD 31 = true) (hun : w.toNat % 33554432 % 0x4000 ≠ 0xF0C) :
    exec (.regXferWrite (.mgmt a) w v) s = .next (regWrite (if w.getLsbD 30 then
      regWrite s .lodge (w.toNat % 33554432 / 0x4000 * 0x4000 + 0xF0C) 0x5AFE else s) .lodge (w.toNat % 33554432) v) := by
  obtain ⟨hw, hv⟩ := xfer_fields w v
  have h1 : ¬(w.toNat % 2 ^ 25 % 4 ≠ 0 ∨ bits w.toNat 25 5 ≠ 0) := by
    rintro (h | h)
    · exact h hal
    · exact h hres
  have h2 : ¬xferFiltered s (.mgmt a) (w.toNat % 2 ^ 25) true = true := Bool.false_ne_true
  have h3 : ¬(!true) = true := by decide
  have hput : putXfer s (.mgmt a) (leBytes 4 w.toNat ++ leBytes 4 v.toNat) = grant (regWrite (if w.getLsbD 30 then
      regWrite s .lodge (w.toNat % 33554432 / 0x4000 * 0x4000 + 0xF0C) 0x5AFE else s) .lodge (w.toNat % 33554432) v) := by
    unfold putXfer
    dsimp only
    rw [hw, hv, bit_toNat, bit_toNat, hwr]
    exact (if_neg h1).trans ((if_neg h2).trans ((if_neg h3).trans (if_neg hun)))
  exact (if_pos hwr).trans ((regXfer_puts hready hfs hfree a w v).trans (next_grant hput))

/-- The requester has selected a register. -/
def Dict.select (src : Requester) (w : W32) (d : Dict) : Dict := { d with regSel := (d.regSel.filter fun e => e.1 ≠ src) ++ [(src, w)] }

omit hready hfs hfree in
theorem regSelOf_select (src : Requester) (w : W32) : regSelOf { s with dict := s.dict.select src w } src = w := by
  have hnone : (s.dict.regSel.filter fun e => e.1 ≠ src).find? (fun e => e.1 = src) = none := by
    refine List.find?_eq_none.2 fun x hx => ?_
    simpa using (List.mem_filter.1 hx).2
  have hfind : ((s.dict.regSel.filter fun e => e.1 ≠ src) ++ [(src, w)]).find? (fun e => e.1 = src) = some (src, w) := by
    rw [List.find?_append, hnone]
    simp
  unfold regSelOf
  show (match ((s.dict.regSel.filter fun e => e.1 ≠ src) ++ [(src, w)]).find? (fun e => e.1 = src) with
    | none => 0
    | some e => e.2) = w
  rw [hfind]

theorem regXferSelect_selects (a : Nat) (w : W32) (hal : w.toNat % 4 = 0) (hres : bits w.toNat 25 5 = 0) (hwr : w.getLsbD 31 = false) :
    exec (.regXferSelect (.mgmt a) w) s = .next { s with dict := s.dict.select (.mgmt a) w } := by
  obtain ⟨hw, hv⟩ := xfer_fields w 0
  have h1 : ¬(w.toNat % 2 ^ 25 % 4 ≠ 0 ∨ bits w.toNat 25 5 ≠ 0) := by
    rintro (h | h)
    · omega
    · exact h hres
  have h2 : ¬xferFiltered s (.mgmt a) (w.toNat % 2 ^ 25) false = true := Bool.false_ne_true
  have h3 : (!false) = true := rfl
  have h4 : ¬((0 : W32) ≠ 0) := not_not_intro rfl
  have hword : BitVec.ofNat 32 w.toNat = w := by rw [BitVec.ofNat_toNat, BitVec.setWidth_eq]
  have hput : putXfer s (.mgmt a) (leBytes 4 w.toNat ++ leBytes 4 (0 : W32).toNat) = grant { s with dict := s.dict.select (.mgmt a) w } := by
    unfold putXfer
    dsimp only
    rw [hw, hv, bit_toNat, hwr, hword]
    exact (if_neg h1).trans ((if_neg h2).trans ((if_pos h3).trans (if_neg h4)))
  have hnot : ¬w.getLsbD 31 = true := by rw [hwr]; decide
  exact (if_neg hnot).trans ((regXfer_puts hready hfs hfree a w 0).trans (next_grant hput))

end

theorem regXferRead_reads {t : State} {a : Nat} {w : W32} (hready : dictReady t = true) (hsel : regSelOf t (.mgmt a) = w) :
    exec (.regXferRead (.mgmt a)) t = .next { (regRead t .lodge (w.toNat % 33554432)).2 with
      outbox := (regRead t .lodge (w.toNat % 33554432)).2.outbox ++ [.regRead .lodge (regRead t .lodge (w.toNat % 33554432)).1] } := by
  have hc : ¬(!dictReady t || !reqOpen t (.mgmt a)) = true := by rw [hready]; exact Bool.false_ne_true
  have hx : exec (.regXferRead (.mgmt a)) t =
      .next (send (readXfer t (.mgmt a)).2 (.regRead .lodge (BitVec.ofNat 32 (field (readXfer t (.mgmt a)).1 4 4)))) := if_neg hc
  have hval := (xfer_fields (regSelOf t (.mgmt a)) (regRead t .lodge ((regSelOf t (.mgmt a)).toNat % 2 ^ 25)).1).2
  rw [hx, readXfer]
  dsimp only [regSrc]
  rw [hval, hsel]
  rfl

/-! ### The warm reset (R406, R407) -/

theorem beginWarm_resets (s : State) (cause : Nat) : (beginWarm s cause).pwr.bringStep = 3 ∧ (beginWarm s cause).pwr.seqRun = .warm ∧
    (beginWarm s cause).pwr.bringDone = false ∧ (beginWarm s cause).twin.st = .solo ∧ (beginWarm s cause).sites = [] ∧
    ∀ p, (getPcl (beginWarm s cause) p).st = .absent := by
  have hwarm (f : Nat → Parcel) (l : List Nat) (p : Nat) (hf : ∀ q, (f q).st = .absent) :
      (sget {} (l.foldl (fun m q => sset {} m q (f q)) []) p : Parcel).st = .absent := by
    refine List.foldlRecOn (motive := fun m : SMap Parcel => (sget {} m p).st = .absent) l _ rfl fun m hm q _ => ?_
    rw [sget_sset]
    split
    · exact hf q
    · exact hm
  unfold beginWarm
  dsimp only
  generalize setTwin _ _ = u
  refine ⟨rfl, rfl, rfl, rfl, rfl, fun p => ?_⟩
  exact hwarm (fun q => (getPcl u q).warm) _ p fun _ => rfl

theorem modReset_resets {s : State} (hready : dictReady s = true) (hfree : warmFree s = true) (hno : Unopened s 0x4020) :
    exec (.modReset 0x7E5E) s = .next (beginWarm s 3) := by
  have hfind : findObj 0x4020 0 = .ok ⟨0x4020, 0, 0, .fixed 2, .wo, .mgmt, .none⟩ := rfl
  have hx := mgmtRow_puts (data := leBytes 2 (0x7E5E : BitVec 16).toNat) hready (.inr rfl) hno hfind rfl rfl
  have hnot : ¬(!warmFree s) = true := by rw [hfree]; decide
  have hput : putModReset s 0x7E5E = grant (beginWarm s 3) := if_neg hnot
  exact hx.trans (next_grant hput)

/-! ### An object without a row of its own (R354, R357) -/

theorem objectWrite_acts {src : Requester} {idx sub : Nat} {d : List Byte} {s : State} {r : ObjRow} (hready : dictReady s = true)
    (hopen : reqOpen s src = true) (hfind : findObj idx sub = .ok r) (hro : r.acc ≠ .ro) (hconst : r.acc ≠ .const)
    (hscope : scopeOk s src r idx sub = true) (hsize : sizeOk r.typ d = true) (hfs : s.pwr.failStopped = false) :
    (sessionBusy s src idx sub = true → exec (.objectWrite src idx sub d) s = .next s) ∧
    (sessionBusy s src idx sub = false → exec (.objectWrite src idx sub d) s =
      .next (putObj { s with dict := { s.dict with sessions := segDrop s.dict.sessions src idx sub } } src r.idx (objKey idx).2 sub d).2) := by
  refine ⟨fun hbusy => ?_, fun hbusy => ?_⟩
  · have hc : (!dictReady s || !reqOpen s src || sessionBusy s src idx sub) = true := by rw [hbusy, Bool.or_true]
    exact if_pos hc
  · have hc : ¬(!dictReady s || !reqOpen s src || sessionBusy s src idx sub) = true := by rw [hready, hopen, hbusy]; decide
    have hacc : (decide (r.acc = .ro) || decide (r.acc = .const)) = false := by rw [decide_eq_false hro, decide_eq_false hconst]; rfl
    have hsc : scopeOk { s with dict := { s.dict with sessions := segDrop s.dict.sessions src idx sub } } src r idx sub = true := hscope
    have hwrite : writeObj { s with dict := { s.dict with sessions := segDrop s.dict.sessions src idx sub } } src r idx sub d false =
        putObj { s with dict := { s.dict with sessions := segDrop s.dict.sessions src idx sub } } src r.idx (objKey idx).2 sub d := by
      generalize segDrop s.dict.sessions src idx sub = l at hsc
      unfold writeObj
      dsimp only
      rw [hsc, hacc, hsize, hfs, Bool.and_false]
      rfl
    show objRow src idx sub d s = _
    unfold objRow
    rw [if_neg hc, hfind]
    exact congrArg (fun a : Ack => (.next a.2 : Out)) hwrite

/-- Settles O54. -/
theorem objectRowsDo : Obligations.ObjectRowsDo := by
  refine ⟨fun s hready hfs hno => ?_, fun l r s hrun hl hup => snapshotComplete_completes hrun hl hup,
    fun s hready hfree hno => ⟨_, modReset_resets hready hfree (hno.unopened (by simp)), beginWarm_resets s 3⟩,
    fun src idx sub d s r hready hopen hfind hro hconst hscope hsize hfs =>
      objectWrite_acts hready hopen hfind hro hconst hscope hsize hfs⟩
  have hxfer : Unopened s 0x7010 := hno.unopened (by simp)
  refine ⟨?_, ?_, ?_, ?_, ?_, ?_, ?_, ?_, ?_, ?_⟩
  · exact incAck_acks hready hfs (hno.unopened (by simp))
  · exact fun cls h1 h2 => incOvf_clears hready hfs (hno.unopened (by simp)) h1 h2
  · exact softClear_sets hready hfs (hno.unopened (by simp))
  · intro h v hh h4 h8
    exact ⟨_, clkHalf_puts hready hfs (hno.unopened (by simp)) hh h4 h8, switchHalf_switches s h v.toNat h4⟩
  · exact fun v hv => alertClr_clears hready hfs (hno.unopened (by simp)) hv
  · exact fun v hv => plcaNode_sets hready hfs (hno.unopened (by simp)) hv
  · exact fun v hv hlt hrun => snapAll_starts hready hfs hv hlt hrun (hno.unopened (by simp))
  · exact fun p v hv hlt hrun hp => snapPcl_starts hready hfs hv hlt hrun (hno.unopened (by simp)) hp
  · exact fun a w v => regXferWrite_writes hready hfs hxfer a w v
  · intro a w hal hres hwr
    exact ⟨_, regXferSelect_selects hready hfs hxfer a w hal hres hwr, regSelOf_select .., rfl,
      regXferRead_reads hready (regSelOf_select ..)⟩

end Sys2Proof.Machine
end

section
/-!
PROOFS. Uploads, the choice of a slot, the SVN burn, attestation answers and the boot ROM (R416, R417, R419, R420, R422,
R426 to R430).
-/

namespace Sys2Proof.Machine

/-! ### Updates (R416, R417, R422) -/

section
variable (s : State) (i : Nat) (b : List Byte) (v : Byte)

theorem slotOf_setSlot : slotOf (setSlot s i b) i = b := by
  unfold slotOf setSlot
  by_cases h : i = 0
  · rw [if_pos h, if_pos h]
  · rw [if_neg h, if_neg h]

theorem slots_setStat : (setStat s i v).firm.slotA = s.firm.slotA ∧ (setStat s i v).firm.slotB = s.firm.slotB := by
  unfold setStat
  dsimp only
  split <;> exact ⟨rfl, rfl⟩

theorem slotOf_setStat (j : Nat) : slotOf (setStat s i v) j = slotOf s j := by
  unfold slotOf
  rw [(slots_setStat s i v).1, (slots_setStat s i v).2]

theorem slotRaw_setStat : slotRaw (setStat s i v) i = v := by
  unfold slotRaw setStat
  by_cases h : i = 0
  · rw [if_pos h, if_pos h]
  · rw [if_neg h, if_neg h]

theorem setStat_firm : setStat s i v = { s with firm := (setStat s i v).firm } := rfl

theorem setSlot_firm : setSlot s i b = { s with firm := (setSlot s i b).firm } := rfl

end

/-- What a bundle is verified against: the keys, their revocations, the SVN and the stepping. -/
structure SameTrust (s t : State) : Prop where
  keyHash : t.firm.keyHash = s.firm.keyHash
  revoked : t.firm.revoked = s.firm.revoked
  svn : t.firm.svn = s.firm.svn
  stepping : t.firm.stepping = s.firm.stepping
  active : t.firm.active = s.firm.active

theorem sameTrust_setStat (s : State) (i : Nat) (v : Byte) : SameTrust s (setStat s i v) := by
  unfold setStat
  constructor <;> dsimp only <;> split <;> rfl

theorem sameTrust_setSlot (s : State) (i : Nat) (b : List Byte) : SameTrust s (setSlot s i b) := by
  unfold setSlot
  constructor <;> dsimp only <;> split <;> rfl

theorem SameTrust.trans {s t u : State} (h : SameTrust s t) (k : SameTrust t u) : SameTrust s u :=
  ⟨k.keyHash.trans h.keyHash, k.revoked.trans h.revoked, k.svn.trans h.svn, k.stepping.trans h.stepping, k.active.trans h.active⟩

theorem SameTrust.bundleOk {s t : State} (h : SameTrust s t) (b : List Byte) : Machine.bundleOk t b = Machine.bundleOk s b := by
  unfold Machine.bundleOk bootOk headerOk
  rw [h.keyHash, h.revoked, h.svn, h.stepping]

theorem dictReady_parts {s : State} (h : dictReady s = true) : s.pwr.lodgeUp = true ∧ s.pwr.dictUp = true ∧ s.pwr.recovery = false := by
  simpa [dictReady, and_assoc] using h

section
variable {s : State} {b : List Byte} (hready : dictReady s = true) (hno : Unopened s 0x8000)
include hready

theorem uploadSlot_open : uploadSlot (openUpload s) = uploadSlot s := by
  obtain ⟨-, -, hrec⟩ := dictReady_parts hready
  have hr : (openUpload s).pwr.recovery = false := hrec
  have ht : SameTrust s (openUpload s) := (sameTrust_setSlot ..).trans (sameTrust_setStat ..)
  unfold uploadSlot
  rw [hr, hrec, ht.active]

include hno

theorem fwUpload_closes : exec (.fwUpload (uploadSlot s) b) s = .next (closeUpload (openUpload s) b).2 := by
  have hses : (s.dict.sessions.any fun x => x.idx = 0x8000) = false := List.any_eq_false.2 fun x hx => by simp [hno x hx]
  refine if_pos ?_
  rw [hready, hses, decide_eq_true (rfl : uploadSlot s = uploadSlot s)]
  rfl

theorem fwUpload_valid (hok : bundleOk s b = true) : ∃ t, exec (.fwUpload (uploadSlot s) b) s = .next t ∧ slotOf t (uploadSlot s) = b ∧
    slotRaw t (uploadSlot s) = 1 ∧ t = { s with firm := t.firm } := by
  obtain ⟨-, -, hrec⟩ := dictReady_parts hready
  have ht : SameTrust s (openUpload s) := (sameTrust_setSlot ..).trans (sameTrust_setStat ..)
  have hok' : bundleOk (openUpload s) b = true := (ht.bundleOk b).trans hok
  have hr : ¬(openUpload s).pwr.recovery = true := fun h => Bool.false_ne_true (hrec.symm.trans h)
  have hclose : closeUpload (openUpload s) b = grant (setStat (setSlot (openUpload s) (uploadSlot s) b) (uploadSlot s) 1) := by
    unfold closeUpload
    rw [uploadSlot_open hready, if_pos hok']
    exact congrArg grant (if_neg hr)
  refine ⟨_, (fwUpload_closes hready hno).trans (next_grant hclose), ?_, slotRaw_setStat .., rfl⟩
  rw [slotOf_setStat, slotOf_setSlot]

theorem fwUpload_invalid (hok : bundleOk s b = false) : ∃ t, exec (.fwUpload (uploadSlot s) b) s = .next t ∧ slotOf t (uploadSlot s) = b ∧
    slotRaw t (uploadSlot s) = 2 ∧ t.firm.active = s.firm.active := by
  obtain ⟨-, -, hrec⟩ := dictReady_parts hready
  have ht : SameTrust s (openUpload s) := (sameTrust_setSlot ..).trans (sameTrust_setStat ..)
  have hok' : ¬bundleOk (openUpload s) b = true := fun h => Bool.false_ne_true (hok.symm.trans ((ht.bundleOk b).symm.trans h))
  have hr : ¬(openUpload s).pwr.recovery = true := fun h => Bool.false_ne_true (hrec.symm.trans h)
  have hclose : (closeUpload (openUpload s) b).2 = logInc (setStat (setSlot (openUpload s) (uploadSlot s) b) (uploadSlot s) 2) { cls := 0x73 } := by
    unfold closeUpload
    rw [uploadSlot_open hready, if_neg hok']
    exact if_neg hr
  have hx := fwUpload_closes hready hno (b := b)
  rw [hclose] at hx
  obtain ⟨r, f, d, hlog⟩ := logInc_eq (setStat (setSlot (openUpload s) (uploadSlot s) b) (uploadSlot s) 2) { cls := 0x73 }
  rw [hlog] at hx
  have hslot : slotOf (setStat (setSlot (openUpload s) (uploadSlot s) b) (uploadSlot s) 2) (uploadSlot s) = b := by
    rw [slotOf_setStat, slotOf_setSlot]
  have hraw := slotRaw_setStat (setSlot (openUpload s) (uploadSlot s) b) (uploadSlot s) 2
  have hact := (ht.trans ((sameTrust_setSlot (openUpload s) (uploadSlot s) b).trans (sameTrust_setStat _ (uploadSlot s) 2))).active
  generalize setStat (setSlot (openUpload s) (uploadSlot s) b) (uploadSlot s) 2 = u at hx hslot hraw hact
  exact ⟨_, hx, hslot, hraw, hact⟩

end

theorem fwNext_takes {s : State} {v : Byte} (hready : dictReady s = true) (hno : Unopened s 0x8002) (h2 : v.toNat < 2)
    (hst : slotStat s v.toNat = 1) : exec (.fwNext v) s = .next { s with firm := { s.firm with next := v } } := by
  have hfind : findObj 0x8002 0 = .ok ⟨0x8002, 0, 0, .fixed 1, .rw, .mgmt, .none⟩ := rfl
  have hx := mgmtRow_puts (data := [v]) hready (.inr rfl) hno hfind rfl rfl
  have hn : leNat [v] = v.toNat := by simp [leNat]
  have hput : putObj s (.mgmt 0) 0x8002 (objKey 0x8002).2 0 [v] = putFwNext s (leNat [v]) := rfl
  have hc : ¬(2 ≤ v.toNat ∨ slotStat s v.toNat ≠ 1) := by
    rintro (h | h)
    · omega
    · exact h hst
  have hbyte : BitVec.ofNat 8 v.toNat = v := by rw [BitVec.ofNat_toNat, BitVec.setWidth_eq]
  refine hx.trans (next_grant ?_)
  rw [hput, hn, putFwNext, if_neg hc, hbyte]

theorem fwSvnBurn_burns {s : State} {v : Byte} (hready : dictReady s = true) (hfs : s.pwr.failStopped = false) (hno : Unopened s 0x8004)
    (hsvn : v.toNat = bunSvn (running s)) (hlt : s.firm.svn.toNat < v.toNat) : ∃ t, exec (.fwSvnBurn v) s = .next t ∧
      t.firm = { s.firm with svn := v, revoked := s.firm.revoked ||| BitVec.ofNat 8 (bunRevoke (running s)) } := by
  have hfind : findObj 0x8004 0 = .ok ⟨0x8004, 0, 0, .fixed 1, .wo, .mgmt, .none⟩ := rfl
  have hx := mgmtRow_puts (data := [v]) hready (.inl hfs) hno hfind rfl rfl
  have hn : leNat [v] = v.toNat := by simp [leNat]
  have hput : putObj s (.mgmt 0) 0x8004 (objKey 0x8004).2 0 [v] = putSvnBurn s (leNat [v]) := rfl
  have hc : ¬(v.toNat ≠ bunSvn (running s) ∨ v.toNat ≤ s.firm.svn.toNat) := by
    rintro (h | h)
    · exact h hsvn
    · omega
  have hbyte : BitVec.ofNat 8 v.toNat = v := by rw [BitVec.ofNat_toNat, BitVec.setWidth_eq]
  have hburn : putSvnBurn s v.toNat = grant (logInc { s with firm := { s.firm with
      svn := v, revoked := s.firm.revoked ||| BitVec.ofNat 8 (bunRevoke (running s)) } } { cls := 0x74 }) := by
    rw [putSvnBurn, if_neg hc, hbyte]
  rw [hn, hburn] at hput
  obtain ⟨r, f, d, hlog⟩ := logInc_eq { s with firm := { s.firm with
    svn := v, revoked := s.firm.revoked ||| BitVec.ofNat 8 (bunRevoke (running s)) } } { cls := 0x74 }
  refine ⟨_, hx.trans (next_grant hput), ?_⟩
  rw [hlog]

/-! ### SPDM and measurements (R426 to R430) -/

/-- A requester of the management port that comes first stays among those kept. -/
theorem spdmTrim_first (a : Nat) (t r : List Byte) (l : List Spdm) :
    (spdmTrim ({ src := .mgmt a, transcript := t, response := r } :: l)).find? (fun x => x.src = .mgmt a) =
      some { src := .mgmt a, transcript := t, response := r } := by
  unfold spdmTrim
  dsimp only
  rw [List.filter_cons_of_pos rfl, List.take_succ_cons, List.cons_append, List.find?_cons_of_pos (by simp)]

section
variable {s : State} {a : Nat} (hready : dictReady s = true) (hfs : s.pwr.failStopped = false)
include hready hfs

theorem spdmReq_answers (hno : Unopened s 0x8020) (req : List Byte) : ∃ t, exec (.spdmReq (.mgmt a) req) s = .next t ∧
    spdmRsp t (.mgmt a) = (spdmAnswer s (.mgmt a) req).2 ∧ t = { s with firm := t.firm } := by
  have hfind : findObj 0x8020 0 = .ok ⟨0x8020, 0, 0, .domain, .wo, .host, .none⟩ := rfl
  have hx := (objRow_writes (src := .mgmt a) (data := req) hready rfl hno hfind).trans
    (congrArg (fun x : Ack => (.next x.2 : Out)) (writeObj_mgmt a rfl rfl (.inl hfs)))
  have hput : putObj s (.mgmt a) 0x8020 (objKey 0x8020).2 0 req = putSpdm s (.mgmt a) req := rfl
  refine ⟨_, hx.trans (congrArg (fun x : Ack => (.next x.2 : Out)) hput), ?_, rfl⟩
  generalize hans : spdmAnswer s (.mgmt a) req = ans
  have hfirst := spdmTrim_first a ans.1 ans.2 (s.firm.spdm.filter fun x => x.src ≠ .mgmt a)
  unfold spdmRsp spdmOf putSpdm grant
  rw [hans]
  dsimp only
  rw [hfirst]

theorem measNonce_signs (hno : Unopened s 0x8030) {nonce : List Byte} (hlen : nonce.length = 32) :
    ∃ t, exec (.measNonce (.mgmt a) nonce) s = .next t ∧ measOf t (.mgmt a) = measObject s nonce ∧ t = { s with firm := t.firm } := by
  have hfind : findObj 0x8030 0 = .ok ⟨0x8030, 0, 0, .fixed 32, .wo, .host, .none⟩ := rfl
  have hx := (objRow_writes (src := .mgmt a) (data := nonce) hready rfl hno hfind).trans
    (congrArg (fun x : Ack => (.next x.2 : Out)) (writeObj_mgmt a rfl (decide_eq_true hlen) (.inl hfs)))
  have hput : putObj s (.mgmt a) 0x8030 (objKey 0x8030).2 0 nonce = putNonce s (.mgmt a) nonce := rfl
  have hput' : putNonce s (.mgmt a) nonce = grant { s with firm := { s.firm with
      meas := (.mgmt a, measObject s nonce) :: s.firm.meas.filter fun x => x.1 ≠ .mgmt a } } := if_neg (not_not_intro hlen)
  refine ⟨_, hx.trans (next_grant (hput.trans hput')), ?_, rfl⟩
  generalize measObject s nonce = o
  unfold measOf
  dsimp only
  rw [List.find?_cons_of_pos (by simp)]

end

/-! ### The boot ROM (R419, R420) -/

theorem active_startLodge (s : State) {i : Nat} (h : i < 2) : (startLodge s i).firm.active.toNat = i := by
  show (BitVec.ofNat 8 i).toNat = i
  rw [BitVec.toNat_ofNat]
  omega

theorem bootRomVerify_preferred {s : State} (h2 : atStep2 s = true) (hok : bootOk s (slotOf s (if s.firm.next = 1 then 1 else 0)) = true) :
    ∃ t, exec .bootRomVerify s = .next t ∧ t.firm.active.toNat = (if s.firm.next = 1 then 1 else 0) ∧ t.pwr.bringStep = 3 ∧
      t = { s with firm := t.firm, pwr := { s.pwr with bringStep := 3, recovery := false } } := by
  have hc : ¬(!atStep2 s) = true := by rw [h2]; decide
  have hx : exec .bootRomVerify s = .next (startLodge s (if s.firm.next = 1 then 1 else 0)) := (if_neg hc).trans (if_pos hok)
  exact ⟨_, hx, active_startLodge s (by split <;> decide), rfl, rfl⟩

theorem bootRomVerify_other {s : State} (h2 : atStep2 s = true) (hbad : bootOk s (slotOf s (if s.firm.next = 1 then 1 else 0)) = false)
    (hok : bootOk s (slotOf s (1 - if s.firm.next = 1 then 1 else 0)) = true) :
    ∃ t, exec .bootRomVerify s = .next t ∧ t.firm.active.toNat = (1 - if s.firm.next = 1 then 1 else 0) ∧ t.pwr.bringStep = 3 ∧
      slotRaw t (if s.firm.next = 1 then 1 else 0) = 2 := by
  have hc : ¬(!atStep2 s) = true := by rw [h2]; decide
  have hnot : ¬bootOk s (slotOf s (if s.firm.next = 1 then 1 else 0)) = true := fun h => Bool.false_ne_true (hbad.symm.trans h)
  have hx : exec .bootRomVerify s = .next (startLodge (bootFail s (if s.firm.next = 1 then 1 else 0)) (1 - if s.firm.next = 1 then 1 else 0)) :=
    (if_neg hc).trans ((if_neg hnot).trans (if_pos hok))
  have hraw (u : State) (i j : Nat) : slotRaw (startLodge u j) i = slotRaw u i := rfl
  have hfail (u : State) (i : Nat) : slotRaw (bootFail u i) i = 2 := slotRaw_setStat u i 2
  refine ⟨_, hx, active_startLodge _ (by split <;> decide), rfl, ?_⟩
  rw [hraw, hfail]

theorem recovery_enters {s : State} (h2 : atStep2 s = true) (ha : bootOk s s.firm.slotA = false) (hb : bootOk s s.firm.slotB = false) :
    ∃ t, exec .recovery s = .next t ∧ t.pwr.recovery = true ∧ t.pwr.alert.getLsbD 5 = true := by
  have hx : exec .recovery s = .next (raiseAlert { s with pwr := { s.pwr with recovery := true } } 5) := by
    refine if_pos ?_
    rw [h2, ha, hb]
    rfl
  rw [raiseAlert_eq] at hx
  refine ⟨_, hx, rfl, ?_⟩
  show (s.pwr.alert ||| BitVec.ofNat 32 (2 ^ 5)).getLsbD 5 = true
  rw [BitVec.getLsbD_or]
  simp

/-- Settles O55. -/
theorem firmwareRowsDo : Obligations.FirmwareRowsDo := by
  refine ⟨fun b s hready hno => ?_, fun v s hready hno h2 hst => ?_, fun v s hready hfs hno hsvn hlt => ?_, fun a req s hready hfs hno => ?_,
    fun a nonce s hready hfs hno hlen => ?_, fun s h2 => ⟨?_, ?_, ?_⟩⟩
  · have hfree : Unopened s 0x8000 := hno.unopened (by simp)
    exact ⟨fwUpload_valid hready hfree, fwUpload_invalid hready hfree⟩
  · exact fwNext_takes hready (hno.unopened (by simp)) h2 hst
  · exact fwSvnBurn_burns hready hfs (hno.unopened (by simp)) hsvn hlt
  · exact spdmReq_answers hready hfs (hno.unopened (by simp)) req
  · exact measNonce_signs hready hfs (hno.unopened (by simp)) hlen
  · exact bootRomVerify_preferred h2
  · exact bootRomVerify_other h2
  · exact recovery_enters h2

end Sys2Proof.Machine
end

section
/-!
PROOFS. Input power, discrete inputs, temperature and clocks (R398 to R406, R411, R414, R437).
-/

namespace Sys2Proof.Machine

/-! ### What incidents, alerts and messages to the peer leave -/

/-- Only messages, registers, the twin's state, the dictionary and the incident log have changed. -/
structure Told (s t : State) : Prop where
  state : t = { s with outbox := t.outbox, regs := t.regs, twin := t.twin, dict := t.dict, repair := t.repair, free := t.free }

/-- No memory has changed, and nothing of power, inputs and bring-up. -/
structure Calm (s t : State) : Prop where
  memory : SameMemory s t
  pwr : t.pwr = s.pwr

theorem Told.refl (s : State) : Told s s := ⟨rfl⟩

theorem Told.trans {s t u : State} (h : Told s t) (k : Told t u) : Told s u := ⟨by rw [k.state, h.state]⟩

theorem Calm.refl (s : State) : Calm s s := ⟨sameMemory_refl s, rfl⟩

theorem Calm.trans {s t u : State} (h : Calm s t) (k : Calm t u) : Calm s u := ⟨h.memory.trans k.memory, k.pwr.trans h.pwr⟩

theorem Told.calm {s t : State} (h : Told s t) : Calm s t :=
  ⟨sameMemory_of (by rw [h.state]) (by rw [h.state]), by rw [h.state]⟩

theorem told_bump (s : State) (b i n : Nat) : Told s (bump s b i n) := ⟨rfl⟩

theorem told_send (s : State) (m : OutMsg) : Told s (send s m) := ⟨rfl⟩

theorem told_modTwin (s : State) (f : Twin → Twin) : Told s (modTwin s f) := ⟨rfl⟩

theorem told_logInc (s : State) (i : Inc) : Told s (logInc s i) := by
  obtain ⟨r, f, d, h⟩ := logInc_eq s i
  rw [h]
  exact ⟨rfl⟩

theorem told_setTwin (s : State) (st : TwinSt) : Told s (setTwin s st) := by
  rw [setTwin_eq]
  exact ⟨rfl⟩

theorem told_foldl {α : Type} {f : State → α → State} (h : ∀ s x, Told s (f s x)) (l : List α) (s : State) : Told s (l.foldl f s) :=
  foldl_keeps (fun u y hu => hu.trans (h u y)) l s (.refl s)

theorem told_putLane (s : State) (lane : Nat) (f : List Byte) : Told s (putLane s lane f) :=
  ((told_bump ..).trans (told_send ..)).trans (told_modTwin ..)

theorem told_sendAll (s : State) (type : Byte) (payload : List Byte) : Told s (sendAll s type payload) := by
  unfold sendAll
  split
  · exact told_foldl (fun u i => told_putLane ..) _ s
  · exact .refl s

theorem told_tellPeer (s : State) (cls cause : Nat) : Told s (tellPeer s cls cause) := by
  unfold tellPeer
  split
  · exact ((told_modTwin ..).trans (told_sendAll ..)).trans (told_setTwin ..)
  · exact .refl s

/-- The causes of an alert, with one more. -/
theorem raiseAlert_told (s : State) (b : Nat) :
    Told { s with pwr := { s.pwr with alert := s.pwr.alert ||| BitVec.ofNat 32 (2 ^ b) } } (raiseAlert s b) := by
  rw [raiseAlert_eq]
  exact ⟨rfl⟩

theorem calm_modPwr (s : State) (f : Power → Power) : SameMemory s (modPwr s f) := sameMemory_of rfl rfl

theorem memory_raiseAlert (s : State) (b : Nat) : SameMemory s (raiseAlert s b) := by
  rw [raiseAlert_eq]
  exact sameMemory_of rfl rfl

theorem pwr_raiseAlert (s : State) (b : Nat) : (raiseAlert s b).pwr = { s.pwr with alert := s.pwr.alert ||| BitVec.ofNat 32 (2 ^ b) } := by
  rw [raiseAlert_eq]

theorem alert_raised (a : W32) {b : Nat} (h : b < 32) : (a ||| BitVec.ofNat 32 (2 ^ b)).getLsbD b = true := by
  rw [BitVec.getLsbD_or, BitVec.getLsbD_ofNat, Nat.testBit_two_pow_self, decide_eq_true h]
  simp

theorem alert_dropped (a : W32) {b : Nat} (h : b < 32) : (a &&& ~~~BitVec.ofNat 32 (2 ^ b)).getLsbD b = false := by
  rw [BitVec.getLsbD_and, BitVec.getLsbD_not, BitVec.getLsbD_ofNat, Nat.testBit_two_pow_self, decide_eq_true h]
  simp

/-! ### Power events (R398, R399) -/

/-- A power event that counts. -/
structure Stopping (s t : State) : Prop where
  memory : SameMemory s t
  pwr : t.pwr = { s.pwr with alert := s.pwr.alert ||| BitVec.ofNat 32 (2 ^ 1), stopping := true, seqRun := .none }

theorem powerEventAt_stops {s : State} (hr : s.pwr.rails = true) (hs : s.pwr.stopping = false) (hh : s.pwr.halt = false) :
    Stopping s (powerEventAt s) := by
  have hc : ¬(!s.pwr.rails || s.pwr.stopping || s.pwr.halt) = true := by rw [hr, hs, hh]; decide
  have heq : powerEventAt s = beginStop (tellPeer (raiseAlert (logInc (bump s clkBlock 0 1) { cls := 0x50 }) 1) 0x50 1) := if_neg hc
  have h1 : Calm s (logInc (bump s clkBlock 0 1) { cls := 0x50 }) := ((told_bump ..).trans (told_logInc ..)).calm
  rw [heq]
  generalize logInc (bump s clkBlock 0 1) { cls := 0x50 } = u at h1
  have h2 : Calm (raiseAlert u 1) (tellPeer (raiseAlert u 1) 0x50 1) := (told_tellPeer ..).calm
  have hpwr := pwr_raiseAlert u 1
  have hmem := memory_raiseAlert u 1
  generalize raiseAlert u 1 = v at h2 hpwr hmem
  generalize tellPeer v 0x50 1 = x at h2
  refine ⟨((h1.memory.trans hmem).trans h2.memory).trans (calm_modPwr ..), ?_⟩
  show { x.pwr with stopping := true, seqRun := .none } = _
  rw [h2.pwr, hpwr, h1.pwr]

theorem alive_stopping {t : State} (h : t.pwr.stopping = true) : alive t = false := by
  unfold alive
  rw [h]
  simp

section
variable {s : State} {v : Nat} (hup : s.pwr.lodgeUp = true)
include hup

theorem powerEvent_stops (hv : v < 39000) (hr : s.pwr.rails = true) (hs : s.pwr.stopping = false) (hh : s.pwr.halt = false) :
    ∃ t, exec (.powerEvent v) s = .next t ∧ SameMemory s t ∧ t.pwr.stopping = true ∧ t.pwr.alert.getLsbD 1 = true ∧ alive t = false := by
  have hx : exec (.powerEvent v) s = .next (powerEventAt (modPwr (setVin s v) fun x => { x with inputOk := false })) := by
    refine if_pos ?_
    rw [hup, decide_eq_true hv]
    rfl
  have hstop := powerEventAt_stops (s := modPwr (setVin s v) fun x => { x with inputOk := false }) hr hs hh
  have h0 : SameMemory s (modPwr (setVin s v) fun x => { x with inputOk := false }) := sameMemory_of rfl rfl
  have hst : (powerEventAt (modPwr (setVin s v) fun x => { x with inputOk := false })).pwr.stopping = true := by rw [hstop.pwr]
  refine ⟨_, hx, h0.trans hstop.memory, hst, ?_, alive_stopping hst⟩
  rw [hstop.pwr]
  exact alert_raised _ (by decide)

theorem inputReady_ready (h40 : 40000 ≤ v) (h54 : v < 54000) :
    exec (.inputReady v) s = .next (modPwr (setVin s v) fun x => { x with inputOk := true }) := by
  refine if_pos ?_
  rw [hup, decide_eq_true h40, decide_eq_true h54]
  rfl

theorem overVoltageWarning_warns (hv : 50000 < v) (hw : s.pwr.ovWarn = false) : ∃ t, exec (.overVoltageWarning v) s = .next t ∧
    SameMemory s t ∧ t.pwr.ovWarn = true ∧ t.pwr.alert.getLsbD 4 = true := by
  have hc : ¬(!s.pwr.lodgeUp || decide (v ≤ 50000) || s.pwr.ovWarn) = true := by rw [hup, hw, decide_eq_false (by omega)]; decide
  have hlog : Calm (modPwr (setVin s v) fun x => { x with ovWarn := true })
      (logInc (modPwr (setVin s v) fun x => { x with ovWarn := true }) { cls := 0x51 }) := (told_logInc ..).calm
  have h0 : SameMemory s (modPwr (setVin s v) fun x => { x with ovWarn := true }) := sameMemory_of rfl rfl
  refine ⟨_, if_neg hc, (h0.trans hlog.memory).trans (memory_raiseAlert ..), ?_, ?_⟩
  · rw [pwr_raiseAlert, hlog.pwr]
    rfl
  · rw [pwr_raiseAlert]
    exact alert_raised _ (by decide)

theorem overVoltageClear_clears (hv : v < 49000) : ∃ t, exec (.overVoltageClear v) s = .next t ∧ SameMemory s t ∧ t.pwr.ovWarn = false ∧
    t.pwr.alert.getLsbD 4 = false := by
  have hc : ¬(!s.pwr.lodgeUp || decide (49000 ≤ v)) = true := by rw [hup, decide_eq_false (by omega)]; decide
  exact ⟨_, if_neg hc, sameMemory_of rfl rfl, rfl, alert_dropped _ (by decide)⟩

theorem overVoltageTrip_trips (hv : 54000 ≤ v) (hot : s.pwr.ovTrip = false) (hr : s.pwr.rails = true) (hs : s.pwr.stopping = false)
    (hh : s.pwr.halt = false) : ∃ t, exec (.overVoltageTrip v) s = .next t ∧ SameMemory s t ∧ t.pwr.ovTrip = true ∧ t.pwr.stopping = true := by
  have hc : ¬(!s.pwr.lodgeUp || decide (v < 54000) || s.pwr.ovTrip) = true := by rw [hup, hot, decide_eq_false (by omega)]; decide
  have hstop := powerEventAt_stops (s := modPwr (setVin s v) fun x => { x with inputOk := false }) hr hs hh
  have h0 : SameMemory s (modPwr (setVin s v) fun x => { x with inputOk := false }) := sameMemory_of rfl rfl
  have htrip : (modPwr (setVin s v) fun x => { x with inputOk := false }).pwr.ovTrip = true := decide_eq_true hv
  have hx : exec (.overVoltageTrip v) s = .next (logInc (powerEventAt (modPwr (setVin s v) fun x => { x with inputOk := false })) { cls := 0x52 }) :=
    if_neg hc
  generalize modPwr (setVin s v) (fun x => { x with inputOk := false }) = u at hstop h0 htrip hx
  have hlog : Calm (powerEventAt u) (logInc (powerEventAt u) { cls := 0x52 }) := (told_logInc ..).calm
  refine ⟨_, hx, (h0.trans hstop.memory).trans hlog.memory, ?_, ?_⟩
  · rw [hlog.pwr, hstop.pwr]
    exact htrip
  · rw [hlog.pwr, hstop.pwr]

theorem lodgeSupplyLoss_stops (hv : v < 30000) : ∃ t, exec (.lodgeSupplyLoss v) s = .next t ∧ t.pwr.lodgeUp = false ∧ t.sites = [] ∧
    t.pwr.bringDone = false ∧ t.repair.retired = s.repair.retired := by
  have hc : ¬(!s.pwr.lodgeUp || decide (30000 ≤ v)) = true := by rw [hup, decide_eq_false (by omega)]; decide
  refine ⟨_, if_neg hc, rfl, rfl, rfl, ?_⟩
  show (if _ then _ else s : State).repair.retired = _
  split <;> rfl

end

theorem lodgeSupplyUp_starts {s : State} {v : Nat} (hup : s.pwr.lodgeUp = false) (hv : 30000 ≤ v) : ∃ t, exec (.lodgeSupplyUp v) s = .next t ∧
    t.pwr.lodgeUp = true ∧ t.pwr.vin = v ∧ t.pwr.bringStep = 2 ∧ t.pwr.seqRun = .powerOn ∧ t.sites = [] ∧
    t.firm.bootCnt = s.firm.bootCnt + 1 ∧ t.far = { initMode := t.far.initMode } ∧ t.place.reloc = s.place.reloc := by
  have hc : ¬(s.pwr.lodgeUp || decide (v < 30000)) = true := by rw [hup, decide_eq_false (by omega)]; decide
  exact ⟨_, if_neg hc, rfl, rfl, rfl, rfl, rfl, rfl, rfl, rfl⟩

/-! ### The stop (Table 14-3) -/

theorem hostPortsPoison_poisons {s : State} (hs : s.pwr.stopping = true) (hp : s.pwr.poison = false) :
    exec .hostPortsPoison s = .next (pumpHosts { s with pwr := { s.pwr with poison := true } }) := by
  refine if_pos ?_
  rw [hs, hp]
  rfl

/-- Every link has fallen. -/
def linksDown (s : State) : State := (List.range 4).foldl linkFalls s

theorem linksDown_leaves (s : State) : SameMemory s (linksDown s) ∧ (linksDown s).pwr = s.pwr ∧
    ∀ k, k < 4 → (getPort (linksDown s) k).linkUp = false := by
  have hkeep : SameMemory s (linksDown s) ∧ (linksDown s).pwr = s.pwr :=
    foldl_keeps (P := fun u => SameMemory s u ∧ u.pwr = s.pwr) (fun u k hu => ⟨hu.1.trans (memory_modPort ..), hu.2⟩) _ s ⟨sameMemory_refl s, rfl⟩
  refine ⟨hkeep.1, hkeep.2, fun k hk => ?_⟩
  refine foldl_holds (P := fun u => (getPort u k).linkUp = false) (x := k) (fun u => ?_) (fun u j hu => ?_) _ (List.mem_range.2 hk) s
  · rw [linkFalls, getPort_modPort_same]
  · rw [linkFalls, getPort_modPort]
    split
    · rfl
    · exact hu

theorem lodge_alone (d : Nat) : lodgeDomain.getLsbD d = decide (d = 58) := by
  have h : lodgeDomain = BitVec.twoPow 60 58 := by decide
  rw [h, BitVec.getLsbD_twoPow]
  by_cases hd : d = 58
  · simp [hd]
  · simp [hd, Ne.symm hd]

theorem powerHalt_halts {s : State} (hs : s.pwr.stopping = true) : ∃ t, exec .powerHalt s = .next t ∧ SameMemory s t ∧ t.pwr.halt = true ∧
    t.pwr.stopping = false ∧ (∀ d, domainRuns t d = (domainRuns s d && decide (d = 58))) ∧ t.gate.writes = [] ∧
    (t.pwr.rails = (s.pwr.rails && !s.pwr.ovTrip)) ∧ ∀ k, k < 4 → (getPort t k).linkUp = false := by
  have hc : ¬(!s.pwr.stopping) = true := by rw [hs]; decide
  have hx : exec .powerHalt s = .next (modPwr { linksDown s with gate := { (linksDown s).gate with writes := [] } } fun x =>
      { x with stopping := false, poison := true, halt := true, locked := x.locked &&& lodgeDomain, rails := x.rails && !x.ovTrip }) := if_neg hc
  obtain ⟨hm, hp, hl⟩ := linksDown_leaves s
  generalize linksDown s = u at hx hm hp hl
  refine ⟨_, hx, hm.trans (sameMemory_of rfl rfl), rfl, rfl, fun d => ?_, rfl, ?_, hl⟩
  · show (u.pwr.locked &&& lodgeDomain).getLsbD d = (s.pwr.locked.getLsbD d && decide (d = 58))
    rw [BitVec.getLsbD_and, lodge_alone, hp]
  · show (u.pwr.rails && !u.pwr.ovTrip) = _
    rw [hp]

/-- The milliseconds at least 5 degrees below TJ_WARN, after a sample. -/
def coolTime (s : State) (tj : Int) : Nat := if tj ≤ tjWarn s - 5000 then s.pwr.coolMs + 1 else 0

/-- The readings of a sample. -/
def sampled (s : State) (tj : Int) (iin pin : Nat) : State :=
  modPwr s fun x => { x with tj := tj, iin := iin, pin := pin, coolMs := min (coolTime s tj) 1000 }

/-! ### Discrete inputs (R401 to R405) -/

theorem pinRow_moves {s : State} {p : Pin} {now asserted : Bool} (hup : s.pwr.lodgeUp = true) (hne : now = !asserted)
    (hlock : p ∉ s.pwr.lockouts) : pinRow s p now asserted = .next (setLevel s p asserted) := by
  have hc : ¬(!s.pwr.lodgeUp || now == asserted || lockedOut s p) = true := by
    have hl : lockedOut s p = false := decide_eq_false hlock
    rw [hup, hne, hl]
    cases asserted <;> decide
  exact if_neg hc

theorem resetPin_beginWarm (s : State) (cause : Nat) : (beginWarm s cause).pwr.resetPin = s.pwr.resetPin := by
  have htell : (bump (tellPeer s 0x00 cause) clkBlock 2 1).pwr = s.pwr := ((told_tellPeer ..).trans (told_bump ..)).calm.pwr
  unfold beginWarm
  dsimp only
  generalize bump (tellPeer s 0x00 cause) clkBlock 2 1 = u at htell
  have hpcl : ((List.range 8).foldl (fun s p => setPcl s p .absent) u).pwr = u.pwr := by
    refine foldl_keeps (P := fun v => v.pwr = u.pwr) (fun v p hv => ?_) _ u rfl
    rcases setPcl_eq v p .absent with h | ⟨-, h⟩
    · rw [h]
      exact hv
    · rw [h]
      exact hv
  generalize (List.range 8).foldl (fun s p => setPcl s p .absent) u = v at hpcl
  have hend : (endOpenHandling v).pwr = v.pwr := by
    unfold endOpenHandling
    exact foldl_keeps (f := endHandling) (P := fun x => x.pwr = v.pwr) (fun x c hx => hx) _ _ rfl
  generalize endOpenHandling v = x at hend
  rw [setTwin_eq]
  show x.pwr.resetPin = s.pwr.resetPin
  rw [hend, hpcl, htell]

section
variable {s : State} (hup : s.pwr.lodgeUp = true)
include hup

theorem resetN_asserts (hpin : s.pwr.resetPin = false) (hlock : Pin.resetN ∉ s.pwr.lockouts) : ∃ t, exec (.resetN true) s = .next t ∧
    t.pwr.resetPin = true ∧
    (warmFree s = true → t.pwr.bringStep = 3 ∧ t.pwr.seqRun = .warm ∧ t.sites = [] ∧ ∀ p, (getPcl t p).st = .absent) ∧
    (warmFree s = false → SameMemory s t ∧ t.pwr.seqRun = s.pwr.seqRun) := by
  have hx : exec (.resetN true) s = .next (levelReset s true) := pinRow_moves hup hpin hlock
  refine ⟨_, hx, ?_⟩
  cases hw : warmFree s with
  | true =>
    have hlevel : levelReset s true = beginWarm (modPwr s fun x => { x with resetPin := true, resetHeld := x.resetHeld && true }) 3 := if_pos hw
    obtain ⟨hstep, hseq, -, -, hsites, hpcl⟩ :=
      beginWarm_resets (modPwr s fun x => { x with resetPin := true, resetHeld := x.resetHeld && true }) 3
    rw [hlevel]
    exact ⟨resetPin_beginWarm .., fun _ => ⟨hstep, hseq, hsites, hpcl⟩, nofun⟩
  | false =>
    have hnot : ¬(true && warmFree (modPwr s fun x => { x with resetPin := true, resetHeld := x.resetHeld && true })) = true :=
      fun h => Bool.false_ne_true (hw.symm.trans h)
    have hlevel : levelReset s true = modPwr s fun x => { x with resetPin := true, resetHeld := x.resetHeld && true } := if_neg hnot
    rw [hlevel]
    exact ⟨rfl, nofun, fun _ => ⟨calm_modPwr .., rfl⟩⟩

theorem resetN_releases (hpin : s.pwr.resetPin = true) (hlock : Pin.resetN ∉ s.pwr.lockouts) :
    exec (.resetN false) s = .next { s with pwr := { s.pwr with resetPin := false, resetHeld := false } } := by
  have hlevel : levelReset s false = modPwr s fun x => { x with resetPin := false, resetHeld := x.resetHeld && false } := by
    unfold levelReset
    dsimp only
    rw [Bool.false_and]
    exact if_neg Bool.false_ne_true
  refine (pinRow_moves hup hpin hlock).trans (congrArg Host.Outcome.next (hlevel.trans ?_))
  simp only [modPwr, Bool.and_false]

theorem resetNHeld_reports (hpin : s.pwr.resetPin = true) (hheld : s.pwr.resetHeld = false) : ∃ t, exec .resetNHeld s = .next t ∧
    SameMemory s t ∧ t.pwr.resetHeld = true := by
  have hx : exec .resetNHeld s = .next (raiseAlert (logInc (modPwr s fun x => { x with resetHeld := true }) { cls := 0x54 }) 3) := by
    refine if_pos ?_
    rw [hup, hpin, hheld]
    rfl
  have hlog : Calm (modPwr s fun x => { x with resetHeld := true }) (logInc (modPwr s fun x => { x with resetHeld := true }) { cls := 0x54 }) :=
    (told_logInc ..).calm
  refine ⟨_, hx, ((calm_modPwr s _).trans hlog.memory).trans (memory_raiseAlert ..), ?_⟩
  rw [pwr_raiseAlert, hlog.pwr]
  rfl

end

/-- The module is to fail-stop: its memories stand, and of power only the stop, its class and the alert are new. -/
structure FailStops (s t : State) : Prop where
  memory : SameMemory s t
  pwr : t.pwr = { s.pwr with failStopped := true, failCls := t.pwr.failCls, alert := t.pwr.alert }

theorem failStop_pwr (s : State) (cls cause : Nat) : (failStop s cls cause).pwr =
    { s.pwr with failStopped := true, failCls := (failStop s cls cause).pwr.failCls, alert := (failStop s cls cause).pwr.alert } := by
  unfold failStop
  dsimp only
  split
  · rw [setTwin_eq, raiseAlert_eq]
  · rw [raiseAlert_eq]

theorem stopFor_stops (s : State) (i : Inc) (cause : Nat) : FailStops s (stopFor s i cause) := by
  have hlog : Calm s (logInc s { i with action := 5 }) := (told_logInc ..).calm
  unfold stopFor
  generalize logInc s { i with action := 5 } = u at hlog
  refine ⟨hlog.memory.trans (steady_failStop ..).memory, ?_⟩
  rw [← hlog.pwr]
  exact failStop_pwr ..

section
variable {s : State} (hup : s.pwr.lodgeUp = true)
include hup

theorem fenceN_asserts (hpin : s.pwr.fencePin = false) (hlock : Pin.fenceN ∉ s.pwr.lockouts) : ∃ t, exec .fenceN s = .next t ∧
    SameMemory s t ∧ t.pwr.fencePin = true ∧ (s.pwr.bringDone = true → t.pwr.failStopped = true) ∧
    (s.pwr.bringDone = false → t.pwr.failStopped = s.pwr.failStopped) := by
  have hx : exec .fenceN s = .next (levelFence s true) := pinRow_moves hup hpin hlock
  have hset : ¬(!true) = true := Bool.false_ne_true
  refine ⟨_, hx, ?_⟩
  cases hdone : s.pwr.bringDone with
  | true =>
    have hup' : (modPwr s fun x => { x with fencePin := true }).pwr.bringDone = true := hdone
    have hlevel : levelFence s true = stopFor (modPwr s fun x => { x with fencePin := true }) { cls := 0x58 } 4 := by
      unfold levelFence
      dsimp only
      rw [if_neg hset]
      exact if_pos hup'
    obtain ⟨hm, hp⟩ := stopFor_stops (modPwr s fun x => { x with fencePin := true }) { cls := 0x58 } 4
    rw [hlevel]
    refine ⟨(calm_modPwr s _).trans hm, ?_, fun _ => ?_, nofun⟩
    · rw [hp]
      rfl
    · rw [hp]
  | false =>
    have hnot : ¬(modPwr s fun x => { x with fencePin := true }).pwr.bringDone = true := fun h => Bool.false_ne_true (hdone.symm.trans h)
    have hlevel : levelFence s true = logInc (modPwr s fun x => { x with fencePin := true }) { cls := 0x58 } := by
      unfold levelFence
      dsimp only
      rw [if_neg hset]
      exact if_neg hnot
    have hlog : Calm (modPwr s fun x => { x with fencePin := true }) (logInc (modPwr s fun x => { x with fencePin := true }) { cls := 0x58 }) :=
      (told_logInc ..).calm
    rw [hlevel]
    refine ⟨(calm_modPwr s _).trans hlog.memory, ?_, nofun, fun _ => ?_⟩
    · rw [hlog.pwr]
      rfl
    · rw [hlog.pwr]
      rfl

theorem fenceN_releases (hpin : s.pwr.fencePin = true) (hlock : Pin.fenceN ∉ s.pwr.lockouts) :
    exec .fenceNRelease s = .next { s with pwr := { s.pwr with fencePin := false } } := pinRow_moves hup hpin hlock

theorem pwrWarnN_asserts (hpin : s.pwr.warnPin = false) (hlock : Pin.pwrWarnN ∉ s.pwr.lockouts) (hr : s.pwr.rails = true)
    (hs : s.pwr.stopping = false) (hh : s.pwr.halt = false) : ∃ t, exec .pwrWarnN s = .next t ∧ SameMemory s t ∧ t.pwr.warnPin = true ∧
    t.pwr.stopping = true := by
  have hx : exec .pwrWarnN s = .next (levelWarn s true) := pinRow_moves hup hpin hlock
  have hlevel : levelWarn s true = powerEventAt (modPwr s fun x => { x with warnPin := true }) := by
    unfold levelWarn
    exact if_pos rfl
  obtain ⟨hm, hp⟩ := powerEventAt_stops (s := modPwr s fun x => { x with warnPin := true }) hr hs hh
  rw [hlevel] at hx
  refine ⟨_, hx, (calm_modPwr s _).trans hm, ?_, ?_⟩
  · rw [hp]
    rfl
  · rw [hp]

theorem pwrWarnN_releases (hpin : s.pwr.warnPin = true) (hlock : Pin.pwrWarnN ∉ s.pwr.lockouts) :
    exec .pwrWarnNRelease s = .next { s with pwr := { s.pwr with warnPin := false } } := by
  have hlevel : levelWarn s false = modPwr s fun x => { x with warnPin := false } := by
    unfold levelWarn
    exact if_neg Bool.false_ne_true
  exact (pinRow_moves hup hpin hlock).trans (congrArg Host.Outcome.next hlevel)

theorem inputFlapping_locks {pin : Pin} (hok : pinOk pin = true) (hlock : pin ∉ s.pwr.lockouts) : ∃ t, exec (.inputFlapping pin) s = .next t ∧
    SameMemory s t ∧ t.pwr.lockouts = s.pwr.lockouts ++ [pin] ∧ t.pwr.alert.getLsbD 3 = true := by
  have hc : ¬(!s.pwr.lodgeUp || !pinOk pin || lockedOut s pin) = true := by
    have hl : lockedOut s pin = false := decide_eq_false hlock
    rw [hup, hok, hl]
    decide
  have hx : exec (.inputFlapping pin) s = .next (modPwr (raiseAlert (logInc (bump s clkBlock 1 1) { cls := 0x53 }) 3) fun x =>
      { x with lockouts := x.lockouts ++ [pin] }) := if_neg hc
  have hlog : Calm s (logInc (bump s clkBlock 1 1) { cls := 0x53 }) := ((told_bump ..).trans (told_logInc ..)).calm
  generalize logInc (bump s clkBlock 1 1) { cls := 0x53 } = u at hx hlog
  have hm := memory_raiseAlert u 3
  have hp := pwr_raiseAlert u 3
  generalize raiseAlert u 3 = v at hx hm hp
  refine ⟨_, hx, (hlog.memory.trans hm).trans (calm_modPwr ..), ?_, ?_⟩
  · show v.pwr.lockouts ++ [pin] = _
    rw [hp, hlog.pwr]
  · show v.pwr.alert.getLsbD 3 = true
    rw [hp]
    exact alert_raised _ (by decide)

theorem lockoutEnd_samples {pin : Pin} (a : Bool) (hlock : pin ∈ s.pwr.lockouts) : exec (.lockoutEnd pin a) s =
    .next (setLevel { s with pwr := { s.pwr with lockouts := s.pwr.lockouts.filter fun p => p ≠ pin } } pin a) := by
  have hc : ¬(!s.pwr.lodgeUp || !lockedOut s pin) = true := by
    have hl : lockedOut s pin = true := decide_eq_true hlock
    rw [hup, hl]
    decide
  exact if_neg hc

/-! ### Temperature (R411) -/

theorem temperatureSample_reads (tj : Int) (iin pin : Nat) : ∃ t, exec (.temperatureSample tj iin pin) s = .next t ∧ SameMemory s t ∧
    t.pwr.tj = tj ∧ t.pwr.iin = iin ∧ t.pwr.pin = pin ∧ (tjWarn s - 5000 < tj → t.pwr.coolMs = 0 ∧ t.pwr.thWarn = s.pwr.thWarn) := by
  have hc : ¬(!s.pwr.lodgeUp) = true := by rw [hup]; decide
  have hx : exec (.temperatureSample tj iin pin) s = if 1000 ≤ coolTime s tj then
      (.next (dropAlert (modPwr (sampled s tj iin pin) fun x => { x with thWarn := false }) 2) : Out)
      else .next (sampled s tj iin pin) := by
    show (if (!s.pwr.lodgeUp) = true then _ else _) = _
    rw [if_neg hc]
    rfl
  by_cases hlong : 1000 ≤ coolTime s tj
  · refine ⟨_, hx.trans (if_pos hlong), sameMemory_of rfl rfl, rfl, rfl, rfl, fun hwarm => ?_⟩
    have hzero : coolTime s tj = 0 := if_neg (not_le.2 hwarm)
    rw [hzero] at hlong
    exact absurd hlong (by decide)
  · refine ⟨_, hx.trans (if_neg hlong), sameMemory_of rfl rfl, rfl, rfl, rfl, fun hwarm => ⟨?_, rfl⟩⟩
    have hzero : coolTime s tj = 0 := if_neg (not_le.2 hwarm)
    show min (coolTime s tj) 1000 = 0
    rw [hzero]
    rfl

theorem temperatureWarning_warns (hw : s.pwr.thWarn = false) (htj : tjWarn s ≤ s.pwr.tj) : ∃ t, exec .temperatureWarning s = .next t ∧
    SameMemory s t ∧ t.pwr.thWarn = true ∧ t.pwr.alert.getLsbD 2 = true := by
  have hx : exec .temperatureWarning s = .next (raiseAlert (logInc (modPwr s fun x => { x with thWarn := true }) { cls := 0x56 }) 2) := by
    refine if_pos ?_
    rw [hup, hw, decide_eq_true htj]
    rfl
  have hlog : Calm (modPwr s fun x => { x with thWarn := true }) (logInc (modPwr s fun x => { x with thWarn := true }) { cls := 0x56 }) :=
    (told_logInc ..).calm
  refine ⟨_, hx, ((calm_modPwr s _).trans hlog.memory).trans (memory_raiseAlert ..), ?_, ?_⟩
  · rw [pwr_raiseAlert, hlog.pwr]
    rfl
  · rw [pwr_raiseAlert]
    exact alert_raised _ (by decide)

end

/-! ### Fail-stops that end the open steps (R301, R411, R414) -/

theorem Booked.calm {s t : State} (h : Booked s t) : Calm s t := ⟨h.memory, by rw [h.state]⟩

theorem OnlySites.calm {s t : State} (h : OnlySites s t) : Calm s t := ⟨h.memory, by rw [h.state]⟩

theorem calm_repair (s : State) (r : Repair) : Calm s { s with repair := r } := ⟨sameMemory_of rfl rfl, rfl⟩

theorem calm_foldl {α : Type} {f : State → α → State} (h : ∀ s x, Calm s (f s x)) (l : List α) (s : State) : Calm s (l.foldl f s) :=
  foldl_keeps (fun u y hu => hu.trans (h u y)) l s (.refl s)

theorem calm_endRecord (s : State) (p status : Nat) : Calm s (endRecord s p status) := by
  unfold endRecord
  split
  · exact .refl s
  · dsimp only
    refine Calm.trans ?_ (booked_emitRec ..).calm
    split
    · exact (booked_modWin ..).calm
    · exact .refl s

theorem calm_endStepHandling (s : State) (p : Nat) : Calm s (endStepHandling s p) := by
  unfold endStepHandling
  dsimp only
  exact (calm_repair s _).trans (calm_foldl (fun u e => calm_repair u _) _ _)

theorem calm_initialMark (s : State) (p : Nat) : Calm s (initialMark s p) := by
  have hshadow : Calm s (shadowBeacons s p) := ⟨sameMemory_of rfl rfl, rfl⟩
  have hclear := (clearCores_only (shadowBeacons s p) (pclLive s p)).calm
  have heq : initialMark s p = modPcl (forgetErrs ((pclLive s p).foldl (fun s c => modCore s c Site.clearStep) (shadowBeacons s p)) p) p
    Parcel.newStep := rfl
  rw [heq]
  generalize (pclLive s p).foldl (fun s c => modCore s c Site.clearStep) (shadowBeacons s p) = u at hclear
  have hforget : Calm u (forgetErrs u p) := (calm_repair u _).trans (forgetErrs_only u p).calm
  generalize forgetErrs u p = v at hforget
  exact ((hshadow.trans hclear).trans hforget).trans ⟨sameMemory_of rfl rfl, rfl⟩

theorem calm_endStep_failStop (s : State) (p : Nat) : Calm s (endStep s p .failStop) := by
  have h : endStep s p .failStop = initialMark (endStepHandling (endRecord s p (endStatus .failStop)) p) p := rfl
  rw [h]
  exact ((calm_endRecord ..).trans (calm_endStepHandling ..)).trans (calm_initialMark ..)

theorem calm_sendFailStop (s : State) : Calm s (if s.twin.failMsg.isSome then sendAll s 3 (failPayload s) else s) := by
  split
  · exact (told_sendAll ..).calm
  · exact .refl s

theorem calm_endOpenSteps (s : State) :
    Calm s ((List.range 8).foldl (fun s p => if (getPcl s p).st = .active then endStep s p .failStop else s) s) := by
  refine calm_foldl (fun u p => ?_) _ s
  split
  · exact calm_endStep_failStop ..
  · exact .refl u

theorem failStopNow_leaves (s : State) : SameMemory s (failStopNow s) ∧ (failStopNow s).pwr = { s.pwr with failCls := none } := by
  unfold failStopNow
  split
  next h => exact ⟨sameMemory_refl s, by rw [← h]⟩
  · have h0 : SameMemory s { s with pwr := { s.pwr with failCls := none } } := sameMemory_of rfl rfl
    have h := (calm_sendFailStop { s with pwr := { s.pwr with failCls := none } }).trans (calm_endOpenSteps _)
    exact ⟨h0.trans h.memory, h.pwr⟩

theorem thermalTrip_stops {s : State} (hup : s.pwr.lodgeUp = true) (htj : 115000 ≤ s.pwr.tj) (hr : s.pwr.rails = true)
    (hh : s.pwr.halt = false) (hs : s.pwr.stopping = false) : ∃ t, exec .thermalTrip s = .next t ∧ SameMemory s t ∧ t.pwr.thTrip = true ∧
    t.pwr.failStopped = true ∧ t.pwr.stopping = true := by
  have hx : exec .thermalTrip s = .next (beginStop (failStopNow (stopFor (modPwr s fun x => { x with thTrip := true }) { cls := 0x57 } 0))) := by
    refine if_pos ?_
    rw [hup, hr, hh, hs, decide_eq_true htj]
    rfl
  obtain ⟨hm, hp⟩ := stopFor_stops (modPwr s fun x => { x with thTrip := true }) { cls := 0x57 } 0
  obtain ⟨hm', hp'⟩ := failStopNow_leaves (stopFor (modPwr s fun x => { x with thTrip := true }) { cls := 0x57 } 0)
  generalize failStopNow (stopFor (modPwr s fun x => { x with thTrip := true }) { cls := 0x57 } 0) = u at hx hm' hp'
  have h0 := calm_modPwr s fun x => { x with thTrip := true }
  refine ⟨_, hx, ((h0.trans hm).trans hm').trans (calm_modPwr ..), ?_, ?_, rfl⟩
  · show u.pwr.thTrip = true
    rw [hp', hp]
    rfl
  · show u.pwr.failStopped = true
    rw [hp', hp]

/-- A bit of a word is cleared. -/
theorem getLsbD_cleared {w : Nat} (v : BitVec w) {d : Nat} (hd : d < w) (j : Nat) :
    (v &&& ~~~(2 ^ d)).getLsbD j = (v.getLsbD j && !decide (j = d)) := by
  have h2 : (2 : BitVec w) ^ d = BitVec.twoPow w d := by
    refine BitVec.eq_of_toNat_eq ?_
    rw [BitVec.toNat_twoPow, BitVec.toNat_pow]
    show (2 % 2 ^ w) ^ d % 2 ^ w = _
    rw [← Nat.pow_mod]
  rw [h2, BitVec.getLsbD_and, BitVec.getLsbD_not, BitVec.getLsbD_twoPow]
  by_cases hj : j < w
  · simp [hj, hd, eq_comm]
  · rw [BitVec.getLsbD_of_ge _ _ (by omega)]
    simp

theorem clockLockLoss_stops {s : State} {d : Nat} (hd : d < 60) (hrun : domainRuns s d = true) : ∃ t, exec (.clockLockLoss d) s = .next t ∧
    SameMemory s t ∧ domainRuns t d = false ∧ (∀ j, j ≠ d → domainRuns t j = domainRuns s j) ∧ t.pwr.failStopped = true := by
  have hx : exec (.clockLockLoss d) s =
      .next (stopFor (modPwr s fun x => { x with locked := x.locked &&& ~~~(2 ^ d) }) { cls := 0x5B, domain := d } 0) := if_pos ⟨hd, hrun⟩
  obtain ⟨hm, hp⟩ := stopFor_stops (modPwr s fun x => { x with locked := x.locked &&& ~~~(2 ^ d) }) { cls := 0x5B, domain := d } 0
  have hlock : (stopFor (modPwr s fun x => { x with locked := x.locked &&& ~~~(2 ^ d) }) { cls := 0x5B, domain := d } 0).pwr.locked =
      s.pwr.locked &&& ~~~(2 ^ d) := by rw [hp]; rfl
  refine ⟨_, hx, (calm_modPwr s _).trans hm, ?_, fun j hj => ?_, by rw [hp]⟩
  · unfold domainRuns
    rw [hlock, getLsbD_cleared _ hd]
    simp
  · unfold domainRuns
    rw [hlock, getLsbD_cleared _ hd]
    simp [hj]

/-- Settles O59. -/
theorem powerAndPinsAct : Obligations.PowerAndPinsAct := by
  refine ⟨fun v s hup hv => lodgeSupplyUp_starts hup hv, fun v s hup => ⟨?_, ?_, ?_, ?_, ?_, ?_⟩, fun s hs => ⟨?_, powerHalt_halts hs⟩,
    fun s hup => ⟨?_, ?_, ?_, ?_, ?_, ?_, ?_, ?_, ?_⟩, fun s hup => ⟨?_, ?_, ?_, ?_⟩⟩
  · exact lodgeSupplyLoss_stops hup
  · exact powerEvent_stops hup
  · exact inputReady_ready hup
  · exact overVoltageWarning_warns hup
  · exact overVoltageClear_clears hup
  · exact overVoltageTrip_trips hup
  · exact hostPortsPoison_poisons hs
  · exact resetN_asserts hup
  · exact resetN_releases hup
  · exact resetNHeld_reports hup
  · exact fenceN_asserts hup
  · exact fenceN_releases hup
  · exact pwrWarnN_asserts hup
  · exact pwrWarnN_releases hup
  · exact fun pin hok hlock => inputFlapping_locks hup hok hlock
  · exact fun pin a hlock => lockoutEnd_samples hup a hlock
  · exact temperatureSample_reads hup
  · exact temperatureWarning_warns hup
  · exact thermalTrip_stops hup
  · exact fun d hd hrun => clockLockLoss_stops hd hrun

end Sys2Proof.Machine
end

section
/-!
PROOFS. Bring-up (R26, R197, R223 to R226, R247, R400, R404, R405, R409, R421).
-/

namespace Sys2Proof.Machine

theorem atStep_up {s : State} {n : Nat} (h : atStep s n = true) : s.pwr.lodgeUp = true := by
  simp only [atStep, Bool.and_eq_true] at h
  exact h.1.1

theorem bringup_runs {s : State} {n : Nat} (h : atStep s n = true) : ¬(!atStep s n) = true := by
  rw [h]
  exact Bool.false_ne_true

/-! ### Step 3: the Repair Plat is applied (R26, R223 to R225) -/

/-- Only what incidents and the Repair Plat write has changed; no SOFT_CLEAR has become pending. -/
structure Platted (s t : State) : Prop where
  told : Told s t
  clear : t.repair.softClear = s.repair.softClear

theorem Platted.refl (s : State) : Platted s s := ⟨.refl s, rfl⟩

theorem Platted.trans {s t u : State} (h : Platted s t) (k : Platted t u) : Platted s u := ⟨h.told.trans k.told, k.clear.trans h.clear⟩

theorem platted_foldl {α : Type} {f : State → α → State} (h : ∀ s x, Platted s (f s x)) (l : List α) (s : State) :
    Platted s (l.foldl f s) := foldl_keeps (fun u y hu => hu.trans (h u y)) l s (.refl s)

theorem softClear_logInc (s : State) (i : Inc) : (logInc s i).repair.softClear = s.repair.softClear := by
  unfold logInc
  extract_lets r slot old free r1 r2 r3
  split
  · rfl
  · have h1 : r1.softClear = s.repair.softClear := by
      unfold r1
      split <;> rfl
    have h2 : r2.softClear = r1.softClear := by
      unfold r2
      split
      · split <;> rfl
      · rfl
    have h3 : r3.softClear = r2.softClear := by
      unfold r3
      split <;> rfl
    split
    · dsimp only [takeFree]
      rw [noteEvent_eq]
      exact h3.trans (h2.trans h1)
    · exact h3.trans (h2.trans h1)

theorem platted_logInc (s : State) (i : Inc) : Platted s (logInc s i) := ⟨told_logInc .., softClear_logInc ..⟩

theorem platted_useSpare (s : State) (r : Nat × Nat) : Platted s (useSpare s r) := by
  unfold useSpare
  split
  · exact ⟨⟨rfl⟩, rfl⟩
  · exact .refl s

theorem platted_loadPlat (s : State) : Platted s (loadPlat s) := by
  have h0 : Platted s { s with repair := { s.repair with plat := [], platCols := s.repair.fuseCols } } := ⟨⟨rfl⟩, rfl⟩
  exact (h0.trans (platted_foldl platted_useSpare _ _)).trans (platted_foldl platted_useSpare _ _)

theorem platted_addSoft (s : State) (r : Nat × Nat) : Platted s (addSoft s r) := by
  unfold addSoft
  split
  · exact .refl s
  · split
    · exact ⟨⟨rfl⟩, rfl⟩
    · exact platted_logInc ..

theorem platted_nearSpare (s : State) (r : Nat × Nat) : Platted s (nearSpare s r) := by
  unfold nearSpare
  split
  · exact .refl s
  · exact platted_useSpare ..

theorem softCleared_clears (s : State) : Told s (softCleared s) ∧ (softCleared s).repair.softClear = false := by
  unfold softCleared
  split
  · exact ⟨⟨rfl⟩, rfl⟩
  next h => exact ⟨.refl s, Bool.eq_false_iff.2 h⟩

/-- The near-memory rows that gave errors, as bring-up takes them. -/
def takeNearRows (s : State) : State :=
  s.repair.nearRows.foldl (fun s r => nearSpare (addSoft s r) r) { s with repair := { s.repair with nearRows := [] } }

theorem platted_takeNearRows (s : State) : Platted s (takeNearRows s) := by
  have h0 : Platted s { s with repair := { s.repair with nearRows := [] } } := ⟨⟨rfl⟩, rfl⟩
  exact h0.trans (platted_foldl (fun u r => (platted_addSoft u r).trans (platted_nearSpare ..)) _ _)

/-- What the boot ROM recorded is logged. -/
def logBoot (s : State) : State :=
  let s := (List.range s.firm.bootFails).foldl (fun s _ => logInc s { cls := 0x70, source := 3 }) s
  if s.firm.fromRecovery then logInc s { cls := 0x71, source := 3 } else s

theorem platted_logBoot (s : State) : Platted s (logBoot s) := by
  have h0 := platted_foldl (fun u (_ : Nat) => platted_logInc u { cls := 0x70, source := 3 }) (List.range s.firm.bootFails) s
  unfold logBoot
  dsimp only
  generalize (List.range s.firm.bootFails).foldl (fun s _ => logInc s { cls := 0x70, source := 3 }) s = u at h0
  split
  · exact h0.trans (platted_logInc ..)
  · exact h0

theorem onlySites_refence (s : State) : OnlySites s (refence s) :=
  (onlySites_foldl (fun u c => onlySites_modSite u (tsite u c) (f := fun x => { x with fenced := true }) fun _ => ⟨rfl, rfl⟩) _ _).trans
    (onlySites_foldl (fun u c => onlySites_modSite u (csite u c) (f := fun x => { x with fenced := true }) fun _ => ⟨rfl, rfl⟩) _ _)

/-- Only the binding of the cores to their sites has changed, and no factory binding. -/
structure Rebound (s t : State) : Prop where
  state : t = { s with place := t.place }
  factory : t.place.factoryIdle = s.place.factoryIdle

theorem rebound_returnCore (s : State) (c : Nat) : Rebound s (returnCore s c) := by
  unfold returnCore
  split <;> exact ⟨rfl, rfl⟩

theorem Rebound.trans {s t u : State} (h : Rebound s t) (k : Rebound t u) : Rebound s u :=
  ⟨by rw [k.state, h.state], k.factory.trans h.factory⟩

theorem reloc_returnCore_same (s : State) (c : Nat) : sget 0 (returnCore s c).place.reloc c = 0 := by
  unfold returnCore
  split
  next h => exact h
  · exact sget_sdel_same ..

theorem reloc_returnCore_ne (s : State) {c d : Nat} (h : c ≠ d) : sget 0 (returnCore s d).place.reloc c = sget 0 s.place.reloc c := by
  unfold returnCore
  split
  · rfl
  · exact sget_sdel_ne _ _ h

/-- The pending returns take effect. -/
def returnCores (s : State) : State :=
  let s := s.place.returns.foldl returnCore s
  { s with place := { s.place with returns := [] } }

theorem rebound_returnCores (s : State) : Rebound s (returnCores s) := by
  have h : Rebound s (s.place.returns.foldl returnCore s) :=
    foldl_keeps (P := fun u => Rebound s u) (fun u c hu => hu.trans (rebound_returnCore u c)) _ _ ⟨rfl, rfl⟩
  exact h.trans ⟨rfl, rfl⟩

theorem reloc_returnCores (s : State) (c : Nat) : (c ∈ s.place.returns → sget 0 (returnCores s).place.reloc c = 0) ∧
    (c ∉ s.place.returns → sget 0 (returnCores s).place.reloc c = sget 0 s.place.reloc c) := by
  refine ⟨fun hc => ?_, fun hc => ?_⟩
  · refine foldl_holds (f := returnCore) (P := fun u => sget 0 u.place.reloc c = 0) (fun u => reloc_returnCore_same u c) (fun u d hu => ?_)
      s.place.returns hc s
    by_cases hd : c = d
    · rw [← hd]
      exact reloc_returnCore_same u c
    · exact (reloc_returnCore_ne u hd).trans hu
  · exact List.foldlRecOn s.place.returns returnCore (motive := fun u => sget 0 u.place.reloc c = sget 0 s.place.reloc c) rfl
      fun u hu d hd => (reloc_returnCore_ne u fun (he : c = d) => hc (he ▸ hd)).trans hu

theorem tsite_congr {s t : State} (h : t.place.factoryIdle = s.place.factoryIdle) (c : Nat) : tsite t c = tsite s c := by
  unfold tsite factoryIdle
  rw [h]

theorem csite_congr {s t : State} (h : t.place.factoryIdle = s.place.factoryIdle) {c : Nat}
    (hr : sget 0 t.place.reloc c = sget 0 s.place.reloc c) : csite t c = csite s c := by
  unfold csite
  rw [hr, tsite_congr h]

theorem csite_factory {s : State} {c : Nat} (h : sget 0 s.place.reloc c = 0) : csite s c = tsite s c := by
  unfold csite
  rw [h]

/-- Nothing that the boot ROM recorded remains to be logged. -/
def bootLogged (s : State) : State := { s with firm := { s.firm with bootFails := 0, fromRecovery := false } }

theorem repairPlatLoad_eq {s : State} (h : atStep s 3 = true) : exec .repairPlatLoad s = .next (bootLogged (logBoot (refence (returnCores
    (takeNearRows (loadPlat (softCleared (modPwr (toStep s 4) fun x => { x with dictUp := true })))))))) := by
  show execRepairPlatLoad s = _
  unfold execRepairPlatLoad
  rw [if_neg (bringup_runs h)]
  extract_lets a b rows rep d e pl g boot v firm
  have hd : d = takeNearRows b := rfl
  clear_value d
  have he : returnCores d = { e with place := { e.place with returns := [] } } := rfl
  clear_value e
  have hg : g = refence (returnCores d) := by
    rw [he]
  clear_value g
  have hv : v = logBoot g := rfl
  show done (bootLogged v) = _
  rw [hv, hg, hd]
  rfl

theorem repairPlatLoad_loads {s : State} (h : atStep s 3 = true) : ∃ t, exec .repairPlatLoad s = .next t ∧ SameMemory s t ∧
    t.pwr.bringStep = 4 ∧ dictReady t = !s.pwr.recovery ∧ t.place.returns = [] ∧ t.repair.softClear = false ∧
    (∀ c ∈ s.place.returns, csite t c = tsite t c) ∧ ∀ c, c ∉ s.place.returns → csite t c = csite s c := by
  have hup := atStep_up h
  have hx := repairPlatLoad_eq h
  have hm0 : SameMemory s (modPwr (toStep s 4) fun x => { x with dictUp := true }) := sameMemory_of rfl rfl
  have hp0 : (modPwr (toStep s 4) fun x => { x with dictUp := true }).pwr = { s.pwr with bringStep := 4, dictUp := true } := rfl
  have hl0 : (modPwr (toStep s 4) fun x => { x with dictUp := true }).place = s.place := rfl
  generalize (modPwr (toStep s 4) fun x => { x with dictUp := true }) = a at hx hm0 hp0 hl0
  obtain ⟨ht1, hc1⟩ := softCleared_clears a
  generalize softCleared a = b at hx ht1 hc1
  have h2 := (platted_loadPlat b).trans (platted_takeNearRows _)
  generalize takeNearRows (loadPlat b) = d at hx h2
  have ht2 := ht1.trans h2.told
  have hplace : d.place = s.place := by rw [ht2.state, hl0]
  have h3 := rebound_returnCores d
  have hr := reloc_returnCores d
  have hret : (returnCores d).place.returns = [] := rfl
  generalize returnCores d = e at hx h3 hr hret
  have h4 := onlySites_refence e
  generalize refence e = f at hx h4
  have h5 := platted_logBoot f
  generalize logBoot f = g at hx h5
  have hfe : f.place = e.place := by rw [h4.state]
  have hge : g.place = e.place := by rw [h5.told.state, hfe]
  have hpwr : g.pwr = { s.pwr with bringStep := 4, dictUp := true } := by
    rw [h5.told.calm.pwr, h4.calm.pwr, h3.state]
    exact ht2.calm.pwr.trans hp0
  have hmde : SameMemory d e := sameMemory_of (by rw [h3.state]) (by rw [h3.state])
  have hmem : SameMemory s g := (((hm0.trans ht2.calm.memory).trans hmde).trans h4.memory).trans h5.told.calm.memory
  have hfac : g.place.factoryIdle = s.place.factoryIdle := by rw [hge, h3.factory, hplace]
  rw [hplace] at hr
  have hclear : g.repair.softClear = false := by
    rw [h5.clear, h4.state, h3.state]
    exact h2.clear.trans hc1
  refine ⟨bootLogged g, hx, hmem.trans (sameMemory_of rfl rfl), ?_, ?_, ?_, hclear, fun c hc => ?_, fun c hc => ?_⟩
  · show g.pwr.bringStep = 4
    rw [hpwr]
  · show (g.pwr.lodgeUp && g.pwr.dictUp && !g.pwr.recovery) = _
    rw [hpwr]
    show (s.pwr.lodgeUp && true && !s.pwr.recovery) = _
    rw [hup]
    rfl
  · show g.place.returns = []
    rw [hge, hret]
  · show csite g c = tsite g c
    refine csite_factory ?_
    rw [hge]
    exact (hr c).1 hc
  · show csite g c = csite s c
    refine csite_congr hfac ?_
    rw [hge]
    exact (hr c).2 hc

/-! ### Steps 4 to 6: the rails, the Gatehouse image, links and ports (R247, R400, R405, R421) -/

theorem holdFor_holds (s : State) (p : Pin) : SameMemory s (holdFor s p) ∧ p ∈ (holdFor s p).pwr.heldBy ∧
    (holdFor s p).pwr.bringStep = s.pwr.bringStep ∧ (holdFor s p).pwr.bringDone = s.pwr.bringDone := by
  unfold holdFor
  split
  next h => exact ⟨sameMemory_refl s, h, rfl, rfl⟩
  · have hlog : Calm (modPwr s fun x => { x with heldBy := x.heldBy ++ [p] })
        (logInc (modPwr s fun x => { x with heldBy := x.heldBy ++ [p] }) { cls := 0x55, source := 3 }) := (told_logInc ..).calm
    generalize logInc (modPwr s fun x => { x with heldBy := x.heldBy ++ [p] }) { cls := 0x55, source := 3 } = u at hlog
    refine ⟨((calm_modPwr s _).trans hlog.memory).trans (memory_raiseAlert ..), ?_, ?_, ?_⟩
    · rw [pwr_raiseAlert, hlog.pwr]
      exact List.mem_append_right _ (List.mem_singleton_self p)
    · rw [pwr_raiseAlert, hlog.pwr]
      rfl
    · rw [pwr_raiseAlert, hlog.pwr]
      rfl

theorem computeRamp_held {s : State} (h : atStep s 4 = true) (hw : s.pwr.warnPin = true) : ∃ t, exec .computeRamp s = .next t ∧
    SameMemory s t ∧ t.pwr.bringStep = s.pwr.bringStep ∧ Pin.pwrWarnN ∈ t.pwr.heldBy := by
  have hx : exec .computeRamp s = .next (holdFor s .pwrWarnN) := by
    show execComputeRamp s = _
    unfold execComputeRamp
    rw [if_neg (bringup_runs h)]
    exact if_pos hw
  obtain ⟨hm, hp, hs, -⟩ := holdFor_holds s .pwrWarnN
  exact ⟨_, hx, hm, hs, hp⟩

theorem computeRamp_ramps {s : State} (h : atStep s 4 = true) (hw : s.pwr.warnPin = false) (hi : s.pwr.inputOk = true) :
    ∃ t, exec .computeRamp s = .next t ∧ SameMemory s t ∧ t.pwr.bringStep = 5 ∧ t.pwr.rails = true ∧ ∀ d, d < 60 → domainRuns t d = true := by
  have hx : exec .computeRamp s = .next (modPwr (toStep s 5) fun x => { x with rails := true, locked := ~~~0 }) := by
    show execComputeRamp s = _
    unfold execComputeRamp
    rw [if_neg (bringup_runs h), hw, hi]
    rfl
  refine ⟨_, hx, sameMemory_of rfl rfl, rfl, rfl, fun d hd => ?_⟩
  show (~~~(0 : BitVec 60)).getLsbD d = true
  rw [BitVec.getLsbD_not, decide_eq_true hd]
  simp

theorem failStep_fails (s : State) (n : Nat) : SameMemory s (failStep s n) ∧ (failStep s n).firm = s.firm ∧
    (failStep s n).pwr.seqRun = .none ∧ (failStep s n).pwr.bringFailed = true ∧ (failStep s n).pwr.alert.getLsbD 5 = true := by
  have hlog := told_logInc s { cls := 0x5A, source := 3, detail := BitVec.ofNat 32 n }
  unfold failStep
  dsimp only
  generalize logInc s { cls := 0x5A, source := 3, detail := BitVec.ofNat 32 n } = u at hlog
  have hm := memory_raiseAlert u 5
  have hp := pwr_raiseAlert u 5
  have hf : (raiseAlert u 5).firm = u.firm := by rw [raiseAlert_eq]
  generalize raiseAlert u 5 = v at hm hp hf
  refine ⟨(hlog.calm.memory.trans hm).trans (calm_modPwr ..), ?_, rfl, rfl, ?_⟩
  · show v.firm = s.firm
    rw [hf, hlog.state]
  · show v.pwr.alert.getLsbD 5 = true
    rw [hp]
    exact alert_raised _ (by decide)

/-- The Gatehouse image and the tables of a bundle fit their digests. -/
def gatehouseFits (b : List Byte) : Bool := Config.sm3 (ghBody b) == ghDigOf b && Config.sm3 (tblBody b) == tblDigOf b

theorem gatehouseImageLoad_verifies {s : State} (h : atStep s 5 = true) (hok : gatehouseFits (running s) = true) :
    ∃ t, exec .gatehouseImageLoad s = .next t ∧ SameMemory s t ∧ t.pwr.bringStep = 6 ∧ t.firm.ghDig = ghDigOf (running s) := by
  have hx : exec .gatehouseImageLoad s =
      .next { toStep s 6 with firm := { s.firm with ghDig := ghDigOf (running s), tblDig := tblDigOf (running s) } } := by
    show execGatehouseImageLoad s = _
    unfold execGatehouseImageLoad
    rw [if_neg (bringup_runs h)]
    exact if_pos hok
  exact ⟨_, hx, sameMemory_of rfl rfl, rfl, rfl⟩

/-- The other slot is preferred where it is valid. -/
def preferOther (s : State) (i : Nat) : State :=
  if slotStat s (1 - i) = 1 then { s with firm := { s.firm with next := BitVec.ofNat 8 (1 - i) } } else s

theorem preferOther_keeps (s : State) (i j : Nat) : SameMemory s (preferOther s i) ∧ slotRaw (preferOther s i) j = slotRaw s j := by
  unfold preferOther
  split
  · exact ⟨sameMemory_of rfl rfl, rfl⟩
  · exact ⟨sameMemory_refl s, rfl⟩

theorem gatehouseImageLoad_fails {s : State} (h : atStep s 5 = true) (hok : gatehouseFits (running s) = false) :
    ∃ t, exec .gatehouseImageLoad s = .next t ∧ SameMemory s t ∧ t.pwr.seqRun = .none ∧ t.pwr.bringFailed = true ∧
      slotRaw t s.firm.active.toNat = 2 := by
  have hbad : ¬gatehouseFits (running s) = true := by rw [hok]; exact Bool.false_ne_true
  have hx : exec .gatehouseImageLoad s = .next (failStep (preferOther (logInc (setStat s s.firm.active.toNat 2) { cls := 0x72, source := 3 })
      s.firm.active.toNat) 5) := by
    show execGatehouseImageLoad s = _
    unfold execGatehouseImageLoad
    rw [if_neg (bringup_runs h)]
    exact if_neg hbad
  have hraw := slotRaw_setStat (s := s) (i := s.firm.active.toNat) (v := 2)
  have hm0 : SameMemory s (setStat s s.firm.active.toNat 2) := sameMemory_of rfl rfl
  generalize setStat s s.firm.active.toNat 2 = u at hx hraw hm0
  have hlog := told_logInc u { cls := 0x72, source := 3 }
  generalize logInc u { cls := 0x72, source := 3 } = v at hx hlog
  obtain ⟨hm1, hr1⟩ := preferOther_keeps v s.firm.active.toNat s.firm.active.toNat
  generalize preferOther v s.firm.active.toNat = w at hx hm1 hr1
  obtain ⟨hm2, hf2, hseq, hfail, -⟩ := failStep_fails w 5
  have hslot (a b : State) (hab : a.firm = b.firm) (j : Nat) : slotRaw a j = slotRaw b j := by
    unfold slotRaw
    rw [hab]
  refine ⟨_, hx, ((hm0.trans hlog.calm.memory).trans hm1).trans hm2, hseq, hfail, ?_⟩
  rw [hslot _ w hf2, hr1, hslot v u (by rw [hlog.state]), hraw]

theorem getPortF_modPortF_all {f : FarPort → FarPort} {P : FarPort → Prop} (hf : ∀ x, P (f x)) (s : State) {p : Nat} (hp : p < 48) :
    P (getPortF ((List.range 48).foldl (fun s p => modPortF s p f) s) p) := by
  refine foldl_holds (P := fun u => P (getPortF u p)) (fun u => ?_) (fun u q hu => ?_) _ (List.mem_range.2 hp) s
  · rw [getPortF_modPortF, if_pos rfl]
    exact hf _
  · rw [getPortF_modPortF]
    split
    · exact hf _
    · exact hu

/-- Only the far-memory ports have changed. -/
structure PortsSet (s t : State) : Prop where
  state : t = { s with far := { s.far with ports := t.far.ports } }

theorem portsSet_foldl {α : Type} {f : State → α → State} (h : ∀ s x, PortsSet s (f s x)) (l : List α) (s : State) :
    PortsSet s (l.foldl f s) :=
  foldl_keeps (P := PortsSet s) (fun u y hu => ⟨by rw [(h u y).state, hu.state]⟩) l s ⟨rfl⟩

theorem portsSet_all (f : FarPort → FarPort) (s : State) : PortsSet s ((List.range 48).foldl (fun s p => modPortF s p f) s) :=
  portsSet_foldl (fun _ _ => ⟨rfl⟩) _ s

theorem trainPorts_trains (s : State) : PortsSet s (trainPorts s) ∧ ∀ p, p < 48 → (getPortF (trainPorts s) p).trained = true := by
  unfold trainPorts
  exact ⟨portsSet_all .., fun p hp => getPortF_modPortF_all (P := fun x => x.trained = true) (fun _ => rfl) s hp⟩

theorem setTrained_trains (s : State) (links : BitVec 20) (lanes : Byte) : SameMemory s (setTrained s links lanes) ∧
    (setTrained s links lanes).pwr = s.pwr ∧ (setTrained s links lanes).mesh.trained = links ∧ (setTrained s links lanes).twin.lanes = lanes ∧
    ∀ p, getPortF (setTrained s links lanes) p = getPortF s p :=
  ⟨sameMemory_of rfl rfl, rfl, rfl, rfl, fun _ => rfl⟩

theorem linkTraining_trains {links : Nat} {lanes : Byte} {s : State} (h : atStep s 6 = true) (hl : links < 2 ^ 20) :
    ∃ t, exec (.linkTraining links lanes) s = .next t ∧ SameMemory s t ∧ t.pwr.bringStep = 7 ∧ t.mesh.trained = BitVec.ofNat 20 links ∧
      t.twin.lanes = (if s.twin.modeNow then lanes else 0) ∧ ∀ p, p < 48 → (getPortF t p).trained = true := by
  have hc : ¬(!atStep s 6 || decide (2 ^ 20 ≤ links)) = true := by
    rw [h, decide_eq_false (not_le.2 hl)]
    exact Bool.false_ne_true
  have hx : exec (.linkTraining links lanes) s =
      .next (setTrained (trainPorts (toStep s 7)) (BitVec.ofNat 20 links) (if s.twin.modeNow then lanes else 0)) := if_neg hc
  obtain ⟨hports, hall⟩ := trainPorts_trains (toStep s 7)
  generalize trainPorts (toStep s 7) = u at hx hports hall
  have hm : SameMemory s u := sameMemory_of (by rw [hports.state]; rfl) (by rw [hports.state]; rfl)
  obtain ⟨hst, hpwr, htrained, hlanes, hget⟩ := setTrained_trains u (BitVec.ofNat 20 links) (if s.twin.modeNow then lanes else 0)
  refine ⟨_, hx, hm.trans hst, ?_, htrained, hlanes, fun p hp => ?_⟩
  · rw [hpwr, hports.state]
    rfl
  · rw [hget]
    exact hall p hp

/-! ### Step 7: memories and PPNs (R197, R226) -/

/-- The sites as an initialisation leaves them. -/
def initSites (s : State) : State := (skeys s.sites).foldl (fun s n => modSite s n Site.initMem) s

theorem sget_unlisted {α : Type} (d : α) {m : SMap α} {k : Nat} (h : k ∉ skeys m) : sget d m k = d := by
  induction m with
  | nil => rfl
  | cons x m ih =>
    obtain ⟨j, v⟩ := x
    have hk : k ≠ j := fun he => h (he ▸ List.mem_cons_self ..)
    rw [sget, if_neg hk]
    exact ih fun hm => h (List.mem_cons_of_mem _ hm)

theorem initSites_sites (s : State) : initSites s = { s with sites := (initSites s).sites } :=
  foldl_keeps (P := fun u => u = { s with sites := u.sites }) (fun u n hu => by rw [hu]; rfl) (skeys s.sites) s rfl

theorem initSites_empties (s : State) (n : Nat) : (getSite (initSites s) n).near = [] ∧ (getSite (initSites s) n).terr = [] := by
  by_cases hn : n ∈ skeys s.sites
  · refine foldl_holds (f := fun s n => modSite s n Site.initMem) (P := fun u => (getSite u n).near = [] ∧ (getSite u n).terr = [])
      (fun u => ?_) (fun u m hu => ?_) _ hn s
    · rw [getSite_modSite, if_pos rfl]
      exact ⟨rfl, rfl⟩
    · rw [getSite_modSite]
      split
      · exact ⟨rfl, rfl⟩
      · exact hu
  · have hkeep : getSite (initSites s) n = getSite s n :=
      List.foldlRecOn (skeys s.sites) (fun s n => modSite s n Site.initMem) (motive := fun u => getSite u n = getSite s n) rfl
        fun u hu m hm => by
          have hne : n ≠ m := fun he => hn (he ▸ hm)
          rw [getSite_modSite, if_neg hne]
          exact hu
    have hempty : getSite s n = {} := sget_unlisted _ hn
    rw [hkeep, hempty]
    exact ⟨rfl, rfl⟩

/-- Far memory as an initialisation leaves it. -/
def initFar (s : State) : State :=
  { s with far := { s.far with mem := [], marks := [], entries := [], ppnSet := true, swInit := decide (s.far.initMode = 1) } }

/-- Only entries of the Cadastre have changed. -/
structure EntriesSet (s t : State) : Prop where
  state : t = { s with far := { s.far with entries := t.far.entries } }

theorem entriesSet_reapply (s : State) (l : List (Nat × Nat)) : EntriesSet s (l.foldl reapply s) :=
  foldl_keeps (P := EntriesSet s) (fun u y hu => ⟨by rw [show reapply u y = { u with far := { u.far with entries := (reapply u y).far.entries } }
    from rfl, hu.state]⟩) l s ⟨rfl⟩

theorem memoryInit_inits {s : State} (h : atStep s 7 = true) : ∃ t, exec .memoryInit s = .next t ∧ t.pwr.bringStep = 8 ∧ t.far.ppnSet = true ∧
    (∀ n a, mrd (getSite t n).near a = 0 ∧ mrd (getSite t n).terr a = 0) ∧ (∀ a, mrd t.far.mem a = 0) ∧
    (∀ p, p < 48 → (getPortF t p).init = true) ∧ (s.repair.retired = [] → ∀ f, f < 184320 → entPpn t f = f ∧ (getEnt t f).v = false) := by
  have hx : exec .memoryInit s = .next ((List.range 48).foldl (fun s p => modPortF s p fun x => { x with init := true })
      ((initFar (initSites (toStep s 8))).repair.retired.foldl reapply (initFar (initSites (toStep s 8))))) := if_neg (bringup_runs h)
  have hempty := initSites_empties (toStep s 8)
  have hsites := initSites_sites (toStep s 8)
  generalize initSites (toStep s 8) = a at hx hempty hsites
  have hret : (initFar a).repair.retired = s.repair.retired := by
    rw [hsites]
    rfl
  rw [hret] at hx
  have hents := entriesSet_reapply (initFar a) s.repair.retired
  have hnone : s.repair.retired = [] → (s.repair.retired.foldl reapply (initFar a)).far.entries = [] := fun he => by rw [he]; rfl
  generalize s.repair.retired.foldl reapply (initFar a) = b at hx hents hnone
  have hports := portsSet_all (fun x => { x with init := true }) b
  have hall := fun p (hp : p < 48) => getPortF_modPortF_all (f := fun x => { x with init := true }) (P := fun x => x.init = true)
    (fun _ => rfl) b hp
  generalize (List.range 48).foldl (fun s p => modPortF s p fun x => { x with init := true }) b = t at hx hports hall
  have hsite : t.sites = a.sites := by
    rw [hports.state, hents.state]
    rfl
  have hfar : t.far.mem = [] ∧ t.far.ppnSet = true := by
    rw [hports.state, hents.state]
    exact ⟨rfl, rfl⟩
  have hentries : t.far.entries = b.far.entries := by rw [hports.state]
  refine ⟨t, hx, ?_, hfar.2, fun n a' => ?_, fun a' => ?_, hall, fun he f hf => ?_⟩
  · rw [hports.state, hents.state]
    show a.pwr.bringStep = 8
    rw [hsites]
    rfl
  · have hg : getSite t n = getSite a n := by rw [getSite, getSite, hsite]
    rw [hg, (hempty n).1, (hempty n).2]
    exact ⟨rfl, rfl⟩
  · rw [hfar.1]
    rfl
  · have hent : getEnt t f = {} := by
      rw [getEnt, hentries, hnone he]
      rfl
    refine ⟨?_, by rw [hent]⟩
    unfold entPpn
    rw [hent, hfar.2, if_pos rfl]
    show (BitVec.ofNat 18 f ^^^ 0#18).toNat = f
    rw [BitVec.xor_zero, BitVec.toNat_ofNat]
    exact Nat.mod_eq_of_lt (by omega)

/-! ### Step 9: bring-up is complete (R404, R405, R409) -/

theorem bringupComplete_held {s : State} (h : atStep s 9 = true) (hf : s.pwr.fencePin = true) : ∃ t, exec .bringupComplete s = .next t ∧
    SameMemory s t ∧ t.pwr.bringDone = s.pwr.bringDone ∧ Pin.fenceN ∈ t.pwr.heldBy := by
  have hx : exec .bringupComplete s = .next (holdFor s .fenceN) := by
    show execBringupComplete s = _
    unfold execBringupComplete
    rw [if_neg (bringup_runs h)]
    exact if_pos hf
  obtain ⟨hm, hp, -, hd⟩ := holdFor_holds s .fenceN
  exact ⟨_, hx, hm, hd, hp⟩

/-- Every Groundskeeper begins its laps. -/
def startLaps (s : State) : State := (List.range 2).foldl (fun s d => startLap (startLap s d false) d true) s

theorem startLaps_repair (s : State) : startLaps s = { s with repair := (startLaps s).repair } :=
  foldl_keeps (P := fun u => u = { s with repair := u.repair }) (fun u d hu => by rw [hu]; rfl) (List.range 2) s rfl

theorem bringupComplete_completes {s : State} (h : atStep s 9 = true) (hf : s.pwr.fencePin = false) (hr : s.pwr.resetPin = false) :
    ∃ t, exec .bringupComplete s = .next t ∧ SameMemory s t ∧ t.pwr.bringDone = true ∧ t.pwr.bringStep = 0xFF ∧ t.pwr.seqRun = .none ∧
      ∀ d, sget false t.regs.gkOff d = false := by
  have hf' : ¬s.pwr.fencePin = true := by rw [hf]; exact Bool.false_ne_true
  have hr' : ¬s.pwr.resetPin = true := by rw [hr]; exact Bool.false_ne_true
  have hx : exec .bringupComplete s = .next (dropAlert (modPwr (startLaps { s with regs := { s.regs with gkOff := [] } }) fun x =>
      { x with bringDone := true, bringStep := 0xFF, seqRun := .none, heldBy := [] }) 5) := by
    show execBringupComplete s = _
    unfold execBringupComplete
    rw [if_neg (bringup_runs h), if_neg hf']
    exact if_neg hr'
  have hlaps := startLaps_repair { s with regs := { s.regs with gkOff := [] } }
  generalize startLaps { s with regs := { s.regs with gkOff := [] } } = u at hx hlaps
  refine ⟨_, hx, sameMemory_of ?_ ?_, rfl, rfl, rfl, fun d => ?_⟩
  · show u.sites = s.sites
    rw [hlaps]
  · show u.far.mem = s.far.mem
    rw [hlaps]
  · show sget false u.regs.gkOff d = false
    rw [hlaps]
    rfl

theorem bringupStepFailed_fails {n : Nat} {s : State} (h3 : 3 ≤ n) (h9 : n ≤ 9) (h : atStep s n = true) :
    ∃ t, exec (.bringupStepFailed n) s = .next t ∧ SameMemory s t ∧ t.pwr.seqRun = .none ∧ t.pwr.bringFailed = true ∧
      t.pwr.alert.getLsbD 5 = true := by
  have hc : (atStep s n && decide (3 ≤ n) && decide (n ≤ 9)) = true := by
    rw [h, decide_eq_true h3, decide_eq_true h9]
    rfl
  obtain ⟨hm, -, hs, hb, ha⟩ := failStep_fails s n
  exact ⟨_, if_pos hc, hm, hs, hb, ha⟩

/-- Settles O60: each step by its own lemma. -/
theorem bringupStepsDo : Obligations.BringupStepsDo := by
  refine ⟨fun s => repairPlatLoad_loads, fun s h => ⟨computeRamp_held h, computeRamp_ramps h⟩,
    fun s h => ⟨gatehouseImageLoad_verifies h, gatehouseImageLoad_fails h⟩, fun links lanes s => linkTraining_trains,
    fun s => memoryInit_inits, fun s h => ⟨bringupComplete_held h, bringupComplete_completes h⟩, fun n s => bringupStepFailed_fails⟩

end Sys2Proof.Machine
end

section
/-!
PROOFS. The twin link: what sending, acknowledging and accepting frames leaves (R291 to R294), and the end of the marks
that wait for a peer (R298, R338).
-/

namespace Sys2Proof.Machine

/-! ### Frames out -/

/-- Only messages, registers and what the link keeps of the frames that it sends have changed. -/
structure Sent (s t : State) : Prop where
  state : t = { s with outbox := t.outbox, regs := t.regs, twin := { s.twin with nakOwed := t.twin.nakOwed, lane := t.twin.lane, txQueue := t.twin.txQueue, txSeq := t.twin.txSeq, replay := t.twin.replay, tries := t.twin.tries } }

theorem Sent.refl (s : State) : Sent s s := ⟨rfl⟩

theorem Sent.trans {s t u : State} (h : Sent s t) (k : Sent t u) : Sent s u := ⟨by rw [k.state, h.state]⟩

theorem sent_foldl {α : Type} {f : State → α → State} (h : ∀ s x, Sent s (f s x)) (l : List α) (s : State) : Sent s (l.foldl f s) :=
  foldl_keeps (fun u y hu => hu.trans (h u y)) l s (.refl s)

theorem sent_bump (s : State) (b i n : Nat) : Sent s (bump s b i n) := ⟨rfl⟩

theorem sent_putLane (s : State) (lane : Nat) (f : List Byte) : Sent s (putLane s lane f) := ⟨rfl⟩

theorem sent_putFrame (s : State) (f : List Byte) : Sent s (putFrame s f) := ⟨rfl⟩

theorem sent_sendUnseq (s : State) (type : Byte) (payload : List Byte) : Sent s (sendUnseq s type payload) := by
  unfold sendUnseq
  split
  · exact sent_putLane ..
  · exact .refl s

theorem sent_pumpTwin (n : Nat) (s : State) : Sent s (pumpTwin n s) := by
  induction n generalizing s with
  | zero => exact .refl s
  | succ n ih =>
    unfold pumpTwin
    split
    · exact .refl s
    next ty pl rest h =>
      split
      · exact .refl s
      · dsimp only
        have h0 : Sent s (modTwin s fun x => { x with txQueue := rest, txSeq := s.twin.txSeq + 1, replay := x.replay ++ [twinFrame s ty false (s.twin.txSeq + 1) pl] }) := ⟨rfl⟩
        exact (h0.trans (sent_putFrame ..)).trans (ih _)

theorem sent_sendSeqs (s : State) (l : List (Byte × List Byte)) : Sent s (sendSeqs s l) := by
  have h0 : Sent s (modTwin s fun x => { x with txQueue := x.txQueue ++ l }) := ⟨rfl⟩
  exact h0.trans (sent_pumpTwin ..)

theorem sent_sendSeq (s : State) (type : Byte) (payload : List Byte) : Sent s (sendSeq s type payload) := sent_sendSeqs ..

theorem sent_dropAcked (s : State) (ack : W32) : Sent s (dropAcked s ack) := ⟨rfl⟩

theorem sent_takeAck (s : State) (ack : W32) : Sent s (takeAck s ack) := (sent_dropAcked ..).trans (sent_pumpTwin ..)

theorem sent_replayFrames (s : State) : Sent s (replayFrames s) := by
  refine sent_foldl (fun u f => ?_) _ s
  have h0 : Sent u (modTwin u fun x => { x with tries := smod 0 x.tries (frameSeq f).toNat (· + 1) }) := ⟨rfl⟩
  exact (h0.trans (sent_bump ..)).trans (sent_putFrame ..)

/-! ### Frames in -/

/-- Only messages, registers and what the link keeps of its frames, in and out, have changed. -/
structure Heard (s t : State) : Prop where
  state : t = { s with outbox := t.outbox, regs := t.regs, twin := { s.twin with nakOwed := t.twin.nakOwed, lane := t.twin.lane, txQueue := t.twin.txQueue, txSeq := t.twin.txSeq, replay := t.twin.replay, tries := t.twin.tries, rxSeq := t.twin.rxSeq } }

theorem Sent.heard {s t : State} (h : Sent s t) : Heard s t := ⟨by rw [h.state]⟩

theorem Heard.trans {s t u : State} (h : Heard s t) (k : Heard t u) : Heard s u := ⟨by rw [k.state, h.state]⟩

theorem heard_freshLink (s : State) : Heard s (freshLink s) := ⟨rfl⟩

theorem Heard.calm {s t : State} (h : Heard s t) : Calm s t := ⟨sameMemory_of (by rw [h.state]) (by rw [h.state]), by rw [h.state]⟩

theorem Heard.gate {s t : State} (h : Heard s t) : t.gate = s.gate := by rw [h.state]

theorem Heard.far {s t : State} (h : Heard s t) : t.far = s.far := by rw [h.state]

theorem Heard.firm {s t : State} (h : Heard s t) : t.firm = s.firm := by rw [h.state]

theorem Heard.place {s t : State} (h : Heard s t) : t.place = s.place := by rw [h.state]

theorem Heard.st {s t : State} (h : Heard s t) : t.twin.st = s.twin.st := by rw [h.state]

theorem Heard.getPcl {s t : State} (h : Heard s t) (p : Nat) : Machine.getPcl t p = Machine.getPcl s p := by
  unfold Machine.getPcl
  rw [h.gate]

theorem Sent.calm {s t : State} (h : Sent s t) : Calm s t := h.heard.calm

theorem heedNak_served {f : List Byte} {s : State} (h : NakServed f s) : Sent s (heedNak f s) := by
  unfold heedNak
  split
  next hc =>
    have hbit : bit (field f 1 1) 1 = true := (Bool.and_eq_true_iff.1 hc).2
    have htry : ¬triedOut (dropAcked s (BitVec.ofNat 32 (field f 12 4))) = true := by rw [h hbit]; exact Bool.false_ne_true
    rw [if_neg htry]
    exact (sent_dropAcked ..).trans (sent_replayFrames ..)
  · exact .refl s

theorem acceptFrame_heard {f : List Byte} {s u : State} (h : acceptFrame s f = .ok u) : Heard s u := by
  have hack := (sent_takeAck s (BitVec.ofNat 32 (field f 12 4))).heard
  unfold acceptFrame at h
  dsimp only at h
  generalize takeAck s (BitVec.ofNat 32 (field f 12 4)) = v at h hack
  split at h
  · injection h with h
    rw [← h]
    exact hack.trans (sent_bump ..).heard
  · split at h
    · injection h with h
      rw [← h]
      exact hack.trans ⟨rfl⟩
    · cases h

theorem frameIn_heard {type : Nat} {f : List Byte} {s u : State} (h : FrameIn type f s u) : Heard s u := by
  obtain ⟨-, -, -, hnak, hacc⟩ := h
  exact (heedNak_served hnak).heard.trans (acceptFrame_heard hacc)

theorem twinRow_acts {type : Nat} {op : Option Nat} {f : List Byte} {s u : State} (h : FrameIn type f s u)
    (hop : ∀ o, op = some o → ctlOp f = o) (g : State → State) : twinRow type op f s g = .next (afterAck (g u)) := by
  obtain ⟨hup, htype, hok, hnak, hacc⟩ := h
  have hok' : frameOk (heedNak f s) f = true := by
    have hs := heedNak_served hnak
    unfold frameOk at hok ⊢
    rw [hs.state]
    exact hok
  have htake : takeFrame f (heedNak f s) g = g u := by
    unfold takeFrame
    rw [hok', hacc]
    rfl
  cases op with
  | none =>
    have hc : ¬(!twinUp s || decide (field f 0 1 ≠ type) || false) = true := by
      rw [hup, htype]
      simp
    exact (if_neg hc).trans (by rw [htake]; rfl)
  | some o =>
    have hc : ¬(!twinUp s || decide (field f 0 1 ≠ type) || decide (ctlOp f ≠ o)) = true := by
      rw [hup, htype, hop o rfl]
      simp
    exact (if_neg hc).trans (by rw [htake]; rfl)

theorem afterAck_idle {s : State} (h : s.twin.st ≠ .rejoinSource ∨ s.twin.copying = false) : afterAck s = s := by
  refine if_neg fun hc => ?_
  simp only [Bool.and_eq_true, decide_eq_true_eq] at hc
  obtain ⟨⟨⟨hst, hcopy⟩, -⟩, -⟩ := hc
  rcases h with h | h
  · exact h hst
  · rw [h] at hcopy
    cases hcopy

/-! ### The end of a mark (R338 step 6) -/

/-- Memory, the twin and the Gatehouse's state stand. -/
structure Kept (s t : State) : Prop where
  memory : SameMemory s t
  twin : t.twin = s.twin
  gate : t.gate = s.gate

theorem Kept.refl (s : State) : Kept s s := ⟨sameMemory_refl s, rfl, rfl⟩

theorem Kept.trans {s t u : State} (h : Kept s t) (k : Kept t u) : Kept s u :=
  ⟨h.memory.trans k.memory, k.twin.trans h.twin, k.gate.trans h.gate⟩

theorem kept_repair (s : State) (r : Repair) : Kept s { s with repair := r } := ⟨sameMemory_of rfl rfl, rfl, rfl⟩

theorem kept_shadowBeacons (s : State) (p : Nat) : Kept s (shadowBeacons s p) := ⟨sameMemory_of rfl rfl, rfl, rfl⟩

theorem kept_endHandling (s : State) (cls : Nat) : Kept s (endHandling s cls) := kept_repair s _

theorem kept_endStepHandling (s : State) (p : Nat) : Kept s (endStepHandling s p) := by
  unfold endStepHandling
  dsimp only
  exact (kept_repair s _).trans (foldl_keeps (P := Kept _) (fun u e hu => hu.trans (kept_endHandling u e.1)) _ _ (.refl _))

theorem kept_forgetErrs (s : State) (p : Nat) : Kept s (forgetErrs s p) := by
  have h := forgetErrs_only s p
  exact (kept_repair s _).trans ⟨h.memory, by rw [h.state], by rw [h.state]⟩

theorem kept_logInc (s : State) (i : Inc) : Kept s (logInc s i) := by
  obtain ⟨r, f, d, h⟩ := logInc_eq s i
  rw [h]
  exact ⟨sameMemory_of rfl rfl, rfl, rfl⟩

theorem Kept.getPcl {s t : State} (h : Kept s t) (p : Nat) : Machine.getPcl t p = Machine.getPcl s p := by
  unfold Machine.getPcl
  rw [h.gate]

theorem Kept.getWin {s t : State} (h : Kept s t) (w : Nat) : Machine.getWin t w = Machine.getWin s w := by
  unfold Machine.getWin
  rw [h.gate]

/-- Memory and the twin stand; of parcels and windows, only what belongs to one parcel's marks has changed. -/
structure Tended (p : Nat) (s t : State) : Prop where
  memory : SameMemory s t
  twin : t.twin = s.twin
  parcel : ∀ v, (getWin t v).parcel = (getWin s v).parcel
  wait : ∀ v, (getWin s v).parcel ≠ p → (getWin t v).waitRec = (getWin s v).waitRec
  mark : ∀ q, q ≠ p → (getPcl t q).mark = (getPcl s q).mark
  bmarks : ∀ q, q ≠ p → (getPcl t q).bmarks = (getPcl s q).bmarks

section
variable {p : Nat}

theorem Tended.refl (s : State) : Tended p s s := ⟨sameMemory_refl s, rfl, fun _ => rfl, fun _ _ => rfl, fun _ _ => rfl, fun _ _ => rfl⟩

theorem Tended.trans {s t u : State} (h : Tended p s t) (k : Tended p t u) : Tended p s u where
  memory := h.memory.trans k.memory
  twin := k.twin.trans h.twin
  parcel v := (k.parcel v).trans (h.parcel v)
  wait v hv := (k.wait v (by rw [h.parcel]; exact hv)).trans (h.wait v hv)
  mark q hq := (k.mark q hq).trans (h.mark q hq)
  bmarks q hq := (k.bmarks q hq).trans (h.bmarks q hq)

theorem Kept.tended {s t : State} (h : Kept s t) : Tended p s t where
  memory := h.memory
  twin := h.twin
  parcel v := by rw [h.getWin]
  wait v _ := by rw [h.getWin]
  mark q _ := by rw [h.getPcl]
  bmarks q _ := by rw [h.getPcl]

theorem tended_modPcl (s : State) (f : Parcel → Parcel) : Tended p s (modPcl s p f) where
  memory := sameMemory_of rfl rfl
  twin := rfl
  parcel _ := rfl
  wait _ _ := rfl
  mark q hq := by rw [getPcl_modPcl, if_neg hq]
  bmarks q hq := by rw [getPcl_modPcl, if_neg hq]

theorem tended_emitRec (s : State) (w : Nat) (b : List Byte) (irq : Bool) : Tended p s (emitRec s w b irq) where
  memory := (booked_emitRec ..).memory
  twin := by rw [(booked_emitRec ..).state]
  parcel v := by
    rw [getWin_emitRec]
    rfl
  wait v _ := by rw [getWin_emitRec]
  mark q _ := by rw [(booked_emitRec s w b irq).pcl]
  bmarks q _ := by rw [(booked_emitRec s w b irq).pcl]

theorem tended_endRec (s : State) {w : Nat} (h : (getWin s w).parcel = p) : Tended p s (endRec s w) where
  memory := sameMemory_of rfl rfl
  twin := rfl
  parcel v := by
    unfold endRec
    rw [getWin_modWin]
    split
    next hv =>
      rw [hv]
      rfl
    · rfl
  wait v hv := by
    unfold endRec
    rw [getWin_modWin, if_neg]
    rintro rfl
    exact hv h
  mark _ _ := rfl
  bmarks _ _ := rfl

theorem tended_setPcl (s : State) (st : PclSt) : Tended p s (setPcl s p st) := by
  rcases setPcl_eq s p st with h | ⟨-, h⟩
  · rw [h]
    have hdict : Kept (modPcl s p fun x => { x with st := st }) { s with gate := (modPcl s p fun x => { x with st := st }).gate, dict := (setPcl s p st).dict } :=
      ⟨sameMemory_of rfl rfl, rfl, rfl⟩
    exact (tended_modPcl s _).trans hdict.tended
  · rw [h]
    exact .refl s

end

theorem markRec_parcel {s : State} {p w : Nat} {r : Rec} (h : markRec s p = some (w, r)) : (getWin s w).parcel = p := by
  have hm : (w, r) ∈ waitersOf s 0x12 p := List.mem_of_mem_head? h
  obtain ⟨v, -, hv⟩ := List.mem_filterMap.1 hm
  split at hv
  · cases hv
  · split at hv
    next hc =>
      injection hv with hv
      injection hv with hv
      rw [← hv]
      exact hc.2
    · cases hv

theorem markRec_congr {s t : State} {q : Nat} (hp : ∀ v, (getWin t v).parcel = (getWin s v).parcel)
    (hw : ∀ v, (getWin s v).parcel = q → (getWin t v).waitRec = (getWin s v).waitRec) : markRec t q = markRec s q := by
  unfold markRec waitersOf
  refine congrArg List.head? (List.filterMap_congr fun v _ => ?_)
  by_cases hv : (getWin s v).parcel = q
  · rw [hw v hv, hp]
  · rw [hp]
    have hno (o : Option Rec) : (match o with
        | none => none
        | some r => if recOp r = 0x12 ∧ (getWin s v).parcel = q then some (v, r) else none) = none := by
      cases o with
      | none => rfl
      | some r => exact if_neg fun hc => hv hc.2
    exact (hno _).trans (hno _).symm

theorem Tended.markRec {p q : Nat} {s t : State} (h : Tended p s t) (hq : q ≠ p) : Machine.markRec t q = Machine.markRec s q :=
  markRec_congr h.parcel fun v hv => h.wait v fun he => hq (hv.symm.trans he)

/-- The mark's record is written. -/
def markRecorded (s : State) (p w : Nat) (r : Rec) (body : List Byte) (status : Nat) : State :=
  emitRec (endRec s w) w (recHead 2 p status (recSeq r) (recHtag r) ++ body) (recIrq r)

theorem markRecorded_tended {s : State} {p w : Nat} {r : Rec} (h : (getWin s w).parcel = p) (body : List Byte) (status : Nat) :
    Tended p s (markRecorded s p w r body status) := (tended_endRec s h).trans (tended_emitRec ..)

theorem markRecorded_pcl (s : State) (p w : Nat) (r : Rec) (body : List Byte) (status q : Nat) :
    getPcl (markRecorded s p w r body status) q = { getPcl s q with csd := (getPcl (markRecorded s p w r body status) q).csd, recCount := (getPcl (markRecorded s p w r body status) q).recCount, stepRecs := (getPcl (markRecorded s p w r body status) q).stepRecs } :=
  (booked_emitRec (endRec s w) w (recHead 2 p status (recSeq r) (recHtag r) ++ body) (recIrq r)).pcl q

/-- The mark is counted. -/
def markCounted (s : State) (p : Nat) : State := phStep (modPcl s p fun x => { x with bmarks := x.bmarks + 1, epochBm := x.epochBm + 1 }) p

/-- The parcel's next step begins. -/
def stepBegun (s : State) (p : Nat) : State :=
  modPcl (forgetErrs s p) p fun x => { x.newStep with rejoinHold := decide (s.twin.st = .rejoinSource) }

theorem finishMark_eq {s : State} {p w : Nat} {r : Rec} (h : markRec s p = some (w, r)) (twin : Nat) : finishMark s p twin =
    stepBegun (endStepHandling (shadowBeacons (markCounted (markRecorded s p w r (markBody (getPcl s p) twin) stDone) p) p) p) p := by
  unfold finishMark
  rw [h]
  rfl

/-- What a mark that is complete leaves. -/
structure Completed (p : Nat) (s t : State) : Prop where
  tended : Tended p s t
  bmarks : (getPcl t p).bmarks = (getPcl s p).bmarks + 1
  agreed : (getPcl t p).agreed = (getPcl s p).agreed
  mark : (getPcl t p).mark = {}

theorem markCounted_counts (s : State) (p : Nat) : Tended p s (markCounted s p) ∧
    (getPcl (markCounted s p) p).bmarks = (getPcl s p).bmarks + 1 ∧ (getPcl (markCounted s p) p).agreed = (getPcl s p).agreed := by
  have h1 : Tended p s (modPcl s p fun x => { x with bmarks := x.bmarks + 1, epochBm := x.epochBm + 1 }) := tended_modPcl ..
  have p1 := getPcl_modPcl_same s p fun x => { x with bmarks := x.bmarks + 1, epochBm := x.epochBm + 1 }
  unfold markCounted
  generalize (modPcl s p fun x => { x with bmarks := x.bmarks + 1, epochBm := x.epochBm + 1 }) = a at h1 p1
  have hfree : Kept a { a with free := a.free + 1 } := ⟨sameMemory_of rfl rfl, rfl, rfl⟩
  have hpcl : getPcl { a with free := a.free + 1 } p = getPcl a p := rfl
  unfold phStep takeFree
  dsimp only
  refine ⟨(h1.trans hfree.tended).trans (tended_modPcl ..), ?_, ?_⟩
  · rw [getPcl_modPcl_same]
    show (getPcl { a with free := a.free + 1 } p).bmarks = _
    rw [hpcl, p1]
  · rw [getPcl_modPcl_same]
    show (getPcl { a with free := a.free + 1 } p).agreed = _
    rw [hpcl, p1]

theorem stepBegun_begins (s : State) (p : Nat) : Tended p s (stepBegun s p) ∧ (getPcl (stepBegun s p) p).bmarks = (getPcl s p).bmarks ∧
    (getPcl (stepBegun s p) p).agreed = (getPcl s p).agreed ∧ (getPcl (stepBegun s p) p).mark = {} := by
  have h := kept_forgetErrs s p
  unfold stepBegun
  generalize forgetErrs s p = a at h
  rw [getPcl_modPcl_same, ← h.getPcl]
  exact ⟨h.tended.trans (tended_modPcl ..), rfl, rfl, rfl⟩

theorem finishMark_completes {s : State} {p w : Nat} {r : Rec} (h : markRec s p = some (w, r)) (twin : Nat) :
    Completed p s (finishMark s p twin) := by
  rw [finishMark_eq h]
  have h1 := markRecorded_tended (markRec_parcel h) (r := r) (markBody (getPcl s p) twin) stDone
  have p1 := markRecorded_pcl s p w r (markBody (getPcl s p) twin) stDone p
  generalize markRecorded s p w r (markBody (getPcl s p) twin) stDone = a at h1 p1
  obtain ⟨h2, hb2, ha2⟩ := markCounted_counts a p
  generalize markCounted a p = b at h2 hb2 ha2
  have h3 := (kept_shadowBeacons b p).trans (kept_endStepHandling _ p)
  generalize endStepHandling (shadowBeacons b p) p = d at h3
  obtain ⟨h4, hb4, ha4, hm⟩ := stepBegun_begins d p
  refine ⟨((h1.trans h2).trans h3.tended).trans h4, ?_, ?_, hm⟩
  · rw [hb4, h3.getPcl, hb2, p1]
  · rw [ha4, h3.getPcl, ha2, p1]

theorem finishMark_tended (s : State) (p twin : Nat) : Tended p s (finishMark s p twin) := by
  cases h : markRec s p with
  | none =>
    unfold finishMark
    rw [h]
    exact .refl s
  | some x => exact (finishMark_completes h twin).tended

/-- What a parcel that is stopped at its mark leaves. -/
theorem stopAtMark_stops {s : State} {p : Nat} (h : (markRec s p).isSome = true) (cls : Nat) :
    Tended p s (stopAtMark s p cls) ∧ (getPcl (stopAtMark s p cls) p).st = .stopped ∧
      (getPcl (stopAtMark s p cls) p).bmarks = (getPcl s p).bmarks := by
  have h1 := kept_logInc s { cls := cls, parcel := some p, domain := 56 + pclDie s p }
  unfold stopAtMark
  dsimp only
  generalize logInc s { cls := cls, parcel := some p, domain := 56 + pclDie s p } = a at h1
  have hrec : markRec a p = markRec s p := markRec_congr (fun v => by rw [h1.getWin]) fun v _ => by rw [h1.getWin]
  obtain ⟨⟨w, r⟩, hr⟩ := Option.isSome_iff_exists.1 h
  rw [hrec, hr]
  have hpar : (getWin a w).parcel = p := by
    rw [h1.getWin]
    exact markRec_parcel hr
  have h2 := markRecorded_tended (r := r) hpar (endBody (getPcl a p) 2) stStopped
  have p2 := markRecorded_pcl a p w r (endBody (getPcl a p) 2) stStopped p
  show Tended p s (setPcl (modPcl (markRecorded a p w r (endBody (getPcl a p) 2) stStopped) p fun x => { x with mark := {} }) p .stopped) ∧
    (getPcl (setPcl (modPcl (markRecorded a p w r (endBody (getPcl a p) 2) stStopped) p fun x => { x with mark := {} }) p .stopped) p).st = .stopped ∧
    (getPcl (setPcl (modPcl (markRecorded a p w r (endBody (getPcl a p) 2) stStopped) p fun x => { x with mark := {} }) p .stopped) p).bmarks = _
  generalize markRecorded a p w r (endBody (getPcl a p) 2) stStopped = b at h2 p2
  have h3 : Tended p b (modPcl b p fun x => { x with mark := {} }) := tended_modPcl ..
  have p3 := getPcl_modPcl_same b p fun x => { x with mark := {} }
  generalize (modPcl b p fun x => { x with mark := {} }) = d at h3 p3
  refine ⟨((h1.tended.trans h2).trans h3).trans (tended_setPcl ..), ?_, ?_⟩
  · rw [getPcl_setPcl, if_pos rfl]
  · rw [getPcl_setPcl, if_pos rfl]
    show (getPcl d p).bmarks = _
    rw [p3, p2, h1.getPcl]

/-! ### The marks that wait for a peer that is gone (R298) -/

/-- A mark in the exchange completes. -/
def releaseMark (s : State) (p : Nat) : State :=
  if (getPcl s p).mark.phase = .exchange then finishMark s p (twinStatus s) else s

theorem releaseMarks_eq (s : State) : releaseMarks s = (List.range 8).foldl releaseMark s := rfl

theorem releaseMark_tended (s : State) (p : Nat) : Tended p s (releaseMark s p) := by
  unfold releaseMark
  split
  · exact finishMark_tended ..
  · exact .refl s

theorem releaseMarks_keeps (s : State) : SameMemory s (releaseMarks s) ∧ (releaseMarks s).twin = s.twin := by
  rw [releaseMarks_eq]
  refine foldl_keeps (P := fun u => SameMemory s u ∧ u.twin = s.twin) (fun u p hu => ?_) _ s ⟨sameMemory_refl s, rfl⟩
  have h := releaseMark_tended u p
  exact ⟨hu.1.trans h.memory, h.twin.trans hu.2⟩

/-- The parcel's mark stands as it did. -/
structure Awaits (p : Nat) (s t : State) : Prop where
  mark : (getPcl t p).mark = (getPcl s p).mark
  bmarks : (getPcl t p).bmarks = (getPcl s p).bmarks
  record : markRec t p = markRec s p

/-- The parcel's mark is complete, and none runs. -/
structure Released (p : Nat) (s t : State) : Prop where
  mark : (getPcl t p).mark = {}
  bmarks : (getPcl t p).bmarks = (getPcl s p).bmarks + 1

theorem releaseMark_releases {p : Nat} {s u : State} (hx : (getPcl s p).mark.phase = .exchange) (hr : (markRec s p).isSome = true)
    (h : Awaits p s u ∨ Released p s u) : Released p s (releaseMark u p) := by
  rcases h with h | h
  · have hphase : (getPcl u p).mark.phase = .exchange := by rw [h.mark, hx]
    obtain ⟨⟨w, r⟩, hs⟩ := Option.isSome_iff_exists.1 hr
    have hc := finishMark_completes (h.record.trans hs) (twinStatus u)
    have heq : releaseMark u p = finishMark u p (twinStatus u) := if_pos hphase
    rw [heq]
    exact ⟨hc.mark, by rw [hc.bmarks, h.bmarks]⟩
  · have hphase : ¬(getPcl u p).mark.phase = .exchange := by
      rw [h.mark]
      nofun
    have heq : releaseMark u p = u := if_neg hphase
    rw [heq]
    exact h

theorem Released.step {p q : Nat} {s t u : State} (h : Released p s t) (k : Tended q t u) (hq : p ≠ q) : Released p s u :=
  ⟨(k.mark p hq).trans h.mark, (k.bmarks p hq).trans h.bmarks⟩

theorem releaseMarks_releases {p : Nat} {s : State} (hp : p < 8) (hx : (getPcl s p).mark.phase = .exchange)
    (hr : (markRec s p).isSome = true) : (getPcl (releaseMarks s) p).bmarks = (getPcl s p).bmarks + 1 := by
  rw [releaseMarks_eq]
  refine (foldl_arrives (f := releaseMark) (Q := fun u => Awaits p s u ∨ Released p s u) (P := Released p s) (fun u q h => ?_)
    (fun u h => releaseMark_releases hx hr h) (fun u q _ h => ?_) (List.range 8) (List.mem_range.2 hp) s (.inl ⟨rfl, rfl, rfl⟩)).bmarks
  · by_cases hq : p = q
    · rw [← hq]
      exact .inr (releaseMark_releases hx hr h)
    · have k := releaseMark_tended u q
      rcases h with h | h
      · exact .inl ⟨(k.mark p hq).trans h.mark, (k.bmarks p hq).trans h.bmarks, (k.markRec hq).trans h.record⟩
      · exact .inr (h.step k hq)
  · by_cases hq : p = q
    · rw [← hq]
      exact releaseMark_releases hx hr (.inr h)
    · exact h.step (releaseMark_tended u q) hq

end Sys2Proof.Machine
end

section
/-!
PROOFS. Frames of the twin link (R291, R292, R296 to R299, R302 to R305).
-/

namespace Sys2Proof.Machine

/-! ### Frames that are not accepted (R291, R292) -/

section
variable {f : List Byte} {s : State} (hup : twinUp s = true) (htype : field f 0 1 = 1) (hst : s.twin.st ≠ .rejoinSource)
include hup htype hst

omit hst in
theorem heartbeat_taken (g : State → State) (hg : exec (.heartbeat f) s = twinRow 1 none f s g) :
    exec (.heartbeat f) s = .next (afterAck (takeFrame f (heedNak f s) g)) := by
  have hc : ¬(!twinUp s || decide (field f 0 1 ≠ 1) || false) = true := by
    rw [hup, htype]
    decide
  exact hg.trans (if_neg hc)

theorem heartbeat_counted (hbad : frameOk s f = false) : exec (.heartbeat f) s = .next (bump s twnBlock 2 1) := by
  have hnak : heedNak f s = s := by
    unfold heedNak
    rw [hbad]
    rfl
  have hx := heartbeat_taken hup htype _ rfl
  rw [hnak] at hx
  refine hx.trans (congrArg _ ?_)
  unfold takeFrame
  rw [hbad]
  exact afterAck_idle (.inl hst)

theorem heartbeat_outOfPlace (hok : frameOk s f = true) (hnak : NakServed f s) (hseq : frameSeqd f = true)
    (hne : frameSeq f ≠ s.twin.rxSeq + 1) : ∃ t, exec (.heartbeat f) s = .next t ∧ t.twin.nakOwed = true ∧ t.twin.rxSeq = s.twin.rxSeq ∧
      t.twin.peerHb = s.twin.peerHb := by
  have hx := heartbeat_taken hup htype _ rfl
  have hs := (heedNak_served hnak).trans (sent_takeAck (heedNak f s) (BitVec.ofNat 32 (field f 12 4)))
  have hok' : frameOk (heedNak f s) f = true := by
    unfold frameOk at hok ⊢
    rw [(heedNak_served hnak).state]
    exact hok
  have hacc : acceptFrame (heedNak f s) f =
      .error (modTwin (takeAck (heedNak f s) (BitVec.ofNat 32 (field f 12 4))) fun x => { x with nakOwed := true }) := by
    have hrx : (takeAck (heedNak f s) (BitVec.ofNat 32 (field f 12 4))).twin.rxSeq = s.twin.rxSeq := by rw [hs.state]
    unfold acceptFrame
    dsimp only
    rw [hseq, hrx]
    exact if_neg hne
  unfold takeFrame at hx
  rw [hok', hacc] at hx
  generalize takeAck (heedNak f s) (BitVec.ofNat 32 (field f 12 4)) = v at hx hs
  have hidle : afterAck (modTwin v fun x => { x with nakOwed := true }) = modTwin v fun x => { x with nakOwed := true } := by
    refine afterAck_idle (.inl ?_)
    show v.twin.st ≠ _
    rw [hs.heard.st]
    exact hst
  refine ⟨_, hx.trans (congrArg Host.Outcome.next hidle), rfl, ?_, ?_⟩
  · show v.twin.rxSeq = _
    rw [hs.state]
  · show v.twin.peerHb = _
    rw [hs.state]

end

/-! ### Entering and leaving the pair (R286, R296, R298, R305) -/

theorem setTwin_sets (s : State) (st : TwinSt) : Calm s (setTwin s st) ∧ (setTwin s st).twin = { s.twin with st := st } ∧
    (setTwin s st).gate = s.gate ∧ (setTwin s st).far = s.far := by
  rw [setTwin_eq]
  exact ⟨⟨sameMemory_of rfl rfl, rfl⟩, rfl, rfl, rfl⟩

theorem leaveStep8_leaves (s : State) : SameMemory s (leaveStep8 s) ∧ (leaveStep8 s).twin = s.twin := by
  unfold leaveStep8
  split
  · exact ⟨sameMemory_of rfl rfl, rfl⟩
  · exact ⟨sameMemory_refl s, rfl⟩

theorem enterPaired_enters (s : State) : SameMemory s (enterPaired s) ∧
    (enterPaired s).twin = { s.twin with epoch := s.twin.epoch + 1, rejoinReq := false, copying := false, endSeen := false, st := .paired } := by
  have h0 : SameMemory s (modTwin s fun x => { x with epoch := x.epoch + 1, rejoinReq := false, copying := false, endSeen := false }) :=
    sameMemory_of rfl rfl
  have hp : Calm (modTwin s fun x => { x with epoch := x.epoch + 1, rejoinReq := false, copying := false, endSeen := false }) _ ∧ _ :=
    foldl_keeps (f := fun s p => modPcl s p fun x => { x with epochBm := 0, rejoinHold := false, peerDigests := [] })
      (P := fun u => Calm (modTwin s fun x => { x with epoch := x.epoch + 1, rejoinReq := false, copying := false, endSeen := false }) u ∧
        u.twin = { s.twin with epoch := s.twin.epoch + 1, rejoinReq := false, copying := false, endSeen := false })
      (fun u p hu => ⟨hu.1.trans ⟨sameMemory_of rfl rfl, rfl⟩, hu.2⟩) (List.range 8) _ ⟨.refl _, rfl⟩
  unfold enterPaired
  dsimp only
  obtain ⟨hc, ht⟩ := hp
  generalize (List.range 8).foldl _ _ = u at hc ht
  obtain ⟨hset, hst, -, -⟩ := setTwin_sets u .paired
  refine ⟨(h0.trans hc.memory).trans hset.memory, ?_⟩
  rw [hst, ht]

theorem refusePairing_refuses (s : State) : SameMemory s (refusePairing s) ∧ (refusePairing s).twin = { s.twin with st := .solo } := by
  have hlog := kept_logInc s { cls := 0x46 }
  unfold refusePairing
  generalize logInc s { cls := 0x46 } = u at hlog
  obtain ⟨hset, hst, -, -⟩ := setTwin_sets u .solo
  obtain ⟨hm, ht⟩ := leaveStep8_leaves (setTwin u .solo)
  refine ⟨(hlog.memory.trans hset.memory).trans hm, ?_⟩
  rw [ht, hst, hlog.twin]

/-- The twin enters PAIRED where both PAIR-ACKs have passed. -/
theorem tryPaired_tries (s : State) : SameMemory s (tryPaired s) ∧ (tryPaired s).twin =
    if (s.twin.st = .pairing && s.twin.pairAckGot && s.twin.pairAckSent) = true then
      { s.twin with epoch := s.twin.epoch + 1, rejoinReq := false, copying := false, endSeen := false, st := .paired }
    else s.twin := by
  unfold tryPaired
  split
  · obtain ⟨hm, ht⟩ := enterPaired_enters s
    obtain ⟨hm', ht'⟩ := leaveStep8_leaves (enterPaired s)
    exact ⟨hm.trans hm', ht'.trans ht⟩
  · exact ⟨sameMemory_refl s, rfl⟩

theorem partWays_parts (s : State) : SameMemory s (partWays s) ∧ (partWays s).twin = (freshLink s).twin := by
  obtain ⟨hm, ht⟩ := releaseMarks_keeps (freshLink s)
  exact ⟨(heard_freshLink s).calm.memory.trans hm, ht⟩

/-- Memory stands, and what the module knows of its peer; no rejoin has begun. -/
structure Answered (s t : State) : Prop where
  memory : SameMemory s t
  hb : t.twin.peerHb = s.twin.peerHb
  info : t.twin.peerInfo = s.twin.peerInfo
  source : s.twin.st ≠ .rejoinSource → t.twin.st ≠ .rejoinSource

theorem Answered.trans {s t u : State} (h : Answered s t) (k : Answered t u) : Answered s u :=
  ⟨h.memory.trans k.memory, k.hb.trans h.hb, k.info.trans h.info, fun hs => k.source (h.source hs)⟩

theorem Heard.answered {s t : State} (h : Heard s t) : Answered s t :=
  ⟨h.calm.memory, by rw [h.state], by rw [h.state], fun hs => by rw [h.st]; exact hs⟩

theorem answered_tryPaired (s : State) : Answered s (tryPaired s) ∧ (tryPaired s).twin.pairAckSent = s.twin.pairAckSent ∧
    (tryPaired s).twin.pairAckGot = s.twin.pairAckGot := by
  obtain ⟨hm, ht⟩ := tryPaired_tries s
  split at ht
  · exact ⟨⟨hm, by rw [ht], by rw [ht], fun _ => by rw [ht]; nofun⟩, by rw [ht], by rw [ht]⟩
  · exact ⟨⟨hm, by rw [ht], by rw [ht], fun hs => by rw [ht]; exact hs⟩, by rw [ht], by rw [ht]⟩

/-- The answer to a PAIR that fits. -/
def sendPairAck (s : State) : State := sendUnseq (modTwin s fun x => { x with pairAckSent := true }) 5 (control s 2)

theorem sendPairAck_sends (s : State) : Answered s (sendPairAck s) ∧ (sendPairAck s).twin.pairAckSent = true := by
  have h0 : Answered s (modTwin s fun x => { x with pairAckSent := true }) := ⟨sameMemory_of rfl rfl, rfl, rfl, id⟩
  have hs := sent_sendUnseq (modTwin s fun x => { x with pairAckSent := true }) 5 (control s 2)
  exact ⟨h0.trans hs.heard.answered, by rw [sendPairAck, hs.state]; rfl⟩

theorem answered_answerPair (s : State) : Answered s (answerPair s) := by
  unfold answerPair
  split
  · exact ⟨sameMemory_refl s, rfl, rfl, id⟩
  next st role h =>
    split
    · exact ⟨sameMemory_refl s, rfl, rfl, id⟩
    · split
      · obtain ⟨hm, ht⟩ := refusePairing_refuses s
        exact ⟨hm, by rw [ht], by rw [ht], fun _ => by rw [ht]; nofun⟩
      · exact (sendPairAck_sends s).1.trans (answered_tryPaired _).1

theorem answerPair_answers {s : State} {st role : Byte} (hhb : s.twin.peerHb = some (st, role)) (hst : s.twin.st = .pairing)
    (hinfo : s.twin.peerInfo ≠ []) (hfit : misfit s s.twin.peerInfo role = false) (hpair : unpairable s = false) :
    (answerPair s).twin.pairAckSent = true := by
  have h1 : ¬(s.twin.st ≠ .pairing ∨ s.twin.peerInfo = []) := by
    rintro (h | h)
    · exact h hst
    · exact hinfo h
  have h2 : ¬(misfit s s.twin.peerInfo role || unpairable s) = true := by rw [hfit, hpair]; exact Bool.false_ne_true
  have heq : answerPair s = tryPaired (sendPairAck s) := by
    unfold answerPair
    rw [hhb]
    exact (if_neg h1).trans (if_neg h2)
  rw [heq, (answered_tryPaired _).2.1]
  exact (sendPairAck_sends s).2

theorem misfit_congr {s t : State} (hf : t.firm = s.firm) (hr : t.twin.roleNow = s.twin.roleNow) (info : List Byte) (role : Byte) :
    misfit t info role = misfit s info role := by
  unfold misfit identity running idCert slotOf
  rw [hf, hr]

theorem unpairable_congr {s t : State} (hp : t.place = s.place) (hf : t.far = s.far) : unpairable t = unpairable s := by
  unfold unpairable
  rw [hp, hf]

/-! ### Frames that are accepted -/

section
variable {f : List Byte} {s u : State}

theorem anyOp (f : List Byte) : ∀ o, none = some o → ctlOp f = o := fun _ h => by cases h

theorem frameIn_length {type : Nat} (hin : FrameIn type f s u) : f.length = 256 := by
  obtain ⟨-, -, hok, -⟩ := hin
  simp only [frameOk, Bool.and_eq_true, decide_eq_true_eq] at hok
  exact hok.1.1.1

theorem heartbeat_shows (hin : FrameIn 1 f s u) (hst : s.twin.st ≠ .rejoinSource) : ∃ t, exec (.heartbeat f) s = .next t ∧ SameMemory s t ∧
    t.twin.peerHb = some (BitVec.ofNat 8 (field f 16 1), BitVec.ofNat 8 (field f 17 1)) := by
  have hh := frameIn_heard hin
  have hx : exec (.heartbeat f) s = .next (afterAck (if u.twin.peerHb = none then
      answerPair (modTwin u fun x => { x with peerHb := some (BitVec.ofNat 8 (field f 16 1), BitVec.ofNat 8 (field f 17 1)) })
      else modTwin u fun x => { x with peerHb := some (BitVec.ofNat 8 (field f 16 1), BitVec.ofNat 8 (field f 17 1)) })) := by
    show twinRow 1 none f s _ = _
    rw [twinRow_acts hin (anyOp f)]
  have hm : SameMemory s (modTwin u fun x => { x with peerHb := some (BitVec.ofNat 8 (field f 16 1), BitVec.ofNat 8 (field f 17 1)) }) :=
    hh.calm.memory.trans (sameMemory_of rfl rfl)
  have hb : (modTwin u fun x => { x with peerHb := some (BitVec.ofNat 8 (field f 16 1), BitVec.ofNat 8 (field f 17 1)) }).twin.peerHb =
      some (BitVec.ofNat 8 (field f 16 1), BitVec.ofNat 8 (field f 17 1)) := rfl
  have hv : (modTwin u fun x => { x with peerHb := some (BitVec.ofNat 8 (field f 16 1), BitVec.ofNat 8 (field f 17 1)) }).twin.st ≠ .rejoinSource := by
    show u.twin.st ≠ _
    rw [hh.st]
    exact hst
  generalize (modTwin u fun x => { x with peerHb := some (BitVec.ofNat 8 (field f 16 1), BitVec.ofNat 8 (field f 17 1)) }) = v at hx hm hb hv
  have ha := answered_answerPair v
  split at hx
  · exact ⟨_, hx.trans (congrArg _ (afterAck_idle (.inl (ha.source hv)))), hm.trans ha.memory, ha.hb.trans hb⟩
  · exact ⟨_, hx.trans (congrArg _ (afterAck_idle (.inl hv))), hm, hb⟩

/-! #### DIGEST (R298, R299) -/

theorem Heard.markRec {s t : State} (h : Heard s t) (p : Nat) : Machine.markRec t p = Machine.markRec s p := by
  unfold Machine.markRec waitersOf Machine.getWin
  rw [h.gate]

/-- The peer's DIGEST is kept. -/
def keepDigest (s : State) (p : Nat) (d : W64 × List Byte) : State := modPcl s p fun x => { x with peerDigests := x.peerDigests ++ [d] }

theorem digest_compares (hin : FrameIn 2 f s u) (hst : s.twin.st = .paired) (hp : field f 16 1 < 8) : exec (.digest f) s =
    .next (afterAck (compareMark (keepDigest u (field f 16 1) (BitVec.ofNat 64 (field f 20 8), slice f 28 32)) (field f 16 1))) := by
  have hu : u.twin.st = .paired := (frameIn_heard hin).st.trans hst
  show twinRow 2 none f s _ = _
  rw [twinRow_acts hin (anyOp f)]
  dsimp only
  rw [if_pos ⟨hu, hp⟩]
  rfl

theorem compareMark_waits {v : State} {p : Nat} (h : (getPcl v p).mark.phase ≠ .exchange) : compareMark v p = v := by
  unfold compareMark
  dsimp only
  split
  next hx => exact absurd hx h
  · rfl

/-- The digest compared is taken off the list. -/
def takeDigest (s : State) (p : Nat) (n : W64) : State := modPcl s p fun x => { x with peerDigests := x.peerDigests.filter fun e => e.1 ≠ n }

theorem compareMark_decides {v : State} {p : Nat} {d : W64 × List Byte} (hx : (getPcl v p).mark.phase = .exchange)
    (hd : (getPcl v p).peerDigests = [d]) (hn : d.1 = markNo (getPcl v p)) (hcsd : d.2.take 16 = Dig.bytes (getPcl v p).mark.csd) :
    compareMark v p = if d.2.drop 16 ≠ Dig.bytes (getPcl v p).mark.sd then stopAtMark (takeDigest v p (markNo (getPcl v p))) p 0x41
      else finishMark (modPcl (takeDigest v p (markNo (getPcl v p))) p fun y => { y with agreed := markNo y }) p 1 := by
  have hfind : (getPcl v p).peerDigests.find? (fun e => e.1 = markNo (getPcl v p)) = some d := by
    rw [hd, List.find?_cons_of_pos]
    exact decide_eq_true hn
  unfold compareMark
  dsimp only
  rw [hx, hfind]
  dsimp only
  rw [if_neg (not_not_intro hcsd)]
  rfl

section
variable (hin : FrameIn 2 f s u) (hst : s.twin.st = .paired) {p : Nat} (hpf : p = field f 16 1) (hp : p < 8) {d : W64 × List Byte}
  (hd : d = (BitVec.ofNat 64 (field f 20 8), slice f 28 32))
include hin hst hpf hp hd

theorem digest_kept (hx : (getPcl s p).mark.phase ≠ .exchange) : ∃ t, exec (.digest f) s = .next t ∧ SameMemory s t ∧
    (getPcl t p).peerDigests = (getPcl s p).peerDigests ++ [d] := by
  have hh := frameIn_heard hin
  have hrow := digest_compares hin hst (hpf ▸ hp)
  rw [← hpf, ← hd] at hrow
  have hpcl : getPcl (keepDigest u p d) p = { getPcl s p with peerDigests := (getPcl s p).peerDigests ++ [d] } := by
    rw [← hh.getPcl]
    exact getPcl_modPcl_same ..
  have hwait : compareMark (keepDigest u p d) p = keepDigest u p d := compareMark_waits (by rw [hpcl]; exact hx)
  have hidle : afterAck (keepDigest u p d) = keepDigest u p d := by
    refine afterAck_idle (.inl ?_)
    show u.twin.st ≠ _
    rw [hh.st, hst]
    nofun
  rw [hwait, hidle] at hrow
  exact ⟨_, hrow, hh.calm.memory.trans (sameMemory_of rfl rfl), by rw [hpcl]⟩

section
variable (hx : (getPcl s p).mark.phase = .exchange) (hnone : (getPcl s p).peerDigests = []) (hn : d.1 = markNo (getPcl s p))
  (hrec : (markRec s p).isSome = true) (hcsd : d.2.take 16 = Dig.bytes (getPcl s p).mark.csd)
include hx hnone hn hrec hcsd

omit hrec in
/-- The state in which the mark is decided. -/
theorem digest_decided : ∃ v, SameMemory s v ∧ v.twin.st = .paired ∧ markRec v p = markRec s p ∧
    getPcl v p = { getPcl s p with peerDigests := (getPcl v p).peerDigests } ∧
    exec (.digest f) s = .next (afterAck (if d.2.drop 16 ≠ Dig.bytes (getPcl s p).mark.sd then stopAtMark v p 0x41
      else finishMark (modPcl v p fun y => { y with agreed := markNo y }) p 1)) := by
  have hh := frameIn_heard hin
  have hrow := digest_compares hin hst (hpf ▸ hp)
  rw [← hpf, ← hd] at hrow
  have hpcl : getPcl (keepDigest u p d) p = { getPcl s p with peerDigests := [d] } := by
    have h := getPcl_modPcl_same u p fun x => { x with peerDigests := x.peerDigests ++ [d] }
    rw [hh.getPcl, hnone] at h
    exact h
  have hno : markNo (getPcl (keepDigest u p d) p) = markNo (getPcl s p) := by rw [hpcl]; rfl
  rw [compareMark_decides (d := d) (by rw [hpcl]; exact hx) (by rw [hpcl]) (by rw [hno]; exact hn) (by rw [hpcl]; exact hcsd), hno] at hrow
  have hsd : (getPcl (keepDigest u p d) p).mark.sd = (getPcl s p).mark.sd := by rw [hpcl]
  rw [hsd] at hrow
  refine ⟨takeDigest (keepDigest u p d) p (markNo (getPcl s p)), hh.calm.memory.trans (sameMemory_of rfl rfl), hh.st.trans hst, hh.markRec p, ?_, hrow⟩
  have h := getPcl_modPcl_same (keepDigest u p d) p fun x => { x with peerDigests := x.peerDigests.filter fun e => e.1 ≠ markNo (getPcl s p) }
  have htake : getPcl (takeDigest (keepDigest u p d) p (markNo (getPcl s p))) p = _ := h
  rw [htake, hpcl]

theorem digest_completes (hsd : d.2.drop 16 = Dig.bytes (getPcl s p).mark.sd) : ∃ t, exec (.digest f) s = .next t ∧ SameMemory s t ∧
    (getPcl t p).bmarks = (getPcl s p).bmarks + 1 ∧ (getPcl t p).agreed = markNo (getPcl s p) ∧ (getPcl t p).mark = {} := by
  obtain ⟨v, hm, hv, hr, hpcl, hrow⟩ := digest_decided hin hst hpf hp hd hx hnone hn hcsd
  rw [if_neg (not_not_intro hsd)] at hrow
  have h0 := getPcl_modPcl_same v p fun y => { y with agreed := markNo y }
  have hm0 : SameMemory v (modPcl v p fun y => { y with agreed := markNo y }) := sameMemory_of rfl rfl
  have hr0 : markRec (modPcl v p fun y => { y with agreed := markNo y }) p = markRec s p := hr
  have hs0 : (modPcl v p fun y => { y with agreed := markNo y }).twin.st = .paired := hv
  generalize (modPcl v p fun y => { y with agreed := markNo y }) = w at h0 hm0 hr0 hs0 hrow
  obtain ⟨⟨wn, r⟩, hs⟩ := Option.isSome_iff_exists.1 hrec
  have hc := finishMark_completes (hr0.trans hs) 1
  have hidle : afterAck (finishMark w p 1) = finishMark w p 1 := by
    refine afterAck_idle (.inl ?_)
    rw [hc.tended.twin, hs0]
    nofun
  rw [hidle] at hrow
  refine ⟨_, hrow, (hm.trans hm0).trans hc.tended.memory, ?_, ?_, hc.mark⟩
  · rw [hc.bmarks, h0, hpcl]
  · rw [hc.agreed, h0, hpcl]
    rfl

theorem digest_stops (hsd : d.2.drop 16 ≠ Dig.bytes (getPcl s p).mark.sd) : ∃ t, exec (.digest f) s = .next t ∧ SameMemory s t ∧
    (getPcl t p).st = .stopped ∧ (getPcl t p).bmarks = (getPcl s p).bmarks := by
  obtain ⟨v, hm, hv, hr, hpcl, hrow⟩ := digest_decided hin hst hpf hp hd hx hnone hn hcsd
  rw [if_pos hsd] at hrow
  obtain ⟨ht, hs, hb⟩ := stopAtMark_stops (s := v) (p := p) (by rw [hr]; exact hrec) 0x41
  have hidle : afterAck (stopAtMark v p 0x41) = stopAtMark v p 0x41 := by
    refine afterAck_idle (.inl ?_)
    rw [ht.twin, hv]
    nofun
  rw [hidle] at hrow
  exact ⟨_, hrow, hm.trans ht.memory, hs, by rw [hb, hpcl]⟩

end

end

/-! #### FAILSTOP, STATE and STATE-DATA (R295, R303, R304) -/

/-- The pair ends with a logged incident. -/
theorem partWays_logged (v : State) (i : Inc) (st : TwinSt) : SameMemory v (partWays (setTwin (logInc v i) st)) ∧
    (partWays (setTwin (logInc v i) st)).twin = { (freshLink v).twin with st := st } := by
  have hlog := kept_logInc v i
  generalize logInc v i = a at hlog
  obtain ⟨hset, hst, -, -⟩ := setTwin_sets a st
  obtain ⟨hm, ht⟩ := partWays_parts (setTwin a st)
  refine ⟨(hlog.memory.trans hset.memory).trans hm, ht.trans ?_⟩
  unfold freshLink modTwin
  dsimp only
  rw [hst, hlog.twin]

theorem failstop_survives (hin : FrameIn 3 f s u) (hst : s.twin.st = .paired) : ∃ t, exec (.failstop f) s = .next t ∧ SameMemory s t ∧
    t.twin.st = .survivor := by
  have hh := frameIn_heard hin
  have hx : exec (.failstop f) s = .next (afterAck (partWays (setTwin (logInc u { cls := 0x42 }) .survivor))) := by
    show twinRow 3 none f s _ = _
    rw [twinRow_acts hin (anyOp f)]
    rw [hh.st, hst]
  obtain ⟨hm, ht⟩ := partWays_logged u { cls := 0x42 } .survivor
  have hidle := afterAck_idle (s := partWays (setTwin (logInc u { cls := 0x42 }) .survivor)) (.inl (by rw [ht]; nofun))
  rw [hidle] at hx
  exact ⟨_, hx, hh.calm.memory.trans hm, by rw [ht]⟩

theorem farPut_congr {v w : State} (h : v.far = w.far) (fa : Nat) (bs : List Byte) : (farPut v fa bs).far.mem = (farPut w fa bs).far.mem := by
  have hbyte : farByte v = farByte w := by
    funext a
    unfold farByte entPpn getEnt
    rw [h]
  rw [(farPut_results v fa bs).2.2.1, (farPut_results w fa bs).2.2.1, hbyte, h]

/-- A header of the copy is in force. -/
def headed (f : List Byte) (s : State) : State :=
  modTwin s fun x =>
    { x with stateHdr := slice f 16 16
             stateData := []
             endSeen := x.endSeen || decide (field (slice f 16 16) 0 1 = 4)
             rejoinPages := if (field (slice f 16 16) 0 1 = 1 && (field x.stateHdr 0 1 ≠ 1 || field x.stateHdr 4 4 ≠ field (slice f 16 16) 4 4)) = true then x.rejoinPages + 1 else x.rejoinPages }

section
variable (hst : s.twin.st = .rejoinTarget) (hcopy : s.twin.copying = true)
include hst hcopy

theorem twinState_heads (hin : FrameIn 4 f s u) : ∃ t, exec (.twinState f) s = .next t ∧ SameMemory s t ∧ t.twin.stateHdr = slice f 16 16 ∧
    t.twin.stateData = [] := by
  have hh := frameIn_heard hin
  have hc : ¬(u.twin.st ≠ .rejoinTarget ∨ u.twin.copying = false) := by
    rw [hh.state, hst, hcopy]
    simp
  have hx : exec (.twinState f) s = .next (afterAck (headed f u)) := by
    show twinRow 4 none f s _ = _
    rw [twinRow_acts hin (anyOp f), if_neg hc]
    rfl
  refine ⟨_, hx.trans (congrArg _ (afterAck_idle (.inl ?_))), hh.calm.memory.trans (sameMemory_of rfl rfl), rfl, rfl⟩
  show u.twin.st ≠ _
  rw [hh.st, hst]
  nofun

theorem stateData_takes (hin : FrameIn 6 f s u) (hroom : s.twin.stateData.length < field s.twin.stateHdr 12 4) :
    exec (.stateData f) s = .next (afterAck (if field s.twin.stateHdr 12 4 ≤ (s.twin.stateData ++ slice f 16 236).length then
      takeState (modTwin u fun x => { x with stateData := (s.twin.stateData ++ slice f 16 236).take (field s.twin.stateHdr 12 4) }) s.twin.stateHdr
        ((s.twin.stateData ++ slice f 16 236).take (field s.twin.stateHdr 12 4))
      else modTwin u fun x => { x with stateData := (s.twin.stateData ++ slice f 16 236).take (field s.twin.stateHdr 12 4) })) := by
  have hh := frameIn_heard hin
  have hhdr : u.twin.stateHdr = s.twin.stateHdr := by rw [hh.state]
  have hdat : u.twin.stateData = s.twin.stateData := by rw [hh.state]
  have hc : ¬(u.twin.st ≠ .rejoinTarget ∨ u.twin.copying = false ∨ field s.twin.stateHdr 12 4 ≤ s.twin.stateData.length) := by
    rw [hh.state, hst, hcopy]
    simpa using hroom
  show twinRow 6 none f s _ = _
  rw [twinRow_acts hin (anyOp f)]
  dsimp only
  rw [hhdr, hdat, if_neg hc]
  show Host.Outcome.next (afterAck (if _ then takeState _ u.twin.stateHdr _ else _)) = _
  rw [hhdr]

theorem stateData_gathers (hin : FrameIn 6 f s u) (hd : (s.twin.stateData ++ slice f 16 236).length < field s.twin.stateHdr 12 4) :
    ∃ t, exec (.stateData f) s = .next t ∧ SameMemory s t ∧ t.twin.stateData = s.twin.stateData ++ slice f 16 236 := by
  have hh := frameIn_heard hin
  have hroom : s.twin.stateData.length < field s.twin.stateHdr 12 4 := by
    rw [List.length_append] at hd
    omega
  have hx := stateData_takes hst hcopy hin hroom
  rw [if_neg (not_le.2 hd), List.take_of_length_le hd.le] at hx
  refine ⟨_, hx.trans (congrArg _ (afterAck_idle (.inl ?_))), hh.calm.memory.trans (sameMemory_of rfl rfl), rfl⟩
  show u.twin.st ≠ _
  rw [hh.st, hst]
  nofun

theorem stateData_puts (hin : FrameIn 6 f s u) (hroom : s.twin.stateData.length < field s.twin.stateHdr 12 4)
    (hd : field s.twin.stateHdr 12 4 ≤ (s.twin.stateData ++ slice f 16 236).length) (hsub : field s.twin.stateHdr 0 1 = 1) :
    ∃ t, exec (.stateData f) s = .next t ∧ t.far.mem = (farPut s (field s.twin.stateHdr 4 4 * 2 ^ 24 + field s.twin.stateHdr 8 4 * 4096)
      ((s.twin.stateData ++ slice f 16 236).take (field s.twin.stateHdr 12 4))).far.mem := by
  have hh := frameIn_heard hin
  have hx := stateData_takes hst hcopy hin hroom
  rw [if_pos hd] at hx
  have hfar : (modTwin u fun x => { x with stateData := (s.twin.stateData ++ slice f 16 236).take (field s.twin.stateHdr 12 4) }).far = s.far :=
    hh.far
  have hv : (modTwin u fun x => { x with stateData := (s.twin.stateData ++ slice f 16 236).take (field s.twin.stateHdr 12 4) }).twin.st = .rejoinTarget :=
    hh.st.trans hst
  generalize (s.twin.stateData ++ slice f 16 236).take (field s.twin.stateHdr 12 4) = d at hx hfar hv
  generalize (modTwin u fun x => { x with stateData := d }) = v at hx hfar hv
  have htake : takeState v s.twin.stateHdr d = farPut v (field s.twin.stateHdr 4 4 * 2 ^ 24 + field s.twin.stateHdr 8 4 * 4096) d := by
    unfold takeState
    rw [hsub]
    rfl
  rw [htake] at hx
  refine ⟨_, hx.trans (congrArg _ (afterAck_idle (.inl ?_))), farPut_congr hfar ..⟩
  rw [farPut_eq]
  show v.twin.st ≠ _
  rw [hv]
  nofun

end

/-! #### CONTROL (R286, R296 to R298, R302, R305) -/

theorem ctlOp_of {n : Nat} (hop : ctlOp f = n) : ∀ o, some n = some o → ctlOp f = o := fun o h => by
  injection h with h
  rw [hop, h]

theorem pair_answers (hin : FrameIn 5 f s u) (hop : ctlOp f = 1) (hst : s.twin.st = .pairing) : ∃ t, exec (.pair f) s = .next t ∧ SameMemory s t ∧
    t.twin.peerInfo = slice f 20 72 ∧ ∀ st role, s.twin.peerHb = some (st, role) → misfit s (slice f 20 72) role = false → unpairable s = false →
      t.twin.pairAckSent = true := by
  have hh := frameIn_heard hin
  have hx : exec (.pair f) s = .next (afterAck (answerPair (modTwin u fun x => { x with peerInfo := slice f 20 72 }))) := by
    show twinRow 5 (some 1) f s _ = _
    rw [twinRow_acts hin (ctlOp_of hop)]
    rw [if_pos (hh.st.trans hst)]
  have hm : SameMemory s (modTwin u fun x => { x with peerInfo := slice f 20 72 }) := hh.calm.memory.trans (sameMemory_of rfl rfl)
  have hv : (modTwin u fun x => { x with peerInfo := slice f 20 72 }).twin.st = .pairing := hh.st.trans hst
  have hinfo : (modTwin u fun x => { x with peerInfo := slice f 20 72 }).twin.peerInfo = slice f 20 72 := rfl
  have hhb : (modTwin u fun x => { x with peerInfo := slice f 20 72 }).twin.peerHb = s.twin.peerHb := by
    show u.twin.peerHb = _
    rw [hh.state]
  have hrole : (modTwin u fun x => { x with peerInfo := slice f 20 72 }).twin.roleNow = s.twin.roleNow := by
    show u.twin.roleNow = _
    rw [hh.state]
  have hfirm : (modTwin u fun x => { x with peerInfo := slice f 20 72 }).firm = s.firm := hh.firm
  have hplace : (modTwin u fun x => { x with peerInfo := slice f 20 72 }).place = s.place := hh.place
  have hfar : (modTwin u fun x => { x with peerInfo := slice f 20 72 }).far = s.far := hh.far
  generalize (modTwin u fun x => { x with peerInfo := slice f 20 72 }) = v at hx hm hv hinfo hhb hrole hfirm hplace hfar
  have ha := answered_answerPair v
  refine ⟨_, hx.trans (congrArg _ (afterAck_idle (.inl (ha.source (by rw [hv]; nofun))))), hm.trans ha.memory, ha.info.trans hinfo,
    fun st role hr hfit hpair => ?_⟩
  refine answerPair_answers (hhb.trans hr) hv ?_ ?_ ?_
  · rw [hinfo]
    intro h
    have hlen : (slice f 20 72).length = 72 := by
      unfold slice
      rw [List.length_take, List.length_drop, frameIn_length hin]
      rfl
    rw [h] at hlen
    cases hlen
  · rw [hinfo, misfit_congr hfirm hrole]
    exact hfit
  · rw [unpairable_congr hplace hfar]
    exact hpair

theorem pairAck_pairs (hin : FrameIn 5 f s u) (hop : ctlOp f = 2) (hst : s.twin.st = .pairing) : ∃ t, exec (.pairAck f) s = .next t ∧
    SameMemory s t ∧ t.twin.pairAckGot = true ∧
    (s.twin.pairAckSent = true → t.twin.st = .paired ∧ t.twin.epoch = s.twin.epoch + 1) ∧
    (s.twin.pairAckSent = false → t.twin.st = .pairing) := by
  have hh := frameIn_heard hin
  have hx : exec (.pairAck f) s = .next (afterAck (tryPaired (modTwin u fun x => { x with pairAckGot := true }))) := by
    show twinRow 5 (some 2) f s _ = _
    rw [twinRow_acts hin (ctlOp_of hop)]
    rw [if_pos (hh.st.trans hst)]
  have hm : SameMemory s (modTwin u fun x => { x with pairAckGot := true }) := hh.calm.memory.trans (sameMemory_of rfl rfl)
  have hv : (modTwin u fun x => { x with pairAckGot := true }).twin.st = .pairing := hh.st.trans hst
  have hgot : (modTwin u fun x => { x with pairAckGot := true }).twin.pairAckGot = true := rfl
  have hsent : (modTwin u fun x => { x with pairAckGot := true }).twin.pairAckSent = s.twin.pairAckSent := by
    show u.twin.pairAckSent = _
    rw [hh.state]
  have hepoch : (modTwin u fun x => { x with pairAckGot := true }).twin.epoch = s.twin.epoch := by
    show u.twin.epoch = _
    rw [hh.state]
  generalize (modTwin u fun x => { x with pairAckGot := true }) = v at hx hm hv hgot hsent hepoch
  obtain ⟨ha, -, hg⟩ := answered_tryPaired v
  obtain ⟨-, ht⟩ := tryPaired_tries v
  refine ⟨_, hx.trans (congrArg _ (afterAck_idle (.inl (ha.source (by rw [hv]; nofun))))), hm.trans ha.memory, hg.trans hgot, fun hs => ?_, fun hs => ?_⟩
  · have hc : (v.twin.st = .pairing && v.twin.pairAckGot && v.twin.pairAckSent) = true := by
      rw [hv, hgot, hsent, hs]
      rfl
    rw [if_pos hc] at ht
    rw [ht, ← hepoch]
    exact ⟨rfl, rfl⟩
  · have hc : ¬(v.twin.st = .pairing && v.twin.pairAckGot && v.twin.pairAckSent) = true := by
      rw [hv, hgot, hsent, hs]
      exact Bool.false_ne_true
    rw [if_neg hc] at ht
    rw [ht, hv]

theorem losePeer_paired {v : State} (hst : v.twin.st = .paired) : losePeer v =
    partWays (setTwin (logInc (modTwin v fun x => { x with peerHb := none }) { cls := 0x40 }) .lost) := by
  have h0 : (modTwin v fun x => { x with peerHb := none }).twin.st = .paired := hst
  unfold losePeer
  dsimp only
  rw [h0]

theorem unpair_loses (hin : FrameIn 5 f s u) (hop : ctlOp f = 3) (hst : s.twin.st = .paired) : ∃ t, exec (.unpair f) s = .next t ∧
    SameMemory s t ∧ t.twin.st = .lost := by
  have hh := frameIn_heard hin
  have hx : exec (.unpair f) s = .next (afterAck (losePeer u)) := twinRow_acts hin (ctlOp_of hop) losePeer
  rw [losePeer_paired (hh.st.trans hst)] at hx
  have h0 : SameMemory u (modTwin u fun x => { x with peerHb := none }) := sameMemory_of rfl rfl
  generalize (modTwin u fun x => { x with peerHb := none }) = v at hx h0
  obtain ⟨hm, ht⟩ := partWays_logged v { cls := 0x40 } .lost
  refine ⟨_, hx.trans (congrArg _ (afterAck_idle (.inl ?_))), (hh.calm.memory.trans h0).trans hm, by rw [ht]⟩
  rw [ht]
  nofun

/-- An offer of a rejoin is taken. -/
def offered (f : List Byte) (s : State) : State :=
  modTwin s fun x =>
    { x with epoch := BitVec.ofNat 16 (field f 4 2)
             peerInfo := slice f 20 72
             copying := true
             lanes := x.trained
             endSeen := false
             stateHdr := []
             stateData := []
             rejoinPages := 0 }

theorem rejoinOffer_accepted {st role : Byte} (hin : FrameIn 5 f s u) (hop : ctlOp f = 4) (hst : s.twin.st = .pairing)
    (hhb : s.twin.peerHb = some (st, role)) (hfit : misfit s (slice f 20 72) role = false) (hpair : unpairable s = false) :
    ∃ t, exec (.rejoinOffer f) s = .next t ∧ SameMemory s t ∧ t.twin.st = .rejoinTarget ∧ t.twin.epoch = BitVec.ofNat 16 (field f 4 2) ∧
      t.twin.copying = true := by
  have hh := frameIn_heard hin
  have h1 : ¬u.twin.st ≠ .pairing := not_not_intro (hh.st.trans hst)
  have hhb' : u.twin.peerHb = some (st, role) := by rw [hh.state]; exact hhb
  have h2 : ¬misfit u (slice f 20 72) role = true := by
    rw [misfit_congr hh.firm (by rw [hh.state]), hfit]
    exact Bool.false_ne_true
  have h3 : ¬unpairable u = true := by
    rw [unpairable_congr hh.place hh.far, hpair]
    exact Bool.false_ne_true
  have hx : exec (.rejoinOffer f) s = .next (afterAck (setTwin (sendSeq (offered f u) 5 (control (offered f u) 5)) .rejoinTarget)) := by
    show twinRow 5 (some 4) f s _ = _
    rw [twinRow_acts hin (ctlOp_of hop), if_neg h1, hhb']
    dsimp only
    rw [if_neg h2, if_neg h3]
    rfl
  have hm : SameMemory u (offered f u) := sameMemory_of rfl rfl
  have he : (offered f u).twin.epoch = BitVec.ofNat 16 (field f 4 2) := rfl
  have hc : (offered f u).twin.copying = true := rfl
  generalize control (offered f u) 5 = pl at hx
  generalize offered f u = v at hx hm he hc
  have hs := sent_sendSeq v 5 pl
  generalize sendSeq v 5 pl = w at hx hs
  obtain ⟨hset, ht, -, -⟩ := setTwin_sets w .rejoinTarget
  refine ⟨_, hx.trans (congrArg _ (afterAck_idle (.inl ?_))), ((hh.calm.memory.trans hm).trans hs.calm.memory).trans hset.memory, ?_, ?_, ?_⟩
  · rw [ht]
    nofun
  · rw [ht]
  · rw [ht, ← he]
    show w.twin.epoch = _
    rw [hs.state]
  · rw [ht, ← hc]
    show w.twin.copying = _
    rw [hs.state]

theorem rejoinAccept_sources (hin : FrameIn 5 f s u) (hop : ctlOp f = 5) (hreq : s.twin.rejoinReq = true)
    (hst : s.twin.st = .survivor ∨ s.twin.st = .lost) : ∃ t, exec (.rejoinAccept f) s = .next t ∧ SameMemory s t ∧ t.twin.st = .rejoinSource ∧
      t.twin.prev = s.twin.st := by
  have hh := frameIn_heard hin
  have hc : (u.twin.rejoinReq && (u.twin.st = .survivor || u.twin.st = .lost)) = true := by
    rw [hh.st, show u.twin.rejoinReq = true by rw [hh.state]; exact hreq]
    rcases hst with h | h <;> rw [h] <;> rfl
  have hx : exec (.rejoinAccept f) s = .next (afterAck (setTwin (modTwin u fun x => { x with prev := x.st, rejoinReq := false, copying := false }) .rejoinSource)) := by
    show twinRow 5 (some 5) f s _ = _
    rw [twinRow_acts hin (ctlOp_of hop)]
    rw [if_pos hc]
  have hm : SameMemory s (modTwin u fun x => { x with prev := x.st, rejoinReq := false, copying := false }) :=
    hh.calm.memory.trans (sameMemory_of rfl rfl)
  have hp : (modTwin u fun x => { x with prev := x.st, rejoinReq := false, copying := false }).twin.prev = s.twin.st := hh.st
  have hcp : (modTwin u fun x => { x with prev := x.st, rejoinReq := false, copying := false }).twin.copying = false := rfl
  generalize (modTwin u fun x => { x with prev := x.st, rejoinReq := false, copying := false }) = v at hx hm hp hcp
  obtain ⟨hset, ht, -, -⟩ := setTwin_sets v .rejoinSource
  exact ⟨_, hx.trans (congrArg _ (afterAck_idle (.inr (by rw [ht]; exact hcp)))), hm.trans hset.memory, by rw [ht], by rw [ht]; exact hp⟩

theorem sendHeartbeat_sends (v : State) : Sent (modTwin v fun x => { x with hbCount := x.hbCount + 1 }) (sendHeartbeat v) := sent_sendUnseq ..

theorem rejoinDone_pairs (hin : FrameIn 5 f s u) (hop : ctlOp f = 6) (hst : s.twin.st = .rejoinTarget) (hcopy : s.twin.copying = true)
    (hend : s.twin.endSeen = true) : ∃ t, exec (.rejoinDone f) s = .next t ∧ SameMemory s t ∧ t.twin.st = .paired ∧
      t.twin.epoch = s.twin.epoch + 1 := by
  have hh := frameIn_heard hin
  have hc : (u.twin.st = .rejoinTarget && u.twin.copying && u.twin.endSeen) = true := by
    rw [hh.state, hst, hcopy, hend]
    rfl
  have hx : exec (.rejoinDone f) s = .next (afterAck (leaveStep8 (enterPaired (sendHeartbeat u)))) := by
    show twinRow 5 (some 6) f s _ = _
    rw [twinRow_acts hin (ctlOp_of hop)]
    rw [if_pos hc]
  have hs := sendHeartbeat_sends u
  have hm : SameMemory s (sendHeartbeat u) := (hh.calm.memory.trans (sameMemory_of rfl rfl)).trans hs.calm.memory
  have he : (sendHeartbeat u).twin.epoch = s.twin.epoch := by
    rw [hs.state]
    show u.twin.epoch = _
    rw [hh.state]
  generalize sendHeartbeat u = v at hx hm he
  obtain ⟨hm1, ht1⟩ := enterPaired_enters v
  obtain ⟨hm2, ht2⟩ := leaveStep8_leaves (enterPaired v)
  refine ⟨_, hx.trans (congrArg _ (afterAck_idle (.inl ?_))), (hm.trans hm1).trans hm2, ?_, ?_⟩
  · rw [ht2, ht1]
    nofun
  · rw [ht2, ht1]
  · rw [ht2, ht1, ← he]

end

/-- Settles O57: a frame that is not accepted, then each TYPE and OPCODE by its own lemma. -/
theorem twinFramesAct : Obligations.TwinFramesAct := by
  refine ⟨fun f s hup htype hst => ⟨heartbeat_counted hup htype hst, heartbeat_outOfPlace hup htype hst⟩,
    fun f s u => ⟨heartbeat_shows, fun hin hst hp => ⟨digest_kept hin hst rfl hp rfl, fun hx hnone hn hrec hcsd =>
      ⟨digest_completes hin hst rfl hp rfl hx hnone hn hrec hcsd, digest_stops hin hst rfl hp rfl hx hnone hn hrec hcsd⟩⟩,
    failstop_survives, fun hin hst hcopy => twinState_heads hst hcopy hin,
    fun hin hst hcopy => ⟨stateData_gathers hst hcopy hin, stateData_puts hst hcopy hin⟩, ?_, pairAck_pairs, unpair_loses,
    fun st role => rejoinOffer_accepted, rejoinAccept_sources, rejoinDone_pairs⟩⟩
  exact fun hin hop hst => pair_answers hin hop hst

end Sys2Proof.Machine
end

section
/-!
PROOFS. Events of twin operation (R286, R292, R294 to R298, R302).
-/

namespace Sys2Proof.Machine

/-! ### What a frame carries (Table 10-5) -/

theorem field_head (x : Byte) (l : List Byte) : field (x :: l) 0 1 = x.toNat := by
  simp [field, leNat]

theorem twinFrame_carries (s : State) (type : Byte) (u : Bool) (q : W32) (x : Byte) (l : List Byte) :
    (twinFrame s type u q (x :: l)).length = 256 ∧ field (twinFrame s type u q (x :: l)) 0 1 = type.toNat ∧
      field (twinFrame s type u q (x :: l)) 16 1 = x.toNat := by
  have hlen (m : List Byte) : (twinFrame s type u q m).length = 256 := by
    unfold twinFrame
    simp only [List.length_append, leBytes_length, length_fit, List.length_cons, List.length_nil]
  refine ⟨hlen _, field_head .., ?_⟩
  unfold twinFrame
  dsimp only
  have hhead : ([type, BitVec.ofNat 8 ((if u then 1 else 0) + (if s.twin.nakOwed then 2 else 0)), 1, 0] ++ leBytes 2 s.twin.epoch.toNat ++
      [0, 0] ++ leBytes 4 q.toNat ++ leBytes 4 s.twin.rxSeq.toNat : List Byte).length = 16 := by
    simp only [List.length_append, leBytes_length, List.length_cons, List.length_nil]
  have hfit : fit 236 (x :: l) = x :: (l ++ zeros 236).take 235 := rfl
  rw [hfit]
  rw [List.append_assoc _ _ (leBytes 4 _), field_skip hhead.le, hhead]
  exact field_head ..

theorem twinFrame_type (s : State) (type : Byte) (u : Bool) (q : W32) (m : List Byte) : field (twinFrame s type u q m) 0 1 = type.toNat :=
  field_head ..

/-- A lane of the rotation is an active one. -/
theorem laneFrom_active {lanes : Byte} (h : lanes ≠ 0) (n : Nat) : lanes.getLsbD (laneFrom lanes n) = true := by
  have hex : ∃ j, j < 8 ∧ lanes.getLsbD j = true := by
    by_contra hno
    refine h (BitVec.eq_of_getLsbD_eq fun j hj => ?_)
    have hz : (0 : Byte).getLsbD j = false := BitVec.getLsbD_zero
    rw [hz, Bool.eq_false_iff]
    exact fun hb => hno ⟨j, hj, hb⟩
  obtain ⟨j, hj, hb⟩ := hex
  have hsome : (((List.range 8).map fun i => (n + i) % 8).find? fun i => lanes.getLsbD i).isSome = true := by
    rw [List.find?_isSome]
    refine ⟨j, List.mem_map.2 ⟨(j + 8 - n % 8) % 8, List.mem_range.2 (by omega), by omega⟩, hb⟩
  obtain ⟨k, hk⟩ := Option.isSome_iff_exists.1 hsome
  unfold laneFrom
  rw [hk]
  exact List.find?_some hk

theorem twinUp_lanes {s : State} (h : twinUp s = true) : s.twin.lanes ≠ 0 := by
  simp only [twinUp, Bool.and_eq_true, decide_eq_true_eq] at h
  exact h.1.1

/-! ### HEARTBEAT_TIMER (R294, R302) -/

theorem sendHeartbeat_leaves {s : State} (hup : twinUp s = true) : ∃ lane fr, (sendHeartbeat s).outbox = s.outbox ++ [.twin lane fr] ∧
    s.twin.lanes.getLsbD lane = true ∧ fr.length = 256 ∧ field fr 0 1 = 1 ∧ field fr 16 1 = twinCode s.twin.st := by
  have hup' : twinUp (modTwin s fun x => { x with hbCount := x.hbCount + 1 }) = true := hup
  have heq : sendHeartbeat s = putLane (modTwin s fun x => { x with hbCount := x.hbCount + 1 }) (laneFrom s.twin.lanes s.twin.lane)
      (twinFrame (modTwin s fun x => { x with hbCount := x.hbCount + 1 }) 1 true 0
        (BitVec.ofNat 8 (twinCode s.twin.st) :: ([s.twin.roleNow, s.twin.lanes, 0] ++ leBytes 4 s.twin.hbCount.toNat))) := if_pos hup'
  obtain ⟨hlen, htype, hcode⟩ := twinFrame_carries (modTwin s fun x => { x with hbCount := x.hbCount + 1 }) 1 true 0
    (BitVec.ofNat 8 (twinCode s.twin.st)) ([s.twin.roleNow, s.twin.lanes, 0] ++ leBytes 4 s.twin.hbCount.toNat)
  refine ⟨_, _, by rw [heq]; rfl, laneFrom_active (twinUp_lanes hup) _, hlen, htype, hcode.trans ?_⟩
  cases s.twin.st <;> rfl

theorem heartbeatTimer_sends {s : State} (hup : twinUp s = true) (hsolo : s.twin.st ≠ .solo) (hstop : s.twin.st ≠ .failStopped)
    (hsrc : s.twin.st ≠ .rejoinSource) : ∃ t lane fr, exec .heartbeatTimer s = .next t ∧ t.outbox = s.outbox ++ [.twin lane fr] ∧
      s.twin.lanes.getLsbD lane = true ∧ fr.length = 256 ∧ field fr 0 1 = 1 ∧ field fr 16 1 = twinCode s.twin.st ∧
      t.twin.hbCount = s.twin.hbCount + 1 ∧ t.twin.st = s.twin.st := by
  have hc : ¬(!twinUp s || s.twin.st = .solo || s.twin.st = .failStopped) = true := by
    rw [hup, decide_eq_false hsolo, decide_eq_false hstop]
    decide
  have hx : exec .heartbeatTimer s = .next (startCopy (sendHeartbeat s)) := if_neg hc
  obtain ⟨lane, fr, hout, hl, hlen, htype, hcode⟩ := sendHeartbeat_leaves hup
  have hs := sendHeartbeat_sends s
  have hst : (sendHeartbeat s).twin.st = s.twin.st := hs.heard.st
  have hhb : (sendHeartbeat s).twin.hbCount = s.twin.hbCount + 1 := by
    rw [hs.state]
    rfl
  generalize sendHeartbeat s = v at hx hout hst hhb
  have hno : startCopy v = v := by
    refine if_neg ?_
    rw [hst, decide_eq_false hsrc]
    exact Bool.false_ne_true
  exact ⟨v, lane, fr, hx.trans (congrArg _ hno), hout, hl, hlen, htype, hcode, hhb, hst⟩

theorem livePages_congr {s t : State} (h : t.far = s.far) : livePages t = livePages s := by
  unfold livePages getEnt
  rw [h]

theorem copyReady_congr {s t : State} (hg : t.gate = s.gate) (hs : t.sites = s.sites) (hp : t.place = s.place) : copyReady t = copyReady s := by
  unfold copyReady pclThere pclLive pclCores pclBeds getPcl getCtx getCore getSite csite tsite factoryIdle coreAbsent
  rw [hg, hs, hp]

theorem heartbeatTimer_copies {s : State} (hup : twinUp s = true) (hsrc : s.twin.st = .rejoinSource) (hcopy : s.twin.copying = false)
    (hready : copyReady s = true) : ∃ t, exec .heartbeatTimer s = .next t ∧ t.twin.copying = true ∧
      t.twin.rejoinPages = BitVec.ofNat 32 (livePages s).length := by
  have hc : ¬(!twinUp s || s.twin.st = .solo || s.twin.st = .failStopped) = true := by
    rw [hup, hsrc]
    decide
  have hx : exec .heartbeatTimer s = .next (startCopy (sendHeartbeat s)) := if_neg hc
  have hs := sendHeartbeat_sends s
  have hst : (sendHeartbeat s).twin.st = .rejoinSource := hs.heard.st.trans hsrc
  have hcp : (sendHeartbeat s).twin.copying = false := by
    rw [hs.state]
    exact hcopy
  have hfar : (sendHeartbeat s).far = s.far := hs.heard.far
  have hcr : copyReady (sendHeartbeat s) = copyReady s := copyReady_congr hs.heard.gate (by rw [hs.state]; rfl) hs.heard.place
  generalize sendHeartbeat s = v at hx hst hcp hfar hcr
  have hgo : (v.twin.st = .rejoinSource && !v.twin.copying && copyReady v) = true := by
    rw [hst, hcp, hcr, hready]
    rfl
  have heq : startCopy v = sendSeqs (modTwin v fun x => { x with copying := true, rejoinPages := BitVec.ofNat 32 (livePages v).length }) (copyMsgs v) :=
    if_pos hgo
  have hsent := sent_sendSeqs (modTwin v fun x => { x with copying := true, rejoinPages := BitVec.ofNat 32 (livePages v).length }) (copyMsgs v)
  rw [heq] at hx
  refine ⟨_, hx, ?_, ?_⟩
  · rw [hsent.state]
    rfl
  · rw [hsent.state, ← livePages_congr hfar]
    rfl

/-! ### A peer that is gone (R294, R298) -/

theorem partWays_releases {s v : State} (hg : v.gate = s.gate) {p : Nat} (hp : p < 8) (hx : (getPcl s p).mark.phase = .exchange)
    (hr : (markRec s p).isSome = true) : (getPcl (partWays v) p).bmarks = (getPcl s p).bmarks + 1 := by
  have hpcl : getPcl (freshLink v) p = getPcl s p := by
    unfold getPcl
    exact congrArg (fun g : Gate => sget {} g.parcels p) hg
  have hrec : markRec (freshLink v) p = markRec s p := by
    unfold markRec waitersOf getWin
    exact congrArg (fun g : Gate => ((List.range 64).filterMap fun w => match (sget {} g.windows w).waitRec with
      | none => none
      | some r => if recOp r = 0x12 ∧ (sget {} g.windows w).parcel = p then some (w, r) else none).head?) hg
  unfold partWays
  rw [releaseMarks_releases hp (by rw [hpcl]; exact hx) (by rw [hrec]; exact hr), hpcl]

/-- What a survivor's failed rejoin leaves. -/
theorem failRejoin_returns {s : State} (hst : s.twin.st = .rejoinSource) : SameMemory s (failRejoin s) ∧ (failRejoin s).twin.st = s.twin.prev := by
  have hlog := kept_logInc s { cls := 0x47 }
  unfold failRejoin
  dsimp only
  generalize logInc s { cls := 0x47 } = a at hlog
  have h0 : SameMemory a (modTwin a fun x => { x with copying := false, rejoinReq := false, endSeen := false }) := sameMemory_of rfl rfl
  have hst0 : (modTwin a fun x => { x with copying := false, rejoinReq := false, endSeen := false }).twin.st = .rejoinSource := by
    show a.twin.st = _
    rw [hlog.twin, hst]
  have hprev0 : (modTwin a fun x => { x with copying := false, rejoinReq := false, endSeen := false }).twin.prev = s.twin.prev := by
    show a.twin.prev = _
    rw [hlog.twin]
  generalize (modTwin a fun x => { x with copying := false, rejoinReq := false, endSeen := false }) = b at h0 hst0 hprev0
  rw [if_pos hst0]
  have hfold := foldl_keeps (f := fun s p => if (getPcl s p).rejoinHold then modPcl s p fun x => { x with rejoinHold := false } else s)
    (P := fun u => SameMemory b u ∧ u.twin = b.twin) (fun u p hu => by
      split
      · exact ⟨hu.1.trans (sameMemory_of rfl rfl), hu.2⟩
      · exact hu) (List.range 8) b ⟨sameMemory_refl b, rfl⟩
  generalize (List.range 8).foldl (fun s p => if (getPcl s p).rejoinHold then modPcl s p fun x => { x with rejoinHold := false } else s) b = d at hfold
  obtain ⟨hm, ht⟩ := hfold
  obtain ⟨hset, hs, -, -⟩ := setTwin_sets (freshLink d) d.twin.prev
  refine ⟨(((hlog.memory.trans h0).trans hm).trans (heard_freshLink d).calm.memory).trans hset.memory, ?_⟩
  rw [hs]
  show d.twin.prev = _
  rw [ht, hprev0]

section
variable {s : State} (hup : s.pwr.lodgeUp = true) (hhalt : s.pwr.halt = false)
include hup hhalt

theorem peerLost_loses : exec .peerLost s = .next (losePeer s) := by
  refine if_pos ?_
  rw [hup, hhalt]
  rfl

theorem peerLost_paired (hst : s.twin.st = .paired) : ∃ t, exec .peerLost s = .next t ∧ SameMemory s t ∧ t.twin.st = .lost ∧
    t.twin.peerHb = none ∧
    ∀ p, p < 8 → (getPcl s p).mark.phase = .exchange → (markRec s p).isSome = true → (getPcl t p).bmarks = (getPcl s p).bmarks + 1 := by
  have hx := peerLost_loses hup hhalt
  rw [losePeer_paired hst] at hx
  have h0 : SameMemory s (modTwin s fun x => { x with peerHb := none }) := sameMemory_of rfl rfl
  have hg : (modTwin s fun x => { x with peerHb := none }).gate = s.gate := rfl
  have hhb : (modTwin s fun x => { x with peerHb := none }).twin.peerHb = none := rfl
  generalize (modTwin s fun x => { x with peerHb := none }) = v at hx h0 hg hhb
  obtain ⟨hm, ht⟩ := partWays_logged v { cls := 0x40 } .lost
  have hgate : (setTwin (logInc v { cls := 0x40 }) .lost).gate = s.gate := by
    rw [(setTwin_sets _ _).2.2.1, (kept_logInc v _).gate, hg]
  exact ⟨_, hx, h0.trans hm, by rw [ht], by rw [ht]; exact hhb, fun p hp hph hr => partWays_releases hgate hp hph hr⟩

theorem peerLost_rejoin (hst : s.twin.st = .rejoinSource) : ∃ t, exec .peerLost s = .next t ∧ SameMemory s t ∧ t.twin.st = s.twin.prev := by
  have hx := peerLost_loses hup hhalt
  have h0 : SameMemory s (modTwin s fun x => { x with peerHb := none }) := sameMemory_of rfl rfl
  have hst0 : (modTwin s fun x => { x with peerHb := none }).twin.st = .rejoinSource := hst
  have heq : losePeer s = failRejoin (modTwin s fun x => { x with peerHb := none }) := by
    unfold losePeer
    dsimp only
    rw [hst0]
  obtain ⟨hm, hs⟩ := failRejoin_returns hst0
  exact ⟨_, hx.trans (congrArg _ heq), h0.trans hm, hs⟩

end

theorem digestTimeout_loses {p : Nat} {s : State} (hp : p < 8) (hst : s.twin.st = .paired) (hx : (getPcl s p).mark.phase = .exchange) :
    ∃ t, exec (.digestTimeout p) s = .next t ∧ SameMemory s t ∧ t.twin.st = .lost := by
  have hrow : exec (.digestTimeout p) s = .next (releaseMarks (setTwin (sendSeq (logInc s { cls := 0x44, parcel := some p, domain := 56 + pclDie s p }) 5
      (control (logInc s { cls := 0x44, parcel := some p, domain := 56 + pclDie s p }) 3)) .lost)) := if_pos ⟨hst, hp, hx⟩
  have hlog := kept_logInc s { cls := 0x44, parcel := some p, domain := 56 + pclDie s p }
  generalize logInc s { cls := 0x44, parcel := some p, domain := 56 + pclDie s p } = a at hrow hlog
  have hs := sent_sendSeq a 5 (control a 3)
  generalize sendSeq a 5 (control a 3) = b at hrow hs
  obtain ⟨hset, ht, -, -⟩ := setTwin_sets b .lost
  obtain ⟨hm, hr⟩ := releaseMarks_keeps (setTwin b .lost)
  exact ⟨_, hrow, ((hlog.memory.trans hs.calm.memory).trans hset.memory).trans hm, by rw [hr, ht]⟩

/-! ### FAILSTOP_REPEAT and TWIN_FRAME_REPLAY (R292, R294, R295) -/

theorem sendLanes_sends (type : Byte) (payload : List Byte) (l : List Nat) (hl : l.Nodup) (s : State) : ∃ fr : Nat → List Byte,
    (l.foldl (fun s i => putLane s i (twinFrame s type true 0 payload)) s).outbox = s.outbox ++ l.map (fun i => .twin i (fr i)) ∧
    ∀ i ∈ l, field (fr i) 0 1 = type.toNat := by
  induction l generalizing s with
  | nil => exact ⟨fun _ => [], (List.append_nil _).symm, nofun⟩
  | cons i l ih =>
    obtain ⟨hi, hl⟩ := List.nodup_cons.1 hl
    obtain ⟨fr, hout, htype⟩ := ih hl (putLane s i (twinFrame s type true 0 payload))
    have hne (j : Nat) (hj : j ∈ l) : j ≠ i := fun he => hi (he ▸ hj)
    refine ⟨fun j => if j = i then twinFrame s type true 0 payload else fr j, ?_, fun j hj => ?_⟩
    · have hmap : l.map (fun j => OutMsg.twin j (if j = i then twinFrame s type true 0 payload else fr j)) = l.map fun j => .twin j (fr j) :=
        List.map_congr_left fun j hj => by rw [if_neg (hne j hj)]
      rw [List.foldl_cons, hout, List.map_cons, hmap]
      dsimp only
      rw [if_pos rfl]
      show (s.outbox ++ [_]) ++ _ = _
      rw [List.append_assoc]
      rfl
    · dsimp only
      split
      · exact twinFrame_type ..
      next h =>
        rcases List.mem_cons.1 hj with hj | hj
        · exact absurd hj h
        · exact htype j hj

theorem failstopRepeat_repeats {s : State} (hst : s.twin.st = .failStopped) (hmsg : s.twin.failMsg.isSome = true) (hup : twinUp s = true) :
    ∃ t, ∃ fr : Nat → List Byte, exec .failstopRepeat s = .next t ∧ t.outbox = s.outbox ++
      (((List.range 8).filter fun i => s.twin.lanes.getLsbD i).map fun i => .twin i (fr i)) ∧
      ∀ i, i < 8 → s.twin.lanes.getLsbD i = true → field (fr i) 0 1 = 3 := by
  have hc : (s.twin.st = .failStopped && s.twin.failMsg.isSome && twinUp s) = true := by
    rw [hst, hmsg, hup]
    rfl
  have hx : exec .failstopRepeat s = .next (sendAll s 3 (failPayload s)) := if_pos hc
  have hall : sendAll s 3 (failPayload s) = ((List.range 8).filter fun i => s.twin.lanes.getLsbD i).foldl
      (fun u i => putLane u i (twinFrame u 3 true 0 (failPayload s))) s := if_pos hup
  obtain ⟨fr, hout, htype⟩ := sendLanes_sends 3 (failPayload s) ((List.range 8).filter fun i => s.twin.lanes.getLsbD i)
    (List.nodup_range.filter _) s
  rw [hall] at hx
  exact ⟨_, fr, hx, hout, fun i hi hb => htype i (List.mem_filter.2 ⟨List.mem_range.2 hi, hb⟩)⟩

/-- A frame of the replay buffer is sent again. -/
def resend (s : State) (f : List Byte) : State :=
  let s := modTwin s fun x => { x with tries := smod 0 x.tries (frameSeq f).toNat (· + 1) }
  putFrame (bump s twnBlock 3 1) (twinFrame s (BitVec.ofNat 8 (field f 0 1)) false (frameSeq f) ((f.drop 16).take 236))

theorem resend_sends (s : State) (f : List Byte) : (∃ m, (resend s f).outbox = s.outbox ++ [m]) ∧ (resend s f).twin.replay = s.twin.replay ∧
    ∀ k, sget 0 (resend s f).twin.tries k = if k = (frameSeq f).toNat then sget 0 s.twin.tries (frameSeq f).toNat + 1 else sget 0 s.twin.tries k :=
  ⟨⟨_, rfl⟩, rfl, fun k => sget_smod 0 s.twin.tries (frameSeq f).toNat k (· + 1)⟩

theorem resendAll_sends (l : List (List Byte)) (s : State) : ∃ fs, (l.foldl resend s).outbox = s.outbox ++ fs ∧ fs.length = l.length ∧
    (l.foldl resend s).twin.replay = s.twin.replay ∧ (∀ k, sget 0 s.twin.tries k ≤ sget 0 (l.foldl resend s).twin.tries k) ∧
    ∀ f ∈ l, sget 0 s.twin.tries (frameSeq f).toNat < sget 0 (l.foldl resend s).twin.tries (frameSeq f).toNat := by
  induction l generalizing s with
  | nil => exact ⟨[], (List.append_nil _).symm, rfl, rfl, fun _ => le_rfl, nofun⟩
  | cons f l ih =>
    obtain ⟨⟨m, hm⟩, hrep, htries⟩ := resend_sends s f
    obtain ⟨fs, hout, hlen, hrep', hle, hlt⟩ := ih (resend s f)
    have hone (k : Nat) : sget 0 s.twin.tries k ≤ sget 0 (resend s f).twin.tries k := by
      rw [htries]
      split
      next h => rw [h]; exact Nat.le_succ _
      · exact le_rfl
    rw [List.foldl_cons]
    refine ⟨m :: fs, ?_, by rw [List.length_cons, List.length_cons, hlen], hrep'.trans hrep, fun k => (hone k).trans (hle k), fun g hg => ?_⟩
    · rw [hout, hm, List.append_assoc]
      rfl
    · rcases List.mem_cons.1 hg with hg | hg
      · refine lt_of_lt_of_le ?_ (hle _)
        rw [htries, hg, if_pos rfl]
        exact Nat.lt_succ_self _
      · exact (hone _).trans_lt (hlt g hg)

theorem twinFrameReplay_runs {s : State} (hup : twinUp s = true) (hrep : s.twin.replay ≠ []) :
    exec .twinFrameReplay s = if triedOut s = true then .next (losePeer s) else .next (replayFrames s) := by
  have hc : ¬(!twinUp s || s.twin.replay = []) = true := by
    rw [hup, decide_eq_false hrep]
    exact Bool.false_ne_true
  exact if_neg hc

theorem twinFrameReplay_resends {s : State} (hup : twinUp s = true) (hrep : s.twin.replay ≠ []) (htry : triedOut s = false) :
    ∃ t fs, exec .twinFrameReplay s = .next t ∧ t.outbox = s.outbox ++ fs ∧ fs.length = s.twin.replay.length ∧
      t.twin.replay = s.twin.replay ∧
      ∀ f ∈ s.twin.replay, sget 0 s.twin.tries (frameSeq f).toNat < sget 0 t.twin.tries (frameSeq f).toNat := by
  have hx := twinFrameReplay_runs hup hrep
  rw [htry, if_neg Bool.false_ne_true] at hx
  obtain ⟨fs, hout, hlen, hr, -, hlt⟩ := resendAll_sends s.twin.replay s
  exact ⟨_, fs, hx, hout, hlen, hr, hlt⟩

/-! ### LANE_DROP (R294) -/

theorem laneDrop_drops {l : Nat} {s : State} (hl : l < 8) (hb : s.twin.lanes.getLsbD l = true) (hup : s.pwr.lodgeUp = true) :
    ∃ t, exec (.laneDrop l) s = .next t ∧ SameMemory s t ∧ ∀ j, t.twin.lanes.getLsbD j = (s.twin.lanes.getLsbD j && decide (j ≠ l)) := by
  have hx : exec (.laneDrop l) s = .next (modTwin (logInc (bump (takeFree s).2 twnBlock 4 (17 + (takeFree s).1.toNat))
      { cls := 0x45, detail := BitVec.ofNat 32 l }) fun x => { x with lanes := x.lanes &&& ~~~(2 ^ l) }) := if_pos ⟨hl, hb, hup⟩
  have h0 : SameMemory s (bump (takeFree s).2 twnBlock 4 (17 + (takeFree s).1.toNat)) := sameMemory_of rfl rfl
  have ht0 : (bump (takeFree s).2 twnBlock 4 (17 + (takeFree s).1.toNat)).twin = s.twin := rfl
  generalize bump (takeFree s).2 twnBlock 4 (17 + (takeFree s).1.toNat) = a at hx h0 ht0
  have hlog := kept_logInc a { cls := 0x45, detail := BitVec.ofNat 32 l }
  generalize logInc a { cls := 0x45, detail := BitVec.ofNat 32 l } = b at hx hlog
  refine ⟨_, hx, (h0.trans hlog.memory).trans (sameMemory_of rfl rfl), fun j => ?_⟩
  show (b.twin.lanes &&& ~~~(2 ^ l)).getLsbD j = _
  rw [getLsbD_cleared _ hl, hlog.twin, ht0]
  simp

/-! ### Pairing at bring-up (R286, R296) -/

/-- The pairing exchange begins on a fresh link. -/
def pairingBegun (s : State) : State :=
  modTwin (freshLink s) fun x => { x with lanes := x.trained, peerHb := none, peerInfo := [], pairSent := true, pairAckSent := false, pairAckGot := false }

section
variable {s : State} (h : atStep s 8 = true) (hst : s.twin.st = .solo)
include h hst

/-- PAIRING of a module that is SOLO. -/
theorem pairing_solo : exec .pairing s = if (!s.twin.modeNow) = true then .next (toStep s 9) else if unpairable s = true then .next (refusePairing s)
    else .next (sendUnseq (setTwin (pairingBegun s) .pairing) 5
      (control (pairingBegun s) 1)) := by
  have h1 : ¬s.twin.st = .pairing := by rw [hst]; nofun
  have h2 : ¬s.twin.st ≠ .solo := not_not_intro hst
  show execPairing s = _
  unfold execPairing
  rw [if_neg (bringup_runs h), if_neg h1, if_neg h2]
  rfl

theorem pairing_unpaired (hmode : s.twin.modeNow = false) : exec .pairing s = .next (toStep s 9) := by
  rw [pairing_solo h hst, hmode]
  rfl

theorem pairing_refused (hmode : s.twin.modeNow = true) (hun : unpairable s = true) : ∃ t, exec .pairing s = .next t ∧ t.twin.st = .solo ∧
    t.pwr.bringStep = 9 := by
  have hx : exec .pairing s = .next (refusePairing s) := by
    rw [pairing_solo h hst, hmode, hun]
    rfl
  refine ⟨_, hx, by rw [(refusePairing_refuses s).2], ?_⟩
  have hlog : Calm s (logInc s { cls := 0x46 }) := (told_logInc ..).calm
  unfold refusePairing
  generalize logInc s { cls := 0x46 } = a at hlog
  have hpwr : (setTwin a .solo).pwr = s.pwr := (setTwin_sets a .solo).1.pwr.trans hlog.pwr
  have hat : atStep (setTwin a .solo) 8 = true := by
    unfold atStep at h ⊢
    rw [hpwr]
    exact h
  unfold leaveStep8
  rw [if_pos hat]
  rfl

theorem pairing_begins (hmode : s.twin.modeNow = true) (hun : unpairable s = false) : ∃ t, exec .pairing s = .next t ∧ t.twin.st = .pairing ∧
    t.twin.pairSent = true ∧ t.twin.pairAckSent = false ∧ t.twin.pairAckGot = false := by
  have hx := pairing_solo h hst
  rw [hmode, hun, if_neg Bool.false_ne_true, if_neg (show ¬(!true) = true from Bool.false_ne_true)] at hx
  have h1 : (pairingBegun s).twin.pairSent = true := rfl
  have h2 : (pairingBegun s).twin.pairAckSent = false := rfl
  have h3 : (pairingBegun s).twin.pairAckGot = false := rfl
  generalize control (pairingBegun s) 1 = pl at hx
  generalize pairingBegun s = a at hx h1 h2 h3
  have ht := (setTwin_sets a .pairing).2.1
  generalize setTwin a .pairing = b at hx ht
  have hs := sent_sendUnseq b 5 pl
  refine ⟨_, hx, ?_, ?_, ?_, ?_⟩
  · rw [hs.state, ht]
  · rw [hs.state, ht]
    exact h1
  · rw [hs.state, ht]
    exact h2
  · rw [hs.state, ht]
    exact h3

end

theorem pairingTimeout_ends {s : State} (hst : s.twin.st = .pairing) (hno : awaitsRejoin s = false) :
    ∃ t, exec .pairingTimeout s = .next t ∧ SameMemory s t ∧ t.twin.st = .solo := by
  have hc : (s.twin.st = .pairing && !awaitsRejoin s) = true := by
    rw [hst, hno]
    rfl
  obtain ⟨hm, ht⟩ := refusePairing_refuses s
  exact ⟨_, if_pos hc, hm, by rw [ht]⟩

/-! ### REJOIN_REQ (R302) -/

section
variable {s : State} (hready : dictReady s = true) (hfs : s.pwr.failStopped = false) (hfree : Unopened s 0x5006)
include hready hfs hfree

theorem rejoinReq_puts (v : Byte) : mgmtRow 0x5006 0 [v] s = .next (putRejoin s v.toNat).2 := by
  have hfind : findObj 0x5006 0 = .ok ⟨0x5006, 0, 0, .fixed 1, .wo, .mgmt, .none⟩ := rfl
  have hx := mgmtRow_puts (data := [v]) hready (.inl hfs) hfree hfind rfl rfl
  have hv : leNat [v] = v.toNat := by simp [leNat]
  have hput : putObj s (.mgmt 0) 0x5006 (objKey 0x5006).2 0 [v] = putRejoin s (leNat [v]) := rfl
  exact hx.trans (by rw [hput, hv])

theorem rejoinStart_offers (hst : s.twin.st = .survivor ∨ s.twin.st = .lost) : ∃ t, exec .rejoinStart s = .next t ∧ SameMemory s t ∧
    t.twin.rejoinReq = true ∧ t.twin.st = s.twin.st := by
  have halone : (s.twin.st = .survivor || s.twin.st = .lost) = true := by
    rcases hst with h | h <;> rw [h] <;> rfl
  have hc : ¬(!(s.twin.st = .survivor || s.twin.st = .lost) || s.pwr.failStopped) = true := by
    rw [halone, hfs]
    exact Bool.false_ne_true
  have hput : putRejoin s 1 = grant (sendSeq (modTwin (freshLink s) fun x => { x with rejoinReq := true, lanes := x.trained }) 5
      (control (modTwin (freshLink s) fun x => { x with rejoinReq := true, lanes := x.trained }) 4)) := if_neg hc
  have hm0 : SameMemory s (modTwin (freshLink s) fun x => { x with rejoinReq := true, lanes := x.trained }) := sameMemory_of rfl rfl
  have hr0 : (modTwin (freshLink s) fun x => { x with rejoinReq := true, lanes := x.trained }).twin.rejoinReq = true := rfl
  have hst0 : (modTwin (freshLink s) fun x => { x with rejoinReq := true, lanes := x.trained }).twin.st = s.twin.st := rfl
  generalize (modTwin (freshLink s) fun x => { x with rejoinReq := true, lanes := x.trained }) = v at hput hm0 hr0 hst0
  have hs := sent_sendSeq v 5 (control v 4)
  refine ⟨_, (rejoinReq_puts hready hfs hfree 1).trans (next_grant hput), hm0.trans hs.calm.memory, ?_, ?_⟩
  · rw [hs.state]
    exact hr0
  · rw [hs.heard.st]
    exact hst0

theorem rejoinCancel_cancels (hst : s.twin.st = .rejoinSource) (hcopy : s.twin.copying = false) : ∃ t, exec .rejoinCancel s = .next t ∧
    SameMemory s t ∧ t.twin.st = s.twin.prev := by
  have hc : (s.twin.st = .rejoinSource && !s.twin.copying) = true := by
    rw [hst, hcopy]
    rfl
  have hput : putRejoin s 2 = grant (failRejoin (sendSeq s 5 (control s 3))) := if_pos hc
  have hs := sent_sendSeq s 5 (control s 3)
  generalize sendSeq s 5 (control s 3) = v at hput hs
  obtain ⟨hm, ht⟩ := failRejoin_returns (hs.heard.st.trans hst)
  refine ⟨_, (rejoinReq_puts hready hfs hfree 2).trans (next_grant hput), hs.calm.memory.trans hm, ?_⟩
  rw [ht, hs.state]

end

/-- Settles O58: each event by its own lemma. -/
theorem twinEventsAct : Obligations.TwinEventsAct := by
  refine ⟨fun s hup hsolo hstop => ⟨heartbeatTimer_sends hup hsolo hstop, heartbeatTimer_copies hup⟩,
    fun s hup hhalt => ⟨peerLost_paired hup hhalt, peerLost_rejoin hup hhalt⟩, fun p s => digestTimeout_loses,
    fun s => failstopRepeat_repeats, fun s hup hrep => ⟨twinFrameReplay_resends hup hrep, fun htry => ?_⟩, fun l s => laneDrop_drops,
    fun s h => ⟨pairing_unpaired h, pairing_refused h, pairing_begins h⟩, fun s => pairingTimeout_ends,
    fun s hready hfs hopen => ⟨rejoinStart_offers hready hfs (hopen.unopened (by simp)), rejoinCancel_cancels hready hfs (hopen.unopened (by simp))⟩⟩
  rw [twinFrameReplay_runs hup hrep, if_pos htry]

end Sys2Proof.Machine
end

section
/-!
PROOFS. What a context that tries its waiting instruction again leaves of the parcels and windows: the records that windows
execute, the beds and the marks made so far; and it never makes a pair.
-/

namespace Sys2Proof.Machine

/-- Windows keep their record and their setting, parcels their beds and their count of marks, and no pair is made. -/
structure Stirred (s t : State) : Prop where
  wait : ∀ v, (getWin t v).waitRec = (getWin s v).waitRec
  ctl : ∀ v, (getWin t v).ctl = (getWin s v).ctl
  bmarks : ∀ q, (getPcl t q).bmarks = (getPcl s q).bmarks
  beds : ∀ q, (getPcl t q).beds = (getPcl s q).beds
  twin : t.twin.st = .paired → s.twin.st = .paired

theorem Stirred.refl (s : State) : Stirred s s := ⟨fun _ => rfl, fun _ => rfl, fun _ => rfl, fun _ => rfl, id⟩

theorem Stirred.trans {s t u : State} (h : Stirred s t) (k : Stirred t u) : Stirred s u where
  wait v := (k.wait v).trans (h.wait v)
  ctl v := (k.ctl v).trans (h.ctl v)
  bmarks q := (k.bmarks q).trans (h.bmarks q)
  beds q := (k.beds q).trans (h.beds q)
  twin hp := h.twin (k.twin hp)

/-- What leaves the Gatehouse and the twin alone. -/
theorem stirred_same {s t : State} (hg : t.gate = s.gate) (ht : t.twin = s.twin) : Stirred s t where
  wait v := by rw [getWin, getWin, hg]
  ctl v := by rw [getWin, getWin, hg]
  bmarks q := by rw [getPcl, getPcl, hg]
  beds q := by rw [getPcl, getPcl, hg]
  twin hp := by rw [← ht]; exact hp

theorem Stirred.then {s t u : State} (h : Stirred s t) (hg : u.gate = t.gate) (ht : u.twin = t.twin) : Stirred s u :=
  h.trans (stirred_same hg ht)

theorem stirred_foldl {α : Type} {f : State → α → State} (h : ∀ s x, Stirred s (f s x)) (l : List α) (s : State) :
    Stirred s (l.foldl f s) := foldl_keeps (fun u y hu => hu.trans (h u y)) l s (.refl s)

theorem stirred_ite {c : Prop} [Decidable c] {s t u : State} (h : Stirred s t) (k : Stirred s u) :
    Stirred s (if c then t else u) := by
  split
  · exact h
  · exact k

theorem stirred_bump (s : State) (b i n : Nat) : Stirred s (bump s b i n) := stirred_same rfl rfl

theorem stirred_modCore (s : State) (c : Nat) (f : Site → Site) : Stirred s (modCore s c f) := stirred_same rfl rfl

theorem stirred_modCtx (s : State) (c k : Nat) (f : Ctx → Ctx) : Stirred s (modCtx s c k f) := stirred_modCore ..

theorem stirred_retire (s : State) (c k : Nat) : Stirred s (retire s c k) := stirred_modCtx ..

theorem stirred_giveUp (s : State) (c k : Nat) : Stirred s (giveUp s c k) := stirred_modCore ..

theorem stirred_block (s : State) (c k : Nat) (eligible : Bool) (w : Wait) : Stirred s (block s c k eligible w) := by
  unfold block
  split
  · exact (stirred_giveUp ..).trans (stirred_modCtx ..)
  · exact stirred_modCtx ..

theorem stirred_modPcl (s : State) (p : Nat) {f : Parcel → Parcel} (hf : ∀ x, (f x).bmarks = x.bmarks ∧ (f x).beds = x.beds) :
    Stirred s (modPcl s p f) where
  wait _ := rfl
  ctl _ := rfl
  bmarks q := by
    rw [getPcl_modPcl]
    split
    next h => rw [h]; exact (hf _).1
    · rfl
  beds q := by
    rw [getPcl_modPcl]
    split
    next h => rw [h]; exact (hf _).2
    · rfl
  twin := id

/-! ### Records, traps and errors -/

theorem stirred_emitRec (s : State) (w : Nat) (b : List Byte) (irq : Bool) : Stirred s (emitRec s w b irq) where
  wait v := by rw [getWin_emitRec]
  ctl v := by rw [getWin_emitRec]
  bmarks q := by rw [(booked_emitRec s w b irq).pcl]
  beds q := by rw [(booked_emitRec s w b irq).pcl]
  twin := by
    rw [(booked_emitRec s w b irq).state]
    exact id

theorem stirred_pclRec (s : State) (p : Nat) (b : List Byte) : Stirred s (pclRec s p b) := by
  unfold pclRec
  split
  · exact stirred_emitRec ..
  · exact stirred_modPcl _ _ fun _ => ⟨rfl, rfl⟩

theorem stirred_trapAt (s : State) (c k : Nat) (pc : W64) (cause : Nat) (val : W64) : Stirred s (trapAt s c k pc cause val) := by
  unfold trapAt
  dsimp only
  split
  · exact (stirred_giveUp ..).trans (stirred_modCtx ..)
  · exact ((stirred_giveUp ..).trans (stirred_modCtx ..)).trans (stirred_pclRec ..)

theorem stirred_trap (e : Enc) (s : State) (cause : Nat) (val : W64) : Stirred s (e.trap s cause val) := stirred_trapAt ..

theorem stirred_logInc (s : State) (i : Inc) : Stirred s (logInc s i) := by
  obtain ⟨r, f, d, h⟩ := logInc_eq s i
  rw [h]
  exact stirred_same rfl rfl

theorem stirred_failStop (s : State) (cls cause : Nat) : Stirred s (failStop s cls cause) := by
  have hgate : (failStop s cls cause).gate = s.gate := by rw [failStop_eq]
  have hwin (v : Nat) : getWin (failStop s cls cause) v = getWin s v := by rw [getWin, getWin, hgate]
  have hpcl (q : Nat) : getPcl (failStop s cls cause) q = getPcl s q := by rw [getPcl, getPcl, hgate]
  refine ⟨fun v => by rw [hwin], fun v => by rw [hwin], fun q => by rw [hpcl], fun q => by rw [hpcl], fun hp => ?_⟩
  cases ht : twinned s with
  | true => rw [(failStop_twinned s cls cause ht).2] at hp; cases hp
  | false =>
    unfold failStop at hp
    dsimp only at hp
    rw [if_neg (by rw [ht]; exact Bool.false_ne_true), raiseAlert_eq] at hp
    exact hp

theorem stirred_stopStep (s : State) (p : Nat) (st : StepStop) : Stirred s (stopStep s p st) := stirred_modPcl _ _ fun _ => ⟨rfl, rfl⟩

theorem stirred_terrTally (s : State) (site row n : Nat) : Stirred s (terrTally s site row n) := by
  unfold terrTally
  dsimp only
  exact stirred_ite (stirred_same rfl rfl) (stirred_same rfl rfl)

theorem stirred_farTally (s : State) (p row n : Nat) : Stirred s (farTally s p row n) := by
  unfold farTally
  dsimp only
  exact stirred_ite (stirred_same rfl rfl) (stirred_same rfl rfl)

theorem stirred_countUnc (s : State) (cls kind num : Nat) (addr : W64) : Stirred s (countUnc s cls kind num addr) := by
  unfold countUnc
  refine stirred_ite (stirred_same rfl rfl) (stirred_ite ?_ (stirred_ite ?_ (stirred_ite (stirred_same rfl rfl) (.refl s))))
  · exact (stirred_bump ..).trans (stirred_terrTally ..)
  · exact (stirred_bump ..).trans (stirred_farTally ..)

theorem stirred_countOwn (s : State) (own : Option Nat) : Stirred s (countOwn s own) := by
  cases own with
  | none => exact .refl s
  | some c => exact stirred_same rfl rfl

theorem stirred_fenceSecond (s : State) (own : Option Nat) : Stirred s (fenceSecond s own) := by
  cases own with
  | none => exact .refl s
  | some c =>
    have hf : Stirred s (fenceCore s c) := stirred_same rfl rfl
    unfold fenceSecond
    dsimp only
    split
    · exact hf
    · exact hf.trans (stirred_stopStep ..)

theorem stirred_uncData (s : State) (p cls kind num : Nat) (addr : W64) (upd : Bool) (own : Option Nat) (detail : W32) :
    Stirred s (uncData s p cls kind num addr upd own detail) := by
  unfold uncData
  dsimp only
  have hlog (i : Inc) (r : Repair) :
      Stirred s (countOwn { logInc (countUnc s cls kind num (incAddr kind addr)) i with repair := r } own) := by
    refine Stirred.trans ?_ (stirred_countOwn _ own)
    exact ((stirred_countUnc ..).trans (stirred_logInc _ i)).then rfl rfl
  refine stirred_ite ((hlog _ _).trans (stirred_failStop ..)) (Stirred.trans ?_ (stirred_stopStep ..))
  exact stirred_ite ((hlog _ _).trans (stirred_fenceSecond ..)) (hlog _ _)

theorem stirred_uncArith (s : State) (c cls kind num : Nat) (addr : W64) (upd : Bool) : Stirred s (uncArith s c cls kind num addr upd) :=
  stirred_uncData ..

theorem stirred_writeFaultRec (s : State) (p fpn kind held : Nat) (r : FaultReq) : Stirred s (writeFaultRec s p fpn kind held r) :=
  (stirred_bump ..).trans (stirred_pclRec ..)

theorem stirred_addFault (s : State) (p fpn kind : Nat) (r : FaultReq) : Stirred s (addFault s p fpn kind r) := by
  unfold addFault
  dsimp only
  refine stirred_ite (stirred_same rfl rfl) (stirred_ite (Stirred.trans ?_ (stirred_writeFaultRec ..)) (stirred_same rfl rfl))
  exact stirred_same rfl rfl

theorem stirred_startSnoop (s : State) (line : Nat) (inv : Bool) : Stirred s (startSnoop s line inv) := by
  unfold startSnoop
  refine stirred_foldl (fun u x => ?_) _ s
  exact stirred_ite (stirred_same rfl rfl) (.refl u)

/-- What has changed memories alone. -/
theorem OnlyMemories.stirred {s t : State} (h : OnlyMemories s t) : Stirred s t :=
  stirred_same (by rw [h.state]) (by rw [h.state])

theorem stirred_engWrite {s t : State} {c unit : Nat} {sp : Spaces} {a : W64} {bs : List Byte} (h : engWrite s c unit sp a bs = .ok t) :
    Stirred s t := by
  unfold engWrite at h
  cases hp : engPut s c sp a bs with
  | error e =>
    rw [hp] at h
    cases h
  | ok u =>
    rw [hp] at h
    injection h with h
    rw [← h]
    exact (onlyMemories_engPut hp).stirred.then rfl rfl

/-! ### Attempts -/

/-- An attempt that comes about leaves what an attempt leaves. -/
structure Stirs (s : State) (o : Option State) : Prop where
  left : ∀ t, o = some t → Stirred s t

theorem stirs_none (s : State) : Stirs s none := ⟨fun _ h => by cases h⟩

theorem stirs_some {s t : State} (h : Stirred s t) : Stirs s (some t) := ⟨fun u hu => by
  injection hu with hu
  rw [← hu]
  exact h⟩

theorem stirs_same {s t : State} (hg : t.gate = s.gate) (ht : t.twin = s.twin) : Stirs s (some t) := stirs_some (stirred_same hg ht)

theorem stirs_ite {c : Prop} [Decidable c] {s : State} {o o' : Option State} (h : Stirs s o) (k : Stirs s o') :
    Stirs s (if c then o else o') := by
  split
  · exact h
  · exact k

theorem Stirs.getD {s t : State} {o : Option State} (h : Stirs s o) (k : Stirred s t) : Stirred s (o.getD t) := by
  cases o with
  | none => exact k
  | some u => exact h.left u rfl

theorem stirs_heldAtPort (s : State) (e : Enc) : Stirs s (heldAtPort s e) := by
  unfold heldAtPort
  split
  · exact stirs_none s
  · exact stirs_same rfl rfl

theorem stirs_cairnHeld (e : Enc) (s : State) : Stirs s (cairnHeld e s) := by
  unfold cairnHeld
  dsimp only
  split
  · exact stirs_none s
  · exact stirs_ite (stirs_same rfl rfl) (stirs_none s)

theorem stirs_attUpdate (op : Ctx → BeaconOp) (e : Enc) (s : State) : Stirs s (attUpdate op e s) := by
  unfold attUpdate
  dsimp only
  split
  next t h => exact stirs_some ((stirs_heldAtPort s e).left t h)
  · exact stirs_ite (stirs_none s) (stirs_same rfl rfl)

theorem stirs_attHalt (e : Enc) (s : State) : Stirs s (attHalt e s) := by
  unfold attHalt
  dsimp only
  split
  next t h => exact stirs_some ((stirs_heldAtPort s e).left t h)
  · exact stirs_ite (stirs_none s) (stirs_same rfl rfl)

theorem stirs_attCpy (e : Enc) (s : State) : Stirs s (attCpy e s) := by
  unfold attCpy
  dsimp only
  split
  next t h => exact stirs_some ((stirs_heldAtPort s e).left t h)
  · exact stirs_ite (stirs_none s) (stirs_same rfl rfl)

theorem stirs_attCpyw (e : Enc) (s : State) : Stirs s (attCpyw e s) := by
  unfold attCpyw
  dsimp only
  exact stirs_ite (stirs_same rfl rfl) (stirs_none s)

theorem stirs_attVld (d : Bool) (e : Enc) (s : State) : Stirs s (attVld d e s) := by
  unfold attVld
  dsimp only
  split
  · exact stirs_some (stirred_trap ..)
  · refine stirs_ite ?_ (stirs_ite (stirs_none s) (stirs_same rfl rfl))
    split
    · exact stirs_same rfl rfl
    · exact stirs_some (stirred_uncArith ..)
    · exact stirs_some (stirred_trap ..)

theorem stirs_attVst (d : Bool) (e : Enc) (s : State) : Stirs s (attVst d e s) := by
  unfold attVst
  dsimp only
  split
  · exact stirs_some (stirred_trap ..)
  · refine stirs_ite ?_ (stirs_ite (stirs_none s) (stirs_same rfl rfl))
    split
    next h => exact stirs_some ((stirred_engWrite h).then rfl rfl)
    · exact stirs_some (stirred_trap ..)

theorem stirred_cairnPush (s : State) (c : Nat) (bs : List Byte) : Stirred s (cairnPush s c bs) := by
  unfold cairnPush
  refine (stirred_modCore ..).trans (stirred_foldl (fun u x => ?_) _ _)
  exact stirred_same rfl rfl

theorem stirs_attCpush (e : Enc) (s : State) : Stirs s (attCpush e s) := by
  unfold attCpush
  dsimp only
  split
  next t h => exact stirs_some ((stirs_cairnHeld e s).left t h)
  refine stirs_ite (stirs_none s) (stirs_ite (stirs_some (stirred_trap ..)) (stirs_ite ?_ (stirs_none s)))
  exact stirs_some (((stirred_cairnPush ..).trans (stirred_modCtx ..)).trans (stirred_retire ..))

theorem stirs_popThen (e : Enc) (n : Nat) (s : State) {f : List Byte → State → State} (hf : ∀ bs s, Stirred s (f bs s)) :
    Stirs s (popThen e n s f) := by
  unfold popThen
  dsimp only
  refine stirs_ite (stirs_some (stirred_trap ..)) ?_
  split
  · exact stirs_none s
  · exact stirs_some (stirred_trap ..)
  · exact stirs_some (stirred_uncArith ..)
  · exact stirs_some ((stirred_modCore ..).trans (hf ..))

theorem stirs_attCpopv (e : Enc) (s : State) : Stirs s (attCpopv e s) := by
  unfold attCpopv
  split
  next t h => exact stirs_some ((stirs_cairnHeld e s).left t h)
  · exact stirs_popThen e _ s fun _ _ => stirred_same rfl rfl

theorem stirs_attCpop (e : Enc) (s : State) : Stirs s (attCpop e s) := by
  unfold attCpop
  dsimp only
  split
  next t h => exact stirs_some ((stirs_cairnHeld e s).left t h)
  refine stirs_popThen e _ s fun bs u => ?_
  split
  next h => exact (stirred_engWrite h).then rfl rfl
  · exact stirred_trap ..

theorem stirs_attCreset (e : Enc) (s : State) : Stirs s (attCreset e s) := by
  unfold attCreset
  split
  next t h => exact stirs_some ((stirs_cairnHeld e s).left t h)
  · exact stirs_ite (stirs_none s) (stirs_same rfl rfl)

theorem stirs_attLd (n : Nat) (sext : Bool) (e : Enc) (s : State) : Stirs s (attLd n sext e s) := by
  unfold attLd
  dsimp only
  split
  · exact stirs_some (stirred_trap ..)
  · exact stirs_ite (stirs_heldAtPort s e) (stirs_ite (stirs_none s) (stirs_same rfl rfl))

theorem stirs_attSt (n : Nat) (e : Enc) (s : State) : Stirs s (attSt n e s) := by
  unfold attSt
  dsimp only
  split
  · exact stirs_some (stirred_trap ..)
  · exact stirs_ite (stirs_heldAtPort s e) (stirs_ite (stirs_none s) (stirs_same rfl rfl))

theorem stirs_attTld (e : Enc) (s : State) : Stirs s (attTld e s) := by
  unfold attTld
  dsimp only
  refine stirs_ite (stirs_none s) ?_
  split
  · exact stirs_some (stirred_uncArith ..)
  · exact stirs_some (stirred_trap ..)
  · exact stirs_some (stirred_ite (stirred_same rfl rfl) (stirred_trap ..))

theorem stirs_attTeval (e : Enc) (s : State) : Stirs s (attTeval e s) := by
  unfold attTeval
  dsimp only
  exact stirs_ite (stirs_none s) (stirs_same rfl rfl)

theorem stirs_attTevalm (e : Enc) (s : State) : Stirs s (attTevalm e s) := by
  unfold attTevalm
  dsimp only
  exact stirs_ite (stirs_none s) (stirs_same rfl rfl)

theorem stirs_attWinit (e : Enc) (s : State) : Stirs s (attWinit e s) := by
  unfold attWinit
  dsimp only
  split
  next t h => exact stirs_some ((stirs_cairnHeld e s).left t h)
  · exact stirs_ite (stirs_none s) (stirs_some ((stirred_modCore ..).trans (stirred_block ..)))

theorem stirs_attWzero (e : Enc) (s : State) : Stirs s (attWzero e s) := by
  unfold attWzero
  dsimp only
  split
  next t h => exact stirs_some ((stirs_cairnHeld e s).left t h)
  · exact stirs_ite (stirs_same rfl rfl) (stirs_none s)

theorem stirs_attWflush (b : List Byte) (e : Enc) (s : State) : Stirs s (attWflush b e s) := by
  unfold attWflush
  split
  next t h => exact stirs_some ((stirs_cairnHeld e s).left t h)
  · exact stirs_ite (stirs_same rfl rfl) (stirs_none s)

theorem stirs_attWsync (e : Enc) (s : State) : Stirs s (attWsync e s) := by
  unfold attWsync
  dsimp only
  split
  next t h => exact stirs_some ((stirs_cairnHeld e s).left t h)
  · exact stirs_ite (stirs_none s) (stirs_same rfl rfl)

theorem stirs_attTcfg (e : Enc) (s : State) : Stirs s (attTcfg e s) := by
  unfold attTcfg
  dsimp only
  exact stirs_ite (stirs_none s) (stirs_ite (stirs_some (stirred_trap ..)) (stirs_some (((stirred_modCore ..).trans (stirred_modCtx ..)).trans (stirred_retire ..))))

theorem stirs_attTsync (e : Enc) (s : State) : Stirs s (attTsync e s) := by
  unfold attTsync
  exact stirs_ite (stirs_none s) (stirs_same rfl rfl)

theorem stirs_attTdrv (e : Enc) (s : State) : Stirs s (attTdrv e s) := by
  unfold attTdrv
  dsimp only
  exact stirs_ite (stirs_none s) (stirs_same rfl rfl)

theorem stirs_attTdrn (b : List Byte) (e : Enc) (s : State) : Stirs s (attTdrn b e s) := by
  unfold attTdrn
  dsimp only
  exact stirs_ite (stirs_none s) (stirs_same rfl rfl)

/-! ### Launches and the norm gate -/

theorem stirred_unlessHeld (e : Enc) (s : State) {f : State → State} (hf : Stirred s (f s)) : Stirred s (unlessHeld e s f) := by
  unfold unlessHeld
  split
  next h => exact (stirs_heldAtPort s e).left _ h
  · exact hf

theorem stirred_launchProg (e : Enc) (a : W64) (b : List Byte) (s : State) : Stirred s (launchProg e a b s) := by
  unfold launchProg
  dsimp only
  split
  · exact stirred_uncArith ..
  · exact stirred_trap ..
  · split
    · exact stirred_trap ..
    · exact stirred_unlessHeld e s ((stirred_modCore ..).trans (stirred_block ..))

theorem stirred_launchRange (e : Enc) (a : W64) (b : List Byte) (n : Nat) (s : State) : Stirred s (launchRange e a b n s) := by
  unfold launchRange
  exact stirred_ite (stirred_trap ..) (stirred_ite (stirred_trap ..) (stirred_launchProg ..))

theorem stirred_launchSized (e : Enc) (a : W64) (b : List Byte) (s : State) : Stirred s (launchSized e a b s) := by
  unfold launchSized
  refine stirred_ite (stirred_launchRange ..) ?_
  split
  · exact stirred_launchRange ..
  · exact stirred_trap ..
  · exact stirred_uncArith ..
  · exact ((stirred_giveUp ..).trans (stirred_modCtx ..)).trans (stirred_addFault ..)
  · exact (stirred_startSnoop ..).then rfl rfl
  · exact stirred_same rfl rfl

theorem stirred_launchAt (e : Enc) (s : State) : Stirred s (launchAt e s) := by
  unfold launchAt
  dsimp only
  refine stirred_ite (stirred_trap ..) ?_
  split
  · exact stirred_uncArith ..
  · exact stirred_trap ..
  · exact stirred_ite (stirred_trap ..) (stirred_launchSized ..)

theorem stirred_sendSums (s : State) (c target : Nat) (d : Datum) (w : FlitFor) (i : Nat) (l : List W96) :
    Stirred s (sendSums s c target d w i l) := by
  unfold sendSums
  refine stirred_foldl (fun u x => ?_) _ s
  exact stirred_same rfl rfl

theorem stirs_attNgsend (e : Enc) (s : State) : Stirs s (attNgsend e s) := by
  unfold attNgsend
  dsimp only
  exact stirs_ite (stirs_some (stirred_trap ..)) (stirs_ite (stirs_none s) (stirs_some ((stirred_sendSums ..).then rfl rfl)))

theorem stirs_attNgcast (e : Enc) (s : State) : Stirs s (attNgcast e s) := by
  unfold attNgcast
  dsimp only
  refine stirs_ite (stirs_none s) (stirs_some (Stirred.then (stirred_foldl (fun u x => ?_) _ s) rfl rfl))
  exact stirred_same rfl rfl

theorem stirs_attNgwait (e : Enc) (s : State) : Stirs s (attNgwait e s) := by
  unfold attNgwait
  dsimp only
  exact stirs_ite (stirs_same rfl rfl) (stirs_none s)

/-! ### Waking -/

theorem stirs_attempt (o : WaitOp) (e : Enc) (s : State) : Stirs s (attempt o e s) := by
  cases o with
  | ld => exact stirs_attLd ..
  | st => exact stirs_attSt ..
  | arrive => exact stirs_attUpdate ..
  | addB => exact stirs_attUpdate ..
  | setB => exact stirs_attUpdate ..
  | cpy => exact stirs_attCpy ..
  | cpyw => exact stirs_attCpyw ..
  | tcfg => exact stirs_attTcfg ..
  | tsync => exact stirs_attTsync ..
  | tdrv => exact stirs_attTdrv ..
  | cpush => exact stirs_attCpush ..
  | cpopv => exact stirs_attCpopv ..
  | cpop => exact stirs_attCpop ..
  | creset => exact stirs_attCreset ..
  | winit => exact stirs_attWinit ..
  | wzero => exact stirs_attWzero ..
  | wsync => exact stirs_attWsync ..
  | ngwait => exact stirs_attNgwait ..
  | halt => exact stirs_attHalt ..
  | tld => exact stirs_attTld ..
  | teval => exact stirs_attTeval ..
  | tevalm => exact stirs_attTevalm ..
  | vld => exact stirs_attVld ..
  | vldd => exact stirs_attVld ..
  | vst => exact stirs_attVst ..
  | vstd => exact stirs_attVst ..
  | ulaunch => exact stirs_some (stirred_launchAt ..)
  | ngsend => exact stirs_attNgsend ..
  | ngcast => exact stirs_attNgcast ..
  | wait | tseq | ugauge | tdrn | wflush => exact stirs_none s

theorem stirs_attemptDesc (o : WaitOp) (e : Enc) (b : List Byte) (s : State) : Stirs s (attemptDesc o e b s) := by
  unfold attemptDesc
  split
  · exact stirs_attTdrn ..
  · exact stirs_attWflush ..
  · exact stirs_none s

theorem stirred_wakeCtx (c : Nat) (s : State) (k : Nat) : Stirred s (wakeCtx c s k) := by
  unfold wakeCtx
  dsimp only
  refine stirred_ite ?_ (.refl s)
  split
  · exact (stirs_attempt ..).getD (stirred_ite (stirred_ite (stirred_same rfl rfl) (stirred_same rfl rfl)) (.refl s))
  · exact (stirs_attemptDesc ..).getD (.refl s)
  · exact .refl s

theorem stirred_wake (s : State) (c : Nat) : Stirred s (wake s c) := by
  unfold wake
  exact stirred_ite ((stirred_modCore ..).trans (stirred_foldl (stirred_wakeCtx c) _ _)) (.refl s)

theorem stirred_wakeAll (s : State) (cs : List Nat) : Stirred s (wakeAll s cs) := by
  unfold wakeAll
  exact stirred_foldl stirred_wake cs s

theorem stirred_closeGates (s : State) (p : Nat) : Stirred s (closeGates s p) := by
  unfold closeGates
  refine Stirred.trans (stirred_foldl (fun u c => ?_) _ s) (stirred_wakeAll ..)
  exact stirred_modCore ..

end Sys2Proof.Machine
end

section
/-!
PROOFS. What an abandoned core leaves (R283, R339, R406): every context IDLE, whatever it was doing; and the rest as it was.
-/

namespace Sys2Proof.Machine

/-- The placement and the shadow beacons stand; of parcels only the records that wait to be written have changed, of windows
only the groups that run, the tail of the ring and the records that wait for room. -/
structure Aside (s t : State) : Prop where
  place : t.place = s.place
  shadow : t.mesh.shadow = s.mesh.shadow
  pcl : ∀ q, getPcl t q = { getPcl s q with recBacklog := (getPcl t q).recBacklog }
  win : ∀ v, getWin t v = { getWin s v with groups := (getWin t v).groups, crTail := (getWin t v).crTail, backlog := (getWin t v).backlog }

theorem Aside.refl (s : State) : Aside s s := ⟨rfl, rfl, fun _ => rfl, fun _ => rfl⟩

theorem Aside.trans {s t u : State} (h : Aside s t) (k : Aside t u) : Aside s u where
  place := k.place.trans h.place
  shadow := k.shadow.trans h.shadow
  pcl q := by rw [k.pcl, h.pcl]
  win v := by rw [k.win, h.win]

theorem aside_of {s t : State} (hp : t.place = s.place) (hs : t.mesh.shadow = s.mesh.shadow) (hg : t.gate = s.gate) : Aside s t :=
  ⟨hp, hs, fun q => by rw [getPcl, getPcl, hg], fun v => by rw [getWin, getWin, hg]⟩

theorem aside_modCore (s : State) (c : Nat) (f : Site → Site) : Aside s (modCore s c f) := aside_of rfl rfl rfl

theorem Aside.csite {s t : State} (h : Aside s t) (c : Nat) : Machine.csite t c = Machine.csite s c := by
  unfold Machine.csite tsite coreBed factoryIdle
  rw [h.place]

theorem Aside.pclLive {s t : State} (h : Aside s t) (p : Nat) : Machine.pclLive t p = Machine.pclLive s p := by
  unfold Machine.pclLive pclCores pclBeds coreAbsent
  rw [h.pcl, h.place]

theorem Aside.workWin {s t : State} (h : Aside s t) (p : Nat) : Machine.workWin t p = Machine.workWin s p := by
  have hwin : (fun w => (getWin t w).active && !(getWin t w).service && decide ((getWin t w).parcel = p)) =
      fun w => (getWin s w).active && !(getWin s w).service && decide ((getWin s w).parcel = p) := by
    funext w
    rw [h.win]
    rfl
  unfold Machine.workWin
  rw [hwin]

/-- Aside, and every context stands. -/
structure Unmoved (s t : State) : Prop where
  aside : Aside s t
  ctxs : ∀ n, (getSite t n).ctxs = (getSite s n).ctxs

theorem Unmoved.refl (s : State) : Unmoved s s := ⟨.refl s, fun _ => rfl⟩

theorem Unmoved.trans {s t u : State} (h : Unmoved s t) (k : Unmoved t u) : Unmoved s u :=
  ⟨h.aside.trans k.aside, fun n => (k.ctxs n).trans (h.ctxs n)⟩

theorem unmoved_foldl {α : Type} {f : State → α → State} (h : ∀ s x, Unmoved s (f s x)) (l : List α) (s : State) : Unmoved s (l.foldl f s) :=
  foldl_keeps (fun u y hu => hu.trans (h u y)) l s (.refl s)

theorem unmoved_of {s t : State} (hsites : t.sites = s.sites) (h : Aside s t) : Unmoved s t :=
  ⟨h, fun n => by rw [getSite, getSite, hsites]⟩

theorem unmoved_modCore (s : State) (c : Nat) {f : Site → Site} (hf : ∀ x, (f x).ctxs = x.ctxs) : Unmoved s (modCore s c f) := by
  refine ⟨aside_modCore s c f, fun n => ?_⟩
  rw [getSite_modCore]
  split
  next h => rw [h]; exact hf _
  · rfl

theorem unmoved_bump (s : State) (b i n : Nat) : Unmoved s (bump s b i n) := unmoved_of rfl (aside_of rfl rfl rfl)

theorem aside_emitRec (s : State) (w : Nat) (b : List Byte) (irq : Bool) : Aside s (emitRec s w b irq) where
  place := by rw [emitRec_eq]
  shadow := by rw [emitRec_eq]
  pcl q := by
    have h : getPcl (emitRec s w b irq) q = getPcl s q := by
      unfold emitRec
      split
      · rfl
      · split <;> rfl
    rw [h]
  win v := by rw [getWin_emitRec]

theorem unmoved_pclRec (s : State) (p : Nat) (b : List Byte) : Unmoved s (pclRec s p b) := by
  refine unmoved_of (by rw [pclRec_eq]) ?_
  unfold pclRec
  split
  · exact aside_emitRec ..
  · refine ⟨rfl, rfl, fun q => ?_, fun _ => rfl⟩
    rw [getPcl_modPcl]
    split
    next h => rw [h]
    · rfl

theorem unmoved_noteAllEnds (s : State) : Unmoved s (noteAllEnds s) := by
  unfold noteAllEnds
  refine unmoved_foldl (fun u w => ?_) _ s
  split
  · exact .refl u
  · unfold noteEnds
    refine unmoved_of rfl ⟨rfl, rfl, fun _ => rfl, fun v => ?_⟩
    rw [getWin_modWin]
    split
    next h => rw [h]
    · rfl

theorem unmoved_far (s : State) (x : Far) : Unmoved s { s with far := x } := unmoved_of rfl (aside_of rfl rfl rfl)

theorem unmoved_nextFaultRec (s : State) (p : Nat) : Unmoved s (nextFaultRec s p) := by
  unfold nextFaultRec
  split
  · exact .refl s
  · split
    · exact .refl s
    · split
      · exact .refl s
      · exact ((unmoved_far s _).trans (unmoved_bump ..)).trans (unmoved_pclRec ..)

theorem unmoved_dropFault (s : State) (f : FaultReq → Bool) : Unmoved s (dropFault s f) := by
  unfold dropFault
  dsimp only
  exact (unmoved_far s _).trans (unmoved_foldl (fun u p => unmoved_foldl (fun v _ => unmoved_nextFaultRec v p) _ u) _ _)

theorem unmoved_dropWaits (s : State) (c k : Nat) : Unmoved s (dropWaits s c k) := unmoved_of rfl (aside_of rfl rfl rfl)

theorem unmoved_dropCairnFault (s : State) (c k : Nat) : Unmoved s (dropCairnFault s c k) := by
  unfold dropCairnFault
  split
  · exact unmoved_modCore s c fun _ => rfl
  · exact .refl s

theorem unmoved_modPortF (s : State) (q : Nat) (f : FarPort → FarPort) : Unmoved s (modPortF s q f) := unmoved_far s _

theorem unmoved_dropFlits (s : State) (f : FlitFor → Bool) : Unmoved s (dropFlits s f) := by
  unfold dropFlits
  dsimp only
  refine Unmoved.trans ?_ (unmoved_foldl (fun u q => unmoved_modPortF u q _) _ _)
  exact unmoved_of rfl (aside_of rfl rfl rfl)

theorem unmoved_modChan (s : State) (c ch : Nat) (f : Chan → Chan) : Unmoved s (modChan s c ch f) := unmoved_modCore s c fun _ => rfl

theorem unmoved_endLaunch (s : State) (c k : Nat) : Unmoved s (endLaunch s c k) := by
  unfold endLaunch
  split
  · exact .refl s
  · split
    · unfold dropLaunch
      dsimp only
      split
      · refine Unmoved.trans ?_ (unmoved_modChan ..)
        exact unmoved_modCore s c fun _ => rfl
      · exact unmoved_modCore s c fun _ => rfl
    · exact unmoved_modCore s c fun _ => rfl

/-! ### One context's reset begins -/

/-- The context is being reset, or is IDLE. -/
def Ctx.quelled (y : Ctx) : Prop := y.st = .idle ∨ y.resetting = true

/-- A reset has begun. -/
def Ctx.stopped (y : Ctx) : Ctx :=
  { y with resetting := true, wait := .none, heldSt := [], st := if y.st = .idle then .idle else .waiting }

theorem beginCtxReset_stops (s : State) (c k : Nat) : ((getCtx s c k).resetting = true ∧ beginCtxReset s c k = s) ∨
    ∃ u, Unmoved s u ∧ beginCtxReset s c k = modCtx u c k Ctx.stopped := by
  unfold beginCtxReset
  split
  next h => exact .inl ⟨h, rfl⟩
  · refine .inr ⟨_, ?_, rfl⟩
    have h1 := unmoved_noteAllEnds s
    generalize noteAllEnds s = a at h1
    have h2 := (h1.trans (unmoved_dropFault a (FaultReq.ofCtx (getCairn a c).owner c k))).trans (unmoved_dropWaits _ c k)
    generalize dropWaits (dropFault a (FaultReq.ofCtx (getCairn a c).owner c k)) c k = b at h2
    have h3 := ((h2.trans (unmoved_dropCairnFault b c k)).trans (unmoved_endLaunch _ c k)).trans (unmoved_dropFlits _ (FlitFor.byCtx c k))
    generalize dropFlits (endLaunch (dropCairnFault b c k) c k) (FlitFor.byCtx c k) = d at h3
    exact ((h3.trans (unmoved_modChan ..)).trans (unmoved_modChan ..)).trans (unmoved_modCore _ c fun _ => rfl)

theorem Unmoved.ctx {s t : State} (h : Unmoved s t) (n k : Nat) : (getSite t n).ctx k = (getSite s n).ctx k := by
  unfold Site.ctx
  rw [h.ctxs]

/-- A context of a site after one context of a core has changed. -/
theorem ctx_modCtx (s : State) (c k : Nat) (f : Ctx → Ctx) (n j : Nat) : (getSite (modCtx s c k f) n).ctx j =
    if n = csite s c ∧ j = k then f ((getSite s n).ctx j) else (getSite s n).ctx j := by
  unfold modCtx
  rw [getSite_modCore]
  by_cases hn : n = csite s c
  · rw [if_pos hn, hn]
    unfold Site.ctx Site.modCtx
    rw [sget_smod]
    by_cases hj : j = k
    · rw [if_pos hj, if_pos ⟨rfl, hj⟩, hj]
    · rw [if_neg hj, if_neg fun h => hj h.2]
  · rw [if_neg hn, if_neg fun h => hn h.1]

/-- What a step of an abandonment leaves of the contexts: what was IDLE is IDLE, what was quelled is quelled. -/
structure Quells (s t : State) : Prop where
  aside : Aside s t
  idle : ∀ n k, ((getSite s n).ctx k).st = .idle → ((getSite t n).ctx k).st = .idle
  quelled : ∀ n k, ((getSite s n).ctx k).quelled → ((getSite t n).ctx k).quelled

theorem Quells.refl (s : State) : Quells s s := ⟨.refl s, fun _ _ h => h, fun _ _ h => h⟩

theorem Quells.trans {s t u : State} (h : Quells s t) (k : Quells t u) : Quells s u :=
  ⟨h.aside.trans k.aside, fun n j hs => k.idle n j (h.idle n j hs), fun n j hs => k.quelled n j (h.quelled n j hs)⟩

theorem Unmoved.quells {s t : State} (h : Unmoved s t) : Quells s t :=
  ⟨h.aside, fun n k hs => by rw [h.ctx]; exact hs, fun n k hs => by rw [h.ctx]; exact hs⟩

theorem quells_modCtx (s : State) (c k : Nat) {f : Ctx → Ctx} (hi : ∀ y, y.st = .idle → (f y).st = .idle) (hq : ∀ y, y.quelled → (f y).quelled) :
    Quells s (modCtx s c k f) := by
  refine ⟨aside_modCore .., fun n j hs => ?_, fun n j hs => ?_⟩
  · rw [ctx_modCtx]
    split
    · exact hi _ hs
    · exact hs
  · rw [ctx_modCtx]
    split
    · exact hq _ hs
    · exact hs

theorem stopped_idle (y : Ctx) (h : y.st = .idle) : y.stopped.st = .idle := if_pos h

theorem beginCtxReset_quells (s : State) (c k : Nat) : Quells s (beginCtxReset s c k) ∧
    ((getSite (beginCtxReset s c k) (csite s c)).ctx k).quelled := by
  rcases beginCtxReset_stops s c k with ⟨hr, he⟩ | ⟨u, hu, he⟩
  · rw [he]
    exact ⟨.refl s, .inr hr⟩
  · rw [he]
    refine ⟨hu.quells.trans (quells_modCtx u c k stopped_idle fun _ _ => .inr rfl), ?_⟩
    rw [ctx_modCtx, if_pos ⟨(hu.aside.csite c).symm, rfl⟩]
    exact .inr rfl

/-! ### One context's reset ends -/

theorem becomeIdle_idles (s : State) (c k : Nat) : Quells s (becomeIdle s c k) := by
  have hctx (n j : Nat) : (getSite (becomeIdle s c k) n).ctx j = if n = csite s c ∧ j = k then
      { (getSite s n).ctx j with st := .idle, wait := .none, valloc := 0, town := 0, ended := true } else (getSite s n).ctx j := by
    unfold becomeIdle
    rw [getSite_modCore]
    by_cases hn : n = csite s c
    · rw [if_pos hn, hn]
      dsimp only
      unfold Site.ctx Site.modCtx
      dsimp only
      rw [sget_smod]
      by_cases hj : j = k
      · rw [if_pos hj, if_pos ⟨rfl, hj⟩, hj]
      · rw [if_neg hj, if_neg fun h => hj h.2]
    · rw [if_neg hn, if_neg fun h => hn h.1]
  refine ⟨aside_modCore .., fun n j hs => ?_, fun n j hs => ?_⟩
  · rw [hctx]
    split
    · rfl
    · exact hs
  · rw [hctx]
    split
    · exact .inl rfl
    · exact hs

/-- Of a context only what its launch waits for is written. -/
theorem refreshLaunches_ctx (x : Site) (k : Nat) : ∃ u, (refreshLaunches x).ctx k = { x.ctx k with ustat := u } := by
  unfold refreshLaunches
  dsimp only
  refine List.foldlRecOn (motive := fun y : Site => ∃ u, y.ctx k = { x.ctx k with ustat := u }) _ _ ⟨(x.ctx k).ustat, rfl⟩ fun y hy l _ => ?_
  obtain ⟨u, hu⟩ := hy
  unfold Site.ctx Site.modCtx at *
  dsimp only
  rw [sget_smod]
  split
  next h => rw [← h, hu]; exact ⟨_, rfl⟩
  · exact ⟨u, hu⟩

/-- A core has no context that a wake concerns. -/
def CoreQuelled (s : State) (n : Nat) : Prop := ∀ k, k < 4 → ((getSite s n).ctx k).quelled

theorem wakeCtx_quelled {s : State} {c k : Nat} (h : (getCtx s c k).quelled) : wakeCtx c s k = s := by
  refine if_neg fun hc => ?_
  obtain ⟨hst, hr, -⟩ := hc
  rcases h with hi | hr'
  · rw [hi] at hst
    rcases hst with hst | hst <;> cases hst
  · rw [hr'] at hr
    cases hr

theorem wake_quells {s : State} {c : Nat} (h : CoreQuelled s (csite s c)) : Quells s (wake s c) := by
  have hr : Quells s (modCore s c refreshLaunches) := by
    have hctx (n k : Nat) : ∃ u, (getSite (modCore s c refreshLaunches) n).ctx k = { (getSite s n).ctx k with ustat := u } := by
      rw [getSite_modCore]
      split
      next hn => rw [hn]; exact refreshLaunches_ctx ..
      · exact ⟨_, rfl⟩
    refine ⟨aside_modCore .., fun n k hs => ?_, fun n k hs => ?_⟩
    · obtain ⟨u, hu⟩ := hctx n k
      rw [hu]
      exact hs
    · obtain ⟨u, hu⟩ := hctx n k
      rw [hu]
      exact hs
  have hstay : ∀ k ∈ List.range 4 ++ List.range 4, wakeCtx c (modCore s c refreshLaunches) k = modCore s c refreshLaunches := by
    intro k hk
    have hk4 : k < 4 := by simpa using hk
    exact wakeCtx_quelled (hr.quelled _ k (h k hk4))
  unfold wake
  split
  · have hfold : (List.range 4 ++ List.range 4).foldl (wakeCtx c) (modCore s c refreshLaunches) = modCore s c refreshLaunches :=
      List.foldlRecOn (motive := fun t => t = modCore s c refreshLaunches) _ _ rfl fun t ht k hk => by rw [ht]; exact hstay k hk
    rw [hfold]
    exact hr
  · exact .refl s

theorem endCtxReset_quells {s : State} {c : Nat} (k : Nat) (h : CoreQuelled s (csite s c)) : Quells s (endCtxReset s c k) ∧
    ((getSite (endCtxReset s c k) (csite s c)).ctx k).st = .idle := by
  have h1 := (unmoved_dropCairnFault s c k).quells.trans (becomeIdle_idles _ c k)
  have h2 := h1.trans (unmoved_dropFault (becomeIdle (dropCairnFault s c k) c k) (FaultReq.ofCtx (getCairn s c).owner c k)).quells
  have heq : endCtxReset s c k = wake (bump (modCtx (dropFault (becomeIdle (dropCairnFault s c k) c k) (FaultReq.ofCtx (getCairn s c).owner c k)) c k
    Ctx.afterReset) clkBlock 5 1) c := rfl
  rw [heq]
  generalize dropFault (becomeIdle (dropCairnFault s c k) c k) (FaultReq.ofCtx (getCairn s c).owner c k) = u at h2
  have hcs := h2.aside.csite c
  have h3 := (h2.trans (quells_modCtx u c k (f := Ctx.afterReset) (fun _ _ => rfl) fun _ _ => .inl rfl)).trans
    (unmoved_bump (modCtx u c k Ctx.afterReset) clkBlock 5 1).quells
  have hi : ((getSite (bump (modCtx u c k Ctx.afterReset) clkBlock 5 1) (csite s c)).ctx k).st = .idle := by
    rw [getSite_bump, ctx_modCtx, if_pos ⟨hcs.symm, rfl⟩]
    rfl
  generalize bump (modCtx u c k Ctx.afterReset) clkBlock 5 1 = v at h3 hi
  have h4 : Quells v (wake v c) := wake_quells (fun j hj => by rw [h3.aside.csite]; exact h3.quelled _ j (h j hj))
  exact ⟨h3.trans h4, h4.idle _ _ hi⟩

/-! ### A core is abandoned -/

/-- Every context at a site is IDLE. -/
def AllIdle (s : State) (n : Nat) : Prop := ∀ k, k < 4 → ((getSite s n).ctx k).st = .idle

theorem Quells.allIdle {s t : State} (h : Quells s t) {n : Nat} (hi : AllIdle s n) : AllIdle t n := fun k hk => h.idle n k (hi k hk)

theorem beginAll_quells (s : State) (c : Nat) : Quells s ((List.range 4).foldl (fun s k => beginCtxReset s c k) s) ∧
    CoreQuelled ((List.range 4).foldl (fun s k => beginCtxReset s c k) s) (csite s c) := by
  refine ⟨foldl_keeps (fun u k hu => hu.trans (beginCtxReset_quells u c k).1) _ s (.refl s), fun k hk => ?_⟩
  refine foldl_arrives (f := fun s k => beginCtxReset s c k) (Q := fun u => csite u c = csite s c) (P := fun u => ((getSite u (csite s c)).ctx k).quelled)
    (fun u j hu => ?_) (fun u hu => ?_) (fun u j _ hu => ?_) _ (List.mem_range.2 hk) s rfl
  · exact ((beginCtxReset_quells u c j).1.aside.csite c).trans hu
  · rw [← hu]
    exact (beginCtxReset_quells u c k).2
  · exact (beginCtxReset_quells u c j).1.quelled _ _ hu

theorem endAll_quells {s : State} {c : Nat} (h : CoreQuelled s (csite s c)) : Quells s ((List.range 4).foldl (fun s k => endCtxReset s c k) s) ∧
    AllIdle ((List.range 4).foldl (fun s k => endCtxReset s c k) s) (csite s c) := by
  have hkeep (u : State) (j : Nat) (hu : CoreQuelled u (csite u c)) : CoreQuelled (endCtxReset u c j) (csite (endCtxReset u c j) c) := by
    have hq := (endCtxReset_quells j hu).1
    rw [hq.aside.csite]
    exact fun k hk => hq.quelled _ k (hu k hk)
  refine ⟨(foldl_keeps (P := fun u => Quells s u ∧ CoreQuelled u (csite u c))
    (fun u k hu => ⟨hu.1.trans (endCtxReset_quells k hu.2).1, hkeep u k hu.2⟩) _ s ⟨.refl s, h⟩).1, fun k hk => ?_⟩
  refine foldl_arrives (f := fun s k => endCtxReset s c k) (Q := fun u => csite u c = csite s c ∧ CoreQuelled u (csite u c))
    (P := fun u => ((getSite u (csite s c)).ctx k).st = .idle)
    (fun u j hu => ?_) (fun u hu => ?_) (fun u j hu hi => ?_) _ (List.mem_range.2 hk) s ⟨rfl, h⟩
  · exact ⟨((endCtxReset_quells j hu.2).1.aside.csite c).trans hu.1, hkeep u j hu.2⟩
  · rw [← hu.1]
    exact (endCtxReset_quells k hu.2).2
  · exact (endCtxReset_quells j hu.2).1.idle _ _ hi

theorem abandonCore_idles (s : State) (c : Nat) : Quells s (abandonCore s c) ∧ AllIdle (abandonCore s c) (csite s c) := by
  obtain ⟨h1, hq⟩ := beginAll_quells s c
  have heq : abandonCore s c = (List.range 4).foldl (fun s k => endCtxReset s c k)
    (modCore ((List.range 4).foldl (fun s k => beginCtxReset s c k) s) c Site.dropWork) := rfl
  rw [heq]
  generalize (List.range 4).foldl (fun s k => beginCtxReset s c k) s = u at h1 hq
  have hu : Unmoved u (modCore u c Site.dropWork) := unmoved_modCore u c fun _ => rfl
  have h2 := h1.trans hu.quells
  have hq2 : CoreQuelled (modCore u c Site.dropWork) (csite (modCore u c Site.dropWork) c) := by
    rw [h2.aside.csite]
    exact fun k hk => hu.quells.quelled _ k (hq k hk)
  generalize modCore u c Site.dropWork = v at h2 hq2
  obtain ⟨h3, hi⟩ := endAll_quells hq2
  rw [h2.aside.csite] at hi
  exact ⟨h2.trans h3, hi⟩

/-- The cores of a list are abandoned. -/
theorem abandonAll_idles (s : State) (l : List Nat) : Quells s (l.foldl abandonCore s) ∧ ∀ c ∈ l, AllIdle (l.foldl abandonCore s) (csite s c) := by
  refine ⟨foldl_keeps (fun u c hu => hu.trans (abandonCore_idles u c).1) l s (.refl s), fun c hc => ?_⟩
  refine foldl_arrives (f := abandonCore) (Q := fun u => csite u c = csite s c) (P := fun u => AllIdle u (csite s c))
    (fun u d hu => ?_) (fun u hu => ?_) (fun u d _ hi => ?_) l hc s rfl
  · exact ((abandonCore_idles u d).1.aside.csite c).trans hu
  · rw [← hu]
    exact (abandonCore_idles u c).2
  · exact (abandonCore_idles u d).1.allIdle hi

end Sys2Proof.Machine
end

section
/-!
PROOFS. BMARK (R338): the mark begins with the parcel's settings in force, and ends with its digests zeroed and the next step
begun.
-/

namespace Sys2Proof.Machine

/-! ### A record taken leaves what its row asks about -/

theorem Booked.place {s t : State} (h : Booked s t) : t.place = s.place := by rw [h.state]

theorem Booked.csite {s t : State} (h : Booked s t) (c : Nat) : Machine.csite t c = Machine.csite s c := by
  unfold Machine.csite tsite coreBed factoryIdle
  rw [h.place]

theorem Booked.getCore {s t : State} (h : Booked s t) (c : Nat) : Machine.getCore t c = Machine.getCore s c := by
  rw [Machine.getCore, Machine.getCore, h.csite, h.getSite]

theorem Booked.getCtx {s t : State} (h : Booked s t) (c k : Nat) : Machine.getCtx t c k = Machine.getCtx s c k := by
  rw [Machine.getCtx, Machine.getCtx, h.getCore]

theorem Booked.coreAbsent {s t : State} (h : Booked s t) (c : Nat) : Machine.coreAbsent t c = Machine.coreAbsent s c := by
  rw [Machine.coreAbsent, Machine.coreAbsent, h.place]

theorem Booked.pclCores {s t : State} (h : Booked s t) (p : Nat) : Machine.pclCores t p = Machine.pclCores s p := by
  unfold Machine.pclCores pclBeds
  rw [h.pcl]

theorem Booked.pclLive {s t : State} (h : Booked s t) (p : Nat) : Machine.pclLive t p = Machine.pclLive s p := by
  unfold Machine.pclLive
  rw [h.pclCores]
  exact List.filter_congr fun c _ => by rw [h.coreAbsent]

theorem Booked.launching {s t : State} (h : Booked s t) (p : Nat) : Machine.launching t p = Machine.launching s p := by
  unfold Machine.launching
  rw [h.pclLive]
  simp only [h.getCtx]

theorem Booked.quiescent {s t : State} (h : Booked s t) (p : Nat) : Machine.quiescent t p = Machine.quiescent s p := by
  have hgate (c k : Nat) : atGate t c k = atGate s c k := by
    unfold atGate
    rw [h.getCtx, h.getCore]
  unfold Machine.quiescent
  rw [h.pclLive]
  simp only [h.getCtx, hgate]

theorem Booked.writeFlying {s t : State} (h : Booked s t) (c : Nat) : Machine.writeFlying t c = Machine.writeFlying s c := by
  have hstores : storesFlying t c = storesFlying s c := by
    rw [h.state]
    rfl
  unfold Machine.writeFlying
  rw [hstores]
  simp only [h.getCtx]

theorem csite_of_core {s t : State} (h : t.place.core = s.place.core) (c : Nat) : csite t c = csite s c := by
  have hidle : t.place.core.factoryIdle = s.place.core.factoryIdle := by rw [h]
  have hreloc : t.place.core.reloc = s.place.core.reloc := by rw [h]
  exact csite_congr hidle (congrArg (fun m => sget 0 m c) hreloc)

theorem pclLive_of_core {s t : State} (h : t.place.core = s.place.core) {p : Nat} (hb : (getPcl t p).beds = (getPcl s p).beds) :
    pclLive t p = pclLive s p := by
  have habs : t.place.core.absent = s.place.core.absent := by rw [h]
  change t.place.absent = s.place.absent at habs
  unfold pclLive pclCores pclBeds coreAbsent
  rw [hb, habs]

/-! ### The settings take effect (R14, R338 step 2) -/

/-- The records of the windows stand, and a parcel's count of marks and its staged settings. -/
structure Settled (p : Nat) (s t : State) : Prop where
  wait : ∀ v, (getWin t v).waitRec = (getWin s v).waitRec
  bmarks : (getPcl t p).bmarks = (getPcl s p).bmarks
  staged : (getPcl t p).staged = (getPcl s p).staged

section
variable {p : Nat}

theorem Settled.refl (s : State) : Settled p s s := ⟨fun _ => rfl, rfl, rfl⟩

theorem Settled.trans {s t u : State} (h : Settled p s t) (k : Settled p t u) : Settled p s u :=
  ⟨fun v => (k.wait v).trans (h.wait v), k.bmarks.trans h.bmarks, k.staged.trans h.staged⟩

theorem settled_gate {s t : State} (h : t.gate = s.gate) : Settled p s t :=
  ⟨fun v => by rw [getWin, getWin, h], by rw [getPcl, getPcl, h], by rw [getPcl, getPcl, h]⟩

theorem settled_foldl {α : Type} {f : State → α → State} (h : ∀ s x, Settled p s (f s x)) (l : List α) (s : State) :
    Settled p s (l.foldl f s) := foldl_keeps (fun u y hu => hu.trans (h u y)) l s (.refl s)

theorem settled_modPcl (s : State) {f : Parcel → Parcel} (hf : ∀ x, (f x).bmarks = x.bmarks ∧ (f x).staged = x.staged) :
    Settled p s (modPcl s p f) :=
  ⟨fun _ => rfl, by rw [getPcl_modPcl_same]; exact (hf _).1, by rw [getPcl_modPcl_same]; exact (hf _).2⟩

theorem settled_mesh (s : State) (m : Mesh) : Settled p s { s with mesh := m } := settled_gate rfl

theorem settled_applyBeacon (s : State) (m : BeaconMsg) : Settled p s (applyBeacon s m) := by
  have hset (b : Nat) (v : W32) : Settled p s (setBeacon s b v) := by
    rw [setBeacon_eq]
    exact settled_gate rfl
  unfold applyBeacon
  split
  · exact hset ..
  · exact hset ..
  · unfold waitAtRoot
    split <;> exact settled_gate rfl

theorem settled_logInc (s : State) (i : Inc) : Settled p s (logInc s i) := by
  obtain ⟨r, f, d, h⟩ := logInc_eq s i
  rw [h]
  exact settled_gate rfl

theorem settled_loseBlocks (s : State) (a0 a1 : W64) : Settled p s (loseBlocks s p a0 a1) := by
  unfold loseBlocks
  dsimp only
  split
  · exact .refl s
  · refine Settled.trans ?_ (settled_modPcl _ fun _ => ⟨rfl, rfl⟩)
    refine Settled.trans ?_ (settled_logInc ..)
    refine Settled.trans ?_ (settled_foldl (fun u x => settled_mesh u _) _ _)
    refine Settled.trans ?_ (settled_mesh _ _)
    exact (settled_mesh s _).trans (settled_foldl settled_applyBeacon _ _)

theorem settled_applyBeacons (s : State) (die : Nat) (v : W64) : Settled p s (applyBeacons s p die v) := by
  unfold applyBeacons
  dsimp only
  refine Settled.trans ?_ (settled_modPcl _ fun x => by split <;> exact ⟨rfl, rfl⟩)
  refine Settled.trans ?_ (settled_mesh _ _)
  split
  · exact settled_loseBlocks ..
  · exact settled_loseBlocks ..

theorem settled_applyObject (s : State) (idx v : Nat) : Settled p s (applyObject s p idx v) := by
  refine settled_modPcl s fun x => ?_
  split
  · exact ⟨rfl, rfl⟩
  · split
    · exact ⟨rfl, rfl⟩
    · split
      · exact ⟨rfl, rfl⟩
      · split <;> exact ⟨rfl, rfl⟩

theorem settled_switchBed (s : State) (bed v : Nat) : Settled p s (switchBed s bed v) := by
  have hcycles : (observeCycles s bed).2.gate = s.gate := by
    unfold observeCycles
    split <;> rfl
  unfold switchBed logClk
  dsimp only
  exact settled_gate hcycles

theorem settled_applyStaged (s : State) (e : StageKey × Nat) : Settled p s (applyStaged p s e) := by
  unfold applyStaged
  split
  · unfold applyOperand
    refine settled_foldl (fun u c => ?_) _ s
    exact settled_gate rfl
  · exact settled_applyObject ..
  · exact settled_modPcl s fun _ => ⟨rfl, rfl⟩
  · exact settled_applyBeacons ..
  · exact settled_switchBed ..

/-- Once the settings are in force only a change of beds is still staged. -/
theorem applyAll_applies (s : State) : (∀ v, (getWin (applyAll s p).1 v).waitRec = (getWin s v).waitRec) ∧
    (getPcl (applyAll s p).1 p).bmarks = (getPcl s p).bmarks ∧ ∀ e ∈ (getPcl (applyAll s p).1 p).staged, e.1 = .beds := by
  have hkeep : ∀ e ∈ (getPcl s p).staged.filter (bedsWait s p), e.1 = StageKey.beds := by
    intro e he
    have hw := (List.mem_filter.1 he).2
    exact of_decide_eq_true (Bool.and_eq_true_iff.1 hw).1
  have h1 := getPcl_modPcl_same s p fun x => { x with staged := (getPcl s p).staged.filter (bedsWait s p) }
  have h2 : ∀ v, getWin (modPcl s p fun x => { x with staged := (getPcl s p).staged.filter (bedsWait s p) }) v = getWin s v := fun _ => rfl
  unfold applyAll
  dsimp only
  generalize (modPcl s p fun x => { x with staged := (getPcl s p).staged.filter (bedsWait s p) }) = u at h1 h2
  have h3 : Settled p u ((List.range 5).foldl (fun v i =>
      (((getPcl s p).staged.filter fun e => !bedsWait s p e).filter fun e => e.1.rank = i).foldl (applyStaged p) v) u) :=
    settled_foldl (fun v i => settled_foldl settled_applyStaged _ v) _ u
  refine ⟨fun v => by rw [h3.wait, h2], by rw [h3.bmarks, h1], ?_⟩
  rw [h3.staged, h1]
  exact hkeep

end

/-! ### The mark begins -/

/-- What BMARK comes to for a parcel. -/
def bmarkStep (p : Nat) (r : Rec) (s : State) : RecRes :=
  let x := getPcl s p
  match x.mark.phase with
  | .none =>
    let quiet := quiescent s p
    if x.st = .stopped then .fin stStopped [] s
    else if launching s p || (bit (field r 16 1) 0 && !quiet) then .wait s
    else
      let (s, def_) := applyAll s p
      .wait (modPcl s p fun x => { x with mark := { phase := .readout, quiet := quiet, beddef := def_ } })
  | .digests =>
    if (pclLive s p).any (writeFlying s) then .wait s
    else
      let s := formDigests (closeGates s p) p
      if s.twin.st = .paired then .wait (sendDigest s p) else .own (finishMark s p (twinStatus s))
  | .readout | .exchange => .wait s

theorem exec_bmark (w : Nat) (s : State) : exec (.bmark w) s = record 0x12 .work [⟨16, 1, 1⟩] w s bmarkStep := rfl

/-- A mark that nothing holds up begins. -/
theorem bmark_begins {w : Nat} {s : State} {r : Rec} (h : RecordRuns 0x12 .work [⟨16, 1, 1⟩] w s r)
    (hphase : (getPcl s (getWin s w).parcel).mark.phase = .none) (hst : (getPcl s (getWin s w).parcel).st ≠ .stopped)
    (hl : launching s (getWin s w).parcel = false) (hq : bit (field r 16 1) 0 = true → quiescent s (getWin s w).parcel = true) :
    ∃ t, exec (.bmark w) s = .next t ∧ (getWin t w).waitRec = some r ∧ (getPcl t (getWin s w).parcel).mark.phase = .readout ∧
      (getPcl t (getWin s w).parcel).mark.quiet = quiescent s (getWin s w).parcel ∧
      (getPcl t (getWin s w).parcel).bmarks = (getPcl s (getWin s w).parcel).bmarks ∧
      ∀ e ∈ (getPcl t (getWin s w).parcel).staged, e.1 = .beds := by
  have hb := booked_takeRec s w r
  have hwait := (getWin_takeRec h.1).1
  have hx := record_wait (f := bmarkStep) (t := modPcl (applyAll (takeRec s w r) (getWin s w).parcel).1 (getWin s w).parcel fun x =>
      { x with mark := { phase := .readout, quiet := quiescent s (getWin s w).parcel, beddef := (applyAll (takeRec s w r) (getWin s w).parcel).2 } }) h ?_
  · generalize (getWin s w).parcel = p at *
    obtain ⟨hw, hm, hs⟩ := applyAll_applies (p := p) (takeRec s w r)
    generalize applyAll (takeRec s w r) p = a at hx hw hm hs
    refine ⟨_, hx, ?_, ?_, ?_, ?_, ?_⟩
    · exact (hw w).trans hwait
    · rw [getPcl_modPcl_same]
    · rw [getPcl_modPcl_same]
    · rw [getPcl_modPcl_same]
      exact hm.trans (by rw [hb.pcl])
    · rw [getPcl_modPcl_same]
      exact hs
  · generalize (getWin s w).parcel = p at *
    have hp : (getPcl (takeRec s w r) p).mark.phase = .none := by rw [hb.pcl]; exact hphase
    have hst' : (getPcl (takeRec s w r) p).st ≠ .stopped := by rw [hb.pcl]; exact hst
    have hgo : ¬(launching (takeRec s w r) p || (bit (field r 16 1) 0 && !quiescent (takeRec s w r) p)) = true := by
      rw [hb.launching, hb.quiescent, hl]
      cases hbit : bit (field r 16 1) 0 with
      | false => exact Bool.false_ne_true
      | true => rw [hq hbit]; exact Bool.false_ne_true
    unfold bmarkStep
    dsimp only
    rw [hp]
    dsimp only
    rw [if_neg hst', if_neg hgo, hb.quiescent]

/-! ### The digests are formed and zeroed (R278, R279) -/

/-- The marks' part of a site is clear: digest and NFLAGS. -/
def Site.markZero (x : Site) : Prop := x.digestZero ∧ ∀ k, k < 4 → (x.ctx k).nflags = 0

/-- NFLAGS of the contexts of a list are clear. -/
theorem clearFlags_nflags (l : List Nat) (x : Site) (k : Nat) :
    ((l.foldl (fun (x : Site) k => x.modCtx k fun y => { y with nflags := 0 }) x).ctx k).nflags = if k ∈ l then 0 else (x.ctx k).nflags := by
  induction l generalizing x with
  | nil => exact (if_neg (List.not_mem_nil)).symm
  | cons j l ih =>
    have hone : ((x.modCtx j fun y => { y with nflags := 0 }).ctx k).nflags = if k = j then 0 else (x.ctx k).nflags := by
      unfold Site.ctx Site.modCtx
      rw [sget_smod]
      split <;> rfl
    rw [List.foldl_cons, ih, hone]
    by_cases hk : k = j
    · rw [if_pos hk, if_pos (List.mem_cons.2 (.inl hk)), ite_self]
    · rw [if_neg hk]
      simp only [List.mem_cons, hk, false_or]

/-- NFLAGS, DMIS and the digest of a site are cleared. -/
def Site.clearMark (x : Site) : Site :=
  let x := (List.range 4).foldl (fun (x : Site) k => x.modCtx k fun y => { y with nflags := 0 }) x
  { x with wga := { x.wga with dmis := false }, cd0 := 0, cd1 := 0, cd2 := 0, cd3 := 0 }

theorem clearMark_zero (x : Site) : x.clearMark.markZero := by
  have hflags (k : Nat) (hk : k < 4) := (clearFlags_nflags (List.range 4) x k).trans (if_pos (List.mem_range.2 hk))
  unfold Site.clearMark
  dsimp only
  generalize (List.range 4).foldl (fun (x : Site) k => x.modCtx k fun y => { y with nflags := 0 }) x = y at hflags
  exact ⟨by unfold Site.digestZero; dsimp only, hflags⟩

/-- What every core of a list does at its site is done at the site of each. -/
theorem modCores_site {P : Site → Prop} {f : Site → Site} (hf : ∀ x, P (f x)) (s : State) (l : List Nat) {c : Nat} (hc : c ∈ l) :
    P (getSite (l.foldl (fun s c => modCore s c f) s) (csite s c)) := by
  refine foldl_arrives (f := fun s c => modCore s c f) (Q := fun u => u.place = s.place) (P := fun u => P (getSite u (csite s c)))
    (fun u y h => (place_modCore u y _).trans h) (fun u h => ?_) (fun u y h hz => ?_) l hc s rfl
  · have hsite : csite u c = csite s c := by unfold csite tsite coreBed factoryIdle; rw [h]
    rw [getSite_modCore, hsite, if_pos rfl]
    exact hf _
  · rw [getSite_modCore]
    split
    · exact hf _
    · exact hz

theorem modCores_sites (s : State) (l : List Nat) (f : Site → Site) :
    l.foldl (fun s c => modCore s c f) s = { s with sites := (l.foldl (fun s c => modCore s c f) s).sites } := by
  refine List.foldlRecOn (motive := fun u : State => u = { s with sites := u.sites }) _ _ rfl fun u hu c _ => ?_
  rw [hu]
  rfl

/-- The digests are formed: windows, counts of marks and the twin stand, and the parcel's cores start afresh. -/
theorem formDigests_forms (s : State) (p : Nat) : Stirred s (formDigests s p) ∧ (formDigests s p).place = s.place ∧
    ∀ c ∈ pclLive s p, (getSite (formDigests s p) (csite s c)).markZero := by
  have hsite (c : Nat) (hc : c ∈ pclLive s p) := modCores_site clearMark_zero s (pclLive s p) hc
  have hstate := modCores_sites s (pclLive s p) Site.clearMark
  have heq : ∃ f : Parcel → Parcel, (∀ x, (f x).bmarks = x.bmarks ∧ (f x).beds = x.beds) ∧
      formDigests s p = modPcl ((pclLive s p).foldl (fun s c => modCore s c Site.clearMark) s) p f := by
    refine ⟨_, ?_, rfl⟩
    exact fun _ => ⟨rfl, rfl⟩
  obtain ⟨f, hf, heq⟩ := heq
  rw [heq]
  generalize (pclLive s p).foldl (fun s c => modCore s c Site.clearMark) s = u at hsite hstate
  have h1 : Stirred s u := stirred_same (by rw [hstate]) (by rw [hstate])
  refine ⟨h1.trans (stirred_modPcl u p hf), ?_, hsite⟩
  show u.place = s.place
  rw [hstate]

/-! ### The mark is complete -/

/-- The placement stands, and of sites only their counts of errors have changed. -/
structure Errless (s t : State) : Prop where
  place : t.place = s.place
  site : ∀ n, getSite t n = { getSite s n with stepErrs := (getSite t n).stepErrs }

theorem Errless.refl (s : State) : Errless s s := ⟨rfl, fun _ => rfl⟩

theorem Errless.trans {s t u : State} (h : Errless s t) (k : Errless t u) : Errless s u :=
  ⟨k.place.trans h.place, fun n => by rw [k.site, h.site]⟩

theorem errless_of {s t : State} (hp : t.place = s.place) (hs : t.sites = s.sites) : Errless s t :=
  ⟨hp, fun n => by rw [getSite, getSite, hs]⟩

theorem Errless.markZero {s t : State} (h : Errless s t) {n : Nat} (hz : (getSite s n).markZero) : (getSite t n).markZero := by
  rw [h.site]
  exact hz

theorem errless_forgetErrs (s : State) (p : Nat) : Errless s (forgetErrs s p) := by
  unfold forgetErrs
  dsimp only
  refine foldl_keeps (P := Errless s) (fun u b hu => ?_) _ _ (errless_of rfl rfl)
  refine foldl_keeps (P := Errless s) (fun u i hu => ?_) _ _ hu
  refine hu.trans ?_
  split
  · exact .refl u
  · refine ⟨rfl, fun n => ?_⟩
    rw [getSite_modSite]
    split
    next h => rw [h]
    · rfl

theorem errless_endStepHandling (s : State) (p : Nat) : Errless s (endStepHandling s p) := by
  unfold endStepHandling
  dsimp only
  refine foldl_keeps (P := Errless s) (fun u e hu => hu.trans ?_) _ _ (errless_of rfl rfl)
  exact errless_of rfl rfl

theorem errless_emitRec (s : State) (w : Nat) (b : List Byte) (irq : Bool) : Errless s (emitRec s w b irq) :=
  errless_of (booked_emitRec ..).place (booked_emitRec ..).sites

theorem finishMark_errless (s : State) (p twin : Nat) : Errless s (finishMark s p twin) := by
  cases h : markRec s p with
  | none =>
    unfold finishMark
    rw [h]
    exact .refl s
  | some x =>
    obtain ⟨w, r⟩ := x
    rw [finishMark_eq h]
    have h1 : Errless s (endRec s w) := errless_of rfl rfl
    have h2 := h1.trans (errless_emitRec (endRec s w) w (recHead 2 p stDone (recSeq r) (recHtag r) ++ markBody (getPcl s p) twin) (recIrq r))
    change Errless s (markRecorded s p w r (markBody (getPcl s p) twin) stDone) at h2
    generalize markRecorded s p w r (markBody (getPcl s p) twin) stDone = a at h2
    have h3 : Errless a (shadowBeacons (markCounted a p) p) := errless_of rfl rfl
    have h3 := (h2.trans h3).trans (errless_endStepHandling _ p)
    generalize endStepHandling (shadowBeacons (markCounted a p) p) p = b at h3
    exact (h3.trans (errless_forgetErrs b p)).trans (errless_of rfl rfl)

/-- A mark that is complete leaves a new step. -/
theorem finishMark_fresh {s : State} {p : Nat} {x : Nat × Rec} (h : markRec s p = some x) (twin : Nat) :
    ∃ (y : Parcel) (b : Bool), getPcl (finishMark s p twin) p = { y.newStep with rejoinHold := b } := by
  obtain ⟨w, r⟩ := x
  rw [finishMark_eq h]
  generalize endStepHandling _ p = a
  unfold stepBegun
  rw [getPcl_modPcl_same]
  exact ⟨_, _, rfl⟩

/-- The window is one of those that execute the opcode's record for its parcel. -/
theorem markRec_isSome {s : State} {p w : Nat} {r : Rec} (hw : w < 64) (hr : (getWin s w).waitRec = some r) (hop : recOp r = 0x12)
    (hp : (getWin s w).parcel = p) : ∃ x, markRec s p = some x := by
  have hm : (w, r) ∈ waitersOf s 0x12 p := by
    refine List.mem_filterMap.2 ⟨w, List.mem_range.2 hw, ?_⟩
    rw [hr]
    exact if_pos ⟨hop, hp⟩
  unfold markRec
  cases hl : waitersOf s 0x12 p with
  | nil => rw [hl] at hm; cases hm
  | cons x l => exact ⟨x, rfl⟩

theorem curRec_window {s : State} {w : Nat} {r : Rec} (h : curRec s w = some r) : w < 64 := by
  unfold curRec at h
  dsimp only at h
  split at h
  · cases h
  next hc =>
    simp only [Bool.or_eq_true, decide_eq_true_eq, not_or] at hc
    omega

/-- What the end of an unpaired module's mark leaves. -/
structure MarkEnded (p w : Nat) (s t : State) : Prop where
  bmarks : (getPcl t p).bmarks = (getPcl s p).bmarks + 1
  fresh : ∃ (y : Parcel) (b : Bool), getPcl t p = { y.newStep with rejoinHold := b }
  wait : (getWin t w).waitRec = none
  zero : ∀ c ∈ pclLive s p, (getCore t c).markZero

theorem bmark_ends {w : Nat} {s : State} {r : Rec} (h : RecordRuns 0x12 .work [⟨16, 1, 1⟩] w s r)
    (hphase : (getPcl s (getWin s w).parcel).mark.phase = .digests)
    (hfly : ((pclLive s (getWin s w).parcel).any fun c => writeFlying s c) = false) (htwin : s.twin.st ≠ .paired) :
    ∃ t, exec (.bmark w) s = .next t ∧ MarkEnded (getWin s w).parcel w s t := by
  have hb := booked_takeRec s w r
  have hwait := (getWin_takeRec h.1).1
  have hctl := (getWin_takeRec h.1).2.1
  have hw := curRec_window h.1
  have hparcel : (getWin (takeRec s w r) w).parcel = (getWin s w).parcel := by rw [Window.parcel, hctl, ← Window.parcel]
  have hop := h.2.1
  have hx := record_own (f := bmarkStep) (t := finishMark (formDigests (closeGates (takeRec s w r) (getWin s w).parcel) (getWin s w).parcel)
      (getWin s w).parcel (twinStatus (formDigests (closeGates (takeRec s w r) (getWin s w).parcel) (getWin s w).parcel))) h ?_
  · obtain ⟨hforms, hfplace, hzero⟩ := formDigests_forms (closeGates (takeRec s w r) (getWin s w).parcel) (getWin s w).parcel
    have hgates := stirred_closeGates (takeRec s w r) (getWin s w).parcel
    have hgplace := closeGates_place (takeRec s w r) (getWin s w).parcel
    generalize (getWin s w).parcel = p at *
    generalize closeGates (takeRec s w r) p = a at *
    have hall := hgates.trans hforms
    generalize formDigests a p = b at *
    generalize takeRec s w r = u at *
    have hmarks : (getPcl b p).bmarks = (getPcl s p).bmarks := (hall.bmarks p).trans (by rw [hb.pcl])
    obtain ⟨x, hm⟩ := markRec_isSome (p := p) hw ((hall.wait w).trans hwait) hop (by rw [Window.parcel, hall.ctl, ← Window.parcel, hparcel])
    have hdone := finishMark_completes hm (twinStatus b)
    have hfresh := finishMark_fresh hm (twinStatus b)
    have herr := finishMark_errless b p (twinStatus b)
    generalize finishMark b p (twinStatus b) = t at *
    refine ⟨_, hx, hdone.bmarks.trans (by rw [hmarks]), hfresh, ?_, fun c hc => ?_⟩
    · unfold endRec
      rw [getWin_modWin_same]
    · have hlive : pclLive a p = pclLive s p := (pclLive_of_core hgplace (hgates.beds p)).trans (hb.pclLive p)
      have hsite : csite (endRec t w) c = csite a c := csite_of_core (by show t.place.core = _; rw [herr.place, hfplace]) c
      unfold getCore
      rw [hsite]
      exact herr.markZero (hzero c (by rw [hlive]; exact hc))
  · have hgone : ¬((formDigests (closeGates (takeRec s w r) (getWin s w).parcel) (getWin s w).parcel).twin.st = .paired) := fun hp =>
      htwin (by
        have hu := ((stirred_closeGates (takeRec s w r) (getWin s w).parcel).trans (formDigests_forms _ _).1).twin hp
        rw [hb.state] at hu
        exact hu)
    generalize (getWin s w).parcel = p at *
    have hp : (getPcl (takeRec s w r) p).mark.phase = .digests := by rw [hb.pcl]; exact hphase
    have hstill : ¬(pclLive (takeRec s w r) p).any (writeFlying (takeRec s w r)) = true := by
      rw [hb.pclLive, show writeFlying (takeRec s w r) = writeFlying s from funext hb.writeFlying, hfly]
      exact Bool.false_ne_true
    unfold bmarkStep
    dsimp only
    rw [hp]
    dsimp only
    rw [if_neg hstill, if_neg hgone]

end Sys2Proof.Machine
end

section
/-!
PROOFS. THEODOLITE_TALLY_WRITE (R171 to R173): the readout of a mark is delivered and the parcel's Theodolites are cleared.
-/

namespace Sys2Proof.Machine

theorem onlySites_digestWrite (s : State) (c unit : Nat) (a : W64) (bs : List Byte) : OnlySites s (digestWrite s c unit a bs) := by
  unfold digestWrite
  exact onlySites_modSite s (csite s c) fun _ => ⟨rfl, rfl⟩

/-- Without a readout area the entries count in the tally core's digest and nothing is stored. -/
theorem writeEntries_unplaced {x : Parcel} (hx : x.thArea = ~~~0) (p c : Nat) (l : List (List Byte × Nat)) (s : State) :
    ∃ u, writeEntries x p c l (.ok s) = .ok u ∧ OnlySites s u := by
  induction l generalizing s with
  | nil => exact ⟨s, rfl, .refl s⟩
  | cons e l ih =>
    obtain ⟨u, hu, hs⟩ := ih (digestWrite s c 6 (thAddr x e.2) e.1)
    refine ⟨u, ?_, (onlySites_digestWrite ..).trans hs⟩
    rw [← hu]
    show (do
      let s ← if x.thArea = ~~~0 then (.ok s : Except (AccErr × W64) State) else
        match farWrite s p ((thAddr x e.2).toNat % 2 ^ 42) e.1 with
        | .ok s => .ok s
        | .error e' => .error (e', thAddr x e.2)
      writeEntries x p c l (.ok (digestWrite s c 6 (thAddr x e.2) e.1))) = _
    rw [if_pos hx]
    rfl

/-- The entries of a parcel's readout, with their FLAGS. -/
def readoutEntries (s : State) (p : Nat) : List (List Byte × Nat) := (touchedTags (tallySums s p)).map (thEntry (tallySums s p))

/-- The readout is delivered: Theodolites cleared, phase times published, the mark goes on. -/
def readoutDone (p : Nat) (es : List (List Byte × Nat)) (s : State) : State :=
  modPcl (phaseTiming ((pclLive s p).foldl (fun s c => modCore s c fun y => { y with theo := [] }) s) p) p fun y =>
    { y with readout := es.map (·.1), thHeld := y.thgen, thgen := y.thgen + 1,
             mark := { y.mark with phase := .digests, thgen := y.thgen, entries := es.length,
                                   flags := es.foldl (fun a e => a ||| BitVec.ofNat 16 e.2) 0 } }

/-- Sites, far memory and placement stand, and the generation of the parcel's Theodolite. -/
structure Timed (p : Nat) (s t : State) : Prop where
  sites : t.sites = s.sites
  far : t.far = s.far
  place : t.place = s.place
  thgen : (getPcl t p).thgen = (getPcl s p).thgen

theorem Timed.trans {p : Nat} {s t u : State} (h : Timed p s t) (k : Timed p t u) : Timed p s u :=
  ⟨k.sites.trans h.sites, k.far.trans h.far, k.place.trans h.place, k.thgen.trans h.thgen⟩

theorem timed_modPcl (p : Nat) (s : State) {f : Parcel → Parcel} (hf : ∀ x, (f x).thgen = x.thgen) : Timed p s (modPcl s p f) :=
  ⟨rfl, rfl, rfl, by rw [getPcl_modPcl_same]; exact hf _⟩

theorem timed_phaseTiming (p : Nat) (s : State) : Timed p s (phaseTiming s p) := by
  have h0 : Timed p s (modPcl s p fun x => { x with phBeds := [] }) := timed_modPcl p s fun _ => rfl
  unfold phaseTiming
  refine foldl_keeps (P := Timed p s) (fun u b hu => ?_) _ _ h0
  refine foldl_keeps (P := Timed p s) (fun v i hv => ?_) _ _ hu
  have hfree : Timed p v (takeFree v).2 := ⟨rfl, rfl, rfl, rfl⟩
  exact (hv.trans hfree).trans (timed_modPcl p _ fun _ => rfl)

/-- What the delivery leaves. -/
structure Delivered (p : Nat) (es : List (List Byte × Nat)) (s t : State) : Prop where
  memory : SameMemory s t
  far : t.far = s.far
  readout : (getPcl t p).readout = es.map (·.1)
  held : (getPcl t p).thHeld = (getPcl s p).thgen
  thgen : (getPcl t p).thgen = (getPcl s p).thgen + 1
  phase : (getPcl t p).mark.phase = .digests
  theo : ∀ c ∈ pclLive s p, (getCore t c).theo = []

theorem readoutDone_delivers (p : Nat) (es : List (List Byte × Nat)) (s : State) : Delivered p es s (readoutDone p es s) := by
  have hsites := modCores_sites s (pclLive s p) fun y => { y with theo := [] }
  have htheo (c : Nat) (hc : c ∈ pclLive s p) :=
    modCores_site (P := fun x => x.theo = []) (f := fun y => { y with theo := [] }) (fun _ => rfl) s (pclLive s p) hc
  have hmem : OnlySites s ((pclLive s p).foldl (fun s c => modCore s c fun y => { y with theo := [] }) s) :=
    onlySites_foldl (fun u c => onlySites_modSite u (csite u c) (f := fun y => { y with theo := [] }) fun _ => ⟨rfl, rfl⟩) _ s
  unfold readoutDone
  generalize (pclLive s p).foldl (fun s c => modCore s c fun y => { y with theo := [] }) s = a at hsites htheo hmem
  have hthgen : (getPcl a p).thgen = (getPcl s p).thgen := by
    rw [hsites]
    rfl
  have ht := timed_phaseTiming p a
  generalize phaseTiming a p = b at ht
  have hplace : b.place = s.place := ht.place.trans (by rw [hsites])
  refine ⟨hmem.memory.trans (sameMemory_of ht.sites (by show b.far.mem = _; rw [ht.far])), ?_, ?_, ?_, ?_, ?_, fun c hc => ?_⟩
  · show b.far = s.far
    rw [ht.far, hsites]
  · rw [getPcl_modPcl_same]
  · rw [getPcl_modPcl_same]
    exact ht.thgen.trans hthgen
  · rw [getPcl_modPcl_same]
    exact congrArg (· + 1) (ht.thgen.trans hthgen)
  · rw [getPcl_modPcl_same]
  · have hsite : csite b c = csite s c := csite_of_core (by rw [hplace]) c
    have hget : getSite b (csite s c) = getSite a (csite s c) := by rw [getSite, getSite, ht.sites]
    show (getSite b (csite b c)).theo = []
    rw [hsite, hget]
    exact htheo c hc

section
variable {p : Nat} {s : State} (hp : p < 8) (hphase : (getPcl s p).mark.phase = .readout) (ha : alive s = true)
  (hstop : (getPcl s p).stop = .none) (hheld : tallyHeld s p = false)
include hp hphase ha hstop hheld

/-- The readout of a mark goes through the writes of its tally core. -/
theorem exec_tallyWrite : exec (.theodoliteTallyWrite p) s = match tallyCore s p with
    | none => .next (readoutDone p (readoutEntries s p) s)
    | some c => match writeEntries (getPcl s p) p c (((readoutEntries s p).map (·.1)).zipIdx) (.ok s) with
      | .ok u => .next (readoutDone p (readoutEntries s p) u)
      | .error e => .next (tallyErr s p c e.2 e.1) := by
  have hgo : ¬(decide ((getPcl s p).mark.phase ≠ .readout) || !alive s || decide ((getPcl s p).stop ≠ .none) || tallyHeld s p ||
      decide (8 ≤ p)) = true := by
    rw [hphase, ha, hstop, hheld]
    simp [hp]
  show execTheodoliteTallyWrite p s = _
  unfold execTheodoliteTallyWrite
  dsimp only
  rw [if_neg hgo]
  rfl

/-- Where no area is set the readout is delivered at once. -/
theorem tallyWrite_delivers (harea : (getPcl s p).thArea = ~~~0) :
    ∃ t, exec (.theodoliteTallyWrite p) s = .next t ∧ Delivered p (readoutEntries s p) s t := by
  rw [exec_tallyWrite hp hphase ha hstop hheld]
  cases hc : tallyCore s p with
  | none => exact ⟨_, rfl, readoutDone_delivers ..⟩
  | some c =>
    obtain ⟨u, hu, hs⟩ := writeEntries_unplaced harea p c (((readoutEntries s p).map (·.1)).zipIdx) s
    dsimp only
    rw [hu]
    have hd := readoutDone_delivers p (readoutEntries s p) u
    have hpcl : getPcl u p = getPcl s p := by rw [hs.state]; rfl
    have hlive : pclLive u p = pclLive s p := by rw [hs.state]; rfl
    refine ⟨_, rfl, hs.memory.trans hd.memory, by rw [hd.far, hs.state], hd.readout, by rw [hd.held, hpcl], by rw [hd.thgen, hpcl], hd.phase, ?_⟩
    rw [← hlive]
    exact hd.theo

/-- Where an area is set the far memory holds what its writes have stored. -/
theorem tallyWrite_stores {c : Nat} {u : State} (hc : tallyCore s p = some c)
    (hu : writeEntries (getPcl s p) p c (((readoutEntries s p).map (·.1)).zipIdx) (.ok s) = .ok u) :
    ∃ t, exec (.theodoliteTallyWrite p) s = .next t ∧ t.far = u.far := by
  rw [exec_tallyWrite hp hphase ha hstop hheld, hc]
  dsimp only
  rw [hu]
  exact ⟨_, rfl, (readoutDone_delivers ..).far⟩

end

theorem readoutEntries_bytes (s : State) (p : Nat) : (readoutEntries s p).map (·.1) =
    (touchedTags (tallySums s p)).map fun g => (thEntry (tallySums s p) g).1 := by
  unfold readoutEntries
  rw [List.map_map]
  rfl

end Sys2Proof.Machine
end

section
/-!
PROOFS. A step that ends without its mark, and a step that is executed again (R283, R339, R340); and the statement about marks.
-/

namespace Sys2Proof.Machine

/-! ### The end of a step -/

theorem booked_endRecord (s : State) (p status : Nat) : Booked s (endRecord s p status) := by
  unfold endRecord
  split
  · exact .refl s
  · dsimp only
    refine Booked.trans ?_ (booked_emitRec ..)
    split
    · exact booked_modWin ..
    · exact .refl s

theorem errless_closeWin (s : State) (w : Nat) (drop : Bool) : Errless s (closeWin s w drop) := by
  have hpcl (c : Prop) [Decidable c] (u : State) (p : Nat) (f : Parcel → Parcel) : Errless u (if c then modPcl u p f else u) := by
    split
    · exact errless_of rfl rfl
    · exact .refl u
  have hfin (u : State) (r : Rec) : Errless u (if drop then endRec u w else finRec u w r stAborted []) := by
    split
    · exact errless_of rfl rfl
    · exact errless_of (booked_finRec ..).place (booked_finRec ..).sites
  unfold closeWin
  dsimp only
  split
  · exact .refl s
  · have h1 (f : Window → Window) : Errless s (modWin s w f) := errless_of rfl rfl
    split
    · exact (h1 _).trans (hpcl ..)
    · split
      · exact (((h1 _).trans (hpcl ..)).trans (hpcl ..)).trans (hfin ..)
      · exact (h1 _).trans (hpcl ..)

theorem clearStep_ctx (x : Site) (k : Nat) : (x.clearStep.ctx k).st = (x.ctx k).st := by
  have h : (((List.range 4).foldl (fun (x : Site) k => x.modCtx k fun y => { y with nflags := 0 }) x).ctx k).st = (x.ctx k).st := by
    refine List.foldlRecOn (motive := fun y : Site => (y.ctx k).st = (x.ctx k).st) _ _ rfl fun y hy j _ => ?_
    rw [← hy]
    unfold Site.ctx Site.modCtx
    rw [sget_smod]
    split
    next hk => rw [hk]
    · rfl
  unfold Site.clearStep
  dsimp only
  generalize (List.range 4).foldl (fun (x : Site) k => x.modCtx k fun y => { y with nflags := 0 }) x = y at h
  exact h

theorem Errless.allIdle {s t : State} (h : Errless s t) {n : Nat} (hi : AllIdle s n) : AllIdle t n := by
  intro k hk
  rw [h.site]
  exact hi k hk

theorem allIdle_modCore {s : State} {n : Nat} (hi : AllIdle s n) (c : Nat) {f : Site → Site} (hf : ∀ x k, ((f x).ctx k).st = (x.ctx k).st) :
    AllIdle (modCore s c f) n := by
  intro k hk
  rw [getSite_modCore]
  split
  next h => rw [hf, ← h]; exact hi k hk
  · exact hi k hk

theorem initialMark_allIdle {s : State} {n : Nat} (p : Nat) (hi : AllIdle s n) : AllIdle (initialMark s p) n := by
  have h1 : AllIdle ((pclLive (shadowBeacons s p) p).foldl (fun s c => modCore s c Site.clearStep) (shadowBeacons s p)) n :=
    foldl_keeps (P := fun u => AllIdle u n) (fun u c hu => allIdle_modCore hu c clearStep_ctx) _ _ hi
  unfold initialMark
  dsimp only
  generalize (pclLive (shadowBeacons s p) p).foldl (fun s c => modCore s c Site.clearStep) (shadowBeacons s p) = u at h1
  exact (errless_forgetErrs u p).allIdle h1

/-- The parcel's step is over: every context is IDLE, and the next step is open. -/
structure StepOver (p : Nat) (s t : State) : Prop where
  fresh : ∃ y : Parcel, getPcl t p = y.newStep
  idle : ∀ c ∈ pclLive s p, ∀ k, k < 4 → (getCtx t c k).st = .idle

theorem endStep_over (s : State) (p : Nat) {e : StepEnd} (he : e ≠ .failStop) : StepOver p s (endStep s p e) := by
  have hplace := endStep_place s p e
  have hb := booked_endRecord s p (endStatus e)
  have h1 := errless_endStepHandling (endRecord s p (endStatus e)) p
  have hgate := (kept_endStepHandling (endRecord s p (endStatus e)) p).gate
  have hstart : (endStepHandling (endRecord s p (endStatus e)) p).place = s.place := h1.place.trans hb.place
  have hlive : pclLive (endStepHandling (endRecord s p (endStatus e)) p) p = pclLive s p :=
    pclLive_of_core (by rw [hstart]) (by rw [show getPcl (endStepHandling (endRecord s p (endStatus e)) p) p = getPcl (endRecord s p (endStatus e)) p by rw [getPcl, getPcl, hgate], hb.pcl])
  have heq : endStep s p e = initialMark (match workWin ((pclLive (endStepHandling (endRecord s p (endStatus e)) p) p).foldl abandonCore
      (endStepHandling (endRecord s p (endStatus e)) p)) p with
      | some w => closeWin ((pclLive (endStepHandling (endRecord s p (endStatus e)) p) p).foldl abandonCore
          (endStepHandling (endRecord s p (endStatus e)) p)) w false
      | none => (pclLive (endStepHandling (endRecord s p (endStatus e)) p) p).foldl abandonCore
          (endStepHandling (endRecord s p (endStatus e)) p)) p := by
    cases e with
    | checkpoint => rfl
    | placement => rfl
    | failStop => exact absurd rfl he
  rw [hlive] at heq
  generalize endStepHandling (endRecord s p (endStatus e)) p = a at hstart heq
  obtain ⟨-, hidle⟩ := abandonAll_idles a (pclLive s p)
  generalize (pclLive s p).foldl abandonCore a = b at heq hidle
  have hclose : ∃ d, Errless b d ∧ endStep s p e = initialMark d p := by
    rw [heq]
    cases workWin b p with
    | none => exact ⟨b, .refl b, rfl⟩
    | some w => exact ⟨_, errless_closeWin b w false, rfl⟩
  obtain ⟨d, hd, heq⟩ := hclose
  rw [heq] at hplace ⊢
  refine ⟨⟨_, (initialMark_marks d p).pcl⟩, fun c hc k hk => ?_⟩
  have hsite : csite (initialMark d p) c = csite a c := csite_of_core (by rw [hplace, hstart]) c
  unfold getCtx getCore
  rw [hsite]
  exact initialMark_allIdle p (hd.allIdle (hidle c hc)) k hk

/-- A step that has been stopped ends. -/
theorem stepEnd_ends {p : Nat} {s : State} {e : StepEnd} (hp : p < 8) (ha : alive s = true) (hst : (getPcl s p).st = .active)
    (hfence : fencingOf s p = false) (hfly : ((pclLive s p).any fun c => storesFlying s c) = false)
    (hstop : (e = .checkpoint ∧ (getPcl s p).stop = .checkpoint) ∨ (e = .placement ∧ (getPcl s p).stop = .placement)) :
    ∃ t, exec (.stepEndWithoutMark p e) s = .next t ∧ StepOver p s t := by
  have hne : e ≠ .failStop := by rcases hstop with ⟨h, -⟩ | ⟨h, -⟩ <;> rw [h] <;> decide
  refine ⟨endStep s p e, ?_, endStep_over s p hne⟩
  show execStepEndWithoutMark p e s = _
  unfold execStepEndWithoutMark
  dsimp only
  rcases hstop with ⟨h, hs⟩ | ⟨h, hs⟩
  · subst h
    rw [ha, hst, hfly, hfence, hs]
    simp [hp, done]
  · subst h
    rw [ha, hst, hfly, hfence, hs]
    simp [hp, done]

/-! ### The shadow copy of the beacons -/

/-- A map written over by the entries of another whose keys differ. -/
theorem sget_written (l : SMap W32) (hl : l.Pairwise fun a b => a.1 ≠ b.1) (m : SMap W32) (n : Nat) :
    sget 0 (l.foldl (fun m e => sset 0 m e.1 e.2) m) n = if n ∈ skeys l then sget 0 l n else sget 0 m n := by
  induction l generalizing m with
  | nil => exact (if_neg List.not_mem_nil).symm
  | cons e l ih =>
    obtain ⟨j, v⟩ := e
    obtain ⟨hj, hl⟩ := List.pairwise_cons.1 hl
    rw [List.foldl_cons, ih hl, sget_sset]
    by_cases hn : n = j
    · have hout : n ∉ skeys l := fun hm => by
        obtain ⟨e, he, hk⟩ := List.mem_map.1 hm
        exact hj e he (hn.symm.trans hk.symm)
      rw [if_neg hout, if_pos hn, if_pos (show n ∈ skeys ((j, v) :: l) from List.mem_cons.2 (.inl hn)), sget, if_pos hn]
    · rw [if_neg hn, sget, if_neg hn]
      simp only [skeys, List.map_cons, List.mem_cons, hn, false_or]
      rfl

theorem swf_pairwise {l : SMap W32} (h : swf 0 l = true) : l.Pairwise fun a b => a.1 ≠ b.1 := by
  induction l with
  | nil => exact .nil
  | cons e l ih =>
    obtain ⟨j, v⟩ := e
    simp only [swf, Bool.and_eq_true] at h
    obtain ⟨⟨ha, -⟩, hw⟩ := h
    exact .cons (fun e he => Nat.ne_of_lt (sabove_all ha hw e he)) (ih hw)

/-- The parcel's beacons have their shadow values. -/
theorem restoreShadow_beacon {s : State} (p : Nat) {b : Nat} (hb : beaconOwned s p b = true) (hw : swf 0 s.mesh.shadow = true) :
    sget 0 (restoreShadow s p).mesh.beacons b = sget 0 s.mesh.shadow b := by
  have hl := (swf_pairwise hw).filter fun e => beaconOwned s p e.1
  have hin : sget 0 (s.mesh.shadow.filter fun e => beaconOwned s p e.1) b = sget 0 s.mesh.shadow b :=
    (sget_filter 0 (fun n => beaconOwned s p n) s.mesh.shadow b).trans (if_pos hb)
  have hout : sget 0 (s.mesh.beacons.filter fun e => !beaconOwned s p e.1) b = 0 :=
    (sget_filter 0 (fun n => !beaconOwned s p n) s.mesh.beacons b).trans (if_neg (by rw [hb]; exact Bool.false_ne_true))
  show sget 0 ((s.mesh.shadow.filter fun e => beaconOwned s p e.1).foldl (fun m e => sset 0 m e.1 e.2)
    (s.mesh.beacons.filter fun e => !beaconOwned s p e.1)) b = _
  rw [sget_written _ hl]
  split
  · exact hin
  next hk => rw [hout, ← hin, sget_unlisted 0 hk]

/-! ### The replay of a step -/

/-- The site of a core whose step is executed again. -/
def Site.replayed (y : Site) : Site := let y := y.clearStep; { y with cairn := y.cairn.cleared }

theorem replayed_cleared (y : Site) : y.replayed.digestZero ∧ y.replayed.cairn.depth = 0 := by
  have h := clearStep_digest y
  unfold Site.replayed
  dsimp only
  generalize y.clearStep = z at h
  exact ⟨h, rfl⟩

theorem replayed_ctx (y : Site) (k : Nat) : (y.replayed.ctx k).st = (y.ctx k).st := by
  refine Eq.trans ?_ (clearStep_ctx y k)
  unfold Site.replayed
  dsimp only
  generalize y.clearStep = z
  rfl

theorem aside_restoreOperands (s : State) (p : Nat) : Aside s (restoreOperands s p) ∧ (restoreOperands s p).mesh = s.mesh ∧
    ∀ n, AllIdle s n → AllIdle (restoreOperands s p) n := by
  unfold restoreOperands
  dsimp only
  split
  · exact ⟨.refl s, rfl, fun _ h => h⟩
  · refine foldl_keeps (P := fun u => Aside s u ∧ u.mesh = s.mesh ∧ ∀ n, AllIdle s n → AllIdle u n) (fun u d hu => ?_) _ s
      ⟨.refl s, rfl, fun _ h => h⟩
    split
    · exact hu
    · obtain ⟨h1, h2, h3⟩ := hu
      exact ⟨h1.trans (aside_modCore ..), h2, fun n hn => allIdle_modCore (h3 n hn) d fun _ _ => rfl⟩

theorem unmoved_dropParcelFlits (s : State) (p : Nat) : Unmoved s (dropParcelFlits s p) := by
  unfold dropParcelFlits
  dsimp only
  refine Unmoved.trans ?_ (unmoved_foldl (fun u q => unmoved_modPortF u q _) _ _)
  exact unmoved_of rfl (aside_of rfl rfl rfl)

/-- The parcel's step as it is before its records are taken up again. -/
def stepUndone (s : State) (p : Nat) : State :=
  let s := (pclLive s p).foldl abandonCore s
  let s := restoreOperands (restoreShadow (dropParcelFlits s p) p) p
  (pclLive s p).foldl (fun s c => modCore s c Site.replayed) s

/-- What undoing a step leaves. -/
structure Undone (p : Nat) (s t : State) : Prop where
  aside : Aside s t
  idle : ∀ c ∈ pclLive s p, AllIdle t (csite s c)
  cleared : ∀ c ∈ pclLive s p, (getSite t (csite s c)).digestZero ∧ (getSite t (csite s c)).cairn.depth = 0
  beacon : ∀ b, beaconOwned s p b = true → swf 0 s.mesh.shadow = true → beaconVal t b = sget 0 s.mesh.shadow b

theorem stepUndone_undoes (s : State) (p : Nat) : Undone p s (stepUndone s p) := by
  unfold stepUndone
  dsimp only
  obtain ⟨h1, hi⟩ := abandonAll_idles s (pclLive s p)
  generalize (pclLive s p).foldl abandonCore s = a at h1 hi
  have h2 := unmoved_dropParcelFlits a p
  have hq := h1.trans h2.quells
  have hi2 (c : Nat) (hc : c ∈ pclLive s p) := h2.quells.allIdle (hi c hc)
  generalize dropParcelFlits a p = b at h2 hq hi2
  have h3 : Aside b (restoreShadow b p) := aside_of rfl rfl rfl
  have hbeacon (n : Nat) (hb : beaconOwned s p n = true) (hw : swf 0 s.mesh.shadow = true) :
      sget 0 (restoreShadow b p).mesh.beacons n = sget 0 s.mesh.shadow n := by
    rw [← hq.aside.shadow] at hw ⊢
    refine restoreShadow_beacon p ?_ hw
    unfold beaconOwned at hb ⊢
    rw [hq.aside.pcl]
    exact hb
  have hi3 (c : Nat) (hc : c ∈ pclLive s p) : AllIdle (restoreShadow b p) (csite s c) := hi2 c hc
  have h03 := hq.aside.trans h3
  generalize restoreShadow b p = d at h3 hbeacon hi3 h03
  obtain ⟨h4, hmesh, hi4⟩ := aside_restoreOperands d p
  generalize restoreOperands d p = f at h4 hmesh hi4
  have h04 := h03.trans h4
  have hlive : pclLive f p = pclLive s p := h04.pclLive p
  rw [hlive]
  have hstate := modCores_sites f (pclLive s p) Site.replayed
  have hclear (c : Nat) (hc : c ∈ pclLive s p) :=
    modCores_site (P := fun x => x.digestZero ∧ x.cairn.depth = 0) replayed_cleared f (pclLive s p) hc
  have hidle (n : Nat) (hn : AllIdle f n) : AllIdle ((pclLive s p).foldl (fun s c => modCore s c Site.replayed) f) n :=
    foldl_keeps (P := fun u => AllIdle u n) (fun u c hu => allIdle_modCore hu c replayed_ctx) _ _ hn
  generalize (pclLive s p).foldl (fun s c => modCore s c Site.replayed) f = t at hstate hclear hidle
  have h5 : Aside f t := aside_of (by rw [hstate]) (by rw [hstate]) (by rw [hstate])
  refine ⟨h04.trans h5, fun c hc => hidle _ (hi4 _ (hi3 c hc)), fun c hc => ?_, fun n hb hw => ?_⟩
  · rw [← h04.csite]
    exact hclear c hc
  · unfold beaconVal
    rw [show t.mesh = d.mesh by rw [hstate]; exact hmesh]
    exact hbeacon n hb hw

/-- The parcel's records are taken up again. -/
def stepRewound (s : State) (p : Nat) (recs : List Rec) : State :=
  match workWin s p with
  | none => s
  | some w => modWin s w fun y => y.rewind recs

theorem stepRewound_sites (s : State) (p : Nat) (recs : List Rec) : (stepRewound s p recs).sites = s.sites ∧
    (stepRewound s p recs).place = s.place ∧ (stepRewound s p recs).mesh = s.mesh ∧ ∀ q, getPcl (stepRewound s p recs) q = getPcl s q := by
  unfold stepRewound
  split <;> exact ⟨rfl, rfl, rfl, fun _ => rfl⟩

theorem exec_stepReplay {p : Nat} {s : State} (hp : p < 8) (ha : alive s = true) (hst : (getPcl s p).st = .active)
    (hfence : fencingOf s p = false) (hfly : ((pclLive s p).any fun c => storesFlying s c) = false)
    (hstop : (getPcl s p).stop = .replay) (hre : replayable (getPcl s p) = true) : exec (.stepReplay p) s =
    .next (modPcl (stepRewound (stepUndone s p) p (getPcl s p).stepRecs) p fun y =>
      { y with stop := .none, mark := {}, moved := [], stepReplays := y.stepReplays + 1, replays := y.replays + 1 }) := by
  have hgo : ¬(!alive s || decide (8 ≤ p) || decide ((getPcl s p).st ≠ .active) || decide ((getPcl s p).stop ≠ .replay) || !replayable (getPcl s p) ||
      fencingOf s p || (pclLive s p).any (storesFlying s)) = true := by
    rw [ha, hst, hstop, hre, hfence, hfly]
    simp [hp]
  show execStepReplay p s = _
  unfold execStepReplay
  dsimp only
  rw [if_neg hgo]
  rfl

/-- What a replay leaves. -/
structure Replayed (p : Nat) (s t : State) : Prop where
  stop : (getPcl t p).stop = .none
  counts : (getPcl t p).stepReplays = (getPcl s p).stepReplays + 1 ∧ (getPcl t p).replays = (getPcl s p).replays + 1
  core : ∀ c ∈ pclLive s p, digestOf t c = (0, 0, 0, 0) ∧ (getCore t c).cairn.depth = 0 ∧ ∀ k, k < 4 → (getCtx t c k).st = .idle
  beacon : ∀ b, beaconOwned s p b = true → swf 0 s.mesh.shadow = true → beaconVal t b = sget 0 s.mesh.shadow b
  queue : ∀ v, workWin s p = some v → (getWin t v).replayQ = ((getWin s v).rewind (getPcl s p).stepRecs).replayQ

theorem stepReplay_replays {p : Nat} {s : State} (hp : p < 8) (ha : alive s = true) (hst : (getPcl s p).st = .active)
    (hfence : fencingOf s p = false) (hfly : ((pclLive s p).any fun c => storesFlying s c) = false)
    (hstop : (getPcl s p).stop = .replay) (hre : replayable (getPcl s p) = true) :
    ∃ t, exec (.stepReplay p) s = .next t ∧ Replayed p s t := by
  refine ⟨_, exec_stepReplay hp ha hst hfence hfly hstop hre, ?_⟩
  have hu := stepUndone_undoes s p
  generalize stepUndone s p = a at hu
  obtain ⟨hsites, hplace, hmesh, hpcl⟩ := stepRewound_sites a p (getPcl s p).stepRecs
  have hqueue (v : Nat) (hv : workWin s p = some v) :
      (getWin (stepRewound a p (getPcl s p).stepRecs) v).replayQ = ((getWin s v).rewind (getPcl s p).stepRecs).replayQ := by
    unfold stepRewound
    rw [hu.aside.workWin, hv]
    dsimp only
    rw [getWin_modWin_same, hu.aside.win]
    rfl
  generalize stepRewound a p (getPcl s p).stepRecs = b at hsites hplace hmesh hpcl hqueue
  have hsite (c : Nat) : csite b c = csite s c := csite_of_core (by rw [hplace, hu.aside.place]) c
  have hget (c : Nat) : getSite b (csite b c) = getSite a (csite s c) := by rw [hsite, getSite, getSite, hsites]
  refine ⟨?_, ⟨?_, ?_⟩, fun c hc => ?_, fun n hb hw => ?_, hqueue⟩
  · rw [getPcl_modPcl_same]
  · rw [getPcl_modPcl_same]
    exact congrArg (· + 1) (by rw [hpcl, hu.aside.pcl])
  · rw [getPcl_modPcl_same]
    exact congrArg (· + 1) (by rw [hpcl, hu.aside.pcl])
  · obtain ⟨hd, hc0⟩ := hu.cleared c hc
    have hi := hu.idle c hc
    unfold AllIdle at hi
    rw [← hget] at hd hc0 hi
    exact ⟨hd, hc0, hi⟩
  · rw [← hu.beacon n hb hw]
    show sget 0 b.mesh.beacons n = _
    rw [hmesh]
    rfl

/-! ### The statement -/

/-- Settles O41: a mark begins with the settings in force and ends with the digests zeroed; a wake at the closing of the gates
changes no record, no bed and no count of marks; an abandoned core has no context that a wake concerns. -/
theorem marksEndSteps : Obligations.MarksEndSteps := by
  unfold Obligations.MarksEndSteps
  refine ⟨fun w s r => ?_, fun p s => ?_, fun w s r => ?_, fun p s hp ha hst hfence hfly => ⟨?_, ?_, ?_⟩⟩
  · exact fun h hphase hst hl hq => bmark_begins h hphase hst hl hq
  · intro x hp hphase ha hstop hheld
    refine ⟨fun harea => ?_, fun c u hc hu => ?_⟩
    · obtain ⟨t, hx, hd⟩ := tallyWrite_delivers hp hphase ha hstop hheld harea
      exact ⟨t, hx, hd.memory, hd.readout.trans (readoutEntries_bytes s p), hd.held, hd.thgen, hd.phase, hd.theo⟩
    · rw [← readoutEntries_bytes] at hu
      exact tallyWrite_stores hp hphase ha hstop hheld hc hu
  · intro p h hphase _ hfly htwin
    obtain ⟨t, hx, he⟩ := bmark_ends h hphase hfly htwin
    obtain ⟨y, b, hy⟩ := he.fresh
    refine ⟨t, hx, he.bmarks, ?_, ?_, ?_, ?_, he.wait, fun c hc => he.zero c hc⟩
    · rw [hy]; rfl
    · rw [hy]; rfl
    · rw [hy]; rfl
    · rw [hy]; rfl
  · intro hstop
    obtain ⟨t, hx, ho⟩ := stepEnd_ends hp ha hst hfence hfly (.inl ⟨rfl, hstop⟩)
    obtain ⟨y, hy⟩ := ho.fresh
    exact ⟨t, hx, by rw [hy]; rfl, by rw [hy]; rfl, by rw [hy]; rfl, ho.idle⟩
  · intro hstop
    obtain ⟨t, hx, ho⟩ := stepEnd_ends hp ha hst hfence hfly (.inr ⟨rfl, hstop⟩)
    obtain ⟨y, hy⟩ := ho.fresh
    exact ⟨t, hx, by rw [hy]; rfl, by rw [hy]; rfl, by rw [hy]; rfl, ho.idle⟩
  · intro hstop hre hw
    obtain ⟨t, hx, hr⟩ := stepReplay_replays hp ha hst hfence hfly hstop hre
    exact ⟨t, hx, hr.stop, hr.counts.1, hr.counts.2, hr.core, fun b hb => hr.beacon b hb hw, hr.queue⟩

end Sys2Proof.Machine
end

section
/-!
PROOFS. The records that act on cores (R164, R268, R332 to R335): LOADP, START and its completion, OPERAND and MCREG.
-/

namespace Sys2Proof.Machine

/-! ### What a record taken leaves of what these rows ask about -/

theorem Booked.pcl_st {s t : State} (h : Booked s t) (p : Nat) : (getPcl t p).st = (getPcl s p).st := by rw [h.pcl]

theorem Booked.coreSet {s t : State} (h : Booked s t) (p beds slots : Nat) : Machine.coreSet t p beds slots = Machine.coreSet s p beds slots := by
  unfold Machine.coreSet
  rw [h.pclCores]

theorem Booked.setRefusal {s t : State} (h : Booked s t) (p beds slots : Nat) : Machine.setRefusal t p beds slots = Machine.setRefusal s p beds slots := by
  unfold Machine.setRefusal
  rw [h.coreSet, h.pcl, show Machine.coreAbsent t = Machine.coreAbsent s from funext h.coreAbsent]

theorem Booked.reachable {s t : State} (h : Booked s t) (p : Nat) (cs : List Nat) : Machine.reachable t p cs = Machine.reachable s p cs := by
  have hdie : pclDie t p = pclDie s p := by
    unfold pclDie
    rw [h.pcl]
  have hmesh : t.mesh = s.mesh := by rw [h.state]
  unfold Machine.reachable
  simp only [h.csite, hdie, hmesh]

theorem Booked.farRead {s t : State} (h : Booked s t) (p fa n : Nat) : Machine.farRead t p fa n = Machine.farRead s p fa n := by
  rw [h.state]
  rfl

theorem ghRead_ok {s : State} {p core fa n : Nat} {bs : List Byte} (h : farRead s p fa n = .ok bs) : ghRead s p core fa n = .ok bs := by
  unfold ghRead
  rw [h]

/-- Sites after every core of a list has done the same at its site, where doing it twice is doing it once. -/
theorem modCores_all {f : Site → Site} (hf : ∀ x, f (f x) = f x) (s : State) (l : List Nat) (n : Nat) :
    getSite (l.foldl (fun s c => modCore s c f) s) n = if (l.any fun c => csite s c = n) = true then f (getSite s n) else getSite s n := by
  induction l generalizing s with
  | nil => exact (if_neg Bool.false_ne_true).symm
  | cons c l ih =>
    have hany : (l.any fun d => csite (modCore s c f) d = n) = l.any fun d => csite s d = n := rfl
    rw [List.foldl_cons, ih, hany, getSite_modCore, List.any_cons]
    by_cases hc : n = csite s c
    · rw [if_pos hc, ← hc]
      simp only [decide_true, Bool.true_or, if_true]
      split
      · exact hf _
      · rfl
    · rw [if_neg hc]
      simp only [show ¬csite s c = n from fun h => hc h.symm, decide_false, Bool.false_or]

/-! ### LOADP (R335) -/

/-- Near memory after the same bytes have been written at the sites of the cores of a list. -/
theorem nearWrites_near (s : State) (cs : List Nat) (off : Nat) (bs : List Byte) (n a : Nat) :
    mrd (getSite (cs.foldl (fun s c => nearWrite s (csite s c) off bs) s) n).near a =
      if (cs.any fun c => csite s c = n) = true ∧ off ≤ a ∧ a < off + bs.length then bs.getD (a - off) 0 else mrd (getSite s n).near a := by
  induction cs generalizing s with
  | nil => exact (if_neg fun h => Bool.false_ne_true h.1).symm
  | cons c cs ih =>
    have hany : (cs.any fun d => csite (nearWrite s (csite s c) off bs) d = n) = cs.any fun d => csite s d = n := rfl
    rw [List.foldl_cons, ih, hany, mrd_nearWrite, List.any_cons]
    by_cases ha : off ≤ a ∧ a < off + bs.length
    · simp only [ha, and_self, and_true, Bool.or_eq_true, decide_eq_true_eq]
      by_cases hc : n = csite s c
      · rw [if_pos hc, if_pos (Or.inl hc.symm)]
        split <;> rfl
      · rw [if_neg hc]
        simp only [show ¬csite s c = n from fun h => hc h.symm, false_or]
    · rw [if_neg fun h => ha h.2, if_neg fun h => ha h.2, if_neg fun h => ha h.2]

theorem nearWrites_rest (s : State) (cs : List Nat) (off : Nat) (bs : List Byte) :
    (∀ n a, mrd (getSite (cs.foldl (fun s c => nearWrite s (csite s c) off bs) s) n).terr a = mrd (getSite s n).terr a) ∧
      (cs.foldl (fun s c => nearWrite s (csite s c) off bs) s).far = s.far := by
  refine foldl_keeps (f := fun s c => nearWrite s (csite s c) off bs)
    (P := fun u => (∀ n a, mrd (getSite u n).terr a = mrd (getSite s n).terr a) ∧ u.far = s.far)
    (fun u c hu => ⟨fun n a => ?_, hu.2⟩) cs s ⟨fun _ _ => rfl, rfl⟩
  rw [← hu.1, nearWrite, getSite_modSite]
  split
  next h => rw [h]
  · rfl

/-- What LOADP comes to. -/
def loadpStep (p : Nat) (r : Rec) (s : State) : RecRes :=
  if !loadpOk r then .fin stIllegal [] s
  else if (getPcl s p).st = .stopped then .fin stStopped [] s
  else match setRefusal s p (field r 16 4) (field r 20 4) with
    | some x => refuse s x
    | none =>
      if !reachable s p (coreSet s p (field r 16 4) (field r 20 4)) then .wait s
      else match ghRead s p 0 (field r 24 8) (field r 36 4) with
      | .error e => e.res
      | .ok bs =>
        .fin stDone [] ((coreSet s p (field r 16 4) (field r 20 4)).foldl (fun s c => nearWrite s (csite s c) (field r 32 4) bs) s)

theorem exec_loadp (w : Nat) (s : State) : exec (.loadp w) s =
    record 0x10 .work (setFields ++ [⟨24, 8, ones 8⟩, ⟨32, 4, ones 4⟩, ⟨36, 4, ones 4⟩]) w s loadpStep := rfl

theorem loadp_loads {w : Nat} {s : State} {r : Rec} {bs : List Byte}
    (h : RecordRuns 0x10 .work (setFields ++ [⟨24, 8, ones 8⟩, ⟨32, 4, ones 4⟩, ⟨36, 4, ones 4⟩]) w s r) (hok : loadpOk r = true)
    (hst : (getPcl s (getWin s w).parcel).st ≠ .stopped)
    (hset : setRefusal s (getWin s w).parcel (field r 16 4) (field r 20 4) = none)
    (hreach : reachable s (getWin s w).parcel (coreSet s (getWin s w).parcel (field r 16 4) (field r 20 4)) = true)
    (hread : farRead s (getWin s w).parcel (field r 24 8) (field r 36 4) = .ok bs) :
    exec (.loadp w) s = .next (finRec ((coreSet s (getWin s w).parcel (field r 16 4) (field r 20 4)).foldl
      (fun s c => nearWrite s (csite s c) (field r 32 4) bs) (takeRec s w r)) w r 0 []) := by
  rw [exec_loadp]
  have hb := booked_takeRec s w r
  refine record_fin h ?_
  generalize (getWin s w).parcel = p at *
  unfold loadpStep
  rw [← hb.pcl_st p] at hst
  rw [← hb.setRefusal] at hset
  rw [← hb.coreSet, ← hb.reachable] at hreach
  rw [← hb.farRead] at hread
  rw [← hb.coreSet]
  generalize takeRec s w r = u at *
  rw [if_neg (by rw [hok]; exact Bool.false_ne_true), if_neg hst, hset]
  dsimp only
  rw [if_neg (by rw [hreach]; exact Bool.false_ne_true), ghRead_ok hread]
  rfl

/-! ### OPERAND (R164) -/

theorem stagedVal_stage_ne (s : State) (p : Nat) {k key : StageKey} (v : Nat) (h : key ≠ k) :
    stagedVal (stage s p k v) p key = stagedVal s p key := by
  have hone : [(k, v)].find? (fun e => decide (e.1 = key)) = none := by
    rw [List.find?_singleton]
    exact if_neg (by simpa using fun he => h he.symm)
  unfold stagedVal
  rw [stage_eq_withStaged, staged_withStaged, restaged, List.find?_append, hone, Option.or_none, List.find?_filter]
  have hsame : (fun e : StageKey × Nat => decide (decide (e.1 ≠ k) = true ∧ decide (e.1 = key) = true)) = fun e => decide (e.1 = key) := by
    funext e
    by_cases he : e.1 = key
    · simp [he, h]
    · simp [he]
  rw [hsame]

/-- The key that OPERAND stages a value under. -/
def operandKey (r : Rec) (i : Nat) : StageKey := .operand (field r 16 1) (8 * field r 17 1 + i)

/-- Values of a set are staged. -/
def stageOperands (r : Rec) (p : Nat) (l : List Nat) (s : State) : State :=
  l.foldl (fun s i => stage s p (operandKey r i) (field r (20 + 4 * i) 4)) s

theorem stagedVal_operands (r : Rec) (p : Nat) (l : List Nat) (s : State) (key : StageKey) : stagedVal (stageOperands r p l s) p key =
    match l.reverse.find? fun i => key = operandKey r i with
    | some i => some (field r (20 + 4 * i) 4)
    | none => stagedVal s p key := by
  induction l using List.reverseRecOn with
  | nil => rfl
  | append_singleton l i ih =>
    unfold stageOperands at *
    rw [List.foldl_append, List.foldl_cons, List.foldl_nil, List.reverse_append, List.reverse_singleton, List.singleton_append, List.find?_cons]
    by_cases hk : key = operandKey r i
    · rw [decide_eq_true hk, hk, stagedVal_stage]
    · rw [decide_eq_false hk, stagedVal_stage_ne _ _ _ hk, ih]

/-- What OPERAND leaves staged. -/
theorem stagedVal_operand_record (r : Rec) (p : Nat) (s : State) (key : StageKey) : stagedVal (stageOperands r p (List.range 8) s) p key =
    match key with
    | .operand set idx =>
      if set = field r 16 1 ∧ idx / 8 = field r 17 1 then some (field r (20 + 4 * (idx % 8)) 4) else stagedVal s p key
    | _ => stagedVal s p key := by
  rw [stagedVal_operands]
  cases hf : (List.range 8).reverse.find? fun i => decide (key = operandKey r i) with
  | some i =>
    have hk : key = operandKey r i := of_decide_eq_true (List.find?_some (p := fun i => decide (key = operandKey r i)) hf)
    have hi : i < 8 := List.mem_range.1 (List.mem_reverse.1 (List.mem_of_find?_eq_some hf))
    have hdiv : (8 * field r 17 1 + i) / 8 = field r 17 1 := by omega
    have hmod : (8 * field r 17 1 + i) % 8 = i := by omega
    rw [hk, operandKey]
    dsimp only
    rw [hdiv, hmod, if_pos ⟨rfl, rfl⟩]
  | none =>
    have hno (i : Nat) (hi : i < 8) : key ≠ operandKey r i := fun hk =>
      List.find?_eq_none.1 hf i (List.mem_reverse.2 (List.mem_range.2 hi)) (decide_eq_true hk)
    cases key with
    | operand set idx =>
      refine (if_neg fun h => hno (idx % 8) (Nat.mod_lt _ (by decide)) ?_).symm
      rw [operandKey, h.1, ← h.2, Nat.div_add_mod]
    | object i q => rfl
    | beds => rfl
    | beacons d => rfl
    | clkBed b => rfl

theorem exec_operand (w : Nat) (s : State) : exec (.operand w) s = record 0x13 .work [⟨16, 1, 0x3F⟩, ⟨17, 1, 1⟩, ⟨20, 32, ones 32⟩] w s
    fun p r s => .fin stDone [] (stageOperands r p (List.range 8) s) := rfl

theorem operand_stages {w : Nat} {s : State} {r : Rec} (h : RecordRuns 0x13 .work [⟨16, 1, 0x3F⟩, ⟨17, 1, 1⟩, ⟨20, 32, ones 32⟩] w s r) :
    exec (.operand w) s = .next (finRec (stageOperands r (getWin s w).parcel (List.range 8) (takeRec s w r)) w r 0 []) :=
  record_fin (f := fun p r s => .fin stDone [] (stageOperands r p (List.range 8) s)) h rfl

theorem sameMemory_stageOperands (r : Rec) (p : Nat) (l : List Nat) (s : State) : SameMemory s (stageOperands r p l s) :=
  foldl_keeps (f := fun s i => stage s p (operandKey r i) (field r (20 + 4 * i) 4)) (P := SameMemory s)
    (fun _ _ hu => hu.trans (sameMemory_of rfl rfl)) l s (sameMemory_refl s)

/-! ### MCREG (R268) -/

theorem setMcReg_twice (x : Site) (off : Nat) (v : W32) : setMcReg (setMcReg x off v) off v = setMcReg x off v := by
  unfold setMcReg
  split
  · rfl
  · dsimp only
    rw [sset_sset 0 _ _ id]

theorem sameMemory_setMcRegs (s : State) (cs : List Nat) (off : Nat) (v : W32) :
    SameMemory s (cs.foldl (fun s c => modCore s c fun x => setMcReg x off v) s) :=
  (onlySites_foldl (f := fun s c => modCore s c fun x => setMcReg x off v)
    (fun u c => onlySites_modSite u (csite u c) fun x => setMcReg_memory x off v) cs s).memory

/-- What MCREG comes to. -/
def mcregStep (p : Nat) (r : Rec) (s : State) : RecRes :=
  let off := field r 24 4
  if off < 0x800 ∨ 0x840 < off ∨ off % 4 ≠ 0 then .fin stIllegal [] s
  else if (getPcl s p).st = .stopped then .fin stStopped [] s
  else match setRefusal s p (field r 16 4) (field r 20 4) with
    | some x => refuse s x
    | none =>
      if !reachable s p (coreSet s p (field r 16 4) (field r 20 4)) then .wait s
      else .fin stDone [] ((coreSet s p (field r 16 4) (field r 20 4)).foldl (fun s c =>
        modCore s c fun x => setMcReg x off (BitVec.ofNat 32 (field r 28 4))) s)

theorem exec_mcreg (w : Nat) (s : State) : exec (.mcreg w) s =
    record 0x14 .work (setFields ++ [⟨24, 4, ones 4⟩, ⟨28, 4, ones 4⟩]) w s mcregStep := rfl

theorem mcreg_sets {w : Nat} {s : State} {r : Rec} (h : RecordRuns 0x14 .work (setFields ++ [⟨24, 4, ones 4⟩, ⟨28, 4, ones 4⟩]) w s r)
    (hlo : 0x800 ≤ field r 24 4) (hhi : field r 24 4 ≤ 0x840) (hal : field r 24 4 % 4 = 0)
    (hst : (getPcl s (getWin s w).parcel).st ≠ .stopped)
    (hset : setRefusal s (getWin s w).parcel (field r 16 4) (field r 20 4) = none)
    (hreach : reachable s (getWin s w).parcel (coreSet s (getWin s w).parcel (field r 16 4) (field r 20 4)) = true) :
    exec (.mcreg w) s = .next (finRec ((coreSet s (getWin s w).parcel (field r 16 4) (field r 20 4)).foldl
      (fun s c => modCore s c fun x => setMcReg x (field r 24 4) (BitVec.ofNat 32 (field r 28 4))) (takeRec s w r)) w r 0 []) := by
  rw [exec_mcreg]
  have hb := booked_takeRec s w r
  refine record_fin h ?_
  generalize (getWin s w).parcel = p at *
  unfold mcregStep
  rw [← hb.pcl_st p] at hst
  rw [← hb.setRefusal] at hset
  rw [← hb.coreSet, ← hb.reachable] at hreach
  rw [← hb.coreSet]
  generalize takeRec s w r = u at *
  dsimp only
  rw [if_neg (by omega), if_neg hst, hset]
  dsimp only
  rw [if_neg (by rw [hreach]; exact Bool.false_ne_true)]
  rfl

/-! ### START (R69, R334) -/

/-- The cores of a parcel are listed once each. -/
theorem nodup_pclCores (s : State) (p : Nat) : (pclCores s p).Nodup := by
  have hbed (b : Nat) : (bedCores b).Nodup := by
    refine List.Nodup.map (fun i j hij => ?_) List.nodup_range
    omega
  refine List.nodup_flatMap.2 ⟨fun b _ => hbed b, ?_⟩
  refine List.Pairwise.imp (fun {a b} hab c hca hcb => hab ?_) ((List.nodup_range (n := 32)).filter _)
  obtain ⟨i, hi, rfl⟩ := List.mem_map.1 hca
  obtain ⟨j, hj, he⟩ := List.mem_map.1 hcb
  have hi := List.mem_range.1 hi
  have hj := List.mem_range.1 hj
  omega

theorem nodup_coreSet (s : State) (p beds slots : Nat) : (coreSet s p beds slots).Nodup := (nodup_pclCores s p).filter _

/-- The arguments that START's reads give. -/
def argBytes (r : Rec) (n : Nat) (bs : Nat → List Byte) : List (List Byte) :=
  if field r 40 4 = 0 then [bs 0] else (List.range n).map bs

theorem argWait_ok (l : List (List Byte)) : argWait (l.map .ok) = none := by
  induction l with
  | nil => rfl
  | cons b l ih => exact ih

theorem argData_ok (l : List (List Byte)) : argData (l.map .ok) = some l := by
  induction l with
  | nil => rfl
  | cons b l ih =>
    rw [List.map_cons, argData, ih]
    rfl

section
variable {s : State} {p : Nat} {r : Rec} {cs : List Nat} {bs : Nat → List Byte}
  (hread : ∀ i, i < cs.length → farRead s p (argAddr r i) 64 = .ok (bs i))
include hread

theorem argReads_ok (hne : cs ≠ []) : argReads s p r cs = (argBytes r cs.length bs).map .ok := by
  have hpos : 0 < cs.length := List.length_pos_iff.2 hne
  unfold argReads argBytes
  split
  · rw [ghRead_ok (hread 0 hpos)]
    rfl
  · refine List.ext_getElem (by simp) fun i h1 _ => ?_
    have hi : i < cs.length := by simpa using h1
    simp only [List.getElem_map, List.getElem_zipIdx, List.getElem_range, Nat.zero_add]
    exact ghRead_ok (hread i hi)

/-- The arguments of the core of a rank. -/
theorem argBytes_rank {i : Nat} (hi : i < cs.length) :
    (if field r 40 4 = 0 then (argBytes r cs.length bs).headD [] else (argBytes r cs.length bs).getD i []) = bs i := by
  unfold argBytes
  split
  next h0 =>
    have haddr : argAddr r 0 = argAddr r i := by
      unfold argAddr
      rw [h0, Nat.mul_zero, Nat.mul_zero]
    have heq := (hread 0 (Nat.lt_of_le_of_lt (Nat.zero_le i) hi)).symm.trans ((congrArg (farRead s p · 64) haddr).trans (hread i hi))
    injection heq
  · rw [List.getD_eq_getElem?_getD, List.getElem?_map, List.getElem?_range hi]
    rfl

end

/-- One context of every core of a list with ranks changes by its rank. -/
def modRanked (k : Nat) (f : Nat → Ctx → Ctx) (l : List (Nat × Nat)) (s : State) : State :=
  l.foldl (fun s e => modCtx s e.1 k (f e.2)) s

theorem modRanked_others {k : Nat} {f : Nat → Ctx → Ctx} {c : Nat} (l : List (Nat × Nat)) (s : State)
    (h : ∀ e ∈ l, csite s e.1 ≠ csite s c) : getCtx (modRanked k f l s) c k = getCtx s c k := by
  have hsite (u : State) (d : Nat) (g : Ctx → Ctx) (a : Nat) : csite (modCtx u d k g) a = csite u a := rfl
  induction l generalizing s with
  | nil => rfl
  | cons e l ih =>
    refine (ih (modCtx s e.1 k (f e.2)) fun x hx => h x (List.mem_cons_of_mem _ hx)).trans ?_
    show (getSite (modCtx s e.1 k (f e.2)) (csite s c)).ctx k = _
    rw [ctx_modCtx, if_neg fun hc => h e (List.mem_cons_self ..) hc.1.symm]
    rfl

theorem modRanked_ctx {k : Nat} {f : Nat → Ctx → Ctx} {c i : Nat} (l : List (Nat × Nat)) (s : State)
    (hinj : ∀ a b, csite s a = csite s b → a = b) (hnodup : (l.map (·.1)).Nodup) (hm : (c, i) ∈ l) :
    getCtx (modRanked k f l s) c k = f i (getCtx s c k) := by
  induction l generalizing s with
  | nil => cases hm
  | cons e l ih =>
    obtain ⟨hout, hnodup⟩ := List.nodup_cons.1 hnodup
    rcases List.mem_cons.1 hm with he | hm
    · have hne (x : Nat × Nat) (hx : x ∈ l) : csite (modCtx s e.1 k (f e.2)) x.1 ≠ csite (modCtx s e.1 k (f e.2)) c := fun hc =>
        hout (List.mem_map.2 ⟨x, hx, (hinj _ _ hc).trans (congrArg Prod.fst he)⟩)
      refine (modRanked_others l _ hne).trans ?_
      rw [← he]
      exact getCtx_modCtx_same ..
    · refine (ih (modCtx s e.1 k (f e.2)) hinj hnodup hm).trans (congrArg (f i) ?_)
      show (getSite (modCtx s e.1 k (f e.2)) (csite s c)).ctx k = _
      rw [ctx_modCtx, if_neg fun hc => hout (List.mem_map.2 ⟨(c, i), hm, hinj _ _ hc.1⟩)]
      rfl

/-- The scalar registers of a context that starts. -/
theorem started_s (y : Ctx) (pc : W64) (args : List Byte) (compat : Bool) (by_ : Nat × W32) (q : BitVec 5) :
    (y.start pc args compat by_).s q =
      if 1 ≤ q.toNat ∧ q.toNat ≤ 8 then BitVec.ofNat 64 (field args (8 * (q.toNat - 1)) 8) else 0 := by
  have hregs (n m : Nat) : sget 0 ((List.range n).foldl (fun m i => sset 0 m (i + 1) (BitVec.ofNat 64 (field args (8 * i) 8))) ([] : SMap W64)) m =
      if 1 ≤ m ∧ m ≤ n then BitVec.ofNat 64 (field args (8 * (m - 1)) 8) else 0 := by
    induction n with
    | zero => exact (if_neg (by omega)).symm
    | succ n ih =>
      rw [List.range_succ, List.foldl_append, List.foldl_cons, List.foldl_nil, sget_sset]
      by_cases hm : m = n + 1
      · rw [if_pos hm, if_pos (by omega), hm, Nat.add_sub_cancel]
      · rw [if_neg hm, ih]
        exact if_congr (by omega) rfl rfl
  unfold Ctx.s
  split
  next h0 =>
    rw [h0]
    rfl
  · exact hregs 8 q.toNat

/-- What START comes to. -/
def startStep (w : Nat) (p : Nat) (r : Rec) (s : State) : RecRes :=
  if !startOk r then .fin stIllegal [] s
  else if (getPcl s p).st = .stopped then .fin stStopped [] s
  else match setRefusal s p (field r 16 4) (field r 20 4) with
    | some x => refuse s x
    | none =>
      let cs := coreSet s p (field r 16 4) (field r 20 4)
      let busy (c : Nat) : Bool := (getCtx s c (field r 24 1)).st ≠ .idle || (getCtx s c (field r 24 1)).resetting || (getCore s c).resetting
      if cs.any busy || !reachable s p cs then .wait s
      else
        let s := noteAllEnds s
        let rs := argReads s p r cs
        match argWait rs with
        | some s => .wait s
        | none =>
          match argData rs with
          | some data => .own (startAll s w p r cs data)
          | none => .fin stFault [] (argFaults p r (if field r 40 4 = 0 then [(cs.headD 0, 0)] else cs.zipIdx) s)

theorem exec_start (w : Nat) (s : State) : exec (.start w) s =
    record 0x11 .work (setFields ++ [⟨24, 1, 3⟩, ⟨25, 1, 3⟩, ⟨28, 4, 0x1FFFFF⟩, ⟨32, 8, ones 8⟩, ⟨40, 4, ones 4⟩]) w s (startStep w) := rfl

theorem booked_noteAllEnds (s : State) : Booked s (noteAllEnds s) := by
  unfold noteAllEnds
  refine foldl_keeps (P := Booked s) (fun u w hu => hu.trans ?_) _ s (.refl s)
  split
  · exact .refl u
  · exact booked_modWin ..

theorem start_starts {w : Nat} {s : State} {r : Rec} {bs : Nat → List Byte}
    (h : RecordRuns 0x11 .work (setFields ++ [⟨24, 1, 3⟩, ⟨25, 1, 3⟩, ⟨28, 4, 0x1FFFFF⟩, ⟨32, 8, ones 8⟩, ⟨40, 4, ones 4⟩]) w s r)
    (hok : startOk r = true) (hst : (getPcl s (getWin s w).parcel).st ≠ .stopped)
    (hset : setRefusal s (getWin s w).parcel (field r 16 4) (field r 20 4) = none)
    (hne : coreSet s (getWin s w).parcel (field r 16 4) (field r 20 4) ≠ [])
    (hreach : reachable s (getWin s w).parcel (coreSet s (getWin s w).parcel (field r 16 4) (field r 20 4)) = true)
    (hidle : ∀ c ∈ coreSet s (getWin s w).parcel (field r 16 4) (field r 20 4),
      (getCtx s c (field r 24 1)).st = .idle ∧ (getCtx s c (field r 24 1)).resetting = false ∧ (getCore s c).resetting = false)
    (hread : ∀ i, i < (coreSet s (getWin s w).parcel (field r 16 4) (field r 20 4)).length →
      farRead s (getWin s w).parcel (argAddr r i) 64 = .ok (bs i)) :
    exec (.start w) s = .next (endRec (startAll (noteAllEnds (takeRec s w r)) w (getWin s w).parcel r
      (coreSet s (getWin s w).parcel (field r 16 4) (field r 20 4))
      (argBytes r (coreSet s (getWin s w).parcel (field r 16 4) (field r 20 4)).length bs)) w) := by
  rw [exec_start]
  have hb := booked_takeRec s w r
  refine record_own h ?_
  generalize (getWin s w).parcel = p at *
  unfold startStep
  rw [← hb.pcl_st p] at hst
  rw [← hb.setRefusal] at hset
  rw [← hb.reachable] at hreach
  rw [← hb.coreSet] at hne hreach hidle hread ⊢
  simp only [← hb.getCtx, ← hb.getCore] at hidle
  simp only [← hb.farRead] at hread
  generalize takeRec s w r = u at *
  generalize coreSet u p (field r 16 4) (field r 20 4) = cs at *
  have hfree : ¬((cs.any fun c => decide ((getCtx u c (field r 24 1)).st ≠ .idle) || (getCtx u c (field r 24 1)).resetting || (getCore u c).resetting) ||
      !reachable u p cs) = true := by
    rw [hreach, Bool.not_true, Bool.or_false, List.any_eq_true]
    rintro ⟨c, hc, hbusy⟩
    obtain ⟨h1, h2, h3⟩ := hidle c hc
    rw [h1, h2, h3] at hbusy
    cases hbusy
  have hreads := argReads_ok (s := noteAllEnds u) (fun i hi => ((booked_noteAllEnds u).farRead ..).trans (hread i hi)) hne
  rw [if_neg (by rw [hok]; exact Bool.false_ne_true), if_neg hst, hset]
  dsimp only
  rw [if_neg hfree, hreads, argWait_ok]
  dsimp only
  rw [argData_ok]

/-- What a START leaves of a context that it starts. -/
structure Started (r : Rec) (w : Nat) (args : List Byte) (y : Ctx) : Prop where
  st : y.st = .ready
  pc : y.pc = BitVec.ofNat 64 (field r 28 4)
  aregs : y.aregs = []
  by_ : y.startedBy = some (w, recSeq r)
  sregs : ∀ q : BitVec 5, y.s q = if 1 ≤ q.toNat ∧ q.toNat ≤ 8 then BitVec.ofNat 64 (field args (8 * (q.toNat - 1)) 8) else 0

/-- How START changes the context of a rank. -/
def startRank (r : Rec) (w : Nat) (compat : Bool) (data : List (List Byte)) (i : Nat) (y : Ctx) : Ctx :=
  y.start (BitVec.ofNat 64 (field r 28 4)) (if field r 40 4 = 0 then data.headD [] else data.getD i []) compat (w, recSeq r)

theorem startRank_started (r : Rec) (w : Nat) (compat : Bool) (data : List (List Byte)) (i : Nat) (y : Ctx) :
    Started r w (if field r 40 4 = 0 then data.headD [] else data.getD i []) (startRank r w compat data i y) :=
  ⟨rfl, rfl, rfl, rfl, started_s y _ _ _ _⟩

/-- START changes contexts, and of the rest the Gatehouse alone. -/
theorem startAll_gate (s : State) (w p : Nat) (r : Rec) (cs : List Nat) (data : List (List Byte)) :
    ∃ g, startAll s w p r cs data =
      { modRanked (field r 24 1) (startRank r w (decide ((getPcl s p).compat = 1)) data) cs.zipIdx s with gate := g } := by
  unfold startAll
  dsimp only
  split
  · exact ⟨_, rfl⟩
  · exact ⟨_, rfl⟩

theorem sameMemory_modRanked (k : Nat) (f : Nat → Ctx → Ctx) (l : List (Nat × Nat)) (s : State) : SameMemory s (modRanked k f l s) :=
  foldl_keeps (P := SameMemory s) (fun u e hu => hu.trans (sameMemory_modCtx u e.1 k _)) l s (sameMemory_refl s)

/-! ### START_COMPLETION (R334) -/

theorem booked_noteEnds (s : State) (w : Nat) : Booked s (noteEnds s w) := booked_modWin ..

/-- Table 11-10's first fields of a START's completion. -/
def StartGroup.counts (g : StartGroup) : List Byte :=
  leBytes 4 0 ++ (leBytes 4 g.members.length ++ (leBytes 4 g.nonzero.length ++ leBytes 4 g.trapped))

theorem length_counts (g : StartGroup) : g.counts.length = 16 := by
  unfold StartGroup.counts
  simp only [List.length_append, leBytes_length]

theorem counts_fields (g : StartGroup) : field g.counts 4 4 = g.members.length % 2 ^ 32 ∧
    field g.counts 8 4 = g.nonzero.length % 2 ^ 32 ∧ field g.counts 12 4 = g.trapped % 2 ^ 32 := by
  have hskip (v i : Nat) (m : List Byte) (h : 4 ≤ i) : field (leBytes 4 v ++ m) i 4 = field m (i - 4) 4 := by
    rw [field_skip (by rw [leBytes_length]; exact h), leBytes_length]
  have hpow : 256 ^ 4 = 2 ^ 32 := by decide
  unfold StartGroup.counts
  rw [← hpow]
  refine ⟨?_, ?_, ?_⟩
  · rw [hskip _ _ _ (by decide), field_leBytes]
  · rw [hskip _ _ _ (by decide), hskip _ _ _ (by decide), field_leBytes]
  · rw [hskip _ _ _ (by decide), hskip _ _ _ (by decide), hskip _ _ _ (by decide), ← List.append_nil (leBytes 4 g.trapped), field_leBytes]

theorem body_counts (g : StartGroup) : ∃ m, g.body = g.counts ++ m := by
  unfold StartGroup.body StartGroup.counts
  exact ⟨leBytes 2 (g.nonzero.head?.getD (0, 0)).1 ++ ([0, 0] ++ leBytes 8 (g.nonzero.head?.getD (0, 0)).2.toNat), by simp only [List.append_assoc]⟩

/-- The group leaves its window. -/
def groupGone (s : State) (w : Nat) (g : StartGroup) : State := modWin (noteEnds s w) w fun x => { x with groups := x.groups.erase g }

/-- The bytes of a group's completion. -/
def groupRec (s : State) (w : Nat) (g : StartGroup) : List Byte :=
  recHead 1 (getWin (groupGone s w g) w).parcel stDone g.seqNo g.htag ++ g.body

theorem exec_startCompletion {w : Nat} {s : State} {g : StartGroup} (ha : alive s = true) (hw : w < 64)
    (hg : (getWin (noteEnds s w) w).groups.find? (fun g => g.members.all fun m => m.2.2.isSome) = some g) :
    ∃ p f, exec (.startCompletion w) s = .next (modPcl (emitRec (groupGone s w g) w (groupRec s w g) (g.flags.getLsbD 1)) p f) := by
  have hgo : ¬(!alive s || decide (64 ≤ w)) = true := by
    rw [ha]
    simp [hw]
  show ∃ p f, execStartCompletion w s = _
  unfold execStartCompletion
  dsimp only
  rw [hg]
  dsimp only
  rw [if_neg hgo]
  exact ⟨_, _, rfl⟩

theorem startCompletion_completes {w : Nat} {s : State} {g : StartGroup} (ha : alive s = true) (hw : w < 64)
    (hg : (getWin (noteEnds s w) w).groups.find? (fun g => g.members.all fun m => m.2.2.isSome) = some g)
    (hbl : (getWin (noteEnds s w) w).backlog = []) (hroom : ringRoom (getWin (noteEnds s w) w) = true) :
    ∃ t h, exec (.startCompletion w) s = .next t ∧ SameMemory s t ∧ (getWin t w).groups = (getWin (noteEnds s w) w).groups.erase g ∧
      t.gate.writes = s.gate.writes ++ [h] ∧ field h.bytes 0 1 = 1 ∧ field h.bytes 3 1 = 0 ∧
      field h.bytes 4 4 = g.seqNo.toNat ∧ field h.bytes 16 4 = g.members.length % 2 ^ 32 ∧
      field h.bytes 20 4 = g.nonzero.length % 2 ^ 32 ∧ field h.bytes 24 4 = g.trapped % 2 ^ 32 := by
  obtain ⟨p, f, hx⟩ := exec_startCompletion ha hw hg
  have hrun : s.pwr.stopping = false ∧ s.pwr.halt = false := by
    unfold alive at ha
    simp only [Bool.and_eq_true, Bool.not_eq_true'] at ha
    obtain ⟨⟨-, hhalt⟩, hstop⟩ := ha
    exact ⟨hstop, hhalt⟩
  have hwin : getWin (groupGone s w g) w = { getWin (noteEnds s w) w with groups := (getWin (noteEnds s w) w).groups.erase g } :=
    getWin_modWin_same ..
  have hb : Booked s (groupGone s w g) := (booked_noteEnds s w).trans (booked_modWin ..)
  have hpwr : (groupGone s w g).pwr = s.pwr := by rw [hb.state]
  have hgate : (groupGone s w g).gate.writes = s.gate.writes := rfl
  obtain ⟨m, hm⟩ := body_counts g
  have hbytes : groupRec s w g = recHead 1 (getWin (groupGone s w g) w).parcel stDone g.seqNo g.htag ++ (g.counts ++ m) := by
    unfold groupRec
    rw [hm]
  have htype : field (groupRec s w g) 0 1 ≠ 5 := by
    rw [hbytes, field_recHead_type]
    decide
  obtain ⟨-, hwrites⟩ := emitRec_writes (b := groupRec s w g) (g.flags.getLsbD 1) (by rw [hpwr]; exact hrun.1) (by rw [hpwr]; exact hrun.2)
    (by rw [hwin]; exact hbl) (by rw [hwin]; exact hroom) htype
  have hf := field_ringBytes (getWin (groupGone s w g) w) w 1 (getWin (groupGone s w g) w).parcel stDone g.seqNo g.htag
    (l := g.counts) (by rw [length_counts]; decide) m
  rw [← hbytes] at hf
  have hgroups : (getWin (emitRec (groupGone s w g) w (groupRec s w g) (g.flags.getLsbD 1)) w).groups =
      (getWin (noteEnds s w) w).groups.erase g := by
    rw [getWin_emitRec, hwin]
  have hmem := (hb.trans (booked_emitRec (groupGone s w g) w (groupRec s w g) (g.flags.getLsbD 1))).memory
  rw [hgate] at hwrites
  generalize emitRec (groupGone s w g) w (groupRec s w g) (g.flags.getLsbD 1) = u at hx hwrites hgroups hmem
  generalize groupRec s w g = b at hwrites hf
  generalize getWin (groupGone s w g) w = x at hwrites hf
  obtain ⟨h0, h3, h4, hrest⟩ := hf
  obtain ⟨hn, hz, ht⟩ := counts_fields g
  have hl := length_counts g
  refine ⟨_, ringWrite x w b (g.flags.getLsbD 1), hx, hmem.trans (sameMemory_of rfl rfl), hgroups, hwrites, h0, h3, h4, ?_, ?_, ?_⟩
  · exact (hrest 4 4 (by omega)).trans hn
  · exact (hrest 8 4 (by omega)).trans hz
  · exact (hrest 12 4 (by omega)).trans ht

/-! ### The statement -/

/-- Settles O40: each row goes through what its record comes to once it is taken; START finds every core of its set once, and
in a sound placement at a site of its own. -/
theorem coreRecordsDo : Obligations.CoreRecordsDo := by
  unfold Obligations.CoreRecordsDo
  refine ⟨fun w s r h => ?_, fun w s r h => ?_, fun w s r => ?_, fun p s hp ha hphase hstop hheld harea => ?_, fun w s r bs => ?_,
    fun w s r bs => ?_, fun w s g => ?_, fun w s r => ?_, fun w s r => ?_⟩
  · exact ⟨_, nop_finishes h, (booked_takeRec s w r).memory⟩
  · exact ⟨_, segseal_finishes h, (booked_takeRec s w r).memory⟩
  · intro p h
    refine ⟨fun hphase hst hl hq => ?_, fun hphase hfly htwin _ => ?_⟩
    · obtain ⟨t, hx, hwait, hread, -⟩ := bmark_begins h hphase hst hl fun _ => hq
      exact ⟨t, hx, hwait, hread⟩
    · obtain ⟨t, hx, he⟩ := bmark_ends h hphase hfly (by rw [htwin]; decide)
      exact ⟨t, hx, he.wait, he.bmarks⟩
  · obtain ⟨t, hx, hd⟩ := tallyWrite_delivers hp hphase ha hstop hheld harea
    exact ⟨t, hx, hd.phase, hd.thgen, hd.theo⟩
  · intro p cs h hok hst hset hreach hread
    have hb := booked_takeRec s w r
    obtain ⟨hterr, hfar⟩ := nearWrites_rest (takeRec s w r) cs (field r 32 4) bs
    refine ⟨_, loadp_loads h hok hst hset hreach hread, fun n a => ?_, fun n a => ?_, hfar.trans hb.far⟩
    · rw [nearWrites_near, hb.getSite]
      simp only [hb.csite]
      rfl
    · rw [hterr, hb.getSite]
  · intro p cs k h hpl hok hst hset hne hreach hidle hread
    have hb := (booked_takeRec s w r).trans (booked_noteAllEnds (takeRec s w r))
    have hx := start_starts h hok hst hset hne hreach hidle hread
    obtain ⟨g, hg⟩ := startAll_gate (noteAllEnds (takeRec s w r)) w p r cs (argBytes r cs.length bs)
    have hnodup : cs.Nodup := nodup_coreSet ..
    change exec (.start w) s = .next (endRec (startAll (noteAllEnds (takeRec s w r)) w p r cs (argBytes r cs.length bs)) w) at hx
    rw [hg] at hx
    generalize noteAllEnds (takeRec s w r) = v at hb hx
    generalize decide ((getPcl v p).compat = 1) = compat at hx
    have hstart (i c : Nat) (hi : cs[i]? = some c) := modRanked_ctx (k := k) (f := startRank r w compat (argBytes r cs.length bs)) (c := c) (i := i)
      cs.zipIdx v (fun a b hab => csite_inj hpl (by rw [← hb.csite, ← hb.csite b]; exact hab)) (by rw [List.zipIdx_map_fst]; exact hnodup)
      (List.mk_mem_zipIdx_iff_getElem?.2 hi)
    have hmem := hb.memory.trans (sameMemory_modRanked k (startRank r w compat (argBytes r cs.length bs)) cs.zipIdx v)
    generalize modRanked k (startRank r w compat (argBytes r cs.length bs)) cs.zipIdx v = d at hstart hmem hx
    refine ⟨_, hx, hmem.trans (sameMemory_of rfl rfl), ?_, fun i c hi => ?_⟩
    · unfold endRec
      rw [getWin_modWin_same]
    · have hlt : i < cs.length := (List.getElem?_eq_some_iff.1 hi).1
      have hs := startRank_started r w compat (argBytes r cs.length bs) i (getCtx v c k)
      rw [argBytes_rank hread hlt, ← hstart i c hi] at hs
      exact ⟨hs.st, hs.pc, hs.aregs, hs.by_, hs.sregs⟩
  · intro u x ha hw hg hbl hroom
    exact startCompletion_completes ha hw hg hbl hroom
  · intro p h
    have hb := booked_takeRec s w r
    refine ⟨_, operand_stages h, hb.memory.trans (sameMemory_stageOperands ..), fun key => ?_⟩
    have hsame : stagedVal (takeRec s w r) p key = stagedVal s p key := by
      unfold stagedVal
      rw [hb.pcl]
    have hval := stagedVal_operand_record r p (takeRec s w r) key
    rw [hsame] at hval
    exact hval
  · intro p off cs h hlo hhi hal hst hset hreach
    have hb := booked_takeRec s w r
    refine ⟨_, mcreg_sets h hlo hhi hal hst hset hreach, ?_, fun n => ?_⟩
    · exact hb.memory.trans (sameMemory_setMcRegs ..)
    · rw [modCores_all (fun x => setMcReg_twice x _ _), hb.getSite]
      simp only [hb.csite]
      rfl

end Sys2Proof.Machine
end
